-- ==== Sys2Proof/Word.lean ====
section
/-!
DEFINITION. Words, bytes and sparse tables.

A register or address of the AQ8 is a 64-bit word (R90, R115), an instruction word has 32 bits (R176, R190) and a
unit of storage is a byte (R5).  A table with a default value holds only the keys that were written, in rising order.
-/

namespace Sys2Proof

/-- A 64-bit register value (R90). -/
abbrev Word := BitVec 64

/-- One byte of storage (R5). -/
abbrev Byte := BitVec 8

/-- A 32-bit instruction word of either stream (R176, R190). -/
abbrev IWord := BitVec 32

/-- A register number (R177, R192). -/
abbrev RegNo := BitVec 5

/-- A table from numbers to values; a number that is not listed has the table's default value. -/
abbrev Table (α : Type) := List (Nat × α)

/-- The value of key `k`, `d` where it is not listed. -/
def look {α : Type} (d : α) : Table α → Nat → α
  | [], _ => d
  | (j, v) :: m, k => if j = k then v else look d m k

/-- Key `k` set to `v`; the keys stay in rising order. -/
def put {α : Type} : Table α → Nat → α → Table α
  | [], k, v => [(k, v)]
  | (j, w) :: m, k, v =>
    if k < j then (k, v) :: (j, w) :: m
    else if j = k then (k, v) :: m
    else (j, w) :: put m k v

/-- Key `k` taken out of the table. -/
def del {α : Type} (m : Table α) (k : Nat) : Table α :=
  m.filter (fun e => !(e.1 == k))

/-- A number added to a set that is held as a rising list. -/
def setIns : List Nat → Nat → List Nat
  | [], k => [k]
  | j :: m, k => if k < j then k :: j :: m else if j = k then j :: m else j :: setIns m k

/-- A number taken out of a set. -/
def setDel (m : List Nat) (k : Nat) : List Nat := m.filter (fun j => !(j == k))

/-- The element at a position of a list, with a default. -/
def nth {α : Type} (d : α) : List α → Nat → α
  | [], _ => d
  | a :: _, 0 => a
  | _ :: l, n + 1 => nth d l n

/-- One position of a list replaced; a position past its end changes nothing. -/
def setNth {α : Type} : List α → Nat → α → List α
  | [], _, _ => []
  | _ :: l, 0, v => v :: l
  | a :: l, n + 1, v => a :: setNth l n v

end Sys2Proof
end

