-- ==== Sys2Proof/Syntax.lean ====
section
/-!
DEFINITION. The instructions and steps of the AQ8: one constructor for each row of spec/opcode_table.json.

The first part holds the Zavan-C words of control threads (R176-R189), the second the Zavan-W words of micro-threads
(R190-R194), whose common header is `WHdr`, and the third the steps of the other agents, which have no encoding: the
table gives them no fields, so which unit takes such a step and what comes to it from outside the module is held in the
state (`StepArg`).
-/

namespace Sys2Proof

/-- The bits every Zavan-W word has: block end E, and the guard (N, gp) (R190, R191). -/
structure WHdr where
  e : BitVec 1
  n : BitVec 1
  gp : BitVec 7
  deriving DecidableEq, Repr

/-- The rows of the opcode table. -/
inductive Instr where
  /-- `add`, R210: Writes ra + rb modulo 2^64 to rd. -/
  | add (rd : RegNo) (ra : RegNo) (rb : RegNo)
  /-- `sub`, R210: Writes ra - rb modulo 2^64 to rd. -/
  | sub (rd : RegNo) (ra : RegNo) (rb : RegNo)
  /-- `and`, R210: Writes the bitwise AND of ra and rb to rd. -/
  | and_ (rd : RegNo) (ra : RegNo) (rb : RegNo)
  /-- `or`, R210: Writes the bitwise OR of ra and rb to rd. -/
  | or_ (rd : RegNo) (ra : RegNo) (rb : RegNo)
  /-- `xor`, R210: Writes the bitwise exclusive OR of ra and rb to rd. -/
  | xor_ (rd : RegNo) (ra : RegNo) (rb : RegNo)
  /-- `andn`, R210: Writes ra AND NOT rb to rd. -/
  | andn (rd : RegNo) (ra : RegNo) (rb : RegNo)
  /-- `orn`, R210: Writes ra OR NOT rb to rd. -/
  | orn (rd : RegNo) (ra : RegNo) (rb : RegNo)
  /-- `xnor`, R210: Writes NOT (ra XOR rb) to rd. -/
  | xnor (rd : RegNo) (ra : RegNo) (rb : RegNo)
  /-- `sll`, R210: Shifts ra left by rb mod 64 into rd. -/
  | sll (rd : RegNo) (ra : RegNo) (rb : RegNo)
  /-- `srl`, R210: Shifts ra logically right by rb mod 64 into rd. -/
  | srl (rd : RegNo) (ra : RegNo) (rb : RegNo)
  /-- `sra`, R210: Shifts ra arithmetically right by rb mod 64 into rd. -/
  | sra (rd : RegNo) (ra : RegNo) (rb : RegNo)
  /-- `rol`, R210: Rotates ra left by rb mod 64 into rd. -/
  | rol (rd : RegNo) (ra : RegNo) (rb : RegNo)
  /-- `ror`, R210: Rotates ra right by rb mod 64 into rd. -/
  | ror (rd : RegNo) (ra : RegNo) (rb : RegNo)
  /-- `slt`, R210: Writes 1 to rd when ra < rb signed, else 0. -/
  | slt (rd : RegNo) (ra : RegNo) (rb : RegNo)
  /-- `sltu`, R210: Writes 1 to rd when ra < rb unsigned, else 0. -/
  | sltu (rd : RegNo) (ra : RegNo) (rb : RegNo)
  /-- `seq`, R210: Writes 1 to rd when ra equals rb, else 0. -/
  | seq (rd : RegNo) (ra : RegNo) (rb : RegNo)
  /-- `sne`, R210: Writes 1 to rd when ra differs from rb, else 0. -/
  | sne (rd : RegNo) (ra : RegNo) (rb : RegNo)
  /-- `min`, R210: Writes the signed minimum of ra and rb to rd. -/
  | min_ (rd : RegNo) (ra : RegNo) (rb : RegNo)
  /-- `max`, R210: Writes the signed maximum of ra and rb to rd. -/
  | max_ (rd : RegNo) (ra : RegNo) (rb : RegNo)
  /-- `minu`, R210: Writes the unsigned minimum of ra and rb to rd. -/
  | minu (rd : RegNo) (ra : RegNo) (rb : RegNo)
  /-- `maxu`, R210: Writes the unsigned maximum of ra and rb to rd. -/
  | maxu (rd : RegNo) (ra : RegNo) (rb : RegNo)
  /-- `clz`, R210: Writes the count of leading zero bits of ra to rd, 64 for zero. -/
  | clz (rd : RegNo) (ra : RegNo)
  /-- `ctz`, R210: Writes the count of trailing zero bits of ra to rd, 64 for zero. -/
  | ctz (rd : RegNo) (ra : RegNo)
  /-- `popc`, R210: Writes the count of one bits of ra to rd. -/
  | popc (rd : RegNo) (ra : RegNo)
  /-- `sextb`, R210: Writes ra bits 7:0 sign-extended to rd. -/
  | sextb (rd : RegNo) (ra : RegNo)
  /-- `sexth`, R210: Writes ra bits 15:0 sign-extended to rd. -/
  | sexth (rd : RegNo) (ra : RegNo)
  /-- `sextw`, R210: Writes ra bits 31:0 sign-extended to rd. -/
  | sextw (rd : RegNo) (ra : RegNo)
  /-- `addi`, R210: Writes ra plus the sign-extended immediate to rd. -/
  | addi (rd : RegNo) (ra : RegNo) (imm : BitVec 12)
  /-- `andi`, R210: Writes ra AND the sign-extended immediate to rd. -/
  | andi (rd : RegNo) (ra : RegNo) (imm : BitVec 12)
  /-- `ori`, R210: Writes ra OR the sign-extended immediate to rd. -/
  | ori (rd : RegNo) (ra : RegNo) (imm : BitVec 12)
  /-- `xori`, R210: Writes ra XOR the sign-extended immediate to rd. -/
  | xori (rd : RegNo) (ra : RegNo) (imm : BitVec 12)
  /-- `slli`, R210: Shifts ra left by the immediate shift into rd. -/
  | slli (rd : RegNo) (ra : RegNo) (sh : BitVec 6)
  /-- `srli`, R210: Shifts ra logically right by the immediate shift into rd. -/
  | srli (rd : RegNo) (ra : RegNo) (sh : BitVec 6)
  /-- `srai`, R210: Shifts ra arithmetically right by the immediate shift into rd. -/
  | srai (rd : RegNo) (ra : RegNo) (sh : BitVec 6)
  /-- `rori`, R210: Rotates ra right by the immediate shift into rd. -/
  | rori (rd : RegNo) (ra : RegNo) (sh : BitVec 6)
  /-- `slti`, R210: Writes 1 to rd when ra is below the immediate, signed. -/
  | slti (rd : RegNo) (ra : RegNo) (imm : BitVec 12)
  /-- `sltiu`, R210: Writes 1 to rd when ra is below the sign-extended immediate, unsigned. -/
  | sltiu (rd : RegNo) (ra : RegNo) (imm : BitVec 12)
  /-- `seqi`, R210: Writes 1 to rd when ra equals the immediate. -/
  | seqi (rd : RegNo) (ra : RegNo) (imm : BitVec 12)
  /-- `mul`, R212: Writes the low 64 bits of ra times rb to rd. -/
  | mul (rd : RegNo) (ra : RegNo) (rb : RegNo)
  /-- `mulh`, R212: Writes the high 64 bits of the signed product to rd. -/
  | mulh (rd : RegNo) (ra : RegNo) (rb : RegNo)
  /-- `mulhu`, R212: Writes the high 64 bits of the unsigned product to rd. -/
  | mulhu (rd : RegNo) (ra : RegNo) (rb : RegNo)
  /-- `mulhsu`, R212: Writes the high 64 bits of signed ra times unsigned rb to rd. -/
  | mulhsu (rd : RegNo) (ra : RegNo) (rb : RegNo)
  /-- `div`, R212: Writes the signed quotient truncated toward zero, with R97 cases setting IZ. -/
  | div (rd : RegNo) (ra : RegNo) (rb : RegNo)
  /-- `divu`, R212: Writes the unsigned quotient, all ones on division by zero with IZ. -/
  | divu (rd : RegNo) (ra : RegNo) (rb : RegNo)
  /-- `rem`, R212: Writes the signed remainder with the sign of the dividend. -/
  | rem (rd : RegNo) (ra : RegNo) (rb : RegNo)
  /-- `remu`, R212: Writes the unsigned remainder, the dividend on division by zero. -/
  | remu (rd : RegNo) (ra : RegNo) (rb : RegNo)
  /-- `fadd.s|fadd.d`, R214: Writes the rounded FP32 or FP64 sum of ra and rb to rd. -/
  | fadd (rd : RegNo) (ra : RegNo) (rb : RegNo) (p : BitVec 1)
  /-- `fsub.s|fsub.d`, R214: Writes the rounded difference of ra and rb to rd. -/
  | fsub (rd : RegNo) (ra : RegNo) (rb : RegNo) (p : BitVec 1)
  /-- `fmul.s|fmul.d`, R214: Writes the rounded product of ra and rb to rd. -/
  | fmul (rd : RegNo) (ra : RegNo) (rb : RegNo) (p : BitVec 1)
  /-- `fdiv.s|fdiv.d`, R214: Writes the rounded quotient of ra and rb to rd on the one-at-a-time unit. -/
  | fdiv (rd : RegNo) (ra : RegNo) (rb : RegNo) (p : BitVec 1)
  /-- `fsqrt.s|fsqrt.d`, R214: Writes the rounded square root of ra to rd. -/
  | fsqrt (rd : RegNo) (ra : RegNo) (p : BitVec 1)
  /-- `fmin.s|fmin.d`, R215: Writes the floating minimum of ra and rb to rd. -/
  | fmin (rd : RegNo) (ra : RegNo) (rb : RegNo) (p : BitVec 1)
  /-- `fmax.s|fmax.d`, R215: Writes the floating maximum of ra and rb to rd. -/
  | fmax (rd : RegNo) (ra : RegNo) (rb : RegNo) (p : BitVec 1)
  /-- `fabs.s|fabs.d`, R215: Clears the sign bit of ra into rd, setting no flag. -/
  | fabs (rd : RegNo) (ra : RegNo) (p : BitVec 1)
  /-- `fneg.s|fneg.d`, R215: Flips the sign bit of ra into rd, setting no flag. -/
  | fneg (rd : RegNo) (ra : RegNo) (p : BitVec 1)
  /-- `fmadd.s|fmadd.d`, R214: Writes round(ra*rb + rd) to rd. -/
  | fmadd (rd : RegNo) (ra : RegNo) (rb : RegNo) (p : BitVec 1)
  /-- `fmsub.s|fmsub.d`, R214: Writes round(ra*rb - rd) to rd. -/
  | fmsub (rd : RegNo) (ra : RegNo) (rb : RegNo) (p : BitVec 1)
  /-- `fnmadd.s|fnmadd.d`, R214: Writes round(-(ra*rb) + rd) to rd. -/
  | fnmadd (rd : RegNo) (ra : RegNo) (rb : RegNo) (p : BitVec 1)
  /-- `fnmsub.s|fnmsub.d`, R214: Writes round(-(ra*rb) - rd) to rd. -/
  | fnmsub (rd : RegNo) (ra : RegNo) (rb : RegNo) (p : BitVec 1)
  /-- `feq.s|feq.d`, R215: Writes 1 to rd when ra equals rb as floating values. -/
  | feq (rd : RegNo) (ra : RegNo) (rb : RegNo) (p : BitVec 1)
  /-- `flt.s|flt.d`, R215: Writes 1 to rd when ra < rb, NV on any NaN. -/
  | flt (rd : RegNo) (ra : RegNo) (rb : RegNo) (p : BitVec 1)
  /-- `fle.s|fle.d`, R215: Writes 1 to rd when ra <= rb, NV on any NaN. -/
  | fle (rd : RegNo) (ra : RegNo) (rb : RegNo) (p : BitVec 1)
  /-- `fcvt.l.s|fcvt.l.d`, R217: Converts the float in ra to INT64 in rd. -/
  | fcvtL (rd : RegNo) (ra : RegNo) (p : BitVec 1)
  /-- `fcvt.lu.s|fcvt.lu.d`, R217: Converts the float in ra to n64 in rd. -/
  | fcvtLu (rd : RegNo) (ra : RegNo) (p : BitVec 1)
  /-- `fcvt.s.l|fcvt.d.l`, R217: Converts INT64 ra to float in rd. -/
  | fcvtFromL (rd : RegNo) (ra : RegNo) (p : BitVec 1)
  /-- `fcvt.s.lu|fcvt.d.lu`, R217: Converts n64 ra to float in rd. -/
  | fcvtFromLu (rd : RegNo) (ra : RegNo) (p : BitVec 1)
  /-- `fcvt.w.s|fcvt.w.d`, R217: Converts the float in ra to INT32 sign-extended in rd. -/
  | fcvtW (rd : RegNo) (ra : RegNo) (p : BitVec 1)
  /-- `fcvt.wu.s|fcvt.wu.d`, R217: Converts the float in ra to n32 zero-extended in rd. -/
  | fcvtWu (rd : RegNo) (ra : RegNo) (p : BitVec 1)
  /-- `fcvt.s.w|fcvt.d.w`, R217: Converts INT32 ra bits 31:0 to float in rd. -/
  | fcvtFromW (rd : RegNo) (ra : RegNo) (p : BitVec 1)
  /-- `fcvt.s.wu|fcvt.d.wu`, R217: Converts n32 ra bits 31:0 to float in rd. -/
  | fcvtFromWu (rd : RegNo) (ra : RegNo) (p : BitVec 1)
  /-- `fcvt.d.s`, R217: Widens FP32 ra to FP64 rd exactly. -/
  | fcvtDS (rd : RegNo) (ra : RegNo)
  /-- `fcvt.s.d`, R217: Narrows FP64 ra to FP32 rd under the FP32 row of R106. -/
  | fcvtSD (rd : RegNo) (ra : RegNo)
  /-- `fclass.s|fclass.d`, R216: Writes the one-hot class mask of ra to rd. -/
  | fclass (rd : RegNo) (ra : RegNo) (p : BitVec 1)
  /-- `lb`, R219: Loads a byte at ra + imm, sign-extended, into rd. -/
  | lb (rd : RegNo) (ra : RegNo) (imm : BitVec 12)
  /-- `lh`, R219: Loads a halfword, sign-extended, into rd. -/
  | lh (rd : RegNo) (ra : RegNo) (imm : BitVec 12)
  /-- `lw`, R219: Loads a word, sign-extended, into rd. -/
  | lw (rd : RegNo) (ra : RegNo) (imm : BitVec 12)
  /-- `ld`, R219: Loads a doubleword into rd after verifying its carried check. -/
  | ld (rd : RegNo) (ra : RegNo) (imm : BitVec 12)
  /-- `lbu`, R219: Loads a byte, zero-extended, into rd. -/
  | lbu (rd : RegNo) (ra : RegNo) (imm : BitVec 12)
  /-- `lhu`, R219: Loads a halfword, zero-extended, into rd. -/
  | lhu (rd : RegNo) (ra : RegNo) (imm : BitVec 12)
  /-- `lwu`, R219: Loads a word, zero-extended, into rd. -/
  | lwu (rd : RegNo) (ra : RegNo) (imm : BitVec 12)
  /-- `sb`, R220: Stores the low byte of rb at ra + imm by read-check-merge-regenerate. -/
  | sb (ra : RegNo) (rb : RegNo) (imm : BitVec 12)
  /-- `sh`, R220: Stores the low halfword of rb. -/
  | sh (ra : RegNo) (rb : RegNo) (imm : BitVec 12)
  /-- `sw`, R220: Stores the low word of rb. -/
  | sw (ra : RegNo) (rb : RegNo) (imm : BitVec 12)
  /-- `sd`, R220: Stores rb as a doubleword, producing its carried check. -/
  | sd (ra : RegNo) (rb : RegNo) (imm : BitVec 12)
  /-- `amoadd.w|amoadd.d`, R222: Atomically adds rb to memory at ra at the home slice, returning the old value. -/
  | amoadd (rd : RegNo) (ra : RegNo) (rb : RegNo) (d : BitVec 1)
  /-- `amoswap.w|amoswap.d`, R222: Atomically swaps rb with memory at ra. -/
  | amoswap (rd : RegNo) (ra : RegNo) (rb : RegNo) (d : BitVec 1)
  /-- `amocas.w|amocas.d`, R222: Atomically writes rb when memory equals rd, returning the old value in rd. -/
  | amocas (rd : RegNo) (ra : RegNo) (rb : RegNo) (d : BitVec 1)
  /-- `amomin.w|amomin.d`, R222: Atomically stores the signed minimum of memory and rb. -/
  | amomin (rd : RegNo) (ra : RegNo) (rb : RegNo) (d : BitVec 1)
  /-- `amomax.w|amomax.d`, R222: Atomically stores the signed maximum of memory and rb. -/
  | amomax (rd : RegNo) (ra : RegNo) (rb : RegNo) (d : BitVec 1)
  /-- `amominu.w|amominu.d`, R222: Atomically stores the unsigned minimum of memory and rb. -/
  | amominu (rd : RegNo) (ra : RegNo) (rb : RegNo) (d : BitVec 1)
  /-- `amomaxu.w|amomaxu.d`, R222: Atomically stores the unsigned maximum of memory and rb. -/
  | amomaxu (rd : RegNo) (ra : RegNo) (rb : RegNo) (d : BitVec 1)
  /-- `amoand.w|amoand.d`, R222: Atomically ANDs rb into memory. -/
  | amoand (rd : RegNo) (ra : RegNo) (rb : RegNo) (d : BitVec 1)
  /-- `amoor.w|amoor.d`, R222: Atomically ORs rb into memory. -/
  | amoor (rd : RegNo) (ra : RegNo) (rb : RegNo) (d : BitVec 1)
  /-- `beq`, R224: Branches when ra equals rb. -/
  | beq (ra : RegNo) (rb : RegNo) (imm : BitVec 12)
  /-- `bne`, R224: Branches when ra differs from rb. -/
  | bne (ra : RegNo) (rb : RegNo) (imm : BitVec 12)
  /-- `blt`, R224: Branches when ra < rb signed. -/
  | blt (ra : RegNo) (rb : RegNo) (imm : BitVec 12)
  /-- `bge`, R224: Branches when ra >= rb signed. -/
  | bge (ra : RegNo) (rb : RegNo) (imm : BitVec 12)
  /-- `bltu`, R224: Branches when ra < rb unsigned. -/
  | bltu (ra : RegNo) (rb : RegNo) (imm : BitVec 12)
  /-- `bgeu`, R224: Branches when ra >= rb unsigned. -/
  | bgeu (ra : RegNo) (rb : RegNo) (imm : BitVec 12)
  /-- `jal`, R224: Writes pc + 4 to rd and jumps by the word offset. -/
  | jal (rd : RegNo) (imm : BitVec 22)
  /-- `lui`, R211: Writes sext(imm22)*2^12 to rd. -/
  | lui (rd : RegNo) (imm : BitVec 22)
  /-- `auipc`, R211: Writes pc + sext(imm22)*2^12 to rd. -/
  | auipc (rd : RegNo) (imm : BitVec 22)
  /-- `jalr`, R224: Jumps to ra + imm with bits 1:0 cleared and writes pc + 4 to rd. -/
  | jalr (rd : RegNo) (ra : RegNo) (imm : BitVec 12)
  /-- `callt`, R225: Loads the function table count and entry, checks index and signature, then calls the entry. -/
  | callt (rd : RegNo) (ra : RegNo) (rb : RegNo)
  /-- `loop`, R226: Pushes a hardware loop entry with count ra, or skips the body when ra is 0. -/
  | loop_ (ra : RegNo) (imm : BitVec 12)
  /-- `csrr`, R228: Reads a status register into rd. -/
  | csrr (rd : RegNo) (idx : BitVec 12)
  /-- `csrw`, R228: Writes ra to a status register, leaving fields read-only at the level unchanged. -/
  | csrw (ra : RegNo) (idx : BitVec 12)
  /-- `csrs`, R228: Sets the bits of ra in a status register as one read-modify-write. -/
  | csrs (ra : RegNo) (idx : BitVec 12)
  /-- `csrc`, R228: Clears the bits of ra in a status register as one read-modify-write. -/
  | csrc (ra : RegNo) (idx : BitVec 12)
  /-- `setvl`, R70: Drains the crew, records the lane request, and changes vl under the grant, parking for the Ostler when needed. -/
  | setvl (rd : RegNo) (ra : RegNo)
  /-- `vfetch`, R256: Checks the block address and takes a sequencer entry broadcasting the block once. -/
  | vfetch (ra : RegNo)
  /-- `vloop`, R256: Takes a sequencer entry broadcasting the block rb times. -/
  | vloop (ra : RegNo) (rb : RegNo)
  /-- `vsync`, R257: Parks until the sequencer is empty and every micro-thread has stopped. -/
  | vsync (rd : RegNo)
  /-- `vget`, R258: Reads one item of micro-thread ra into rd after its earlier blocks. -/
  | vget (rd : RegNo) (ra : RegNo) (item : BitVec 8)
  /-- `vput`, R258: Writes rb into one item of micro-thread ra. -/
  | vput (ra : RegNo) (rb : RegNo) (item : BitVec 8)
  /-- `vsetc`, R259: Writes ra to a crew-shared register for entries taken later. -/
  | vsetc (ra : RegNo) (cn : BitVec 3)
  /-- `vld`, R260: Loads one unit-stride element per micro-thread into wd. -/
  | vld (wd : RegNo) (ra : RegNo) (u : BitVec 1) (w : BitVec 2)
  /-- `vst`, R260: Stores wd of each micro-thread at unit stride. -/
  | vst (wd : RegNo) (ra : RegNo) (w : BitVec 2)
  /-- `vlds`, R260: Loads one element per micro-thread at byte stride rb. -/
  | vlds (wd : RegNo) (ra : RegNo) (rb : RegNo) (u : BitVec 1) (w : BitVec 2)
  /-- `vsts`, R260: Stores one element per micro-thread at byte stride rb. -/
  | vsts (wd : RegNo) (ra : RegNo) (rb : RegNo) (w : BitVec 2)
  /-- `vldx`, R260: Loads one element per micro-thread at offsets in wi through the Gleaners. -/
  | vldx (wd : RegNo) (ra : RegNo) (wi : RegNo) (u : BitVec 1) (w : BitVec 2)
  /-- `vstx`, R260: Stores one element per micro-thread at offsets in wi. -/
  | vstx (wd : RegNo) (ra : RegNo) (wi : RegNo) (w : BitVec 2)
  /-- `vldb`, R198: Retired broadcast load; traps to Fw, which writes one doubleword to wd of every micro-thread. -/
  | vldb (wd : RegNo) (ra : RegNo)
  /-- `ecfg`, R264: Writes ra to a geometry register of the stream, Gleaner or Loom. -/
  | ecfg (ra : RegNo) (eng : BitVec 3) (n : BitVec 4)
  /-- `erd`, R264: Reads a geometry register into rd. -/
  | erd (rd : RegNo) (eng : BitVec 3) (n : BitVec 4)
  /-- `ewait`, R270: Parks until every crew job numbered at most ra has completed or stopped. -/
  | ewait (ra : RegNo)
  /-- `stream`, R266: Performs an elementwise memory-to-memory operation on the crew's lanes. -/
  | stream (ra : RegNo) (rb : RegNo)
  /-- `copyj`, R271: Reads a copy job card and submits the job to the cluster job queue. -/
  | copyj (rd : RegNo) (ra : RegNo) (rb : RegNo)
  /-- `gleanj`, R275: Submits a Gleaner gather or scatter job built from gg0-gg15. -/
  | gleanj (rd : RegNo) (ra : RegNo) (rb : RegNo)
  /-- `lclaim`, R277: Claims the lowest free run of operand slots and writes its range. -/
  | lclaim (rd : RegNo) (ra : RegNo)
  /-- `lrelease`, R277: Releases a claimed slot range once overlapping jobs complete. -/
  | lrelease (ra : RegNo)
  /-- `lzero`, R280: Submits a Loom job zeroing the selected accumulator banks. -/
  | lzero (ra : RegNo)
  /-- `lmma.o`, R281: Submits a Loom product job summed chunk by chunk in order. -/
  | lmmaO (ra : RegNo) (rb : RegNo)
  /-- `lmma.r`, R281: Submits a Loom product job summed through partial sums. -/
  | lmmaR (ra : RegNo) (rb : RegNo)
  /-- `ldrain`, R282: After earlier Loom jobs, stores an accumulator bank as a tile and returns the Loom flags. -/
  | ldrain (rd : RegNo) (ra : RegNo)
  /-- `fence`, R286: Parks until posted stores and jobs inside the scope have landed. -/
  | fence (ra : RegNo)
  /-- `barr`, R289: Fences the scope and arrives at the hardware rectangle barrier. -/
  | barr (ra : RegNo)
  /-- `vote`, R291: Arrives with a value to be combined over the gang. -/
  | vote (rd : RegNo) (ra : RegNo) (comb : BitVec 3)
  /-- `abortq`, R293: Writes the crew's abort-seen flag to rd. -/
  | abortq (rd : RegNo)
  /-- `wait`, R294: Loads the watched doubleword and parks while it equals rb. -/
  | wait (ra : RegNo) (rb : RegNo)
  /-- `wake`, R295: Releases every context parked in wait on the same physical doubleword. -/
  | wake (ra : RegNo)
  /-- `lpatch`, R298: Sends a patch of one launch record field to the hub and waits for its reply. -/
  | lpatch (ra : RegNo) (rb : RegNo) (field : BitVec 3)
  /-- `larm`, R299: Fences the whole mesh and submits a launch record to the hub. -/
  | larm (ra : RegNo)
  /-- `halt`, R301: Drains the crew and its stores, releases slots and lanes, and ends the context. -/
  | halt (ra : RegNo)
  /-- `trap`, R302: Completes and raises the software trap with its code. -/
  | trap (code : BitVec 8)
  /-- `discover`, R306: Writes the capability record at index ra to rd. -/
  | discover (rd : RegNo) (ra : RegNo)
  /-- `add`, R236: Micro-thread wd := wa + wb. -/
  | wAdd (hd : WHdr) (wd : RegNo) (wa : RegNo) (wb : RegNo)
  /-- `sub`, R236: Micro-thread wd := wa - wb. -/
  | wSub (hd : WHdr) (wd : RegNo) (wa : RegNo) (wb : RegNo)
  /-- `min`, R236: Micro-thread signed minimum. -/
  | wMin (hd : WHdr) (wd : RegNo) (wa : RegNo) (wb : RegNo)
  /-- `max`, R236: Micro-thread signed maximum. -/
  | wMax (hd : WHdr) (wd : RegNo) (wa : RegNo) (wb : RegNo)
  /-- `and`, R236: Micro-thread bitwise AND. -/
  | wAnd (hd : WHdr) (wd : RegNo) (wa : RegNo) (wb : RegNo)
  /-- `or`, R236: Micro-thread bitwise OR. -/
  | wOr (hd : WHdr) (wd : RegNo) (wa : RegNo) (wb : RegNo)
  /-- `xor`, R236: Micro-thread bitwise exclusive OR. -/
  | wXor (hd : WHdr) (wd : RegNo) (wa : RegNo) (wb : RegNo)
  /-- `andn`, R236: Micro-thread wa AND NOT wb. -/
  | wAndn (hd : WHdr) (wd : RegNo) (wa : RegNo) (wb : RegNo)
  /-- `sll`, R236: Micro-thread shift left by wb mod 64. -/
  | wSll (hd : WHdr) (wd : RegNo) (wa : RegNo) (wb : RegNo)
  /-- `srl`, R236: Micro-thread logical shift right. -/
  | wSrl (hd : WHdr) (wd : RegNo) (wa : RegNo) (wb : RegNo)
  /-- `sra`, R236: Micro-thread arithmetic shift right. -/
  | wSra (hd : WHdr) (wd : RegNo) (wa : RegNo) (wb : RegNo)
  /-- `ror`, R236: Micro-thread rotate right. -/
  | wRor (hd : WHdr) (wd : RegNo) (wa : RegNo) (wb : RegNo)
  /-- `mul`, R236: Micro-thread low 64-bit product. -/
  | wMul (hd : WHdr) (wd : RegNo) (wa : RegNo) (wb : RegNo)
  /-- `mulh`, R236: Micro-thread signed high product. -/
  | wMulh (hd : WHdr) (wd : RegNo) (wa : RegNo) (wb : RegNo)
  /-- `mulhu`, R236: Micro-thread unsigned high product. -/
  | wMulhu (hd : WHdr) (wd : RegNo) (wa : RegNo) (wb : RegNo)
  /-- `mulhsu`, R236: Micro-thread signed-by-unsigned high product. -/
  | wMulhsu (hd : WHdr) (wd : RegNo) (wa : RegNo) (wb : RegNo)
  /-- `div`, R236: Micro-thread signed division under R97. -/
  | wDiv (hd : WHdr) (wd : RegNo) (wa : RegNo) (wb : RegNo)
  /-- `divu`, R236: Micro-thread unsigned division. -/
  | wDivu (hd : WHdr) (wd : RegNo) (wa : RegNo) (wb : RegNo)
  /-- `rem`, R236: Micro-thread signed remainder. -/
  | wRem (hd : WHdr) (wd : RegNo) (wa : RegNo) (wb : RegNo)
  /-- `remu`, R236: Micro-thread unsigned remainder. -/
  | wRemu (hd : WHdr) (wd : RegNo) (wa : RegNo) (wb : RegNo)
  /-- `minu`, R236: Micro-thread unsigned minimum. -/
  | wMinu (hd : WHdr) (wd : RegNo) (wa : RegNo) (wb : RegNo)
  /-- `maxu`, R236: Micro-thread unsigned maximum. -/
  | wMaxu (hd : WHdr) (wd : RegNo) (wa : RegNo) (wb : RegNo)
  /-- `addi`, R236: Micro-thread adds a signed 7-bit immediate. -/
  | wAddi (hd : WHdr) (wd : RegNo) (wa : RegNo) (imm : BitVec 7)
  /-- `slli`, R236: Micro-thread shift left by an immediate. -/
  | wSlli (hd : WHdr) (wd : RegNo) (wa : RegNo) (sh : BitVec 6)
  /-- `srli`, R236: Micro-thread logical shift right by an immediate. -/
  | wSrli (hd : WHdr) (wd : RegNo) (wa : RegNo) (sh : BitVec 6)
  /-- `srai`, R236: Micro-thread arithmetic shift right by an immediate. -/
  | wSrai (hd : WHdr) (wd : RegNo) (wa : RegNo) (sh : BitVec 6)
  /-- `movi`, R236: Micro-thread writes a signed 12-bit immediate. -/
  | wMovi (hd : WHdr) (wd : RegNo) (imm : BitVec 12)
  /-- `ceq`, R237: Writes a predicate: wa equals wb. -/
  | wCeq (hd : WHdr) (pd : RegNo) (wa : RegNo) (wb : RegNo) (bank : BitVec 2)
  /-- `clt`, R237: Writes a predicate: wa < wb signed. -/
  | wClt (hd : WHdr) (pd : RegNo) (wa : RegNo) (wb : RegNo) (bank : BitVec 2)
  /-- `cltu`, R237: Writes a predicate: wa < wb unsigned. -/
  | wCltu (hd : WHdr) (pd : RegNo) (wa : RegNo) (wb : RegNo) (bank : BitVec 2)
  /-- `fceq.d`, R237: Writes a predicate: FP64 equality. -/
  | wFceqD (hd : WHdr) (pd : RegNo) (wa : RegNo) (wb : RegNo) (bank : BitVec 2)
  /-- `fclt.d`, R237: Writes a predicate: FP64 less than. -/
  | wFcltD (hd : WHdr) (pd : RegNo) (wa : RegNo) (wb : RegNo) (bank : BitVec 2)
  /-- `fcle.d`, R237: Writes a predicate: FP64 less or equal. -/
  | wFcleD (hd : WHdr) (pd : RegNo) (wa : RegNo) (wb : RegNo) (bank : BitVec 2)
  /-- `fceq.s`, R237: Writes a predicate: FP32 equality on bits 31:0. -/
  | wFceqS (hd : WHdr) (pd : RegNo) (wa : RegNo) (wb : RegNo) (bank : BitVec 2)
  /-- `fclt.s`, R237: Writes a predicate: FP32 less than. -/
  | wFcltS (hd : WHdr) (pd : RegNo) (wa : RegNo) (wb : RegNo) (bank : BitVec 2)
  /-- `fcle.s`, R237: Writes a predicate: FP32 less or equal. -/
  | wFcleS (hd : WHdr) (pd : RegNo) (wa : RegNo) (wb : RegNo) (bank : BitVec 2)
  /-- `fadd.d|fadd.s2|fadd.h4|fadd.b4`, R239: Per-element rounded floating sum. -/
  | wFadd (hd : WHdr) (wd : RegNo) (wa : RegNo) (wb : RegNo) (fm : BitVec 2)
  /-- `fsub.d|fsub.s2|fsub.h4|fsub.b4`, R239: Per-element rounded floating difference. -/
  | wFsub (hd : WHdr) (wd : RegNo) (wa : RegNo) (wb : RegNo) (fm : BitVec 2)
  /-- `fmul.d|fmul.s2|fmul.h4|fmul.b4`, R239: Per-element rounded floating product. -/
  | wFmul (hd : WHdr) (wd : RegNo) (wa : RegNo) (wb : RegNo) (fm : BitVec 2)
  /-- `fma.d|fma.s2|fma.h4|fma.b4`, R239: Per-element round(wa*wb + wd). -/
  | wFma (hd : WHdr) (wd : RegNo) (wa : RegNo) (wb : RegNo) (fm : BitVec 2)
  /-- `fms.d|fms.s2|fms.h4|fms.b4`, R239: Per-element round(wa*wb - wd). -/
  | wFms (hd : WHdr) (wd : RegNo) (wa : RegNo) (wb : RegNo) (fm : BitVec 2)
  /-- `fnma.d|fnma.s2|fnma.h4|fnma.b4`, R239: Per-element round(-(wa*wb) + wd). -/
  | wFnma (hd : WHdr) (wd : RegNo) (wa : RegNo) (wb : RegNo) (fm : BitVec 2)
  /-- `fnms.d|fnms.s2|fnms.h4|fnms.b4`, R239: Per-element round(-(wa*wb) - wd). -/
  | wFnms (hd : WHdr) (wd : RegNo) (wa : RegNo) (wb : RegNo) (fm : BitVec 2)
  /-- `fdiv.d|fdiv.s2|fdiv.h4|fdiv.b4`, R239: Per-element rounded floating quotient. -/
  | wFdiv (hd : WHdr) (wd : RegNo) (wa : RegNo) (wb : RegNo) (fm : BitVec 2)
  /-- `fsqrt.d|fsqrt.s2|fsqrt.h4|fsqrt.b4`, R239: Per-element rounded square root. -/
  | wFsqrt (hd : WHdr) (wd : RegNo) (wa : RegNo) (fm : BitVec 2)
  /-- `fmin.d|fmin.s2|fmin.h4|fmin.b4`, R239: Per-element floating minimum. -/
  | wFmin (hd : WHdr) (wd : RegNo) (wa : RegNo) (wb : RegNo) (fm : BitVec 2)
  /-- `fmax.d|fmax.s2|fmax.h4|fmax.b4`, R239: Per-element floating maximum. -/
  | wFmax (hd : WHdr) (wd : RegNo) (wa : RegNo) (wb : RegNo) (fm : BitVec 2)
  /-- `fabs.d|fabs.s2|fabs.h4|fabs.b4`, R239: Per-element sign clear. -/
  | wFabs (hd : WHdr) (wd : RegNo) (wa : RegNo) (fm : BitVec 2)
  /-- `fneg.d|fneg.s2|fneg.h4|fneg.b4`, R239: Per-element sign flip. -/
  | wFneg (hd : WHdr) (wd : RegNo) (wa : RegNo) (fm : BitVec 2)
  /-- `exp2.s2|exp2.h4`, R240: Per-element correctly rounded 2^x. -/
  | wExp2 (hd : WHdr) (wd : RegNo) (wa : RegNo) (fm : BitVec 2)
  /-- `log2.s2|log2.h4`, R240: Per-element correctly rounded log2 x. -/
  | wLog2 (hd : WHdr) (wd : RegNo) (wa : RegNo) (fm : BitVec 2)
  /-- `rcp.s2|rcp.h4`, R240: Per-element correctly rounded 1/x. -/
  | wRcp (hd : WHdr) (wd : RegNo) (wa : RegNo) (fm : BitVec 2)
  /-- `rsqrt.s2|rsqrt.h4`, R240: Per-element correctly rounded 1/sqrt x. -/
  | wRsqrt (hd : WHdr) (wd : RegNo) (wa : RegNo) (fm : BitVec 2)
  /-- `cvth.s.d`, R241: Narrows two FP64 values to FP32x2. -/
  | wCvthSD (hd : WHdr) (wd : RegNo) (wa : RegNo) (wb : RegNo)
  /-- `cvth.h.s`, R241: Narrows four FP32 elements to FP16x4. -/
  | wCvthHS (hd : WHdr) (wd : RegNo) (wa : RegNo) (wb : RegNo)
  /-- `cvth.b.s`, R241: Narrows four FP32 elements to BF16x4. -/
  | wCvthBS (hd : WHdr) (wd : RegNo) (wa : RegNo) (wb : RegNo)
  /-- `cvth.t8.h`, R241: Narrows eight FP16 elements to T8x8. -/
  | wCvthT8H (hd : WHdr) (wd : RegNo) (wa : RegNo) (wb : RegNo)
  /-- `cvth.e4.h`, R241: Narrows eight FP16 elements to E4M3x8. -/
  | wCvthE4H (hd : WHdr) (wd : RegNo) (wa : RegNo) (wb : RegNo)
  /-- `cvth.e5.h`, R241: Narrows eight FP16 elements to E5M2x8. -/
  | wCvthE5H (hd : WHdr) (wd : RegNo) (wa : RegNo) (wb : RegNo)
  /-- `cvth.t6.t8`, R241: Narrows eight T8 elements to packed T6x8. -/
  | wCvthT6T8 (hd : WHdr) (wd : RegNo) (wa : RegNo)
  /-- `cvtd.d.s`, R242: Widens FP32 element h to FP64. -/
  | wCvtdDS (hd : WHdr) (wd : RegNo) (wa : RegNo) (h : BitVec 1)
  /-- `cvtd.s.h`, R242: Widens two FP16 elements to FP32x2. -/
  | wCvtdSH (hd : WHdr) (wd : RegNo) (wa : RegNo) (h : BitVec 1)
  /-- `cvtd.s.b`, R242: Widens two BF16 elements to FP32x2. -/
  | wCvtdSB (hd : WHdr) (wd : RegNo) (wa : RegNo) (h : BitVec 1)
  /-- `cvtd.h.t8`, R242: Widens four T8 elements to FP16x4. -/
  | wCvtdHT8 (hd : WHdr) (wd : RegNo) (wa : RegNo) (h : BitVec 1)
  /-- `cvtd.h.e4`, R242: Widens four E4M3 elements to FP16x4. -/
  | wCvtdHE4 (hd : WHdr) (wd : RegNo) (wa : RegNo) (h : BitVec 1)
  /-- `cvtd.h.e5`, R242: Widens four E5M2 elements to FP16x4. -/
  | wCvtdHE5 (hd : WHdr) (wd : RegNo) (wa : RegNo) (h : BitVec 1)
  /-- `cvtd.t8.t6`, R242: Widens eight T6 elements to T8x8. -/
  | wCvtdT8T6 (hd : WHdr) (wd : RegNo) (wa : RegNo)
  /-- `cvt.f4`, R243: Converts sixteen FP32 elements of wa..wa+7 to E2M1 in wd. -/
  | wCvtF4 (hd : WHdr) (wd : RegNo) (wa : RegNo)
  /-- `cvtfi.d|cvtfi.s2`, R244: Converts float to signed integer per element. -/
  | wCvtfi (hd : WHdr) (wd : RegNo) (wa : RegNo) (s : BitVec 1)
  /-- `cvtfu.d|cvtfu.s2`, R244: Converts float to unsigned integer per element. -/
  | wCvtfu (hd : WHdr) (wd : RegNo) (wa : RegNo) (s : BitVec 1)
  /-- `cvtif.d|cvtif.s2`, R244: Converts signed integer to float per element. -/
  | wCvtif (hd : WHdr) (wd : RegNo) (wa : RegNo) (s : BitVec 1)
  /-- `cvtuf.d|cvtuf.s2`, R244: Converts unsigned integer to float per element. -/
  | wCvtuf (hd : WHdr) (wd : RegNo) (wa : RegNo) (s : BitVec 1)
  /-- `pand`, R238: Predicate AND within one bank. -/
  | wPand (hd : WHdr) (pd : RegNo) (pa : RegNo) (pb : RegNo) (bank : BitVec 2)
  /-- `por`, R238: Predicate OR within one bank. -/
  | wPor (hd : WHdr) (pd : RegNo) (pa : RegNo) (pb : RegNo) (bank : BitVec 2)
  /-- `pxor`, R238: Predicate exclusive OR within one bank. -/
  | wPxor (hd : WHdr) (pd : RegNo) (pa : RegNo) (pb : RegNo) (bank : BitVec 2)
  /-- `pandn`, R238: Predicate wa AND NOT wb within one bank. -/
  | wPandn (hd : WHdr) (pd : RegNo) (pa : RegNo) (pb : RegNo) (bank : BitVec 2)
  /-- `pmov`, R238: Copies a predicate between banks. -/
  | wPmov (hd : WHdr) (pd : RegNo) (pa : RegNo) (sbank : BitVec 2) (bank : BitVec 2)
  /-- `ld.b|ld.h|ld.w|ld.d`, R245: Loads a zero-extended element at wa + wb through the vector port. -/
  | wLd (hd : WHdr) (wd : RegNo) (wa : RegNo) (wb : RegNo) (wid : BitVec 2)
  /-- `lds.b|lds.h|lds.w`, R245: Loads a sign-extended element through the vector port. -/
  | wLds (hd : WHdr) (wd : RegNo) (wa : RegNo) (wb : RegNo) (wid : BitVec 2)
  /-- `st.b|st.h|st.w|st.d`, R245: Stores the low bytes of wd at commit through the vector port. -/
  | wSt (hd : WHdr) (wd : RegNo) (wa : RegNo) (wb : RegNo) (wid : BitVec 2)
  /-- `spld`, R247: Loads a typed scratchpad element decoded by its bank format. -/
  | wSpld (hd : WHdr) (wd : RegNo) (wa : RegNo) (wb : RegNo)
  /-- `spst`, R247: Stores wd converted to the bank format into the scratchpad. -/
  | wSpst (hd : WHdr) (wd : RegNo) (wa : RegNo) (wb : RegNo)
  /-- `aadd`, R246: Atomic add at commit at the home slice, old value to wd. -/
  | wAadd (hd : WHdr) (wd : RegNo) (wa : RegNo) (wb : RegNo)
  /-- `aswap`, R246: Atomic swap at commit. -/
  | wAswap (hd : WHdr) (wd : RegNo) (wa : RegNo) (wb : RegNo)
  /-- `acas`, R246: Atomic compare-and-swap of wd against memory, new value from w(wd+1). -/
  | wAcas (hd : WHdr) (wd : RegNo) (wa : RegNo) (wb : RegNo)
  /-- `thfetch`, R248: As the last word, names the block the micro-thread fetches after commit. -/
  | wThfetch (hd : WHdr) (imm : BitVec 12)
  /-- `thfetchr`, R248: As the last word, names the block at wa to fetch after commit. -/
  | wThfetchr (hd : WHdr) (wa : RegNo)
  /-- `stop`, R249: Marks the micro-thread to become STOPPED when its block commits. -/
  | wStop (hd : WHdr)
  /-- `idx`, R250: Writes the global index vbase + local index to wd. -/
  | wIdx (hd : WHdr) (wd : RegNo)
  /-- `sel`, R251: Always executes, writing wa when the guard holds and wb otherwise. -/
  | wSel (hd : WHdr) (wd : RegNo) (wa : RegNo) (wb : RegNo)
  /-- `rng`, R253: Writes mix64 of a crew-shared key and wa + G. -/
  | wRng (hd : WHdr) (wd : RegNo) (wa : RegNo) (wb : RegNo)
  /-- `fsin.s2`, R197: Retired per-element sine, performed by firmware emulation. -/
  | wFsinS2 (hd : WHdr) (wd : RegNo) (wa : RegNo)
  /-- `fcos.s2`, R197: Retired per-element cosine, performed by firmware emulation. -/
  | wFcosS2 (hd : WHdr) (wd : RegNo) (wa : RegNo)
  /-- `pnot`, R238: Writes the inverse of a predicate. -/
  | wPnot (hd : WHdr) (pd : RegNo) (pa : RegNo) (bank : BitVec 2)
  /-- `endloop`, R226: Discards left entries, decrements the top count and loops back or pops. -/
  | endloop
  /-- `gbar`, R290: Drains the crew and its exchange work and arrives at the gang barrier. -/
  | gbar
  /-- `abort`, R292: Raises the gang's abort line in the cluster and sets abort-seen. -/
  | abort
  /-- `eret`, R373: Discards handler loop entries and returns to the saved pc and level. -/
  | eret
  /-- `upret`, R304: Ends a user-mode upcall: pc := upepc and upcall.en := 1. -/
  | upret
  /-- `irefresh`, R305: Waits for earlier writes, then discards the core's instruction cache, fetch buffers and untaken block-cache lines. -/
  | irefresh
  /-- `TLBINV_WRITE`, R133: A Sys write to tlbinv invalidates the named or all TLB entries of the core or cluster and completes when they are gone. -/
  | tlbinvWrite
  /-- `SETVL_GRANT_RETURN`, R70: A parked setvl resumes when its grant has joined, nofit is set or the restore ends, and writes the new vl. -/
  | setvlGrantReturn
  /-- `VSYNC_RETURN`, R257: Eight cycles after its condition holds, vsync writes the fault summary and the context resumes. -/
  | vsyncReturn
  /-- `VECTOR_ACCESS_DONE`, R262: A parked class 17 instruction or stream resumes its context once every element is performed. -/
  | vectorAccessDone
  /-- `EWAIT_RETURN`, R270: A parked ewait resumes when its jobs end, raising engine-job if one stopped. -/
  | ewaitReturn
  /-- `FENCE_RETURN`, R166: A parked fence resumes once its stores and jobs are applied or reported, lapsing leases. -/
  | fenceReturn
  /-- `BARRIER_COMPLETE`, R288: When every core of the scope has arrived or halted, all participants are released and flip their sense bit. -/
  | barrierComplete
  /-- `GBAR_COMPLETE`, R290: Completes the superstep on every core at once, incrementing ssn, clearing xch and lowering abort lines. -/
  | gbarComplete
  /-- `VOTE_COMPLETE`, R291: Returns the combined vote to every core, or sync-operand if combiners differ. -/
  | voteComplete
  /-- `WAIT_RETURN`, R294: A parked wait re-loads on a store to its doubleword, returning when changed, or returns on wake or a raised abort line. -/
  | waitReturn
  /-- `HUB_LPATCH_REQUEST`, R298: The hub checks partition, state and value and writes the field or refuses. -/
  | hubLpatchRequest
  /-- `HUB_LARM_REQUEST`, R299: The hub checks the record, arms it or writes its never-fits word, and runs a placement pass. -/
  | hubLarmRequest
  /-- `HALT_DRAIN_END`, R301: When halt's drains end, the context becomes FREE or retained and its done message is due. -/
  | haltDrainEnd
  /-- `DONE_MESSAGE`, R61: A core's done message arrives at its parent, which combines status words and sends its own when complete. -/
  | doneMessage
  /-- `BLOCK_BEGIN`, R42: A broadcast or fetched block begins on a micro-thread that is idle, stopped or faulted, or on its chain. -/
  | blockBegin
  /-- `BLOCK_COMMIT`, R39: A block's effects commit together on a micro-thread at its end word, including link pushes and stores. -/
  | blockCommit
  /-- `LOAD_DATA_RETURN`, R28: The data or completion of an outstanding access returns to its issuer, releasing the waiting block or context. -/
  | loadDataReturn
  /-- `LANE_ROTATION`, R80: When every resident context of a lane is held and a spilled one waits, the lane abandons, spills and restores a pair. -/
  | laneRotation
  /-- `SPILL_COMPLETE`, R78: A 40-cycle spill of a micro-thread context to a spill area ends. -/
  | spillComplete
  /-- `RESTORE_COMPLETE`, R78: A 40-cycle restore ends and the context becomes resident. -/
  | restoreComplete
  /-- `LANE_CLEARING_DONE`, R81: A taken lane's program area is cleared and it joins its new grant. -/
  | laneClearingDone
  /-- `FRAME_BOUNDARY`, R74: Each Ostler computes targets, grants squares, shrinks, grows, revokes and regrants crews. -/
  | frameBoundary
  /-- `REVOCATION_DEADLINE`, R82: 4,096 cycles after a revocation point, blocks still waiting are abandoned without effect. -/
  | revocationDeadline
  /-- `CONTEXT_SAVE`, R83: Once every block of a revoked crew has committed or been abandoned, its contexts are saved to the lane save area. -/
  | contextSave
  /-- `AGING_TICK`, R58: Every 65,536 cycles each ARMED record's effective priority rises by 1 up to 3. -/
  | agingTick
  /-- `POWER_PRESSURE`, R330: A die over its power share lowers its clock, then alc, then Loom tokens. -/
  | powerPressure
  /-- `POWER_PRESSURE_END`, R330: As pressure ends the power controller undoes its steps in reverse order. -/
  | powerPressureEnd
  /-- `CLOCK_HOP`, R329: Firmware changes a die's arithmetic clock in 100 MHz steps. -/
  | clockHop
  /-- `DROOP_DURING_HOP`, R438: The droop detector fires during a hop: alc is lowered and the hop abandoned. -/
  | droopDuringHop
  /-- `CLOCK_HOP_RETRY`, R438: No sooner than 1 ms after an abandonment the hop is retried. -/
  | clockHopRetry
  /-- `LANE_RETIREMENT`, R86: Firmware retires a lane; its crew loses it and a spare takes its place. -/
  | laneRetirement
  /-- `WAY_RETIREMENT`, R436: A cache way with 8 corrected errors is written back, invalidated and replaced by a spare. -/
  | wayRetirement
  /-- `DISPOSITION_SET`, R199: Firmware marks a failed unit class emulated in the stored image and takes its holder out of service. -/
  | dispositionSet
  /-- `DROVER_MOVE`, R87: The Drover moves a floating gang's contexts, slots and lane requests to a rectangle of equal extent. -/
  | droverMove
  /-- `LOOM_TOKEN_WAIT_END`, R331: A waiting Loom takes tokens when at least 16 are free and begins its chunk. -/
  | loomTokenWaitEnd
  /-- `JOB_START`, R160: A job begins once its footprint edges to earlier jobs are satisfied. -/
  | jobStart
  /-- `COPY_JOB_COMPLETE`, R162: A copy job's last write lands, its completion is placed and its completion word written. -/
  | copyJobComplete
  /-- `GLEANER_JOB_COMPLETE`, R275: A Gleaner job's last doubleword moves and its completion word is written. -/
  | gleanerJobComplete
  /-- `LOOM_CHUNK`, R281: A Loom chunk finishes summing and is added to the accumulators. -/
  | loomChunk
  /-- `PACKET_REPORT`, R443: The target reports a domain copy packet performed; the last report completes the job. -/
  | packetReport
  /-- `WINDOW_STORE_ARRIVAL`, R121: A posted window store arrives at its target and is applied, buffered under R49, or dropped. -/
  | windowStoreArrival
  /-- `WINDOW_LOAD_ARRIVAL`, R157: A window load is performed at its target and its data returned. -/
  | windowLoadArrival
  /-- `POSTED_STORE_FAULT`, R387: A dropped window store or failed domain store is reported to its issuer at an instruction boundary. -/
  | postedStoreFault
  /-- `EMULATION_TRIP`, R392: An emulated or retired word traps to Fw with the emulation record filled. -/
  | emulationTrip
  /-- `PROMPT_TRAP`, R374: Under trapmode 2 the control thread traps with cause 0x17 after a micro-thread fault. -/
  | promptTrap
  /-- `BARRIER_TIMEOUT`, R376: A barrier wait reaching btmo cancels the barrier and traps every parked context with cause 0x15. -/
  | barrierTimeout
  /-- `VSYNC_TIMEOUT`, R376: A vsync wait reaching btmo traps with cause 0x16. -/
  | vsyncTimeout
  /-- `LEASE_LAPSE`, R155: An L1 sector lease lapses 4,096 cycles after its fill or renewal. -/
  | leaseLapse
  /-- `UNIT_WAKE_UP`, R145: A power-gated unit finishes waking, zeroed with valid checks, and stalled accesses proceed. -/
  | unitWakeUp
  /-- `PREEMPTION_STOP`, R381: Every context of a gang reaches its stop point, is revoked and saved, and the record returns to ARMED. -/
  | preemptionStop
  /-- `ROLLBACK`, R427: A trigger in a rollback gang stops it and restores the snapshot of its current superstep. -/
  | rollback
  /-- `HOST_REQUEST`, R324: A service core performs a 64-byte host CXL.mem request as an ordinary access. -/
  | hostRequest
  /-- `REMOTE_REQUEST`, R172: A link controller performs a remote module's request as an ordinary access. -/
  | remoteRequest
  /-- `DOORBELL`, R326: A doorbell write copies the mailbox command into its queue of 8, or drops it when full. -/
  | doorbell
  /-- `REGISTER_WRITE`, R325: A write to a hub-range register without behaviour of its own is stored or ignored. -/
  | registerWrite
  /-- `BUILD`, R326: Builds a launch record from a 256-byte image under R54. -/
  | build
  /-- `RELEASE`, R54: Releases a launch record to UNBUILT, refused while RUNNING. -/
  | release
  /-- `CFGSTAGE`, R333: Verifies and stores a new configuration image for the next cold reset. -/
  | cfgstage
  /-- `WLOGRC`, R144: Reads and clears words of a partition's write log. -/
  | wlogrc
  /-- `MEMBER`, R340: Writes a member slot entry. -/
  | member
  /-- `GROUP`, R342: Defines a collective group from a group table. -/
  | group
  /-- `COLL`, R343: Starts a collective round from a descriptor. -/
  | coll
  /-- `SAVEREG`, R384: Defines the partition's save region. -/
  | savereg
  /-- `PREEMPT`, R381: Starts a Sys pre-emption of a RUNNING record, optionally held. -/
  | preempt
  /-- `RESUME`, R384: Returns a held record to placement passes. -/
  | resume
  /-- `IMPORT`, R385: Checks saved images and moves an IDLE record to ARMED and held. -/
  | importImg
  /-- `PRQ`, R377: Defines the partition's page-request queue. -/
  | prq
  /-- `SNAPREG`, R426: Defines the partition's snapshot region. -/
  | snapreg
  /-- `PCLEAR`, R408: Zeroes a range and removes poison, quarantines and bulk marks within it. -/
  | pclear
  /-- `SUMMARY`, R440: Writes the module state summary to a buffer. -/
  | summary
  /-- `UNDEFINED_MAILBOX_OPCODE`, R326: A mailbox command whose opcode no chapter defines is refused. -/
  | undefinedMailboxOpcode
  /-- `LOCK_INTERFACE_REQUEST`, R335: Freezes the partition's interface configuration. -/
  | lockInterfaceRequest
  /-- `GET_DEVICE_INTERFACE_REPORT`, R336: Returns the locked interface report. -/
  | getDeviceInterfaceReport
  /-- `START_INTERFACE_REQUEST`, R335: Moves a locked interface to RUN and enables CXL.mem through it. -/
  | startInterfaceRequest
  /-- `STOP_INTERFACE_REQUEST`, R335: Unfreezes the interface, pre-empting and withdrawing its gangs from RUN. -/
  | stopInterfaceRequest
  /-- `LOCKED_BAR_WRITE`, R435: A host write to a locked base-address register drops the interface to ERROR. -/
  | lockedBarWrite
  /-- `IDE_INTEGRITY_FAILURE`, R435: An IDE stream integrity failure drops the interface to ERROR. -/
  | ideIntegrityFailure
  /-- `SPDM_MEASUREMENT`, R334: Answers an SPDM attestation request with SHA3-256 measurements signed by ML-DSA-44. -/
  | spdmMeasurement
  /-- `FLIT_RECEIVE`, R431: A receiver accepts an in-sequence flit with good link CRC or discards it and sends a negative acknowledgement. -/
  | flitReceive
  /-- `ACKNOWLEDGEMENT`, R431: A cumulative acknowledgement frees replay-buffer flits below E. -/
  | acknowledgement
  /-- `NEGATIVE_ACKNOWLEDGEMENT`, R431: The sender resends every unacknowledged flit from E onward. -/
  | negativeAcknowledgement
  /-- `LANE_LOST`, R430: A lane loses lock or passes its error threshold, bringing in the spare, retraining or going DOWN. -/
  | laneLost
  /-- `RETRAIN_DONE`, R430: After 4 µs a retrain succeeds to UP16 or UP8, or fails, the third failure going DOWN. -/
  | retrainDone
  /-- `COLLECTIVE_ROUND_DONE`, R343: A member completes its round and writes its done word after its dst writes. -/
  | collectiveRoundDone
  /-- `COLLECTIVE_TIMEOUT`, R433: A round not complete by its timeout aborts and sends abort messages. -/
  | collectiveTimeout
  /-- `ABORT_MESSAGE`, R433: An abort message stops the member's round with the carried cause. -/
  | abortMessage
  /-- `TIME_SLOT_START`, R141: A channel time slot begins and serves its partition, a donated partition, refresh or the Fuller and remap engine. -/
  | timeSlotStart
  /-- `CHANNEL_REQUEST`, R415: A request reaches a channel and is served, stalled, forwarded or bounced by its line's state. -/
  | channelRequest
  /-- `VECTOR_REQUEST_PACKET`, R139: Every channel receives a packet and serves the elements it holds. -/
  | vectorRequestPacket
  /-- `STACK_RETIREMENT_START`, R414: Firmware writes the new slot table, increments mpn and lowers capg. -/
  | stackRetirementStart
  /-- `RETIREMENT_END`, R418: When every moving line is Done and no old-phase request remains, the tables are merged and the stack leaves service. -/
  | retirementEnd
  /-- `STACK_ANSWER_TIMEOUT`, R419: A request unanswered for 20,000 cycles ends with poison or is dropped. -/
  | stackAnswerTimeout
  /-- `STACK_DEAD`, R419: Firmware finds a stack dead, bulk-marks its undone lines and starts or records its retirement. -/
  | stackDead
  /-- `REFRESH_BREAK`, R411: A bank at its refresh postponement limit breaks an engine burst, refreshes and lets it resume. -/
  | refreshBreak
  /-- `COLD_RESET`, R344: Brings the module up in order, from root of trust to core release. -/
  | coldReset
  /-- `WARM_RESET`, R345: Repeats bring-up without memory training or clearing, keeping any retirement. -/
  | warmReset
  /-- `BOUNCE_RECEIVED`, R415: A port receives a request, or the tags of packet elements, bounced from the old home of a Done line and sends them again under the new phase. -/
  | bounceReceived
  /-- `SYS_REVOCATION`, R77: Sys revokes a crew's grant, saving its contexts and taking it to REVOKED. -/
  | sysRevocation
  /-- `RETENTION_RELEASE`, R64: Sys releases a retained context, which powers down its local-memory banks and frees the context. -/
  | retentionRelease
  deriving DecidableEq, Repr

end Sys2Proof
end

