-- ==== Sys2Proof/WellFormed.lean ====
section
/-!
DEFINITION. Which instructions an encoding may name: the operand restrictions of R187-R195 that the fields of a
constructor do not already rule out.
-/

namespace Sys2Proof

/-- A word's destination: `w24`-`w30` make it reserved, `w31` pushes to the link (R192). -/
def destOk (r : RegNo) : Bool := r.toNat ≤ 23 || r.toNat == 31

/-- A word's source: naming `w31` makes it reserved (R192). -/
def srcOk (r : RegNo) : Bool := r.toNat != 31

/-- A register that is both source and destination (R192). -/
def accOk (r : RegNo) : Bool := r.toNat ≤ 23

/-- A predicate bank: bank 3 is reserved (R192). -/
def bankOk (b : BitVec 2) : Bool := b.toNat != 3

/-- The formats of the special functions: .s2 and .h4 (R194, ops 0x21-0x24). -/
def sfuFmtOk (f : BitVec 2) : Bool := f.toNat == 1 || f.toNat == 2

/-- The width of a sign-extending load: .d is reserved (R194, op 0x34). -/
def narrowOk (w : BitVec 2) : Bool := w.toNat != 3

/-- The first of the eight registers `cvt.f4` reads (R194, op 0x29). -/
def f4SrcOk (r : RegNo) : Bool := 1 ≤ r.toNat && r.toNat ≤ 16

/-- The compare register of `acas`; the new value is in the next register (R246). -/
def casOk (r : RegNo) : Bool := 1 ≤ r.toNat && r.toNat ≤ 22

/-- The key register of `rng`: a captured scalar (R194, op 0x3C). -/
def crewRegOk (r : RegNo) : Bool := 24 ≤ r.toNat && r.toNat ≤ 29

/-- The guard: p0-p95, or 127 (R191). -/
def guardOk (g : BitVec 7) : Bool := g.toNat ≤ 95 || g.toNat == 127

/-- The micro-thread register of a vector load or store (R187). -/
def vecRegOk (r : RegNo) : Bool := 1 ≤ r.toNat && r.toNat ≤ 23

/-- The item codes of `vget` and `vput` (R186). -/
def itemOk (c : BitVec 8) : Bool :=
  (1 ≤ c.toNat && c.toNat ≤ 23) || (32 ≤ c.toNat && c.toNat ≤ 129)

/-- The geometry registers `sg0`-`sg7`, `gg0`-`gg15`, `lg0`-`lg2` and `lg15` (R188, R265, R274, R279). -/
def engRegOk (e : BitVec 3) (n : BitVec 4) : Bool :=
  match e.toNat with
  | 1 => n.toNat ≤ 7
  | 3 => true
  | 4 => n.toNat ≤ 2 || n.toNat == 15
  | _ => false

/-- The well-formed instructions: exactly the words that are not reserved, and every step of another agent. -/
def Instr.wf : Instr → Bool
  | .add _ _ _ => true
  | .sub _ _ _ => true
  | .and_ _ _ _ => true
  | .or_ _ _ _ => true
  | .xor_ _ _ _ => true
  | .andn _ _ _ => true
  | .orn _ _ _ => true
  | .xnor _ _ _ => true
  | .sll _ _ _ => true
  | .srl _ _ _ => true
  | .sra _ _ _ => true
  | .rol _ _ _ => true
  | .ror _ _ _ => true
  | .slt _ _ _ => true
  | .sltu _ _ _ => true
  | .seq _ _ _ => true
  | .sne _ _ _ => true
  | .min_ _ _ _ => true
  | .max_ _ _ _ => true
  | .minu _ _ _ => true
  | .maxu _ _ _ => true
  | .clz _ _ => true
  | .ctz _ _ => true
  | .popc _ _ => true
  | .sextb _ _ => true
  | .sexth _ _ => true
  | .sextw _ _ => true
  | .addi _ _ _ => true
  | .andi _ _ _ => true
  | .ori _ _ _ => true
  | .xori _ _ _ => true
  | .slli _ _ _ => true
  | .srli _ _ _ => true
  | .srai _ _ _ => true
  | .rori _ _ _ => true
  | .slti _ _ _ => true
  | .sltiu _ _ _ => true
  | .seqi _ _ _ => true
  | .mul _ _ _ => true
  | .mulh _ _ _ => true
  | .mulhu _ _ _ => true
  | .mulhsu _ _ _ => true
  | .div _ _ _ => true
  | .divu _ _ _ => true
  | .rem _ _ _ => true
  | .remu _ _ _ => true
  | .fadd _ _ _ _ => true
  | .fsub _ _ _ _ => true
  | .fmul _ _ _ _ => true
  | .fdiv _ _ _ _ => true
  | .fsqrt _ _ _ => true
  | .fmin _ _ _ _ => true
  | .fmax _ _ _ _ => true
  | .fabs _ _ _ => true
  | .fneg _ _ _ => true
  | .fmadd _ _ _ _ => true
  | .fmsub _ _ _ _ => true
  | .fnmadd _ _ _ _ => true
  | .fnmsub _ _ _ _ => true
  | .feq _ _ _ _ => true
  | .flt _ _ _ _ => true
  | .fle _ _ _ _ => true
  | .fcvtL _ _ _ => true
  | .fcvtLu _ _ _ => true
  | .fcvtFromL _ _ _ => true
  | .fcvtFromLu _ _ _ => true
  | .fcvtW _ _ _ => true
  | .fcvtWu _ _ _ => true
  | .fcvtFromW _ _ _ => true
  | .fcvtFromWu _ _ _ => true
  | .fcvtDS _ _ => true
  | .fcvtSD _ _ => true
  | .fclass _ _ _ => true
  | .lb _ _ _ => true
  | .lh _ _ _ => true
  | .lw _ _ _ => true
  | .ld _ _ _ => true
  | .lbu _ _ _ => true
  | .lhu _ _ _ => true
  | .lwu _ _ _ => true
  | .sb _ _ _ => true
  | .sh _ _ _ => true
  | .sw _ _ _ => true
  | .sd _ _ _ => true
  | .amoadd _ _ _ _ => true
  | .amoswap _ _ _ _ => true
  | .amocas _ _ _ _ => true
  | .amomin _ _ _ _ => true
  | .amomax _ _ _ _ => true
  | .amominu _ _ _ _ => true
  | .amomaxu _ _ _ _ => true
  | .amoand _ _ _ _ => true
  | .amoor _ _ _ _ => true
  | .beq _ _ _ => true
  | .bne _ _ _ => true
  | .blt _ _ _ => true
  | .bge _ _ _ => true
  | .bltu _ _ _ => true
  | .bgeu _ _ _ => true
  | .jal _ _ => true
  | .lui _ _ => true
  | .auipc _ _ => true
  | .jalr _ _ _ => true
  | .callt _ _ _ => true
  | .loop_ _ imm => imm != 0
  | .endloop => true
  | .csrr _ _ => true
  | .csrw _ _ => true
  | .csrs _ _ => true
  | .csrc _ _ => true
  | .setvl _ _ => true
  | .vfetch _ => true
  | .vloop _ _ => true
  | .vsync _ => true
  | .vget _ _ item => itemOk item
  | .vput _ _ item => itemOk item
  | .vsetc _ cn => cn.toNat ≤ 5
  | .vld wd _ u w => vecRegOk wd && !(u == 1 && w == 3)
  | .vst wd _ _ => vecRegOk wd
  | .vlds wd _ _ u w => vecRegOk wd && !(u == 1 && w == 3)
  | .vsts wd _ _ _ => vecRegOk wd
  | .vldx wd _ _ u w => vecRegOk wd && !(u == 1 && w == 3)
  | .vstx wd _ _ _ => vecRegOk wd
  | .vldb wd _ => vecRegOk wd
  | .ecfg _ eng n => engRegOk eng n
  | .erd _ eng n => engRegOk eng n
  | .ewait _ => true
  | .stream _ _ => true
  | .copyj _ _ _ => true
  | .gleanj _ _ _ => true
  | .lclaim _ _ => true
  | .lrelease _ => true
  | .lzero _ => true
  | .lmmaO _ _ => true
  | .lmmaR _ _ => true
  | .ldrain _ _ => true
  | .fence _ => true
  | .barr _ => true
  | .gbar => true
  | .vote _ _ comb => comb.toNat ≤ 4
  | .abort => true
  | .abortq _ => true
  | .wait _ _ => true
  | .wake _ => true
  | .lpatch _ _ field => field.toNat ≤ 6
  | .larm _ => true
  | .halt _ => true
  | .trap _ => true
  | .eret => true
  | .upret => true
  | .irefresh => true
  | .discover _ _ => true
  | .wAdd hd wd wa wb => guardOk hd.gp && (destOk wd && srcOk wa && srcOk wb)
  | .wSub hd wd wa wb => guardOk hd.gp && (destOk wd && srcOk wa && srcOk wb)
  | .wMin hd wd wa wb => guardOk hd.gp && (destOk wd && srcOk wa && srcOk wb)
  | .wMax hd wd wa wb => guardOk hd.gp && (destOk wd && srcOk wa && srcOk wb)
  | .wAnd hd wd wa wb => guardOk hd.gp && (destOk wd && srcOk wa && srcOk wb)
  | .wOr hd wd wa wb => guardOk hd.gp && (destOk wd && srcOk wa && srcOk wb)
  | .wXor hd wd wa wb => guardOk hd.gp && (destOk wd && srcOk wa && srcOk wb)
  | .wAndn hd wd wa wb => guardOk hd.gp && (destOk wd && srcOk wa && srcOk wb)
  | .wSll hd wd wa wb => guardOk hd.gp && (destOk wd && srcOk wa && srcOk wb)
  | .wSrl hd wd wa wb => guardOk hd.gp && (destOk wd && srcOk wa && srcOk wb)
  | .wSra hd wd wa wb => guardOk hd.gp && (destOk wd && srcOk wa && srcOk wb)
  | .wRor hd wd wa wb => guardOk hd.gp && (destOk wd && srcOk wa && srcOk wb)
  | .wMul hd wd wa wb => guardOk hd.gp && (destOk wd && srcOk wa && srcOk wb)
  | .wMulh hd wd wa wb => guardOk hd.gp && (destOk wd && srcOk wa && srcOk wb)
  | .wMulhu hd wd wa wb => guardOk hd.gp && (destOk wd && srcOk wa && srcOk wb)
  | .wMulhsu hd wd wa wb => guardOk hd.gp && (destOk wd && srcOk wa && srcOk wb)
  | .wDiv hd wd wa wb => guardOk hd.gp && (destOk wd && srcOk wa && srcOk wb)
  | .wDivu hd wd wa wb => guardOk hd.gp && (destOk wd && srcOk wa && srcOk wb)
  | .wRem hd wd wa wb => guardOk hd.gp && (destOk wd && srcOk wa && srcOk wb)
  | .wRemu hd wd wa wb => guardOk hd.gp && (destOk wd && srcOk wa && srcOk wb)
  | .wMinu hd wd wa wb => guardOk hd.gp && (destOk wd && srcOk wa && srcOk wb)
  | .wMaxu hd wd wa wb => guardOk hd.gp && (destOk wd && srcOk wa && srcOk wb)
  | .wAddi hd wd wa _ => guardOk hd.gp && (destOk wd && srcOk wa)
  | .wSlli hd wd wa _ => guardOk hd.gp && (destOk wd && srcOk wa)
  | .wSrli hd wd wa _ => guardOk hd.gp && (destOk wd && srcOk wa)
  | .wSrai hd wd wa _ => guardOk hd.gp && (destOk wd && srcOk wa)
  | .wMovi hd wd _ => guardOk hd.gp && (destOk wd)
  | .wCeq hd _ wa wb bank => guardOk hd.gp && (bankOk bank && srcOk wa && srcOk wb)
  | .wClt hd _ wa wb bank => guardOk hd.gp && (bankOk bank && srcOk wa && srcOk wb)
  | .wCltu hd _ wa wb bank => guardOk hd.gp && (bankOk bank && srcOk wa && srcOk wb)
  | .wFceqD hd _ wa wb bank => guardOk hd.gp && (bankOk bank && srcOk wa && srcOk wb)
  | .wFcltD hd _ wa wb bank => guardOk hd.gp && (bankOk bank && srcOk wa && srcOk wb)
  | .wFcleD hd _ wa wb bank => guardOk hd.gp && (bankOk bank && srcOk wa && srcOk wb)
  | .wFceqS hd _ wa wb bank => guardOk hd.gp && (bankOk bank && srcOk wa && srcOk wb)
  | .wFcltS hd _ wa wb bank => guardOk hd.gp && (bankOk bank && srcOk wa && srcOk wb)
  | .wFcleS hd _ wa wb bank => guardOk hd.gp && (bankOk bank && srcOk wa && srcOk wb)
  | .wFadd hd wd wa wb _ => guardOk hd.gp && (destOk wd && srcOk wa && srcOk wb)
  | .wFsub hd wd wa wb _ => guardOk hd.gp && (destOk wd && srcOk wa && srcOk wb)
  | .wFmul hd wd wa wb _ => guardOk hd.gp && (destOk wd && srcOk wa && srcOk wb)
  | .wFma hd wd wa wb _ => guardOk hd.gp && (accOk wd && srcOk wa && srcOk wb)
  | .wFms hd wd wa wb _ => guardOk hd.gp && (accOk wd && srcOk wa && srcOk wb)
  | .wFnma hd wd wa wb _ => guardOk hd.gp && (accOk wd && srcOk wa && srcOk wb)
  | .wFnms hd wd wa wb _ => guardOk hd.gp && (accOk wd && srcOk wa && srcOk wb)
  | .wFdiv hd wd wa wb _ => guardOk hd.gp && (destOk wd && srcOk wa && srcOk wb)
  | .wFsqrt hd wd wa _ => guardOk hd.gp && (destOk wd && srcOk wa)
  | .wFmin hd wd wa wb _ => guardOk hd.gp && (destOk wd && srcOk wa && srcOk wb)
  | .wFmax hd wd wa wb _ => guardOk hd.gp && (destOk wd && srcOk wa && srcOk wb)
  | .wFabs hd wd wa _ => guardOk hd.gp && (destOk wd && srcOk wa)
  | .wFneg hd wd wa _ => guardOk hd.gp && (destOk wd && srcOk wa)
  | .wExp2 hd wd wa fm => guardOk hd.gp && (destOk wd && srcOk wa && sfuFmtOk fm)
  | .wLog2 hd wd wa fm => guardOk hd.gp && (destOk wd && srcOk wa && sfuFmtOk fm)
  | .wRcp hd wd wa fm => guardOk hd.gp && (destOk wd && srcOk wa && sfuFmtOk fm)
  | .wRsqrt hd wd wa fm => guardOk hd.gp && (destOk wd && srcOk wa && sfuFmtOk fm)
  | .wCvthSD hd wd wa wb => guardOk hd.gp && (destOk wd && srcOk wa && srcOk wb)
  | .wCvthHS hd wd wa wb => guardOk hd.gp && (destOk wd && srcOk wa && srcOk wb)
  | .wCvthBS hd wd wa wb => guardOk hd.gp && (destOk wd && srcOk wa && srcOk wb)
  | .wCvthT8H hd wd wa wb => guardOk hd.gp && (destOk wd && srcOk wa && srcOk wb)
  | .wCvthE4H hd wd wa wb => guardOk hd.gp && (destOk wd && srcOk wa && srcOk wb)
  | .wCvthE5H hd wd wa wb => guardOk hd.gp && (destOk wd && srcOk wa && srcOk wb)
  | .wCvthT6T8 hd wd wa => guardOk hd.gp && (destOk wd && srcOk wa)
  | .wCvtdDS hd wd wa _ => guardOk hd.gp && (destOk wd && srcOk wa)
  | .wCvtdSH hd wd wa _ => guardOk hd.gp && (destOk wd && srcOk wa)
  | .wCvtdSB hd wd wa _ => guardOk hd.gp && (destOk wd && srcOk wa)
  | .wCvtdHT8 hd wd wa _ => guardOk hd.gp && (destOk wd && srcOk wa)
  | .wCvtdHE4 hd wd wa _ => guardOk hd.gp && (destOk wd && srcOk wa)
  | .wCvtdHE5 hd wd wa _ => guardOk hd.gp && (destOk wd && srcOk wa)
  | .wCvtdT8T6 hd wd wa => guardOk hd.gp && (destOk wd && srcOk wa)
  | .wCvtF4 hd wd wa => guardOk hd.gp && (destOk wd && f4SrcOk wa)
  | .wCvtfi hd wd wa _ => guardOk hd.gp && (destOk wd && srcOk wa)
  | .wCvtfu hd wd wa _ => guardOk hd.gp && (destOk wd && srcOk wa)
  | .wCvtif hd wd wa _ => guardOk hd.gp && (destOk wd && srcOk wa)
  | .wCvtuf hd wd wa _ => guardOk hd.gp && (destOk wd && srcOk wa)
  | .wPand hd _ _ _ bank => guardOk hd.gp && (bankOk bank)
  | .wPor hd _ _ _ bank => guardOk hd.gp && (bankOk bank)
  | .wPxor hd _ _ _ bank => guardOk hd.gp && (bankOk bank)
  | .wPandn hd _ _ _ bank => guardOk hd.gp && (bankOk bank)
  | .wPmov hd _ _ sbank bank => guardOk hd.gp && (bankOk bank && bankOk sbank)
  | .wLd hd wd wa wb _ => guardOk hd.gp && (destOk wd && srcOk wa && srcOk wb)
  | .wLds hd wd wa wb wid => guardOk hd.gp && (destOk wd && srcOk wa && srcOk wb && narrowOk wid)
  | .wSt hd wd wa wb _ => guardOk hd.gp && (srcOk wd && srcOk wa && srcOk wb)
  | .wSpld hd wd wa wb => guardOk hd.gp && (destOk wd && srcOk wa && srcOk wb)
  | .wSpst hd wd wa wb => guardOk hd.gp && (srcOk wd && srcOk wa && srcOk wb)
  | .wAadd hd wd wa wb => guardOk hd.gp && (accOk wd && srcOk wa && srcOk wb)
  | .wAswap hd wd wa wb => guardOk hd.gp && (accOk wd && srcOk wa && srcOk wb)
  | .wAcas hd wd wa wb => guardOk hd.gp && (casOk wd && srcOk wa && srcOk wb)
  | .wThfetch hd _ => guardOk hd.gp
  | .wThfetchr hd wa => guardOk hd.gp && (srcOk wa)
  | .wStop hd => guardOk hd.gp
  | .wIdx hd wd => guardOk hd.gp && (destOk wd)
  | .wSel hd wd wa wb => guardOk hd.gp && (destOk wd && srcOk wa && srcOk wb)
  | .wRng hd wd wa wb => guardOk hd.gp && (destOk wd && srcOk wa && crewRegOk wb)
  | .wFsinS2 hd wd wa => guardOk hd.gp && (destOk wd && srcOk wa)
  | .wFcosS2 hd wd wa => guardOk hd.gp && (destOk wd && srcOk wa)
  | .wPnot hd _ _ bank => guardOk hd.gp && (bankOk bank)
  | .tlbinvWrite => true
  | .setvlGrantReturn => true
  | .vsyncReturn => true
  | .vectorAccessDone => true
  | .ewaitReturn => true
  | .fenceReturn => true
  | .barrierComplete => true
  | .gbarComplete => true
  | .voteComplete => true
  | .waitReturn => true
  | .hubLpatchRequest => true
  | .hubLarmRequest => true
  | .haltDrainEnd => true
  | .doneMessage => true
  | .blockBegin => true
  | .blockCommit => true
  | .loadDataReturn => true
  | .laneRotation => true
  | .spillComplete => true
  | .restoreComplete => true
  | .laneClearingDone => true
  | .frameBoundary => true
  | .revocationDeadline => true
  | .contextSave => true
  | .agingTick => true
  | .powerPressure => true
  | .powerPressureEnd => true
  | .clockHop => true
  | .droopDuringHop => true
  | .clockHopRetry => true
  | .laneRetirement => true
  | .wayRetirement => true
  | .dispositionSet => true
  | .droverMove => true
  | .loomTokenWaitEnd => true
  | .jobStart => true
  | .copyJobComplete => true
  | .gleanerJobComplete => true
  | .loomChunk => true
  | .packetReport => true
  | .windowStoreArrival => true
  | .windowLoadArrival => true
  | .postedStoreFault => true
  | .emulationTrip => true
  | .promptTrap => true
  | .barrierTimeout => true
  | .vsyncTimeout => true
  | .leaseLapse => true
  | .unitWakeUp => true
  | .preemptionStop => true
  | .rollback => true
  | .hostRequest => true
  | .remoteRequest => true
  | .doorbell => true
  | .registerWrite => true
  | .build => true
  | .release => true
  | .cfgstage => true
  | .wlogrc => true
  | .member => true
  | .group => true
  | .coll => true
  | .savereg => true
  | .preempt => true
  | .resume => true
  | .importImg => true
  | .prq => true
  | .snapreg => true
  | .pclear => true
  | .summary => true
  | .undefinedMailboxOpcode => true
  | .lockInterfaceRequest => true
  | .getDeviceInterfaceReport => true
  | .startInterfaceRequest => true
  | .stopInterfaceRequest => true
  | .lockedBarWrite => true
  | .ideIntegrityFailure => true
  | .spdmMeasurement => true
  | .flitReceive => true
  | .acknowledgement => true
  | .negativeAcknowledgement => true
  | .laneLost => true
  | .retrainDone => true
  | .collectiveRoundDone => true
  | .collectiveTimeout => true
  | .abortMessage => true
  | .timeSlotStart => true
  | .channelRequest => true
  | .vectorRequestPacket => true
  | .stackRetirementStart => true
  | .retirementEnd => true
  | .stackAnswerTimeout => true
  | .stackDead => true
  | .refreshBreak => true
  | .coldReset => true
  | .warmReset => true
  | .bounceReceived => true
  | .sysRevocation => true
  | .retentionRelease => true

end Sys2Proof
end

