-- ==== Sys2Proof/Decode.lean ====
section
/-!
DEFINITION. The decoder of both streams and the encoder.

A word is read by its class or op first, then by its function fields (R176-R195); `rawC` and `rawW` read the fields,
and `decodeC` and `decodeW` reject by name what R187, R192 and R194 reserve.  The encoder writes the same tables from
the other side.  The streams share the space of 32-bit words: who fetches a word says which decoder reads it.
-/

namespace Sys2Proof

/-- Why a word names no instruction; all of them are reserved encodings (R196). -/
inductive DecodeErr where
  /-- The class (R178) or the op (R194) is reserved. -/
  | reservedClass (c : Nat)
  /-- No listed function of the class or op, or a nonzero field that must be zero. -/
  | reservedFunction (c : Nat)
  /-- A register, predicate, guard, width or selector that R187, R188, R191, R192 or R194 forbids. -/
  | reservedOperand (c : Nat)
  deriving DecidableEq, Repr

/-- `len` bits of a word from bit `lo` up. -/
def fld (w : IWord) (lo len : Nat) : BitVec len := w.extractLsb' lo len

/-- Two fields beside each other, the first in the higher bits. -/
def cat {m n : Nat} (x : BitVec m) (y : BitVec n) : BitVec (m + n) := x ++ y

/-- Class 1. -/
def rawC1 (w : IWord) : Except DecodeErr Instr :=
  if fld w 0 12 = 0 then .ok (.add (fld w 22 5) (fld w 17 5) (fld w 12 5))
  else if fld w 0 12 = 1 then .ok (.sub (fld w 22 5) (fld w 17 5) (fld w 12 5))
  else if fld w 0 12 = 2 then .ok (.and_ (fld w 22 5) (fld w 17 5) (fld w 12 5))
  else if fld w 0 12 = 3 then .ok (.or_ (fld w 22 5) (fld w 17 5) (fld w 12 5))
  else if fld w 0 12 = 4 then .ok (.xor_ (fld w 22 5) (fld w 17 5) (fld w 12 5))
  else if fld w 0 12 = 5 then .ok (.andn (fld w 22 5) (fld w 17 5) (fld w 12 5))
  else if fld w 0 12 = 6 then .ok (.orn (fld w 22 5) (fld w 17 5) (fld w 12 5))
  else if fld w 0 12 = 7 then .ok (.xnor (fld w 22 5) (fld w 17 5) (fld w 12 5))
  else if fld w 0 12 = 8 then .ok (.sll (fld w 22 5) (fld w 17 5) (fld w 12 5))
  else if fld w 0 12 = 9 then .ok (.srl (fld w 22 5) (fld w 17 5) (fld w 12 5))
  else if fld w 0 12 = 10 then .ok (.sra (fld w 22 5) (fld w 17 5) (fld w 12 5))
  else if fld w 0 12 = 11 then .ok (.rol (fld w 22 5) (fld w 17 5) (fld w 12 5))
  else if fld w 0 12 = 12 then .ok (.ror (fld w 22 5) (fld w 17 5) (fld w 12 5))
  else if fld w 0 12 = 16 then .ok (.slt (fld w 22 5) (fld w 17 5) (fld w 12 5))
  else if fld w 0 12 = 17 then .ok (.sltu (fld w 22 5) (fld w 17 5) (fld w 12 5))
  else if fld w 0 12 = 18 then .ok (.seq (fld w 22 5) (fld w 17 5) (fld w 12 5))
  else if fld w 0 12 = 19 then .ok (.sne (fld w 22 5) (fld w 17 5) (fld w 12 5))
  else if fld w 0 12 = 20 then .ok (.min_ (fld w 22 5) (fld w 17 5) (fld w 12 5))
  else if fld w 0 12 = 21 then .ok (.max_ (fld w 22 5) (fld w 17 5) (fld w 12 5))
  else if fld w 0 12 = 22 then .ok (.minu (fld w 22 5) (fld w 17 5) (fld w 12 5))
  else if fld w 0 12 = 23 then .ok (.maxu (fld w 22 5) (fld w 17 5) (fld w 12 5))
  else if fld w 0 12 = 24 ∧ fld w 12 5 = 0 then .ok (.clz (fld w 22 5) (fld w 17 5))
  else if fld w 0 12 = 25 ∧ fld w 12 5 = 0 then .ok (.ctz (fld w 22 5) (fld w 17 5))
  else if fld w 0 12 = 26 ∧ fld w 12 5 = 0 then .ok (.popc (fld w 22 5) (fld w 17 5))
  else if fld w 0 12 = 28 ∧ fld w 12 5 = 0 then .ok (.sextb (fld w 22 5) (fld w 17 5))
  else if fld w 0 12 = 29 ∧ fld w 12 5 = 0 then .ok (.sexth (fld w 22 5) (fld w 17 5))
  else if fld w 0 12 = 30 ∧ fld w 12 5 = 0 then .ok (.sextw (fld w 22 5) (fld w 17 5))
  else .error (.reservedFunction 1)

/-- Class 2. -/
def rawC2 (w : IWord) : Except DecodeErr Instr :=
  if fld w 12 5 = 0 then .ok (.addi (fld w 22 5) (fld w 17 5) (fld w 0 12))
  else if fld w 12 5 = 1 then .ok (.andi (fld w 22 5) (fld w 17 5) (fld w 0 12))
  else if fld w 12 5 = 2 then .ok (.ori (fld w 22 5) (fld w 17 5) (fld w 0 12))
  else if fld w 12 5 = 3 then .ok (.xori (fld w 22 5) (fld w 17 5) (fld w 0 12))
  else if fld w 6 6 = 0 ∧ fld w 12 5 = 4 then .ok (.slli (fld w 22 5) (fld w 17 5) (fld w 0 6))
  else if fld w 6 6 = 0 ∧ fld w 12 5 = 5 then .ok (.srli (fld w 22 5) (fld w 17 5) (fld w 0 6))
  else if fld w 6 6 = 0 ∧ fld w 12 5 = 6 then .ok (.srai (fld w 22 5) (fld w 17 5) (fld w 0 6))
  else if fld w 6 6 = 0 ∧ fld w 12 5 = 7 then .ok (.rori (fld w 22 5) (fld w 17 5) (fld w 0 6))
  else if fld w 12 5 = 8 then .ok (.slti (fld w 22 5) (fld w 17 5) (fld w 0 12))
  else if fld w 12 5 = 9 then .ok (.sltiu (fld w 22 5) (fld w 17 5) (fld w 0 12))
  else if fld w 12 5 = 10 then .ok (.seqi (fld w 22 5) (fld w 17 5) (fld w 0 12))
  else .error (.reservedFunction 2)

/-- Class 3. -/
def rawC3 (w : IWord) : Except DecodeErr Instr :=
  if fld w 0 12 = 0 then .ok (.mul (fld w 22 5) (fld w 17 5) (fld w 12 5))
  else if fld w 0 12 = 1 then .ok (.mulh (fld w 22 5) (fld w 17 5) (fld w 12 5))
  else if fld w 0 12 = 2 then .ok (.mulhu (fld w 22 5) (fld w 17 5) (fld w 12 5))
  else if fld w 0 12 = 3 then .ok (.mulhsu (fld w 22 5) (fld w 17 5) (fld w 12 5))
  else if fld w 0 12 = 4 then .ok (.div (fld w 22 5) (fld w 17 5) (fld w 12 5))
  else if fld w 0 12 = 5 then .ok (.divu (fld w 22 5) (fld w 17 5) (fld w 12 5))
  else if fld w 0 12 = 6 then .ok (.rem (fld w 22 5) (fld w 17 5) (fld w 12 5))
  else if fld w 0 12 = 7 then .ok (.remu (fld w 22 5) (fld w 17 5) (fld w 12 5))
  else .error (.reservedFunction 3)

/-- Class 4 (R182); the opcode table fixes bits 16:7 of the converts and of fclass at zero, as of fsqrt, fabs and fneg. -/
def rawC4 (w : IWord) : Except DecodeErr Instr :=
  if fld w 0 6 = 0 ∧ fld w 7 5 = 0 then .ok (.fadd (fld w 22 5) (fld w 17 5) (fld w 12 5) (fld w 6 1))
  else if fld w 0 6 = 1 ∧ fld w 7 5 = 0 then .ok (.fsub (fld w 22 5) (fld w 17 5) (fld w 12 5) (fld w 6 1))
  else if fld w 0 6 = 2 ∧ fld w 7 5 = 0 then .ok (.fmul (fld w 22 5) (fld w 17 5) (fld w 12 5) (fld w 6 1))
  else if fld w 0 6 = 3 ∧ fld w 7 5 = 0 then .ok (.fdiv (fld w 22 5) (fld w 17 5) (fld w 12 5) (fld w 6 1))
  else if fld w 0 6 = 4 ∧ fld w 7 5 = 0 ∧ fld w 12 5 = 0 then .ok (.fsqrt (fld w 22 5) (fld w 17 5) (fld w 6 1))
  else if fld w 0 6 = 5 ∧ fld w 7 5 = 0 then .ok (.fmin (fld w 22 5) (fld w 17 5) (fld w 12 5) (fld w 6 1))
  else if fld w 0 6 = 6 ∧ fld w 7 5 = 0 then .ok (.fmax (fld w 22 5) (fld w 17 5) (fld w 12 5) (fld w 6 1))
  else if fld w 0 6 = 7 ∧ fld w 7 5 = 0 ∧ fld w 12 5 = 0 then .ok (.fabs (fld w 22 5) (fld w 17 5) (fld w 6 1))
  else if fld w 0 6 = 8 ∧ fld w 7 5 = 0 ∧ fld w 12 5 = 0 then .ok (.fneg (fld w 22 5) (fld w 17 5) (fld w 6 1))
  else if fld w 0 6 = 9 ∧ fld w 7 5 = 0 then .ok (.fmadd (fld w 22 5) (fld w 17 5) (fld w 12 5) (fld w 6 1))
  else if fld w 0 6 = 10 ∧ fld w 7 5 = 0 then .ok (.fmsub (fld w 22 5) (fld w 17 5) (fld w 12 5) (fld w 6 1))
  else if fld w 0 6 = 11 ∧ fld w 7 5 = 0 then .ok (.fnmadd (fld w 22 5) (fld w 17 5) (fld w 12 5) (fld w 6 1))
  else if fld w 0 6 = 12 ∧ fld w 7 5 = 0 then .ok (.fnmsub (fld w 22 5) (fld w 17 5) (fld w 12 5) (fld w 6 1))
  else if fld w 0 6 = 13 ∧ fld w 7 5 = 0 then .ok (.feq (fld w 22 5) (fld w 17 5) (fld w 12 5) (fld w 6 1))
  else if fld w 0 6 = 14 ∧ fld w 7 5 = 0 then .ok (.flt (fld w 22 5) (fld w 17 5) (fld w 12 5) (fld w 6 1))
  else if fld w 0 6 = 15 ∧ fld w 7 5 = 0 then .ok (.fle (fld w 22 5) (fld w 17 5) (fld w 12 5) (fld w 6 1))
  else if fld w 0 6 = 16 ∧ fld w 7 5 = 0 ∧ fld w 12 5 = 0 then .ok (.fcvtL (fld w 22 5) (fld w 17 5) (fld w 6 1))
  else if fld w 0 6 = 17 ∧ fld w 7 5 = 0 ∧ fld w 12 5 = 0 then .ok (.fcvtLu (fld w 22 5) (fld w 17 5) (fld w 6 1))
  else if fld w 0 6 = 18 ∧ fld w 7 5 = 0 ∧ fld w 12 5 = 0 then .ok (.fcvtFromL (fld w 22 5) (fld w 17 5) (fld w 6 1))
  else if fld w 0 6 = 19 ∧ fld w 7 5 = 0 ∧ fld w 12 5 = 0 then .ok (.fcvtFromLu (fld w 22 5) (fld w 17 5) (fld w 6 1))
  else if fld w 0 6 = 20 ∧ fld w 7 5 = 0 ∧ fld w 12 5 = 0 then .ok (.fcvtW (fld w 22 5) (fld w 17 5) (fld w 6 1))
  else if fld w 0 6 = 21 ∧ fld w 7 5 = 0 ∧ fld w 12 5 = 0 then .ok (.fcvtWu (fld w 22 5) (fld w 17 5) (fld w 6 1))
  else if fld w 0 6 = 22 ∧ fld w 7 5 = 0 ∧ fld w 12 5 = 0 then .ok (.fcvtFromW (fld w 22 5) (fld w 17 5) (fld w 6 1))
  else if fld w 0 6 = 23 ∧ fld w 7 5 = 0 ∧ fld w 12 5 = 0 then .ok (.fcvtFromWu (fld w 22 5) (fld w 17 5) (fld w 6 1))
  else if fld w 0 6 = 24 ∧ fld w 6 1 = 0 ∧ fld w 7 5 = 0 ∧ fld w 12 5 = 0 then .ok (.fcvtDS (fld w 22 5) (fld w 17 5))
  else if fld w 0 6 = 24 ∧ fld w 6 1 = 1 ∧ fld w 7 5 = 0 ∧ fld w 12 5 = 0 then .ok (.fcvtSD (fld w 22 5) (fld w 17 5))
  else if fld w 0 6 = 25 ∧ fld w 7 5 = 0 ∧ fld w 12 5 = 0 then .ok (.fclass (fld w 22 5) (fld w 17 5) (fld w 6 1))
  else .error (.reservedFunction 4)

/-- Class 5. -/
def rawC5 (w : IWord) : Except DecodeErr Instr :=
  if fld w 12 5 = 0 then .ok (.lb (fld w 22 5) (fld w 17 5) (fld w 0 12))
  else if fld w 12 5 = 1 then .ok (.lh (fld w 22 5) (fld w 17 5) (fld w 0 12))
  else if fld w 12 5 = 2 then .ok (.lw (fld w 22 5) (fld w 17 5) (fld w 0 12))
  else if fld w 12 5 = 3 then .ok (.ld (fld w 22 5) (fld w 17 5) (fld w 0 12))
  else if fld w 12 5 = 4 then .ok (.lbu (fld w 22 5) (fld w 17 5) (fld w 0 12))
  else if fld w 12 5 = 5 then .ok (.lhu (fld w 22 5) (fld w 17 5) (fld w 0 12))
  else if fld w 12 5 = 6 then .ok (.lwu (fld w 22 5) (fld w 17 5) (fld w 0 12))
  else .error (.reservedFunction 5)

/-- Class 6. -/
def rawC6 (w : IWord) : Except DecodeErr Instr :=
  if fld w 22 5 = 0 then .ok (.sb (fld w 17 5) (fld w 12 5) (fld w 0 12))
  else if fld w 22 5 = 1 then .ok (.sh (fld w 17 5) (fld w 12 5) (fld w 0 12))
  else if fld w 22 5 = 2 then .ok (.sw (fld w 17 5) (fld w 12 5) (fld w 0 12))
  else if fld w 22 5 = 3 then .ok (.sd (fld w 17 5) (fld w 12 5) (fld w 0 12))
  else .error (.reservedFunction 6)

/-- Class 7. -/
def rawC7 (w : IWord) : Except DecodeErr Instr :=
  if fld w 1 1 = 1 ∧ fld w 2 4 = 0 ∧ fld w 6 6 = 0 then .ok (.amoadd (fld w 22 5) (fld w 17 5) (fld w 12 5) (fld w 0 1))
  else if fld w 1 1 = 1 ∧ fld w 2 4 = 1 ∧ fld w 6 6 = 0 then .ok (.amoswap (fld w 22 5) (fld w 17 5) (fld w 12 5) (fld w 0 1))
  else if fld w 1 1 = 1 ∧ fld w 2 4 = 2 ∧ fld w 6 6 = 0 then .ok (.amocas (fld w 22 5) (fld w 17 5) (fld w 12 5) (fld w 0 1))
  else if fld w 1 1 = 1 ∧ fld w 2 4 = 3 ∧ fld w 6 6 = 0 then .ok (.amomin (fld w 22 5) (fld w 17 5) (fld w 12 5) (fld w 0 1))
  else if fld w 1 1 = 1 ∧ fld w 2 4 = 4 ∧ fld w 6 6 = 0 then .ok (.amomax (fld w 22 5) (fld w 17 5) (fld w 12 5) (fld w 0 1))
  else if fld w 1 1 = 1 ∧ fld w 2 4 = 5 ∧ fld w 6 6 = 0 then .ok (.amominu (fld w 22 5) (fld w 17 5) (fld w 12 5) (fld w 0 1))
  else if fld w 1 1 = 1 ∧ fld w 2 4 = 6 ∧ fld w 6 6 = 0 then .ok (.amomaxu (fld w 22 5) (fld w 17 5) (fld w 12 5) (fld w 0 1))
  else if fld w 1 1 = 1 ∧ fld w 2 4 = 7 ∧ fld w 6 6 = 0 then .ok (.amoand (fld w 22 5) (fld w 17 5) (fld w 12 5) (fld w 0 1))
  else if fld w 1 1 = 1 ∧ fld w 2 4 = 8 ∧ fld w 6 6 = 0 then .ok (.amoor (fld w 22 5) (fld w 17 5) (fld w 12 5) (fld w 0 1))
  else .error (.reservedFunction 7)

/-- Class 8. -/
def rawC8 (w : IWord) : Except DecodeErr Instr :=
  if fld w 22 5 = 0 then .ok (.beq (fld w 17 5) (fld w 12 5) (fld w 0 12))
  else if fld w 22 5 = 1 then .ok (.bne (fld w 17 5) (fld w 12 5) (fld w 0 12))
  else if fld w 22 5 = 2 then .ok (.blt (fld w 17 5) (fld w 12 5) (fld w 0 12))
  else if fld w 22 5 = 3 then .ok (.bge (fld w 17 5) (fld w 12 5) (fld w 0 12))
  else if fld w 22 5 = 4 then .ok (.bltu (fld w 17 5) (fld w 12 5) (fld w 0 12))
  else if fld w 22 5 = 5 then .ok (.bgeu (fld w 17 5) (fld w 12 5) (fld w 0 12))
  else .error (.reservedFunction 8)

/-- Class 9. -/
def rawC9 (w : IWord) : Except DecodeErr Instr :=
  .ok (.jal (fld w 22 5) (fld w 0 22))

/-- Class 10. -/
def rawC10 (w : IWord) : Except DecodeErr Instr :=
  .ok (.lui (fld w 22 5) (fld w 0 22))

/-- Class 11. -/
def rawC11 (w : IWord) : Except DecodeErr Instr :=
  .ok (.auipc (fld w 22 5) (fld w 0 22))

/-- Class 12. -/
def rawC12 (w : IWord) : Except DecodeErr Instr :=
  if fld w 12 5 = 0 then .ok (.jalr (fld w 22 5) (fld w 17 5) (fld w 0 12))
  else .error (.reservedFunction 12)

/-- Class 13. -/
def rawC13 (w : IWord) : Except DecodeErr Instr :=
  if fld w 0 12 = 0 then .ok (.callt (fld w 22 5) (fld w 17 5) (fld w 12 5))
  else .error (.reservedFunction 13)

/-- Class 14. -/
def rawC14 (w : IWord) : Except DecodeErr Instr :=
  if fld w 12 5 = 0 ∧ fld w 22 5 = 0 then .ok (.loop_ (fld w 17 5) (fld w 0 12))
  else if fld w 0 12 = 0 ∧ fld w 12 5 = 1 ∧ fld w 17 5 = 0 ∧ fld w 22 5 = 0 then .ok .endloop
  else .error (.reservedFunction 14)

/-- Class 15. -/
def rawC15 (w : IWord) : Except DecodeErr Instr :=
  if fld w 12 5 = 0 ∧ fld w 17 5 = 0 then .ok (.csrr (fld w 22 5) (fld w 0 12))
  else if fld w 12 5 = 1 ∧ fld w 22 5 = 0 then .ok (.csrw (fld w 17 5) (fld w 0 12))
  else if fld w 12 5 = 2 ∧ fld w 22 5 = 0 then .ok (.csrs (fld w 17 5) (fld w 0 12))
  else if fld w 12 5 = 3 ∧ fld w 22 5 = 0 then .ok (.csrc (fld w 17 5) (fld w 0 12))
  else .error (.reservedFunction 15)

/-- Class 16. -/
def rawC16 (w : IWord) : Except DecodeErr Instr :=
  if fld w 0 4 = 0 ∧ fld w 4 8 = 0 ∧ fld w 12 5 = 0 then .ok (.setvl (fld w 22 5) (fld w 17 5))
  else if fld w 0 4 = 1 ∧ fld w 4 8 = 0 ∧ fld w 12 5 = 0 ∧ fld w 22 5 = 0 then .ok (.vfetch (fld w 17 5))
  else if fld w 0 4 = 2 ∧ fld w 4 8 = 0 ∧ fld w 22 5 = 0 then .ok (.vloop (fld w 17 5) (fld w 12 5))
  else if fld w 0 4 = 3 ∧ fld w 4 8 = 0 ∧ fld w 12 5 = 0 ∧ fld w 17 5 = 0 then .ok (.vsync (fld w 22 5))
  else if fld w 0 4 = 4 ∧ fld w 12 5 = 0 then .ok (.vget (fld w 22 5) (fld w 17 5) (fld w 4 8))
  else if fld w 0 4 = 5 ∧ fld w 22 5 = 0 then .ok (.vput (fld w 17 5) (fld w 12 5) (fld w 4 8))
  else if fld w 0 4 = 6 ∧ fld w 7 5 = 0 ∧ fld w 12 5 = 0 ∧ fld w 22 5 = 0 then .ok (.vsetc (fld w 17 5) (fld w 4 3))
  else .error (.reservedFunction 16)

/-- Class 17. -/
def rawC17 (w : IWord) : Except DecodeErr Instr :=
  if fld w 2 2 = 0 ∧ fld w 4 1 = 0 ∧ fld w 6 1 = 0 ∧ fld w 7 5 = 0 ∧ fld w 12 5 = 0 then .ok (.vld (fld w 22 5) (fld w 17 5) (fld w 5 1) (fld w 0 2))
  else if fld w 2 2 = 0 ∧ fld w 4 1 = 1 ∧ fld w 5 1 = 0 ∧ fld w 6 1 = 0 ∧ fld w 7 5 = 0 ∧ fld w 12 5 = 0 then .ok (.vst (fld w 22 5) (fld w 17 5) (fld w 0 2))
  else if fld w 2 2 = 1 ∧ fld w 4 1 = 0 ∧ fld w 6 1 = 0 ∧ fld w 7 5 = 0 then .ok (.vlds (fld w 22 5) (fld w 17 5) (fld w 12 5) (fld w 5 1) (fld w 0 2))
  else if fld w 2 2 = 1 ∧ fld w 4 1 = 1 ∧ fld w 5 1 = 0 ∧ fld w 6 1 = 0 ∧ fld w 7 5 = 0 then .ok (.vsts (fld w 22 5) (fld w 17 5) (fld w 12 5) (fld w 0 2))
  else if fld w 2 2 = 2 ∧ fld w 4 1 = 0 ∧ fld w 6 1 = 0 ∧ fld w 12 5 = 0 then .ok (.vldx (fld w 22 5) (fld w 17 5) (fld w 7 5) (fld w 5 1) (fld w 0 2))
  else if fld w 2 2 = 2 ∧ fld w 4 1 = 1 ∧ fld w 5 1 = 0 ∧ fld w 6 1 = 0 ∧ fld w 12 5 = 0 then .ok (.vstx (fld w 22 5) (fld w 17 5) (fld w 7 5) (fld w 0 2))
  else if fld w 0 2 = 0 ∧ fld w 2 2 = 3 ∧ fld w 4 1 = 0 ∧ fld w 5 1 = 0 ∧ fld w 6 1 = 0 ∧ fld w 7 5 = 0 ∧ fld w 12 5 = 0 then .ok (.vldb (fld w 22 5) (fld w 17 5))
  else .error (.reservedFunction 17)

/-- Class 18. -/
def rawC18 (w : IWord) : Except DecodeErr Instr :=
  if fld w 4 5 = 0 ∧ fld w 12 5 = 0 ∧ fld w 22 5 = 0 then .ok (.ecfg (fld w 17 5) (fld w 9 3) (fld w 0 4))
  else if fld w 4 5 = 1 ∧ fld w 12 5 = 0 ∧ fld w 17 5 = 0 then .ok (.erd (fld w 22 5) (fld w 9 3) (fld w 0 4))
  else if fld w 0 4 = 0 ∧ fld w 4 5 = 2 ∧ fld w 9 3 = 0 ∧ fld w 12 5 = 0 ∧ fld w 22 5 = 0 then .ok (.ewait (fld w 17 5))
  else if fld w 0 4 = 0 ∧ fld w 4 5 = 2 ∧ fld w 9 3 = 1 ∧ fld w 22 5 = 0 then .ok (.stream (fld w 17 5) (fld w 12 5))
  else if fld w 0 4 = 0 ∧ fld w 4 5 = 2 ∧ fld w 9 3 = 2 then .ok (.copyj (fld w 22 5) (fld w 17 5) (fld w 12 5))
  else if fld w 0 4 = 0 ∧ fld w 4 5 = 2 ∧ fld w 9 3 = 3 then .ok (.gleanj (fld w 22 5) (fld w 17 5) (fld w 12 5))
  else if fld w 0 4 = 0 ∧ fld w 4 5 = 2 ∧ fld w 9 3 = 4 ∧ fld w 12 5 = 0 then .ok (.lclaim (fld w 22 5) (fld w 17 5))
  else if fld w 0 4 = 0 ∧ fld w 4 5 = 3 ∧ fld w 9 3 = 4 ∧ fld w 12 5 = 0 ∧ fld w 22 5 = 0 then .ok (.lrelease (fld w 17 5))
  else if fld w 0 4 = 0 ∧ fld w 4 5 = 4 ∧ fld w 9 3 = 4 ∧ fld w 12 5 = 0 ∧ fld w 22 5 = 0 then .ok (.lzero (fld w 17 5))
  else if fld w 0 4 = 0 ∧ fld w 4 5 = 5 ∧ fld w 9 3 = 4 ∧ fld w 22 5 = 0 then .ok (.lmmaO (fld w 17 5) (fld w 12 5))
  else if fld w 0 4 = 0 ∧ fld w 4 5 = 6 ∧ fld w 9 3 = 4 ∧ fld w 22 5 = 0 then .ok (.lmmaR (fld w 17 5) (fld w 12 5))
  else if fld w 0 4 = 0 ∧ fld w 4 5 = 7 ∧ fld w 9 3 = 4 ∧ fld w 12 5 = 0 then .ok (.ldrain (fld w 22 5) (fld w 17 5))
  else .error (.reservedFunction 18)

/-- Class 19. -/
def rawC19 (w : IWord) : Except DecodeErr Instr :=
  if fld w 0 4 = 0 ∧ fld w 4 8 = 0 ∧ fld w 12 5 = 0 ∧ fld w 22 5 = 0 then .ok (.fence (fld w 17 5))
  else if fld w 0 4 = 1 ∧ fld w 4 8 = 0 ∧ fld w 12 5 = 0 ∧ fld w 22 5 = 0 then .ok (.barr (fld w 17 5))
  else if fld w 0 4 = 2 ∧ fld w 4 8 = 0 ∧ fld w 12 5 = 0 ∧ fld w 17 5 = 0 ∧ fld w 22 5 = 0 then .ok .gbar
  else if fld w 0 4 = 3 ∧ fld w 7 5 = 0 ∧ fld w 12 5 = 0 then .ok (.vote (fld w 22 5) (fld w 17 5) (fld w 4 3))
  else if fld w 0 4 = 4 ∧ fld w 4 8 = 0 ∧ fld w 12 5 = 0 ∧ fld w 17 5 = 0 ∧ fld w 22 5 = 0 then .ok .abort
  else if fld w 0 4 = 5 ∧ fld w 4 8 = 0 ∧ fld w 12 5 = 0 ∧ fld w 17 5 = 0 then .ok (.abortq (fld w 22 5))
  else if fld w 0 4 = 6 ∧ fld w 4 8 = 0 ∧ fld w 22 5 = 0 then .ok (.wait (fld w 17 5) (fld w 12 5))
  else if fld w 0 4 = 7 ∧ fld w 4 8 = 0 ∧ fld w 12 5 = 0 ∧ fld w 22 5 = 0 then .ok (.wake (fld w 17 5))
  else .error (.reservedFunction 19)

/-- Class 20. -/
def rawC20 (w : IWord) : Except DecodeErr Instr :=
  if fld w 0 4 = 0 ∧ fld w 7 5 = 0 ∧ fld w 22 5 = 0 then .ok (.lpatch (fld w 17 5) (fld w 12 5) (fld w 4 3))
  else if fld w 0 4 = 1 ∧ fld w 4 8 = 0 ∧ fld w 12 5 = 0 ∧ fld w 22 5 = 0 then .ok (.larm (fld w 17 5))
  else if fld w 0 4 = 2 ∧ fld w 4 8 = 0 ∧ fld w 12 5 = 0 ∧ fld w 22 5 = 0 then .ok (.halt (fld w 17 5))
  else if fld w 0 4 = 3 ∧ fld w 12 5 = 0 ∧ fld w 17 5 = 0 ∧ fld w 22 5 = 0 then .ok (.trap (fld w 4 8))
  else if fld w 0 4 = 4 ∧ fld w 4 8 = 0 ∧ fld w 12 5 = 0 ∧ fld w 17 5 = 0 ∧ fld w 22 5 = 0 then .ok .eret
  else if fld w 0 4 = 5 ∧ fld w 4 8 = 0 ∧ fld w 12 5 = 0 ∧ fld w 17 5 = 0 ∧ fld w 22 5 = 0 then .ok .upret
  else if fld w 0 4 = 6 ∧ fld w 4 8 = 0 ∧ fld w 12 5 = 0 ∧ fld w 17 5 = 0 ∧ fld w 22 5 = 0 then .ok .irefresh
  else if fld w 0 4 = 7 ∧ fld w 4 8 = 0 ∧ fld w 12 5 = 0 then .ok (.discover (fld w 22 5) (fld w 17 5))
  else .error (.reservedFunction 20)

/-- The fields of a Zavan-C word (R178). -/
def rawC (w : IWord) : Except DecodeErr Instr :=
  if fld w 27 5 = 1 then rawC1 w
  else if fld w 27 5 = 2 then rawC2 w
  else if fld w 27 5 = 3 then rawC3 w
  else if fld w 27 5 = 4 then rawC4 w
  else if fld w 27 5 = 5 then rawC5 w
  else if fld w 27 5 = 6 then rawC6 w
  else if fld w 27 5 = 7 then rawC7 w
  else if fld w 27 5 = 8 then rawC8 w
  else if fld w 27 5 = 9 then rawC9 w
  else if fld w 27 5 = 10 then rawC10 w
  else if fld w 27 5 = 11 then rawC11 w
  else if fld w 27 5 = 12 then rawC12 w
  else if fld w 27 5 = 13 then rawC13 w
  else if fld w 27 5 = 14 then rawC14 w
  else if fld w 27 5 = 15 then rawC15 w
  else if fld w 27 5 = 16 then rawC16 w
  else if fld w 27 5 = 17 then rawC17 w
  else if fld w 27 5 = 18 then rawC18 w
  else if fld w 27 5 = 19 then rawC19 w
  else if fld w 27 5 = 20 then rawC20 w
  else .error (.reservedClass (fld w 27 5).toNat)

/-- The bits every Zavan-W word has (R190). -/
def wHdr (w : IWord) : WHdr := { e := fld w 31 1, n := fld w 30 1, gp := fld w 23 7 }

/-- Ops 0x0 to 0x7. -/
def rawW0 (w : IWord) : Except DecodeErr Instr :=
  if fld w 17 6 = 0 ∧ fld w 0 2 = 0 then .ok (.wAdd (wHdr w) (fld w 12 5) (fld w 7 5) (fld w 2 5))
  else if fld w 17 6 = 0 ∧ fld w 0 2 = 1 then .ok (.wSub (wHdr w) (fld w 12 5) (fld w 7 5) (fld w 2 5))
  else if fld w 17 6 = 0 ∧ fld w 0 2 = 2 then .ok (.wMin (wHdr w) (fld w 12 5) (fld w 7 5) (fld w 2 5))
  else if fld w 17 6 = 0 ∧ fld w 0 2 = 3 then .ok (.wMax (wHdr w) (fld w 12 5) (fld w 7 5) (fld w 2 5))
  else if fld w 17 6 = 1 ∧ fld w 0 2 = 0 then .ok (.wAnd (wHdr w) (fld w 12 5) (fld w 7 5) (fld w 2 5))
  else if fld w 17 6 = 1 ∧ fld w 0 2 = 1 then .ok (.wOr (wHdr w) (fld w 12 5) (fld w 7 5) (fld w 2 5))
  else if fld w 17 6 = 1 ∧ fld w 0 2 = 2 then .ok (.wXor (wHdr w) (fld w 12 5) (fld w 7 5) (fld w 2 5))
  else if fld w 17 6 = 1 ∧ fld w 0 2 = 3 then .ok (.wAndn (wHdr w) (fld w 12 5) (fld w 7 5) (fld w 2 5))
  else if fld w 17 6 = 2 ∧ fld w 0 2 = 0 then .ok (.wSll (wHdr w) (fld w 12 5) (fld w 7 5) (fld w 2 5))
  else if fld w 17 6 = 2 ∧ fld w 0 2 = 1 then .ok (.wSrl (wHdr w) (fld w 12 5) (fld w 7 5) (fld w 2 5))
  else if fld w 17 6 = 2 ∧ fld w 0 2 = 2 then .ok (.wSra (wHdr w) (fld w 12 5) (fld w 7 5) (fld w 2 5))
  else if fld w 17 6 = 2 ∧ fld w 0 2 = 3 then .ok (.wRor (wHdr w) (fld w 12 5) (fld w 7 5) (fld w 2 5))
  else if fld w 17 6 = 3 ∧ fld w 0 2 = 0 then .ok (.wMul (wHdr w) (fld w 12 5) (fld w 7 5) (fld w 2 5))
  else if fld w 17 6 = 3 ∧ fld w 0 2 = 1 then .ok (.wMulh (wHdr w) (fld w 12 5) (fld w 7 5) (fld w 2 5))
  else if fld w 17 6 = 3 ∧ fld w 0 2 = 2 then .ok (.wMulhu (wHdr w) (fld w 12 5) (fld w 7 5) (fld w 2 5))
  else if fld w 17 6 = 3 ∧ fld w 0 2 = 3 then .ok (.wMulhsu (wHdr w) (fld w 12 5) (fld w 7 5) (fld w 2 5))
  else if fld w 17 6 = 4 ∧ fld w 0 2 = 0 then .ok (.wDiv (wHdr w) (fld w 12 5) (fld w 7 5) (fld w 2 5))
  else if fld w 17 6 = 4 ∧ fld w 0 2 = 1 then .ok (.wDivu (wHdr w) (fld w 12 5) (fld w 7 5) (fld w 2 5))
  else if fld w 17 6 = 4 ∧ fld w 0 2 = 2 then .ok (.wRem (wHdr w) (fld w 12 5) (fld w 7 5) (fld w 2 5))
  else if fld w 17 6 = 4 ∧ fld w 0 2 = 3 then .ok (.wRemu (wHdr w) (fld w 12 5) (fld w 7 5) (fld w 2 5))
  else if fld w 17 6 = 5 ∧ fld w 0 2 = 0 then .ok (.wMinu (wHdr w) (fld w 12 5) (fld w 7 5) (fld w 2 5))
  else if fld w 17 6 = 5 ∧ fld w 0 2 = 1 then .ok (.wMaxu (wHdr w) (fld w 12 5) (fld w 7 5) (fld w 2 5))
  else if fld w 17 6 = 6 then .ok (.wAddi (wHdr w) (fld w 12 5) (fld w 7 5) (fld w 0 7))
  else if fld w 17 6 = 7 ∧ fld w 6 1 = 0 then .ok (.wSlli (wHdr w) (fld w 12 5) (fld w 7 5) (fld w 0 6))
  else .error (.reservedFunction (fld w 17 6).toNat)

/-- Ops 0x8 to 0xf. -/
def rawW1 (w : IWord) : Except DecodeErr Instr :=
  if fld w 17 6 = 8 ∧ fld w 6 1 = 0 then .ok (.wSrli (wHdr w) (fld w 12 5) (fld w 7 5) (fld w 0 6))
  else if fld w 17 6 = 9 ∧ fld w 6 1 = 0 then .ok (.wSrai (wHdr w) (fld w 12 5) (fld w 7 5) (fld w 0 6))
  else if fld w 17 6 = 10 then .ok (.wMovi (wHdr w) (fld w 12 5) (fld w 0 12))
  else if fld w 17 6 = 11 then .ok (.wCeq (wHdr w) (fld w 12 5) (fld w 7 5) (fld w 2 5) (fld w 0 2))
  else if fld w 17 6 = 12 then .ok (.wClt (wHdr w) (fld w 12 5) (fld w 7 5) (fld w 2 5) (fld w 0 2))
  else if fld w 17 6 = 13 then .ok (.wCltu (wHdr w) (fld w 12 5) (fld w 7 5) (fld w 2 5) (fld w 0 2))
  else if fld w 17 6 = 14 then .ok (.wFceqD (wHdr w) (fld w 12 5) (fld w 7 5) (fld w 2 5) (fld w 0 2))
  else if fld w 17 6 = 15 then .ok (.wFcltD (wHdr w) (fld w 12 5) (fld w 7 5) (fld w 2 5) (fld w 0 2))
  else .error (.reservedFunction (fld w 17 6).toNat)

/-- Ops 0x10 to 0x17. -/
def rawW2 (w : IWord) : Except DecodeErr Instr :=
  if fld w 17 6 = 16 then .ok (.wFcleD (wHdr w) (fld w 12 5) (fld w 7 5) (fld w 2 5) (fld w 0 2))
  else if fld w 17 6 = 17 then .ok (.wFceqS (wHdr w) (fld w 12 5) (fld w 7 5) (fld w 2 5) (fld w 0 2))
  else if fld w 17 6 = 18 then .ok (.wFcltS (wHdr w) (fld w 12 5) (fld w 7 5) (fld w 2 5) (fld w 0 2))
  else if fld w 17 6 = 19 then .ok (.wFcleS (wHdr w) (fld w 12 5) (fld w 7 5) (fld w 2 5) (fld w 0 2))
  else if fld w 17 6 = 20 then .ok (.wFadd (wHdr w) (fld w 12 5) (fld w 7 5) (fld w 2 5) (fld w 0 2))
  else if fld w 17 6 = 21 then .ok (.wFsub (wHdr w) (fld w 12 5) (fld w 7 5) (fld w 2 5) (fld w 0 2))
  else if fld w 17 6 = 22 then .ok (.wFmul (wHdr w) (fld w 12 5) (fld w 7 5) (fld w 2 5) (fld w 0 2))
  else if fld w 17 6 = 23 then .ok (.wFma (wHdr w) (fld w 12 5) (fld w 7 5) (fld w 2 5) (fld w 0 2))
  else .error (.reservedFunction (fld w 17 6).toNat)

/-- Ops 0x18 to 0x1f. -/
def rawW3 (w : IWord) : Except DecodeErr Instr :=
  if fld w 17 6 = 24 then .ok (.wFms (wHdr w) (fld w 12 5) (fld w 7 5) (fld w 2 5) (fld w 0 2))
  else if fld w 17 6 = 25 then .ok (.wFnma (wHdr w) (fld w 12 5) (fld w 7 5) (fld w 2 5) (fld w 0 2))
  else if fld w 17 6 = 26 then .ok (.wFnms (wHdr w) (fld w 12 5) (fld w 7 5) (fld w 2 5) (fld w 0 2))
  else if fld w 17 6 = 27 then .ok (.wFdiv (wHdr w) (fld w 12 5) (fld w 7 5) (fld w 2 5) (fld w 0 2))
  else if fld w 17 6 = 28 ∧ fld w 2 5 = 0 then .ok (.wFsqrt (wHdr w) (fld w 12 5) (fld w 7 5) (fld w 0 2))
  else if fld w 17 6 = 29 then .ok (.wFmin (wHdr w) (fld w 12 5) (fld w 7 5) (fld w 2 5) (fld w 0 2))
  else if fld w 17 6 = 30 then .ok (.wFmax (wHdr w) (fld w 12 5) (fld w 7 5) (fld w 2 5) (fld w 0 2))
  else if fld w 17 6 = 31 ∧ fld w 2 5 = 0 then .ok (.wFabs (wHdr w) (fld w 12 5) (fld w 7 5) (fld w 0 2))
  else .error (.reservedFunction (fld w 17 6).toNat)

/-- Ops 0x20 to 0x27. -/
def rawW4 (w : IWord) : Except DecodeErr Instr :=
  if fld w 17 6 = 32 ∧ fld w 2 5 = 0 then .ok (.wFneg (wHdr w) (fld w 12 5) (fld w 7 5) (fld w 0 2))
  else if fld w 17 6 = 33 ∧ fld w 2 5 = 0 then .ok (.wExp2 (wHdr w) (fld w 12 5) (fld w 7 5) (fld w 0 2))
  else if fld w 17 6 = 34 ∧ fld w 2 5 = 0 then .ok (.wLog2 (wHdr w) (fld w 12 5) (fld w 7 5) (fld w 0 2))
  else if fld w 17 6 = 35 ∧ fld w 2 5 = 0 then .ok (.wRcp (wHdr w) (fld w 12 5) (fld w 7 5) (fld w 0 2))
  else if fld w 17 6 = 36 ∧ fld w 2 5 = 0 then .ok (.wRsqrt (wHdr w) (fld w 12 5) (fld w 7 5) (fld w 0 2))
  else if fld w 17 6 = 37 ∧ fld w 0 2 = 0 then .ok (.wCvthSD (wHdr w) (fld w 12 5) (fld w 7 5) (fld w 2 5))
  else if fld w 17 6 = 37 ∧ fld w 0 2 = 1 then .ok (.wCvthHS (wHdr w) (fld w 12 5) (fld w 7 5) (fld w 2 5))
  else if fld w 17 6 = 37 ∧ fld w 0 2 = 2 then .ok (.wCvthBS (wHdr w) (fld w 12 5) (fld w 7 5) (fld w 2 5))
  else if fld w 17 6 = 37 ∧ fld w 0 2 = 3 then .ok (.wCvthT8H (wHdr w) (fld w 12 5) (fld w 7 5) (fld w 2 5))
  else if fld w 17 6 = 38 ∧ fld w 0 2 = 0 then .ok (.wCvthE4H (wHdr w) (fld w 12 5) (fld w 7 5) (fld w 2 5))
  else if fld w 17 6 = 38 ∧ fld w 0 2 = 1 then .ok (.wCvthE5H (wHdr w) (fld w 12 5) (fld w 7 5) (fld w 2 5))
  else if fld w 17 6 = 38 ∧ fld w 0 2 = 2 ∧ fld w 2 5 = 0 then .ok (.wCvthT6T8 (wHdr w) (fld w 12 5) (fld w 7 5))
  else if fld w 17 6 = 39 ∧ fld w 0 2 = 0 ∧ fld w 3 4 = 0 then .ok (.wCvtdDS (wHdr w) (fld w 12 5) (fld w 7 5) (fld w 2 1))
  else if fld w 17 6 = 39 ∧ fld w 0 2 = 1 ∧ fld w 3 4 = 0 then .ok (.wCvtdSH (wHdr w) (fld w 12 5) (fld w 7 5) (fld w 2 1))
  else if fld w 17 6 = 39 ∧ fld w 0 2 = 2 ∧ fld w 3 4 = 0 then .ok (.wCvtdSB (wHdr w) (fld w 12 5) (fld w 7 5) (fld w 2 1))
  else if fld w 17 6 = 39 ∧ fld w 0 2 = 3 ∧ fld w 3 4 = 0 then .ok (.wCvtdHT8 (wHdr w) (fld w 12 5) (fld w 7 5) (fld w 2 1))
  else .error (.reservedFunction (fld w 17 6).toNat)

/-- Ops 0x28 to 0x2f. -/
def rawW5 (w : IWord) : Except DecodeErr Instr :=
  if fld w 17 6 = 40 ∧ fld w 0 2 = 0 ∧ fld w 3 4 = 0 then .ok (.wCvtdHE4 (wHdr w) (fld w 12 5) (fld w 7 5) (fld w 2 1))
  else if fld w 17 6 = 40 ∧ fld w 0 2 = 1 ∧ fld w 3 4 = 0 then .ok (.wCvtdHE5 (wHdr w) (fld w 12 5) (fld w 7 5) (fld w 2 1))
  else if fld w 17 6 = 40 ∧ fld w 0 2 = 2 ∧ fld w 2 5 = 0 then .ok (.wCvtdT8T6 (wHdr w) (fld w 12 5) (fld w 7 5))
  else if fld w 17 6 = 41 ∧ fld w 0 2 = 0 ∧ fld w 2 5 = 0 then .ok (.wCvtF4 (wHdr w) (fld w 12 5) (fld w 7 5))
  else if fld w 17 6 = 42 ∧ fld w 1 1 = 0 ∧ fld w 2 5 = 0 then .ok (.wCvtfi (wHdr w) (fld w 12 5) (fld w 7 5) (fld w 0 1))
  else if fld w 17 6 = 43 ∧ fld w 1 1 = 0 ∧ fld w 2 5 = 0 then .ok (.wCvtfu (wHdr w) (fld w 12 5) (fld w 7 5) (fld w 0 1))
  else if fld w 17 6 = 44 ∧ fld w 1 1 = 0 ∧ fld w 2 5 = 0 then .ok (.wCvtif (wHdr w) (fld w 12 5) (fld w 7 5) (fld w 0 1))
  else if fld w 17 6 = 45 ∧ fld w 1 1 = 0 ∧ fld w 2 5 = 0 then .ok (.wCvtuf (wHdr w) (fld w 12 5) (fld w 7 5) (fld w 0 1))
  else if fld w 17 6 = 46 then .ok (.wPand (wHdr w) (fld w 12 5) (fld w 7 5) (fld w 2 5) (fld w 0 2))
  else if fld w 17 6 = 47 then .ok (.wPor (wHdr w) (fld w 12 5) (fld w 7 5) (fld w 2 5) (fld w 0 2))
  else .error (.reservedFunction (fld w 17 6).toNat)

/-- Ops 0x30 to 0x37. -/
def rawW6 (w : IWord) : Except DecodeErr Instr :=
  if fld w 17 6 = 48 then .ok (.wPxor (wHdr w) (fld w 12 5) (fld w 7 5) (fld w 2 5) (fld w 0 2))
  else if fld w 17 6 = 49 then .ok (.wPandn (wHdr w) (fld w 12 5) (fld w 7 5) (fld w 2 5) (fld w 0 2))
  else if fld w 17 6 = 50 ∧ fld w 4 3 = 0 then .ok (.wPmov (wHdr w) (fld w 12 5) (fld w 7 5) (fld w 2 2) (fld w 0 2))
  else if fld w 17 6 = 51 then .ok (.wLd (wHdr w) (fld w 12 5) (fld w 7 5) (fld w 2 5) (fld w 0 2))
  else if fld w 17 6 = 52 then .ok (.wLds (wHdr w) (fld w 12 5) (fld w 7 5) (fld w 2 5) (fld w 0 2))
  else if fld w 17 6 = 53 then .ok (.wSt (wHdr w) (fld w 12 5) (fld w 7 5) (fld w 2 5) (fld w 0 2))
  else if fld w 17 6 = 54 ∧ fld w 0 2 = 0 then .ok (.wSpld (wHdr w) (fld w 12 5) (fld w 7 5) (fld w 2 5))
  else if fld w 17 6 = 55 ∧ fld w 0 2 = 0 then .ok (.wSpst (wHdr w) (fld w 12 5) (fld w 7 5) (fld w 2 5))
  else .error (.reservedFunction (fld w 17 6).toNat)

/-- Ops 0x38 to 0x3f. -/
def rawW7 (w : IWord) : Except DecodeErr Instr :=
  if fld w 17 6 = 56 ∧ fld w 0 2 = 0 then .ok (.wAadd (wHdr w) (fld w 12 5) (fld w 7 5) (fld w 2 5))
  else if fld w 17 6 = 56 ∧ fld w 0 2 = 1 then .ok (.wAswap (wHdr w) (fld w 12 5) (fld w 7 5) (fld w 2 5))
  else if fld w 17 6 = 56 ∧ fld w 0 2 = 2 then .ok (.wAcas (wHdr w) (fld w 12 5) (fld w 7 5) (fld w 2 5))
  else if fld w 17 6 = 57 ∧ fld w 12 5 = 0 then .ok (.wThfetch (wHdr w) (fld w 0 12))
  else if fld w 17 6 = 58 ∧ fld w 0 2 = 0 ∧ fld w 2 5 = 0 ∧ fld w 12 5 = 0 then .ok (.wThfetchr (wHdr w) (fld w 7 5))
  else if fld w 17 6 = 59 ∧ fld w 0 2 = 0 ∧ fld w 2 5 = 0 ∧ fld w 7 5 = 0 ∧ fld w 12 5 = 0 then .ok (.wStop (wHdr w))
  else if fld w 17 6 = 59 ∧ fld w 0 2 = 1 ∧ fld w 2 5 = 0 ∧ fld w 7 5 = 0 then .ok (.wIdx (wHdr w) (fld w 12 5))
  else if fld w 17 6 = 59 ∧ fld w 0 2 = 2 then .ok (.wSel (wHdr w) (fld w 12 5) (fld w 7 5) (fld w 2 5))
  else if fld w 17 6 = 60 ∧ fld w 0 2 = 0 then .ok (.wRng (wHdr w) (fld w 12 5) (fld w 7 5) (fld w 2 5))
  else if fld w 17 6 = 61 ∧ fld w 0 2 = 0 ∧ fld w 2 5 = 0 then .ok (.wFsinS2 (wHdr w) (fld w 12 5) (fld w 7 5))
  else if fld w 17 6 = 61 ∧ fld w 0 2 = 1 ∧ fld w 2 5 = 0 then .ok (.wFcosS2 (wHdr w) (fld w 12 5) (fld w 7 5))
  else if fld w 17 6 = 62 ∧ fld w 2 5 = 0 then .ok (.wPnot (wHdr w) (fld w 12 5) (fld w 7 5) (fld w 0 2))
  else .error (.reservedFunction (fld w 17 6).toNat)

/-- The fields of a Zavan-W word (R194). -/
def rawW (w : IWord) : Except DecodeErr Instr :=
  if fld w 20 3 = 0 then rawW0 w
  else if fld w 20 3 = 1 then rawW1 w
  else if fld w 20 3 = 2 then rawW2 w
  else if fld w 20 3 = 3 then rawW3 w
  else if fld w 20 3 = 4 then rawW4 w
  else if fld w 20 3 = 5 then rawW5 w
  else if fld w 20 3 = 6 then rawW6 w
  else rawW7 w

/-- A word of a control thread (R196). -/
def decodeC (w : IWord) : Except DecodeErr Instr :=
  match rawC w with
  | .ok i => if i.wf then .ok i else .error (.reservedOperand (fld w 27 5).toNat)
  | .error e => .error e

/-- A word of a micro-thread block (R196). -/
def decodeW (w : IWord) : Except DecodeErr Instr :=
  match rawW w with
  | .ok i => if i.wf then .ok i else .error (.reservedOperand (fld w 17 6).toNat)
  | .error e => .error e

/-- The word of a well-formed instruction; the steps of the other agents have none. -/
def encode : Instr → Option IWord
  | .add rd ra rb => some (cat (cat (cat (cat 1#5 rd) ra) rb) 0#12)
  | .sub rd ra rb => some (cat (cat (cat (cat 1#5 rd) ra) rb) 1#12)
  | .and_ rd ra rb => some (cat (cat (cat (cat 1#5 rd) ra) rb) 2#12)
  | .or_ rd ra rb => some (cat (cat (cat (cat 1#5 rd) ra) rb) 3#12)
  | .xor_ rd ra rb => some (cat (cat (cat (cat 1#5 rd) ra) rb) 4#12)
  | .andn rd ra rb => some (cat (cat (cat (cat 1#5 rd) ra) rb) 5#12)
  | .orn rd ra rb => some (cat (cat (cat (cat 1#5 rd) ra) rb) 6#12)
  | .xnor rd ra rb => some (cat (cat (cat (cat 1#5 rd) ra) rb) 7#12)
  | .sll rd ra rb => some (cat (cat (cat (cat 1#5 rd) ra) rb) 8#12)
  | .srl rd ra rb => some (cat (cat (cat (cat 1#5 rd) ra) rb) 9#12)
  | .sra rd ra rb => some (cat (cat (cat (cat 1#5 rd) ra) rb) 10#12)
  | .rol rd ra rb => some (cat (cat (cat (cat 1#5 rd) ra) rb) 11#12)
  | .ror rd ra rb => some (cat (cat (cat (cat 1#5 rd) ra) rb) 12#12)
  | .slt rd ra rb => some (cat (cat (cat (cat 1#5 rd) ra) rb) 16#12)
  | .sltu rd ra rb => some (cat (cat (cat (cat 1#5 rd) ra) rb) 17#12)
  | .seq rd ra rb => some (cat (cat (cat (cat 1#5 rd) ra) rb) 18#12)
  | .sne rd ra rb => some (cat (cat (cat (cat 1#5 rd) ra) rb) 19#12)
  | .min_ rd ra rb => some (cat (cat (cat (cat 1#5 rd) ra) rb) 20#12)
  | .max_ rd ra rb => some (cat (cat (cat (cat 1#5 rd) ra) rb) 21#12)
  | .minu rd ra rb => some (cat (cat (cat (cat 1#5 rd) ra) rb) 22#12)
  | .maxu rd ra rb => some (cat (cat (cat (cat 1#5 rd) ra) rb) 23#12)
  | .clz rd ra => some (cat (cat (cat (cat 1#5 rd) ra) 0#5) 24#12)
  | .ctz rd ra => some (cat (cat (cat (cat 1#5 rd) ra) 0#5) 25#12)
  | .popc rd ra => some (cat (cat (cat (cat 1#5 rd) ra) 0#5) 26#12)
  | .sextb rd ra => some (cat (cat (cat (cat 1#5 rd) ra) 0#5) 28#12)
  | .sexth rd ra => some (cat (cat (cat (cat 1#5 rd) ra) 0#5) 29#12)
  | .sextw rd ra => some (cat (cat (cat (cat 1#5 rd) ra) 0#5) 30#12)
  | .addi rd ra imm => some (cat (cat (cat (cat 2#5 rd) ra) 0#5) imm)
  | .andi rd ra imm => some (cat (cat (cat (cat 2#5 rd) ra) 1#5) imm)
  | .ori rd ra imm => some (cat (cat (cat (cat 2#5 rd) ra) 2#5) imm)
  | .xori rd ra imm => some (cat (cat (cat (cat 2#5 rd) ra) 3#5) imm)
  | .slli rd ra sh => some (cat (cat (cat (cat (cat 2#5 rd) ra) 4#5) 0#6) sh)
  | .srli rd ra sh => some (cat (cat (cat (cat (cat 2#5 rd) ra) 5#5) 0#6) sh)
  | .srai rd ra sh => some (cat (cat (cat (cat (cat 2#5 rd) ra) 6#5) 0#6) sh)
  | .rori rd ra sh => some (cat (cat (cat (cat (cat 2#5 rd) ra) 7#5) 0#6) sh)
  | .slti rd ra imm => some (cat (cat (cat (cat 2#5 rd) ra) 8#5) imm)
  | .sltiu rd ra imm => some (cat (cat (cat (cat 2#5 rd) ra) 9#5) imm)
  | .seqi rd ra imm => some (cat (cat (cat (cat 2#5 rd) ra) 10#5) imm)
  | .mul rd ra rb => some (cat (cat (cat (cat 3#5 rd) ra) rb) 0#12)
  | .mulh rd ra rb => some (cat (cat (cat (cat 3#5 rd) ra) rb) 1#12)
  | .mulhu rd ra rb => some (cat (cat (cat (cat 3#5 rd) ra) rb) 2#12)
  | .mulhsu rd ra rb => some (cat (cat (cat (cat 3#5 rd) ra) rb) 3#12)
  | .div rd ra rb => some (cat (cat (cat (cat 3#5 rd) ra) rb) 4#12)
  | .divu rd ra rb => some (cat (cat (cat (cat 3#5 rd) ra) rb) 5#12)
  | .rem rd ra rb => some (cat (cat (cat (cat 3#5 rd) ra) rb) 6#12)
  | .remu rd ra rb => some (cat (cat (cat (cat 3#5 rd) ra) rb) 7#12)
  | .fadd rd ra rb p => some (cat (cat (cat (cat (cat (cat 4#5 rd) ra) rb) 0#5) p) 0#6)
  | .fsub rd ra rb p => some (cat (cat (cat (cat (cat (cat 4#5 rd) ra) rb) 0#5) p) 1#6)
  | .fmul rd ra rb p => some (cat (cat (cat (cat (cat (cat 4#5 rd) ra) rb) 0#5) p) 2#6)
  | .fdiv rd ra rb p => some (cat (cat (cat (cat (cat (cat 4#5 rd) ra) rb) 0#5) p) 3#6)
  | .fsqrt rd ra p => some (cat (cat (cat (cat (cat (cat 4#5 rd) ra) 0#5) 0#5) p) 4#6)
  | .fmin rd ra rb p => some (cat (cat (cat (cat (cat (cat 4#5 rd) ra) rb) 0#5) p) 5#6)
  | .fmax rd ra rb p => some (cat (cat (cat (cat (cat (cat 4#5 rd) ra) rb) 0#5) p) 6#6)
  | .fabs rd ra p => some (cat (cat (cat (cat (cat (cat 4#5 rd) ra) 0#5) 0#5) p) 7#6)
  | .fneg rd ra p => some (cat (cat (cat (cat (cat (cat 4#5 rd) ra) 0#5) 0#5) p) 8#6)
  | .fmadd rd ra rb p => some (cat (cat (cat (cat (cat (cat 4#5 rd) ra) rb) 0#5) p) 9#6)
  | .fmsub rd ra rb p => some (cat (cat (cat (cat (cat (cat 4#5 rd) ra) rb) 0#5) p) 10#6)
  | .fnmadd rd ra rb p => some (cat (cat (cat (cat (cat (cat 4#5 rd) ra) rb) 0#5) p) 11#6)
  | .fnmsub rd ra rb p => some (cat (cat (cat (cat (cat (cat 4#5 rd) ra) rb) 0#5) p) 12#6)
  | .feq rd ra rb p => some (cat (cat (cat (cat (cat (cat 4#5 rd) ra) rb) 0#5) p) 13#6)
  | .flt rd ra rb p => some (cat (cat (cat (cat (cat (cat 4#5 rd) ra) rb) 0#5) p) 14#6)
  | .fle rd ra rb p => some (cat (cat (cat (cat (cat (cat 4#5 rd) ra) rb) 0#5) p) 15#6)
  | .fcvtL rd ra p => some (cat (cat (cat (cat (cat (cat 4#5 rd) ra) 0#5) 0#5) p) 16#6)
  | .fcvtLu rd ra p => some (cat (cat (cat (cat (cat (cat 4#5 rd) ra) 0#5) 0#5) p) 17#6)
  | .fcvtFromL rd ra p => some (cat (cat (cat (cat (cat (cat 4#5 rd) ra) 0#5) 0#5) p) 18#6)
  | .fcvtFromLu rd ra p => some (cat (cat (cat (cat (cat (cat 4#5 rd) ra) 0#5) 0#5) p) 19#6)
  | .fcvtW rd ra p => some (cat (cat (cat (cat (cat (cat 4#5 rd) ra) 0#5) 0#5) p) 20#6)
  | .fcvtWu rd ra p => some (cat (cat (cat (cat (cat (cat 4#5 rd) ra) 0#5) 0#5) p) 21#6)
  | .fcvtFromW rd ra p => some (cat (cat (cat (cat (cat (cat 4#5 rd) ra) 0#5) 0#5) p) 22#6)
  | .fcvtFromWu rd ra p => some (cat (cat (cat (cat (cat (cat 4#5 rd) ra) 0#5) 0#5) p) 23#6)
  | .fcvtDS rd ra => some (cat (cat (cat (cat (cat (cat 4#5 rd) ra) 0#5) 0#5) 0#1) 24#6)
  | .fcvtSD rd ra => some (cat (cat (cat (cat (cat (cat 4#5 rd) ra) 0#5) 0#5) 1#1) 24#6)
  | .fclass rd ra p => some (cat (cat (cat (cat (cat (cat 4#5 rd) ra) 0#5) 0#5) p) 25#6)
  | .lb rd ra imm => some (cat (cat (cat (cat 5#5 rd) ra) 0#5) imm)
  | .lh rd ra imm => some (cat (cat (cat (cat 5#5 rd) ra) 1#5) imm)
  | .lw rd ra imm => some (cat (cat (cat (cat 5#5 rd) ra) 2#5) imm)
  | .ld rd ra imm => some (cat (cat (cat (cat 5#5 rd) ra) 3#5) imm)
  | .lbu rd ra imm => some (cat (cat (cat (cat 5#5 rd) ra) 4#5) imm)
  | .lhu rd ra imm => some (cat (cat (cat (cat 5#5 rd) ra) 5#5) imm)
  | .lwu rd ra imm => some (cat (cat (cat (cat 5#5 rd) ra) 6#5) imm)
  | .sb ra rb imm => some (cat (cat (cat (cat 6#5 0#5) ra) rb) imm)
  | .sh ra rb imm => some (cat (cat (cat (cat 6#5 1#5) ra) rb) imm)
  | .sw ra rb imm => some (cat (cat (cat (cat 6#5 2#5) ra) rb) imm)
  | .sd ra rb imm => some (cat (cat (cat (cat 6#5 3#5) ra) rb) imm)
  | .amoadd rd ra rb d => some (cat (cat (cat (cat (cat (cat (cat 7#5 rd) ra) rb) 0#6) 0#4) 1#1) d)
  | .amoswap rd ra rb d => some (cat (cat (cat (cat (cat (cat (cat 7#5 rd) ra) rb) 0#6) 1#4) 1#1) d)
  | .amocas rd ra rb d => some (cat (cat (cat (cat (cat (cat (cat 7#5 rd) ra) rb) 0#6) 2#4) 1#1) d)
  | .amomin rd ra rb d => some (cat (cat (cat (cat (cat (cat (cat 7#5 rd) ra) rb) 0#6) 3#4) 1#1) d)
  | .amomax rd ra rb d => some (cat (cat (cat (cat (cat (cat (cat 7#5 rd) ra) rb) 0#6) 4#4) 1#1) d)
  | .amominu rd ra rb d => some (cat (cat (cat (cat (cat (cat (cat 7#5 rd) ra) rb) 0#6) 5#4) 1#1) d)
  | .amomaxu rd ra rb d => some (cat (cat (cat (cat (cat (cat (cat 7#5 rd) ra) rb) 0#6) 6#4) 1#1) d)
  | .amoand rd ra rb d => some (cat (cat (cat (cat (cat (cat (cat 7#5 rd) ra) rb) 0#6) 7#4) 1#1) d)
  | .amoor rd ra rb d => some (cat (cat (cat (cat (cat (cat (cat 7#5 rd) ra) rb) 0#6) 8#4) 1#1) d)
  | .beq ra rb imm => some (cat (cat (cat (cat 8#5 0#5) ra) rb) imm)
  | .bne ra rb imm => some (cat (cat (cat (cat 8#5 1#5) ra) rb) imm)
  | .blt ra rb imm => some (cat (cat (cat (cat 8#5 2#5) ra) rb) imm)
  | .bge ra rb imm => some (cat (cat (cat (cat 8#5 3#5) ra) rb) imm)
  | .bltu ra rb imm => some (cat (cat (cat (cat 8#5 4#5) ra) rb) imm)
  | .bgeu ra rb imm => some (cat (cat (cat (cat 8#5 5#5) ra) rb) imm)
  | .jal rd imm => some (cat (cat 9#5 rd) imm)
  | .lui rd imm => some (cat (cat 10#5 rd) imm)
  | .auipc rd imm => some (cat (cat 11#5 rd) imm)
  | .jalr rd ra imm => some (cat (cat (cat (cat 12#5 rd) ra) 0#5) imm)
  | .callt rd ra rb => some (cat (cat (cat (cat 13#5 rd) ra) rb) 0#12)
  | .loop_ ra imm => some (cat (cat (cat (cat 14#5 0#5) ra) 0#5) imm)
  | .endloop => some (cat (cat (cat (cat 14#5 0#5) 0#5) 1#5) 0#12)
  | .csrr rd idx => some (cat (cat (cat (cat 15#5 rd) 0#5) 0#5) idx)
  | .csrw ra idx => some (cat (cat (cat (cat 15#5 0#5) ra) 1#5) idx)
  | .csrs ra idx => some (cat (cat (cat (cat 15#5 0#5) ra) 2#5) idx)
  | .csrc ra idx => some (cat (cat (cat (cat 15#5 0#5) ra) 3#5) idx)
  | .setvl rd ra => some (cat (cat (cat (cat (cat 16#5 rd) ra) 0#5) 0#8) 0#4)
  | .vfetch ra => some (cat (cat (cat (cat (cat 16#5 0#5) ra) 0#5) 0#8) 1#4)
  | .vloop ra rb => some (cat (cat (cat (cat (cat 16#5 0#5) ra) rb) 0#8) 2#4)
  | .vsync rd => some (cat (cat (cat (cat (cat 16#5 rd) 0#5) 0#5) 0#8) 3#4)
  | .vget rd ra item => some (cat (cat (cat (cat (cat 16#5 rd) ra) 0#5) item) 4#4)
  | .vput ra rb item => some (cat (cat (cat (cat (cat 16#5 0#5) ra) rb) item) 5#4)
  | .vsetc ra cn => some (cat (cat (cat (cat (cat (cat 16#5 0#5) ra) 0#5) 0#5) cn) 6#4)
  | .vld wd ra u w => some (cat (cat (cat (cat (cat (cat (cat (cat (cat 17#5 wd) ra) 0#5) 0#5) 0#1) u) 0#1) 0#2) w)
  | .vst wd ra w => some (cat (cat (cat (cat (cat (cat (cat (cat (cat 17#5 wd) ra) 0#5) 0#5) 0#1) 0#1) 1#1) 0#2) w)
  | .vlds wd ra rb u w => some (cat (cat (cat (cat (cat (cat (cat (cat (cat 17#5 wd) ra) rb) 0#5) 0#1) u) 0#1) 1#2) w)
  | .vsts wd ra rb w => some (cat (cat (cat (cat (cat (cat (cat (cat (cat 17#5 wd) ra) rb) 0#5) 0#1) 0#1) 1#1) 1#2) w)
  | .vldx wd ra wi u w => some (cat (cat (cat (cat (cat (cat (cat (cat (cat 17#5 wd) ra) 0#5) wi) 0#1) u) 0#1) 2#2) w)
  | .vstx wd ra wi w => some (cat (cat (cat (cat (cat (cat (cat (cat (cat 17#5 wd) ra) 0#5) wi) 0#1) 0#1) 1#1) 2#2) w)
  | .vldb wd ra => some (cat (cat (cat (cat (cat (cat (cat (cat (cat 17#5 wd) ra) 0#5) 0#5) 0#1) 0#1) 0#1) 3#2) 0#2)
  | .ecfg ra eng n => some (cat (cat (cat (cat (cat (cat 18#5 0#5) ra) 0#5) eng) 0#5) n)
  | .erd rd eng n => some (cat (cat (cat (cat (cat (cat 18#5 rd) 0#5) 0#5) eng) 1#5) n)
  | .ewait ra => some (cat (cat (cat (cat (cat (cat 18#5 0#5) ra) 0#5) 0#3) 2#5) 0#4)
  | .stream ra rb => some (cat (cat (cat (cat (cat (cat 18#5 0#5) ra) rb) 1#3) 2#5) 0#4)
  | .copyj rd ra rb => some (cat (cat (cat (cat (cat (cat 18#5 rd) ra) rb) 2#3) 2#5) 0#4)
  | .gleanj rd ra rb => some (cat (cat (cat (cat (cat (cat 18#5 rd) ra) rb) 3#3) 2#5) 0#4)
  | .lclaim rd ra => some (cat (cat (cat (cat (cat (cat 18#5 rd) ra) 0#5) 4#3) 2#5) 0#4)
  | .lrelease ra => some (cat (cat (cat (cat (cat (cat 18#5 0#5) ra) 0#5) 4#3) 3#5) 0#4)
  | .lzero ra => some (cat (cat (cat (cat (cat (cat 18#5 0#5) ra) 0#5) 4#3) 4#5) 0#4)
  | .lmmaO ra rb => some (cat (cat (cat (cat (cat (cat 18#5 0#5) ra) rb) 4#3) 5#5) 0#4)
  | .lmmaR ra rb => some (cat (cat (cat (cat (cat (cat 18#5 0#5) ra) rb) 4#3) 6#5) 0#4)
  | .ldrain rd ra => some (cat (cat (cat (cat (cat (cat 18#5 rd) ra) 0#5) 4#3) 7#5) 0#4)
  | .fence ra => some (cat (cat (cat (cat (cat 19#5 0#5) ra) 0#5) 0#8) 0#4)
  | .barr ra => some (cat (cat (cat (cat (cat 19#5 0#5) ra) 0#5) 0#8) 1#4)
  | .gbar => some (cat (cat (cat (cat (cat 19#5 0#5) 0#5) 0#5) 0#8) 2#4)
  | .vote rd ra comb => some (cat (cat (cat (cat (cat (cat 19#5 rd) ra) 0#5) 0#5) comb) 3#4)
  | .abort => some (cat (cat (cat (cat (cat 19#5 0#5) 0#5) 0#5) 0#8) 4#4)
  | .abortq rd => some (cat (cat (cat (cat (cat 19#5 rd) 0#5) 0#5) 0#8) 5#4)
  | .wait ra rb => some (cat (cat (cat (cat (cat 19#5 0#5) ra) rb) 0#8) 6#4)
  | .wake ra => some (cat (cat (cat (cat (cat 19#5 0#5) ra) 0#5) 0#8) 7#4)
  | .lpatch ra rb field => some (cat (cat (cat (cat (cat (cat 20#5 0#5) ra) rb) 0#5) field) 0#4)
  | .larm ra => some (cat (cat (cat (cat (cat 20#5 0#5) ra) 0#5) 0#8) 1#4)
  | .halt ra => some (cat (cat (cat (cat (cat 20#5 0#5) ra) 0#5) 0#8) 2#4)
  | .trap code => some (cat (cat (cat (cat (cat 20#5 0#5) 0#5) 0#5) code) 3#4)
  | .eret => some (cat (cat (cat (cat (cat 20#5 0#5) 0#5) 0#5) 0#8) 4#4)
  | .upret => some (cat (cat (cat (cat (cat 20#5 0#5) 0#5) 0#5) 0#8) 5#4)
  | .irefresh => some (cat (cat (cat (cat (cat 20#5 0#5) 0#5) 0#5) 0#8) 6#4)
  | .discover rd ra => some (cat (cat (cat (cat (cat 20#5 rd) ra) 0#5) 0#8) 7#4)
  | .wAdd hd wd wa wb => some (cat (cat (cat (cat (cat (cat (cat hd.e hd.n) hd.gp) 0#6) wd) wa) wb) 0#2)
  | .wSub hd wd wa wb => some (cat (cat (cat (cat (cat (cat (cat hd.e hd.n) hd.gp) 0#6) wd) wa) wb) 1#2)
  | .wMin hd wd wa wb => some (cat (cat (cat (cat (cat (cat (cat hd.e hd.n) hd.gp) 0#6) wd) wa) wb) 2#2)
  | .wMax hd wd wa wb => some (cat (cat (cat (cat (cat (cat (cat hd.e hd.n) hd.gp) 0#6) wd) wa) wb) 3#2)
  | .wAnd hd wd wa wb => some (cat (cat (cat (cat (cat (cat (cat hd.e hd.n) hd.gp) 1#6) wd) wa) wb) 0#2)
  | .wOr hd wd wa wb => some (cat (cat (cat (cat (cat (cat (cat hd.e hd.n) hd.gp) 1#6) wd) wa) wb) 1#2)
  | .wXor hd wd wa wb => some (cat (cat (cat (cat (cat (cat (cat hd.e hd.n) hd.gp) 1#6) wd) wa) wb) 2#2)
  | .wAndn hd wd wa wb => some (cat (cat (cat (cat (cat (cat (cat hd.e hd.n) hd.gp) 1#6) wd) wa) wb) 3#2)
  | .wSll hd wd wa wb => some (cat (cat (cat (cat (cat (cat (cat hd.e hd.n) hd.gp) 2#6) wd) wa) wb) 0#2)
  | .wSrl hd wd wa wb => some (cat (cat (cat (cat (cat (cat (cat hd.e hd.n) hd.gp) 2#6) wd) wa) wb) 1#2)
  | .wSra hd wd wa wb => some (cat (cat (cat (cat (cat (cat (cat hd.e hd.n) hd.gp) 2#6) wd) wa) wb) 2#2)
  | .wRor hd wd wa wb => some (cat (cat (cat (cat (cat (cat (cat hd.e hd.n) hd.gp) 2#6) wd) wa) wb) 3#2)
  | .wMul hd wd wa wb => some (cat (cat (cat (cat (cat (cat (cat hd.e hd.n) hd.gp) 3#6) wd) wa) wb) 0#2)
  | .wMulh hd wd wa wb => some (cat (cat (cat (cat (cat (cat (cat hd.e hd.n) hd.gp) 3#6) wd) wa) wb) 1#2)
  | .wMulhu hd wd wa wb => some (cat (cat (cat (cat (cat (cat (cat hd.e hd.n) hd.gp) 3#6) wd) wa) wb) 2#2)
  | .wMulhsu hd wd wa wb => some (cat (cat (cat (cat (cat (cat (cat hd.e hd.n) hd.gp) 3#6) wd) wa) wb) 3#2)
  | .wDiv hd wd wa wb => some (cat (cat (cat (cat (cat (cat (cat hd.e hd.n) hd.gp) 4#6) wd) wa) wb) 0#2)
  | .wDivu hd wd wa wb => some (cat (cat (cat (cat (cat (cat (cat hd.e hd.n) hd.gp) 4#6) wd) wa) wb) 1#2)
  | .wRem hd wd wa wb => some (cat (cat (cat (cat (cat (cat (cat hd.e hd.n) hd.gp) 4#6) wd) wa) wb) 2#2)
  | .wRemu hd wd wa wb => some (cat (cat (cat (cat (cat (cat (cat hd.e hd.n) hd.gp) 4#6) wd) wa) wb) 3#2)
  | .wMinu hd wd wa wb => some (cat (cat (cat (cat (cat (cat (cat hd.e hd.n) hd.gp) 5#6) wd) wa) wb) 0#2)
  | .wMaxu hd wd wa wb => some (cat (cat (cat (cat (cat (cat (cat hd.e hd.n) hd.gp) 5#6) wd) wa) wb) 1#2)
  | .wAddi hd wd wa imm => some (cat (cat (cat (cat (cat (cat hd.e hd.n) hd.gp) 6#6) wd) wa) imm)
  | .wSlli hd wd wa sh => some (cat (cat (cat (cat (cat (cat (cat hd.e hd.n) hd.gp) 7#6) wd) wa) 0#1) sh)
  | .wSrli hd wd wa sh => some (cat (cat (cat (cat (cat (cat (cat hd.e hd.n) hd.gp) 8#6) wd) wa) 0#1) sh)
  | .wSrai hd wd wa sh => some (cat (cat (cat (cat (cat (cat (cat hd.e hd.n) hd.gp) 9#6) wd) wa) 0#1) sh)
  | .wMovi hd wd imm => some (cat (cat (cat (cat (cat hd.e hd.n) hd.gp) 10#6) wd) imm)
  | .wCeq hd pd wa wb bank => some (cat (cat (cat (cat (cat (cat (cat hd.e hd.n) hd.gp) 11#6) pd) wa) wb) bank)
  | .wClt hd pd wa wb bank => some (cat (cat (cat (cat (cat (cat (cat hd.e hd.n) hd.gp) 12#6) pd) wa) wb) bank)
  | .wCltu hd pd wa wb bank => some (cat (cat (cat (cat (cat (cat (cat hd.e hd.n) hd.gp) 13#6) pd) wa) wb) bank)
  | .wFceqD hd pd wa wb bank => some (cat (cat (cat (cat (cat (cat (cat hd.e hd.n) hd.gp) 14#6) pd) wa) wb) bank)
  | .wFcltD hd pd wa wb bank => some (cat (cat (cat (cat (cat (cat (cat hd.e hd.n) hd.gp) 15#6) pd) wa) wb) bank)
  | .wFcleD hd pd wa wb bank => some (cat (cat (cat (cat (cat (cat (cat hd.e hd.n) hd.gp) 16#6) pd) wa) wb) bank)
  | .wFceqS hd pd wa wb bank => some (cat (cat (cat (cat (cat (cat (cat hd.e hd.n) hd.gp) 17#6) pd) wa) wb) bank)
  | .wFcltS hd pd wa wb bank => some (cat (cat (cat (cat (cat (cat (cat hd.e hd.n) hd.gp) 18#6) pd) wa) wb) bank)
  | .wFcleS hd pd wa wb bank => some (cat (cat (cat (cat (cat (cat (cat hd.e hd.n) hd.gp) 19#6) pd) wa) wb) bank)
  | .wFadd hd wd wa wb fm => some (cat (cat (cat (cat (cat (cat (cat hd.e hd.n) hd.gp) 20#6) wd) wa) wb) fm)
  | .wFsub hd wd wa wb fm => some (cat (cat (cat (cat (cat (cat (cat hd.e hd.n) hd.gp) 21#6) wd) wa) wb) fm)
  | .wFmul hd wd wa wb fm => some (cat (cat (cat (cat (cat (cat (cat hd.e hd.n) hd.gp) 22#6) wd) wa) wb) fm)
  | .wFma hd wd wa wb fm => some (cat (cat (cat (cat (cat (cat (cat hd.e hd.n) hd.gp) 23#6) wd) wa) wb) fm)
  | .wFms hd wd wa wb fm => some (cat (cat (cat (cat (cat (cat (cat hd.e hd.n) hd.gp) 24#6) wd) wa) wb) fm)
  | .wFnma hd wd wa wb fm => some (cat (cat (cat (cat (cat (cat (cat hd.e hd.n) hd.gp) 25#6) wd) wa) wb) fm)
  | .wFnms hd wd wa wb fm => some (cat (cat (cat (cat (cat (cat (cat hd.e hd.n) hd.gp) 26#6) wd) wa) wb) fm)
  | .wFdiv hd wd wa wb fm => some (cat (cat (cat (cat (cat (cat (cat hd.e hd.n) hd.gp) 27#6) wd) wa) wb) fm)
  | .wFsqrt hd wd wa fm => some (cat (cat (cat (cat (cat (cat (cat hd.e hd.n) hd.gp) 28#6) wd) wa) 0#5) fm)
  | .wFmin hd wd wa wb fm => some (cat (cat (cat (cat (cat (cat (cat hd.e hd.n) hd.gp) 29#6) wd) wa) wb) fm)
  | .wFmax hd wd wa wb fm => some (cat (cat (cat (cat (cat (cat (cat hd.e hd.n) hd.gp) 30#6) wd) wa) wb) fm)
  | .wFabs hd wd wa fm => some (cat (cat (cat (cat (cat (cat (cat hd.e hd.n) hd.gp) 31#6) wd) wa) 0#5) fm)
  | .wFneg hd wd wa fm => some (cat (cat (cat (cat (cat (cat (cat hd.e hd.n) hd.gp) 32#6) wd) wa) 0#5) fm)
  | .wExp2 hd wd wa fm => some (cat (cat (cat (cat (cat (cat (cat hd.e hd.n) hd.gp) 33#6) wd) wa) 0#5) fm)
  | .wLog2 hd wd wa fm => some (cat (cat (cat (cat (cat (cat (cat hd.e hd.n) hd.gp) 34#6) wd) wa) 0#5) fm)
  | .wRcp hd wd wa fm => some (cat (cat (cat (cat (cat (cat (cat hd.e hd.n) hd.gp) 35#6) wd) wa) 0#5) fm)
  | .wRsqrt hd wd wa fm => some (cat (cat (cat (cat (cat (cat (cat hd.e hd.n) hd.gp) 36#6) wd) wa) 0#5) fm)
  | .wCvthSD hd wd wa wb => some (cat (cat (cat (cat (cat (cat (cat hd.e hd.n) hd.gp) 37#6) wd) wa) wb) 0#2)
  | .wCvthHS hd wd wa wb => some (cat (cat (cat (cat (cat (cat (cat hd.e hd.n) hd.gp) 37#6) wd) wa) wb) 1#2)
  | .wCvthBS hd wd wa wb => some (cat (cat (cat (cat (cat (cat (cat hd.e hd.n) hd.gp) 37#6) wd) wa) wb) 2#2)
  | .wCvthT8H hd wd wa wb => some (cat (cat (cat (cat (cat (cat (cat hd.e hd.n) hd.gp) 37#6) wd) wa) wb) 3#2)
  | .wCvthE4H hd wd wa wb => some (cat (cat (cat (cat (cat (cat (cat hd.e hd.n) hd.gp) 38#6) wd) wa) wb) 0#2)
  | .wCvthE5H hd wd wa wb => some (cat (cat (cat (cat (cat (cat (cat hd.e hd.n) hd.gp) 38#6) wd) wa) wb) 1#2)
  | .wCvthT6T8 hd wd wa => some (cat (cat (cat (cat (cat (cat (cat hd.e hd.n) hd.gp) 38#6) wd) wa) 0#5) 2#2)
  | .wCvtdDS hd wd wa h => some (cat (cat (cat (cat (cat (cat (cat (cat hd.e hd.n) hd.gp) 39#6) wd) wa) 0#4) h) 0#2)
  | .wCvtdSH hd wd wa h => some (cat (cat (cat (cat (cat (cat (cat (cat hd.e hd.n) hd.gp) 39#6) wd) wa) 0#4) h) 1#2)
  | .wCvtdSB hd wd wa h => some (cat (cat (cat (cat (cat (cat (cat (cat hd.e hd.n) hd.gp) 39#6) wd) wa) 0#4) h) 2#2)
  | .wCvtdHT8 hd wd wa h => some (cat (cat (cat (cat (cat (cat (cat (cat hd.e hd.n) hd.gp) 39#6) wd) wa) 0#4) h) 3#2)
  | .wCvtdHE4 hd wd wa h => some (cat (cat (cat (cat (cat (cat (cat (cat hd.e hd.n) hd.gp) 40#6) wd) wa) 0#4) h) 0#2)
  | .wCvtdHE5 hd wd wa h => some (cat (cat (cat (cat (cat (cat (cat (cat hd.e hd.n) hd.gp) 40#6) wd) wa) 0#4) h) 1#2)
  | .wCvtdT8T6 hd wd wa => some (cat (cat (cat (cat (cat (cat (cat hd.e hd.n) hd.gp) 40#6) wd) wa) 0#5) 2#2)
  | .wCvtF4 hd wd wa => some (cat (cat (cat (cat (cat (cat (cat hd.e hd.n) hd.gp) 41#6) wd) wa) 0#5) 0#2)
  | .wCvtfi hd wd wa s => some (cat (cat (cat (cat (cat (cat (cat (cat hd.e hd.n) hd.gp) 42#6) wd) wa) 0#5) 0#1) s)
  | .wCvtfu hd wd wa s => some (cat (cat (cat (cat (cat (cat (cat (cat hd.e hd.n) hd.gp) 43#6) wd) wa) 0#5) 0#1) s)
  | .wCvtif hd wd wa s => some (cat (cat (cat (cat (cat (cat (cat (cat hd.e hd.n) hd.gp) 44#6) wd) wa) 0#5) 0#1) s)
  | .wCvtuf hd wd wa s => some (cat (cat (cat (cat (cat (cat (cat (cat hd.e hd.n) hd.gp) 45#6) wd) wa) 0#5) 0#1) s)
  | .wPand hd pd pa pb bank => some (cat (cat (cat (cat (cat (cat (cat hd.e hd.n) hd.gp) 46#6) pd) pa) pb) bank)
  | .wPor hd pd pa pb bank => some (cat (cat (cat (cat (cat (cat (cat hd.e hd.n) hd.gp) 47#6) pd) pa) pb) bank)
  | .wPxor hd pd pa pb bank => some (cat (cat (cat (cat (cat (cat (cat hd.e hd.n) hd.gp) 48#6) pd) pa) pb) bank)
  | .wPandn hd pd pa pb bank => some (cat (cat (cat (cat (cat (cat (cat hd.e hd.n) hd.gp) 49#6) pd) pa) pb) bank)
  | .wPmov hd pd pa sbank bank => some (cat (cat (cat (cat (cat (cat (cat (cat hd.e hd.n) hd.gp) 50#6) pd) pa) 0#3) sbank) bank)
  | .wLd hd wd wa wb wid => some (cat (cat (cat (cat (cat (cat (cat hd.e hd.n) hd.gp) 51#6) wd) wa) wb) wid)
  | .wLds hd wd wa wb wid => some (cat (cat (cat (cat (cat (cat (cat hd.e hd.n) hd.gp) 52#6) wd) wa) wb) wid)
  | .wSt hd wd wa wb wid => some (cat (cat (cat (cat (cat (cat (cat hd.e hd.n) hd.gp) 53#6) wd) wa) wb) wid)
  | .wSpld hd wd wa wb => some (cat (cat (cat (cat (cat (cat (cat hd.e hd.n) hd.gp) 54#6) wd) wa) wb) 0#2)
  | .wSpst hd wd wa wb => some (cat (cat (cat (cat (cat (cat (cat hd.e hd.n) hd.gp) 55#6) wd) wa) wb) 0#2)
  | .wAadd hd wd wa wb => some (cat (cat (cat (cat (cat (cat (cat hd.e hd.n) hd.gp) 56#6) wd) wa) wb) 0#2)
  | .wAswap hd wd wa wb => some (cat (cat (cat (cat (cat (cat (cat hd.e hd.n) hd.gp) 56#6) wd) wa) wb) 1#2)
  | .wAcas hd wd wa wb => some (cat (cat (cat (cat (cat (cat (cat hd.e hd.n) hd.gp) 56#6) wd) wa) wb) 2#2)
  | .wThfetch hd imm => some (cat (cat (cat (cat (cat hd.e hd.n) hd.gp) 57#6) 0#5) imm)
  | .wThfetchr hd wa => some (cat (cat (cat (cat (cat (cat (cat hd.e hd.n) hd.gp) 58#6) 0#5) wa) 0#5) 0#2)
  | .wStop hd => some (cat (cat (cat (cat (cat (cat (cat hd.e hd.n) hd.gp) 59#6) 0#5) 0#5) 0#5) 0#2)
  | .wIdx hd wd => some (cat (cat (cat (cat (cat (cat (cat hd.e hd.n) hd.gp) 59#6) wd) 0#5) 0#5) 1#2)
  | .wSel hd wd wa wb => some (cat (cat (cat (cat (cat (cat (cat hd.e hd.n) hd.gp) 59#6) wd) wa) wb) 2#2)
  | .wRng hd wd wa wb => some (cat (cat (cat (cat (cat (cat (cat hd.e hd.n) hd.gp) 60#6) wd) wa) wb) 0#2)
  | .wFsinS2 hd wd wa => some (cat (cat (cat (cat (cat (cat (cat hd.e hd.n) hd.gp) 61#6) wd) wa) 0#5) 0#2)
  | .wFcosS2 hd wd wa => some (cat (cat (cat (cat (cat (cat (cat hd.e hd.n) hd.gp) 61#6) wd) wa) 0#5) 1#2)
  | .wPnot hd pd pa bank => some (cat (cat (cat (cat (cat (cat (cat hd.e hd.n) hd.gp) 62#6) pd) pa) 0#5) bank)
  | .tlbinvWrite => none
  | .setvlGrantReturn => none
  | .vsyncReturn => none
  | .vectorAccessDone => none
  | .ewaitReturn => none
  | .fenceReturn => none
  | .barrierComplete => none
  | .gbarComplete => none
  | .voteComplete => none
  | .waitReturn => none
  | .hubLpatchRequest => none
  | .hubLarmRequest => none
  | .haltDrainEnd => none
  | .doneMessage => none
  | .blockBegin => none
  | .blockCommit => none
  | .loadDataReturn => none
  | .laneRotation => none
  | .spillComplete => none
  | .restoreComplete => none
  | .laneClearingDone => none
  | .frameBoundary => none
  | .revocationDeadline => none
  | .contextSave => none
  | .agingTick => none
  | .powerPressure => none
  | .powerPressureEnd => none
  | .clockHop => none
  | .droopDuringHop => none
  | .clockHopRetry => none
  | .laneRetirement => none
  | .wayRetirement => none
  | .dispositionSet => none
  | .droverMove => none
  | .loomTokenWaitEnd => none
  | .jobStart => none
  | .copyJobComplete => none
  | .gleanerJobComplete => none
  | .loomChunk => none
  | .packetReport => none
  | .windowStoreArrival => none
  | .windowLoadArrival => none
  | .postedStoreFault => none
  | .emulationTrip => none
  | .promptTrap => none
  | .barrierTimeout => none
  | .vsyncTimeout => none
  | .leaseLapse => none
  | .unitWakeUp => none
  | .preemptionStop => none
  | .rollback => none
  | .hostRequest => none
  | .remoteRequest => none
  | .doorbell => none
  | .registerWrite => none
  | .build => none
  | .release => none
  | .cfgstage => none
  | .wlogrc => none
  | .member => none
  | .group => none
  | .coll => none
  | .savereg => none
  | .preempt => none
  | .resume => none
  | .importImg => none
  | .prq => none
  | .snapreg => none
  | .pclear => none
  | .summary => none
  | .undefinedMailboxOpcode => none
  | .lockInterfaceRequest => none
  | .getDeviceInterfaceReport => none
  | .startInterfaceRequest => none
  | .stopInterfaceRequest => none
  | .lockedBarWrite => none
  | .ideIntegrityFailure => none
  | .spdmMeasurement => none
  | .flitReceive => none
  | .acknowledgement => none
  | .negativeAcknowledgement => none
  | .laneLost => none
  | .retrainDone => none
  | .collectiveRoundDone => none
  | .collectiveTimeout => none
  | .abortMessage => none
  | .timeSlotStart => none
  | .channelRequest => none
  | .vectorRequestPacket => none
  | .stackRetirementStart => none
  | .retirementEnd => none
  | .stackAnswerTimeout => none
  | .stackDead => none
  | .refreshBreak => none
  | .coldReset => none
  | .warmReset => none
  | .bounceReceived => none
  | .sysRevocation => none
  | .retentionRelease => none

/-- The two streams of words, and the steps that have none. -/
inductive Stream where
  /-- Zavan-C: the words of control threads. -/
  | control
  /-- Zavan-W: the words of micro-thread blocks. -/
  | micro
  /-- A step of another agent. -/
  | event
  deriving DecidableEq, Repr

/-- The stream a constructor belongs to. -/
def Instr.streamOf : Instr → Stream
  | .add _ _ _ => .control
  | .sub _ _ _ => .control
  | .and_ _ _ _ => .control
  | .or_ _ _ _ => .control
  | .xor_ _ _ _ => .control
  | .andn _ _ _ => .control
  | .orn _ _ _ => .control
  | .xnor _ _ _ => .control
  | .sll _ _ _ => .control
  | .srl _ _ _ => .control
  | .sra _ _ _ => .control
  | .rol _ _ _ => .control
  | .ror _ _ _ => .control
  | .slt _ _ _ => .control
  | .sltu _ _ _ => .control
  | .seq _ _ _ => .control
  | .sne _ _ _ => .control
  | .min_ _ _ _ => .control
  | .max_ _ _ _ => .control
  | .minu _ _ _ => .control
  | .maxu _ _ _ => .control
  | .clz _ _ => .control
  | .ctz _ _ => .control
  | .popc _ _ => .control
  | .sextb _ _ => .control
  | .sexth _ _ => .control
  | .sextw _ _ => .control
  | .addi _ _ _ => .control
  | .andi _ _ _ => .control
  | .ori _ _ _ => .control
  | .xori _ _ _ => .control
  | .slli _ _ _ => .control
  | .srli _ _ _ => .control
  | .srai _ _ _ => .control
  | .rori _ _ _ => .control
  | .slti _ _ _ => .control
  | .sltiu _ _ _ => .control
  | .seqi _ _ _ => .control
  | .mul _ _ _ => .control
  | .mulh _ _ _ => .control
  | .mulhu _ _ _ => .control
  | .mulhsu _ _ _ => .control
  | .div _ _ _ => .control
  | .divu _ _ _ => .control
  | .rem _ _ _ => .control
  | .remu _ _ _ => .control
  | .fadd _ _ _ _ => .control
  | .fsub _ _ _ _ => .control
  | .fmul _ _ _ _ => .control
  | .fdiv _ _ _ _ => .control
  | .fsqrt _ _ _ => .control
  | .fmin _ _ _ _ => .control
  | .fmax _ _ _ _ => .control
  | .fabs _ _ _ => .control
  | .fneg _ _ _ => .control
  | .fmadd _ _ _ _ => .control
  | .fmsub _ _ _ _ => .control
  | .fnmadd _ _ _ _ => .control
  | .fnmsub _ _ _ _ => .control
  | .feq _ _ _ _ => .control
  | .flt _ _ _ _ => .control
  | .fle _ _ _ _ => .control
  | .fcvtL _ _ _ => .control
  | .fcvtLu _ _ _ => .control
  | .fcvtFromL _ _ _ => .control
  | .fcvtFromLu _ _ _ => .control
  | .fcvtW _ _ _ => .control
  | .fcvtWu _ _ _ => .control
  | .fcvtFromW _ _ _ => .control
  | .fcvtFromWu _ _ _ => .control
  | .fcvtDS _ _ => .control
  | .fcvtSD _ _ => .control
  | .fclass _ _ _ => .control
  | .lb _ _ _ => .control
  | .lh _ _ _ => .control
  | .lw _ _ _ => .control
  | .ld _ _ _ => .control
  | .lbu _ _ _ => .control
  | .lhu _ _ _ => .control
  | .lwu _ _ _ => .control
  | .sb _ _ _ => .control
  | .sh _ _ _ => .control
  | .sw _ _ _ => .control
  | .sd _ _ _ => .control
  | .amoadd _ _ _ _ => .control
  | .amoswap _ _ _ _ => .control
  | .amocas _ _ _ _ => .control
  | .amomin _ _ _ _ => .control
  | .amomax _ _ _ _ => .control
  | .amominu _ _ _ _ => .control
  | .amomaxu _ _ _ _ => .control
  | .amoand _ _ _ _ => .control
  | .amoor _ _ _ _ => .control
  | .beq _ _ _ => .control
  | .bne _ _ _ => .control
  | .blt _ _ _ => .control
  | .bge _ _ _ => .control
  | .bltu _ _ _ => .control
  | .bgeu _ _ _ => .control
  | .jal _ _ => .control
  | .lui _ _ => .control
  | .auipc _ _ => .control
  | .jalr _ _ _ => .control
  | .callt _ _ _ => .control
  | .loop_ _ _ => .control
  | .endloop => .control
  | .csrr _ _ => .control
  | .csrw _ _ => .control
  | .csrs _ _ => .control
  | .csrc _ _ => .control
  | .setvl _ _ => .control
  | .vfetch _ => .control
  | .vloop _ _ => .control
  | .vsync _ => .control
  | .vget _ _ _ => .control
  | .vput _ _ _ => .control
  | .vsetc _ _ => .control
  | .vld _ _ _ _ => .control
  | .vst _ _ _ => .control
  | .vlds _ _ _ _ _ => .control
  | .vsts _ _ _ _ => .control
  | .vldx _ _ _ _ _ => .control
  | .vstx _ _ _ _ => .control
  | .vldb _ _ => .control
  | .ecfg _ _ _ => .control
  | .erd _ _ _ => .control
  | .ewait _ => .control
  | .stream _ _ => .control
  | .copyj _ _ _ => .control
  | .gleanj _ _ _ => .control
  | .lclaim _ _ => .control
  | .lrelease _ => .control
  | .lzero _ => .control
  | .lmmaO _ _ => .control
  | .lmmaR _ _ => .control
  | .ldrain _ _ => .control
  | .fence _ => .control
  | .barr _ => .control
  | .gbar => .control
  | .vote _ _ _ => .control
  | .abort => .control
  | .abortq _ => .control
  | .wait _ _ => .control
  | .wake _ => .control
  | .lpatch _ _ _ => .control
  | .larm _ => .control
  | .halt _ => .control
  | .trap _ => .control
  | .eret => .control
  | .upret => .control
  | .irefresh => .control
  | .discover _ _ => .control
  | .wAdd _ _ _ _ => .micro
  | .wSub _ _ _ _ => .micro
  | .wMin _ _ _ _ => .micro
  | .wMax _ _ _ _ => .micro
  | .wAnd _ _ _ _ => .micro
  | .wOr _ _ _ _ => .micro
  | .wXor _ _ _ _ => .micro
  | .wAndn _ _ _ _ => .micro
  | .wSll _ _ _ _ => .micro
  | .wSrl _ _ _ _ => .micro
  | .wSra _ _ _ _ => .micro
  | .wRor _ _ _ _ => .micro
  | .wMul _ _ _ _ => .micro
  | .wMulh _ _ _ _ => .micro
  | .wMulhu _ _ _ _ => .micro
  | .wMulhsu _ _ _ _ => .micro
  | .wDiv _ _ _ _ => .micro
  | .wDivu _ _ _ _ => .micro
  | .wRem _ _ _ _ => .micro
  | .wRemu _ _ _ _ => .micro
  | .wMinu _ _ _ _ => .micro
  | .wMaxu _ _ _ _ => .micro
  | .wAddi _ _ _ _ => .micro
  | .wSlli _ _ _ _ => .micro
  | .wSrli _ _ _ _ => .micro
  | .wSrai _ _ _ _ => .micro
  | .wMovi _ _ _ => .micro
  | .wCeq _ _ _ _ _ => .micro
  | .wClt _ _ _ _ _ => .micro
  | .wCltu _ _ _ _ _ => .micro
  | .wFceqD _ _ _ _ _ => .micro
  | .wFcltD _ _ _ _ _ => .micro
  | .wFcleD _ _ _ _ _ => .micro
  | .wFceqS _ _ _ _ _ => .micro
  | .wFcltS _ _ _ _ _ => .micro
  | .wFcleS _ _ _ _ _ => .micro
  | .wFadd _ _ _ _ _ => .micro
  | .wFsub _ _ _ _ _ => .micro
  | .wFmul _ _ _ _ _ => .micro
  | .wFma _ _ _ _ _ => .micro
  | .wFms _ _ _ _ _ => .micro
  | .wFnma _ _ _ _ _ => .micro
  | .wFnms _ _ _ _ _ => .micro
  | .wFdiv _ _ _ _ _ => .micro
  | .wFsqrt _ _ _ _ => .micro
  | .wFmin _ _ _ _ _ => .micro
  | .wFmax _ _ _ _ _ => .micro
  | .wFabs _ _ _ _ => .micro
  | .wFneg _ _ _ _ => .micro
  | .wExp2 _ _ _ _ => .micro
  | .wLog2 _ _ _ _ => .micro
  | .wRcp _ _ _ _ => .micro
  | .wRsqrt _ _ _ _ => .micro
  | .wCvthSD _ _ _ _ => .micro
  | .wCvthHS _ _ _ _ => .micro
  | .wCvthBS _ _ _ _ => .micro
  | .wCvthT8H _ _ _ _ => .micro
  | .wCvthE4H _ _ _ _ => .micro
  | .wCvthE5H _ _ _ _ => .micro
  | .wCvthT6T8 _ _ _ => .micro
  | .wCvtdDS _ _ _ _ => .micro
  | .wCvtdSH _ _ _ _ => .micro
  | .wCvtdSB _ _ _ _ => .micro
  | .wCvtdHT8 _ _ _ _ => .micro
  | .wCvtdHE4 _ _ _ _ => .micro
  | .wCvtdHE5 _ _ _ _ => .micro
  | .wCvtdT8T6 _ _ _ => .micro
  | .wCvtF4 _ _ _ => .micro
  | .wCvtfi _ _ _ _ => .micro
  | .wCvtfu _ _ _ _ => .micro
  | .wCvtif _ _ _ _ => .micro
  | .wCvtuf _ _ _ _ => .micro
  | .wPand _ _ _ _ _ => .micro
  | .wPor _ _ _ _ _ => .micro
  | .wPxor _ _ _ _ _ => .micro
  | .wPandn _ _ _ _ _ => .micro
  | .wPmov _ _ _ _ _ => .micro
  | .wLd _ _ _ _ _ => .micro
  | .wLds _ _ _ _ _ => .micro
  | .wSt _ _ _ _ _ => .micro
  | .wSpld _ _ _ _ => .micro
  | .wSpst _ _ _ _ => .micro
  | .wAadd _ _ _ _ => .micro
  | .wAswap _ _ _ _ => .micro
  | .wAcas _ _ _ _ => .micro
  | .wThfetch _ _ => .micro
  | .wThfetchr _ _ => .micro
  | .wStop _ => .micro
  | .wIdx _ _ => .micro
  | .wSel _ _ _ _ => .micro
  | .wRng _ _ _ _ => .micro
  | .wFsinS2 _ _ _ => .micro
  | .wFcosS2 _ _ _ => .micro
  | .wPnot _ _ _ _ => .micro
  | .tlbinvWrite => .event
  | .setvlGrantReturn => .event
  | .vsyncReturn => .event
  | .vectorAccessDone => .event
  | .ewaitReturn => .event
  | .fenceReturn => .event
  | .barrierComplete => .event
  | .gbarComplete => .event
  | .voteComplete => .event
  | .waitReturn => .event
  | .hubLpatchRequest => .event
  | .hubLarmRequest => .event
  | .haltDrainEnd => .event
  | .doneMessage => .event
  | .blockBegin => .event
  | .blockCommit => .event
  | .loadDataReturn => .event
  | .laneRotation => .event
  | .spillComplete => .event
  | .restoreComplete => .event
  | .laneClearingDone => .event
  | .frameBoundary => .event
  | .revocationDeadline => .event
  | .contextSave => .event
  | .agingTick => .event
  | .powerPressure => .event
  | .powerPressureEnd => .event
  | .clockHop => .event
  | .droopDuringHop => .event
  | .clockHopRetry => .event
  | .laneRetirement => .event
  | .wayRetirement => .event
  | .dispositionSet => .event
  | .droverMove => .event
  | .loomTokenWaitEnd => .event
  | .jobStart => .event
  | .copyJobComplete => .event
  | .gleanerJobComplete => .event
  | .loomChunk => .event
  | .packetReport => .event
  | .windowStoreArrival => .event
  | .windowLoadArrival => .event
  | .postedStoreFault => .event
  | .emulationTrip => .event
  | .promptTrap => .event
  | .barrierTimeout => .event
  | .vsyncTimeout => .event
  | .leaseLapse => .event
  | .unitWakeUp => .event
  | .preemptionStop => .event
  | .rollback => .event
  | .hostRequest => .event
  | .remoteRequest => .event
  | .doorbell => .event
  | .registerWrite => .event
  | .build => .event
  | .release => .event
  | .cfgstage => .event
  | .wlogrc => .event
  | .member => .event
  | .group => .event
  | .coll => .event
  | .savereg => .event
  | .preempt => .event
  | .resume => .event
  | .importImg => .event
  | .prq => .event
  | .snapreg => .event
  | .pclear => .event
  | .summary => .event
  | .undefinedMailboxOpcode => .event
  | .lockInterfaceRequest => .event
  | .getDeviceInterfaceReport => .event
  | .startInterfaceRequest => .event
  | .stopInterfaceRequest => .event
  | .lockedBarWrite => .event
  | .ideIntegrityFailure => .event
  | .spdmMeasurement => .event
  | .flitReceive => .event
  | .acknowledgement => .event
  | .negativeAcknowledgement => .event
  | .laneLost => .event
  | .retrainDone => .event
  | .collectiveRoundDone => .event
  | .collectiveTimeout => .event
  | .abortMessage => .event
  | .timeSlotStart => .event
  | .channelRequest => .event
  | .vectorRequestPacket => .event
  | .stackRetirementStart => .event
  | .retirementEnd => .event
  | .stackAnswerTimeout => .event
  | .stackDead => .event
  | .refreshBreak => .event
  | .coldReset => .event
  | .warmReset => .event
  | .bounceReceived => .event
  | .sysRevocation => .event
  | .retentionRelease => .event

/-- The instruction a word of the opcode table names: a control thread's word, or else a micro-thread's.
The two streams share the words, so a word that both streams define is read as a control thread's. -/
def decodeTableWord (nbits w : Nat) : Option Instr :=
  if nbits = 32 then
    match decodeC (BitVec.ofNat 32 w) with
    | .ok i => some i
    | .error _ =>
      match decodeW (BitVec.ofNat 32 w) with
      | .ok i => some i
      | .error _ => none
  else none

end Sys2Proof
end

