-- ==== Sys2Proof/Config.lean ====
section
/-!
DEFINITION. What an implementation fixes: the configuration image (R333), the order of the module's parts, and the
functions the spec names without giving their bits.

The spec gives the image's contents but no image.  `CfgImage.plain` is the image this model resets with: no partition
but partition 0 over the whole mesh, full pools, nothing retired and nothing emulated but the two retired classes
(log 4).  An `opaque` constant has no body, so nothing can be proved of its value (log 5, log 6).
-/

namespace Sys2Proof

/-- One partition definition of the configuration image: its power grant, its cores and its memory (R323, R327, R333). -/
structure PartDef where
  /-- Partition number 0-15. -/
  part : Nat
  /-- The rectangle of its cores, packed as in R8. -/
  cores : Word
  /-- Power granted, in W (R327). -/
  pgrant : Nat
  /-- Highest clock it may ask for, in MHz (R327). -/
  fcap : Nat
  /-- Clocks above 3,300 MHz allowed (R327). -/
  boost : Bool
  /-- Sys handler address, the reset value of `stvec`, which placement loads too (R370). -/
  stvec : Word
  /-- Fw handler address, the reset value of `ftvec` (R370). -/
  ftvec : Word
  /-- Memory grant: base and length of each range (R323). -/
  grants : List (Nat × Nat)
  /-- Member slots assigned to it (R341). -/
  slots : List Nat
  /-- Collective groups assigned to it (R341). -/
  groups : List Nat
  deriving DecidableEq, Repr

/-- The configuration image (R333). -/
structure CfgImage where
  /-- Lane positions missing for good, and spare lanes left, of each cluster (R86). -/
  missingLanes : List (Nat × Nat)
  /-- Spare lanes used, of each cluster. -/
  sparesUsed : Table Nat
  /-- Mesh cores missing (R437). -/
  missingCores : List Nat
  /-- Clusters whose spare core is in use (R436). -/
  spareCores : List Nat
  /-- Stacks that have been retired, with the table of R318. -/
  retired : List Nat
  /-- Stacks dead with their slots in place (R420). -/
  deadInPlace : List Nat
  /-- Disposition bits 4:0 (R199). -/
  disposition : BitVec 5
  /-- Partition definitions. -/
  parts : List PartDef
  /-- Silicon stepping (R306). -/
  stepping : BitVec 8
  /-- Time-slot entries that differ from `Config.slotEntry`: key stack*2048 + channel*64 + slot (R140). -/
  slots : Table Byte
  /-- Regulator trims of the lanes, one number per lane that is trimmed (R330, R333). -/
  trims : Table Nat
  /-- Corrected-error threshold of a link lane (R430). -/
  laneThreshold : Nat
  /-- Spare maps of cache ways (R333, R436): for each cluster the L1s (bit = core) and the L2 slices whose spare way is
  in use, and the ways out of service, by unit number. -/
  l1Ways : Table Nat
  l2Ways : Table Nat
  waysOut : List Nat
  /-- Spare map of link lanes: the port directions, 2*port + direction, whose spare lane takes a lane's place. -/
  linkSpares : List Nat
  /-- Each die's share of the module's power that firmware sets at bring-up, in W (R25). -/
  shares : Table Nat
  deriving DecidableEq, Repr

/-- The image the model resets with (DESIGN CHOICE, log 4; unsafe: another image gives another machine). -/
def CfgImage.plain : CfgImage :=
  { missingLanes := [], sparesUsed := [], missingCores := [], spareCores := [], retired := [], deadInPlace := [],
    disposition := 0,
    parts := [{ part := 0, cores := 0x1F0F0000, pgrant := 3600, fcap := 3300, boost := false, stvec := 0, ftvec := 0,
                grants := [(0, 0xB400000000), (0x10000000000, 0x15000000000)],
                slots := List.range 1024, groups := List.range 64 }],
    stepping := 0, slots := [], trims := [], laneThreshold := 0,
    l1Ways := [], l2Ways := [], waysOut := [], linkSpares := [], shares := [] }

/-- The time-slot entry of a channel that the image does not set: slots 0 and 32 refresh, slots 16 and 48 the Fuller
and the remap engine (R140), every other slot partition 0 with donation (DESIGN CHOICE, log 4). -/
def Config.slotEntry (slot : Nat) : Byte :=
  if slot % 32 = 0 then 0x20 else if slot % 32 = 16 then 0x40 else 0x10

/-- A value that the spec leaves open, fresh at each use (log 5). -/
opaque Config.freeValue : Nat → Word

/-- SHA3-256 of a message given as words, as four words (R332, R334; log 6). -/
opaque Config.sha3 : List Word → List Word

/-- The standard interface information of a partition's trusted interface, which the spec names without its bytes (R336;
log 87). -/
opaque Config.interfaceInfo : Nat → List Word

/-- The module's ML-DSA-44 signature of a message (R334; log 6). -/
opaque Config.sign : List Word → List Word

/-- The configuration image that the bytes of a CFGSTAGE buffer hold, none when its signature fails (R332, R333; log 6). -/
opaque Config.readImage : List Word → Option CfgImage

/-- The bytes of a configuration image as words, of which measurements 3 and 4 are digests (R334; log 6). -/
opaque Config.imageWords : CfgImage → List Word

/-- The boot ROM and the Dunsen firmware image, of which measurements 1 and 2 are digests (R334; log 6). -/
opaque Config.bootRom : List Word

/-- The Dunsen firmware image (R334; log 6). -/
opaque Config.firmware : List Word

end Sys2Proof
end

