-- ==== Sys2Proof/Machine/State.lean ====
section
/-!
DEFINITION. The state of the module, as plain data, and the state after reset.

Each unit of the module is a structure: a control-thread context, a micro-thread, a cluster, a launch record, a
mailbox, a link direction and so on; `State` holds tables of them.  A unit that a table does not list stands at its
reset value.  Numbers: context `4*(32*row + col) + ctx`, micro-thread `512*context + local index`, core `32*row + col`,
lane `32*row + col` of its cluster's lane array.  Where the spec gives a register no reset value, log 3 names it.
-/

namespace Sys2Proof.Machine

/-- The privilege levels (R369). -/
inductive Level where
  | app
  | sys
  | fw
  deriving DecidableEq, Repr

/-- The states of a grant; the order is that of `grant`.state (R68, R77). -/
inductive GState where
  | idle
  | requested
  | granted
  | shrinking
  | spilled
  | revoked
  deriving DecidableEq, Repr

/-- The states of a micro-thread (R32, R375). -/
inductive MState where
  | idle
  | running
  | stopped
  | faulted
  deriving DecidableEq, Repr

/-- A cause and the value that stval or a fault address takes (R371, R403). -/
structure Exc where
  cause : BitVec 8
  val : Word
  deriving DecidableEq, Repr

/-- An entry of the loop stack (R226). -/
structure LoopEnt where
  start : Word
  stop : Word
  count : Word
  deriving DecidableEq, Repr

/-- The trap registers of one level (R370). -/
structure TrapRegs where
  vec : Word
  cause : BitVec 8
  epc : Word
  val : Word
  ldepth : BitVec 3
  plev : BitVec 2
  scratch : Word
  deriving DecidableEq, Repr

/-- What a sequencer entry captures (R44, R102, R129, R256). -/
structure Captured where
  cs : Table Word
  vbase : Word
  srnkey : Word
  bfmt : Word
  wrm : BitVec 3
  deriving DecidableEq, Repr

/-- A sequencer entry (R41).  `picks` holds the micro-thread the checker chose for each broadcast begun (R421), and
`held` the instruction words the entry holds, none where it has still to fetch them (R173). -/
structure SeqEntry where
  id : Nat
  addr : Word
  count : Nat
  held : List IWord
  cap : Captured
  picks : Table Nat
  deriving DecidableEq, Repr

/-- A job of the Loom queue (R267, R378).  `tokens` is what its chunk in progress has taken (R331). -/
structure LoomJob where
  num : Word
  kind : BitVec 3
  ra : Word
  rb : Word
  lg0 : BitVec 32
  chunk : Nat
  started : Bool
  tokens : Nat
  /-- Side of the square that the job was submitted on (R281). -/
  side : Nat
  /-- The partial sums of `lmma.r`: sum `p` of element `e` at `16*e + p` (R111). -/
  parts : Table (BitVec 32)
  deriving DecidableEq, Repr

/-- A doubleword on its way: its value, how the check beside it differs from the right one, and its poison mark (R308,
R311, R405). -/
structure Datum where
  v : Word
  synd : Byte
  mark : Bool
  deriving DecidableEq, Repr

/-- A copy or Gleaner job (R271, R275, R378).  `card` is the copy card, or `gg0`-`gg15`. -/
structure Job where
  num : Word
  glean : Bool
  card : List Word
  count : Nat
  done : Word
  /-- Read and write footprints as physical ranges (R267). -/
  reads : List (Nat × Nat)
  writes : List (Nat × Nat)
  flags : BitVec 7
  /-- Restart point: row and byte within the row, or entry index and 0 (R378). -/
  row : Nat
  byte : Nat
  started : Bool
  level : Level
  /-- `lg0` as it stood at the `copyj` of a card with a follow-on (R273). -/
  lg0 : BitVec 32
  /-- Domain packets sent and not yet reported performed (R443). -/
  packets : Nat
  /-- The entries of the resident table that its footprints went through when it was submitted: a job in flight
  completes under them (R136); none for a job that an image has brought back, until it starts again. -/
  pages : Option (Table Word)
  /-- The cause that an access of it met after it had waited at a register window, or that stops it once its completion word
  can be written (R121, R389). -/
  fail : Option (BitVec 8)
  /-- What reads of register windows that waited there, and reads of other members, have come back with, by virtual
  address (R121, R339). -/
  got : Table Datum
  /-- Of a piece that covers a whole sector, the doublewords still to move, and whether one of those moved was marked (R272,
  R406). -/
  left : Nat
  marked : Bool
  deriving DecidableEq, Repr

/-- What a parked context waits for (R30). -/
inductive Why where
  /-- The instruction at the pc runs again when the context is scheduled: a full queue, a REVOKED grant, a drain. -/
  | again
  /-- `setvl`, for the Ostler's grant (R70). -/
  | setvl
  /-- `vsync`, since a tick (R257, R376). -/
  | vsync (since : Nat)
  /-- A class 17 instruction, `stream` or `ldrain`, with its scalar operands, until its elements are performed (R262):
  those to do, those whose remote data are awaited, and the element that failed (R261). -/
  | elems (i : Instr) (ra rb : Word) (left sent : List Nat) (stop : Option (Nat × Exc))
  /-- `ewait` (R270). -/
  | ewait (upto : Word)
  /-- `fence` (R286). -/
  | fence (scope : Word)
  /-- An arrival at a barrier: kind 0 `barr`, 1 `gbar`, 2 `vote`; combiner and value of a `vote` (R287). -/
  | barrier (kind : Nat) (scope : Word) (sense : Bool) (comb : Nat) (value : Word) (since : Nat)
  /-- `wait` on a physical doubleword, for a virtual one (R294). -/
  | watch (key : Nat) (value : Word) (va : Word)
  /-- `lpatch`, for the hub's reply (R298). -/
  | lpatch (rec : Nat) (field : Nat) (value : Word)
  /-- `larm`, for the hub's reply (R299). -/
  | larm (rec : Nat)
  /-- `halt`, in its drains (R301). -/
  | halt (app : BitVec 8)
  /-- A window load at a physical address, for a virtual one (R157). -/
  | window (pa : Nat) (va : Word)
  /-- A load or atomic of the domain range (R339). -/
  | remote (pa : Nat)
  deriving DecidableEq, Repr

/-- Whether a context holds a program, and whether it is parked (R30).  A context at Sys or Fw is TRAPPED (R369). -/
inductive Run where
  | free
  | active
  | parked (w : Why)
  /-- Retained for a successor record (R64). -/
  | retained (succ : Nat)
  deriving DecidableEq, Repr

/-- What a class 17 instruction, `stream` or `ldrain` captures at issue: the geometry registers of its engine, the write
mode and key of stochastic rounding, and the side of the square (R264, R266, R282); and what its elements have read and
not yet taken into registers, by element (R261). -/
structure ElemCap where
  geo : Table Word
  wrm : BitVec 3
  srnkey : Word
  side : Nat
  got : Table (Word × Word)
  /-- The entries of the resident table that stood when it issued, under which its elements complete (R136). -/
  pages : Table Word
  /-- Its first element, and one more than the highest that has written memory. -/
  first : Nat
  top : Nat
  /-- The phase under which its packets were sent, and the accesses of old-phase packets that came back bounced and have been
  sent again, by operand and element (R139, R415, R416). -/
  mpn : BitVec 16
  resent : List (Nat × Nat)
  deriving DecidableEq, Repr

/-- A control-thread context (R30). -/
structure Ctx where
  run : Run
  level : Level
  pc : Word
  /-- `x1`-`x31` (R206). -/
  x : Table Word
  fflags : BitVec 7
  crm : BitVec 3
  wrm : BitVec 3
  srnkey : Word
  bfmt : Word
  /-- `vlreq`, `vl` and the fields of `grant` (R68); `slots` are the lanes held, by grant slot (R75). -/
  vlreq : Word
  vl : Nat
  gstate : GState
  nofit : Bool
  orow : Nat
  ocol : Nat
  gsq : BitVec 2
  slots : List Nat
  /-- Lanes the Ostler has decided for the crew: fewer than `slots` during a shrink (R73). -/
  target : Nat
  /-- Lanes granted that have yet to join (R81), and the tick at which the request was made (R74). -/
  joining : List Nat
  /-- Lanes of a granted square that have joined while others of it are still to come (R75, R76, R81). -/
  here : List Nat
  asked : Nat
  /-- Kept grant slots that move to another lane, and that lane (R75, R76). -/
  moves : Table Nat
  alc : Nat
  vsave : Word
  vstart : Word
  vbase : Word
  /-- `step` (R36). -/
  recIdx : BitVec 8
  xch : Bool
  ssn : BitVec 32
  rect : Word
  upcallHandler : Word
  upcallEn : Bool
  upepc : Word
  upaddr : Word
  upnote : Word
  fnbase : Word
  codebound : Word
  chgfill : Word
  chgwb : Word
  ptroot : Word
  vspace : BitVec 4
  st : TrapRegs
  ft : TrapRegs
  btmo : BitVec 32
  /-- `c0`-`c5` (R259). -/
  cs : Table Word
  /-- The loop stack, newest entry first (R226). -/
  loops : List LoopEnt
  /-- The geometry registers (R264). -/
  sg : Table Word
  gg : Table Word
  lg : Table Word
  lastJob : Word
  jobs : List Job
  /-- Jobs that stopped, with their causes (R268, R270). -/
  stops : List (Word × BitVec 8)
  loomq : List LoomJob
  /-- The Loom job that a checksum event has stopped last, by number, with its restart offset in chunks (R424). -/
  loomRestart : Option (Word × Nat)
  claimed : List Nat
  /-- INT32 accumulators, by bank (R119, R282). -/
  acc0Int : Bool
  acc1Int : Bool
  sense : Bool
  votes : BitVec 8
  abortSeen : Bool
  /-- `abort` issued, or abort-seen ever set, since placement (R292). -/
  abortEver : Bool
  lbanks : BitVec 8
  seq : List SeqEntry
  seqNext : Nat
  /-- The revocation point's tick while work in flight ends (R82). -/
  revoked : Option Nat
  /-- The side of the saved micro-thread records, 0 for an ordinary grant (R69, R84). -/
  saved : Option Nat
  /-- Reported failures of posted stores, with the level of the store (R387). -/
  postFaults : List (Level × Exc)
  /-- A micro-thread that newly faulted under trapmode 2, and whether its trap is in service (R374). -/
  prompt : Option Nat
  promptBusy : Bool
  /-- Emulation trips requested by the crew's lanes: the block's address and word position (R392). -/
  trips : List (Nat × Word × Nat)
  /-- For the trip in service: the serial number of the trip of each micro-thread whose entry its record holds (R395). -/
  emuNos : Table Nat
  /-- The instruction at which the context waits for its core's emulation record (R392), and the address that firmware
  reads for it, while the data come from another member (R198, R339). -/
  emuAt : Option Word
  fwWait : Option Nat
  /-- The stval of the fault that firmware's read for a `vldb` has met (R371, R394, R432). -/
  fwVal : Option Word
  /-- Trips asked for so far: the serial number of the next (R395). -/
  tripSeq : Nat
  /-- The emulation record of the core serves this context: kind 0 Zavan-C, 1 Zavan-W, 2 `vldb` (R393). -/
  emu : Option (Nat × IWord)
  /-- The register a load in flight writes, and what it does with the data (R157, R339): width, signed. -/
  loadRd : RegNo
  loadW : Nat
  loadSigned : Bool
  /-- A `callt` that waits for a table read: `rd`, the index, the signature, and whether the entry is being read. -/
  call : Option (RegNo × Word × Word × Bool)
  /-- Doublewords of a copy card that a `copyj` has read, while it waits for the next (R271). -/
  card : Option (List Word)
  /-- The value a `wait` compares and its address, while its load waits for remote data (R294, R339). -/
  watching : Option (Word × Word)
  /-- What the register-window load of the context has come back with: a value, or the cause that stopped it (R121). -/
  winBack : Option (Word × Option Exc)
  /-- What a vector access, `stream` or `ldrain` captured when it issued (R261, R264, R266). -/
  elemCap : Option ElemCap
  deriving DecidableEq, Repr

/-- A store held in a block until its commit (R39): where it goes and what it writes. -/
structure BlkStore where
  /-- 0 memory, 1 scratchpad, 2 atomic add, 3 swap, 4 compare and swap, 5 an atomic that a remote module has performed. -/
  kind : Nat
  va : Word
  /-- Where it lies: the key of the byte, or for the scratchpad the lane's key, and the bit within the lane in `pa`. -/
  key : Nat
  pa : Nat
  skew : Nat
  attr : Nat
  hcl : Nat
  /-- Bytes, or bits of a scratchpad element. -/
  width : Nat
  data : Word
  /-- The new value of a compare and swap, and the destination of an atomic (R246). -/
  data2 : Word
  rd : RegNo
  deriving DecidableEq, Repr

/-- A block in progress on a micro-thread (R39). -/
structure Blk where
  cap : Captured
  addr : Word
  words : List IWord
  pos : Nat
  /-- The repetition of the broadcast (R104). -/
  k : Nat
  /-- Block-local registers, predicates, flags and dirty bits (R230). -/
  w : Table Word
  p : BitVec 96
  flags : BitVec 7
  dirty : BitVec 23
  pops : Nat
  pushes : List Word
  stores : List BlkStore
  /-- The bytes each load read, for re-execution (R151): key and bytes. -/
  loads : List (Nat × List Byte)
  runs : Nat
  /-- The pending load of domain data: destination, width and sign (R339). -/
  wait : Option (RegNo × Nat × Bool × Nat)
  trip : Bool
  /-- The serial number of the trip it asked for, so that an abandoned block takes no result of it (R395). -/
  tripNo : Nat
  stop : Bool
  next : Option Word
  fault : Option Exc
  checked : Bool
  /-- Its commit is decided: another member performs its atomics, and nothing keeps it from taking effect (R39, R246). -/
  decided : Bool
  /-- Since when the block holds at a link-in read or for room at commit (R47, R80). -/
  heldSince : Option Nat
  /-- The load of the word it is at has still to return: its line is Copying, or its bank is waking (R82, R145, R415). -/
  stalled : Bool
  deriving DecidableEq, Repr

/-- Where a micro-thread's context is (R77-R80). -/
inductive Res where
  | resident
  | spilled
  | spilling
  | restoring
  deriving DecidableEq, Repr

/-- A micro-thread (R31, R70, R375, R378). -/
structure Mt where
  w : Table Word
  p : BitVec 96
  flags : BitVec 7
  state : MState
  cause : BitVec 8
  faultAddr : Word
  block : Word
  chain : Bool
  /-- It runs a block that Sys gave it, with no sequencer entry (R375). -/
  bare : Bool
  /-- The sequencer entry it runs or last began, and the repetitions of it still to begin (R375). -/
  ent : Nat
  left : Nat
  dirty : BitVec 23
  linkq : List Word
  slot : Nat
  res : Res
  /-- Where its record lies while it is not resident: the lane and the record of its spill area (R79). -/
  spillRec : Option (Nat × Nat)
  /-- When it became resident, spilled or held, for the order of rotation (R80). -/
  since : Nat
  /-- `acc0` and `acc1`, element 16*i + j (R119). -/
  acc0 : Table (BitVec 32)
  acc1 : Table (BitVec 32)
  blk : Option Blk
  deriving DecidableEq, Repr

/-- A lane that a crew has lost: spilling, then clearing, then joining another crew (R78, R81). -/
structure LaneWork where
  lane : Nat
  clearing : Bool
  since : Nat
  dest : Option Nat
  retire : Bool
  deriving DecidableEq, Repr

/-- A sector of an L1 data cache (R123, R125): its core, the way that holds its line, the end of its lease in
megahertz times ticks of its die's clock, and whether the L1 has write ownership; and the doublewords that other agents have
stored since its lease began (R155). -/
structure L1Ent where
  core : Nat
  sector : Nat
  way : Nat
  expiry : Nat
  writable : Bool
  since : List Nat
  deriving DecidableEq, Repr

/-- A sector of an L2 slice (R123, R124): the slice 8*cluster + number, the way that holds its line, and whether it is
dirty. -/
structure L2Ent where
  home : Nat
  sector : Nat
  way : Nat
  dirty : Bool
  deriving DecidableEq, Repr

/-- A cluster (R16, R34). -/
structure Cluster where
  /-- The vector translation table, entry 4096*space + page (R135). -/
  vtab : Table Word
  missing : List Nat
  spares : Nat
  work : List LaneWork
  /-- A position held back for a square request: context, origin lane, side (R76). -/
  heldBack : Option (Nat × Nat × Nat)
  /-- The block cache: words of each 256-byte sector, by sector of storage (R173, R174). -/
  bcache : List (Nat × List IWord)
  /-- Gangs whose abort line is raised (R52). -/
  abortLines : List Nat
  unverif : Word
  missingCores : List Nat
  spareCore : Bool
  l1Spares : Nat
  l2Spares : Nat
  waysGated : Nat
  /-- Cache ways that are out of service for good, by unit number (R436). -/
  waysOut : List Nat
  /-- Loom tokens in use by each gang (R331). -/
  tokens : Table Nat
  /-- Lanes to be retired once the work they are in has ended, and places whose spare can be granted from the next frame
  boundary on (R86, R436). -/
  retiring : List Nat
  retired : List Nat
  /-- Lanes that have been the checked lane of a silent-error event since cold reset (R423, R436). -/
  silent : List Nat
  /-- The tick of the last frame boundary decided (R73). -/
  frame : Option Nat
  /-- Contexts whose Looms wait for tokens, in the order they began (R331). -/
  tokenQ : List Nat
  deriving DecidableEq, Repr

/-- A launch record of the hub and what the scheduler keeps of it (R296, R53-R64). -/
structure LRec where
  ctl : Word
  rect : Word
  entry : Word
  codebound : Word
  fnbase : Word
  ptroot : Word
  arg : Word
  lanes : Word
  done : Word
  power : Word
  last : Word
  /-- Arming order, and the aging ticks waited at effective priority 3 (R57). -/
  armed : Nat
  waited : Nat
  held : Bool
  marked : Bool
  /-- Its contexts were saved by pre-emption or import (R383). -/
  saved : Bool
  /-- The rectangle it runs on (R60). -/
  placed : Word
  /-- Status words of halted cores, by rank, and the messages that have reached a parent (R61). -/
  own : Table Word
  msgs : Table Word
  /-- Rollback attribute in effect, attempts at the current superstep, unreplayable, given up (R426-R429). -/
  rollback : Bool
  attempts : Nat
  unreplayable : Bool
  rbFailed : Bool
  /-- Ranks whose core has issued `abort`, or has seen the abort line, since placement (R62, R292). -/
  aborted : List Nat
  /-- A stop of its contexts under way (R380): hold, and the mailbox whose PREEMPT it is (R381), 17 for one of no mailbox, or 18
  where the gang is to be discarded without a save (R435). -/
  stopping : Option (Bool × Nat)
  /-- A rollback trigger waiting to be taken (R427). -/
  trigger : Bool
  /-- Its `gbar` has completed, and no core of it has issued since (R87). -/
  fresh : Bool
  deriving DecidableEq, Repr

/-- A mailbox: the command area and the queue of commands (R325, R326). -/
structure Mailbox where
  cmd : List Word
  queue : List (List Word)
  deriving DecidableEq, Repr

/-- A Scrivener record's words 1-7; word 0 is its sequence number (R439). -/
structure Scriv where
  seq : Nat
  words : List Word
  deriving DecidableEq, Repr

/-- A region defined for a partition: base, stride and length in bytes (R384, R426). -/
structure Region where
  base : Nat
  stride : Nat
  len : Nat
  deriving DecidableEq, Repr

/-- A page-request queue (R377): base, log of the number of entries, next entry, next sequence number. -/
structure PageQueue where
  base : Nat
  q : Nat
  next : Nat
  seqn : Nat
  deriving DecidableEq, Repr

/-- A posted store in flight, or waiting in a window-write buffer (R49, R156). -/
structure Posted where
  from_ : Nat
  level : Level
  va : Word
  pa : Nat
  data : Word
  /-- Bytes: 8 for windows, 1-8 for the domain; `op` is 0 for a store, 1 + the operation of a posted atomic (R339), 16
  for a read that waits in arrival order with the writes (R121), 17 + the job's number for a write of a job (R49), and 2^64
  more for a read of a job (R121). -/
  width : Nat
  op : Nat
  deriving DecidableEq, Repr

/-- A completion word of a record that waits to be written: at a sector that a block holds, a Copying line, a gated unit or a
register window (R49, R145, R151, R299, R415). -/
structure LateWord where
  recNo : Nat
  core : Nat
  ctx : Nat
  part : Nat
  va : Word
  pa : Nat
  skew : Nat
  attr : Nat
  hcl : Nat
  data : Word
  deriving DecidableEq, Repr

/-- A poison record, quarantine or bulk mark's place (R405, R407, R419). -/
structure Bulk where
  slot : Nat
  /-- Lines below this channel line of the slot are not marked, by channel (R419). -/
  upto : Table Nat
  /-- 64 KiB regions that PCLEAR has cleared (R408). -/
  cleared : List Nat
  /-- The slot stays on a dead stack: no PCLEAR clears it (R420). -/
  stuck : Bool
  deriving DecidableEq, Repr

/-- The health of a stack; the order is that of SUMMARY (R440). -/
inductive StackState where
  | healthy
  | retiring
  | retired
  | dead
  | failing
  deriving DecidableEq, Repr

/-- A retirement in progress (R414): lines Done, by channel of the source stack, and the channels whose next line is
Copying, with the tick at which its slot 48 ends. -/
structure Retire where
  stack : Nat
  pos : Table Nat
  copying : Table Nat
  start : Nat
  deriving DecidableEq, Repr

/-- A request at a channel that waits: for a time slot, for a Copying line, to be sent again, or for a stack that does not
answer, since a moment of its home die's own time (R141, R415, R419). -/
structure ChanReq where
  pa : Nat
  skew : Nat
  oldPhase : Bool
  write : Option Word
  part : Nat
  bounced : Bool
  since : Nat
  deriving DecidableEq, Repr

/-- An open scrub entry (R321, R410). -/
structure Scrub where
  stack : Nat
  ch : Nat
  sector : Nat
  data : List Byte
  marked : Bool
  deriving DecidableEq, Repr

/-- The state of one direction of a port (R430). -/
inductive LinkState where
  | down
  | up16
  | retrain (target : Nat)
  | up8
  deriving DecidableEq, Repr

/-- One direction of an Imtia port (R337, R430, R431). -/
structure LinkDir where
  st : LinkState
  spareUsed : Bool
  lost : List Nat
  /-- The half kept when the direction runs at 8 lanes. -/
  half : Nat
  fails : Nat
  replays : Nat
  /-- Next number to send, or the number expected. -/
  seq : Nat
  /-- Flits that are not acknowledged, with their numbers, oldest first, and how many of them have been sent; each
  doubleword of payload travels with its check and mark (R308, R337, R405). -/
  buf : List (Nat × List Datum)
  sent : Nat
  deriving DecidableEq, Repr

/-- A collective round of a group, with the module's own contribution once it has been read and sent (R342, R343, R433). -/
structure Round where
  desc : List Word
  since : Nat
  own : Option (List Datum)
  deriving DecidableEq, Repr

/-- A group: member slots in rank order, the round number, the round in progress (R342, R433). -/
structure Group where
  members : List Nat
  round : Nat
  running : Option Round
  /-- Mailbox that issued the running round. -/
  part : Nat
  deriving DecidableEq, Repr

/-- The states of a trusted interface (R335, R435). -/
inductive Tdisp where
  | unlocked
  | locked
  | run
  | error
  deriving DecidableEq, Repr

/-- What the module sends out: host data, replies, flits, acknowledgements (R323, R334, R337, R431; log 9). -/
inductive Out where
  | hostData (fn : Nat) (poison : Bool) (data : List Word)
  | reply (code : Nat) (words : List Word)
  | flit (port : Nat) (seq : Nat) (payload : List Datum)
  /-- The completion of a host write or of a management request (R171). -/
  | hostDone (fn : Nat)
  | ack (port : Nat) (e : Nat)
  | nak (port : Nat) (e : Nat)
  deriving DecidableEq, Repr

/-- What a step of another agent acts on, where the table gives its row no operand: the unit (a context, cluster,
mailbox, partition, group, port, die, core, stack or request), an index within it, and what comes from outside. -/
structure StepArg where
  unit : Nat
  index : Nat
  addr : Nat
  value : Word
  flag : Bool
  list : List Nat
  words : List Word
  /-- Doublewords that another module sends, each with its check and mark (R308, R405). -/
  data : List Datum
  deriving DecidableEq, Repr

/-- A request of the host that waits at a service core (R170, R171): function, whether it is a write, physical address,
byte enables and doublewords. -/
structure HostReq where
  fn : Nat
  write : Bool
  pa : Nat
  mask : Nat
  words : List Word
  deriving DecidableEq, Repr

/-- A request of another module that has arrived over a port (R172): the payload of its flits. -/
structure RemoteReq where
  port : Nat
  source : Nat
  payload : List Datum
  deriving DecidableEq, Repr

/-- A request sent to another member that its reply has not answered: the port it left by, the port it came in by where it was
forwarded, its header words and its route (R339, R340, R432; log 9). -/
structure Pend where
  port : Nat
  back : Option Nat
  words : List Word
  route : Word
  deriving DecidableEq, Repr

/-- Who moves next: one entry of the agenda is one step (log 1). -/
inductive Action where
  /-- A context issues the word at its pc (R30). -/
  | issue (c : Nat)
  /-- A micro-thread runs the next word of its block (R40). -/
  | word (c i : Nat)
  /-- A step of another agent. -/
  | event (i : Instr) (a : StepArg)
  /-- Ticks of the package time base go by (R26). -/
  | ticks (n : Nat)
  /-- Dunsen firmware fills the emulation record of a core with native results (R391, R393). -/
  | serve (core : Nat)
  /-- A core's instruction cache takes the sector of an address of a context ahead of its fetch, or drops one (R173). -/
  | fillI (c : Nat) (va : Word)
  | dropI (core line : Nat)
  /-- A context's fetch buffer takes the sector of an address, or drops one (R173, R396). -/
  | fillF (c : Nat) (va : Word)
  | dropF (c line : Nat)
  /-- The same for the block cache of a cluster. -/
  | fillB (c : Nat) (va : Word)
  | dropB (cl line : Nat)
  /-- A unit that nothing uses is gated (R145). -/
  | gate (unit : Nat)
  /-- Firmware writes an entry of a time-slot table (R140): key as in the image. -/
  | slotEntry (key : Nat) (b : Byte)
  /-- A request of the host arrives at the service core that its target chooses (R170, R171). -/
  | hostArrive (q : HostReq)
  /-- The host reads a doubleword of a function's BAR0 (R323). -/
  | barRead (fn off : Nat)
  /-- Firmware apportions a die's share of the module's power, in W (R25, R330). -/
  | share (die w : Nat)
  /-- A context's translation of a page enters the TLBs of its core, or leaves them (R133). -/
  | fillT (c : Nat) (va : Word)
  | dropT (core : Nat) (va : Word)
  /-- A fill of a context evicts a sector from its home slice (R146). -/
  | evict (c sector : Nat)
  deriving DecidableEq, Repr

/-- A TLB entry: core, page number, page size in bits, the table it came from (ptroot, or the vector space), the
leaf entry in scalar form (R133). -/
structure TlbEnt where
  core : Nat
  page : Nat
  bits : Nat
  vector : Bool
  root : Word
  leaf : Word
  /-- It stands in the first-level TLB of 64 entries too. -/
  first : Bool
  deriving DecidableEq, Repr

/-- The module. -/
structure State where
  agenda : List Action
  arg : StepArg
  /-- The context and local index whose instruction runs. -/
  cur : Nat
  curMt : Nat
  /-- Round-robin pointer (R30). -/
  rr : Nat
  /-- Values left open by the spec and used so far (log 5). -/
  freeN : Nat
  /-- Package time base (R26). -/
  now : Nat
  ctxs : Table Ctx
  mts : Table Mt
  clusters : Table Cluster
  /-- Per core: the checker LFSR (R422), instruction-cache lines by core and sector, TLB entries. -/
  lfsr : Table (BitVec 16)
  icache : List ((Nat × Nat) × List IWord)
  /-- Words that the fetch buffer of a context holds, by context and sector of storage (R173, R396). -/
  fbuf : List ((Nat × Nat) × List IWord)
  tlb : List TlbEnt
  /-- Sectors that the L1 data caches and the L2 slices hold (R123-R125, R146). -/
  l1 : List L1Ent
  l2 : List L2Ent
  /-- Sectors held at the home slices for a block's third execution, with the micro-thread (R151). -/
  heldSectors : List (Nat × Nat)
  mem : List Host.Cell
  /-- Stored check xor computed check, by doubleword key, where it is not zero (R307, R308). -/
  synd : Table Byte
  /-- The same for the doublewords of the hub range: the launch-record pool, the Scrivener and the mailboxes, by offset
  (R308). -/
  hubSynd : Table Byte
  /-- On-chip doublewords that hold data which came marked poisoned, by key (R311, R405). -/
  marks : List Nat
  /-- Uncorrectable sectors held nowhere (R407), poison entries and quarantined regions by controller, whole channels. -/
  bad : List (Nat × Nat)
  poison : List (Nat × Nat)
  quar : List (Nat × Nat)
  quarChan : List Nat
  bulk : List Bulk
  wlog : List Nat
  posted : List Posted
  wbuf : List Posted
  /-- Completion words of records that wait to be written (R299). -/
  lateWords : List LateWord
  /-- HBM4 placement (R316-R320). -/
  slotCur : Table (BitVec 32)
  slotPrev : Table (BitVec 32)
  mpn : BitVec 16
  capg : Nat
  stackSt : Table StackState
  retire : Option Retire
  chanReqs : List ChanReq
  scrubs : List Scrub
  fuller : Table Nat
  /-- Entries of the time-slot tables that firmware has written since the image was loaded, by the image's keys (R140). -/
  slotTab : Table Byte
  /-- The partition that a donated slot of each channel served last, by 32*stack + channel (R141). -/
  donated : Table Nat
  /-- The partition whose requests the last partition slot of each channel serves, with the number of that slot since time
  began (R141). -/
  serving : Table (Nat × Nat)
  /-- Hub. -/
  recs : Table LRec
  armCount : Nat
  boxes : Table Mailbox
  scriv : List Scriv
  scrivNext : Nat
  saveRegs : Table Region
  snapRegs : Table Region
  prqs : Table PageQueue
  /-- Member slots (R340), groups (R342), the directions of the ports by 2*port + direction (R337), trusted interfaces (R335),
  what has been sent out, the configuration in force and stored, the recovery state, the identity (R35, R333, R344). -/
  members : Table (BitVec 32)
  groups : Table Group
  ports : Table LinkDir
  tdisp : Table Tdisp
  out : List Out
  img : CfgImage
  stored : CfgImage
  recovery : Bool
  modId : BitVec 20
  memberId : BitVec 10
  /-- Requests for the emulation record of a core, in request order: the context, and 0 for its own instruction or 1 + the
  serial number of a micro-thread's trip (R392). -/
  emuQ : Table (List (Nat × Nat))
  /-- Die clocks in MHz (R329). -/
  clocks : Table Nat
  /-- For each die the tick at which its clock last changed, and the megahertz times ticks that had gone by then: how
  the die counts its own periods (R4, R26, R329). -/
  clockBase : Table (Nat × Nat)
  /-- Each die's share of the module's 3,600 W, in W (R25, R330). -/
  power : Table Nat
  /-- Steps taken under pressure on each die: clock steps, `alc` steps, Loom tokens held back (R330). -/
  pressure : Table (Nat × Nat × Nat)
  /-- Clock hops: die, target, and the tick of the abandonment, none while the hop is in progress (R438). -/
  hops : List (Nat × Nat × Option Nat)
  /-- Aging intervals that have passed (R58). -/
  aged : Nat
  /-- Units that are gated, each with the tick at which its wake-up began, none while nothing has reached it (R145).
  Units: 8*core + b, a bank of local memory; 0x10000 + 4*(512*cluster + lane) + b, a scratchpad bank; 0x20000 +
  512*cluster + n, an operand slot; 0x30000 + 16*core + way and 0x40000 + 16*slice + way, cache ways. -/
  asleep : Table (Option Nat)
  /-- Requests of the host, in arrival order, at each service core (R170, R171). -/
  hostq : Table (List HostReq)
  /-- Requests of other modules that have arrived and wait to be performed, in arrival order (R172), and the flits of a
  packet that is still arriving, by port. -/
  rxq : List RemoteReq
  rxPart : Table (List Datum)
  /-- Requests to other members that are not answered (R339, R432), and the replies, abort messages and contributions of
  collectives that have come in accepted flits and wait to be taken (R339, R343, R433). -/
  pend : List Pend
  inbox : List RemoteReq
  /-- Stacks that answer no more and are not dead yet (R419). -/
  mute : List Nat
  /-- Base-address registers of the interfaces, by 8*function + register (R335, R336). -/
  bars : Table Word
  deriving DecidableEq, Repr

/-- Why the machine stops with a fault. -/
inductive Fault where
  /-- Raised by a Zavan-W word that is run with no block in progress on the current micro-thread; such a word exists
  only inside a block (R38, R190), and `step` never runs one elsewhere.  Safe: the model stops. -/
  | noBlock
  deriving DecidableEq, Repr

/-- Why an instruction has no meaning. -/
inductive Refusal where
  /-- Raised by the arm of an instruction that is not modelled yet, by its mnemonic.  Safe: the model stops. -/
  | notModelled (mnemonic : String)
  deriving DecidableEq, Repr

/-- The trap registers after reset (R370). -/
def TrapRegs.reset : TrapRegs :=
  { vec := 0, cause := 0, epc := 0, val := 0, ldepth := 0, plev := 0, scratch := 0 }

/-- A context after reset: FREE, its grant IDLE (R344); values the spec does not give are zero (log 3). -/
def Ctx.reset : Ctx :=
  { run := .free, level := .app, pc := 0, x := [], fflags := 0, crm := 0, wrm := 0, srnkey := 0, bfmt := 0,
    vlreq := 0, vl := 0, gstate := .idle, nofit := false, orow := 0, ocol := 0, gsq := 0, slots := [], target := 0, joining := [],
    here := [], asked := 0, moves := [], alc := 0, vsave := 0, vstart := 0, vbase := 0, recIdx := 0, xch := false, ssn := 0, rect := 0,
    upcallHandler := 0, upcallEn := false, upepc := 0, upaddr := 0, upnote := 0, fnbase := 0, codebound := 0,
    chgfill := 0, chgwb := 0, ptroot := 0, vspace := 0, st := .reset, ft := .reset, btmo := 0x4000, cs := [],
    loops := [], sg := [], gg := [], lg := [(1, 2)], lastJob := 0, jobs := [], stops := [], loomq := [], loomRestart := none, claimed := [],
    acc0Int := false, acc1Int := false, sense := false, votes := 0, abortSeen := false, abortEver := false,
    lbanks := 0, seq := [], seqNext := 1, revoked := none, saved := none, postFaults := [], prompt := none,
    promptBusy := false, trips := [], emuNos := [], emuAt := none, fwWait := none, fwVal := none, tripSeq := 0, emu := none,
    loadRd := 0, loadW := 8, loadSigned := false, call := none, card := none, watching := none, winBack := none, elemCap := none }

/-- A micro-thread as `setvl` creates it (R70). -/
def Mt.fresh : Mt :=
  { w := [], p := 0, flags := 0, state := .idle, cause := 0, faultAddr := 0, block := 0, chain := false, bare := false, ent := 0,
    left := 0, dirty := 0, linkq := [], slot := 0, res := .resident, spillRec := none, since := 0, acc0 := [], acc1 := [], blk := none }

/-- A cluster after reset with a full pool (R68, R86; log 4). -/
def Cluster.reset : Cluster :=
  { vtab := [], missing := [], spares := 32, work := [], heldBack := none, bcache := [], abortLines := [], unverif := 0,
    missingCores := [], spareCore := false, l1Spares := 0, l2Spares := 0, waysGated := 0, waysOut := [], tokens := [], retiring := [], retired := [], silent := [], frame := none, tokenQ := [] }

/-- A launch record after a cold reset: UNBUILT and zero (R296). -/
def LRec.reset : LRec :=
  { ctl := 0, rect := 0, entry := 0, codebound := 0, fnbase := 0, ptroot := 0, arg := 0, lanes := 0, done := 0,
    power := 0, last := 0, armed := 0, waited := 0, held := false, marked := false, saved := false, placed := 0,
    own := [], msgs := [], rollback := false, attempts := 0, unreplayable := false, rbFailed := false, aborted := [],
    stopping := none, trigger := false, fresh := false }

/-- An empty mailbox (R344). -/
def Mailbox.reset : Mailbox := { cmd := [], queue := [] }

/-- A link direction that has trained all its lanes (R430). -/
def LinkDir.reset : LinkDir :=
  { st := .up16, spareUsed := false, lost := [], half := 0, fails := 0, replays := 0, seq := 0, buf := [], sent := 0 }

/-- A group that no GROUP has defined (R342). -/
def Group.reset : Group := { members := [], round := 0, running := none, part := 0 }

/-- No region defined. -/
def Region.none : Region := { base := 0, stride := 0, len := 0 }

/-- A step that acts on unit 0. -/
def StepArg.zero : StepArg := { unit := 0, index := 0, addr := 0, value := 0, flag := false, list := [], words := [], data := [] }

/-- The slot table of sixteen healthy stacks: slot s on stack s mod 16, frame s / 16 (R317), packed as in R316. -/
def slotReset (s : Nat) : BitVec 32 :=
  BitVec.ofNat 32 (s % 16 + 16 * (s / 16) + 256 * (s % 16) + 4096 * (s / 16))

/-- The module right after a cold reset under the plain image (R344): every context FREE, every grant IDLE, memory
zero, launch records UNBUILT, mailboxes empty, interfaces unlocked. -/
def State.reset : State :=
  { agenda := [], arg := .zero, cur := 0, curMt := 0, rr := 0, freeN := 0, now := 0, ctxs := [], mts := [],
    clusters := [], lfsr := [], icache := [], fbuf := [], tlb := [], l1 := [], l2 := [], heldSectors := [], mem := [], synd := [], hubSynd := [], marks := [],
    bad := [], poison := [], quar := [], quarChan := [], bulk := [], wlog := [], posted := [], wbuf := [], lateWords := [],
    slotCur := [], slotPrev := [], mpn := 0, capg := 0xB400000000, stackSt := [], retire := none, chanReqs := [],
    scrubs := [], fuller := [], slotTab := [], donated := [], serving := [], recs := [], armCount := 0, boxes := [], scriv := [], scrivNext := 0, saveRegs := [],
    snapRegs := [], prqs := [], members := [], groups := [], ports := [], tdisp := [], out := [], img := .plain,
    stored := .plain, recovery := false, modId := 0, memberId := 0, emuQ := [], clocks := [], clockBase := [], power := [], pressure := [], hops := [], aged := 0,
    asleep := [], hostq := [], rxq := [], rxPart := [], pend := [], inbox := [], mute := [], bars := [] }

end Sys2Proof.Machine
end

