-- ==== Sys2Proof/Machine/Memory.lean ====
section
/-!
DEFINITION. Storage: bytes, doublewords and their carried checks, the placement of an address, and the controllers'
poison, quarantine and write-log bookkeeping.

All storage is one list of bytes by key, in rising order, holding no zero byte: what no entry names reads as zero,
which is what a cold reset writes (R344).  The key of a byte is the place it lies in: an HBM4 byte under linear skew
and every other address keep their physical address; another skew reaches another key (R137, R138); a lane's
scratchpad has keys of its own, because its window address changes with the grant.
-/

namespace Sys2Proof.Machine

open Host (Cell)

/-- A byte of storage. -/
def readByte : List Cell → Nat → Byte
  | [], _ => 0
  | (j, b) :: m, a => if j = a then b else readByte m a

/-- A byte written; the list keeps its canonical form. -/
def writeByte : List Cell → Nat → Byte → List Cell
  | [], a, b => if b = 0 then [] else [(a, b)]
  | (j, c) :: m, a, b =>
    if a < j then (if b = 0 then (j, c) :: m else (a, b) :: (j, c) :: m)
    else if a = j then (if b = 0 then m else (a, b) :: m)
    else (j, c) :: writeByte m a b

/-- The canonical form: keys strictly rising from `lo` up, and no zero byte. -/
def memFrom : Nat → List Cell → Bool
  | _, [] => true
  | lo, (j, b) :: m => decide (lo ≤ j) && (b != 0) && memFrom (j + 1) m

/-- The canonical form of storage. -/
def Memory.wf (m : List Cell) : Bool := memFrom 0 m

/-- `n` bytes from key `a` up. -/
def readBytes (m : List Cell) (a : Nat) : Nat → List Byte
  | 0 => []
  | n + 1 => readByte m a :: readBytes m (a + 1) n

/-- Bytes written from key `a` up. -/
def writeBytes (m : List Cell) (a : Nat) : List Byte → List Cell
  | [] => m
  | b :: bs => writeBytes (writeByte m a b) (a + 1) bs

/-- The number that little-endian bytes hold (R5). -/
def leNat : List Byte → Nat
  | [] => 0
  | b :: bs => b.toNat + 256 * leNat bs

/-- The low `n` bytes of a number, little-endian (R5). -/
def toLe (v : Nat) : Nat → List Byte
  | 0 => []
  | n + 1 => BitVec.ofNat 8 v :: toLe (v / 256) n

/-- The doubleword at a key. -/
def readDw (m : List Cell) (a : Nat) : Word := BitVec.ofNat 64 (leNat (readBytes m a 8))

/-- `n` doublewords from a key up. -/
def readDws (m : List Cell) (a : Nat) : Nat → List Word
  | 0 => []
  | n + 1 => readDw m a :: readDws m (a + 8) n

/-- Every listed byte of keys `[a, a + n)` taken out: the range reads as zero. -/
def zeroRange (m : List Cell) (a n : Nat) : List Cell :=
  m.filter (fun c => c.1 < a || a + n ≤ c.1)

/-- The listed bytes of keys `[a, a + n)`, moved to start at key `b`. -/
def sliceAt (m : List Cell) (a n b : Nat) : List Cell :=
  (m.filter (fun c => a ≤ c.1 && c.1 < a + n)).map (fun c => (c.1 - a + b, c.2))

/-- A list of cells written over storage. -/
def overlay (m : List Cell) : List Cell → List Cell
  | [] => m
  | c :: cs => overlay (writeByte m c.1 c.2) cs

/-- Keys `[a, a + n)` copied to `[b, b + n)`. -/
def copyRange (m : List Cell) (a n b : Nat) : List Cell :=
  overlay (zeroRange m b n) (sliceAt m a n b)

/-! ### The carried check (R307-R311) -/

/-- One bit of the check's division. -/
def crcBit (c : Byte) : Byte := if c.getLsbD 7 then (c <<< 1) ^^^ 0x2F else c <<< 1

/-- One byte of the check. -/
def crcByte (c b : Byte) : Byte :=
  crcBit (crcBit (crcBit (crcBit (crcBit (crcBit (crcBit (crcBit (c ^^^ b))))))))

/-- The check of bytes in address order (R307). -/
def crcBytes (c : Byte) : List Byte → Byte
  | [] => c
  | b :: bs => crcBytes (crcByte c b) bs

/-- The carried check of a doubleword (R307). -/
def checkOf (d : Word) : Byte := crcBytes 0xFF (toLe d.toNat 8)

/-- The check stored beside the doubleword of a key (R308): its computed check xor the syndrome held for it. -/
def storedCheck (s : State) (k : Nat) : Byte :=
  checkOf (readDw s.mem (k / 8 * 8)) ^^^ look 0 s.synd (k / 8 * 8)

/-- A consumer's verification of the doubleword of a key fails (R310). -/
def checkFails (s : State) (k : Nat) : Bool :=
  storedCheck s k != checkOf (readDw s.mem (k / 8 * 8))

/-- A producer writes whole doublewords: their checks become right (R309). -/
def dropSynd (t : Table Byte) (a n : Nat) : Table Byte :=
  t.filter (fun e => e.1 + 8 ≤ a || a + n ≤ e.1)

/-- Bytes written as a producer does (R309, R314). -/
def putBytes (s : State) (k : Nat) (bs : List Byte) : State :=
  { s with mem := writeBytes s.mem k bs, synd := dropSynd s.synd (k / 8 * 8) (k % 8 + bs.length) }

/-- The low `n` bytes of a value written as a producer does. -/
def putNat (s : State) (k n v : Nat) : State := putBytes s k (toLe v n)

/-- A doubleword written as a producer does. -/
def putDw (s : State) (k : Nat) (v : Word) : State := putNat s k 8 v.toNat

/-- Doublewords written in order. -/
def putDws (s : State) (k : Nat) : List Word → State
  | [] => s
  | v :: vs => putDws (putDw s k v) (k + 8) vs

/-- The marks of a range taken out. -/
def dropMarks (l : List Nat) (a n : Nat) : List Nat := l.filter (fun k => k + 8 ≤ a || a + n ≤ k)

/-- Whole doublewords moved with their checks (R311). -/
def carry (s : State) (src n dst : Nat) : State :=
  { s with
    marks := dropMarks s.marks dst n ++ (s.marks.filter (fun k => src ≤ k && k < src + n)).map (fun k => k - src + dst)
    mem := copyRange s.mem src n dst
    synd := (s.synd.filter (fun e => src ≤ e.1 && e.1 < src + n)).foldl
      (fun t e => put t (e.1 - src + dst) e.2) (dropSynd s.synd dst n) }

/-- A range cleared to zero with valid checks (R81, R145, R277). -/
def clearRange (s : State) (k n : Nat) : State :=
  { s with mem := zeroRange s.mem k n, synd := dropSynd s.synd k n, marks := dropMarks s.marks k n }

/-- A doubleword of on-chip storage written as a producer does: whatever mark was there is gone (R309, R405). -/
def putChip (s : State) (k : Nat) (v : Word) : State := { putDw s k v with marks := s.marks.filter (· != k / 8 * 8) }

/-- The first doubleword of a range whose check is wrong. -/
def badCheckIn (s : State) (k n : Nat) : Option Nat :=
  (s.synd.find? (fun e => k < e.1 + 8 && e.1 < k + n && checkFails s e.1)).map (·.1)

/-! ### The physical address map (R116, R118) -/

/-- A doubleword of on-chip storage cannot be consumed: its check is wrong, or its data came marked poisoned (R310, R404,
R405). -/
def chipFails (s : State) (k : Nat) : Bool := s.marks.contains (k / 8 * 8) || checkFails s k

/-- The cause that such a doubleword raises: poison in place of a check mismatch (R405). -/
def chipCause (s : State) (k : Nat) : BitVec 8 := if s.marks.contains (k / 8 * 8) then 0x21 else 0x20

/-- The first doubleword of an on-chip range that cannot be consumed. -/
def badChipIn (s : State) (k n : Nat) : Option Nat :=
  match badCheckIn s k n with
  | some a => some a
  | none => s.marks.find? (fun a => k < a + 8 && a < k + n)

/-- The first physical address of the hub range (R116, R325). -/
def hubBase : Nat := 0x400000000000

/-- 720 GiB, the top of the placed HBM4 range (R316, R409). -/
def hbmTop : Nat := 0xB400000000

/-- What a physical address names. -/
inductive Place where
  | hbm
  | tier2
  | hub (off : Nat)
  | window (cl off : Nat)
  | domain (slot addr : Nat)
  | reserved
  deriving DecidableEq, Repr

/-- The physical address map (R116, R338). -/
def placeOf (pa : Nat) : Place :=
  if pa < 0x10000000000 then .hbm
  else if pa < 0x25000000000 then .tier2
  else if pa < 0x400000000000 then .reserved
  else if pa < 0x400100000000 then .hub (pa - 0x400000000000)
  else if pa < 0x800000000000 then .reserved
  else if pa < 0x802000000000 then .window ((pa - 0x800000000000) / 0x100000000) (pa % 0x100000000)
  else if pa < 0x8000000000000 then .reserved
  else if pa < 0x10000000000000 then
    .domain ((pa - 0x8000000000000) / 0x20000000000) (pa % 0x20000000000)
  else .reserved

/-- Core 32*row + col of core `k` of a cluster (R14, R118). -/
def coreOf (cl k : Nat) : Nat :=
  let row := 8 * (cl / 16) + 4 * (cl / 2 % 2) + k / 4
  let col := 8 * (cl / 4 % 4) + 4 * (cl % 2) + k % 4
  32 * row + col

/-- The cluster of a core (R14). -/
def clusterOf (core : Nat) : Nat :=
  let row := core / 32
  let col := core % 32
  4 * (4 * (row / 8) + col / 8) + 2 * (row / 4 % 2) + col / 4 % 2

/-- The core's number within its cluster (R118). -/
def coreIn (core : Nat) : Nat := 4 * (core / 32 % 4) + core % 4

/-- The die of a core (R12). -/
def dieOf (core : Nat) : Nat := clusterOf core / 4

/-- The cores of a cluster. -/
def coresOf (cl : Nat) : List Nat := (List.range 16).map (coreOf cl)

/-- The contexts of a cluster. -/
def ctxsOf (cl : Nat) : List Nat := (coresOf cl).flatMap (fun k => [4 * k, 4 * k + 1, 4 * k + 2, 4 * k + 3])

/-- The item of a cluster window (R118). -/
inductive Win where
  | local_ (core off : Nat)
  | control (ctx off : Nat)
  /-- The emulation area (R393). -/
  | emu (core off : Nat)
  | tile (cl off : Nat)
  | plane (cl off : Nat)
  | micro (ctx i off : Nat)
  | vtab (cl idx : Nat)
  | scratch (ctx slot off : Nat)
  | bad
  deriving DecidableEq, Repr

/-- The cluster window's layout (R118). -/
def winOf (cl off : Nat) : Win :=
  if off < 0x1000000 then
    let core := coreOf cl (off / 0x100000)
    let o := off % 0x100000
    if o < 0x40000 then .local_ core o
    else if o < 0x44000 then .control (4 * core + (o - 0x40000) / 0x1000) (o % 0x1000)
    else if 0x80000 ≤ o ∧ o < 0x85000 then .emu core (o - 0x80000)
    else .bad
  else if off < 0x1C00000 then .tile cl (off - 0x1000000)
  else if off < 0x1C20000 then .plane cl (off - 0x1C00000)
  else if off < 0x2000000 then .bad
  else if off < 0xA000000 then
    let n := (off - 0x2000000) / 0x200000
    .micro (4 * coreOf cl (n / 4) + n % 4) ((off - 0x2000000) % 0x200000 / 0x1000) (off % 0x1000)
  else if off < 0xA080000 then .vtab cl ((off - 0xA000000) / 8)
  else if off < 0x80000000 then .bad
  else
    let n := (off - 0x80000000) / 0x2000000
    .scratch (4 * coreOf cl (n / 4) + n % 4) ((off - 0x80000000) % 0x2000000 / 0x10000) (off % 0x10000)

/-- The window base of a cluster (R116). -/
def winBase (cl : Nat) : Nat := 0x800000000000 + cl * 0x100000000

/-- The keys of a core's local memory. -/
def localKey (core off : Nat) : Nat := winBase (clusterOf core) + coreIn core * 0x100000 + off

/-- The keys of a core's emulation record (R393). -/
def emuKey (core : Nat) : Nat := localKey core 0x80000

/-- The keys of an operand slot's tile and scale plane (R130). -/
def tileKey (cl slot : Nat) : Nat := winBase cl + 0x1000000 + slot * 0x6000

/-- The keys of a scale plane. -/
def planeKey (cl slot : Nat) : Nat := winBase cl + 0x1C00000 + slot * 0x100

/-- The keys of a lane's scratchpad (R128). -/
def scratchKey (cl lane : Nat) : Nat := 0x1000000000000000 + (cl * 512 + lane) * 0x10000

/-! ### Placement in HBM4 (R137) -/

/-- The exclusive-or of all 4-bit groups (R137). -/
def fold4 (q : Nat) : Nat :=
  (q ^^^ (q / 0x10) ^^^ (q / 0x100) ^^^ (q / 0x1000) ^^^ (q / 0x10000) ^^^ (q / 0x100000) ^^^ (q / 0x1000000)) % 16

/-- The interleave slot of an address (R137). -/
def slotOf (skew pa : Nat) : Nat :=
  let l := pa / 1024
  if skew = 1 then (l % 240) ^^^ fold4 (l / 240) else l % 240

/-- `Q` of an address (R137). -/
def qOf (pa : Nat) : Nat := pa / 1024 / 240

/-- The bank group within the channel (R137). -/
def bankOf (skew pa : Nat) : Nat :=
  let b := qOf pa / 32
  if skew = 1 then (b ^^^ (b / 32) ^^^ (b / 1024)) % 32
  else if skew = 2 then b % 31 else b % 32

/-- The key of an HBM4 address under a skew: its place under skew 0 is the address itself, and another bank group of
the same channel line is another place (DEDUCED, log 7). -/
def hbmKey (skew pa : Nat) : Nat :=
  (240 * qOf pa + slotOf skew pa) * 1024 + pa % 1024 +
    0x10000000000000 * ((bankOf skew pa + 32 - bankOf 0 pa) % 32)

/-- The current and previous slot-table entries of a slot (R316). -/
def slotEntry (s : State) (slot : Nat) : BitVec 32 := look (slotReset slot) s.slotCur slot

/-- The entry of the previous phase. -/
def slotEntryPrev (s : State) (slot : Nat) : BitVec 32 := look (slotReset slot) s.slotPrev slot

/-- The stack of an entry (R316). -/
def entStack (e : BitVec 32) : Nat := e.toNat % 16

/-- The frame of an entry. -/
def entFrame (e : BitVec 32) : Nat := e.toNat / 16 % 16

/-- The old stack of an entry. -/
def entOstack (e : BitVec 32) : Nat := e.toNat / 256 % 16

/-- The old frame of an entry. -/
def entOframe (e : BitVec 32) : Nat := e.toNat / 4096 % 16

/-- Whether the slot is moving. -/
def entMv (e : BitVec 32) : Bool := e.getLsbD 16

/-- The channel of an address (R137). -/
def chanOf (pa : Nat) : Nat := qOf pa % 32

/-- The quadrant of its stack that a channel belongs to (R19). -/
def stackQuadrant (ch : Nat) : Nat := ch / 8

/-- A stack of the top edge of the module (R19). -/
def topEdge (stack : Nat) : Bool := stack < 8

/-- The home die of a channel of a stack: the die to which its stack quadrant is wired (R19). -/
def homeDie (stack ch : Nat) : Nat := if topEdge stack then stackQuadrant ch else 4 + stackQuadrant ch

/-- The die that a stack sits beside (R19). -/
def besideDie (stack : Nat) : Nat := if topEdge stack then stack / 2 else 4 + (stack - 8) / 2

/-- Channel lines of a frame that one channel holds (R316). -/
def frameLines : Nat := 98304

/-- The place of a moving slot in the order in which the remap engine copies: by old frame (R414). -/
def movingRank (s : State) (slot : Nat) : Nat :=
  ((List.range 240).filter (fun t =>
    entMv (slotEntry s t) && decide (entOframe (slotEntry s t) < entOframe (slotEntry s slot)))).length

/-- The number of a moving line among the moving lines of its source channel (R414). -/
def movingLine (s : State) (slot q : Nat) : Nat := movingRank s slot * frameLines + q / 32

/-- The state of a line under a retirement (R414). -/
inductive LineState where
  /-- It does not move. -/
  | still
  | pending
  | copying
  | done
  deriving DecidableEq, Repr

/-- The state of line `q` of a slot (R414): a Copying line is Done from the end of its slot 48 on. -/
def lineOf (s : State) (slot q : Nat) : LineState :=
  match s.retire with
  | none => .still
  | some r =>
    if entMv (slotEntry s slot) then
      let n := movingLine s slot q
      let p := look 0 r.pos (q % 32)
      if n < p then .done
      else
        match r.copying.find? (fun e => e.1 == q % 32) with
        | some (_, stop) => if n = p then (if s.now < stop then .copying else .done) else .pending
        | none => .pending
    else .still

/-- The home stack of an HBM4 address: the one that holds its line (R316, R414). -/
def homeStack (s : State) (skew pa : Nat) : Nat :=
  let e := slotEntry s (slotOf skew pa)
  match lineOf s (slotOf skew pa) (qOf pa) with
  | .pending => entOstack e
  | .copying => entOstack e
  | _ => entStack e

/-- The home cluster of a line by the hcl field of its page (R19, R124). -/
def homeCluster (s : State) (hcl skew pa : Nat) : Nat :=
  let l := pa / 1024
  if hcl < 32 then hcl
  else if hcl = 33 ∧ pa < 0x10000000000 then 4 * homeDie (homeStack s skew pa) (chanOf pa) + l % 4
  else (l ^^^ (l / 32)) % 32

/-- The slice of a line within its home cluster (R124). -/
def homeSlice (pa : Nat) : Nat :=
  let l := pa / 1024
  (l ^^^ (l / 8) ^^^ (l / 64)) % 8

/-- The home slice of a line: 8*cluster + slice (R124). -/
def homeOf (s : State) (hcl skew pa : Nat) : Nat := 8 * homeCluster s hcl skew pa + homeSlice pa

/-- The mesh quadrant that a die lies in, and its service core's number: dies 2n and 2n+1 (R12, R23). -/
def meshQuadrant (die : Nat) : Nat := die / 2

/-- The service core that handles a host request: for HBM4 by the place that the current slot table gives the line (R170). -/
def serviceCore (s : State) (pa : Nat) : Nat :=
  match placeOf pa with
  | .hbm => meshQuadrant (homeDie (entStack (slotEntry s (slotOf 0 pa))) (chanOf pa))
  | .window cl _ => meshQuadrant (cl / 4)
  | _ => pa / 1024 % 4

/-- The memory controller of an address: 32*stack + channel of the home that holds its line, or 512 + channel of the
second tier (R22, R405, R414). -/
def controllerOf (s : State) (skew pa : Nat) : Nat :=
  if pa < 0x10000000000 then 32 * homeStack s skew pa + chanOf pa
  else 512 + pa / 1024 % 8

/-- The state of a stack (R440). -/
def stackState (s : State) (x : Nat) : StackState := look .healthy s.stackSt x

/-- The number of healthy stacks (R319). -/
def healthyStacks (s : State) : Nat :=
  ((List.range 16).filter (fun x => stackState s x = .healthy)).length

/-- The line of an address is Copying: every request that reaches a home of it stalls until it is Done (R415). -/
def State.copyingAt (s : State) (skew pa : Nat) : Bool :=
  decide (pa < 0x10000000000) && decide (lineOf s (slotOf skew pa) (qOf pa) = .copying)

/-- A line that carries a bulk mark (R419, R420). -/
def bulkMarked (s : State) (skew pa : Nat) : Bool :=
  pa < hbmTop && s.bulk.any (fun b =>
    b.slot == slotOf skew pa && look 0 b.upto (chanOf pa) ≤ qOf pa / 32 && !(b.cleared.contains (pa / 0x10000)))

/-- The 256-byte sector of a key or address (R123). -/
def sectorOf (a : Nat) : Nat := a / 256

/-- The address's region is quarantined, or its whole second-tier channel is (R407). -/
def quarantined (s : State) (pa : Nat) : Bool :=
  s.quar.any (fun q => q.2 == pa / 0x10000) || (pa ≥ 0x10000000000 && s.quarChan.contains (pa / 1024 % 8))

/-- The line's home is a stack that answers no more (R419). -/
def unanswered (s : State) (skew pa : Nat) : Bool := decide (pa < hbmTop) && s.mute.contains (homeStack s skew pa)

/-- The sector is poisoned: in the record, uncorrectable, under a bulk mark, or at a stack that does not answer, whose reads end
with poisoned data (R405, R407, R419; log 124). -/
def poisoned (s : State) (skew pa : Nat) : Bool :=
  s.poison.any (fun q => q.2 == sectorOf (if pa < 0x10000000000 then hbmKey skew pa else pa)) ||
    s.bad.any (fun q => q.2 == sectorOf (if pa < 0x10000000000 then hbmKey skew pa else pa)) || bulkMarked s skew pa ||
    unanswered s skew pa

/-- The poison and quarantine causes of a read or write of memory (R405-R407): 0x22 goes before 0x21. -/
def memTrouble (s : State) (skew pa : Nat) : Option (BitVec 8) :=
  if quarantined s pa then some 0x22
  else if poisoned s skew pa then some 0x21
  else none

/-- What refuses a write of whole doublewords: a sector that is uncorrectable and held nowhere is no ground (R406,
R407). -/
def writeTrouble (s : State) (skew pa : Nat) : Option (BitVec 8) :=
  if quarantined s pa then some 0x22
  else if s.poison.any (fun q => q.2 == sectorOf (if pa < 0x10000000000 then hbmKey skew pa else pa)) ||
    bulkMarked s skew pa then some 0x21
  else none

/-- The write-log bit of a partition's region: HBM4 regions from the first bit up, the second tier's from 0x2000000
(R143). -/
def logBit (part pa : Nat) : Nat :=
  part * 0x4000000 + (if pa < 0x10000000000 then pa / 0x10000 else 0x2000000 + (pa - 0x10000000000) / 0x10000)

/-- A write-log bit set for a partition (R143). -/
def logWrite (s : State) (part pa : Nat) : State := { s with wlog := setIns s.wlog (logBit part pa) }

/-! ### Clocks, gated units and L1 leases (R4, R26, R123-R125, R145, R155, R329) -/

/-- A die's clock in MHz: 3,300 where firmware has set none (log 4). -/
def State.clock (s : State) (die : Nat) : Nat := look 3300 s.clocks die

/-- A die's own time, in megahertz times ticks: 3,300 of them are one of its cycles (R4, R26, R329). -/
def State.cycles (s : State) (die : Nat) : Nat :=
  let b := look (0, 0) s.clockBase die
  b.2 + (s.now - b.1) * s.clock die

/-- A die's clock set (R329): the periods that have gone by stay counted. -/
def State.setClock (s : State) (die mhz : Nat) : State :=
  { s with clocks := put s.clocks die mhz, clockBase := put s.clockBase die (s.now, s.cycles die) }

/-- A unit is gated, or its wake-up has not ended; it ends 6,600 ticks after it began at the latest (R26, R145). -/
def State.unitAsleep (s : State) (u : Nat) : Bool :=
  match s.asleep.find? (fun e => e.1 == u) with
  | none => false
  | some (_, none) => true
  | some (_, some t) => decide (s.now < t + 6600)

/-- An access reaches a gated unit: its wake-up begins (R145).  A bank of local memory that has been powered down keeps its
bytes until then, and wakes all zero. -/
def State.wakeUnit (s : State) (u : Nat) : State :=
  match s.asleep.find? (fun e => e.1 == u) with
  | some (_, none) =>
    { (if u < 0x1000 then clearRange s (localKey (u / 8) (u % 8 * 0x8000)) 0x8000 else s) with
      asleep := put s.asleep u (some s.now) }
  | _ => s

/-- The unit number of a way of a core's L1. -/
def l1Unit (core way : Nat) : Nat := 0x30000 + 16 * core + way

/-- The unit number of a way of an L2 slice. -/
def l2Unit (home way : Nat) : Nat := 0x40000 + 16 * home + way

/-- The unit number of a bank of a lane's scratchpad. -/
def spUnit (cl lane bank : Nat) : Nat := 0x10000 + 4 * (512 * cl + lane) + bank

/-- The unit number of an operand slot. -/
def slotUnit (cl n : Nat) : Nat := 0x20000 + 512 * cl + n

/-- The ways of a cache in use: those of its twelve that are neither gated nor out of service (R123, R145, R436). -/
def State.waysOf (s : State) (cl : Nat) (unit : Nat → Nat) : List Nat :=
  (List.range 12).filter (fun w =>
    !s.unitAsleep (unit w) && !(look .reset s.clusters cl).waysOut.contains (unit w))

/-- A lease of 4,096 cycles of the core's die from now on (R125). -/
def State.leaseEnd (s : State) (core : Nat) : Nat := s.cycles (dieOf core) + 4096 * 3300

/-- A core's L1 holds the sector under a current lease (R125, R155). -/
def State.l1Current (s : State) (core sector : Nat) : Bool :=
  s.l1.any (fun e => e.core == core && e.sector == sector && decide (s.cycles (dieOf core) < e.expiry))

/-- A core's L1 has write ownership of the sector (R125). -/
def State.l1Writable (s : State) (core sector : Nat) : Bool :=
  s.l1.any (fun e => e.core == core && e.sector == sector && e.writable)

/-- The L1 copies of a sector recalled from every core but one (R125, R155). -/
def recallLease (s : State) (sector : Nat) (except : Nat) : State :=
  { s with l1 := s.l1.filter (fun e => !(e.sector == sector && e.core != except)) }

/-- Before another core's load of a sector that is writable in an L1, the home slice takes it back (R125). -/
def recallOwner (s : State) (sector core : Nat) : State :=
  { s with l1 := s.l1.filter (fun e => !(e.sector == sector && e.core != core && e.writable)) }

/-- A sector enters a core's L1, or its lease is renewed: the set is the line modulo 64; a line that finds no free way
takes the place of the line of a way that the spec leaves open (R123, R125; log 18). -/
def l1Fill (s : State) (core sector : Nat) (own : Bool) : State :=
  let line := sector / 4
  let enter := fun (s : State) (w : Nat) =>
    { s with l1 :=
        { core := core, sector := sector, way := w, expiry := s.leaseEnd core, writable := own, since := [] } ::
        s.l1.filter (fun e => !(e.core == core && e.sector == sector)) }
  let inSet := fun (e : L1Ent) => e.core == core && e.sector / 4 % 64 == line % 64
  match s.l1.find? (fun e => e.core == core && e.sector / 4 == line) with
  | some e => enter s e.way
  | none =>
    let ways := s.waysOf (clusterOf core) (l1Unit core)
    match ways.find? (fun w => !s.l1.any (fun e => inSet e && e.way == w)) with
    | some w => enter s w
    | none =>
      if ways.isEmpty then s
      else
        let w := nth 0 ways ((Config.freeValue s.freeN).toNat % ways.length)
        enter { s with freeN := s.freeN + 1, l1 := s.l1.filter (fun e => !(inSet e && e.way == w)) } w

/-- A lease lapses (R155): its sector stays, and is revalidated at the next load. -/
def L1Ent.lapsed (e : L1Ent) : L1Ent := { e with expiry := 0, since := [] }

/-- Every lease of a core lapses (R155). -/
def lapse (s : State) (core : Nat) : State :=
  { s with l1 := s.l1.map (fun e => if e.core = core then e.lapsed else e) }

/-- A doubleword is stored, by a core through its L1 or by another agent, 4,096: the leases of the others have begun before it
(R155). -/
def noteStore (s : State) (dw core : Nat) : State :=
  { s with l1 := s.l1.map (fun e =>
      if e.core = core ∨ e.expiry = 0 ∨ e.since.contains dw then e else { e with since := dw :: e.since }) }

/-- A core's load returns the value of a doubleword: the leases that began before another agent stored it lapse (R155). -/
def sawValue (s : State) (core dw : Nat) : State :=
  { s with l1 := s.l1.map (fun e => if e.core = core ∧ e.since.contains dw then e.lapsed else e) }

/-- A core's own store or atomic completes: the leases that began before the value of that sector changed lapse (R155). -/
def sawOwn (s : State) (core sector : Nat) : State :=
  { s with l1 := s.l1.map (fun e => if e.core = core ∧ e.since.any (fun d => sectorOf d == sector) then e.lapsed else e) }

/-- Open scrub entries of a written sector are marked (R410). -/
def markScrubs (s : State) (sector : Nat) : State :=
  { s with scrubs := s.scrubs.map (fun e => if e.sector = sector then { e with marked := true } else e) }

/-- Memory written in the usual way: write log, recalls from every L1 but `core`'s, leases that began before, scrub entries,
checks (R125, R143, R155, R309, R410). -/
def storeMem (s : State) (part core pa key : Nat) (bs : List Byte) : State :=
  putBytes (markScrubs (noteStore (recallLease (logWrite s part pa) (sectorOf key) core) (key / 8 * 8) core) (sectorOf key))
    key bs

/-- A Scrivener record added (R439): code, partition, unit, address, details. -/
def scrivener (s : State) (code part unit addr : Nat) (detail : List Nat) : State :=
  let time := s.now * 10 / 33
  let w2 := code + part * 0x10000 + unit * 0x100000000
  let d := (detail ++ [0, 0, 0, 0]).take 4
  { s with
    scriv := { seq := s.scrivNext
               words := (time :: w2 :: addr :: d).map (BitVec.ofNat 64) } ::
             s.scriv.filter (fun r => r.seq + 8192 > s.scrivNext)
    scrivNext := s.scrivNext + 1 }

/-! ### Retirement of a stack (R318, R319, R414) -/

/-- A slot-table entry. -/
def mkEntry (stack frame ostack oframe : Nat) (mv : Bool) : BitVec 32 :=
  BitVec.ofNat 32 (stack + 16 * frame + 256 * ostack + 4096 * oframe + (if mv then 65536 else 0))

/-- The slots that lie on a stack, in increasing order. -/
def State.slotsOn (s : State) (x : Nat) : List Nat := (List.range 240).filter (fun t => entStack (slotEntry s t) == x)

/-- The stacks that capacity counts: those healthy, or failing and not evacuable (R319, R420). -/
def State.countedStacks (s : State) : Nat :=
  ((List.range 16).filter (fun x => stackState s x = .healthy || stackState s x = .failing)).length

/-- Guaranteed capacity (R319): 48 GiB for each healthy stack but one. -/
def State.capacity (s : State) : Nat := 0xC00000000 * (s.countedStacks - 1)

/-- The tables of a retirement (R318): the slots of the stack go, in order, to frame 15 of the survivors. -/
def State.moveTable (s : State) (x : Nat) : Table (BitVec 32) :=
  let away := s.slotsOn x
  let to_ := (List.range 16).filter (· != x)
  (List.range away.length).foldl (fun t k =>
    let e := slotEntry s (nth 0 away k)
    put t (nth 0 away k) (mkEntry (nth 0 to_ k) 15 (entStack e) (entFrame e) true)) s.slotCur

/-- A retirement may start: none is in progress, and every survivor has a free frame (R414, R420). -/
def State.mayRetire (s : State) (x : Nat) : Bool :=
  decide (x < 16) && s.retire.isNone && healthyStacks s == 16 && (s.slotsOn x).length == 15

/-- A stack in another state. -/
def State.setStack (s : State) (x : Nat) (st : StackState) : State := { s with stackSt := put s.stackSt x st }

/-- The start of a retirement (R414, R319). -/
def State.startRetirement (s : State) (x : Nat) (st : StackState) : State :=
  let t := { s with
    slotCur := s.moveTable x
    slotPrev := s.slotCur
    mpn := s.mpn + 1
    retire := some { stack := x, pos := [], copying := [], start := s.now } }.setStack x st
  scrivener { t with capg := t.capacity } 4 0xFF x 0 [(s.mpn + 1).toNat]

/-- Firmware's answer to a stack that is to be retired (R414, R420): a retirement, or where none can start a healthy stack is
failing and not evacuable. -/
def State.retireStack (s : State) (x : Nat) : State :=
  if s.mayRetire x then s.startRetirement x .retiring
  else if x < 16 ∧ stackState s x = .healthy then s.setStack x .failing
  else s

/-! ### Poison (R405-R407) -/

/-- The key of the sector of an address under a skew. -/
def sectorKey (skew pa : Nat) : Nat := sectorOf (if pa < 0x10000000000 then hbmKey skew pa else pa)

/-- The 64 KiB region of a sector key: a skew moves a line within its region only (R137). -/
def regionOf (key : Nat) : Nat := key * 256 % 0x10000000000000 / 0x10000

/-- A poisoned sector enters its controller's record (R405, R407); with the record full its region is quarantined, which
frees the region's entries; with that list full too, an HBM4 sector is held nowhere and firmware begins the retirement of
its stack, and a second-tier channel is quarantined whole.  `c` is the controller, `key` the sector, `ch` the second-tier channel. -/
def enterPoison (s : State) (c key unit ch : Nat) : State :=
  let region := regionOf key
  if (s.poison.filter (fun q => q.1 == c)).length < 512 then { s with poison := s.poison ++ [(c, key)] }
  else if (s.quar.filter (fun q => q.1 == c)).length < 32 then
    scrivener { s with quar := s.quar ++ [(c, region)],
                       poison := s.poison.filter (fun q => !(q.1 == c && regionOf q.2 == region)) }
      3 0xFF unit (region * 0x10000) []
  else if c < 512 then { s with bad := s.bad ++ [(c, key)] }.retireStack (c / 32)
  else scrivener { s with quarChan := setIns s.quarChan ch } 3 0xFF unit (region * 0x10000) []

/-- A sector becomes poisoned (R405, R439); `source` is 0 for a read, 1 for the Fuller, 2 for the remap engine. -/
def poisonSector (s : State) (source skew pa : Nat) : State :=
  let c := controllerOf s skew pa
  let unit := if pa < 0x10000000000 then c / 32 else pa / 1024 % 8
  if poisoned s skew pa || quarantined s pa then s
  else enterPoison (scrivener s 2 0xFF unit (pa / 256 * 256) [source]) c (sectorKey skew pa) unit (pa / 1024 % 8)

/-- A whole sector is written anew (R406, R407). -/
def renewSector (s : State) (skew pa : Nat) : State :=
  let key := sectorKey skew pa
  { s with poison := s.poison.filter (fun q => q.2 != key), bad := s.bad.filter (fun q => q.2 != key) }

/-- A free value of the spec, and the state that has used it (log 5). -/
def free (s : State) : Word × State := (Config.freeValue s.freeN, { s with freeN := s.freeN + 1 })

end Sys2Proof.Machine
end

