-- ==== Sys2Proof/Machine/Ops.lean ====
section
/-!
DEFINITION. The named operations over contexts, micro-threads, clusters and records, and the taking of an exception
with the return from it.

A meaning of a Zavan-C instruction acts on the current context (`s.me`).  It ends with `State.done` or `State.goto`,
or raises an exception with `raise`, which is trap entry (R372) at the instruction and a NEXT state.
-/

namespace Sys2Proof.Machine

/-- What every meaning answers. -/
abbrev Res' := Host.Outcome State Fault Refusal

/-! ### Tables of units -/

/-- A context. -/
def State.ctx (s : State) (c : Nat) : Ctx := look .reset s.ctxs c

/-- A context replaced. -/
def State.setCtx (s : State) (c : Nat) (x : Ctx) : State := { s with ctxs := put s.ctxs c x }

/-- The current context. -/
def State.me (s : State) : Ctx := s.ctx s.cur

/-- The current context replaced. -/
def State.setMe (s : State) (x : Ctx) : State := s.setCtx s.cur x

/-- The core of a context. -/
def coreOfCtx (c : Nat) : Nat := c / 4

/-- The cluster of a context. -/
def clusterOfCtx (c : Nat) : Nat := clusterOf (c / 4)

/-- The crew number of a context within its cluster (R118). -/
def crewNo (c : Nat) : Nat := 4 * coreIn (c / 4) + c % 4

/-- A micro-thread. -/
def State.mt (s : State) (c i : Nat) : Mt := look .fresh s.mts (512 * c + i)

/-- A micro-thread replaced. -/
def State.setMt (s : State) (c i : Nat) (m : Mt) : State := { s with mts := put s.mts (512 * c + i) m }

/-- A cluster. -/
def State.cluster (s : State) (cl : Nat) : Cluster := look .reset s.clusters cl

/-- A cluster replaced. -/
def State.setCluster (s : State) (cl : Nat) (k : Cluster) : State := { s with clusters := put s.clusters cl k }

/-- A launch record. -/
def State.lrec (s : State) (r : Nat) : LRec := look .reset s.recs r

/-- A launch record replaced. -/
def State.setRec (s : State) (r : Nat) (l : LRec) : State := { s with recs := put s.recs r l }

/-- A mailbox. -/
def State.box (s : State) (m : Nat) : Mailbox := look .reset s.boxes m

/-- A mailbox replaced. -/
def State.setBox (s : State) (m : Nat) (b : Mailbox) : State := { s with boxes := put s.boxes m b }

/-- The local indices of a crew. -/
def Ctx.locals (x : Ctx) : List Nat := List.range x.vl

/-- Every micro-thread of a crew changed by a function of its local index. -/
def State.mapMts (s : State) (c : Nat) (f : Nat → Mt → Mt) : State :=
  (s.ctx c).locals.foldl (fun s i => s.setMt c i (f i (s.mt c i))) s

/-! ### Registers of a context -/

/-- A register read: `x0` is zero (R206). -/
def Ctx.rx (x : Ctx) (r : RegNo) : Word := if r = 0 then 0 else look 0 x.x r.toNat

/-- A register write: a write to `x0` is discarded (R206). -/
def Ctx.wx (x : Ctx) (r : RegNo) (v : Word) : Ctx := if r = 0 then x else { x with x := put x.x r.toNat v }

/-- A register of the current context. -/
def State.rx (s : State) (r : RegNo) : Word := s.me.rx r

/-- A register of the current context written. -/
def State.wx (s : State) (r : RegNo) (v : Word) : State := s.setMe (s.me.wx r v)

/-- The next word's address (R177). -/
def State.next (s : State) : State := s.setMe { s.me with pc := s.me.pc + 4 }

/-- The instruction ends with a result in `rd`. -/
def State.done (s : State) (rd : RegNo) (v : Word) : Res' := .next (s.wx rd v).next

/-- The instruction ends with a transfer. -/
def State.goto (s : State) (pc : Word) : Res' := .next (s.setMe { s.me with pc := pc })

/-- The flags of an instruction ORed into `fflags` (R105). -/
def State.orFlags (s : State) (f : BitVec 7) : State := s.setMe { s.me with fflags := s.me.fflags ||| f }

/-- The current context parks at the instruction (R30). -/
def State.park (s : State) (w : Why) : Res' := .next (s.setMe { s.me with run := .parked w })

/-- A parked context becomes READY with its instruction finished. -/
def Ctx.resume (x : Ctx) : Ctx := { x with run := .active, pc := x.pc + 4 }

/-- A sign-extended immediate (R177). -/
def sext {n : Nat} (b : BitVec n) : Word := b.signExtend 64

/-! ### Levels, exceptions and traps (R369-R374) -/

/-- A level's code in `ststatus` (R370). -/
def Level.code : Level → BitVec 2
  | .app => 0
  | .sys => 1
  | .fw => 2

/-- The level a code names; code 3 cannot be written (R370). -/
def Level.ofCode (b : BitVec 2) : Level := if b = 0 then .app else if b = 1 then .sys else .fw

/-- The level a cause goes to (R372). -/
def trapLevel (k : BitVec 8) (l : Level) : Level := if k = 0x13 then .fw else if l = .app then .sys else .fw

/-- Trap entry (R372): the context leaves its park, saves the address, cause, value, level and loop depth, and jumps to
the handler. -/
def Ctx.trap (x : Ctx) (epc : Word) (e : Exc) : Ctx :=
  let l := trapLevel e.cause x.level
  let old := if l = .sys then x.st else x.ft
  let r := { old with cause := e.cause, epc := epc, val := e.val, plev := x.level.code,
                      ldepth := BitVec.ofNat 3 x.loops.length }
  let y := { x with run := .active, level := l, pc := old.vec >>> 2 <<< 2, call := none, card := none, watching := none }
  if l = .sys then { y with st := r } else { y with ft := r }

/-- The trap registers of the running handler. -/
def Ctx.handler (x : Ctx) : TrapRegs := if x.level = .sys then x.st else x.ft

/-- Return from a handler (R373): loop entries above the saved depth go, the pc and the level come back.  A Prompt
trap's service ends when its context returns to App (R374). -/
def Ctx.eret (x : Ctx) : Ctx :=
  let r := x.handler
  { x with loops := x.loops.drop (x.loops.length - r.ldepth.toNat), pc := r.epc, level := Level.ofCode r.plev,
           promptBusy := if Level.ofCode r.plev = .app then false else x.promptBusy }

/-- The launch record of a context's gang (R34). -/
def State.gang (s : State) (c : Nat) : LRec := s.lrec (s.ctx c).recIdx.toNat

/-- A control-word field of a launch record (R296). -/
def LRec.fld (r : LRec) (lo len : Nat) : Nat := (r.ctl.extractLsb' lo len).toNat

/-- The state of a launch record: 0 UNBUILT, 1 IDLE, 2 ARMED, 3 RUNNING (R296). -/
def LRec.state (r : LRec) : Nat := r.fld 0 2

/-- The crew trap policy of a context (R374). -/
def State.trapmode (s : State) (c : Nat) : Nat := (s.gang c).fld 18 2

/-- A trigger of a rollback: the gang has the attribute, attempts are left, and the superstep can be replayed
(R427, R429). -/
def State.rollsBack (s : State) (c : Nat) (k : BitVec 8) : Bool :=
  let g := s.gang c
  g.rollback && g.attempts < 2 && !g.unreplayable && (k == 0x20 || k == 0x21 || k == 0x22 || k == 0x28 || k == 0x29)

/-- A gang whose trigger is not taken any more ends with the rollback bit (R429). -/
def State.noteTrigger (s : State) (c : Nat) (k : BitVec 8) : State :=
  let g := s.gang c
  let r := (s.ctx c).recIdx.toNat
  if g.rollback && (k == 0x20 || k == 0x21 || k == 0x22 || k == 0x28 || k == 0x29) then
    if s.rollsBack c k then s.setRec r { g with trigger := true } else s.setRec r { g with rbFailed := true }
  else s

/-- The number of a partition that holds a core, 0 where none does (R327). -/
def State.partOf (s : State) (core : Nat) : Nat :=
  let inside (w : Word) : Bool :=
    (w.extractLsb' 0 8).toNat ≤ core / 32 && core / 32 ≤ (w.extractLsb' 16 8).toNat &&
      (w.extractLsb' 8 8).toNat ≤ core % 32 && core % 32 ≤ (w.extractLsb' 24 8).toNat
  match s.img.parts.find? (fun p => inside p.cores) with
  | some p => p.part
  | none => 0

/-- The definition of a partition (R333). -/
def State.partDef (s : State) (p : Nat) : Option PartDef := s.img.parts.find? (fun d => d.part == p)

/-- A check mismatch's Scrivener record (R404, R450): consumer kind, partition, core, address. -/
def State.mismatch (s : State) (kind part core addr : Nat) : State :=
  scrivener s 1 part (core / 32 + core % 32 * 0x100 + clusterOf core * 0x10000) addr [0x20, kind]

/-- An exception of a context at an address: a rollback trigger (R427), or trap entry (R372). -/
def State.trapAt (s : State) (c : Nat) (epc : Word) (e : Exc) : State :=
  if s.rollsBack c e.cause then s.noteTrigger c e.cause
  else
    let s := s.noteTrigger c e.cause
    s.setCtx c ((s.ctx c).trap epc e)

/-- The instruction raises an exception: no effect but the trap (R207, R386). -/
def raise (s : State) (k : BitVec 8) (v : Word) : Res' := .next (s.trapAt s.cur s.me.pc { cause := k, val := v })

/-- The word at the pc of a context, as the stval of a cause that names the word (R371). -/
def wordVal (w : Option IWord) : Word := (w.getD 0).setWidth 64

/-- The sectors held for a micro-thread's block are let go (R151). -/
def State.letGo (s : State) (c i : Nat) : State :=
  { s with heldSectors := s.heldSectors.filter (fun h => h.2 != 512 * c + i) }

/-! ### Rectangles (R8, R285) -/

/-- A well-formed rectangle: reserved bits zero, corners in order and on the mesh (R285). -/
def rectOk (w : Word) : Bool :=
  (w.extractLsb' 32 32 == 0) && (w.extractLsb' 0 8).toNat ≤ (w.extractLsb' 16 8).toNat &&
    (w.extractLsb' 16 8).toNat ≤ 15 && (w.extractLsb' 8 8).toNat ≤ (w.extractLsb' 24 8).toNat &&
    (w.extractLsb' 24 8).toNat ≤ 31

/-- First and last row, first and last column of a rectangle (R8). -/
def row0 (w : Word) : Nat := (w.extractLsb' 0 8).toNat
/-- Last row. -/
def row1 (w : Word) : Nat := (w.extractLsb' 16 8).toNat
/-- First column. -/
def col0 (w : Word) : Nat := (w.extractLsb' 8 8).toNat
/-- Last column. -/
def col1 (w : Word) : Nat := (w.extractLsb' 24 8).toNat

/-- The core lies inside the rectangle (R165). -/
def inRect (w : Word) (core : Nat) : Bool :=
  row0 w ≤ core / 32 && core / 32 ≤ row1 w && col0 w ≤ core % 32 && core % 32 ≤ col1 w

/-- One rectangle lies within another. -/
def rectIn (a b : Word) : Bool :=
  row0 b ≤ row0 a && row1 a ≤ row1 b && col0 b ≤ col0 a && col1 a ≤ col1 b

/-- The cores of a rectangle in row-major order: rank order (R382). -/
def rectCores (w : Word) : List Nat :=
  (List.range (row1 w + 1 - row0 w)).flatMap (fun r =>
    (List.range (col1 w + 1 - col0 w)).map (fun k => 32 * (row0 w + r) + col0 w + k))

/-- The rank of a core in a rectangle (R382). -/
def rankIn (w : Word) (core : Nat) : Nat :=
  (core / 32 - row0 w) * (col1 w + 1 - col0 w) + (core % 32 - col0 w)

/-- A rectangle of given corners. -/
def mkRect (r0 c0 r1 c1 : Nat) : Word := BitVec.ofNat 64 (r0 + c0 * 0x100 + r1 * 0x10000 + c1 * 0x1000000)

/-- The contexts of a running gang (R34). -/
def State.gangCtxs (s : State) (r : Nat) : List Nat :=
  (rectCores (s.lrec r).placed).map (fun k => 4 * k + (s.lrec r).fld 8 2)

/-! ### Grants (R68, R75) -/

/-- The side of a square request code (R70). -/
def sideOf (sq : BitVec 2) : Nat := if sq = 0 then 0 else if sq = 1 then 4 else if sq = 2 then 8 else 16

/-- `vlreq`.sq. -/
def Ctx.reqSq (x : Ctx) : BitVec 2 := x.vlreq.extractLsb' 16 2

/-- `vlreq`.len. -/
def Ctx.reqLen (x : Ctx) : Nat := (x.vlreq.extractLsb' 0 10).toNat

/-- The code of a grant state (R68). -/
def GState.code : GState → Nat
  | .idle => 0
  | .requested => 1
  | .granted => 2
  | .shrinking => 3
  | .spilled => 4
  | .revoked => 5

/-- The code of a micro-thread state (R375). -/
def MState.code : MState → Nat
  | .idle => 0
  | .running => 1
  | .stopped => 2
  | .faulted => 3

/-- Physical lanes held: a grant slot whose lane a shrink has already passed on holds none, and its place in `slots`
names lane 512 (R68, R77, R78). -/
def Ctx.lanesHeld (x : Ctx) : Nat := (x.slots.filter (· < 512)).length

/-- The crew holds lanes. -/
def Ctx.holds (x : Ctx) : Bool := x.gstate = .granted || x.gstate = .shrinking || x.gstate = .spilled

/-- The lane of a micro-thread (R75, R80). -/
def State.laneOf (s : State) (c i : Nat) : Nat := nth 0 (s.ctx c).slots (s.mt c i).slot

/-- The crew's sequencer entries that a micro-thread has still to begin (R41, R42). -/
def pending (x : Ctx) (m : Mt) : Bool := m.left > 0 || x.seq.any (fun e => e.id > m.ent)

/-- An entry is freed when every micro-thread has begun the last broadcast it carries (R41). -/
def State.entryFreed (s : State) (c : Nat) (e : SeqEntry) : Bool :=
  (s.ctx c).locals.all (fun i => (s.mt c i).ent > e.id || ((s.mt c i).ent == e.id && (s.mt c i).left == 0))

/-- The entries taken and not freed (R41). -/
def State.seqUsed (s : State) (c : Nat) : Nat :=
  ((s.ctx c).seq.filter (fun e => !s.entryFreed c e)).length

/-- Freed entries that no chain runs from leave the sequencer (R41, R378). -/
def State.sweepSeq (s : State) (c : Nat) : State :=
  let x := s.ctx c
  s.setCtx c { x with
    seq := x.seq.filter (fun e =>
      !s.entryFreed c e || x.locals.any (fun i => (s.mt c i).ent == e.id && (s.mt c i).state == .running)) }

/-- What a lane's fault does to its micro-thread (R374): FAULTED, with its cause and address; under trapmode 2 the
control thread has a trap due (R374), the sectors held for the block are free (R151), and a
sequencer entry that this frees goes (R41, R378).  A rollback trigger leaves the block where it is (R427). -/
def State.mtFault (s : State) (c i : Nat) (m : Mt) (e : Exc) : State :=
  if s.rollsBack c e.cause then s.noteTrigger c e.cause
  else
    let s := s.noteTrigger c e.cause
    let s := (s.letGo c i).setMt c i { m with state := .faulted, cause := e.cause, faultAddr := e.val, blk := none }
    let x := s.ctx c
    let s := if s.trapmode c = 2 && !x.promptBusy then
        s.setCtx c { x with prompt := some (match x.prompt with | some j => min j i | none => i) }
      else s
    s.sweepSeq c

/-- The sequencer is empty and every micro-thread is STOPPED, FAULTED or IDLE (R45, R257). -/
def State.drained (s : State) (c : Nat) : Bool :=
  s.seqUsed c == 0 && (s.ctx c).locals.all (fun i => (s.mt c i).state != .running)

/-- Every block broadcast to a micro-thread, and every chain such a block began, has ended (R175, R262). -/
def State.quiet (s : State) (c i : Nat) : Bool :=
  (s.mt c i).state != .running && !pending (s.ctx c) (s.mt c i)

/-- The fault summary of a crew (R257). -/
def State.summary (s : State) (c : Nat) : Word :=
  (s.ctx c).locals.foldl (fun w i =>
    if (s.mt c i).state = .faulted then w ||| (1 <<< (i % 64)) else w) 0

/-- The gang's abort line is raised in the context's cluster (R52). -/
def State.abortRaised (s : State) (c : Nat) : Bool :=
  (s.cluster (clusterOfCtx c)).abortLines.contains (s.ctx c).recIdx.toNat

/-- A crew samples the abort line: abort-seen is set at the first sampling of a raised line (R52). -/
def State.sampleAbort (s : State) (c : Nat) : State :=
  if s.abortRaised c then s.setCtx c { s.ctx c with abortSeen := true, abortEver := true } else s

end Sys2Proof.Machine
end

