-- ==== Sys2Proof/Machine/Flags.lean ====
section
/-!
DEFINITION. Numbers: decoding of every format, rounding in every mode, the flags, and the floating operations of both
streams (R88-R108, R213-R217, R239-R244).

A finite value is `±m * 2^e` with `m` a natural number.  An exact result that is no such number (a quotient, a root, a
special function) is held as the greatest `m` below it with a mark that something is left over; `m` has far more bits
than any format, so every rounding, the draws of SRN included, is decided by `m` and the mark.
-/

namespace Sys2Proof.Machine

/-! ### Flags (R105) -/

/-- Inexact. -/
def fNX : BitVec 7 := 1
/-- Tiny and inexact. -/
def fUF : BitVec 7 := 2
/-- Overflow. -/
def fOF : BitVec 7 := 4
/-- Division of a finite nonzero value by zero. -/
def fDZ : BitVec 7 := 8
/-- Invalid. -/
def fNV : BitVec 7 := 16
/-- Integer division by zero or overflow. -/
def fIZ : BitVec 7 := 32
/-- Integer saturated. -/
def fIS : BitVec 7 := 64

/-! ### Formats -/

/-- A binary floating format: exponent and fraction bits, and whether it has infinities (R89). -/
structure Fmt where
  eb : Nat
  fb : Nat
  inf : Bool
  deriving DecidableEq, Repr

/-- FP64. -/
def f64 : Fmt := { eb := 11, fb := 52, inf := true }
/-- FP32. -/
def f32 : Fmt := { eb := 8, fb := 23, inf := true }
/-- FP16. -/
def f16 : Fmt := { eb := 5, fb := 10, inf := true }
/-- BF16. -/
def bf16 : Fmt := { eb := 8, fb := 7, inf := true }
/-- E4M3. -/
def e4m3 : Fmt := { eb := 4, fb := 3, inf := false }
/-- E5M2. -/
def e5m2 : Fmt := { eb := 5, fb := 2, inf := true }
/-- E2M1. -/
def e2m1 : Fmt := { eb := 2, fb := 1, inf := false }

/-- The width of a format. -/
def Fmt.width (f : Fmt) : Nat := 1 + f.eb + f.fb

/-- The exponent bias (R89). -/
def Fmt.bias (f : Fmt) : Int := 2 ^ (f.eb - 1) - 1

/-- The code of infinity, without the sign. -/
def Fmt.infCode (f : Fmt) : Nat := (2 ^ f.eb - 1) * 2 ^ f.fb

/-- The canonical NaN (R91). -/
def Fmt.nan (f : Fmt) : Nat := if f.inf then f.infCode + 2 ^ (f.fb - 1) else if f.eb = 4 then 0x7F else 0

/-- The sign bit's weight. -/
def Fmt.sign (f : Fmt) (neg : Bool) : Nat := if neg then 2 ^ (f.eb + f.fb) else 0

/-- A decoded value. -/
inductive Num where
  | nan (signalling neg : Bool)
  | inf (neg : Bool)
  | fin (neg : Bool) (m : Nat) (e : Int)
  deriving DecidableEq, Repr

/-- An exact magnitude: `m * 2^e`, with `more` when the value lies strictly between it and `(m+1) * 2^e`. -/
structure Mag where
  m : Nat
  e : Int
  more : Bool
  deriving DecidableEq, Repr

/-- The value of a code of a binary format (R89). -/
def Fmt.decode (f : Fmt) (b : Nat) : Num :=
  let neg := b / 2 ^ (f.eb + f.fb) % 2 == 1
  let ex := b / 2 ^ f.fb % 2 ^ f.eb
  let fr := b % 2 ^ f.fb
  if f.inf && ex == 2 ^ f.eb - 1 then
    if fr = 0 then .inf neg else .nan (decide (fr < 2 ^ (f.fb - 1))) neg
  else if f == e4m3 && b % 128 == 127 then .nan false neg
  else if ex = 0 then .fin neg fr (1 - f.bias - f.fb)
  else .fin neg (2 ^ f.fb + fr) ((ex : Int) - f.bias - f.fb)

/-- The fraction of a tapered code after its regime run of `run` bits equal to `one`, of `n` magnitude bits (R93). -/
def taperedMag (n c : Nat) : Nat × Int :=
  let ones := c / 2 ^ (n - 1) % 2 == 1
  let run := ((List.range n).takeWhile (fun i => (c / 2 ^ (n - 1 - i) % 2 == 1) == ones)).length
  let regime : Int := if ones then (run : Int) - 1 else -(run : Int)
  let left := n - run - 1
  let rest := c % 2 ^ left
  if left = 0 then (1, 2 * regime)
  else
    let ebit := rest / 2 ^ (left - 1)
    (2 ^ (left - 1) + rest % 2 ^ (left - 1), 2 * regime + ebit - ((left - 1 : Nat) : Int))

/-- The value of a tapered code with `n` magnitude bits: T8 has 7, T6 has 5; a NaV is a quiet NaN (R93, R94), and
where a format keeps the sign of a NaN a positive one, since the spec gives a NaV no sign (DESIGN CHOICE, log 116). -/
def taperedDecode (n b : Nat) : Num :=
  let c := b % 2 ^ n
  let neg := b / 2 ^ n % 2 == 1
  if c = 0 then (if neg then .nan false false else .fin false 0 0)
  else
    let (m, e) := taperedMag n c
    .fin neg m e

/-! ### Comparing and shifting exact values -/

/-- `m * 2^e` as a number of units `2^q`, when `q ≤ e`. -/
def scaleTo (m : Nat) (e q : Int) : Nat := m * 2 ^ (e - q).toNat

/-- Compare two magnitudes: -1, 0 or 1, a mark counting as strictly more than the number before it. -/
def Mag.cmp (a b : Mag) : Int :=
  let q := min a.e b.e
  let x := scaleTo a.m a.e q
  let y := scaleTo b.m b.e q
  if x < y then -1 else if y < x then 1
  else if a.more == b.more then 0 else if a.more then 1 else -1

/-! ### Rounding (R101-R106) -/

/-- A rounding mode and the draw that SRN takes (R101, R103). -/
structure Rnd where
  mode : BitVec 3
  draw : Nat
  deriving DecidableEq, Repr

/-- Whether a magnitude between `n` and `n + 1` units goes up: `r / 2^sh` of the unit, `more` beyond it. -/
def roundsUp (rd : Rnd) (neg odd : Bool) (r sh : Nat) (more : Bool) : Bool :=
  if r = 0 ∧ more = false then false
  else if rd.mode = 0 then
    if 2 * r > 2 ^ sh then true else if 2 * r = 2 ^ sh then (more || odd) else false
  else if rd.mode = 1 then false
  else if rd.mode = 2 then neg
  else if rd.mode = 3 then !neg
  else decide (r * 2 ^ 16 / 2 ^ sh + rd.draw ≥ 2 ^ 16)

/-- A magnitude rounded to a multiple of `2^q`: the multiple and whether it is inexact. -/
def roundAt (rd : Rnd) (neg : Bool) (x : Mag) (q : Int) : Nat × Bool :=
  if q ≤ x.e then
    let n := scaleTo x.m x.e q
    (if roundsUp rd neg (n % 2 == 1) 0 0 x.more then n + 1 else n, x.more)
  else
    let sh := (q - x.e).toNat
    let n := x.m / 2 ^ sh
    let r := x.m % 2 ^ sh
    (if roundsUp rd neg (n % 2 == 1) r sh x.more then n + 1 else n, decide (r ≠ 0) || x.more)

/-- The overflow result of a format with infinities (R106). -/
def overflowCode (f : Fmt) (rd : Rnd) (neg : Bool) : Nat :=
  let toMax := rd.mode == 1 || (rd.mode == 2 && !neg) || (rd.mode == 3 && neg)
  f.sign neg + (if toMax then f.infCode - 1 else f.infCode)

/-- The largest finite magnitude of a saturating binary format: code 0x7E of E4M3, code 7 of E2M1 (R89). -/
def Fmt.maxCode (f : Fmt) : Nat := if f.inf then f.infCode - 1 else if f.eb = 4 then 0x7E else 7

/-- The magnitude of a code. -/
def Fmt.magOf (f : Fmt) (c : Nat) : Mag :=
  match f.decode c with
  | .fin _ m e => { m := m, e := e, more := false }
  | _ => { m := 0, e := 0, more := false }

/-- An exact magnitude rounded to a binary format: the code and the flags (R101-R106). -/
def roundMag (f : Fmt) (rd : Rnd) (neg : Bool) (x : Mag) : Nat × BitVec 7 :=
  if x.m = 0 then (f.sign neg, 0)
  else if f.inf = false ∧ x.cmp (f.magOf f.maxCode) = 1 then (f.sign neg + f.maxCode, fOF ||| fNX)
  else
    let emin : Int := 1 - f.bias
    let lead : Int := (Nat.log2 x.m : Int) + x.e
    let q : Int := max lead emin - f.fb
    let (n, inexact) := roundAt rd neg x q
    let code := (q - (emin - f.fb)).toNat * 2 ^ f.fb + n
    if f.inf && code ≥ f.infCode then (overflowCode f rd neg, fOF ||| fNX)
    else
      let tiny := decide (lead < emin) &&
        !(lead == emin - 1 && (roundAt rd neg x (lead - f.fb)).1 == 2 ^ (f.fb + 1))
      (f.sign neg + code, if inexact then (if tiny then fUF ||| fNX else fNX) else 0)

/-- The greatest tapered code whose magnitude is at most `x`, searched downward from `c`. -/
def taperedFloor (n : Nat) (x : Mag) : Nat → Nat
  | 0 => 0
  | c + 1 =>
    let v := taperedMag n (c + 1)
    if x.cmp { m := v.1, e := v.2, more := false } ≥ 0 then c + 1 else taperedFloor n x c

/-- An exact magnitude rounded to a tapered format of `n` magnitude bits (R101, R103, R105, R106): what lies below the
smallest positive value is tiny (log 17). -/
def roundTapered (n : Nat) (rd : Rnd) (neg : Bool) (x : Mag) : Nat × BitVec 7 :=
  let top := 2 ^ n - 1
  let sgn := if neg then 2 ^ n else 0
  if x.m = 0 then (0, 0)
  else if x.cmp { m := (taperedMag n top).1, e := (taperedMag n top).2, more := false } = 1 then
    (sgn + top, fOF ||| fNX)
  else
    let c := taperedFloor n x top
    let a := if c = 0 then (0, (taperedMag n 1).2) else taperedMag n c
    if x.more = false ∧ x.cmp { m := a.1, e := a.2, more := false } = 0 then (sgn + c, 0)
    else
      let b := taperedMag n (c + 1)
      let q := min x.e (min a.2 b.2)
      let lo := scaleTo a.1 a.2 q
      let gap := scaleTo b.1 b.2 q - lo
      let off := scaleTo x.m x.e q - lo
      let up :=
        if rd.mode = 0 then
          if 2 * off > gap then true else if 2 * off = gap then (x.more || c % 2 == 1) else false
        else if rd.mode = 1 then false
        else if rd.mode = 2 then neg
        else if rd.mode = 3 then !neg
        else decide (off * 2 ^ 16 / gap + rd.draw ≥ 2 ^ 16)
      let d := if up then c + 1 else c
      (if d = 0 then 0 else sgn + d, if c = 0 then fUF ||| fNX else fNX)

/-- The floating and tapered formats as destinations and sources, by format code (R88). -/
inductive FpFmt where
  | bin (f : Fmt)
  | tapered (n : Nat)
  deriving DecidableEq, Repr

/-- The floating or tapered format of a code (R88). -/
def fpFmt (code : Nat) : Option FpFmt :=
  match code with
  | 1 => some (.bin f64)
  | 2 => some (.bin f32)
  | 3 => some (.bin f16)
  | 4 => some (.bin bf16)
  | 5 => some (.bin e4m3)
  | 6 => some (.bin e5m2)
  | 7 => some (.bin e2m1)
  | 8 => some (.tapered 7)
  | 9 => some (.tapered 5)
  | _ => none

/-- The value of a code. -/
def FpFmt.decode : FpFmt → Nat → Num
  | .bin f, b => f.decode b
  | .tapered n, b => taperedDecode n b

/-- A value rounded to a floating or tapered format with the special values of R106. -/
def FpFmt.convert : FpFmt → Rnd → Num → Nat × BitVec 7
  | .bin f, rd, v =>
    match v with
    | .nan sig neg =>
      if f == e2m1 then (0, fNV)
      else if f == e4m3 then (f.sign neg + 0x7F, if sig then fNV else 0)
      else (f.nan, if sig then fNV else 0)
    | .inf neg => if f.inf then (f.sign neg + f.infCode, 0) else (f.sign neg + f.maxCode, fOF ||| fNX)
    | .fin neg m e => roundMag f rd neg { m := m, e := e, more := false }
  | .tapered n, rd, v =>
    match v with
    | .nan sig _ => (2 ^ n, if sig then fNV else 0)
    | .inf neg => ((if neg then 2 ^ n else 0) + (2 ^ n - 1), fOF ||| fNX)
    | .fin neg m e => roundTapered n rd neg { m := m, e := e, more := false }

/-! ### Arithmetic (R214) -/

/-- NaN operands: the canonical NaN, invalid when one is signalling. -/
def nanOf (f : Fmt) (l : List Num) : Option (Nat × BitVec 7) :=
  if l.any (fun v => match v with | .nan _ _ => true | _ => false) then
    some (f.nan, if l.any (fun v => match v with | .nan s _ => s | _ => false) then fNV else 0)
  else none

/-- A signed exact sum of two finite values: the sign of an exact zero is `zneg`. -/
def addFin (n1 : Bool) (m1 : Nat) (e1 : Int) (n2 : Bool) (m2 : Nat) (e2 : Int) (down : Bool) : Bool × Nat × Int :=
  let q := min e1 e2
  let x := scaleTo m1 e1 q
  let y := scaleTo m2 e2 q
  if n1 = n2 then (n1, x + y, q)
  else if x = y then (down, 0, q)
  else if x > y then (n1, x - y, q) else (n2, y - x, q)

/-- The sum of two values (R214). -/
def fpAdd (f : Fmt) (rd : Rnd) (a b : Num) : Nat × BitVec 7 :=
  match nanOf f [a, b] with
  | some r => r
  | none =>
    match a, b with
    | .inf n1, .inf n2 => if n1 = n2 then (f.sign n1 + f.infCode, 0) else (f.nan, fNV)
    | .inf n1, _ => (f.sign n1 + f.infCode, 0)
    | _, .inf n2 => (f.sign n2 + f.infCode, 0)
    | .fin n1 m1 e1, .fin n2 m2 e2 =>
      let (n, m, e) := addFin n1 m1 e1 n2 m2 e2 (rd.mode == 2)
      roundMag f rd n { m := m, e := e, more := false }
    | _, _ => (f.nan, 0)

/-- A value with the other sign. -/
def Num.neg : Num → Num
  | .nan s n => .nan s (!n)
  | .inf n => .inf (!n)
  | .fin n m e => .fin (!n) m e

/-- The exact product of two values; none for 0·∞ (R214). -/
def mulNum (a b : Num) : Option Num :=
  match a, b with
  | .fin n1 m1 e1, .fin n2 m2 e2 => some (.fin (n1 != n2) (m1 * m2) (e1 + e2))
  | .inf n1, .inf n2 => some (.inf (n1 != n2))
  | .inf n1, .fin n2 m _ => if m = 0 then none else some (.inf (n1 != n2))
  | .fin n1 m _, .inf n2 => if m = 0 then none else some (.inf (n1 != n2))
  | a, _ => some a

/-- The product (R214). -/
def fpMul (f : Fmt) (rd : Rnd) (a b : Num) : Nat × BitVec 7 :=
  match nanOf f [a, b] with
  | some r => r
  | none =>
    match mulNum a b with
    | some (.fin n m e) => roundMag f rd n { m := m, e := e, more := false }
    | some (.inf n) => (f.sign n + f.infCode, 0)
    | _ => (f.nan, fNV)

/-- `±a*b ± c`, rounded once (R214): 0·∞ is invalid even beside a quiet NaN. -/
def fpFma (f : Fmt) (rd : Rnd) (negP negC : Bool) (a b c : Num) : Nat × BitVec 7 :=
  let c := if negC then c.neg else c
  let isNan (v : Num) : Bool := match v with | .nan _ _ => true | _ => false
  if !(isNan a) && !(isNan b) && (mulNum a b).isNone then (f.nan, fNV)
  else
    match nanOf f [a, b, c] with
    | some r => r
    | none =>
      match mulNum a b with
      | some p => fpAdd f rd (if negP then p.neg else p) c
      | none => (f.nan, fNV)

/-- A quotient of magnitudes with at least 96 bits. -/
def divMag (m1 : Nat) (e1 : Int) (m2 : Nat) (e2 : Int) : Mag :=
  let k := 96 + Nat.log2 m2 + 1
  { m := m1 * 2 ^ k / m2, e := e1 - e2 - k, more := decide (m1 * 2 ^ k % m2 ≠ 0) }

/-- The quotient (R214). -/
def fpDiv (f : Fmt) (rd : Rnd) (a b : Num) : Nat × BitVec 7 :=
  match nanOf f [a, b] with
  | some r => r
  | none =>
    match a, b with
    | .inf _, .inf _ => (f.nan, fNV)
    | .inf n1, .fin n2 _ _ => (f.sign (n1 != n2) + f.infCode, 0)
    | .fin n1 _ _, .inf n2 => (f.sign (n1 != n2), 0)
    | .fin n1 m1 e1, .fin n2 m2 e2 =>
      if m2 = 0 then
        if m1 = 0 then (f.nan, fNV) else (f.sign (n1 != n2) + f.infCode, fDZ)
      else roundMag f rd (n1 != n2) (divMag m1 e1 m2 e2)
    | _, _ => (f.nan, 0)

/-- The integer square root, found bit by bit from bit `k - 1` down. -/
def isqrt (n : Nat) : Nat → Nat → Nat
  | 0, r => r
  | k + 1, r => if (r + 2 ^ k) * (r + 2 ^ k) ≤ n then isqrt n k (r + 2 ^ k) else isqrt n k r

/-- The square root of a magnitude with at least 96 bits. -/
def sqrtMag (m : Nat) (e : Int) : Mag :=
  let sh : Nat := 192 + (if e % 2 = 0 then 0 else 1)
  let n := m * 2 ^ sh
  let r := isqrt n (Nat.log2 n / 2 + 1) 0
  { m := r, e := (e - sh) / 2, more := decide (r * r ≠ n) }

/-- The square root (R214). -/
def fpSqrt (f : Fmt) (rd : Rnd) (a : Num) : Nat × BitVec 7 :=
  match nanOf f [a] with
  | some r => r
  | none =>
    match a with
    | .inf neg => if neg then (f.nan, fNV) else (f.infCode, 0)
    | .fin neg m e =>
      if m = 0 then (f.sign neg, 0)
      else if neg then (f.nan, fNV)
      else roundMag f rd false (sqrtMag m e)
    | .nan _ _ => (f.nan, 0)

/-- Compare two values that are no NaN: -1, 0, 1; zeros are equal (R215). -/
def numCmp (a b : Num) : Int :=
  let sgn (n : Bool) : Int := if n then -1 else 1
  match a, b with
  | .inf n1, .inf n2 => if n1 = n2 then 0 else sgn n1
  | .inf n1, _ => sgn n1
  | _, .inf n2 => - sgn n2
  | .fin n1 m1 e1, .fin n2 m2 e2 =>
    if m1 = 0 ∧ m2 = 0 then 0
    else if m1 = 0 then - sgn n2
    else if m2 = 0 then sgn n1
    else if n1 ≠ n2 then sgn n1
    else sgn n1 * Mag.cmp { m := m1, e := e1, more := false } { m := m2, e := e2, more := false }
  | _, _ => 0

/-- Whether a value is a NaN, and whether a signalling one. -/
def Num.isNan : Num → Bool
  | .nan _ _ => true
  | _ => false

/-- A signalling NaN. -/
def Num.isSig : Num → Bool
  | .nan s _ => s
  | _ => false

/-- The sign of a value. -/
def Num.sgn : Num → Bool
  | .nan _ n => n
  | .inf n => n
  | .fin n _ _ => n

/-- Minimum or maximum of two codes (R215): -0 is less than +0, one NaN gives the other operand. -/
def fpMinMax (f : Fmt) (wantMax : Bool) (x y : Nat) : Nat × BitVec 7 :=
  let a := f.decode x
  let b := f.decode y
  let fl := if a.isSig || b.isSig then fNV else 0
  if a.isNan && b.isNan then (f.nan, fl)
  else if a.isNan then (y, fl)
  else if b.isNan then (x, fl)
  else
    let c := numCmp a b
    let less := if c = 0 then (a.sgn && !b.sgn) else decide (c < 0)
    let more := if c = 0 then (b.sgn && !a.sgn) else decide (c > 0)
    (if wantMax then (if less then y else x) else (if more then y else x), fl)

/-- `feq` (kind 0), `flt` (1) and `fle` (2) (R215). -/
def fpCmp (f : Fmt) (kind : Nat) (x y : Nat) : Bool × BitVec 7 :=
  let a := f.decode x
  let b := f.decode y
  if a.isNan || b.isNan then
    (false, if kind = 0 then (if a.isSig || b.isSig then fNV else 0) else fNV)
  else
    let c := numCmp a b
    (if kind = 0 then decide (c = 0) else if kind = 1 then decide (c < 0) else decide (c ≤ 0), 0)

/-- The class mask (R216). -/
def fpClass (f : Fmt) (x : Nat) : Nat :=
  match f.decode x with
  | .nan s _ => if s then 2 ^ 8 else 2 ^ 9
  | .inf n => if n then 1 else 2 ^ 7
  | .fin n m _ =>
    if m = 0 then (if n then 2 ^ 3 else 2 ^ 4)
    else if m < 2 ^ f.fb then (if n then 2 ^ 2 else 2 ^ 5)
    else (if n then 2 ^ 1 else 2 ^ 6)

/-! ### Converts with integers (R107) -/

/-- A value rounded to an integer range `[lo, hi]`: out of range saturates and a NaN gives 0, both with NV (R107). -/
def fpToInt (rd : Rnd) (lo hi : Int) (v : Num) : Int × BitVec 7 :=
  match v with
  | .nan _ _ => (0, fNV)
  | .inf n => (if n then lo else hi, fNV)
  | .fin n m e =>
    let (q, inexact) := roundAt rd n { m := m, e := e, more := false } 0
    let r : Int := if n then -(q : Int) else q
    if r < lo then (lo, fNV) else if r > hi then (hi, fNV) else (r, if inexact then fNX else 0)

/-- An integer as a value. -/
def intNum (i : Int) : Num := .fin (decide (i < 0)) i.natAbs 0

/-- An integer rounded to a format (R107). -/
def intToFp (f : Fmt) (rd : Rnd) (i : Int) : Nat × BitVec 7 :=
  roundMag f rd (decide (i < 0)) { m := i.natAbs, e := 0, more := false }

/-- An integer saturated to a range, setting IS (R107). -/
def saturate (lo hi i : Int) : Int × BitVec 7 :=
  if i < lo then (lo, fIS) else if i > hi then (hi, fIS) else (i, 0)

/-- The range of an integer format code (R88). -/
def intRange (code : Nat) : Option (Int × Int) :=
  match code with
  | 10 => some (-2 ^ 7, 2 ^ 7 - 1)
  | 11 => some (-2 ^ 31, 2 ^ 31 - 1)
  | 12 => some (-2 ^ 63, 2 ^ 63 - 1)
  | 13 => some (0, 2 ^ 8 - 1)
  | 14 => some (0, 2 ^ 16 - 1)
  | 15 => some (0, 2 ^ 32 - 1)
  | 16 => some (0, 2 ^ 64 - 1)
  | _ => none

/-- The element bits of a format code; 0 where the code is reserved (R88). -/
def fmtBits (code : Nat) : Nat :=
  match code with
  | 0 => 64 | 1 => 64 | 2 => 32 | 3 => 16 | 4 => 16 | 5 => 8 | 6 => 8 | 7 => 4 | 8 => 8 | 9 => 6
  | 10 => 8 | 11 => 32 | 12 => 64 | 13 => 8 | 14 => 16 | 15 => 32 | 16 => 64 | _ => 0

/-- The integer that a code of an integer format holds. -/
def intDecode (code b : Nat) : Int :=
  if code = 10 ∨ code = 11 ∨ code = 12 then
    let w := fmtBits code
    if b < 2 ^ (w - 1) then b else (b : Int) - 2 ^ w
  else b

/-- The low `w` bits of an integer. -/
def intBits (w : Nat) (i : Int) : Nat := (i % 2 ^ w).toNat

/-- One element converted between any two format codes but RAW (R106, R107).  An integer goes to a wider one sign-extended
or zero-extended, and to a narrower one saturated; between a signed and an unsigned integer of one width, of which the
spec says neither, it saturates (DESIGN CHOICE, log 115). -/
def convertElem (sf df : Nat) (rd : Rnd) (b : Nat) : Nat × BitVec 7 :=
  match fpFmt sf, fpFmt df with
  | some a, some d => d.convert rd (a.decode b)
  | some a, none =>
    match intRange df with
    | some (lo, hi) => let (i, fl) := fpToInt rd lo hi (a.decode b); (intBits (fmtBits df) i, fl)
    | none => (b, 0)
  | none, some d => d.convert rd (intNum (intDecode sf b))
  | none, none =>
    match intRange df with
    | some (lo, hi) =>
      if fmtBits sf < fmtBits df then (intBits (fmtBits df) (intDecode sf b), 0)
      else let (i, fl) := saturate lo hi (intDecode sf b); (intBits (fmtBits df) i, fl)
    | none => (b, 0)

/-! ### Special functions, correctly rounded (R197, R240; log 8) -/

/-- ln 2 times 2^256. -/
def ln2Fix : Nat := 0xb17217f7d1cf79abc9e3b39803f2f6af40f343267298b62d8a0d175b8baafa2b

/-- π/2 times 2^400. -/
def halfPiFix : Nat :=
  0x1921fb54442d18469898cc51701b839a252049c1114cf98e804177d4c76273644a29410f31c6809bbdf2a33679a7486366056

/-- The sum of `y^k / k!`, from a term and its index, in units of 2^-240. -/
def expSeries (y : Nat) : Nat → Nat → Nat → Nat
  | 0, _, _ => 0
  | fuel + 1, k, term => term + expSeries y fuel (k + 1) (term * y / 2 ^ 240 / (k + 1))

/-- `2^f` for a fraction `f` in units of 2^-240, in the same units. -/
def exp2Fix (f : Nat) : Nat := expSeries (f * ln2Fix / 2 ^ 256) 60 0 (2 ^ 240)

/-- The exact value of `2^x` for a finite nonzero `x = ±m * 2^e`; at most a hair from 1 when `x` is tiny. -/
def exp2Mag (neg : Bool) (m : Nat) (e : Int) : Mag :=
  if (Nat.log2 m : Int) + e < -100 then
    if neg then { m := 2 ^ 200 - 1, e := -200, more := true } else { m := 2 ^ 200, e := -200, more := true }
  else if (Nat.log2 m : Int) + e > 20 then
    { m := 1, e := if neg then -5000 else 5000, more := false }
  else
    let y : Nat := if 0 ≤ e then m * 2 ^ e.toNat * 2 ^ 240 else m * 2 ^ 240 / 2 ^ (-e).toNat
    let x : Int := y
    let x := if neg then -x else x
    let n := x / 2 ^ 240
    let f := (x % 2 ^ 240).toNat
    if f = 0 then { m := 1, e := n, more := false }
    else { m := exp2Fix f / 2 ^ 40, e := n - 200, more := true }

/-- Twice the inverse hyperbolic tangent series, in units of 2^-240: `z2` is the square of the argument. -/
def atanhSeries (z2 : Nat) : Nat → Nat → Nat → Nat
  | 0, _, _ => 0
  | fuel + 1, k, p => 2 * p / (2 * k + 1) + atanhSeries z2 fuel (k + 1) (p * z2 / 2 ^ 240)

/-- The exact value of `log2 x` for a positive finite `x = m * 2^e`: its sign and magnitude. -/
def log2Mag (m : Nat) (e : Int) : Bool × Mag :=
  let l := Nat.log2 m
  let ex : Int := (l : Int) + e
  if m = 2 ^ l then (decide (ex < 0), { m := ex.natAbs, e := 0, more := false })
  else
    let one := 2 ^ l
    let z := (m - one) * 2 ^ 240 / (m + one)
    let lnm := atanhSeries (z * z / 2 ^ 240) 90 0 z
    let frac : Nat := lnm * 2 ^ 256 / ln2Fix
    let v : Int := ex * 2 ^ 240 + (frac : Int)
    (decide (v < 0), { m := v.natAbs / 2 ^ 40, e := -200, more := true })

/-- `exp2` of a value (R240). -/
def fpExp2 (f : Fmt) (rd : Rnd) (a : Num) : Nat × BitVec 7 :=
  match a with
  | .nan s _ => (f.nan, if s then fNV else 0)
  | .inf n => (if n then 0 else f.infCode, 0)
  | .fin n m e =>
    if m = 0 then roundMag f rd false { m := 1, e := 0, more := false }
    else roundMag f rd false (exp2Mag n m e)

/-- `log2` of a value (R240). -/
def fpLog2 (f : Fmt) (rd : Rnd) (a : Num) : Nat × BitVec 7 :=
  match a with
  | .nan s _ => (f.nan, if s then fNV else 0)
  | .inf n => if n then (f.nan, fNV) else (f.infCode, 0)
  | .fin n m e =>
    if m = 0 then (f.sign true + f.infCode, fDZ)
    else if n then (f.nan, fNV)
    else
      let (neg, x) := log2Mag m e
      roundMag f rd neg x

/-- `rcp` of a value (R240). -/
def fpRcp (f : Fmt) (rd : Rnd) (a : Num) : Nat × BitVec 7 :=
  match a with
  | .nan s _ => (f.nan, if s then fNV else 0)
  | .inf n => (f.sign n, 0)
  | .fin n m e =>
    if m = 0 then (f.sign n + f.infCode, fDZ) else roundMag f rd n (divMag 1 0 m e)

/-- `rsqrt` of a value (R240). -/
def fpRsqrt (f : Fmt) (rd : Rnd) (a : Num) : Nat × BitVec 7 :=
  match a with
  | .nan s _ => (f.nan, if s then fNV else 0)
  | .inf n => if n then (f.nan, fNV) else (0, 0)
  | .fin n m e =>
    if m = 0 then (f.sign true * (if n then 1 else 0) + f.infCode, fDZ)
    else if n then (f.nan, fNV)
    else
      -- 1/sqrt(m * 2^e) is the root of 2^(-e) / m
      let sh : Nat := 300 + (if e % 2 = 0 then 0 else 1)
      let q : Nat := 2 ^ sh / m
      let r := isqrt q (Nat.log2 q / 2 + 1) 0
      roundMag f rd false { m := r, e := (-e - sh) / 2, more := decide (r * r * m ≠ 2 ^ sh) }

/-- The series of the sine (from the term x) or cosine (from 1), with alternating signs, in units of 2^-240. -/
def trigSeries (x2 : Nat) : Nat → Nat → Nat → Int
  | 0, _, _ => 0
  | fuel + 1, k, term => (term : Int) - trigSeries x2 fuel (k + 2) (term * x2 / 2 ^ 240 / (k * (k + 1)))

/-- The sine or cosine of a finite nonzero value in radians: sign and magnitude (R197). -/
def trigMag (sin : Bool) (neg : Bool) (m : Nat) (e : Int) : Bool × Mag :=
  if (Nat.log2 m : Int) + e < -60 then
    if sin then (neg, { m := m * 2 ^ 200 - 1, e := e - 200, more := true })
    else (false, { m := 2 ^ 200 - 1, e := -200, more := true })
  else
    let x : Nat := if 0 ≤ e then m * 2 ^ e.toNat * 2 ^ 400 else m * 2 ^ 400 / 2 ^ (-e).toNat
    let k := x / halfPiFix
    let r := (x % halfPiFix) / 2 ^ 160
    let r2 := r * r / 2 ^ 240
    let k := if sin then k else k + 1
    let useCos := k % 2 == 1
    let v := if useCos then trigSeries r2 60 1 (2 ^ 240) else trigSeries r2 60 2 r
    let flip := k / 2 % 2 == 1
    let s := (if sin then neg else false)
    (if v < 0 then !(s != flip) else s != flip, { m := v.natAbs / 2 ^ 40, e := -200, more := true })

/-- `fsin.s2` and `fcos.s2` of one element, always by RNE (R197). -/
def fpTrig (sin : Bool) (b : Nat) : Nat × BitVec 7 :=
  match f32.decode b with
  | .nan s _ => (f32.nan, if s then fNV else 0)
  | .inf _ => (f32.nan, fNV)
  | .fin n m e =>
    if m = 0 then (if sin then b else 0x3F800000, 0)
    else
      let (neg, x) := trigMag sin n m e
      roundMag f32 { mode := 0, draw := 0 } neg x

/-! ### The generator (R108, R252) -/

/-- Rotate counts of the generator. -/
def mixShift : Nat → Nat
  | 0 => 8 | 1 => 12 | 2 => 20 | 3 => 4 | 4 => 16 | 5 => 24 | 6 => 12 | 7 => 28 | 8 => 8 | _ => 20

/-- Rounds of the generator from round `i`. -/
def mixRounds (key : Word) : Nat → Nat → BitVec 32 → BitVec 32 → Word
  | 0, _, a, b => b ++ a
  | fuel + 1, i, a, b =>
    let k : BitVec 32 := if i % 2 = 0 then key.extractLsb' 0 32 else key.extractLsb' 32 32
    let a := a + b + k + BitVec.ofNat 32 ((i + 1) * 0x9E3779B9)
    mixRounds key fuel (i + 1) a (b.rotateLeft (mixShift i) ^^^ a)

/-- The counter-based generator (R252). -/
def mix64 (key ctr : Word) : Word := mixRounds key 10 0 (ctr.extractLsb' 0 32) (ctr.extractLsb' 32 32)

/-- Bits `16*j + 15 : 16*j` of a generator result (R104). -/
def drawOf (w : Word) (j : Nat) : Nat := w.toNat / 2 ^ (16 * j) % 2 ^ 16

/-- The checker's LFSR step (R422). -/
def lfsrStep (s : BitVec 16) : BitVec 16 := if s.getLsbD 0 then (s >>> 1) ^^^ 0xB400 else s >>> 1

end Sys2Proof.Machine
end

