-- ==== Sys2Proof/Machine/Csr.lean ====
section
/-!
DEFINITION. The status registers (R185) and the geometry registers (R264), each read and written in one place.
-/

namespace Sys2Proof.Machine

/-- Fields of a word put together. -/
def packBits : List (Nat × Nat) → Nat
  | [] => 0
  | (v, lo) :: l => v * 2 ^ lo + packBits l

/-- A bit field of a word as a number. -/
def bits (w : Word) (lo len : Nat) : Nat := (w.extractLsb' lo len).toNat

/-- One bit as a number. -/
def bit (b : Bool) : Nat := if b then 1 else 0

/-- `selfid` (R35). -/
def State.selfid (s : State) (c : Nat) : Word :=
  let core := c / 4
  BitVec.ofNat 64 (packBits [(s.modId.toNat, 44), (s.memberId.toNat, 34), (dieOf core / 2, 32), (dieOf core, 29),
    (clusterOf core, 24), (c % 4, 16), (core % 32, 8), (core / 32, 0)])

/-- `step` (R36). -/
def Ctx.stepWord (x : Ctx) : Word :=
  BitVec.ofNat 64 (packBits [(x.recIdx.toNat, 40), (bit x.xch, 32), (x.ssn.toNat, 0)])

/-- `grant` (R68). -/
def Ctx.grantWord (x : Ctx) : Word :=
  BitVec.ofNat 64 (packBits [(bit x.nofit, 63), (x.ocol, 32), (x.orow, 24), (x.gstate.code, 20), (x.gsq.toNat, 16),
    (x.lanesHeld, 0)])

/-- `poolsize` (R68). -/
def Cluster.poolsize (k : Cluster) : Nat := k.spares * 2 ^ 10 + (512 - k.missing.length)

/-- `partition` (R327). -/
def State.partWord (s : State) (c : Nat) : Word :=
  let p := s.partOf (c / 4)
  match s.partDef p with
  | some d => BitVec.ofNat 64 (packBits [(d.pgrant, 32), (d.fcap, 16), (bit d.boost, 4), (p, 0)])
  | none => 0

/-- `upcall` (R134). -/
def Ctx.upcallWord (x : Ctx) : Word := (x.upcallHandler &&& ~~~3) ||| (if x.upcallEn then 1 else 0)

/-- `ststatus` and `ftstatus` (R370). -/
def TrapRegs.status (r : TrapRegs) : Word :=
  BitVec.ofNat 64 (r.ldepth.toNat * 256 + r.plev.toNat)

/-- A trap register of one level by its place in the map (R370). -/
def TrapRegs.get (r : TrapRegs) (n : Nat) : Word :=
  match n with
  | 0 => r.vec
  | 1 => r.cause.setWidth 64
  | 2 => r.epc
  | 3 => r.val
  | 4 => r.status
  | _ => r.scratch

/-- A trap register written; a depth of 7 or a level of 3 leaves its field unchanged (R370). -/
def TrapRegs.put (r : TrapRegs) (n : Nat) (v : Word) : TrapRegs :=
  match n with
  | 0 => { r with vec := v &&& ~~~3 }
  | 1 => { r with cause := v.setWidth 8 }
  | 2 => { r with epc := v }
  | 3 => { r with val := v }
  | 4 => { r with ldepth := if bits v 8 3 = 7 then r.ldepth else v.extractLsb' 8 3
                  plev := if bits v 0 2 = 3 then r.plev else v.extractLsb' 0 2 }
  | _ => { r with scratch := v }

/-- The status registers of R185 and R370, in the order of their indices. -/
def csrKnown (i : Nat) : Bool :=
  (1 ≤ i && i ≤ 4) || (0x10 ≤ i && i ≤ 0x17) || (0x20 ≤ i && i ≤ 0x23) || (0x30 ≤ i && i ≤ 0x33) || i == 0x40 ||
    i == 0x41 || i == 0x50 || i == 0x51 || (0x60 ≤ i && i ≤ 0x62) || (0x100 ≤ i && i ≤ 0x102) ||
    (0x110 ≤ i && i ≤ 0x115) || i == 0x120 || (0x210 ≤ i && i ≤ 0x215)

/-- The cause of an access to a status register at a level, if it may not be made (R185). -/
def csrFault (l : Level) (i : Nat) : Option (BitVec 8) :=
  if !csrKnown i then some 0x01
  else if l = .app ∧ i ≥ 0x100 then some 0x02
  else if l = .sys ∧ i ≥ 0x200 then some 0x02
  else none

/-- A status register's value (R185). -/
def State.csr (s : State) (c i : Nat) : Word :=
  let x := s.ctx c
  match i with
  | 0x001 => x.fflags.setWidth 64
  | 0x002 => BitVec.ofNat 64 (x.wrm.toNat * 16 + x.crm.toNat)
  | 0x003 => x.srnkey
  | 0x004 => x.bfmt
  | 0x010 => BitVec.ofNat 64 x.vl
  | 0x011 => x.vlreq
  | 0x012 => x.grantWord
  | 0x013 => BitVec.ofNat 64 x.alc
  | 0x014 => BitVec.ofNat 64 (s.cluster (clusterOfCtx c)).poolsize
  | 0x015 => x.vstart
  | 0x016 => x.vbase
  | 0x017 => x.vsave
  | 0x020 => s.selfid c
  | 0x021 => x.stepWord
  | 0x022 => x.rect
  | 0x023 => s.partWord c
  | 0x030 => x.upcallWord
  | 0x031 => x.upepc
  | 0x032 => x.upaddr
  | 0x033 => x.upnote
  | 0x040 => x.fnbase
  | 0x041 => x.codebound
  | 0x050 => x.chgfill
  | 0x051 => x.chgwb
  | 0x060 => s.mpn.setWidth 64
  | 0x061 => BitVec.ofNat 64 s.capg
  | 0x062 => 0xC000000000
  | 0x100 => x.ptroot
  | 0x102 => x.vspace.setWidth 64
  | 0x110 => x.st.get 0
  | 0x111 => x.st.get 1
  | 0x112 => x.st.get 2
  | 0x113 => x.st.get 3
  | 0x114 => x.st.get 4
  | 0x115 => x.st.get 5
  | 0x120 => x.btmo.setWidth 64
  | 0x210 => x.ft.get 0
  | 0x211 => x.ft.get 1
  | 0x212 => x.ft.get 2
  | 0x213 => x.ft.get 3
  | 0x214 => x.ft.get 4
  | 0x215 => x.ft.get 5
  | _ => 0

/-- A format field that keeps its value where the new code is not accepted (R129, R264). -/
def fmtField (old new : Word) (lo : Nat) (ok : Nat → Bool) : Nat :=
  (if ok (bits new lo 5) then bits new lo 5 else bits old lo 5) * 2 ^ lo

/-- The codes a bank format register accepts (R129). -/
def bankFmtOk (f : Nat) : Bool := f ≤ 16 && f != 5 && f != 6

/-- A write of a status register by software: read-only fields keep their value (R185). -/
def Ctx.csrWrite (x : Ctx) (sys : Bool) (i : Nat) (v : Word) : Ctx :=
  match i with
  | 0x001 => { x with fflags := v.setWidth 7 }
  | 0x002 => { x with crm := if bits v 0 3 ≤ 3 then v.extractLsb' 0 3 else x.crm
                      wrm := if bits v 4 3 ≤ 4 then v.extractLsb' 4 3 else x.wrm }
  | 0x003 => { x with srnkey := v }
  | 0x004 => { x with bfmt := BitVec.ofNat 64 (fmtField x.bfmt v 0 bankFmtOk + fmtField x.bfmt v 8 bankFmtOk +
                        fmtField x.bfmt v 16 bankFmtOk + fmtField x.bfmt v 24 bankFmtOk) }
  | 0x015 => { x with vstart := v &&& 0x1FFFFFFFFFF }
  | 0x016 => { x with vbase := v }
  | 0x017 => { x with vsave := v &&& ~~~0xFF }
  | 0x021 => { x with xch := x.xch || v.getLsbD 32 }
  | 0x022 => if sys then { x with rect := v &&& 0xFFFFFFFF } else x
  | 0x030 => { x with upcallHandler := v &&& ~~~3, upcallEn := v.getLsbD 0 }
  | 0x031 => { x with upepc := v }
  | 0x032 => { x with upaddr := v }
  | 0x033 => { x with upnote := v &&& ~~~7 }
  | 0x040 => if sys then { x with fnbase := v &&& ~~~7 } else x
  | 0x041 => if sys then { x with codebound := v &&& ~~~3 } else x
  | 0x050 => if sys then { x with chgfill := v } else x
  | 0x051 => if sys then { x with chgwb := v } else x
  | 0x100 => if sys then { x with ptroot := v &&& 0xFFFFFFFFFF000 } else x
  | 0x102 => if sys then { x with vspace := v.setWidth 4 } else x
  | 0x110 => if sys then { x with st := x.st.put 0 v } else x
  | 0x111 => if sys then { x with st := x.st.put 1 v } else x
  | 0x112 => if sys then { x with st := x.st.put 2 v } else x
  | 0x113 => if sys then { x with st := x.st.put 3 v } else x
  | 0x114 => if sys then { x with st := x.st.put 4 v } else x
  | 0x115 => if sys then { x with st := x.st.put 5 v } else x
  | 0x120 => if sys then { x with btmo := v.setWidth 32 } else x
  | 0x210 => if sys then { x with ft := x.ft.put 0 v } else x
  | 0x211 => if sys then { x with ft := x.ft.put 1 v } else x
  | 0x212 => if sys then { x with ft := x.ft.put 2 v } else x
  | 0x213 => if sys then { x with ft := x.ft.put 3 v } else x
  | 0x214 => if sys then { x with ft := x.ft.put 4 v } else x
  | 0x215 => if sys then { x with ft := x.ft.put 5 v } else x
  | _ => x

/-- A write to `tlbinv` (R133): entries of the named page, or all of them, on the core or the cluster. -/
def State.tlbInvalidate (s : State) (core : Nat) (v : Word) : State :=
  let cores := if v.getLsbD 1 then coresOf (clusterOf core) else [core]
  { s with tlb := s.tlb.filter (fun e =>
      !(cores.contains e.core && (v.getLsbD 2 || e.page == v.toNat / 2 ^ e.bits))) }

/-! ### Geometry registers (R264, R265, R274, R279) -/

/-- A geometry register's value: engine 1, 3 or 4. -/
def Ctx.geo (x : Ctx) (eng n : Nat) : Word :=
  if eng = 1 then look 0 x.sg n else if eng = 3 then look 0 x.gg n else look 0 x.lg n

/-- The codes `sg6` accepts (R265). -/
def streamFmtOk (f : Nat) : Bool := f ≤ 16 && f != 9 && f != 7

/-- The codes `lg0` accepts (R279). -/
def loomFmtOk (f : Nat) : Bool := f == 4 || f == 3 || f == 8 || f == 9 || f == 7 || f == 10

/-- The codes `lg1` accepts (R279). -/
def drainFmtOk (f : Nat) : Bool := f == 2 || f == 3 || f == 4 || f == 8 || f == 11 || f == 10

/-- What a geometry register holds after a write (R264). -/
def geoValue (old v : Word) (eng n : Nat) : Word :=
  match eng, n with
  | 1, 6 => BitVec.ofNat 64 (fmtField old v 0 streamFmtOk + fmtField old v 8 streamFmtOk + fmtField old v 16 streamFmtOk)
  | 1, 7 => v &&& 0xFFFFFFFF
  | 3, 0 => v &&& 0x373F010001
  | 4, 0 => (v &&& 0xFFFF0100) ||| BitVec.ofNat 64 (fmtField old v 0 loomFmtOk)
  | 4, 1 => (v &&& 0x100) ||| BitVec.ofNat 64 (fmtField old v 0 drainFmtOk)
  | 4, 15 => v &&& 0x7F
  | _, _ => v

/-- A geometry register written; a reserved one keeps nothing (R264). -/
def Ctx.geoWrite (x : Ctx) (eng n : Nat) (v : Word) : Ctx :=
  let w := geoValue (x.geo eng n) v eng n
  if eng = 1 then (if n ≤ 7 then { x with sg := put x.sg n w } else x)
  else if eng = 3 then { x with gg := put x.gg n w }
  else if n ≤ 2 ∨ n = 15 then { x with lg := put x.lg n w } else x

end Sys2Proof.Machine
end

