-- ==== Sys2Proof/Machine/Images.lean ====
section
/-!
DEFINITION. The records of the context save format (R378, R375, R119), one doubleword at a time: what a window read
returns, what a window write changes (R121), and how a saved record becomes a context or a micro-thread again.
-/

namespace Sys2Proof.Machine

/-! ### The control-state record -/

/-- The status registers of the record, in its order (R378). -/
def imageCsrs : List Nat :=
  [0x001, 0x002, 0x003, 0x004, 0x010, 0x011, 0x012, 0x015, 0x016, 0x017, 0x021, 0x022, 0x030, 0x031, 0x032, 0x033,
    0x040, 0x041, 0x050, 0x051, 0x100, 0x102]

/-- The side of the square whose cells the crew's records carry, 0 for records of 256 bytes (R69). -/
def Ctx.recSide (x : Ctx) : Nat :=
  match x.saved with
  | some n => n
  | none => sideOf x.gsq

/-- The code of a side in `vlreq` and `grant` (R68). -/
def sqOf (side : Nat) : Nat := if side = 4 then 1 else if side = 8 then 2 else if side = 16 then 3 else 0

/-- The grant doubleword of the record (R68, R378): while the crew's contexts are in its lane save area its sq names the
shape that its records were written in, which a restore needs to know (R69, R84; log 99). -/
def Ctx.grantField (x : Ctx) : Word :=
  if x.saved.isSome ∨ x.slots.isEmpty then (x.grantWord &&& ~~~0x30000) ||| BitVec.ofNat 64 (sqOf x.recSide * 2 ^ 16)
  else x.grantWord

/-- The record header (R378). -/
def Ctx.hdr (x : Ctx) : Word :=
  BitVec.ofNat 64 (packBits [(x.lbanks.toNat, 43), (x.loomq.length, 39), (bit (x.recSide != 0), 38),
    (x.claimed.length, 28), (x.jobs.length, 21), (x.seq.length, 16), (1, 0)])

/-- `cstat` (R378). -/
def Ctx.cstat (x : Ctx) : Word :=
  BitVec.ofNat 64 (packBits [(x.loops.length, 24), (x.votes.toNat, 16), (bit x.sense, 8), (bit x.abortSeen, 0)])

/-- One of the three words of a loop entry. -/
def LoopEnt.word (e : LoopEnt) (k : Nat) : Word := if k = 0 then e.start else if k = 1 then e.stop else e.count

/-- One word of a loop entry replaced. -/
def LoopEnt.setWord (e : LoopEnt) (k : Nat) (v : Word) : LoopEnt :=
  if k = 0 then { e with start := v } else if k = 1 then { e with stop := v } else { e with count := v }

/-- An empty loop entry. -/
def LoopEnt.zero : LoopEnt := { start := 0, stop := 0, count := 0 }

/-- The five words of a Loom queue entry (R378).  An entry holds no partial sums, so `lmma.r`, which has not changed its
accumulators before it ends, is saved at its first chunk (R111; log 14). -/
def LoomJob.word (j : LoomJob) (k : Nat) : Word :=
  match k with
  | 0 => j.num
  | 1 => j.kind.setWidth 64
  | 2 => j.ra
  | 3 => j.rb
  | _ => BitVec.ofNat 64 (packBits [(if j.kind = 6 then 0 else j.chunk, 32), (j.lg0.toNat, 0)])

/-- A Loom queue entry from its words, with the side of the square it was submitted on. -/
def LoomJob.ofWords (side : Nat) (f : Nat → Word) : LoomJob :=
  { side := side, num := f 0, kind := (f 1).setWidth 3, ra := f 2, rb := f 3, lg0 := (f 4).setWidth 32, chunk := bits (f 4) 32 32,
    started := false, tokens := 0, parts := [] }

/-- The bits of a set of numbers within 64 of a base. -/
def mask64 (l : List Nat) (lo : Nat) : Word :=
  l.foldl (fun w n => if lo ≤ n ∧ n < lo + 64 then w ||| (1 <<< (n - lo)) else w) 0

/-- Doubleword `n` of a context's control-state image (R119, R378). -/
def State.ctlRead (s : State) (c n : Nat) : Word :=
  let x := s.ctx c
  if n = 0 then x.hdr
  else if n = 1 then x.pc
  else if n = 2 then x.cstat
  else if n = 3 then x.lastJob
  else if n < 0x20 then 0
  else if n < 0x40 then x.rx (BitVec.ofNat 5 n)
  else if n = 0x46 then x.grantField
  else if n < 0x56 then s.csr c (nth 0 imageCsrs (n - 0x40))
  else if n < 0x5C then look 0 x.cs (n - 0x56)
  else if n = 0x5C then x.btmo.setWidth 64
  else if n < 0x60 then 0
  else if n < 0x72 then (nth .zero x.loops.reverse ((n - 0x60) / 3)).word ((n - 0x60) % 3)
  else if n < 0x80 then 0
  else if n < 0x90 then x.geo 1 (n - 0x80)
  else if n < 0xA0 then x.geo 3 (n - 0x90)
  else if n < 0xB0 then x.geo 4 (n - 0xA0)
  else if n < 0xB8 then mask64 x.claimed (64 * (n - 0xB0))
  else if n < 0xC0 then 0
  else if n < 0xE8 then
    match x.loomq[(n - 0xC0) / 5]? with
    | some j => j.word ((n - 0xC0) % 5)
    | none => 0
  else 0

/-- The loop stack cut or filled up to a depth of at most 6 (R378). -/
def loopDepth (l : List LoopEnt) (d : Nat) : List LoopEnt :=
  ((l.reverse ++ List.replicate 6 LoopEnt.zero).take (min d 6)).reverse

/-- Doubleword `n` of a control-state image written: every field but those the device alone changes, as a Sys-level
`csrw` would write it (R121); an abort-seen flag that is set so has been set since placement (R292). -/
def Ctx.ctlWrite (x : Ctx) (n : Nat) (v : Word) : Ctx :=
  if n = 1 then { x with pc := v }
  else if n = 2 then
    { x with abortSeen := v.getLsbD 0, abortEver := x.abortEver || v.getLsbD 0, sense := v.getLsbD 8, votes := v.extractLsb' 16 8,
             loops := loopDepth x.loops (bits v 24 4) }
  else if n < 0x20 then x
  else if n < 0x40 then x.wx (BitVec.ofNat 5 n) v
  else if n < 0x56 then x.csrWrite true (nth 0 imageCsrs (n - 0x40)) v
  else if n < 0x5C then { x with cs := put x.cs (n - 0x56) v }
  else if n = 0x5C then { x with btmo := v.setWidth 32 }
  else if n < 0x60 then x
  else if n < 0x72 then
    let l := x.loops.reverse
    { x with loops := (setNth l ((n - 0x60) / 3)
        ((nth .zero l ((n - 0x60) / 3)).setWord ((n - 0x60) % 3) v)).reverse }
  else if n < 0x80 then x
  else if n < 0x90 then x.geoWrite 1 (n - 0x80) v
  else if n < 0xA0 then x.geoWrite 3 (n - 0x90) v
  else if n < 0xB0 then x.geoWrite 4 (n - 0xA0) v
  else x

/-! ### Sequencer entries and job records -/

/-- The twelve doublewords of a saved sequencer entry (R378). -/
def SeqEntry.words (e : SeqEntry) : List Word :=
  [e.addr, BitVec.ofNat 64 e.count] ++ (List.range 6).map (look 0 e.cap.cs) ++
    [e.cap.vbase, e.cap.srnkey, e.cap.bfmt, e.cap.wrm.setWidth 64]

/-- A captured set of registers (R44, R102, R129, R256). -/
def Captured.of (cs : Table Word) (vbase srnkey bfmt : Word) (wrm : BitVec 3) : Captured :=
  { cs := cs, vbase := vbase, srnkey := srnkey, bfmt := bfmt, wrm := wrm }

/-- What an entry taken now captures. -/
def Ctx.capture (x : Ctx) : Captured := .of x.cs x.vbase x.srnkey x.bfmt x.wrm

/-- A sequencer entry from its doublewords. -/
def SeqEntry.ofWords (id : Nat) (f : Nat → Word) : SeqEntry :=
  { id := id, addr := f 0, count := (f 1).toNat, held := [],
    cap := .of [(0, f 2), (1, f 3), (2, f 4), (3, f 5), (4, f 6), (5, f 7)] (f 8) (f 9) (f 10) ((f 11).setWidth 3),
    picks := [] }

/-- The twenty-four doublewords of a job record (R378). -/
def Job.words (j : Job) : List Word :=
  ((j.card ++ (if j.glean then List.replicate (16 - j.card.length) 0 ++ [BitVec.ofNat 64 j.count] else [])) ++
      List.replicate 20 0).take 20 ++
    [j.num, j.done, BitVec.ofNat 64 (packBits [(j.flags.toNat, 8), (bit j.glean, 0)]),
      (if j.glean then BitVec.ofNat 64 j.row else BitVec.ofNat 64 (packBits [(j.row, 32), (j.byte, 0)]))]

/-- A job from its record; its footprints are translated again by the caller (R383). -/
def Job.ofWords (lg0 : BitVec 32) (f : Nat → Word) : Job :=
  let glean := (f 22).getLsbD 0
  { num := f 20, glean := glean, card := (List.range (if glean then 16 else 20)).map f,
    count := if glean then (f 16).toNat else 0, done := f 21, reads := [], writes := [],
    flags := (f 22).extractLsb' 8 7, row := if glean then (f 23).toNat else bits (f 23) 32 32,
    byte := if glean then 0 else bits (f 23) 0 32, started := false, level := .app, lg0 := lg0, packets := 0, pages := none, fail := none, got := [], left := 0, marked := false }

/-! ### Micro-thread records -/

/-- The position of an entry among the saved ones, 31 for none (R375). -/
def seqPos (l : List SeqEntry) (id : Nat) : Nat :=
  let n := l.findIdx (fun e => e.id == id)
  if n < l.length then min n 31 else 31

/-- The seq and rep fields of a micro-thread's status (R375). -/
def Ctx.seqRep (x : Ctx) (m : Mt) : Nat × Nat :=
  if m.state = .running then (if m.bare then 31 else seqPos x.seq m.ent, m.left)
  else if m.left > 0 then (seqPos x.seq m.ent, m.left - 1)
  else
    match x.seq.find? (fun e => e.id > m.ent) with
    | some e => (seqPos x.seq e.id, e.count - 1)
    | none => (31, 0)

/-- The status doubleword (R375). -/
def Ctx.mtStatus (x : Ctx) (m : Mt) : Word :=
  let p := x.seqRep m
  BitVec.ofNat 64 (packBits [(p.2, 32), (p.1, 27), (m.linkq.length, 24), (m.cause.toNat, 16), (m.flags.toNat, 8),
    (bit m.chain, 2), (m.state.code, 0)])

/-- A micro-thread state by its code (R375). -/
def MState.ofCode (n : Nat) : MState :=
  if n = 0 then .idle else if n = 1 then .running else if n = 2 then .stopped else .faulted

/-- A status doubleword written by Sys: every field but the link-in count (R375). -/
def Ctx.putStatus (x : Ctx) (m : Mt) (v : Word) : Mt :=
  let st := MState.ofCode (bits v 0 2)
  let pos := bits v 27 5
  let e := if pos = 31 then none else x.seq[pos]?
  let ent := match e with
    | some e => e.id
    | none => x.seqNext - 1
  let left := if st = .running then bits v 32 32 else if e.isSome then bits v 32 32 + 1 else 0
  { m with state := st, chain := v.getLsbD 2, bare := decide (st = .running) && e.isNone, cause := v.extractLsb' 16 8, flags := v.extractLsb' 8 7, ent := ent,
           left := left, blk := none }

/-- A word of two accumulator elements (R119). -/
def accWord (t : Table (BitVec 32)) (n : Nat) : Word :=
  (look 0 t (2 * n + 1)).append (look 0 t (2 * n)) |>.setWidth 64

/-- Two accumulator elements written. -/
def accPut (t : Table (BitVec 32)) (n : Nat) (v : Word) : Table (BitVec 32) :=
  put (put t (2 * n) (v.extractLsb' 0 32)) (2 * n + 1) (v.extractLsb' 32 32)

/-- The block address of a micro-thread's record: of the block in progress, or one that faulted, and else of the next block to
begin (R378, R388). -/
def Ctx.mtBlock (x : Ctx) (m : Mt) : Word :=
  if m.state = .running ∨ m.state = .faulted then m.block
  else ((x.seq.find? (fun e => if m.left > 0 then e.id == m.ent else e.id > m.ent)).map (·.addr)).getD m.block

/-- Doubleword `n` of a micro-thread image (R119, R378); a register whose dirty bit is 0 reads zero (R379). -/
def Ctx.mtRead (x : Ctx) (m : Mt) (n : Nat) : Word :=
  if n < 23 then (if m.dirty.getLsbD n then look 0 m.w (n + 1) else 0)
  else if n = 23 then m.p.extractLsb' 0 64
  else if n = 24 then (m.dirty.setWidth 32 ++ m.p.extractLsb' 64 32 : BitVec 64)
  else if n < 29 then nth 0 m.linkq (n - 25)
  else if n = 29 then x.mtBlock m
  else if n = 30 then x.mtStatus m
  else if n = 31 then m.faultAddr
  else if n < 160 then accWord m.acc0 (n - 32)
  else accWord m.acc1 (n - 160)

/-- Registers whose dirty bit is 0 hold zero (R379). -/
def Mt.clean (m : Mt) : Mt := { m with w := m.w.filter (fun e => m.dirty.getLsbD (e.1 - 1)) }

/-- Doubleword `n` of a micro-thread image written at a level (R121): a register write sets its dirty bit, the status
is RW at Sys only (R375). -/
def Ctx.mtWrite (x : Ctx) (m : Mt) (l : Level) (n : Nat) (v : Word) : Mt :=
  if n < 23 then { m with w := put m.w (n + 1) v, dirty := m.dirty ||| (1 <<< n) }
  else if n = 23 then { m with p := m.p.extractLsb' 64 32 ++ v }
  else if n = 24 then
    Mt.clean { m with p := v.extractLsb' 0 32 ++ m.p.extractLsb' 0 64, dirty := v.extractLsb' 32 23 }
  else if n < 29 then { m with linkq := setNth m.linkq (n - 25) v }
  else if n = 29 then { m with block := v }
  else if n = 30 then (if l = .app then m else x.putStatus m v)
  else if n = 31 then { m with faultAddr := v }
  else if n < 160 then { m with acc0 := accPut m.acc0 (n - 32) v }
  else { m with acc1 := accPut m.acc1 (n - 160) v }

/-- The doublewords of a record as a save writes them, with those it skips left out (R379): 32 of them, or 288. -/
def Ctx.recordWords (x : Ctx) (m : Mt) (acc : Bool) : List (Nat × Word) :=
  ((List.range (if acc then 288 else 32)).filter (fun n => n ≥ 23 || m.dirty.getLsbD n)).map
    (fun n => (n, x.mtRead m n))

/-! ### The spill area of a lane (R79, R80) -/

/-- The key of a record of a lane's spill area: scratchpad bytes 0xF000-0xFFFF hold sixteen (R79). -/
def spillKey (cl lane r : Nat) : Nat := scratchKey cl lane + 0xF000 + 256 * r

/-- The record of a context that is not resident, written where it lies with right checks (R79, R309). -/
def State.writeSpill (s : State) (c i : Nat) : State :=
  match (s.mt c i).spillRec with
  | none => s
  | some (lane, r) =>
    ((s.ctx c).recordWords (s.mt c i) false).foldl
      (fun s e => putDw s (spillKey (clusterOfCtx c) lane r + 8 * e.1) e.2) s

/-- A micro-thread replaced from outside its blocks, in its record too where it is not resident (R80, R121). -/
def State.putMt (s : State) (c i : Nat) (m : Mt) : State := (s.setMt c i m).writeSpill c i

/-- The lowest record of a lane's spill area that holds no context of a crew.  A regrant at floor 2 (R74) can leave more than
sixteen contexts to one lane's spill area; the spec does not say where they lie, and here those beyond the sixteenth name
record 15 with it (DESIGN CHOICE, log 44). -/
def State.freeSpill (s : State) (c lane : Nat) : Nat :=
  ((List.range 16).find? (fun r =>
    !((s.ctx c).locals.any (fun i => (s.mt c i).spillRec == some (lane, r))))).getD 15

/-- A context that is not resident has its record in the spill area of its lane; a resident one has none (R79).  A record that
lies on another lane is carried from there with its checks (R309, R311). -/
def State.syncSpill (s : State) (c : Nat) : State :=
  (s.ctx c).locals.foldl (fun s i =>
    let m := s.mt c i
    let lane := s.laneOf c i
    if m.res = .resident ∨ m.res = .spilling then
      if m.spillRec.isNone then s else s.setMt c i { m with spillRec := none }
    else
      match m.spillRec with
      | some (l, k) =>
        if l = lane then s
        else
          let t := s.setMt c i { m with spillRec := none }
          let n := t.freeSpill c lane
          carry (t.setMt c i { m with spillRec := some (lane, n) }) (spillKey (clusterOfCtx c) l k) 256
            (spillKey (clusterOfCtx c) lane n)
      | none => (s.setMt c i { m with spillRec := some (lane, s.freeSpill c lane) }).writeSpill c i) s

/-- A doubleword of a context's record in the spill area has a wrong check, which a save or a restore finds (R310, R404). -/
def State.spillBad (s : State) (c i : Nat) : Bool :=
  match (s.mt c i).spillRec with
  | none => false
  | some (lane, r) =>
    (((s.ctx c).recordWords (s.mt c i) false).map (fun e => spillKey (clusterOfCtx c) lane r + 8 * e.1)).any
      (checkFails s)

/-- A micro-thread restored from its record (R70, R84, R379); `acc` keeps the accumulators. -/
def Ctx.mtOfRecord (x : Ctx) (acc : Bool) (f : Nat → Word) : Mt :=
  let base : Mt := { Mt.fresh with dirty := (f 24).extractLsb' 32 23, p := (f 24).extractLsb' 0 32 ++ f 23,
                                   block := f 29, faultAddr := f 31 }
  let regs := (List.range 23).foldl (fun w n => if base.dirty.getLsbD n then put w (n + 1) (f n) else w) []
  let m := x.putStatus { base with w := regs } (f 30)
  let m := { m with linkq := (List.range (min (bits (f 30) 24 3) 4)).map (fun k => f (25 + k)) }
  if acc then
    { m with acc0 := (List.range 128).foldl (fun t n => accPut t n (f (32 + n))) []
             acc1 := (List.range 128).foldl (fun t n => accPut t n (f (160 + n))) [] }
  else m

/-! ### A context from its image (R383) -/

/-- A context restored from its image: sequencer entries and job records follow the 512 doublewords of the record.
Its grant is REVOKED with the saved request, its ids are given out anew, and `rect` is the new rectangle.  The side of
its records is the one that the acc bit and the grant doubleword name (R69; log 99).  A square request of it counts as
waiting since tick 0 (DESIGN CHOICE, log 100). -/
def Ctx.ofImage (x : Ctx) (f : Nat → Word) (rect : Word) : Ctx :=
  let h := f 0
  let ns := bits h 16 5
  let nj := bits h 21 7
  let y := (List.range 0xB0).foldl (fun (y : Ctx) n =>
    if n = 0 ∨ n = 3 ∨ n = 0x54 ∨ n = 0x55 then y else y.ctlWrite n (f n)) { Ctx.reset with st := x.st, ft := x.ft }
  let lanes := f 0x46
  let side := if h.getLsbD 38 then sideOf (lanes.extractLsb' 16 2) else 0
  let looms := if side = 0 then sideOf ((f 0x45).extractLsb' 16 2) else side
  { y with
    lastJob := f 3
    vl := bits (f 0x44) 0 10
    vlreq := f 0x45 &&& 0x303FF
    gstate := if bits lanes 20 3 = 0 then .idle else .revoked
    nofit := lanes.getLsbD 63
    recIdx := (f 0x4A).extractLsb' 40 8
    xch := (f 0x4A).getLsbD 32
    ssn := (f 0x4A).setWidth 32
    rect := rect
    abortEver := (f 2).getLsbD 0
    claimed := (List.range 512).filter (fun n => (f (0xB0 + n / 64)).getLsbD (n % 64))
    loomq := (List.range (min (bits h 39 4) 8)).map (fun k => LoomJob.ofWords looms (fun n => f (0xC0 + 5 * k + n)))
    seq := (List.range ns).map (fun k => SeqEntry.ofWords (k + 1) (fun n => f (512 + 12 * k + n)))
    seqNext := ns + 1
    jobs := (List.range nj).map (fun k =>
      Job.ofWords ((f 0xA0).setWidth 32) (fun n => f (512 + 12 * ns + 24 * k + n)))
    lbanks := h.extractLsb' 43 8
    saved := some side }

/-- The bytes of a context's image: record, sequencer entries, jobs, claimed slots, local-memory banks (R378). -/
def Ctx.imageSize (x : Ctx) : Nat :=
  4096 + 96 * x.seq.length + 192 * x.jobs.length + 24832 * x.claimed.length +
    32768 * ((List.range 8).filter (fun b => x.lbanks.getLsbD b)).length

/-- The doublewords of an image before its slots and banks. -/
def State.imageWords (s : State) (c : Nat) : List Word :=
  (List.range 512).map (s.ctlRead c) ++ (s.ctx c).seq.flatMap SeqEntry.words ++ (s.ctx c).jobs.flatMap Job.words

end Sys2Proof.Machine
end

