-- ==== Sys2Proof/Machine/Hub.lean ====
section
/-!
DEFINITION. The hub's range (R325), mailboxes (R326), the sending side of an Imtia port (R337, R430, R431), and the
hub's own writes of memory at physical addresses.
-/

namespace Sys2Proof.Machine

/-- Doubleword `n` of a launch record (R296). -/
def LRec.word (r : LRec) (n : Nat) : Word :=
  match n with
  | 0 => r.ctl
  | 1 => r.rect
  | 2 => r.entry
  | 3 => r.codebound
  | 4 => r.fnbase
  | 5 => r.ptroot
  | 6 => r.arg
  | 7 => r.lanes
  | 8 => r.done
  | 9 => r.power
  | 10 => r.last
  | _ => 0

/-- A launch record's control word with a field replaced (R296). -/
def LRec.setFld (r : LRec) (lo len v : Nat) : LRec :=
  { r with ctl := (r.ctl &&& ~~~(BitVec.ofNat 64 ((2 ^ len - 1) * 2 ^ lo))) ||| BitVec.ofNat 64 (v % 2 ^ len * 2 ^ lo) }

/-- A launch record in another state. -/
def LRec.setState (r : LRec) (st : Nat) : LRec := r.setFld 0 2 st

/-- A doubleword of the Scrivener ring (R439): Sys of a partition reads its own and the module-wide records, and of
another record only the sequence number. -/
def State.scrivRead (s : State) (part : Nat) (fw : Bool) (k j : Nat) : Word :=
  match s.scriv.find? (fun r => r.seq % 8192 == k) with
  | none => 0
  | some r =>
    if j = 0 then BitVec.ofNat 64 r.seq
    else
      let p := bits (nth 0 r.words 1) 16 8
      if fw || p == part || p == 0xFF then nth 0 r.words (j - 1) else 0

/-- A byte of the time-slot tables (R140): bit 7 reads as zero, slots 0 and 32 stay with refresh and slots 16 and 48 with
the Fuller and the remap engine. -/
def State.slotByte (s : State) (k : Nat) : Byte :=
  if k % 16 = 0 then Config.slotEntry (k % 64)
  else look (look (Config.slotEntry (k % 64)) s.img.slots k) s.slotTab k &&& 0x7F

/-- A doubleword of the hub range, none where the layout lists nothing (R325). -/
def State.hubRead (s : State) (part : Nat) (fw : Bool) (off : Nat) : Option Word :=
  if off < 0x10000 then some ((s.lrec (off / 256)).word (off % 256 / 8))
  else if off < 0x21000 then
    let o := off % 0x1000
    if o < 0x20 then some (nth 0 (s.box ((off - 0x10000) / 0x1000)).cmd (o / 8))
    else if o = 0x20 then some 0 else none
  else if off < 0x100000 then none
  else if off < 0x180000 then some (s.scrivRead part fw ((off - 0x100000) / 64) (off % 64 / 8))
  else if off < 0x200000 then none
  else if off < 0x200800 then
    let f := fun n => if n < 240 then (if off < 0x200400 then slotEntry s n else slotEntryPrev s n) else 0
    let n := off % 0x400 / 4
    some (f (n + 1) ++ f n)
  else if off < 0x210000 then none
  else if off < 0x218000 then
    some (BitVec.ofNat 64 (leNat ((List.range 8).map (fun j => s.slotByte (off - 0x210000 + j)))))
  else none

/-- A doubleword that its sender produces: its check is right (R309). -/
def Datum.of (v : Word) : Datum := { v := v, synd := 0, mark := false }

/-- The check stored beside a doubleword of the hub range (R308). -/
def State.hubCheck (s : State) (off : Nat) (v : Word) : Byte := checkOf v ^^^ look 0 s.hubSynd (off / 8 * 8)

/-- A doubleword of the hub range cannot be consumed (R309, R310, R405). -/
def State.hubFails (s : State) (off : Nat) : Bool :=
  look 0 s.hubSynd off != 0 || s.marks.contains (hubBase + off)

/-- A doorbell: the command enters the mailbox's queue of 8, or is dropped and written to the Scrivener (R326).  The hub takes
no command of which a doubleword fails its verification: it drops it, with the mismatch record that names the hub's core 0 (R309,
R404; DESIGN CHOICE, log 118). -/
def State.ringBell (s : State) (m : Nat) : State :=
  let b := s.box m
  match ((List.range 4).map (fun k => 0x10000 + m * 0x1000 + 8 * k)).find? s.hubFails with
  | some off => if s.marks.contains (hubBase + off) then s else s.mismatch 1 (if m = 16 then 0xFF else m) 0 (hubBase + off)
  | none =>
  if b.queue.length ≥ 8 then
    scrivener s 0x60 (if m = 16 then 0xFF else m) 0 (0x400000010020 + m * 0x1000) [m]
  else s.setBox m { b with queue := b.queue ++ [(List.range 4).map (nth 0 b.cmd)] }

/-- A write of a listed doubleword of the hub range (R325): only mailboxes change; the doubleword keeps the check and the mark
that it comes with (R308, R311). -/
def State.hubPut (s : State) (off : Nat) (d : Datum) : State :=
  if 0x10000 ≤ off ∧ off < 0x21000 then
    let m := (off - 0x10000) / 0x1000
    let o := off % 0x1000
    if o = 0x20 then s.ringBell m
    else
      let t := s.setBox m { s.box m with cmd := setNth ((List.range 4).map (nth 0 (s.box m).cmd)) (o / 8) d.v }
      { t with
        hubSynd := if d.synd = 0 then t.hubSynd.filter (fun e => e.1 != off) else put t.hubSynd off d.synd
        marks := if d.mark then setIns t.marks (hubBase + off) else t.marks.filter (· != hubBase + off) }
  else s

/-- A write of the hub range by a context at Sys or Fw (R325): Sys of partition p uses mailbox p only. -/
def State.hubWrite (s : State) (part : Nat) (fw : Bool) (off : Nat) (d : Datum) : State :=
  let m := (off - 0x10000) / 0x1000
  if 0x10000 ≤ off ∧ off < 0x21000 ∧ ¬ fw ∧ m ≠ part then
    scrivener s 0x60 part 0 (0x400000000000 + off) [m]
  else s.hubPut off d

/-! ### Memory at physical addresses with no leaf entry (R138) -/

/-- The key of a byte of HBM4 or the second tier. -/
def memKey (skew pa : Nat) : Nat := if pa < 0x10000000000 then hbmKey skew pa else pa

/-- The address lies in memory that is there: HBM4 below `capg`, or the second tier (R409). -/
def State.inMemory (s : State) (pa : Nat) : Bool :=
  pa < s.capg || (0x10000000000 ≤ pa && pa < 0x25000000000)

/-- Doublewords at a physical address, none where one is outside memory, poisoned or fails its check. -/
def State.physRead (s : State) (pa n : Nat) : Option (List Word) :=
  if n = 0 then some []
  else if s.inMemory pa && s.inMemory (pa + 8 * n - 1) && pa % 8 == 0 then
    let keys := (List.range n).map (fun k => memKey 0 (pa + 8 * k))
    if (List.range n).any (fun k => (memTrouble s 0 (pa + 8 * k)).isSome) || keys.any (checkFails s) then none
    else some (keys.map (readDw s.mem))
  else none

/-- Doublewords written at a physical address by the hub or firmware, which set no write-log bit (R143); a doubleword
outside memory, or in a poisoned sector or a quarantined region, is not written (R406). -/
def State.physWrite (s : State) (pa : Nat) : List Word → State
  | [] => s
  | v :: vs =>
    let t := if s.inMemory pa && (writeTrouble s 0 pa).isNone && pa % 8 == 0 then
        putDw (markScrubs (noteStore (recallLease s (sectorOf (memKey 0 pa)) 4096) (memKey 0 pa / 8 * 8) 4096)
          (sectorOf (memKey 0 pa))) (memKey 0 pa) v
      else s
    t.physWrite (pa + 8) vs

/-- The same with the write-log bits of a partition (R143). -/
def State.physWriteFor (s : State) (part pa : Nat) (vs : List Word) : State :=
  ((List.range vs.length).foldl (fun s k => logWrite s part (pa + 8 * k)) s).physWrite pa vs

/-- A mailbox's first command ends with a status (R326): the command leaves the queue and the status is written. -/
def State.answer (s : State) (m : Nat) (v : Word) : State :=
  match (s.box m).queue with
  | [] => s
  | q :: rest => (s.setBox m { s.box m with queue := rest }).physWrite (nth 0 q 3).toNat [v]

/-! ### Sending over a port (R337, R430, R431) -/

/-- A direction of a port: 0 sends, 1 receives. -/
def State.dir (s : State) (port d : Nat) : LinkDir := look .reset s.ports (2 * port + d)

/-- A direction replaced. -/
def State.setDir (s : State) (port d : Nat) (l : LinkDir) : State := { s with ports := put s.ports (2 * port + d) l }

/-- The direction carries flits. -/
def LinkDir.up (l : LinkDir) : Bool := l.st = .up16 || l.st = .up8

/-- Flits leave while the direction is up and fewer than 512 are unacknowledged (R337). -/
def State.pump (s : State) (port : Nat) : State :=
  let l := s.dir port 0
  if l.up then
    let n := min 512 l.buf.length
    { s.setDir port 0 { l with sent := max l.sent n } with
      out := s.out ++ ((l.buf.take n).drop l.sent).map (fun f => .flit port f.1 f.2) }
  else s

/-- The payloads of a packet: a flit carries 32 doublewords with their checks, a packet at most eight flits (R308, R337). -/
def flitsOf : Nat → List Datum → List (List Datum)
  | 0, _ => []
  | _, [] => []
  | n + 1, w => w.take 32 :: flitsOf n (w.drop 32)

/-- A packet handed to a port: its header travels in front of its first flit's payload; its flits take the next
numbers and leave when they can (R337, R431; log 9). -/
def State.sendData (s : State) (port : Nat) (header data : List Datum) : State :=
  let l := s.dir port 0
  let p := match flitsOf 8 data with
    | [] => [header]
    | f :: fs => (header ++ f) :: fs
  let fs := (List.range p.length).map (fun k => ((l.seq + k) % 0x10000, nth [] p k))
  (s.setDir port 0 { l with buf := l.buf ++ fs, seq := (l.seq + p.length) % 0x10000 }).pump port

/-- The direction is DOWN. -/
def LinkDir.isDown (l : LinkDir) : Bool := l.st = .down

/-- A member slot's entry (R340). -/
def State.member (s : State) (slot : Nat) : BitVec 32 := look 0 s.members slot

/-- The first port of a member slot (R340). -/
def State.portOf (s : State) (slot : Nat) : Nat := ((s.member slot).extractLsb' 20 4).toNat

/-- A member slot is assigned to a partition; the module's own is assigned to every one (R341). -/
def State.ownsSlot (s : State) (part slot : Nat) : Bool :=
  slot == s.memberId.toNat ||
    (match s.partDef part with
     | some d => d.slots.contains slot
     | none => false)

/-- The module in a member slot can be reached: the entry is valid and neither direction of its port is DOWN
(R338, R432). -/
def State.reachable (s : State) (slot : Nat) : Bool :=
  (s.member slot).getLsbD 31 && s.portOf slot < 12 && !(s.dir (s.portOf slot) 0).isDown &&
    !(s.dir (s.portOf slot) 1).isDown

/-- The packet of a domain request: its kind (1 load, 2 store, 3 atomic, 4 a copy's range, 5 a range with
gaps, before whose data stands the map of what it writes), address, width and operation,
data (log 9). -/
def domainPacket (kind pa width op : Nat) (d1 d2 : Word) : List Word :=
  [BitVec.ofNat 64 (packBits [(op, 16), (width, 8), (kind, 0)]), BitVec.ofNat 64 pa, d1, d2]

/-- The cause that an access to another member comes back with (R338, R404, R432): a bus fault unless the target says
otherwise. -/
def backCause (n : Nat) : BitVec 8 :=
  if n = 0x20 ∨ n = 0x21 ∨ n = 0x22 ∨ n = 0x23 then BitVec.ofNat 8 n else 0x18

/-- The value that a cause saves of an address: its doubleword, its sector, or the address itself (R403). -/
def causeVal (k : BitVec 8) (a : Word) : Word := if k = 0x20 then a &&& ~~~7 else if k = 0x21 then a &&& ~~~0xFF else a

/-- The exception of an access to another member that failed: stval is the domain address in the cause's form (R371,
R403, R432). -/
def backExc (n pa : Nat) : Exc := { cause := backCause n, val := causeVal (backCause n) (BitVec.ofNat 64 pa) }

/-- A doubleword of another member as its consumer takes it: verified, then the `n` bytes selected that lie at the address
(R310, R315, R404, R405). -/
def State.takeDatum (s : State) (kind part core pa n : Nat) (d : Datum) : Except (Exc × State) (Word × State) :=
  if d.mark then .error (backExc 0x21 pa, s)
  else if d.synd ≠ 0 then .error (backExc 0x20 pa, s.mismatch kind part core (pa / 8 * 8))
  else .ok (BitVec.ofNat 64 (d.v.toNat / 2 ^ (8 * (pa % 8)) % 2 ^ (8 * n)), s)

/-- The route that a packet carries (R24, R340): the sending module's identifier, the identifier of the module that the
member slot names, and whether the slot is a routed-mode entry. -/
def State.routeWord (s : State) (slot : Nat) : Word :=
  BitVec.ofNat 64 (packBits [(bit ((s.member slot).getLsbD 24), 40), (((s.member slot).extractLsb' 0 20).toNat, 20),
    (s.modId.toNat, 0)])

/-- A packet handed to a port: its header is four words, its route and the number of doublewords that follow (R337, R340). -/
def State.sendVia (s : State) (port : Nat) (words : List Word) (route : Word) (data : List Datum) : State :=
  s.sendData port (((List.range 4).map (nth 0 words) ++ [route, BitVec.ofNat 64 data.length]).map Datum.of) data

/-- A packet to the module in a member slot leaves through the slot's first port (R339, R340). -/
def State.sendTo (s : State) (slot : Nat) (words : List Word) (data : List Datum) : State :=
  s.sendVia (s.portOf slot) words (s.routeWord slot) data

/-- The tag of a request: what asks (0 a context, 1 a micro-thread, 2 an element, 3 a posted store or atomic, 4 the firmware that
serves a context, 5 a job), its context and its number (log 9). -/
def tagOf (kind c i : Nat) : Nat := kind + 8 * c + 0x4000 * i

/-- The header words of a request with its tag in bits 63:32 of the first. -/
def tagged (tag : Nat) (words : List Word) : List Word :=
  (nth 0 words 0 ||| (BitVec.ofNat 64 tag <<< 32)) :: words.drop 1

/-- A request to the module in a member slot, which is to be answered (R339; log 9). -/
def State.sendReq (s : State) (slot tag : Nat) (words : List Word) (data : List Datum) : State :=
  let w := tagged tag words
  State.sendTo { s with pend := s.pend ++ [{ port := s.portOf slot, back := none, words := w, route := s.routeWord slot }] }
    slot w data

/-- The header of the reply to a remote request: kind 6 with the cause, 0 for none, then the address and the first word of the
request (log 9). -/
def remoteReply (k : Nat) (req : List Word) : List Word := [BitVec.ofNat 64 (6 + 0x100 * k), nth 0 req 1, nth 0 req 0]

/-- A word of a packet's header. -/
def RemoteReq.word (q : RemoteReq) (n : Nat) : Word := (nth (Datum.of 0) q.payload n).v

/-- The kind of a packet. -/
def RemoteReq.kind (q : RemoteReq) : Nat := bits (q.word 0) 0 8

/-- The cause that a reply brings, 0 for none. -/
def RemoteReq.cause (q : RemoteReq) : Nat := bits (q.word 0) 8 8

/-- The tag of the request that a reply answers. -/
def RemoteReq.tag (q : RemoteReq) : Nat := bits (q.word 2) 32 32

/-- A doubleword of a packet's payload. -/
def RemoteReq.datum (q : RemoteReq) (n : Nat) : Datum := nth (Datum.of 0) q.payload (6 + n)

/-- The tag of a request that waits for its reply. -/
def Pend.tag (p : Pend) : Nat := bits (nth 0 p.words 0) 32 32

/-- A packet answers a request. -/
def Pend.answered (p : Pend) (q : RemoteReq) : Bool := q.word 1 == nth 0 p.words 1 && q.word 2 == nth 0 p.words 0

/-- The first element of a list for which a test holds is left out. -/
def dropFirst {α : Type} (f : α → Bool) (l : List α) : List α := l.take (l.findIdx f) ++ l.drop (l.findIdx f + 1)

/-- The oldest reply with a tag that has come in and meets a test is taken. -/
def State.takeReply (s : State) (tag : Nat) (f : RemoteReq → Bool) : Option (RemoteReq × State) :=
  let g := fun (q : RemoteReq) => q.kind == 6 && q.tag == tag && f q
  (s.inbox.find? g).map (fun q => (q, { s with inbox := dropFirst g s.inbox }))

/-- Nobody waits any more for the replies whose tags meet a test. -/
def State.dropReplies (s : State) (f : Nat → Bool) : State :=
  { s with pend := s.pend.filter (fun p => p.back.isSome || !f p.tag),
           inbox := s.inbox.filter (fun q => q.kind != 6 || !f q.tag) }

/-- What a context has asked of other members, but for its posted stores and atomics, is waited for no more. -/
def State.dropAsked (s : State) (c : Nat) : State := s.dropReplies (fun t => t % 8 != 3 && t / 8 % 2048 == c)

/-- The route back to the sender of a packet. -/
def State.routeBack (s : State) (route : Word) : Word :=
  BitVec.ofNat 64 (packBits [(bits route 40 1, 40), (bits route 0 20, 20), (s.modId.toNat, 0)])

end Sys2Proof.Machine
end

