-- ==== Sys2Proof/Machine/Access.lean ====
section
/-!
DEFINITION. Accesses: translation (R131-R136), the order of their checks (R218, R260), and their performance at memory,
windows, the hub and the domain (R116-R122, R137-R146, R338, R404-R409).
-/

namespace Sys2Proof.Machine

/-- Who makes an access: context (2,048 for the host or another member), core (512 where it has none), partition, level, the
consumer kind of a mismatch record (R450), whether it goes through an L1, and the micro-thread whose held sectors do
not stop it (R151), and the tag of what it asks of another member (log 9). -/
structure Who where
  c : Nat
  core : Nat
  part : Nat
  level : Level
  kind : Nat
  l1 : Bool
  holder : Nat
  tag : Nat := 0
  deriving DecidableEq, Repr

/-- What an access does: `n` bytes loaded, stored, or changed by an atomic (R222). -/
inductive MemOp where
  | load (n : Nat)
  | store (n : Nat) (v : Word)
  | amo (n : Nat) (op : Nat) (v c : Word)
  deriving DecidableEq, Repr

/-- The width of an access in bytes. -/
def MemOp.width : MemOp → Nat
  | .load n => n
  | .store n _ => n
  | .amo n _ _ _ => n

/-- The access writes. -/
def MemOp.writes : MemOp → Bool
  | .load _ => false
  | .store _ _ => true
  | .amo _ _ _ _ => true

/-- The access replaces whole doublewords: it reads nothing of what was there (R314, R407). -/
def MemOp.whole : MemOp → Bool
  | .store n _ => n == 8
  | _ => false

/-- How an access ends: performed with a value, an exception, an upcall (R134), a park (R157, R339), or not yet (a
sector held for a block's third execution, R151; a full buffer, R49; a unit asleep, R145). -/
inductive Ans where
  | value (v : Word) (s : State)
  | exc (e : Exc) (s : State)
  | upcall (va : Word) (s : State)
  | waits (w : Why) (s : State)
  | stall (s : State)
  deriving DecidableEq, Repr

/-- A translated address (R137), with the home field of its page; an access with no leaf has 32 (R124, R133, R138). -/
structure Tr where
  pa : Nat
  skew : Nat
  attr : Nat
  hcl : Nat := 32
  deriving DecidableEq, Repr

/-- The canonical form (R115). -/
def canonical (va : Word) : Bool := va.extractLsb' 56 8 == 0 || va.extractLsb' 56 8 == 0xFF

/-- The vector space (R115). -/
def inVector (va : Word) : Bool := va.toNat < 0x10000000000

/-! ### Charging and leases (R125, R146) -/

/-- Bytes charged to a context's `chgfill` (R146); the host and other members, at 2,048, are charged nothing. -/
def State.charge (s : State) (c n : Nat) : State :=
  if c < 2048 then s.setCtx c { s.ctx c with chgfill := (s.ctx c).chgfill + BitVec.ofNat 64 n } else s

/-- A sector leaves its home slice by a fill of a context, and every L1 with it: a dirty one is written back whole at the
context's charge, and a write-back that poison or quarantine refuses is reported to it (R146, R406, R407, R410; log 18). -/
def State.evictSector (s : State) (c : Nat) (e : L2Ent) : State :=
  let pa := e.sector * 256 % 0x10000000000000
  let t := { s with l2 := s.l2.filter (fun d => !(d.home == e.home && d.sector == e.sector))
                    l1 := s.l1.filter (fun d => d.sector != e.sector) }
  if e.dirty then
    let refuse : Option (BitVec 8) :=
      if quarantined t pa then some 0x22
      else if t.poison.any (fun p => p.2 == e.sector) || bulkMarked t 0 pa then some 0x21
      else none
    let t := if refuse.isSome then t else { markScrubs t e.sector with bad := t.bad.filter (fun q => q.2 != e.sector) }
    if c < 2048 then
      let x := t.ctx c
      t.setCtx c { x with chgwb := x.chgwb + 256,
                          postFaults := match refuse with
                            | some k => x.postFaults ++ [(x.level, { cause := k, val := BitVec.ofNat 64 pa })]
                            | none => x.postFaults }
    else t
  else t

/-- The sectors of a set of a slice that lie in one way. -/
def State.waySectors (s : State) (home set way : Nat) : List L2Ent :=
  s.l2.filter (fun e => e.home == home && e.sector / 4 / 8 % 256 == set && e.way == way)

/-- A sector of a cached page at its home slice: a miss fills it and is charged, a write makes it dirty (R124, R146).
The set is the line without its slice bits, modulo 256; a line that finds no free way takes the place of the line of a way
that the spec leaves open (log 18). -/
def State.touch (s : State) (c home sector : Nat) (dirty : Bool) : State :=
  let line := sector / 4
  let set := line / 8 % 256
  let enter := fun (s : State) (w : Nat) =>
    { s with l2 := { home := home, sector := sector, way := w, dirty := dirty } :: s.l2 }.charge c 256
  match s.l2.find? (fun e => e.home == home && e.sector == sector) with
  | some e =>
    if dirty && !e.dirty then
      { s with l2 := s.l2.map (fun d => if d = e then { d with dirty := true } else d) }
    else s
  | none =>
    match s.l2.find? (fun e => e.home == home && e.sector / 4 == line) with
    | some e => enter s e.way
    | none =>
      let ways := s.waysOf (home / 8) (l2Unit home)
      match ways.find? (fun w => (s.waySectors home set w).isEmpty) with
      | some w => enter s w
      | none =>
        if ways.isEmpty then s.charge c 256
        else
          let w := nth 0 ways ((Config.freeValue s.freeN).toNat % ways.length)
          let t := { s with freeN := s.freeN + 1 }
          enter ((t.waySectors home set w).foldl (fun t e => t.evictSector c e) t) w

/-- A home slice holds the sector. -/
def State.held (s : State) (sector : Nat) : Bool := s.l2.any (fun e => e.sector == sector)

/-! ### Memory proper -/

/-- A load by Sys or Fw from HBM4 at or above `capg` is served while the line's stack is in service (R409). -/
def State.stackServes (s : State) (skew pa : Nat) : Bool :=
  let st := stackState s (entStack (slotEntry s (slotOf skew pa)))
  st != .dead && st != .retired

/-- The cause of an access to memory before any byte moves, with the value it names (R403, R406, R407, R409); on a cached
page a fill comes first, which poison stops whatever the access replaces (R406). -/
def State.memFault (s : State) (w : Who) (t : Tr) (va : Word) (writes : Bool)
    (whole : Bool := false) : Option Exc :=
  if t.pa < 0x10000000000 ∧ hbmTop ≤ t.pa then some { cause := 0x18, val := va }
  else if t.pa < 0x10000000000 ∧ s.capg ≤ t.pa ∧ (writes ∨ w.level = .app ∨ !s.stackServes t.skew t.pa) then
    some { cause := 0x23, val := va }
  else if t.attr = 0 ∧ s.held (sectorOf (memKey t.skew t.pa)) then none
  else
    match (if whole && t.attr != 0 then writeTrouble s t.skew t.pa else memTrouble s t.skew t.pa) with
    | some k => some { cause := k, val := if k = 0x21 then va &&& ~~~0xFF else va }
    | none => none

/-- The cause of a wrong check at a key, and the state with its Scrivener record (R404). -/
def State.badCheck (s : State) (w : Who) (key pa : Nat) (va : Word) : Option (Exc × State) :=
  if checkFails s key then
    some ({ cause := 0x20, val := va &&& ~~~7 }, s.mismatch w.kind w.part (w.core % 512) (pa / 8 * 8))
  else none

/-- The new value of an atomic, none where it writes nothing (R222): operations 0 add, 1 swap, 2 cas, 3 min, 4 max,
5 minu, 6 maxu, 7 and, 8 or. -/
def amoNew (n op : Nat) (old v c : Word) : Option Word :=
  let m : Word := if n = 4 then 0xFFFFFFFF else 0xFFFFFFFFFFFFFFFF
  let se := fun (x : Word) => if n = 4 then (x.setWidth 32).signExtend 64 else x
  let v := v &&& m
  match op with
  | 0 => some ((old + v) &&& m)
  | 1 => some v
  | 2 => if old = c &&& m then some v else none
  | 3 => some (if (se old).toInt ≤ (se v).toInt then old else v)
  | 4 => some (if (se old).toInt ≥ (se v).toInt then old else v)
  | 5 => some (if old.toNat ≤ v.toNat then old else v)
  | 6 => some (if old.toNat ≥ v.toNat then old else v)
  | 7 => some (old &&& v)
  | _ => some (old ||| v)

/-- A number of bytes at a key as a word. -/
def readN (m : List Host.Cell) (k n : Nat) : Word := BitVec.ofNat 64 (leNat (readBytes m k n))

/-- Another block holds the sector (R151). -/
def State.blocked (s : State) (w : Who) (sector : Nat) : Bool :=
  s.heldSectors.any (fun h => h.1 == sector && h.2 != w.holder)

/-- What the caches and counters see of a served access (R124-R126, R146, R155): on a cached page a load that its core's
L1 serves under a current lease, and a store to a sector that the L1 owns, go no further; every other access goes to the
home slice, which takes the sector back from an L1 that owns it, and through an L1 begins or renews the lease.  An atomic
that wrote nothing leaves the sector as clean as it was (R223).  What a core sees of other agents' stores ends the leases that
began before them (R155). -/
def State.served (s : State) (w : Who) (t : Tr) (sector : Nat) (op : MemOp) (wrote : Bool := true) : State :=
  let home := homeOf s t.hcl t.skew t.pa
  let s :=
    if t.attr = 0 then
      match op with
      | .load _ =>
        if w.l1 then
          if s.l1Current w.core sector then s
          else l1Fill (recallOwner (s.touch w.c home sector false) sector w.core) w.core sector (s.l1Writable w.core sector)
        else recallOwner (s.touch w.c home sector false) sector 4096
      | .store _ _ =>
        if w.l1 then
          if s.l1Writable w.core sector then s else l1Fill (s.touch w.c home sector true) w.core sector true
        else s.touch w.c home sector true
      | .amo _ _ _ _ => s.touch w.c home sector wrote
    else
      match op with
      | .load _ => s.charge w.c 8
      | .store _ _ => s
      | .amo _ _ _ _ => s.charge w.c 256
  if w.l1 then
    match op with
    | .load _ => sawValue s w.core (memKey t.skew t.pa / 8 * 8)
    | _ => sawOwn s w.core sector
  else s

/-- The core whose L1 keeps the sector through an access: a store through an L1 keeps its own, every other write is made
at the home slice or the channel and recalls them all (R125, R155). -/
def keeper (w : Who) (op : MemOp) : Nat :=
  match op with
  | .store _ _ => if w.l1 then w.core else 4096
  | _ => 4096

/-- The access goes to a channel whose line is Copying: it stalls until the line is Done (R415). -/
def State.stalls (s : State) (t : Tr) : Bool :=
  s.copyingAt t.skew t.pa && !(t.attr == 0 && s.held (sectorOf (memKey t.skew t.pa)))

/-- A gang with the rollback attribute issues no atomic in its compute phase (R428). -/
def State.noAtomic (s : State) (c : Nat) : Bool := c < 2048 && (s.gang c).rollback && !(s.ctx c).xch

/-- An atomic in an exchange phase marks the superstep unreplayable (R428). -/
def State.noteAtomic (s : State) (c : Nat) : State :=
  if c < 2048 && (s.gang c).rollback then s.setRec (s.ctx c).recIdx.toNat { s.gang c with unreplayable := true } else s

/-- An access to HBM4 or the second tier. -/
def State.memAccess (s : State) (w : Who) (t : Tr) (va : Word) (op : MemOp) : Ans :=
  let key := memKey t.skew t.pa
  let sector := sectorOf key
  match s.memFault w t va op.writes op.whole with
  | some e => .exc e s
  | none =>
    if s.stalls t then .stall s
    else
    match op with
    | .load n =>
      match s.badCheck w key t.pa va with
      | some (e, s) => .exc e s
      | none => .value (readN s.mem key n) (s.served w t sector op)
    | .store n v =>
      if s.blocked w sector then .stall s
      else
        match (if n < 8 then s.badCheck w key t.pa va else none) with
        | some (e, s) => .exc e s
        | none => .value 0 (storeMem (s.served w t sector op) w.part (keeper w op) t.pa key (toLe v.toNat n))
    | .amo n o v c =>
      if s.noAtomic w.c then .exc { cause := 0x2A, val := va } s
      else if s.blocked w sector then .stall s
      else
        match s.badCheck { w with kind := 4 } key t.pa va with
        | some (e, s) => .exc e s
        | none =>
          let old := readN s.mem key n
          let s := (s.noteAtomic w.c).served w t sector op (amoNew n o old v c).isSome
          match amoNew n o old v c with
          | some x => .value old (storeMem s w.part (keeper w op) t.pa key (toLe x.toNat n))
          | none => .value old (recallLease (logWrite s w.part t.pa) sector 4096)

/-! ### Scalar translation (R131-R134, R412, R413) -/

/-- What an access needs of its leaf: read, write, both, or instruction fetch. -/
inductive Need where
  | r
  | w
  | rw
  | x
  deriving DecidableEq, Repr

/-- What an access needs. -/
def MemOp.need : MemOp → Need
  | .load _ => .r
  | .store _ _ => .w
  | .amo _ _ _ _ => .rw

/-- The leaf gives the permissions that the access needs (R218). -/
def permits (e : Word) (l : Level) (n : Need) : Bool :=
  (l != .app || e.getLsbD 4) &&
    (match n with
     | .r => e.getLsbD 1
     | .w => e.getLsbD 2
     | .rw => e.getLsbD 1 && e.getLsbD 2
     | .x => e.getLsbD 3)

/-- What makes a leaf malformed, scalar or vector, but for its reserved bits (R132, R135). -/
def leafBad (e : Word) : Bool :=
  bits e 58 6 != 0 || bits e 10 2 == 3 || bits e 8 2 == 3 || bits e 52 6 > 33 || (e.getLsbD 2 && !e.getLsbD 1)

/-- How a walk ends (R131). -/
inductive Walk where
  /-- On a valid leaf, at a physical address. -/
  | leaf (e : Word) (at_ : Nat)
  /-- On an entry with V clear. -/
  | invalid
  /-- On a malformed entry. -/
  | malformed
  /-- On an entry that could not be read (R412). -/
  | bad (e : Exc) (at_ : Nat)
  deriving DecidableEq, Repr

/-- One read of a walk: an ordinary load at the entry's home slice, placed under skew 0; what stops it names the entry's
physical address (R133, R138, R412). -/
def State.walkRead (s : State) (w : Who) (pa : Nat) : Except Exc Word :=
  let va := BitVec.ofNat 64 pa
  match placeOf pa with
  | .hbm | .tier2 =>
    match s.memFault w { pa := pa, skew := 0, attr := 0 } va false with
    | some e => .error { e with val := va }
    | none =>
      if checkFails s (memKey 0 pa) then .error { cause := 0x20, val := va }
      else .ok (readDw s.mem (memKey 0 pa))
  | _ => .error { cause := 0x18, val := va }

/-- The walk from a table down the levels whose lowest index bits are listed (R131), and the entries it read. -/
def State.walkFrom (s : State) (w : Who) (va : Word) : List Nat → Nat → List Nat → Walk × List Nat
  | [], _, seen => (.malformed, seen)
  | b :: bs, table, seen =>
    let pa := table + 8 * bits va b 9
    match s.walkRead w pa with
    | .error e => (.bad e pa, seen)
    | .ok e =>
      if !e.getLsbD 0 then (.invalid, pa :: seen)
      else if bs.isEmpty then (if leafBad e then .malformed else .leaf e pa, pa :: seen)
      else if bits e 1 11 ≠ 0 ∨ bits e 52 12 ≠ 0 then (.malformed, pa :: seen)
      else s.walkFrom w va bs (e.toNat / 0x1000 * 0x1000) (pa :: seen)

/-- A walk of the current tables. -/
def State.walk (s : State) (w : Who) (va : Word) : Walk × List Nat :=
  s.walkFrom w va [48, 39, 30, 21, 12] (s.ctx w.c).ptroot.toNat []

/-- The physical addresses of the entries that one leaf stands for: the sixteen of a 64 KiB page, or itself (R132). -/
def State.pageEntries (s : State) (va : Word) (e : Word) (at_ : Nat) : List Nat :=
  let first := at_ - 8 * bits va 12 4
  let as := (List.range 16).map (fun k => first + 8 * k)
  let e0 := readDw s.mem (memKey 0 first)
  let rest : Word := ~~~0xFFFFFFFFFF0C0
  if e.getLsbD 5 && bits e0 12 4 == 0 &&
      (List.range 16).all (fun k =>
        let f := readDw s.mem (memKey 0 (first + 8 * k))
        f &&& rest == e &&& rest && bits f 12 40 == bits e0 12 40 + k) then as
  else [at_]

/-- The walker's atomic that sets A, and D for a store, in each entry of the page (R132, R133). -/
def State.setAD (s : State) (w : Who) (d : Bool) : List Nat → State
  | [] => s
  | pa :: pas =>
    let e := readDw s.mem (memKey 0 pa)
    let n := e ||| (if d then 0xC0 else 0x40)
    let s := if n = e then s
      else storeMem (s.touch w.c (homeOf s 32 0 pa) (sectorOf (memKey 0 pa)) true) w.part 4096 pa (memKey 0 pa) (toLe n.toNat 8)
    s.setAD w d pas

/-- Of the sixteen entries that a leaf with c64 set stands among, which the walker reads together, the first whose check
is wrong (R132, R310, R412). -/
def State.siblingBad (s : State) (va : Word) (e : Word) (at_ : Nat) : Option Nat :=
  if e.getLsbD 5 then
    ((List.range 16).map (fun k => at_ - 8 * bits va 12 4 + 8 * k)).find? (fun pa => checkFails s (memKey 0 pa))
  else none

/-- An update of an entry has to wait: its sector is held for a block's third execution, or its line is Copying
(R151, R415). -/
def State.adWaits (s : State) (w : Who) (d : Bool) (pas : List Nat) : Bool :=
  pas.any (fun pa =>
    let e := readDw s.mem (memKey 0 pa)
    (e ||| (if d then 0xC0 else 0x40)) != e &&
      (s.blocked w (sectorOf (memKey 0 pa)) || s.stalls { pa := pa, skew := 0, attr := 0 }))

/-- An entry of the page whose check is wrong: the far-atomic unit refuses its update (R404). -/
def State.badEntry (s : State) (pas : List Nat) : Option Nat := pas.find? (fun pa => checkFails s (memKey 0 pa))

/-- How a translation ends. -/
inductive Tran where
  | ok (t : Tr) (s : State)
  | exc (e : Exc) (s : State)
  | upcall (s : State)
  /-- It waits for a sector that a block holds (R151), or for a Copying line (R415). -/
  | wait (s : State)
  deriving DecidableEq, Repr

/-- The translation a leaf gives (R131, R132). -/
def leafTr (e va : Word) (big : Bool) : Tr :=
  { pa := if big then bits e 16 36 * 0x10000 + bits va 0 16 else bits e 12 40 * 0x1000 + bits va 0 12,
    skew := bits e 8 2, attr := bits e 10 2, hcl := bits e 52 6 }

/-- A translation enters the TLBs of its core, in place of an older one of its page (R133): the second level holds 2,048
entries and the first 64 of them; a full level gives up an entry that the spec leaves open (log 101). -/
def State.enterTlb (s : State) (n : TlbEnt) : State :=
  let same := fun (f : TlbEnt) =>
    f.core == n.core && f.vector == n.vector && f.root == n.root && f.page == n.page && f.bits == n.bits
  let s := { s with tlb := s.tlb.filter (fun f => !same f) }
  let own := s.tlb.filter (fun f => f.core == n.core)
  let s :=
    if own.length < 2048 then s
    else
      let v := nth n own ((Config.freeValue s.freeN).toNat % own.length)
      { s with freeN := s.freeN + 1, tlb := s.tlb.filter (fun f => f != v) }
  let near := s.tlb.filter (fun f => f.core == n.core && f.first)
  let s :=
    if near.length < 64 then s
    else
      let v := nth n near ((Config.freeValue s.freeN).toNat % near.length)
      { s with freeN := s.freeN + 1, tlb := s.tlb.map (fun f => if f = v then { f with first := false } else f) }
  { s with tlb := n :: s.tlb }

/-- The TLB entry that serves an access, if the core holds one (R133). -/
def State.tlbHit (s : State) (w : Who) (va : Word) : Option TlbEnt :=
  s.tlb.find? (fun e => e.core == w.core && !e.vector && e.root == (s.ctx w.c).ptroot && e.page == va.toNat / 2 ^ e.bits)

/-- A hit that serves the access without a walk: A is set, D is set for a store, and it is permitted (R132, R413). -/
def tlbServes (e : TlbEnt) (l : Level) (n : Need) : Bool :=
  e.leaf.getLsbD 6 && (e.leaf.getLsbD 7 || n == .r || n == .x) && permits e.leaf l n

/-- The state after a translation that fails: an upcall where R134 gives one, else the cause. -/
def State.noPage (s : State) (w : Who) (va : Word) (n : Need) (invalid : Bool) : Tran :=
  if invalid && w.level = .app && (s.ctx w.c).upcallEn && n != .x then .upcall s
  else .exc { cause := 0x05, val := va } s

/-- Scalar translation (R131-R134): a TLB hit, or a walk, which a permission fault on a hit also takes (R413). -/
def State.scalarTr (s : State) (w : Who) (va : Word) (n : Need) : Tran :=
  let hit := s.tlbHit w va
  match hit.filter (fun e => tlbServes e w.level n) with
  | some e => .ok (leafTr e.leaf va (e.bits == 16)) s
  | none =>
    let s := match hit with
      | some e => if permits e.leaf w.level n then s else { s with tlb := s.tlb.filter (fun f => f != e) }
      | none => s
    let (r, seen) := s.walk w va
    if seen.any (fun pa => s.stalls { pa := pa, skew := 0, attr := 0 }) then .wait s
    else
    let s := seen.foldl (fun s pa => s.touch w.c (homeOf s 32 0 pa) (sectorOf (memKey 0 pa)) false) s
    match r with
    | .invalid => s.noPage w va n true
    | .malformed => s.noPage w va n false
    | .bad e pa => .exc e (if e.cause = 0x20 then s.mismatch 1 w.part (w.core % 512) pa else s)
    | .leaf e pa =>
      if !permits e w.level n then s.noPage w va n false
      else
        match s.siblingBad va e pa with
        | some p => .exc { cause := 0x20, val := BitVec.ofNat 64 p } (s.mismatch 1 w.part (w.core % 512) p)
        | none =>
          let d := n == .w || n == .rw
          let pas := s.pageEntries va e pa
          match s.badEntry pas with
          | some p => .exc { cause := 0x20, val := BitVec.ofNat 64 p } (s.mismatch 4 w.part (w.core % 512) p)
          | none =>
            if s.adWaits w d pas then .wait s
            else
              let bits := if pas.length = 16 then 16 else 12
              let t := s.setAD w d pas
              .ok (leafTr e va (pas.length == 16)) (t.enterTlb
                { core := w.core, page := va.toNat / 2 ^ bits, bits := bits, vector := false,
                  root := (s.ctx w.c).ptroot, leaf := e ||| (if d then 0xC0 else 0x40), first := true })

/-! ### Vector translation (R135, R136) -/

/-- The key of a page's entry in a cluster's resident table. -/
def vtabKey (space : Nat) (va : Word) : Nat := 4096 * space + va.toNat / 0x10000000

/-- The translation that an entry of the resident table gives, none where the access is refused (R135). -/
def vecLeaf (e : Word) (l : Level) (va : Word) (n : Need) : Option Tr :=
  if inVector va && e.getLsbD 0 && !leafBad e && bits e 5 3 == 0 && bits e 12 16 == 0 && permits e l n then
    some { pa := bits e 28 24 * 0x10000000 + bits va 0 28, skew := bits e 8 2, attr := bits e 10 2, hcl := bits e 52 6 }
  else none

/-- The translation of a vector-space address by a cluster's resident table (R135). -/
def State.vecTr (s : State) (cl space : Nat) (l : Level) (va : Word) (n : Need) : Option Tr :=
  vecLeaf (look 0 (s.cluster cl).vtab (vtabKey space va)) l va n

/-- The entries of a context's vector space, under which a job or a vector access that it issues completes (R136). -/
def State.spaceTable (s : State) (c : Nat) : Table Word :=
  (s.cluster (clusterOfCtx c)).vtab.filter (fun e => e.1 / 4096 == (s.ctx c).vspace.toNat)

/-- The TLB entry of a scalar access to vector space: a 64 KiB part of its page of the resident table (R133). -/
def State.vecEnt (s : State) (w : Who) (va : Word) : TlbEnt :=
  let space := (s.ctx w.c).vspace
  { core := w.core, page := va.toNat / 0x10000, bits := 16, vector := true, root := space.setWidth 64,
    leaf := look 0 (s.cluster (clusterOf w.core)).vtab (vtabKey space.toNat va), first := true }

/-- Translation of a control thread's scalar access (R218): the resident table in vector space, whose TLB copies a
store to it discards (R133), the page tables elsewhere. -/
def State.translate (s : State) (w : Who) (va : Word) (n : Need) : Tran :=
  if inVector va then
    match s.vecTr (clusterOf w.core) (s.ctx w.c).vspace.toNat w.level va n with
    | some t => .ok t (if s.tlb.any (fun f => f == s.vecEnt w va || f == { s.vecEnt w va with first := false }) then s
        else s.enterTlb (s.vecEnt w va))
    | none => .exc { cause := 0x06, val := va } s
  else s.scalarTr w va n

/-! ### Windows (R118-R122, R49) -/

/-- The context of a crew's window item. -/
def Win.owner : Win → Option Nat
  | .control c _ => some c
  | .micro c _ _ => some c
  | _ => none

/-- The register window of an owning context is open: FREE, halted or retained, or in its exchange phase (R49). -/
def Ctx.open_ (x : Ctx) : Bool :=
  match x.run with
  | .free => true
  | .retained _ => true
  | _ => x.xch

/-- Where a micro-thread's saved record lies (R69). -/
def Ctx.recordVa (x : Ctx) (i : Nat) : Word :=
  x.vsave + BitVec.ofNat 64 (i * (if x.recSide = 0 then 256 else 2304))

/-- Where a doubleword of the lane save area lies, none where Sys has not mapped it (R69, log 13). -/
def State.saveTr (s : State) (c : Nat) (va : Word) (n : Need) : Option Tr :=
  (s.vecTr (clusterOfCtx c) (s.ctx c).vspace.toNat .sys va n).filter (fun t => s.inMemory t.pa && t.attr != 2)

/-- A doubleword of the lane save area; where it is not mapped, a free value (log 13). -/
def State.saveRead (s : State) (c : Nat) (va : Word) : Word :=
  match s.saveTr c va .r with
  | some t => readDw s.mem (memKey t.skew t.pa)
  | none => Config.freeValue (s.freeN + va.toNat)

/-- The doubleword of the lane save area whose verification fails, with its cause and physical address (R310, R404,
R405). -/
def State.saveBad (s : State) (c : Nat) (va : Word) : Option (BitVec 8 × Nat) :=
  match s.saveTr c va .r with
  | some t =>
    match (if t.attr = 0 && s.held (sectorOf (memKey t.skew t.pa)) then none else memTrouble s t.skew t.pa) with
    | some e => some (e, t.pa)
    | none => if checkFails s (memKey t.skew t.pa) then some (0x20, t.pa) else none
  | none => none

/-- What refuses the write of a whole doubleword in the lane save area (R406, R407). -/
def State.saveRefused (s : State) (c : Nat) (va : Word) : Option (BitVec 8 × Nat) :=
  match s.saveTr c va .w with
  | some t =>
    (if t.attr = 0 then (if s.held (sectorOf (memKey t.skew t.pa)) then none else memTrouble s t.skew t.pa)
     else writeTrouble s t.skew t.pa).map (fun e => (e, t.pa))
  | none => none

/-- A doubleword written in the lane save area; where it is not mapped, or poison or quarantine refuses it, nothing (R406,
R407, log 13).  A window write sets no bit of the write log (R143). -/
def State.saveWrite (s : State) (c : Nat) (va v : Word) (log : Bool := true) : State :=
  match s.saveTr c va .w with
  | some t =>
    if (s.saveRefused c va).isSome then s
    else
      let u := storeMem s (s.partOf (c / 4)) 4096 t.pa (memKey t.skew t.pa) (toLe v.toNat 8)
      if log then u else { u with wlog := s.wlog }
  | none => s

/-- A sector of `len` bytes of a crew's lane save area cannot be reached now: a block's third execution holds it, or its line is
Copying (R151, R415). -/
def State.areaWaits (s : State) (c : Nat) (va : Word) (len : Nat) : Bool :=
  (!s.heldSectors.isEmpty || s.retire.isSome) &&
    (List.range (len / 256 + 1)).any (fun k =>
      match s.saveTr c (va + BitVec.ofNat 64 (256 * k)) .r with
      | some t =>
        s.heldSectors.any (fun h => h.1 == sectorOf (memKey t.skew t.pa)) || s.stalls t
      | none => false)

/-- The records of a crew's micro-threads cannot all be reached now (R151, R415). -/
def State.saveWaits (s : State) (c : Nat) : Bool := s.areaWaits c (s.ctx c).vsave ((s.ctx c).vl * 2304)

/-- How a window access stands (R120-R122, R49). -/
inductive WinSt where
  /-- It can be applied now. -/
  | go
  /-- It waits in the window-write buffer (R49). -/
  | buffer
  /-- It waits for the crew (R121, R122). -/
  | poll
  /-- It raises the window fault. -/
  | fault
  deriving DecidableEq, Repr

/-- The records of a crew are in its lane save area (R121). -/
def Ctx.inSave (x : Ctx) : Bool := x.gstate = .requested || x.gstate = .revoked

/-- The rules of R120-R122 for a window item at a level. -/
def State.winState (s : State) (l : Level) : Win → WinSt
  | .bad => .fault
  | .local_ _ _ => .go
  | .emu _ _ => if l = .fw then .go else .fault
  | .tile _ _ => .go
  | .plane _ _ => .go
  | .vtab _ _ => if l = .app then .fault else .go
  | .control c _ => if l = .app then .fault else if (s.ctx c).open_ then .go else .buffer
  | .micro c i off =>
    let x := s.ctx c
    if x.vl ≤ i ∨ 0x900 ≤ off ∨ (0x100 ≤ off ∧ x.reqSq = 0) then .fault
    else if !x.open_ then .buffer
    else if x.gstate = .shrinking ∨ (x.gstate = .revoked ∧ x.revoked.isSome) then .poll
    else if !x.inSave ∧ (s.mt c i).blk.isSome then .poll
    else if x.inSave && s.areaWaits c (x.recordVa i) 2304 then .poll
    else .go
  | .scratch c slot off =>
    let x := s.ctx c
    if 0xF000 ≤ off ∨ x.gstate = .idle then .fault
    else if x.gstate = .granted ∨ x.gstate = .spilled then 
      (if x.slots.length ≤ slot then .fault
       else if s.heldSectors.any (fun h =>
         h.1 == sectorOf (scratchKey (clusterOfCtx c) (nth 0 x.slots slot) + off)) then .poll
       else .go)
    else .poll

/-- The key of a window item that is storage. -/
def State.winKey (s : State) : Win → Option Nat
  | .local_ core off => some (localKey core off)
  | .emu core off => some (emuKey core + off)
  | .tile cl off => some (winBase cl + 0x1000000 + off)
  | .plane cl off => some (winBase cl + 0x1C00000 + off)
  | .scratch c slot off => some (scratchKey (clusterOfCtx c) (nth 0 (s.ctx c).slots slot) + off)
  | _ => none

/-- The number of a local-memory bank among the units that can be asleep (R127, R145). -/
def bankUnit (core off : Nat) : Nat := 8 * core + off / 0x8000

/-- The unit that a window item lies in, among those that can be gated (R145). -/
def State.winUnit (s : State) : Win → Option Nat
  | .local_ core off => some (bankUnit core off)
  | .tile cl off => some (slotUnit cl (off / 0x6000))
  | .plane cl off => some (slotUnit cl (off / 0x100))
  | .scratch c slot off => some (spUnit (clusterOfCtx c) (nth 0 (s.ctx c).slots slot) (off / 0x4000))
  | _ => none

/-- The item's unit is gated or waking (R145). -/
def State.winAsleep (s : State) (w : Win) : Bool :=
  match s.winUnit w with
  | some u => s.unitAsleep u
  | none => false

/-- An access that reaches a gated unit begins its wake-up (R145). -/
def State.winWake (s : State) (w : Win) : State :=
  match s.winUnit w with
  | some u => s.wakeUnit u
  | none => s

/-- The doublewords of a saved record that an access to it reads before it uses it: for a read the one it names, and the
dirty bits beside a register; for a write the dirty bits or the status that it merges with (R121, R309, R379). -/
def Ctx.recordReads (x : Ctx) (i off : Nat) (writes : Bool) : List Word :=
  let va := x.recordVa i
  (if off < 0xB8 then [va + 0xC0] else if off = 0xF0 ∧ writes then [va + 0xF0] else []) ++
    (if writes ∨ (x.recSide = 0 ∧ 0x100 ≤ off) then [] else [va + BitVec.ofNat 64 off])

/-- The doublewords of a saved record that a write of it stores (R121, R379). -/
def Ctx.recordWrites (x : Ctx) (i off : Nat) : List Word :=
  let va := x.recordVa i
  (if x.recSide = 0 ∧ 0x100 ≤ off then [] else [va + BitVec.ofNat 64 off]) ++ (if off < 0xB8 then [va + 0xC0] else [])

/-- The cause that stops an access to a window item which passes the rules of R120-R122: a doubleword of a saved record
fails its verification, or poison or quarantine refuses a write of it (R121, R310, R404, R406, R407). -/
def State.winBad (s : State) (win : Win) (writes : Bool) : Option (BitVec 8 × Nat) :=
  match win with
  | .micro c i off =>
    let x := s.ctx c
    if !x.inSave then none
    else
      match (x.recordReads i off writes).findSome? (s.saveBad c) with
      | some e => some e
      | none => if writes then (x.recordWrites i off).findSome? (s.saveRefused c) else none
  | _ => none

/-- The bits of a doubleword of a micro-thread record that it has: the others read zero (R375, R378). -/
def recordMask (off : Nat) : Word :=
  if off = 0xC0 then 0x007FFFFFFFFFFFFF else if off = 0xF0 then ~~~0x80F8 else 0xFFFFFFFFFFFFFFFF

/-- A window item read (R121, R313); storage is read with its check by the caller. -/
def State.winRead (s : State) (w : Win) : Word :=
  match w with
  | .control c off => s.ctlRead c (off / 8)
  | .vtab cl idx => look 0 (s.cluster cl).vtab idx
  | .micro c i off =>
    let x := s.ctx c
    if x.inSave then
      let va := x.recordVa i
      if off < 0xB8 ∧ !(s.saveRead c (va + 0xC0)).getLsbD (32 + off / 8) then 0
      else if x.recSide = 0 ∧ 0x100 ≤ off then 0
      else s.saveRead c (va + BitVec.ofNat 64 off) &&& recordMask off
    else x.mtRead (s.mt c i) (off / 8)
  | w =>
    match s.winKey w with
    | some k => readDw s.mem k
    | none => 0

/-- A store to a cluster's resident table: the TLB entries of its cores filled from the entry are discarded (R133). -/
def State.vtabWrite (s : State) (cl idx : Nat) (v : Word) : State :=
  { s.setCluster cl { s.cluster cl with vtab := put (s.cluster cl).vtab idx v } with
    tlb := s.tlb.filter (fun e => !(e.vector && clusterOf e.core == cl && e.root.toNat == idx / 4096 &&
      e.page / 4096 == idx % 4096)) }

/-- A window item written (R121); a record of 256 bytes has no accumulators, whatever shape is asked for (R69). -/
def State.winWrite (s : State) (l : Level) (w : Win) (v : Word) : State :=
  match w with
  | .control c off => s.setCtx c ((s.ctx c).ctlWrite (off / 8) v)
  | .vtab cl idx => s.vtabWrite cl idx v
  | .micro c i off =>
    let x := s.ctx c
    if x.inSave then
      let va := x.recordVa i
      let old := s.saveRead c (va + 0xF0)
      let v := if off = 0xF0 then (if l = .app then old else (v &&& ~~~0x7000000) ||| (old &&& 0x7000000)) else v
      let s := if x.recSide = 0 ∧ 0x100 ≤ off then s
        else s.saveWrite c (va + BitVec.ofNat 64 off) (v &&& recordMask off) false
      if off < 0xB8 then
        s.saveWrite c (va + 0xC0) (s.saveRead c (va + 0xC0) ||| (1 <<< (32 + off / 8))) false
      else s
    else
      s.putMt c i (x.mtWrite (s.mt c i) l (off / 8) v)
  | w =>
    match s.winKey w with
    | some k => putChip s k v
    | none => s

/-- The window item that a posted store goes to. -/
def Posted.win (p : Posted) : Win :=
  match placeOf p.pa with
  | .window cl off => winOf cl off
  | _ => .bad

/-- The context whose image or record a window is. -/
def Win.ownerNo (w : Win) : Nat := w.owner.getD 4096

/-- The number of the job that a waiting access belongs to (R49, R121). -/
def Posted.jobNum (p : Posted) : Nat := (p.op - 17) % 2 ^ 64

/-- The access of a job that waits at a register window (R49, R121). -/
def Posted.ofJob (p : Posted) (c : Nat) (num : Word) : Bool :=
  p.from_ == c && decide (17 ≤ p.op) && p.jobNum == num.toNat

/-- The waiting access is a read, of a context or of a job (R121). -/
def Posted.reads (p : Posted) : Bool := p.op == 16 || decide (17 + 2 ^ 64 ≤ p.op)

/-- A posted store is reported as failed (R121, R387, R432); a job whose write failed stops with its cause (R121, R389). -/
def State.reportPost (s : State) (p : Posted) (e : Exc) : State :=
  let x := s.ctx p.from_
  if 17 ≤ p.op then
    s.setCtx p.from_ { x with
      jobs := x.jobs.map (fun j => if p.jobNum = j.num.toNat then { j with fail := some e.cause } else j) }
  else s.setCtx p.from_ { x with postFaults := x.postFaults ++ [(p.level, e)] }

/-- A window item written by an access that passes the rules of R120-R122, or the cause of a failed verification, with its
record (R121, R310, R404). -/
def State.winPut (s : State) (part core : Nat) (l : Level) (w : Win) (v : Word) : Except (BitVec 8 × State) State :=
  match s.winBad w true with
  | some (k, pa) => .error (k, if k = 0x20 then s.mismatch 1 part core pa else s)
  | none => .ok (s.winWrite l w v)

/-- A register-window read comes back to the context or the job that waits for it: a value, or the cause that stopped it
(R121). -/
def State.readBack (s : State) (p : Posted) (v : Word) (e : Option Exc) : State :=
  if 17 ≤ p.op then
    match e with
    | some e => s.reportPost p e
    | none =>
      let x := s.ctx p.from_
      s.setCtx p.from_ { x with
        jobs := x.jobs.map (fun j => if p.jobNum = j.num.toNat then { j with got := put j.got p.va.toNat (.of v) } else j) }
  else
  match (s.ctx p.from_).run with
  | .parked (.window _ _) => s.setCtx p.from_ { s.ctx p.from_ with winBack := some (v, e) }
  | _ => s

/-- A waiting access of a register window is applied: a write, or a read whose data go back (R49, R121). -/
def State.applyWaiting (s : State) (p : Posted) : State :=
  if p.reads then
    match s.winBad p.win false with
    | some (k, pa) =>
      (if k = 0x20 then s.mismatch 1 (s.partOf (p.from_ / 4)) (p.from_ / 4) pa else s).readBack p 0
        (some { cause := k, val := causeVal k p.va })
    | none => s.readBack p (s.winRead p.win) none
  else
    match s.winPut (s.partOf (p.from_ / 4)) (p.from_ / 4) p.level p.win p.data with
    | .ok t => t
    | .error (k, t) => t.reportPost p { cause := k, val := causeVal k p.va }

/-- A waiting access meets the window fault (R121). -/
def State.failWaiting (s : State) (p : Posted) : State :=
  if p.reads then s.readBack p 0 (some { cause := 0x07, val := p.va })
  else s.reportPost p { cause := 0x07, val := p.va }

/-- The reads and writes that wait, in arrival order: one that cannot be applied keeps back those to the same owning
context (R49, R121). -/
def State.drainWaiting (s : State) : List Posted → List Nat → State
  | [], _ => s
  | p :: ps, back =>
    if back.contains p.win.ownerNo then { s with wbuf := s.wbuf ++ [p] }.drainWaiting ps back
    else
      match s.winState p.level p.win with
      | .go => (s.applyWaiting p).drainWaiting ps back
      | .fault => (s.failWaiting p).drainWaiting ps back
      | _ => { s with wbuf := s.wbuf ++ [p] }.drainWaiting ps (p.win.ownerNo :: back)

/-- Waiting register-window accesses whose owning context has opened are applied, in arrival order (R49, R121). -/
def State.drainBuf (s : State) : State := { s with wbuf := [] }.drainWaiting s.wbuf []

/-- A write to the window's owning context waits (R49). -/
def State.ownerWaits (s : State) (w : Win) : Bool :=
  w.owner.isSome && s.wbuf.any (fun p => p.win.owner == w.owner)

/-- The core whose window-write buffer a register window uses. -/
def Win.bufCore : Win → Nat
  | .control c _ => c / 4
  | .micro c _ _ => c / 4
  | _ => 0

/-- The writes waiting in a core's window-write buffer. -/
def State.bufUse (s : State) (core : Nat) : Nat :=
  (s.wbuf.filter (fun p => match placeOf p.pa with
    | .window cl off => (winOf cl off).bufCore == core
    | _ => false)).length

/-- The cluster of a window item. -/
def Win.cluster : Win → Nat
  | .local_ core _ => clusterOf core
  | .control c _ => clusterOfCtx c
  | .emu core _ => clusterOf core
  | .tile cl _ => cl
  | .plane cl _ => cl
  | .micro c _ _ => clusterOfCtx c
  | .vtab cl _ => cl
  | .scratch c _ _ => clusterOfCtx c
  | .bad => 0

/-- The store to the item is posted (R148): another core's window, or another cluster's windows but its table. -/
def Win.posted (w : Win) (core : Nat) : Bool :=
  match w with
  | .local_ k _ => k != core
  | .control c _ => c / 4 != core
  | .emu k _ => k != core
  | .vtab _ _ => false
  | w => w.cluster != clusterOf core

/-- The context's own local-memory bank is in use (R378). -/
def State.useBank (s : State) (c : Nat) : Win → State
  | .local_ core off =>
    if core = c / 4 then
      s.setCtx c { s.ctx c with lbanks := (s.ctx c).lbanks ||| (1 <<< (off / 0x8000)) }
    else s
  | _ => s

/-- The cause of a doubleword of on-chip storage that cannot be consumed, and the state with its record (R310, R404, R405). -/
def State.badChip (s : State) (w : Who) (key pa : Nat) (va : Word) : Option (Exc × State) :=
  if s.marks.contains (key / 8 * 8) then some ({ cause := 0x21, val := va &&& ~~~0xFF }, s) else s.badCheck w key pa va

/-- An item loaded where it lies, with the checks of what is memory form verified (R310, R313). -/
def State.winLoad (s : State) (w : Who) (win : Win) (pa : Nat) (va : Word) : Ans :=
  match s.winKey win with
  | some k =>
    match s.badChip w k pa va with
    | some (e, s) => .exc e s
    | none => .value (readDw s.mem k) (s.useBank w.c win)
  | none =>
    match s.winBad win false with
    | some (k, p) => .exc { cause := k, val := causeVal k va } (if k = 0x20 then s.mismatch w.kind w.part (w.core % 512) p else s)
    | none => .value (s.winRead win) s

/-- A control thread's window access (R120-R122, R148, R149, R156, R157): the checks at issue, then the core's own local
memory at once, other loads at their target, posted stores on their way, register windows under R49.  A store within the
cluster is an ordinary access: where it has to wait for a crew, the thread waits with it. -/
def State.winAccess (s : State) (w : Who) (win : Win) (pa : Nat) (va : Word) (op : MemOp) : Ans :=
  match s.winState w.level win with
  | .fault => .exc { cause := 0x07, val := va } s
  | st =>
    if s.winAsleep win then .stall (s.winWake win)
    else
      match op with
      | .load _ =>
        match win with
        | .local_ k _ | .emu k _ =>
          if k = w.core then s.winLoad w win pa va else .waits (.window pa va) s
        | _ => .waits (.window pa va) s
      | .store _ v =>
        let p : Posted := { from_ := w.c, level := w.level, va := va, pa := pa, data := v, width := 8, op := 0 }
        if win.posted w.core then .value 0 { s with posted := s.posted ++ [p] }
        else
          match (if s.ownerWaits win then WinSt.buffer else st) with
          | .go =>
            match (s.useBank w.c win).winPut w.part (w.core % 512) w.level win v with
            | .ok t => .value 0 t.drainBuf
            | .error (k, t) => .exc { cause := k, val := causeVal k va } t
          | .buffer => if s.bufUse win.bufCore < 32 then .value 0 { s with wbuf := s.wbuf ++ [p] } else .stall s
          | _ => .stall s
      | .amo _ _ _ _ => .exc { cause := 0x07, val := va } s

/-! ### The domain (R338-R341, R432) -/

/-- An access of the module's own slot is served at a local address, if that is one (R338). -/
def domainLocal (addr : Nat) : Bool := addr < 0x20000000000

/-- A control thread's access to another member (R339): a load waits for its data, a store is posted, and so is an atomic
whose old value no register takes; `keeps` says that one does, and then the thread waits for it (log 39).  One that cannot be
routed ends at issue, with the domain address (R432). -/
def State.domainAccess (s : State) (w : Who) (slot pa : Nat) (va : Word) (op : MemOp) (keeps : Bool) : Ans :=
  let p : Posted := { from_ := w.c, level := w.level, va := va, pa := pa, data := 0, width := op.width, op := 0 }
  if !s.ownsSlot w.part slot || !s.reachable slot then .exc { cause := 0x18, val := BitVec.ofNat 64 pa } s
  else
    match op with
    | .load n => .waits (.remote pa) (s.sendReq slot w.tag (domainPacket 1 pa n 0 0 0) [])
    | .store n v =>
      .value 0 ({ s with posted := s.posted ++ [{ p with data := v }] }.sendReq slot (tagOf 3 w.c 0)
        (domainPacket 2 pa n 0 v 0) [])
    | .amo n o v c =>
      if s.noAtomic w.c then .exc { cause := 0x2A, val := va } s
      else if keeps then .waits (.remote pa) ((s.noteAtomic w.c).sendReq slot w.tag (domainPacket 3 pa n o v c) [])
      else .value 0 ({ s.noteAtomic w.c with posted := s.posted ++ [{ p with data := v, op := 1 + o }] }.sendReq slot
        (tagOf 3 w.c 0) (domainPacket 3 pa n o v c) [])

/-- The access is of the form that windows take (R120, R221). -/
def MemOp.windowForm : MemOp → Bool
  | .amo _ _ _ _ => false
  | op => op.width == 8

/-- A translated access, by place (R116, R221, R325, R338): one through an attr 2 page is a window access, whose form is
checked before its place (R207, R399). -/
def State.place (s : State) (w : Who) (t : Tr) (va : Word) (op : MemOp) (keeps : Bool := true) : Ans :=
  match placeOf t.pa with
  | .window cl off =>
    if op.windowForm then s.winAccess w (winOf cl off) t.pa va op else .exc { cause := 0x07, val := va } s
  | p =>
    if t.attr = 2 ∧ (op.windowForm = false ∨ p ≠ .reserved) then .exc { cause := 0x07, val := va } s
    else
      match p with
      | .hub off =>
        if w.level = .app ∨ op.width ≠ 8 then .exc { cause := 0x18, val := va } s
        else
          match s.hubRead w.part (w.level = .fw) off, op with
          | none, _ => .exc { cause := 0x18, val := va } s
          | some v, .load _ =>
            if s.marks.contains (hubBase + off) then .exc { cause := 0x21, val := va &&& ~~~0xFF } s
            else if look 0 s.hubSynd off ≠ 0 then
              .exc { cause := 0x20, val := va } (s.mismatch w.kind w.part (w.core % 512) t.pa)
            else .value v s
          | some _, .store _ v => .value 0 (s.hubWrite w.part (w.level = .fw) off (.of v))
          | some _, .amo _ _ _ _ => .exc { cause := 0x18, val := va } s
      | .domain slot addr =>
        if slot = s.memberId.toNat then
          if domainLocal addr then s.memAccess w { pa := addr, skew := t.skew, attr := 1 } va op
          else .exc { cause := 0x18, val := va } s
        else s.domainAccess w slot t.pa va op keeps
      | .reserved => .exc { cause := 0x18, val := va } s
      | _ => s.memAccess w t va op

/-- The context as the maker of an access. -/
def State.who (s : State) (c : Nat) : Who :=
  { c := c, core := c / 4, part := s.partOf (c / 4), level := (s.ctx c).level, kind := 1, l1 := true,
    holder := 0x100000, tag := tagOf 0 c 0 }

/-- A scalar access of the current context, with the checks of R218 in their order; `keeps` says of an atomic that a
register takes its old value. -/
def State.access (s : State) (va : Word) (op : MemOp) (keeps : Bool := true) : Ans :=
  if !canonical va then .exc { cause := 0x03, val := va } s
  else if va.toNat % op.width ≠ 0 then .exc { cause := 0x04, val := va } s
  else
    match s.translate (s.who s.cur) va op.need with
    | .exc e s => .exc e s
    | .upcall s => .upcall va s
    | .wait s => .stall s
    | .ok t s => s.place (s.who s.cur) t va op keeps

/-! ### Upcalls (R134, R377) -/

/-- The next entry of a page-request queue can be written. -/
def State.prqFree (s : State) (q : PageQueue) : Bool :=
  match s.physRead (q.base + 32 * q.next + 24) 1 with
  | some l => !(nth 0 l 0).getLsbD 0
  | none => false

/-- An upcall delivered to the current context, or cause 0x19 to Sys where no request can be posted (R134, R377). -/
def State.deliver (s : State) (va : Word) : State :=
  let x := s.me
  let part := s.partOf (s.cur / 4)
  match s.prqs.find? (fun e => e.1 == part) with
  | none => s.trapAt s.cur x.pc { cause := 0x19, val := va }
  | some (_, q) =>
    if !s.prqFree q then s.trapAt s.cur x.pc { cause := 0x19, val := va }
    else
      let s := s.physWrite (q.base + 32 * q.next)
        [va, s.selfid s.cur, x.upnote, BitVec.ofNat 64 (packBits [(q.seqn, 32), (1, 0)])]
      let s := { s with prqs := put s.prqs part { q with next := (q.next + 1) % 2 ^ q.q, seqn := (q.seqn + 1) % 2 ^ 32 } }
      s.setMe { x with upepc := x.pc, upaddr := va, upcallEn := false, pc := x.upcallHandler &&& ~~~3, card := none, watching := none }

/-- What an access leaves where it did not give a value: the trap, the upcall, or the instruction to be run again. -/
def Ans.other (a : Ans) (s : State) : Res' :=
  match a with
  | .exc e t => .next (t.trapAt t.cur t.me.pc e)
  | .upcall va t => .next (t.deliver va)
  | .stall t => .next t
  | _ => .next s

/-! ### Instruction fetch (R16, R173, R396, R397) -/

/-- The words of a sector of code, none where a check fails or memory refuses it (R173, R396, R405, R407, R409). -/
def State.codeLine (s : State) (w : Who) (t : Tr) (va : Word) : Option (List IWord) :=
  let key := sectorOf (memKey t.skew t.pa) * 256
  if (badCheckIn s key 256).isSome || (s.memFault w t va false).isSome then none
  else some ((List.range 64).map (fun k => (readN s.mem (key + 4 * k) 4).setWidth 32))

/-- A core's instruction cache takes a sector of a cached page: it holds 256 lines, and a full one gives up a line that the
spec leaves open (R16, R124, R173; log 18). -/
def State.takeI (s : State) (w : Who) (t : Tr) (va : Word) : State :=
  let at_ := (w.core, sectorOf (memKey t.skew t.pa))
  match (if t.attr = 0 then s.codeLine w t va else none) with
  | none => s
  | some l =>
    let s := { s with icache := s.icache.filter (fun e => e.1 != at_) }
    let own := s.icache.filter (fun e => e.1.1 == w.core)
    if own.length < 256 then { s with icache := (at_, l) :: s.icache }
    else
      let v := (nth (at_, l) own ((Config.freeValue s.freeN).toNat % own.length)).1
      { s with freeN := s.freeN + 1, icache := (at_, l) :: s.icache.filter (fun e => e.1 != v) }

/-- A context's fetch buffer takes the words of a sector, of whatever page they lie on (R173, R396).  The spec gives a buffer no
size: it holds what the agenda has put into it and has not taken out (DESIGN CHOICE, log 18). -/
def State.takeF (s : State) (c : Nat) (w : Who) (t : Tr) (va : Word) : State :=
  let at_ := (c, sectorOf (memKey t.skew t.pa))
  match s.codeLine w t va with
  | none => s
  | some l => { s with fbuf := (at_, l) :: s.fbuf.filter (fun e => e.1 != at_) }

/-- A cluster's block cache takes a sector of a cached page: it holds 256 lines, like an instruction cache (R16, R173). -/
def State.takeB (s : State) (cl : Nat) (w : Who) (t : Tr) (va : Word) : State :=
  let at_ := sectorOf (memKey t.skew t.pa)
  match (if t.attr = 0 then s.codeLine w t va else none) with
  | none => s
  | some l =>
    let k := s.cluster cl
    let own := k.bcache.filter (fun e => e.1 != at_)
    if own.length < 256 then s.setCluster cl { k with bcache := (at_, l) :: own }
    else
      let v := (nth (at_, l) own ((Config.freeValue s.freeN).toNat % own.length)).1
      { s with freeN := s.freeN + 1 }.setCluster cl { k with bcache := (at_, l) :: own.filter (fun e => e.1 != v) }

/-- The cause of a failed translation or read as a fetch gives it (R396): what a walk could not read goes to Sys with the
entry's physical address (R412), a check, poison or quarantine of the word with the pc. -/
def fetchCause (e : Exc) (pc : Word) : Exc :=
  if e.cause = 0x20 ∨ e.cause = 0x21 ∨ e.cause = 0x22 then e else { cause := 0x09, val := pc }

/-- A fetched word, or the cause (R396); with no cause the fetch has to wait (R151, R415).  A core's instruction cache may
hold the word's line, and takes it where it does not, or the context's fetch buffer may hold the word; the checks are made against the translation in force all the same
(R173). -/
def State.fetch (s : State) (c : Nat) (pc : Word) : Except (Option Exc) IWord × State :=
  let w := { s.who c with kind := 10, l1 := false }
  let x := s.ctx c
  if x.codebound.toNat ≤ pc.toNat then (.error (some { cause := 0x0A, val := pc }), s)
  else if !canonical pc then (.error (some { cause := 0x09, val := pc }), s)
  else
    match s.translate w pc .x with
    | .exc e s => (.error (some (fetchCause e pc)), s)
    | .upcall s => (.error (some { cause := 0x09, val := pc }), s)
    | .wait s => (.error none, s)
    | .ok t s =>
      if t.attr = 2 ∨ ¬ (t.pa < 0x25000000000) then (.error (some { cause := 0x09, val := pc }), s)
      else
        match (match s.icache.find? (fun e => e.1 == (c / 4, sectorOf (memKey t.skew t.pa))) with
            | some e => some e
            | none => s.fbuf.find? (fun e => e.1 == (c, sectorOf (memKey t.skew t.pa)))) with
        | some (_, line) => (.ok (nth 0 line (t.pa % 256 / 4)), s)
        | none =>
          match s.memAccess w { t with pa := t.pa / 4 * 4 } pc (.load 4) with
          | .value v s => (.ok (v.setWidth 32), s.takeI w t pc)
          | .exc e s => (.error (some { cause := e.cause, val := pc }), s)
          | .stall s => (.error none, s)
          | _ => (.error (some { cause := 0x09, val := pc }), s)

end Sys2Proof.Machine
end

