-- ==== Sys2Proof/Machine/Operands.lean ====
section
/-!
DEFINITION. The operands of Zavan-W words and how a word runs on a micro-thread inside its block (R190-R194, R230-R234):
guard, register and predicate reads, link-in pops, writes and pushes, elements of packed words, and the draws of
stochastic rounding.
-/

namespace Sys2Proof.Machine

/-- How a word ends on a micro-thread: it issued, it holds (R47, R392), or it faults and ends the block (R232). -/
inductive WRes where
  | go (b : Blk) (s : State)
  | hold (s : State)
  /-- It issues again later: a sector that another block holds, a Copying line (R151, R415). -/
  | wait (s : State)
  | fault (e : Exc) (s : State)

/-- The current micro-thread. -/
def State.myMt (s : State) : Mt := s.mt s.cur s.curMt

/-- The block in progress on the current micro-thread replaced. -/
def State.setBlk (s : State) (b : Blk) : State := s.setMt s.cur s.curMt { s.myMt with blk := some b }

/-- A predicate as the block sees it (R191). -/
def Blk.pred (b : Blk) (n : Nat) : Bool := b.p.getLsbD n

/-- The guard holds (R191). -/
def Blk.guard (b : Blk) (h : WHdr) : Bool :=
  if h.gp = 127 then h.n == 0 else b.pred h.gp.toNat != (h.n == 1)

/-- A source register (R192, R230): `w30` takes the next link-in entry, none while the queue holds no more. -/
def Blk.src (b : Blk) (q : List Word) (r : RegNo) : Option (Word × Blk) :=
  if r = 0 then some (0, b)
  else if r.toNat ≤ 23 then some (look 0 b.w r.toNat, b)
  else if r.toNat ≤ 29 then some (look 0 b.cap.cs (r.toNat - 24), b)
  else if r = 30 then (if b.pops < q.length then some (nth 0 q b.pops, { b with pops := b.pops + 1 }) else none)
  else some (0, b)

/-- A destination register (R192, R379): `w0` discards, `w31` pushes. -/
def Blk.dst (b : Blk) (r : RegNo) (v : Word) : Blk :=
  if r = 0 then b
  else if r.toNat ≤ 23 then { b with w := put b.w r.toNat v, dirty := b.dirty ||| (1 <<< (r.toNat - 1)) }
  else if r = 31 then { b with pushes := b.pushes ++ [v] }
  else b

/-- A predicate written: p(32*bank + field) (R192). -/
def Blk.setPred (b : Blk) (bank : BitVec 2) (r : RegNo) (v : Bool) : Blk :=
  let n := 32 * bank.toNat + r.toNat
  { b with p := if v then b.p ||| ((1 : BitVec 96) <<< n) else b.p &&& ~~~((1 : BitVec 96) <<< n) }

/-- The predicate of a bank and field (R192). -/
def Blk.predAt (b : Blk) (bank : BitVec 2) (r : RegNo) : Bool := b.pred (32 * bank.toNat + r.toNat)

/-- Flags pending in the block (R233). -/
def Blk.flag (b : Blk) (f : BitVec 7) : Blk := { b with flags := b.flags ||| f }

/-- The global index of a micro-thread (R104, R250). -/
def Blk.gidx (b : Blk) (i : Nat) : Word := b.cap.vbase + BitVec.ofNat 64 i

/-- The rounding of element `j` of the word's result: the captured mode, and the draw of R104. -/
def Blk.rnd (b : Blk) (i j : Nat) : Rnd :=
  let ctr := (b.gidx i).toNat % 2 ^ 38 + 2 ^ 38 * (j / 4) + 2 ^ 40 * b.pos + 2 ^ 45 * (b.k % 2 ^ 19)
  { mode := b.cap.wrm, draw := drawOf (mix64 b.cap.srnkey (BitVec.ofNat 64 ctr)) (j % 4) }

/-- The tick at which the current block began to hold, unless it waits for data (R80). -/
def State.noteHold (s : State) : State :=
  match s.myMt.blk with
  | some b => if b.wait.isSome then s else s.setBlk { b with heldSince := some (b.heldSince.getD s.now) }
  | none => s

/-- The load that the current block is at has still to return (R82). -/
def State.noteStall (s : State) : State :=
  match s.myMt.blk with
  | some b => s.setBlk { b with stalled := true }
  | none => s

/-- A Zavan-W word runs on the current micro-thread (R230-R232): without a guard it has no effect; while the block
waits for data or for firmware it holds; a fault ends the block. -/
def State.word (s : State) (h : WHdr) (f : Blk → WRes) : Res' :=
  match s.myMt.blk with
  | none => .fault .noBlock
  | some b =>
    if b.trip || b.wait.isSome then .next s
    else if b.guard h then
      match f b with
      | .go b t => .next (t.setBlk { b with pos := b.pos + 1, heldSince := none, stalled := false })
      | .hold t => .next t.noteHold
      | .wait t => .next t
      | .fault e t => .next (t.mtFault t.cur t.curMt t.myMt e)
    else .next (s.setBlk { b with pos := b.pos + 1 })

/-- Two sources, a result and flags. -/
def State.wordF2 (s : State) (h : WHdr) (wd wa wb : RegNo) (f : Blk → Word → Word → Word × BitVec 7) : Res' :=
  s.word h (fun b =>
    match b.src s.myMt.linkq wa with
    | none => .hold s
    | some (x, b1) =>
      match b1.src s.myMt.linkq wb with
      | none => .hold s
      | some (y, b2) => .go ((b2.dst wd (f b x y).1).flag (f b x y).2) s)

/-- Two sources and a result without flags. -/
def State.word2 (s : State) (h : WHdr) (wd wa wb : RegNo) (f : Word → Word → Word) : Res' :=
  s.wordF2 h wd wa wb (fun _ x y => (f x y, 0))

/-- One source, a result and flags. -/
def State.wordF1 (s : State) (h : WHdr) (wd wa : RegNo) (f : Blk → Word → Word × BitVec 7) : Res' :=
  s.word h (fun b =>
    match b.src s.myMt.linkq wa with
    | none => .hold s
    | some (x, b1) => .go ((b1.dst wd (f b x).1).flag (f b x).2) s)

/-- Three sources, the third the destination itself (R239). -/
def State.wordF3 (s : State) (h : WHdr) (wd wa wb : RegNo) (f : Blk → Word → Word → Word → Word × BitVec 7) : Res' :=
  s.wordF2 h wd wa wb (fun b x y => f b x y (look 0 b.w wd.toNat))

/-- A compare writes one predicate (R237). -/
def State.wordCmp (s : State) (h : WHdr) (bank : BitVec 2) (pd wa wb : RegNo) (f : Word → Word → Bool × BitVec 7) :
    Res' :=
  s.word h (fun b =>
    match b.src s.myMt.linkq wa with
    | none => .hold s
    | some (x, b1) =>
      match b1.src s.myMt.linkq wb with
      | none => .hold s
      | some (y, b2) => .go ((b2.setPred bank pd (f x y).1).flag (f x y).2) s)

/-- Predicate logic (R238). -/
def State.wordPred (s : State) (h : WHdr) (bank : BitVec 2) (pd : RegNo) (f : Blk → Bool) : Res' :=
  s.word h (fun b => .go (b.setPred bank pd (f b)) s)

/-! ### Elements of packed words (R193, R239) -/

/-- The format of a format-coded sz (R193). -/
def fmtOf (fm : BitVec 2) : Fmt := if fm = 0 then f64 else if fm = 1 then f32 else if fm = 2 then f16 else bf16

/-- Element `j` of `w` bits. -/
def elem (w : Nat) (x : Word) (j : Nat) : Nat := x.toNat / 2 ^ (w * j) % 2 ^ w

/-- Elements put together, with their flags. -/
def packElems (w : Nat) : List (Nat × BitVec 7) → Nat × BitVec 7
  | [] => (0, 0)
  | (v, f) :: l => let (r, g) := packElems w l; (v % 2 ^ w + 2 ^ w * r, f ||| g)

/-- A packed result, element by element. -/
def mapElems (w n : Nat) (f : Nat → Nat × BitVec 7) : Word × BitVec 7 :=
  let (v, fl) := packElems w ((List.range n).map f)
  (BitVec.ofNat 64 v, fl)

/-- An operation on the elements of two operands (R239). -/
def State.wordElems2 (s : State) (h : WHdr) (wd wa wb : RegNo) (fm : BitVec 2)
    (f : Fmt → Rnd → Nat → Nat → Nat × BitVec 7) : Res' :=
  let t := fmtOf fm
  s.wordF2 h wd wa wb (fun b x y =>
    mapElems t.width (64 / t.width) (fun j => f t (b.rnd s.curMt j) (elem t.width x j) (elem t.width y j)))

/-- An operation on the elements of one operand. -/
def State.wordElems1 (s : State) (h : WHdr) (wd wa : RegNo) (fm : BitVec 2)
    (f : Fmt → Rnd → Nat → Nat × BitVec 7) : Res' :=
  let t := fmtOf fm
  s.wordF1 h wd wa (fun b x =>
    mapElems t.width (64 / t.width) (fun j => f t (b.rnd s.curMt j) (elem t.width x j)))

/-- A fused operation on the elements of three operands. -/
def State.wordElems3 (s : State) (h : WHdr) (wd wa wb : RegNo) (fm : BitVec 2)
    (f : Fmt → Rnd → Nat → Nat → Nat → Nat × BitVec 7) : Res' :=
  let t := fmtOf fm
  s.wordF3 h wd wa wb (fun b x y z =>
    mapElems t.width (64 / t.width) (fun j =>
      f t (b.rnd s.curMt j) (elem t.width x j) (elem t.width y j) (elem t.width z j)))

/-! ### Emulated words (R196, R199, R391, R392) -/

/-- The disposition record (R199): `vldb` and the trigonometric words are retired on this part. -/
def State.disposition (s : State) : Word := 0x60 ||| s.img.disposition.setWidth 64

/-- The unit class of a bit is emulated. -/
def State.emulated (s : State) (bit : Nat) : Bool := s.disposition.getLsbD bit

/-- The sources of a word in the order they pop (R192); none while the link-in queue is empty. -/
def Blk.srcs (b : Blk) (q : List Word) : List RegNo → Option (List Word × Blk)
  | [] => some ([], b)
  | r :: rs =>
    match b.src q r with
    | none => none
    | some (v, c) => (c.srcs q rs).map (fun p => (v :: p.1, p.2))

/-- A request of a context for the emulation record of its core, for its own instruction, 0, or for a micro-thread's trip:
requests are served in their order (R392). -/
def State.queueTrip (s : State) (c n : Nat) : State :=
  { s with emuQ := put s.emuQ (c / 4) (look [] s.emuQ (c / 4) ++ [(c, n)]) }

/-- An emulated word holds its block, whatever its guard, and asks for a trip (R392); while an operand is an entry of an
empty link-in queue it holds as a native word would (R47, R80, R359). -/
def State.askTrip (s : State) (h : WHdr) (rs : List RegNo) : Res' :=
  match s.myMt.blk with
  | none => .fault .noBlock
  | some b =>
    if b.trip || b.wait.isSome then .next s
    else if b.guard h && (b.srcs s.myMt.linkq rs).isNone then .next s.noteHold
    else
      let t := s.setBlk { b with trip := true, tripNo := s.me.tripSeq, heldSince := none }
      .next ((t.setMe { t.me with trips := t.me.trips ++ [(t.curMt, b.addr, b.pos)], tripSeq := t.me.tripSeq + 1 }).queueTrip
        t.cur (s.me.tripSeq + 1))

/-- A word of a unit class: run here, or by firmware when the class is emulated (R199). -/
def State.unitWord (s : State) (bit : Nat) (h : WHdr) (rs : List RegNo) (native : Res') : Res' :=
  if s.emulated bit then s.askTrip h rs else native

/-! ### The scratchpad's elements (R129, R247) -/

/-- The place of an element: its first bit within the lane and its width, none out of range (R247). -/
def spPlace (bfmt : Word) (e : Word) : Option (Nat × Nat × Nat) :=
  let b := bits e 16 2
  let code := bits bfmt (8 * b) 5
  let w := fmtBits code
  let first := w * bits e 0 16
  if bits e 18 46 = 0 ∧ first + w ≤ 8 * (if b = 3 then 0x3000 else 0x4000) then some (8 * 0x4000 * b + first, w, code)
  else none

/-- The bits of a lane's scratchpad. -/
def readBits (m : List Host.Cell) (key bit w : Nat) : Nat :=
  leNat (readBytes m (key + bit / 8) ((bit % 8 + w + 7) / 8)) / 2 ^ (bit % 8) % 2 ^ w

/-- Bits written, with the checks of the doublewords they touch (R247). -/
def putBits (s : State) (key bit w v : Nat) : State :=
  let n := (bit % 8 + w + 7) / 8
  let a := key + bit / 8
  let old := leNat (readBytes s.mem a n)
  let lo := 2 ^ (bit % 8)
  { putBytes s a (toLe (old % lo + lo * (v % 2 ^ w) + 2 ^ (bit % 8 + w) * (old / 2 ^ (bit % 8 + w))) n) with
    marks := dropMarks s.marks (a / 8 * 8) (a % 8 + n) }

/-- What a typed load delivers (R129).  Of a signalling FP16 or BF16 NaN R129 and R247 name no flag, and R107's flag of a convert
is not taken over: the load gives the canonical quiet NaN and sets no flag (DESIGN CHOICE, log 123). -/
def spValue (code v : Nat) : Word :=
  match fpFmt code with
  | some f => if code = 1 then BitVec.ofNat 64 v
      else if code = 2 then BitVec.ofNat 64 v
      else BitVec.ofNat 64 ((FpFmt.bin f32).convert { mode := 0, draw := 0 }
        (match f.decode v with
         | .nan _ n => .nan false n
         | x => x)).1
  | none => if code = 0 then BitVec.ofNat 64 v else BitVec.ofInt 64 (intDecode code v)

/-- What a typed store writes, with its flags (R247). -/
def spStored (code : Nat) (rd : Rnd) (v : Word) : Nat × BitVec 7 :=
  if code = 0 ∨ code = 1 ∨ code = 12 ∨ code = 16 then (v.toNat, 0)
  else if code = 2 then (v.toNat % 2 ^ 32, 0)
  else
    match fpFmt code with
    | some f => f.convert rd ((FpFmt.bin f32).decode (v.toNat % 2 ^ 32))
    | none =>
      match intRange code with
      | some (lo, hi) =>
        let (i, fl) := saturate lo hi (if code = 10 ∨ code = 11 then v.toInt else v.toNat)
        (intBits (fmtBits code) i, fl)
      | none => (v.toNat, 0)

end Sys2Proof.Machine
end

