-- ==== Sys2Proof/Machine/Numeric.lean ====
section
/-!
DEFINITION. Results of integer and floating instructions as functions of their operands, shared by the meanings and by
the firmware that performs emulated instructions with bit-identical results (R199, R209).
-/

namespace Sys2Proof.Machine

/-- 1 where a comparison holds, else 0 (R210). -/
def flagWord (b : Bool) : Word := if b then 1 else 0

/-- The number of zero bits above the highest one bit of the low `n` bits (R210). -/
def leadingZeros (x : Word) : Nat → Nat
  | 0 => 0
  | n + 1 => if x.getLsbD n then 0 else leadingZeros x n + 1

/-- The number of zero bits below the lowest one bit, from bit `64 - n` up (R210). -/
def trailingZeros (x : Word) : Nat → Nat
  | 0 => 0
  | n + 1 => if x.getLsbD (63 - n) then 0 else trailingZeros x n + 1

/-- The number of one bits among the low `n` (R210). -/
def oneBits (x : Word) : Nat → Nat
  | 0 => 0
  | n + 1 => (if x.getLsbD n then 1 else 0) + oneBits x n

/-- Signed minimum and maximum (R210). -/
def smin (x y : Word) : Word := if x.toInt ≤ y.toInt then x else y
/-- Signed maximum. -/
def smax (x y : Word) : Word := if x.toInt ≤ y.toInt then y else x
/-- Unsigned minimum. -/
def umin (x y : Word) : Word := if x.toNat ≤ y.toNat then x else y
/-- Unsigned maximum. -/
def umax (x y : Word) : Word := if x.toNat ≤ y.toNat then y else x

/-- Bits 127:64 of a product of integers (R212). -/
def hiProduct (a b : Int) : Word := BitVec.ofInt 64 (a * b / 2 ^ 64)

/-- `div` (R212, R97). -/
def sdivide (x y : Word) : Word × BitVec 7 :=
  if y = 0 then (BitVec.ofInt 64 (-1), fIZ)
  else if x.toInt = -2 ^ 63 ∧ y.toInt = -1 then (x, fIZ)
  else (BitVec.ofInt 64 (x.toInt.tdiv y.toInt), 0)

/-- `rem` (R212, R97). -/
def sremainder (x y : Word) : Word × BitVec 7 :=
  if y = 0 then (x, fIZ)
  else if x.toInt = -2 ^ 63 ∧ y.toInt = -1 then (0, fIZ)
  else (BitVec.ofInt 64 (x.toInt - y.toInt * x.toInt.tdiv y.toInt), 0)

/-- `divu` (R212, R97). -/
def udivide (x y : Word) : Word × BitVec 7 :=
  if y = 0 then (0xFFFFFFFFFFFFFFFF, fIZ) else (BitVec.ofNat 64 (x.toNat / y.toNat), 0)

/-- `remu` (R212, R97). -/
def uremainder (x y : Word) : Word × BitVec 7 :=
  if y = 0 then (x, fIZ) else (BitVec.ofNat 64 (x.toNat % y.toNat), 0)

/-- Class 3 by its position in R212: `mul`, `mulh`, `mulhu`, `mulhsu`, `div`, `divu`, `rem`, `remu`. -/
def mulDiv (k : Nat) (x y : Word) : Word × BitVec 7 :=
  match k with
  | 0 => (x * y, 0)
  | 1 => (hiProduct x.toInt y.toInt, 0)
  | 2 => (hiProduct x.toNat y.toNat, 0)
  | 3 => (hiProduct x.toInt y.toNat, 0)
  | 4 => sdivide x y
  | 5 => udivide x y
  | 6 => sremainder x y
  | _ => uremainder x y

/-- The format of a class 4 instruction by its P bit (R213). -/
def scalarFmt (p : BitVec 1) : Fmt := if p = 0 then f32 else f64

/-- The bits of a scalar operand: FP32 from bits 31:0 (R213). -/
def scalarBits (p : BitVec 1) (x : Word) : Nat := if p = 0 then x.toNat % 2 ^ 32 else x.toNat

/-- A result with its flags as a register value: FP32 with zeros above (R90, R213). -/
def fpWord (r : Nat × BitVec 7) : Word × BitVec 7 := (BitVec.ofNat 64 r.1, r.2)

/-- `fdiv` of two codes (R214). -/
def fpDivCodes (f : Fmt) (rd : Rnd) (x y : Nat) : Nat × BitVec 7 := fpDiv f rd (f.decode x) (f.decode y)

/-- `fsqrt` of a code (R214). -/
def fpSqrtCode (f : Fmt) (rd : Rnd) (x : Nat) : Nat × BitVec 7 := fpSqrt f rd (f.decode x)

/-- A special function of a code (R240): 0 `exp2`, 1 `log2`, 2 `rcp`, 3 `rsqrt`. -/
def fpSpecial (k : Nat) (f : Fmt) (rd : Rnd) (x : Nat) : Nat × BitVec 7 :=
  let a := f.decode x
  match k with
  | 0 => fpExp2 f rd a
  | 1 => fpLog2 f rd a
  | 2 => fpRcp f rd a
  | _ => fpRsqrt f rd a

end Sys2Proof.Machine
end

