-- ==== Sys2Proof/Machine/Emulation.lean ====
section
/-!
DEFINITION. Emulated and retired instructions (R196-R199, R391-R395): the emulation record of a core, the trap to Fw,
what firmware writes into the record, and what the core applies at `eret`.
-/

namespace Sys2Proof.Machine

/-- The core's record serves no trip (R392). -/
def State.emuFree (s : State) (core : Nat) : Bool :=
  ((List.range 4).all (fun k => (s.ctx (4 * core + k)).emu.isNone))

/-- An entry of the record (R393): operands, no result, local index and guard. -/
def emuEntry (a b : Word) (i : Nat) (guard : Bool) : List Word :=
  [a, b, 0, BitVec.ofNat 64 (i + (if guard then 2 ^ 15 else 0))]

/-- The record of a trip (R393); what is left of the 20 KiB stays as it was. -/
def emuRecord (word : IWord) (kind : Nat) (addr : Word) (count : Nat) (modes srnkey base vlv : Word)
    (entries : List (List Word)) : List Word :=
  [BitVec.ofNat 64 (word.toNat + kind * 2 ^ 32), addr, BitVec.ofNat 64 count, modes, srnkey, base, vlv, 0] ++
    List.replicate 24 0 ++ entries.flatten

/-- The trap of a trip (R372, R392): the record is filled and the context goes to Fw at an address. -/
def State.trip (s : State) (c : Nat) (kind : Nat) (word : IWord) (rec : List Word) : State :=
  let s := { putDws s (emuKey (c / 4)) rec with marks := dropMarks s.marks (emuKey (c / 4)) (8 * rec.length) }
  let x := s.ctx c
  s.setCtx c { x.trap x.pc { cause := 0x13, val := wordVal (some word) } with emu := some (kind, word) }

/-- A request still stands: that of a micro-thread, or of a context that is at the instruction at which it began to wait. -/
def Ctx.wantsTrip (x : Ctx) (n : Nat) : Bool := (n != 0 && !x.trips.isEmpty) || (n == 0 && x.emuAt == some x.pc)

/-- The context is the first in request order of those that want their core's record, or nobody waits (R392). -/
def State.firstTrip (s : State) (c : Nat) : Bool :=
  match (look [] s.emuQ (c / 4)).find? (fun e => (s.ctx e.1).wantsTrip e.2) with
  | none => true
  | some e => e.1 == c

/-- Requests of a context, by their numbers, leave the queue of its core. -/
def State.leaveTripQ (s : State) (c : Nat) (f : Nat → Bool) : State :=
  { s with emuQ := put s.emuQ (c / 4) ((look [] s.emuQ (c / 4)).filter (fun e => !(e.1 == c && f e.2))) }

/-- A Zavan-C instruction traps before it has any effect (R392); while the core's record serves another trip, or others
asked before, it waits its turn. -/
def State.tripHere (s : State) (kind : Nat) (word : IWord) (rec : List Word) : Res' :=
  if s.emuFree (s.cur / 4) && s.firstTrip s.cur then
    .next (((s.leaveTripQ s.cur (· == 0)).setMe { s.me with emuAt := none }).trip s.cur kind word rec)
  else
    let t := if s.me.emuAt = some s.me.pc then s else (s.leaveTripQ s.cur (· == 0)).queueTrip s.cur 0
    .next (t.setMe { t.me with emuAt := some t.me.pc })

/-- An emulated Zavan-C instruction (R392). -/
def State.emulate (s : State) (i : Instr) (a b : Word) : Res' :=
  let word := (encode i).getD 0
  s.tripHere 0 word (emuRecord word 0 s.me.pc 1 (s.me.crm.setWidth 64) 0 0 0 [emuEntry a b 0 true])

/-- A Zavan-C instruction of a unit class (R209): run here, or emulated. -/
def State.unitC (s : State) (b : Nat) (i : Instr) (x y : Word) (native : Res') : Res' :=
  if s.emulated b then s.emulate i x y else native

/-- A doubleword of a core's emulation record. -/
def State.emuWord (s : State) (core off : Nat) : Word := readDw s.mem (emuKey core + off)

/-- Field `k` of entry `i` of the record (R393). -/
def State.emuField (s : State) (core i k : Nat) : Word := s.emuWord core (0x100 + 32 * i + 8 * k)

/-! ### What firmware computes (R197, R209, R391) -/

/-- An emulated Zavan-C word's result under a rounding mode. -/
def nativeC (i : Instr) (mode : BitVec 3) (a b : Word) : Word × BitVec 7 :=
  let rd : Rnd := { mode := mode, draw := 0 }
  match i with
  | .mul _ _ _ => mulDiv 0 a b
  | .mulh _ _ _ => mulDiv 1 a b
  | .mulhu _ _ _ => mulDiv 2 a b
  | .mulhsu _ _ _ => mulDiv 3 a b
  | .div _ _ _ => mulDiv 4 a b
  | .divu _ _ _ => mulDiv 5 a b
  | .rem _ _ _ => mulDiv 6 a b
  | .remu _ _ _ => mulDiv 7 a b
  | .fdiv _ _ _ p => fpWord (fpDivCodes (scalarFmt p) rd (scalarBits p a) (scalarBits p b))
  | .fsqrt _ _ p => fpWord (fpSqrtCode (scalarFmt p) rd (scalarBits p a))
  | _ => (0, 0)

/-- Elements of one operand. -/
def elems1 (fm : BitVec 2) (rd : Nat → Rnd) (f : Fmt → Rnd → Nat → Nat × BitVec 7) (x : Word) : Word × BitVec 7 :=
  let t := fmtOf fm
  mapElems t.width (64 / t.width) (fun j => f t (rd j) (elem t.width x j))

/-- Elements of two operands. -/
def elems2 (fm : BitVec 2) (rd : Nat → Rnd) (f : Fmt → Rnd → Nat → Nat → Nat × BitVec 7) (x y : Word) :
    Word × BitVec 7 :=
  let t := fmtOf fm
  mapElems t.width (64 / t.width) (fun j => f t (rd j) (elem t.width x j) (elem t.width y j))

/-- An emulated Zavan-W word's result; `fsin.s2` and `fcos.s2` round by RNE (R197). -/
def nativeW (i : Instr) (rd : Nat → Rnd) (a b : Word) : Word × BitVec 7 :=
  match i with
  | .wDiv _ _ _ _ => mulDiv 4 a b
  | .wDivu _ _ _ _ => mulDiv 5 a b
  | .wRem _ _ _ _ => mulDiv 6 a b
  | .wRemu _ _ _ _ => mulDiv 7 a b
  | .wFdiv _ _ _ _ fm => elems2 fm rd fpDivCodes a b
  | .wFsqrt _ _ _ fm => elems1 fm rd fpSqrtCode a
  | .wExp2 _ _ _ fm => elems1 fm rd (fpSpecial 0) a
  | .wLog2 _ _ _ fm => elems1 fm rd (fpSpecial 1) a
  | .wRcp _ _ _ fm => elems1 fm rd (fpSpecial 2) a
  | .wRsqrt _ _ _ fm => elems1 fm rd (fpSpecial 3) a
  | .wFsinS2 _ _ _ => mapElems 32 2 (fun j => fpTrig true (elem 32 a j))
  | .wFcosS2 _ _ _ => mapElems 32 2 (fun j => fpTrig false (elem 32 a j))
  | _ => (0, 0)

/-- The draws that a record's modes, key and index give (R104, R393). -/
def emuRnd (modes srnkey vbase : Word) (i j : Nat) : Rnd :=
  let g := vbase + BitVec.ofNat 64 i
  let ctr := g.toNat % 2 ^ 38 + 2 ^ 38 * (j / 4) + 2 ^ 40 * bits modes 8 5 + 2 ^ 45 * (bits modes 32 32 % 2 ^ 19)
  { mode := modes.extractLsb' 0 3, draw := drawOf (mix64 srnkey (BitVec.ofNat 64 ctr)) (j % 4) }

/-- The context whose trip a core's record serves. -/
def State.emuCtx (s : State) (core : Nat) : Option Nat :=
  ((List.range 4).map (4 * core + ·)).find? (fun c => (s.ctx c).emu.isSome)

/-- The one read of `vldb` (R198): the aligned doubleword at `ra` through the vector port, at the level trapped from, with
the checks of R260; with no cause it has still to wait (R151, R339, R415). -/
def State.vldbRead (s : State) (c : Nat) (va : Word) : Except (Option Exc) Word × State :=
  let x := s.ctx c
  let w : Who := { s.who c with level := Level.ofCode x.ft.plev, kind := 2, l1 := false, tag := tagOf 4 c 0 }
  if !canonical va then (.error (some { cause := 0x03, val := va }), s)
  else if va.toNat % 8 ≠ 0 then (.error (some { cause := 0x04, val := va }), s)
  else
    match s.vecTr (clusterOfCtx c) x.vspace.toNat w.level va .r with
    | none => (.error (some { cause := 0x06, val := va }), s)
    | some t =>
      match placeOf t.pa with
      | .window _ _ => (.error (some { cause := 0x07, val := va }), s)
      | _ =>
        match s.place w t va (.load 8) with
        | .value v s => (.ok v, s)
        | .exc e s => (.error (some e), s)
        | .waits (.remote pa) s => (.error none, s.setCtx c { s.ctx c with fwWait := some pa })
        | .stall s => (.error none, s)
        | _ => (.error none, s)

/-- The result of `vldb`'s read for a context: in the record the value for every entry, or the cause, whose stval is kept for
the `eret` (R198, R393, R394). -/
def State.vldbResult (s : State) (c : Nat) (r : Except Exc Word) : State :=
  let core := c / 4
  match r with
  | .error e => (putChip s (emuKey core + 0x38) (e.cause.setWidth 64)).setCtx c { s.ctx c with fwVal := some e.val }
  | .ok v =>
    (List.range (min (s.emuWord core 0x10).toNat 512)).foldl (fun s k =>
      let s := putChip s (emuKey core + 0x110 + 32 * k) v
      putChip s (emuKey core + 0x118 + 32 * k) (s.emuField core k 3 &&& 0x83FF)) s

/-- Dunsen firmware performs the word of a core's record and writes the results into it (R391, R393); a `vldb` with no
element left reads nothing (R255; log 30). -/
def State.serve (s : State) (core : Nat) : State :=
  match s.emuCtx core with
  | none => s
  | some c =>
    let key := emuKey core
    let word : IWord := (s.emuWord core 0).setWidth 32
    let count := (s.emuWord core 0x10).toNat
    let modes := s.emuWord core 0x18
    let write := fun (s : State) (i : Nat) (r : Word × BitVec 7) =>
      let s := putChip s (key + 0x110 + 32 * i) r.1
      putChip s (key + 0x118 + 32 * i)
        ((s.emuField core i 3 &&& 0x83FF) ||| BitVec.ofNat 64 (r.2.toNat * 2 ^ 16))
    match (s.ctx c).emu with
    | some (0, _) =>
      match decodeC word with
      | .ok i => write s 0 (nativeC i (modes.extractLsb' 0 3) (s.emuField core 0 0) (s.emuField core 0 1))
      | .error _ => s
    | some (1, _) =>
      match decodeW word with
      | .ok i =>
        (List.range (min count 512)).foldl (fun s k =>
          write s k (nativeW i
            (emuRnd modes (s.emuWord core 0x20) (s.emuWord core 0x28) ((s.emuField core k 3).toNat % 1024))
            (s.emuField core k 0) (s.emuField core k 1))) s
      | .error _ => s
    | _ =>
      if count = 0 ∨ (s.ctx c).fwWait.isSome then s
      else
        match s.vldbRead c (s.emuWord core 0x28) with
        | (.ok v, s) => s.vldbResult c (.ok v)
        | (.error (some e), s) => s.vldbResult c (.error e)
        | (.error none, s) => s

/-! ### The record applied at `eret` (R394) -/

/-- The block of a micro-thread waits for the trip in service at a word of it: a block abandoned and begun again since the
trip was asked for is another one (R394, R395). -/
def State.inTrip (s : State) (c i word : Nat) : Bool :=
  match (s.mt c i).blk with
  | some b => b.trip && b.pos == word && (s.ctx c).emuNos.contains (i, b.tripNo)
  | none => false

/-- An entry's result written to a micro-thread whose block waits for the trip (R394). -/
def State.applyEntry (s : State) (c : Nat) (rd : RegNo) (word : Nat) (core k : Nat) : State :=
  let ctl := s.emuField core k 3
  let i := ctl.toNat % 1024
  let m := s.mt c i
  match m.blk with
  | none => s
  | some b =>
    if s.inTrip c i word then
      let n := ((decodeW (nth 0 b.words b.pos)).toOption).map (fun i => (i, ()))
      let pops := match n with
        | some (.wDiv _ _ x y, _) | some (.wDivu _ _ x y, _) | some (.wRem _ _ x y, _) | some (.wRemu _ _ x y, _)
        | some (.wFdiv _ _ x y _, _) => (if x = 30 then 1 else 0) + (if y = 30 then 1 else 0)
        | some (.wFsqrt _ _ x _, _) | some (.wExp2 _ _ x _, _) | some (.wLog2 _ _ x _, _) | some (.wRcp _ _ x _, _)
        | some (.wRsqrt _ _ x _, _) | some (.wFsinS2 _ _ x, _) | some (.wFcosS2 _ _ x, _) => if x = 30 then 1 else 0
        | _ => 0
      let b := { b with trip := false, pos := b.pos + 1 }
      let b := if ctl.getLsbD 15 then
          ({ b with pops := b.pops + pops }.dst rd (s.emuField core k 2)).flag (ctl.extractLsb' 16 7)
        else b
      s.setMt c i { m with blk := some b }
    else s

/-- The destination field of a word of either stream (R177, R190). -/
def emuRd (kind : Nat) (word : IWord) : RegNo := if kind = 1 then word.extractLsb' 12 5 else word.extractLsb' 22 5

/-- The `eret` that ends a trip (R394); a fault of a Zavan-W word ends the blocks of the entries whose guard holds, and the
others resume at their next word.  A fault of a `vldb` has the stval of the native word, the one that firmware's read met
(R359, R371). -/
def State.endTrip (s : State) (c kind : Nat) (w : IWord) : State :=
  let core := c / 4
  let word := bits (s.emuWord core 0x18) 8 5
  let fault : BitVec 8 := (s.emuWord core 0x38).setWidth 8
  let epc := (s.ctx c).ft.epc
  let base := s.emuWord core 0x28
  let count := min (s.emuWord core 0x10).toNat 512
  let kept := (s.ctx c).fwVal
  let s := (s.setCtx c { (s.ctx c).eret with emu := none, fwVal := none }).dropReplies (fun t => t == tagOf 4 c 0)
  if fault ≠ 0 then
    if kind = 1 then
      (List.range count).foldl (fun s k =>
        let i := (s.emuField core k 3).toNat % 1024
        if !s.inTrip c i word then s
        else if (s.emuField core k 3).getLsbD 15 then s.mtFault c i (s.mt c i) { cause := fault, val := 0 }
        else s.applyEntry c (emuRd 1 w) word core k) s
    else
      s.trapAt c epc { cause := fault, val := kept.getD (if fault = 0x21 then base &&& ~~~0xFF else base) }
  else if kind = 0 then
    let x := ((s.ctx c).wx (emuRd 0 w) (s.emuField core 0 2))
    s.setCtx c { x with fflags := x.fflags ||| (s.emuField core 0 3).extractLsb' 16 7, pc := epc + 4 }
  else if kind = 1 then
    (List.range count).foldl (fun s k => s.applyEntry c (emuRd 1 w) word core k) s
  else
    let s := (List.range count).foldl (fun s k =>
      let i := (s.emuField core k 3).toNat % 1024
      let r := emuRd 2 w
      let m := s.mt c i
      s.putMt c i { m with w := put m.w r.toNat (s.emuField core k 2), dirty := m.dirty ||| (1 <<< (r.toNat - 1)) }) s
    s.setCtx c { s.ctx c with vstart := 0, pc := epc + 4 }

end Sys2Proof.Machine
end

