-- ==== Sys2Proof/Machine/LoadStore.lean ====
section
/-!
DEFINITION. Loads and stores of control threads, classes 5 and 6 (R183, R218-R221).
-/

namespace Sys2Proof.Machine

/-- The bytes of a load as a register value (R219). -/
def extend (n : Nat) (signed : Bool) (v : Word) : Word :=
  if signed then
    (if n = 1 then (v.setWidth 8).signExtend 64 else if n = 2 then (v.setWidth 16).signExtend 64
     else if n = 4 then (v.setWidth 32).signExtend 64 else v)
  else v

/-- A load: the value at once, or a park until the data come (R157, R219, R339). -/
def State.load (s : State) (n : Nat) (signed : Bool) (rd : RegNo) (va : Word) : Res' :=
  match s.access va (.load n) with
  | .value v t => t.done rd (extend n signed v)
  | .waits w t => (t.setMe { t.me with loadRd := rd, loadW := n, loadSigned := signed }).park w
  | a => a.other s

/-- A store (R220). -/
def State.store (s : State) (n : Nat) (va v : Word) : Res' :=
  match s.access va (.store n v) with
  | .value _ t => .next t.next
  | a => a.other s

/-- `lb` (R219). -/
def execLb (rd ra : RegNo) (imm : BitVec 12) (s : State) : Res' :=
  s.load 1 true rd (s.rx ra + sext imm)

/-- `lh` (R219). -/
def execLh (rd ra : RegNo) (imm : BitVec 12) (s : State) : Res' :=
  s.load 2 true rd (s.rx ra + sext imm)

/-- `lw` (R219). -/
def execLw (rd ra : RegNo) (imm : BitVec 12) (s : State) : Res' :=
  s.load 4 true rd (s.rx ra + sext imm)

/-- `ld` (R219). -/
def execLd (rd ra : RegNo) (imm : BitVec 12) (s : State) : Res' :=
  s.load 8 true rd (s.rx ra + sext imm)

/-- `lbu` (R219). -/
def execLbu (rd ra : RegNo) (imm : BitVec 12) (s : State) : Res' :=
  s.load 1 false rd (s.rx ra + sext imm)

/-- `lhu` (R219). -/
def execLhu (rd ra : RegNo) (imm : BitVec 12) (s : State) : Res' :=
  s.load 2 false rd (s.rx ra + sext imm)

/-- `lwu` (R219). -/
def execLwu (rd ra : RegNo) (imm : BitVec 12) (s : State) : Res' :=
  s.load 4 false rd (s.rx ra + sext imm)

/-- `sb` (R220). -/
def execSb (ra rb : RegNo) (imm : BitVec 12) (s : State) : Res' :=
  s.store 1 (s.rx ra + sext imm) (s.rx rb)

/-- `sh` (R220). -/
def execSh (ra rb : RegNo) (imm : BitVec 12) (s : State) : Res' :=
  s.store 2 (s.rx ra + sext imm) (s.rx rb)

/-- `sw` (R220). -/
def execSw (ra rb : RegNo) (imm : BitVec 12) (s : State) : Res' :=
  s.store 4 (s.rx ra + sext imm) (s.rx rb)

/-- `sd` (R220). -/
def execSd (ra rb : RegNo) (imm : BitVec 12) (s : State) : Res' :=
  s.store 8 (s.rx ra + sext imm) (s.rx rb)

end Sys2Proof.Machine
end

