-- ==== Sys2Proof/Machine/Branch.lean ====
section
/-!
DEFINITION. Branches, jumps, the typed call and hardware loops (R178, R224-R227).  A target is checked when its word is
fetched, and not at the transfer (R396).
-/

namespace Sys2Proof.Machine

/-- A branch taken or not (R224). -/
def State.branch (s : State) (c : Bool) (imm : BitVec 12) : Res' :=
  s.goto (if c then s.me.pc + (sext imm <<< 2) else s.me.pc + 4)

/-- `beq` (R224). -/
def execBeq (ra rb : RegNo) (imm : BitVec 12) (s : State) : Res' := s.branch (s.rx ra == s.rx rb) imm

/-- `bne` (R224). -/
def execBne (ra rb : RegNo) (imm : BitVec 12) (s : State) : Res' := s.branch (s.rx ra != s.rx rb) imm

/-- `blt` (R224). -/
def execBlt (ra rb : RegNo) (imm : BitVec 12) (s : State) : Res' := s.branch ((s.rx ra).slt (s.rx rb)) imm

/-- `bge` (R224). -/
def execBge (ra rb : RegNo) (imm : BitVec 12) (s : State) : Res' := s.branch (!(s.rx ra).slt (s.rx rb)) imm

/-- `bltu` (R224). -/
def execBltu (ra rb : RegNo) (imm : BitVec 12) (s : State) : Res' := s.branch ((s.rx ra).ult (s.rx rb)) imm

/-- `bgeu` (R224). -/
def execBgeu (ra rb : RegNo) (imm : BitVec 12) (s : State) : Res' := s.branch (!(s.rx ra).ult (s.rx rb)) imm

/-- `jal` (R224). -/
def execJal (rd : RegNo) (imm : BitVec 22) (s : State) : Res' :=
  (s.wx rd (s.me.pc + 4)).goto (s.me.pc + (sext imm <<< 2))

/-- `jalr`: `ra` is read before `rd` is written (R206, R224). -/
def execJalr (rd ra : RegNo) (imm : BitVec 12) (s : State) : Res' :=
  (s.wx rd (s.me.pc + 4)).goto ((s.rx ra + sext imm) &&& ~~~3)

/-- The end of a `callt`: the signature check and the jump (R225, R398). -/
def State.callTo (s : State) (rd : RegNo) (sig e : Word) : Res' :=
  if bits e 0 32 ≠ bits sig 0 32 then raise s 0x0B 1
  else (s.wx rd (s.me.pc + 4)).goto (s.me.fnbase + ((e.extractLsb' 32 32).signExtend 64 <<< 2))

/-- A table read that has to wait for its data (R157, R339). -/
def State.callWait (s : State) (rd : RegNo) (i sig : Word) (entry : Bool) (w : Why) : Res' :=
  (s.setMe { s.me with call := some (rd, i, sig, entry) }).park w

/-- The middle of a `callt`: the index check and the entry's load (R398). -/
def State.callEntry (s : State) (rd : RegNo) (i sig count : Word) : Res' :=
  if bits count 0 32 ≤ i.toNat then raise s 0x0B 0
  else
    match s.access (s.me.fnbase + 8 + (i <<< 3)) (.load 8) with
    | .value e t => t.callTo rd sig e
    | .waits w t => t.callWait rd i sig true w
    | a => a.other s

/-- `callt`: two ordinary loads of the table, the index check and the signature check (R225, R398). -/
def execCallt (rd ra rb : RegNo) (s : State) : Res' :=
  match s.access s.me.fnbase (.load 8) with
  | .value count t => t.callEntry rd (s.rx ra) (s.rx rb) count
  | .waits w t => t.callWait rd (s.rx ra) (s.rx rb) false w
  | a => a.other s

/-- The data of the current context's load arrive: the load or atomic ends, the `callt` goes on, or a `copyj` reads on
(R157, R271, R339). -/
def State.loaded (s : State) (v : Word) : Res' :=
  let x := s.me
  let t := s.setMe { x with run := .active, call := none }
  match x.card, x.call with
  | some l, _ => .next (t.setMe { t.me with card := some (l ++ [v]) })
  | none, none => t.done x.loadRd (extend x.loadW x.loadSigned v)
  | none, some (rd, i, sig, false) => t.callEntry rd i sig v
  | none, some (rd, _, sig, true) => t.callTo rd sig v

/-- `loop` (R226). -/
def execLoop (ra : RegNo) (imm : BitVec 12) (s : State) : Res' :=
  let x := s.me
  let last := x.pc + (imm.setWidth 64 <<< 2)
  if s.rx ra = 0 then s.goto (last + 4)
  else if x.loops.length ≥ 6 then raise s 0x0C 0
  else .next (s.setMe { x with loops := { start := x.pc + 4, stop := last, count := s.rx ra } :: x.loops, pc := x.pc + 4 })

/-- `endloop` (R226): entries that end elsewhere are discarded first; an exception leaves the stack as it was. -/
def execEndloop (s : State) : Res' :=
  let x := s.me
  match x.loops.dropWhile (fun e => e.stop != x.pc) with
  | [] => raise s 0x0C 0
  | e :: rest =>
    if e.count - 1 = 0 then .next (s.setMe { x with loops := rest, pc := x.pc + 4 })
    else .next (s.setMe { x with loops := { e with count := e.count - 1 } :: rest, pc := e.start })

end Sys2Proof.Machine
end

