-- ==== Sys2Proof/Machine/Blocks.lean ====
section
/-!
DEFINITION. Blocks of Zavan-W words: how a block is fetched (R173, R397) and what makes one illegal (R195, R390).
-/

namespace Sys2Proof.Machine

/-! ### Fetching (R397) -/

/-- The place of a code word under item 2 of R396, with U required (R397). -/
def State.codePlace (s : State) (c : Nat) (va : Word) : Option Tr :=
  if !canonical va then none
  else
    match s.vecTr (clusterOfCtx c) (s.ctx c).vspace.toNat .app va .x with
    | some t => if t.attr != 2 && t.pa < 0x25000000000 then some t else none
    | none => none

/-- The block fetch of a crew as the maker of its reads: they charge its context (R146, R397). -/
def State.blockWho (s : State) (c : Nat) : Who := { s.who c with level := .app, kind := 10, l1 := false }

/-- A word from the cluster's block cache or from memory, with the cause of item 3 of R396. -/
def State.codeWord (s : State) (c : Nat) (t : Tr) (va : Word) : IWord × Option (BitVec 8) :=
  let key := memKey t.skew t.pa
  match (s.cluster (clusterOfCtx c)).bcache.find? (fun e => e.1 == sectorOf key) with
  | some (_, line) => (nth 0 line (t.pa % 256 / 4), none)
  | none =>
    ((readN s.mem key 4).setWidth 32,
      match s.memFault (s.blockWho c) t va false with
      | some e => some e.cause
      | none => if checkFails s key then some 0x20 else none)

/-- The graver of two causes of a block fetch: 0x0A, then 0x09, then the others (R397). -/
def graver (a b : Option (BitVec 8)) : Option (BitVec 8) :=
  if a = some 0x0A ∨ b = some 0x0A then some 0x0A
  else if a = some 0x09 ∨ b = some 0x09 then some 0x09
  else match a with
    | some k => some k
    | none => b

/-- The words of a block from an address, up to the word with E set and at most `n`, and the cause that its fetch meets;
`held` are words a sequencer entry holds already.  The extent of a block is not known past a word that cannot be read. -/
def State.blockWords (s : State) (c : Nat) : Nat → Word → List IWord → List IWord × Option (BitVec 8)
  | 0, _, _ => ([], none)
  | n + 1, va, held =>
    if (s.ctx c).codebound.toNat ≤ va.toNat then ([], some 0x0A)
    else
      match s.codePlace c va with
      | none =>
        match held with
        | [] => ([], some 0x09)
        | h :: l =>
          if h.getLsbD 31 then ([h], some 0x09)
          else
            let (ws, k) := s.blockWords c n (va + 4) l
            (h :: ws, graver (some 0x09) k)
      | some t =>
        let (w, k) := match held with
          | h :: _ => (h, none)
          | [] => s.codeWord c t va
        if w.getLsbD 31 then ([w], k)
        else
          let (ws, k2) := s.blockWords c n (va + 4) (held.drop 1)
          (w :: ws, graver k k2)

/-- A block fetch (R397). -/
def State.blockFetch (s : State) (c : Nat) (va : Word) (held : List IWord) : Except (BitVec 8) (List IWord) :=
  match s.blockWords c 32 va held with
  | (_, some k) => .error k
  | (ws, none) => .ok ws

/-- The place of word `k` of a block when its fetch has to read it from memory: the block cache does not hold it (R173). -/
def State.blockRead (s : State) (c : Nat) (va : Word) (k : Nat) : Option Tr :=
  match s.codePlace c (va + BitVec.ofNat 64 (4 * k)) with
  | none => none
  | some t =>
    if (s.cluster (clusterOfCtx c)).bcache.any (fun e => e.1 == sectorOf (memKey t.skew t.pa)) then none else some t

/-- The words of a block of `n` words that its sequencer entry does not hold already. -/
def wordsFrom (n held : Nat) : List Nat := (List.range n).drop held

/-- A word of the block goes to a channel whose line is Copying: its fetch waits (R415). -/
def State.blockWaits (s : State) (c : Nat) (va : Word) (n held : Nat) : Bool :=
  (wordsFrom n held).any (fun k =>
    match s.blockRead c va k with
    | some t => s.stalls t
    | none => false)

/-- The physical address of the doubleword whose check stops the block's fetch (R404). -/
def State.blockBadPa (s : State) (c : Nat) (va : Word) (n held : Nat) : Nat :=
  ((wordsFrom n held).findSome? (fun k =>
    match s.blockRead c va k with
    | some t => if checkFails s (memKey t.skew t.pa) then some (t.pa / 8 * 8) else none
    | none => none)).getD 0

/-- What a block's fetch leaves in the caches and counters: each sector that the block cache does not hold is read at its
home slice, at the charge of the crew's context, and enters the block cache (R124, R146, R173). -/
def State.blockFill (s : State) (c : Nat) (va : Word) (n held : Nat) : State :=
  (wordsFrom n held).foldl (fun s k =>
    match s.blockRead c va k with
    | none => s
    | some t =>
      (s.served (s.blockWho c) t (sectorOf (memKey t.skew t.pa)) (.load 4)).takeB (clusterOfCtx c) (s.blockWho c) t
        (va + BitVec.ofNat 64 (4 * k))) s

/-! ### Illegal blocks (R195, R390) -/

/-- The op field of a word (R190). -/
def wordOp (w : IWord) : Nat := (w.extractLsb' 17 6).toNat

/-- The sz field. -/
def wordSz (w : IWord) : Nat := (w.extractLsb' 0 2).toNat

/-- A memory operation (R195). -/
def wordMem (w : IWord) : Bool := 0x33 ≤ wordOp w && wordOp w ≤ 0x38

/-- A special-function operation. -/
def wordSpecial (w : IWord) : Bool := (0x21 ≤ wordOp w && wordOp w ≤ 0x24) || wordOp w == 0x3D

/-- `thfetch` or `thfetchr`. -/
def wordThfetch (w : IWord) : Bool := wordOp w == 0x39 || wordOp w == 0x3A

/-- The word reads the register of its `wa` field (R194). -/
def readsWa (w : IWord) : Bool :=
  let o := wordOp w
  o ≤ 0x09 || (0x0B ≤ o && o ≤ 0x2D) || (0x33 ≤ o && o ≤ 0x38) || o == 0x3A || (o == 0x3B && wordSz w == 2) ||
    o == 0x3C || o == 0x3D

/-- The word reads the register of its `wb` field (R194). -/
def readsWb (w : IWord) : Bool :=
  let o := wordOp w
  o ≤ 0x05 || (0x0B ≤ o && o ≤ 0x1B) || o == 0x1D || o == 0x1E || o == 0x25 || o == 0x26 || (0x33 ≤ o && o ≤ 0x38) ||
    (o == 0x3B && wordSz w == 2)

/-- The word reads the register of its `wd` field and does not write it (R194). -/
def readsWd (w : IWord) : Bool := wordOp w == 0x35 || wordOp w == 0x37

/-- The word writes the register of its `wd` field (R194). -/
def writesWd (w : IWord) : Bool :=
  let o := wordOp w
  o ≤ 0x0A || (0x14 ≤ o && o ≤ 0x2D) || o == 0x33 || o == 0x34 || o == 0x36 || o == 0x38 ||
    (o == 0x3B && wordSz w != 0) || o == 0x3C || o == 0x3D

/-- Reads of `w30` by a word (R192). -/
def linkReads (w : IWord) : Nat :=
  bit (readsWa w && w.extractLsb' 7 5 == 30) + bit (readsWb w && w.extractLsb' 2 5 == 30) +
    bit (readsWd w && w.extractLsb' 12 5 == 30)

/-- Writes of `w31` by a word. -/
def linkWrites (w : IWord) : Nat := bit (writesWd w && w.extractLsb' 12 5 == 31)

/-- The word is reserved (R196). -/
def wordReserved (w : IWord) : Bool :=
  match decodeW w with
  | .ok _ => false
  | .error _ => true

/-- The words up to a position, that word included, break a limit of R195 at it. -/
def breaksAt (ws : List IWord) (k : Nat) : Bool :=
  let l := ws.take (k + 1)
  let w := nth 0 ws k
  (wordMem w && (l.filter wordMem).length > 4) || (wordSpecial w && (l.filter wordSpecial).length > 2) ||
    (wordThfetch w && !w.getLsbD 31) ||
    (linkReads w > 0 && (l.map linkReads).sum > 4) || (linkWrites w > 0 && (l.map linkWrites).sum > 4) ||
    (k == 31 && !w.getLsbD 31)

/-- The first offending word of a block (R390). -/
def offender (ws : List IWord) : Option IWord :=
  match ws.find? wordReserved with
  | some w => some w
  | none => ((List.range ws.length).find? (breaksAt ws)).map (nth 0 ws)

end Sys2Proof.Machine
end

