-- ==== Sys2Proof/Machine/Grants.lean ====
section
/-!
DEFINITION. Lanes of a crew and the placement of its micro-threads on them (R75, R78-R81), the lane save area (R69,
R83, R84, R379), and the creation and discarding of micro-threads (R70).
-/

namespace Sys2Proof.Machine

/-! ### Placement (R75, R80) -/

/-- The floor of a crew, below which its active lanes never fall either (R74, R85). -/
def Ctx.floorLanes (x : Ctx) : Nat := if x.slots.isEmpty then 2 else max 2 (2 * ((x.vl + 39) / 40))

/-- The active lanes of a crew whose lanes number `n` (R85): all of them in a square; in an ordinary grant those of before,
raised to the floor of `vl`, and all where all were active.  The spec says of a growth under power pressure only that `alc`
keeps within its bounds; that it stays where it was is the model's choice (DESIGN CHOICE, log 102). -/
def Ctx.alcFor (x : Ctx) (n : Nat) : Nat :=
  if x.gsq ≠ 0 ∨ x.alc = x.target then n else max x.alc (min x.floorLanes n)

/-- The lanes that hold contexts: those kept through a shrink, and of these the active ones (R80, R85). -/
def Ctx.spread (x : Ctx) : Nat :=
  let n := min x.target x.slots.length
  if x.alc = 0 ∨ x.gsq ≠ 0 then n else min n x.alc

/-- The grant slot of a local index (R75, R80). -/
def Ctx.slotFor (x : Ctx) (i : Nat) : Nat := if x.gsq ≠ 0 then i else i % max 1 x.spread

/-- Whether a context is among the four resident ones of its lane when contexts are placed (R79, R80). -/
def Ctx.residentFor (x : Ctx) (i : Nat) : Bool := x.gsq ≠ 0 || i / max 1 x.spread < 4

/-- A context can be resident where it is placed: it is among the first four of its lane, and its slot is not moving to
another lane (R76, R79, R80). -/
def Ctx.placedIn (x : Ctx) (i : Nat) : Bool := x.residentFor i && !x.moves.any (fun e => e.1 == x.slotFor i)

/-- Every context placed at once, between blocks (R80): a restore, a first grant, or a `setvl`.  Those that are not resident
lie in the spill areas (R79). -/
def State.placeMts (s : State) (c : Nat) : State :=
  let x := s.ctx c
  (s.mapMts c (fun i m =>
    { m with slot := x.slotFor i, res := if x.placedIn i then .resident else .spilled, since := s.now })).syncSpill c

/-- A re-placement of the contexts of a crew that holds lanes: a context that has to move is spilled first (R78, R80). -/
def State.respread (s : State) (c : Nat) : State :=
  let x := s.ctx c
  s.mapMts c (fun i m =>
    let t := x.slotFor i
    let away := x.moves.any (fun e => e.1 == m.slot)
    let r := x.residentFor i && !x.moves.any (fun e => e.1 == t)
    if m.slot = t then
      (match m.res with
       | .resident => if r then m else { m with res := .spilling }
       | .restoring => if away then { m with res := .spilled } else m
       | .spilled => if r then { m with res := .restoring, since := s.now } else m
       | _ => m)
    else
      match m.res with
      | .resident => { m with res := .spilling }
      | .spilling => m
      | _ => { m with slot := t, res := if r then .restoring else .spilled, since := s.now })

/-! ### Lanes that leave a grant (R78, R81) -/

/-- Lanes given up: they are cleared before they join another grant (R81). -/
def State.giveUp (s : State) (cl : Nat) (lanes : List Nat) : State :=
  s.setCluster cl { s.cluster cl with
    work := (s.cluster cl).work ++
      lanes.map (fun l => { lane := l, clearing := true, since := s.now, dest := none,
                            retire := (s.cluster cl).retiring.contains l }) }

/-- A crew returns every lane it holds (R70, R77): lanes that are still to join it are held for no one, and its Loom waits for
no tokens (R331). -/
def State.returnLanes (s : State) (c : Nat) : State :=
  let x := s.ctx c
  let cl := clusterOfCtx c
  let k := s.cluster cl
  let busy := k.work.map (·.lane)
  let s := s.setCluster cl { k with
    work := k.work.map (fun w => if w.dest = some c then { w with dest := none } else w)
    tokenQ := k.tokenQ.filter (· != c) }
  let s := s.giveUp cl ((x.slots ++ x.here).filter (fun l => l < 512 && !busy.contains l))
  s.setCtx c { x with slots := [], joining := [], here := [], moves := [], alc := 0, gsq := 0, orow := 0, ocol := 0, target := 0 }

/-! ### Micro-threads (R70) -/

/-- Micro-threads at and above a local index discarded. -/
def State.discard (s : State) (c n : Nat) : State :=
  { s with mts := s.mts.filter (fun e => !(512 * c + n ≤ e.1 && e.1 < 512 * c + 512)) }

/-- A micro-thread created now: broadcasts taken before are none of its own (R41, R70). -/
def Ctx.newMt (x : Ctx) (i : Nat) (now : Nat) : Mt :=
  { Mt.fresh with ent := x.seqNext - 1, slot := x.slotFor i,
                  res := if x.placedIn i then .resident else .spilled, since := now }

/-- `vl` becomes `n`: micro-threads above it go, new ones are created, and the kept ones are spread over the lanes held,
which have grown to `slots` where a growth is under way (R70, R85). -/
def State.setVl (s : State) (c n : Nat) : State :=
  let old := (s.ctx c).vl
  let s := s.discard c n
  let x := { s.ctx c with vl := n }
  let s := s.setCtx c { x with target := x.slots.length, alc := x.alcFor x.slots.length }
  let s := (List.range (n - old)).foldl (fun s k => s.setMt c (old + k) ((s.ctx c).newMt (old + k) s.now)) s
  s.placeMts c

/-- The contexts whose records in the spill areas a change of `vl` reads: they become resident (R79, R310). -/
def State.setVlReads (s : State) (c n : Nat) : List Nat :=
  let t := s.setVl c n
  (t.ctx c).locals.filter (fun i => decide ((t.mt c i).res = .resident))

/-! ### The lane save area (R69, R83, R84) -/

/-- The records of every micro-thread written, in the size of the grant held (R69, R83, R379). -/
def State.saveRecords (s : State) (c : Nat) : State :=
  let side := sideOf (s.ctx c).gsq
  let s := s.setCtx c { s.ctx c with saved := some side }
  let x := s.ctx c
  x.locals.foldl (fun s i =>
    (x.recordWords (s.mt c i) (side != 0)).foldl
      (fun s e => s.saveWrite c (x.recordVa i + BitVec.ofNat 64 (8 * e.1)) e.2) s) s

/-- The doublewords of a micro-thread record, by the side of the grant it was saved from (R69, R379). -/
def recWords (side : Nat) : Nat := if side = 0 then 32 else 288

/-- The doubleword of a record whose check is wrong, or that is poisoned, where a restore reads it, with its cause and
physical address (R310, R404, R405). -/
def State.recordBad (s : State) (c i : Nat) : Option (BitVec 8 × Nat) :=
  let x := s.ctx c
  let dirty := s.saveRead c (x.recordVa i + 0xC0)
  ((List.range (recWords x.recSide)).filter (fun n => n ≥ 23 || dirty.getLsbD (32 + n))).findSome?
    (fun n => s.saveBad c (x.recordVa i + BitVec.ofNat 64 (8 * n)))

/-- Every micro-thread restored from its record onto the lanes held (R70, R84); accumulators come back only onto a
square of the side of the records. -/
def State.restoreRecords (s : State) (c : Nat) : State :=
  let x := s.ctx c
  let side := x.recSide
  let acc := side != 0 && side == sideOf x.gsq
  let s := x.locals.foldl (fun s i =>
    s.setMt c i (x.mtOfRecord acc (fun n => s.saveRead c (x.recordVa i + BitVec.ofNat 64 (8 * n))))) s
  (s.setCtx c { s.ctx c with saved := none }).placeMts c

/-- The crew drops its grant and its saved records (R70, R77). -/
def State.dropGrant (s : State) (c : Nat) : State :=
  let s := (s.returnLanes c).discard c 0
  s.setCtx c { s.ctx c with gstate := .idle, vl := 0, saved := none, revoked := none, seq := [] }

/-- The state of a grant whose contexts stand where R80 places them (R77). -/
def Ctx.fitState (x : Ctx) : GState := if x.locals.all x.residentFor then .granted else .spilled

/-- The contexts whose records in the spill areas are read where the grant that a `setvl` waits for settles. -/
def State.settleReads (s : State) (c : Nat) : List Nat :=
  if (s.ctx c).saved.isSome then [] else s.setVlReads c (min (s.ctx c).reqLen (s.ctx c).slots.length)

/-- The grant a `setvl` waits for has come: saved contexts are restored and `vl` is settled (R70). -/
def State.settle (s : State) (c : Nat) : State :=
  let s := if (s.ctx c).saved.isSome then s.restoreRecords c else s
  s.setVl c (min (s.ctx c).reqLen (s.ctx c).slots.length)

end Sys2Proof.Machine
end

