-- ==== Sys2Proof/Machine/VectorCtl.lean ====
section
/-!
DEFINITION. Vector control of control threads, class 16 (R186, R70, R256-R259).
-/

namespace Sys2Proof.Machine

/-- The request of a `setvl` operand: reserved bits dropped, a square's length its lanes, at most 512 (R70). -/
def requestOf (v : Word) : Word :=
  let sq : BitVec 2 := v.extractLsb' 16 2
  let len := if sq = 0 then min (bits v 0 10) 512 else sideOf sq * sideOf sq
  BitVec.ofNat 64 (len + sq.toNat * 2 ^ 16)

/-- The Loom has finished the chunk it was summing (R82). -/
def Ctx.loomStopped (x : Ctx) : Bool := x.loomq.all (fun j => j.tokens == 0)

/-- `setvl` (R70, R71, R77).  It runs again until the crew is drained, and until the Loom has stopped at a chunk where the
contexts are to be saved as at a revocation (R82); where the Ostler has to act it parks, and SETVL_GRANT_RETURN ends it.
Lanes that a regrant under an older request has given are returned: the crew is granted under the new one (R70, R84).  Where
a record in a spill area that it would read is wrong, it waits for the grant's return, or for the save of its contexts,
which the restore logic then ends (R309, R310, R404). -/
def execSetvl (rd ra : RegNo) (s : State) : Res' :=
  let req := requestOf (s.rx ra)
  let x := s.me
  let len := bits req 0 10
  if len ≠ 0 ∧ x.vsave = 0 then raise s 0x12 0
  else if x.gstate = .shrinking ∨ x.revoked.isSome ∨ !s.drained s.cur then s.park .again
  else if x.holds && x.gsq != req.extractLsb' 16 2 && (!x.loomStopped || s.saveWaits s.cur) then s.park .again
  else
    let t := s.setMe { x with vlreq := req, nofit := false }
    let same := x.gsq = req.extractLsb' 16 2
    if len = 0 then
      let u := t.dropGrant t.cur
      u.done rd 0
    else if x.holds && same && (t.setVlReads t.cur (min len x.slots.length)).any (t.spillBad t.cur) then
      (t.setMe { t.me with loadRd := rd }).park .setvl
    else if x.holds && !same && x.locals.any (s.spillBad s.cur) then
      (s.setMe { x with gstate := .revoked, revoked := some s.now }).park .again
    else if x.holds && same then
      let u := t.setVl t.cur (min len x.slots.length)
      let u := u.setMe { u.me with gstate := u.me.fitState }
      u.done rd (BitVec.ofNat 64 u.me.vl)
    else
      let u := if x.holds then (t.saveRecords t.cur).returnLanes t.cur
        else if x.slots.isEmpty && x.joining.isEmpty && x.here.isEmpty then t else t.returnLanes t.cur
      let y := u.me
      (u.setMe { y with gstate := if x.gstate = .revoked then .revoked else .requested, asked := u.now,
                        loadRd := rd }).park .setvl

/-- The address checks of a broadcast block (R256). -/
def State.blockFault (s : State) (va : Word) : Option (BitVec 8) :=
  if !canonical va then some 0x03
  else if va.toNat % 4 ≠ 0 then some 0x04
  else if (s.vecTr (clusterOfCtx s.cur) s.me.vspace.toNat s.me.level va .x).isNone then some 0x06
  else if s.me.codebound.toNat ≤ va.toNat then some 0x0A
  else none

/-- A block entered into the sequencer (R41, R256); the entry holds the block's words when they can be fetched (R173). -/
def State.broadcast (s : State) (va : Word) (count : Nat) : Res' :=
  match s.blockFault va with
  | some k => raise s k va
  | none =>
    let t := s.sampleAbort s.cur
    if s.abortRaised s.cur then .next t.next
    else if t.me.vl = 0 ∨ count = 0 then .next t.next
    else if t.me.gstate = .revoked ∨ 16 ≤ t.seqUsed t.cur then t.park .again
    else
      let t := t.sweepSeq t.cur
      let x := t.me
      let ws := if s.blockWaits s.cur va 32 0 then [] else (t.blockFetch t.cur va []).toOption.getD []
      .next ((t.setMe { x with
        seq := x.seq ++ [{ id := x.seqNext, addr := va, count := count, cap := x.capture, picks := [], held := ws }]
        seqNext := x.seqNext + 1 }).blockFill t.cur va ws.length 0).next

/-- `vfetch` (R256). -/
def execVfetch (ra : RegNo) (s : State) : Res' := s.broadcast (s.rx ra) 1

/-- `vloop` (R256): the count is `rb` bits 31:0. -/
def execVloop (ra rb : RegNo) (s : State) : Res' := s.broadcast (s.rx ra) (bits (s.rx rb) 0 32)

/-- `vsync` parks; VSYNC_RETURN writes the fault summary (R45, R257). -/
def execVsync (rd : RegNo) (s : State) : Res' :=
  let t := s.sampleAbort s.cur
  (t.setMe { t.me with loadRd := rd }).park (.vsync s.now)

/-- The access of one micro-thread by its control thread (R175, R258): checks, then the wait for its earlier blocks. -/
def State.single (s : State) (j : Instr) (ra : RegNo) (f : Nat → Mt → Res') : Res' :=
  let i := (s.rx ra).toNat
  if s.me.vl ≤ i then raise s 0x0D (wordVal (encode j))
  else if s.me.gstate = .revoked then s.park .again
  else if !s.quiet s.cur i then .next s
  else f i (s.mt s.cur i)

/-- An item of a micro-thread (R186, R258). -/
def Ctx.item (x : Ctx) (m : Mt) (n : Nat) : Word :=
  if n ≤ 23 then look 0 m.w n
  else if n ≤ 127 then flagWord (m.p.getLsbD (n - 32))
  else if n = 128 then m.flags.setWidth 64
  else x.mtStatus m

/-- An item written (R258, R375, R379). -/
def Ctx.putItem (x : Ctx) (m : Mt) (n : Nat) (v : Word) : Mt :=
  if n ≤ 23 then { m with w := put m.w n v, dirty := m.dirty ||| (1 <<< (n - 1)) }
  else if n ≤ 127 then
    { m with p := if v.getLsbD 0 then m.p ||| ((1 : BitVec 96) <<< (n - 32)) else m.p &&& ~~~((1 : BitVec 96) <<< (n - 32)) }
  else if n = 128 then { m with flags := v.setWidth 7 }
  else x.putStatus m v

/-- `vget` (R258). -/
def execVget (rd ra : RegNo) (item : BitVec 8) (s : State) : Res' :=
  s.single (.vget rd ra item) ra (fun _ m => s.done rd (s.me.item m item.toNat))

/-- `vput` (R258): the status is privileged. -/
def execVput (ra rb : RegNo) (item : BitVec 8) (s : State) : Res' :=
  if item = 129 ∧ s.me.level = .app then raise s 0x02 (wordVal (encode (.vput ra rb item)))
  else s.single (.vput ra rb item) ra (fun i m => .next (s.putMt s.cur i (s.me.putItem m item.toNat (s.rx rb))).next)

/-- `vsetc` (R259). -/
def execVsetc (ra : RegNo) (cn : BitVec 3) (s : State) : Res' :=
  .next (s.setMe { s.me with cs := put s.me.cs cn.toNat (s.rx ra) }).next

end Sys2Proof.Machine
end

