-- ==== Sys2Proof/Machine/VectorMem.lean ====
section
/-!
DEFINITION. Vector loads and stores of control threads, class 17 (R187, R198, R255, R260-R263), and the elements of
`stream` and `ldrain`, which are performed in the same way (R266, R282).

The instruction makes its checks, captures what it uses, and parks; its elements are performed by later steps
(VECTOR_REQUEST_PACKET, R139, R152, R153), and VECTOR_ACCESS_DONE ends it (R262).  What elements read waits beside the
context, and registers take it when the instruction ends or stops; elements that write memory do so in any order, as long as
none below is known to fail (R152, R153, R261; log 35).
-/

namespace Sys2Proof.Machine

/-- The context as the maker of vector-port accesses (R126). -/
def State.portWho (s : State) (c : Nat) : Who := { s.who c with kind := 2, l1 := false }

/-- The same for element `k`, which the replies of other members come back to. -/
def State.elemWho (s : State) (c k : Nat) : Who := { s.portWho c with tag := tagOf 2 c k }

/-- The translation of an access through the vector port: an instruction whose elements are under way keeps the entries under
which it issued (R135, R136). -/
def State.portTr (s : State) (w : Who) (va : Word) (n : Need) : Option Tr :=
  match (s.ctx w.c).elemCap with
  | some k => vecLeaf (look 0 k.pages (vtabKey (s.ctx w.c).vspace.toNat va)) w.level va n
  | none => s.vecTr (clusterOf w.core) (s.ctx w.c).vspace.toNat w.level va n

/-- One access through the vector port, with the checks of R260 in their order. -/
def State.portAccess (s : State) (w : Who) (va : Word) (op : MemOp) : Ans :=
  if !canonical va then .exc { cause := 0x03, val := va } s
  else if va.toNat % op.width ≠ 0 then .exc { cause := 0x04, val := va } s
  else
    match s.portTr w va op.need with
    | none => .exc { cause := 0x06, val := va } s
    | some t =>
      if t.attr = 2 then .exc { cause := 0x07, val := va } s
      else
        match placeOf t.pa with
        | .window _ _ => .exc { cause := 0x07, val := va } s
        | _ => s.place w t va op

/-- The address of element `k` of a class 17 access (R260).  A wi of 24 to 31 names no micro-thread register and no reserved
field: its offset is 0 (DESIGN CHOICE, log 123). -/
def State.elemAddr (s : State) (c : Nat) (mode : Nat) (w : Nat) (ra rb : Word) (wi : RegNo) (k : Nat) : Word :=
  match mode with
  | 0 => ra + BitVec.ofNat 64 (k * w)
  | 1 => ra + BitVec.ofNat 64 k * rb
  | _ => ra + (if wi = 0 then 0 else look 0 (s.mt c k).w wi.toNat)

/-- A register of a micro-thread written by an element (R379). -/
def State.putW (s : State) (c i : Nat) (r : RegNo) (v : Word) : State :=
  let m := s.mt c i
  s.putMt c i { m with w := put m.w r.toNat v, dirty := m.dirty ||| (1 <<< (r.toNat - 1)) }

/-- What an instruction captures when it issues: the geometry registers of its engine, the write mode and key of
stochastic rounding, the side of the square (R264, R266, R282), the entries of its vector space (R136) and the phase (R139). -/
def State.capElems (s : State) (c : Nat) (i : Instr) (first : Nat) : ElemCap :=
  let x := s.ctx c
  let geo := fun e => (List.range 16).map (fun n => (n, x.geo e n))
  { geo := match i with
      | .stream _ _ => geo 1
      | .ldrain _ _ => geo 4
      | _ => []
    wrm := x.wrm, srnkey := x.srnkey, side := sideOf x.gsq, got := [], pages := s.spaceTable c, first := first, top := 0,
    mpn := s.mpn, resent := [] }

/-- What the vector access, `stream` or `ldrain` in progress captured. -/
def Ctx.cap (x : Ctx) : ElemCap := x.elemCap.getD { geo := [], wrm := 0, srnkey := 0, side := 0, got := [], pages := [], first := 0, top := 0, mpn := 0, resent := [] }

/-- A captured geometry register (R264). -/
def ElemCap.g (k : ElemCap) (n : Nat) : Word := look 0 k.geo n

/-- What element `k` has read, kept until registers or memory take it; while its data come from another member, the
physical addresses that they come from. -/
def State.keepElem (s : State) (c k : Nat) (a b : Word) : State :=
  let x := s.ctx c
  s.setCtx c { x with elemCap := some { x.cap with got := put x.cap.got k (a, b) } }

/-- The registers that elements below `n` have loaded are written (R260, R261). -/
def State.takeLoads (s : State) (c n : Nat) (i : Instr) : State :=
  match i with
  | .vld wd _ _ _ | .vlds wd _ _ _ _ | .vldx wd _ _ _ _ =>
    ((s.ctx c).cap.got.filter (fun e => e.1 < n)).foldl (fun s e => s.putW c e.1 wd e.2.1) s
  | _ => s

/-- One store element (R260). -/
def State.storeElem (s : State) (c k : Nat) (va : Word) (w : Nat) (wd : RegNo) : Ans :=
  s.portAccess (s.portWho c) va (.store w (look 0 (s.mt c k).w wd.toNat))

/-! ### `stream` (R266) -/

/-- A floating-class format of `stream` (R266). -/
def streamFloat (f : Nat) : Bool := f == 1 || f == 2 || f == 3 || f == 4 || f == 8

/-- An integer-class format of `stream` (R266). -/
def streamInt (f : Nat) : Bool := 10 ≤ f && f ≤ 16

/-- The formats that R266 allows for an operation. -/
def streamOk (op fa fb fd : Nat) : Bool :=
  let two := (1 ≤ op && op ≤ 4) || op == 6 || op == 7
  if op = 0 then (fa == 0 && fd == 0) || (fa != 0 && fd != 0)
  else (streamFloat fa && streamFloat fd && (!two || streamFloat fb)) ||
    (streamInt fa && streamInt fd && (!two || streamInt fb))

/-- The exact sum of two values: NaN and ∞ - ∞ as R214 gives them. -/
def sumNum (down : Bool) (a b : Num) : Num × BitVec 7 :=
  match a, b with
  | .nan s1 _, .nan s2 _ => (.nan (s1 || s2) false, 0)
  | .nan s _, _ => (.nan s false, 0)
  | _, .nan s _ => (.nan s false, 0)
  | .inf n1, .inf n2 => if n1 = n2 then (.inf n1, 0) else (.nan false false, fNV)
  | .inf n, _ => (.inf n, 0)
  | _, .inf n => (.inf n, 0)
  | .fin n1 m1 e1, .fin n2 m2 e2 => let (n, m, e) := addFin n1 m1 e1 n2 m2 e2 down; (.fin n m e, 0)

/-- The exact product of two values (R214). -/
def prodNum (a b : Num) : Num × BitVec 7 :=
  match a, b with
  | .nan s1 _, .nan s2 _ => (.nan (s1 || s2) false, 0)
  | .nan s _, _ => (.nan s false, 0)
  | _, .nan s _ => (.nan s false, 0)
  | a, b =>
    match mulNum a b with
    | some x => (x, 0)
    | none => (.nan false false, fNV)

/-- The minimum or maximum of two values (R215). -/
def minMaxNum (wantMax : Bool) (a b : Num) : Num × BitVec 7 :=
  let fl := if a.isSig || b.isSig then fNV else 0
  if a.isNan && b.isNan then (.nan false false, fl)
  else if a.isNan then (b, fl)
  else if b.isNan then (a, fl)
  else
    let c := numCmp a b
    let less := if c = 0 then (a.sgn && !b.sgn) else decide (c < 0)
    (if wantMax == less then b else a, fl)

/-- The result element of a `stream` operation on element codes (R266).  A move of a floating-point element is taken as the
rounding to fd that R266 names, also where fa = fd: a signalling NaN gives the canonical NaN and sets NV, though R91's moves set
no flag (DESIGN CHOICE, log 123). -/
def streamResult (op fa fb fd : Nat) (rd : Rnd) (s : Word) (a b : Nat) : Nat × BitVec 7 :=
  if op = 0 then (if fa = 0 then (a, 0) else convertElem fa fd rd a)
  else if streamInt fa then
    let x := intDecode fa a
    let y := intDecode fb b
    let t := s.toInt
    let r := match op with
      | 1 => x + y
      | 2 => x - y
      | 3 => x * y
      | 4 => t * x + y
      | 5 => t * x
      | 6 => min x y
      | _ => max x y
    match intRange fd with
    | some (lo, hi) => let (i, fl) := saturate lo hi r; (intBits (fmtBits fd) i, fl)
    | none => (0, 0)
  else
    match fpFmt fa, fpFmt fb, fpFmt fd with
    | some f, g, some h =>
      let x := f.decode a
      let y := match g with
        | some g => g.decode b
        | none => .fin false 0 0
      let t := f64.decode s.toNat
      let (r, fl) := match op with
        | 1 => sumNum (rd.mode == 2) x y
        | 2 => sumNum (rd.mode == 2) x y.neg
        | 3 => prodNum x y
        | 4 =>
          let (p, f1) := prodNum t x
          let (q, f2) := sumNum (rd.mode == 2) p y
          (q, f1 ||| f2)
        | 5 => prodNum t x
        | 6 => minMaxNum false x y
        | _ => minMaxNum true x y
      let (v, f2) := h.convert rd r
      (v, fl ||| f2)
    | _, _, _ => (0, 0)

/-- The rounding of element `k`: the write mode, and under SRN the draw of R266. -/
def ElemCap.rnd (x : ElemCap) (k : Nat) : Rnd :=
  { mode := x.wrm, draw := (mix64 x.srnkey (BitVec.ofNat 64 k)).toNat % 2 ^ 16 }

/-- The operation reads B (R266). -/
def streamTwo (op : Nat) : Bool := (1 ≤ op && op ≤ 4) || op == 6 || op == 7

/-- A `stream` element once its sources are read (R266): the result is stored and its flags are ORed into `fflags`. -/
def State.streamPut (s : State) (c k : Nat) (ra rb : Word) (a b : Word) : Ans :=
  let g := (s.ctx c).cap
  let f6 := g.g 6
  let fd := bits f6 16 5
  let r := streamResult (bits ra 0 4) (bits f6 0 5) (bits f6 8 5) fd (g.rnd k) rb a.toNat b.toNat
  match s.portAccess (s.portWho c) (g.g 0 + BitVec.ofNat 64 k * g.g 1)
      (.store (fmtBits fd / 8) (BitVec.ofNat 64 r.1)) with
  | .value v t => .value v (t.setCtx c { t.ctx c with fflags := (t.ctx c).fflags ||| r.2 })
  | a => a

/-- The source of element `k` of a `stream` (R266): A, or B. -/
def State.streamSrc (s : State) (c k : Nat) (b : Bool) : Ans :=
  let g := (s.ctx c).cap
  if b then
    s.portAccess (s.elemWho c k) (g.g 4 + BitVec.ofNat 64 k * g.g 5) (.load (fmtBits (bits (g.g 6) 8 5) / 8))
  else s.portAccess (s.elemWho c k) (g.g 2 + BitVec.ofNat 64 k * g.g 3) (.load (fmtBits (bits (g.g 6) 0 5) / 8))

/-- What reading an element comes to. -/
inductive ElemRead where
  | got (a b : Word) (s : State)
  /-- Data come from another member, from the physical addresses given, 0 for a source of this module. -/
  | sent (a b : Nat) (s : State)
  | exc (e : Exc) (s : State)
  | later (s : State)
  deriving DecidableEq, Repr

/-- The sources of a `stream` element: both are read before it writes (R153). -/
def State.streamRead (s : State) (c k : Nat) (two : Bool) : ElemRead :=
  match s.streamSrc c k false, two with
  | .value a t, false => .got a 0 t
  | .value a t, true =>
    match t.streamSrc c k true with
    | .value b u => .got a b u
    | .waits (.remote pb) u => .sent 0 pb u
    | .exc e u => .exc e u
    | .stall u => .later u
    | _ => .later t
  | .waits (.remote pa) t, false => .sent pa 0 t
  | .waits (.remote pa) t, true =>
    match t.streamSrc c k true with
    | .value _ u => .sent pa 0 u
    | .waits (.remote pb) u => .sent pa pb u
    | .exc e _ => .exc e s
    | .stall _ => .later s
    | _ => .later s
  | .exc e t, _ => .exc e t
  | .stall t, _ => .later t
  | _, _ => .later s

/-! ### `ldrain` (R282) -/

/-- The size in bytes of a drained element (R282). -/
def drainSize (f : Nat) : Nat := fmtBits f / 8

/-- The value of an accumulator element drained to a format, with its flags (R106, R107, R282). -/
def drainValue (isInt : Bool) (f : Nat) (v : BitVec 32) : Nat × BitVec 7 :=
  if isInt then convertElem 11 f { mode := 0, draw := 0 } v.toNat
  else if f = 2 then (v.toNat, 0)
  else convertElem 2 f { mode := 0, draw := 0 } v.toNat

/-- Element `k` of a drain: row and column of the tile, its cell, and the store (R281, R282). -/
def State.drainElem (s : State) (c k : Nat) (ra : Word) : Ans :=
  let x := s.ctx c
  let g := x.cap
  let side := g.side
  let f := bits (g.g 1) 0 5
  let bank := (g.g 1).getLsbD 8
  let i := k / (16 * side)
  let j := k % (16 * side)
  let m := s.mt c (i / 16 * side + j / 16)
  let v := look 0 (if bank then m.acc1 else m.acc0) (16 * (i % 16) + j % 16)
  let r := drainValue (if bank then x.acc1Int else x.acc0Int) f v
  match s.portAccess (s.portWho c) (ra + BitVec.ofNat 64 i * g.g 2 + BitVec.ofNat 64 (j * drainSize f))
      (.store (drainSize f) (BitVec.ofNat 64 r.1)) with
  | .value v t =>
    let y := t.ctx c
    .value v (t.setCtx c { y with lg := put y.lg 15 (y.geo 4 15 ||| r.2.setWidth 64) })
  | a => a

/-! ### Elements in general -/

/-- The elements that an instruction has: those of a square for `ldrain`, each repetition of the crew for `stream`. -/
def Ctx.elemCount (x : Ctx) (i : Instr) : Nat :=
  match i with
  | .ldrain _ _ => 256 * x.cap.side * x.cap.side
  | .stream _ _ => x.vl * max 1 (bits (x.cap.g 7) 0 32)
  | _ => x.vl

/-- What element `k` of an instruction reads before any register or memory changes: nothing where it only stores. -/
def State.readElem (s : State) (c : Nat) (i : Instr) (ra rb : Word) (k : Nat) : ElemRead :=
  let load := fun (mode : Nat) (wi : RegNo) (u : BitVec 1) (w : BitVec 2) =>
    let n := 2 ^ w.toNat
    match s.portAccess (s.elemWho c k) (s.elemAddr c mode n ra rb wi k) (.load n) with
    | .value v t => ElemRead.got (extend n (u == 0) v) 0 t
    | .waits (.remote pa) t => .sent pa 0 t
    | .exc e t => .exc e t
    | .stall t => .later t
    | _ => .later s
  match i with
  | .vld _ _ u w => load 0 0 u w
  | .vlds _ _ _ u w => load 1 0 u w
  | .vldx _ _ wi u w => load 2 wi u w
  | .stream _ _ => s.streamRead c k (streamTwo (bits ra 0 4))
  | _ => .got 0 0 s

/-- What element `k` of an instruction writes to memory once its operands are there: nothing for a load. -/
def State.writeElem (s : State) (c : Nat) (i : Instr) (ra rb : Word) (k : Nat) (a b : Word) : Ans :=
  match i with
  | .vst wd _ w => s.storeElem c k (s.elemAddr c 0 (2 ^ w.toNat) ra rb 0 k) (2 ^ w.toNat) wd
  | .vsts wd _ _ w => s.storeElem c k (s.elemAddr c 1 (2 ^ w.toNat) ra rb 0 k) (2 ^ w.toNat) wd
  | .vstx wd _ wi w => s.storeElem c k (s.elemAddr c 2 (2 ^ w.toNat) ra rb wi k) (2 ^ w.toNat) wd
  | .stream _ _ => s.streamPut c k ra rb a b
  | .ldrain _ _ => s.drainElem c k ra
  | _ => .value 0 s

/-- The elements of the instruction write memory. -/
def elemsStore (i : Instr) : Bool :=
  match i with
  | .vst _ _ _ | .vsts _ _ _ _ | .vstx _ _ _ _ | .stream _ _ | .ldrain _ _ => true
  | _ => false

/-- The exception that element `k` meets when it is tried, and the state with its mismatch record (R261, R404). -/
def State.tryElem (s : State) (c : Nat) (i : Instr) (ra rb : Word) (k : Nat) : Option (Exc × State) :=
  match s.readElem c i ra rb k with
  | .exc e t => some (e, t)
  | .later _ => none
  | .sent _ _ t =>
    match t.writeElem c i ra rb k 0 0 with
    | .exc e u => some (e, u)
    | _ => none
  | .got a b t =>
    match t.writeElem c i ra rb k a b with
    | .exc e u => some (e, u)
    | _ => none

/-- The lowest failing element of a list, by a trial of each (R261). -/
def State.firstBad (s : State) (c : Nat) (i : Instr) (ra rb : Word) : List Nat → Option (Nat × Exc × State)
  | [] => none
  | k :: ks =>
    match s.tryElem c i ra rb k with
    | some (e, t) => some (k, e, t)
    | none => s.firstBad c i ra rb ks

/-- The instruction's elements are issued: every check is made, the elements below the lowest failing one are left to be
performed, and the context parks (R261, R262). -/
def State.issueElems (s : State) (i : Instr) (ra rb : Word) (first n : Nat) : Res' :=
  let ks := (List.range (n - first)).map (first + ·)
  let s := s.setMe { s.me with elemCap := some (s.capElems s.cur i first) }
  match s.firstBad s.cur i ra rb ks with
  | none => s.park (.elems i ra rb ks [] none)
  | some (f, e, t) =>
    { s with scriv := t.scriv, scrivNext := t.scrivNext }.park (.elems i ra rb (ks.filter (· < f)) [] (some (f, e)))

/-- A class 17 instruction issues (R255, R262): after every block broadcast before it, and not while the crew is
REVOKED (R83). -/
def State.vector (s : State) (i : Instr) (ra rb : Word) : Res' :=
  let x := s.me
  if x.gstate = .revoked then s.park .again
  else if x.vl ≤ x.vstart.toNat then .next (s.setMe { x with vstart := 0 }).next
  else if !((List.range x.vl).all (fun k => k < x.vstart.toNat || s.quiet s.cur k)) then s.park .again
  else s.issueElems i ra rb x.vstart.toNat x.vl

/-- `vld` (R260). -/
def execVld (wd ra : RegNo) (u : BitVec 1) (w : BitVec 2) (s : State) : Res' :=
  s.vector (.vld wd ra u w) (s.rx ra) 0

/-- `vst` (R260). -/
def execVst (wd ra : RegNo) (w : BitVec 2) (s : State) : Res' := s.vector (.vst wd ra w) (s.rx ra) 0

/-- `vlds` (R260). -/
def execVlds (wd ra rb : RegNo) (u : BitVec 1) (w : BitVec 2) (s : State) : Res' :=
  s.vector (.vlds wd ra rb u w) (s.rx ra) (s.rx rb)

/-- `vsts` (R260). -/
def execVsts (wd ra rb : RegNo) (w : BitVec 2) (s : State) : Res' := s.vector (.vsts wd ra rb w) (s.rx ra) (s.rx rb)

/-- `vldx` (R260). -/
def execVldx (wd ra wi : RegNo) (u : BitVec 1) (w : BitVec 2) (s : State) : Res' :=
  s.vector (.vldx wd ra wi u w) (s.rx ra) 0

/-- `vstx` (R260). -/
def execVstx (wd ra wi : RegNo) (w : BitVec 2) (s : State) : Res' := s.vector (.vstx wd ra wi w) (s.rx ra) 0

/-- `vldb` is retired: it traps to Fw with the record of R393 (R198, R391). -/
def execVldb (wd ra : RegNo) (s : State) : Res' :=
  let x := s.me
  if x.gstate = .revoked then s.park .again
  else if !((List.range x.vl).all (fun k => k < x.vstart.toNat || s.quiet s.cur k)) then s.park .again
  else
    let word := (encode (.vldb wd ra)).getD 0
    let n := x.vl - x.vstart.toNat
    s.tripHere 2 word
      (emuRecord word 2 x.pc n (x.crm.setWidth 64) 0 (s.rx ra)
        (BitVec.ofNat 64 (packBits [(x.vstart.toNat, 32), (x.vl, 0)]))
        ((List.range n).map (fun k => emuEntry 0 0 (x.vstart.toNat + k) true)))

/-- A parked vector access with other elements to do. -/
def State.setElems (s : State) (c : Nat) (w : Why) : State := s.setCtx c { s.ctx c with run := .parked w }

/-- Element `k` fails: it and those above it are not performed (R261). -/
def State.failElem (s : State) (c : Nat) (i : Instr) (ra rb : Word) (left sent : List Nat) (k : Nat) (e : Exc) : State :=
  s.setElems c (.elems i ra rb (left.filter (· < k)) (sent.filter (· < k)) (some (k, e)))

/-! ### The accesses of an element (R139, R263) -/

/-- The accesses of an element that travel by the vector port's packets: 0 a load or a first source, 1 a second source, 2 a
destination; indexed elements go by the Gleaners (R263). -/
def elemOps (i : Instr) (ra : Word) : List Nat :=
  match i with
  | .vld _ _ _ _ | .vlds _ _ _ _ _ => [0]
  | .vst _ _ _ | .vsts _ _ _ _ | .ldrain _ _ => [2]
  | .stream _ _ => if streamTwo (bits ra 0 4) then [0, 1, 2] else [0, 2]
  | _ => []

/-- The address and width of an access of element `k` (R260, R266, R282). -/
def State.opAddr (s : State) (c : Nat) (i : Instr) (ra rb : Word) (o k : Nat) : Word × Nat :=
  let g := (s.ctx c).cap
  let at_ := fun (b d : Nat) => g.g b + BitVec.ofNat 64 k * g.g d
  match i with
  | .vld _ _ _ w | .vst _ _ w => (s.elemAddr c 0 (2 ^ w.toNat) ra rb 0 k, 2 ^ w.toNat)
  | .vlds _ _ _ _ w | .vsts _ _ _ w => (s.elemAddr c 1 (2 ^ w.toNat) ra rb 0 k, 2 ^ w.toNat)
  | .vldx _ _ wi _ w | .vstx _ _ wi w => (s.elemAddr c 2 (2 ^ w.toNat) ra rb wi k, 2 ^ w.toNat)
  | .stream _ _ =>
    if o = 0 then (at_ 2 3, fmtBits (bits (g.g 6) 0 5) / 8)
    else if o = 1 then (at_ 4 5, fmtBits (bits (g.g 6) 8 5) / 8)
    else (at_ 0 1, fmtBits (bits (g.g 6) 16 5) / 8)
  | .ldrain _ _ =>
    let n := drainSize (bits (g.g 1) 0 5)
    (ra + BitVec.ofNat 64 (k / (16 * g.side)) * g.g 2 + BitVec.ofNat 64 (k % (16 * g.side) * n), n)
  | _ => (0, 8)

/-- Where an access of element `k` goes. -/
def State.opTr (s : State) (c : Nat) (i : Instr) (ra rb : Word) (o k : Nat) : Option Tr :=
  s.portTr (s.portWho c) (s.opAddr c i ra rb o k).1 (if o = 2 then .w else .r)

/-- The access travels in a packet: its page is streamed, and it lies in HBM4 (R139). -/
def State.inPacket (s : State) (c : Nat) (i : Instr) (ra rb : Word) (o k : Nat) : Bool :=
  (elemOps i ra).contains o &&
    (match s.opTr c i ra rb o k with
     | some t => t.attr == 1 && decide (t.pa < 0x10000000000)
     | none => false)

/-- Two elements write a byte in common (R152). -/
def State.sameBytes (s : State) (c : Nat) (i : Instr) (ra rb : Word) (j k : Nat) : Bool :=
  match s.opTr c i ra rb 2 j, s.opTr c i ra rb 2 k with
  | some t, some u =>
    let n := (s.opAddr c i ra rb 2 k).2
    decide (memKey t.skew t.pa < memKey u.skew u.pa + n) && decide (memKey u.skew u.pa < memKey t.skew t.pa + n)
  | _, _ => false

/-- An element that writes memory may do so now: no lower element that is left writes a byte of its, for the higher index
comes later (R152), and none of them can fail still for what other members' data bring (R261). -/
def State.mayWrite (s : State) (c : Nat) (i : Instr) (ra rb : Word) (left sent : List Nat) (k : Nat) : Bool :=
  !sent.any (· < k) && !left.any (fun j => decide (j < k) && s.sameBytes c i ra rb j k)

/-- The write of element `k`, once its operands are there.  Elements are unordered (R152, R153), but where a lower element that
is left fails in a trial, it is that one that stops the instruction (R261); a failure that comes about later than the
write of a higher element undoes nothing (log 35). -/
def State.putElem (s : State) (c : Nat) (i : Instr) (ra rb : Word) (left sent : List Nat) (stop : Option (Nat × Exc))
    (k : Nat) (a b : Word) : State :=
  if !elemsStore i then s.setElems c (.elems i ra rb (left.filter (· != k)) sent stop)
  else if !s.mayWrite c i ra rb left sent k then s
  else
    match s.firstBad c i ra rb (left.filter (· < k)) with
    | some (f, e, t) => ({ s with scriv := t.scriv, scrivNext := t.scrivNext } : State).failElem c i ra rb left sent f e
    | none =>
      match s.writeElem c i ra rb k a b with
      | .value _ t =>
        let x := t.ctx c
        (t.setCtx c { x with elemCap := some { x.cap with top := max x.cap.top (k + 1) } }).setElems c
          (.elems i ra rb (left.filter (· != k)) sent stop)
      | .exc e t => t.failElem c i ra rb left sent k e
      | .stall t => t
      | _ => s

/-- A step of element `k`: it reads where `rd` says so, and writes where `wr` does; what a load has read it keeps. -/
def State.performElem (s : State) (c : Nat) (i : Instr) (ra rb : Word) (left sent : List Nat) (stop : Option (Nat × Exc))
    (k : Nat) (rd wr : Bool) : State :=
  let go := fun (s : State) (a b : Word) =>
    if wr || !elemsStore i then s.putElem c i ra rb left sent stop k a b else s
  match (s.ctx c).cap.got.find? (fun e => e.1 == k) with
  | some (_, a, b) => go s a b
  | none =>
    if !rd then s
    else
      match s.readElem c i ra rb k with
      | .got a b t => go (t.keepElem c k a b) a b
      | .sent a b t =>
        (t.keepElem c k (BitVec.ofNat 64 a) (BitVec.ofNat 64 b)).setElems c
          (.elems i ra rb (left.filter (· != k)) (sent ++ [k]) stop)
      | .exc e t => t.failElem c i ra rb left sent k e
      | .later t => t

/-- Accesses of elements performed, in the order given (R152): with `op` those that travel in packets of that operand, else
those that travel in none.  Once the crew is REVOKED only the elements below one that has written are, so that the access
stops at an element boundary (R82). -/
def State.perform (s : State) (c : Nat) (op : Option Nat) : List Nat → State
  | [] => s
  | k :: ks =>
    let x := s.ctx c
    match x.run with
    | .parked (.elems i ra rb left sent stop) =>
      let srcs := (elemOps i ra).filter (· != 2)
      let rd := match op with
        | some o => o != 2 || srcs.isEmpty
        | none => srcs.all (fun o => !s.inPacket c i ra rb o k)
      let wr := match op with
        | some o => o == 2
        | none => !s.inPacket c i ra rb 2 k
      (if left.contains k && (x.gstate != .revoked || decide (k < x.cap.top)) then
          s.performElem c i ra rb left sent stop k rd wr else s).perform c op ks
    | _ => s

/-! ### Vector request packets (R139, R415, R416) -/

/-- A vector request packet (R139): base, stride, element size and number, first element, operation, skew, phase. -/
structure VPacket where
  base : Nat
  stride : Word
  esize : Nat
  count : Nat
  tag0 : Nat
  store : Bool
  skew : Nat
  mpn : BitVec 16
  deriving DecidableEq, Repr

/-- The length of the maximal run of consecutive elements from `k` up, at most 4,096, that a packet can carry: those of a set, at
one stride, in one page (R139). -/
def State.runFrom (s : State) (c : Nat) (i : Instr) (ra rb : Word) (o n : Nat) (mem : Nat → Bool) (k : Nat) : Nat :=
  let at_ := fun (j : Nat) => (s.opAddr c i ra rb o j).1
  let d := at_ (k + 1) - at_ k
  ((List.range (min 4096 (n - k))).takeWhile (fun j =>
    mem (k + j) && at_ (k + j) == at_ k + BitVec.ofNat 64 j * d &&
      (at_ (k + j)).toNat / 0x10000000 == (at_ k).toNat / 0x10000000)).length

/-- The first elements of the packets of an operand's accesses, from element `k` up (R139). -/
def State.packetStarts (s : State) (c : Nat) (i : Instr) (ra rb : Word) (o n : Nat) (mem : Nat → Bool) : Nat → Nat → List Nat
  | 0, _ => []
  | fuel + 1, k =>
    if n ≤ k then []
    else if mem k then k :: s.packetStarts c i ra rb o n mem fuel (k + max 1 (s.runFrom c i ra rb o n mem k))
    else s.packetStarts c i ra rb o n mem fuel (k + 1)

/-- The packet of operand `o` that begins with element `tag0`, none where no packet does: of those that the instruction was
split into as it issued, or, `again`, of those that carry the accesses which came back bounced (R139, R416). -/
def State.vpacket (s : State) (c : Nat) (i : Instr) (ra rb : Word) (o tag0 : Nat) (again : Bool) : Option VPacket :=
  let x := s.ctx c
  let n := x.elemCount i
  let mem := fun k => !again || x.cap.resent.contains (o, k)
  if !s.inPacket c i ra rb o tag0 ||
      !(s.packetStarts c i ra rb o n mem (n - x.cap.first) x.cap.first).contains tag0 then none
  else
    (s.opTr c i ra rb o tag0).map (fun t =>
      { base := t.pa, stride := (s.opAddr c i ra rb o (tag0 + 1)).1 - (s.opAddr c i ra rb o tag0).1,
        esize := (s.opAddr c i ra rb o tag0).2, count := s.runFrom c i ra rb o n mem tag0, tag0 := tag0, store := o == 2,
        skew := t.skew, mpn := if again then s.mpn else x.cap.mpn })

/-- The address of element `j` of a packet (R139). -/
def VPacket.addr (p : VPacket) (j : Nat) : Nat := (BitVec.ofNat 64 p.base + BitVec.ofNat 64 j * p.stride).toNat

/-- The stack to which a phase routes an address: by the previous table for any phase but the current one (R139, R320,
R415). -/
def State.phaseStack (s : State) (mpn : BitVec 16) (skew pa : Nat) : Nat :=
  entStack (if mpn = s.mpn then slotEntry s (slotOf skew pa) else slotEntryPrev s (slotOf skew pa))

/-- The elements of a packet that a channel of a stack serves, with their addresses (R139). -/
def VPacket.served (s : State) (p : VPacket) (stack ch : Nat) : List (Nat × Nat) :=
  ((List.range p.count).filter (fun j =>
    p.addr j < 0x10000000000 && s.phaseStack p.mpn p.skew (p.addr j) == stack && chanOf (p.addr j) == ch)).map
      (fun j => (p.tag0 + j, p.addr j))

/-- A channel's service of a packet: an access of the old phase to a line that is Done comes back bounced, to be sent again
under the new phase, and the others are performed (R415, R416). -/
def State.servePacket (s : State) (c o : Nat) (p : VPacket) (l : List (Nat × Nat)) : State :=
  let back := fun (e : Nat × Nat) => p.mpn != s.mpn && lineOf s (slotOf p.skew e.2) (qOf e.2) == .done
  let x := s.ctx c
  let t := s.setCtx c { x with elemCap := some { x.cap with
    resent := (l.filter back).foldl (fun r e => if r.contains (o, e.1) then r else r ++ [(o, e.1)]) x.cap.resent } }
  t.perform c (some o) ((l.filter (fun e => !back e)).map (·.1))

/-! ### The end -/

/-- The end of a class 17 instruction, `stream` or `ldrain` whose elements are performed (R261, R262, R282). -/
def State.endElems (s : State) (c : Nat) (i : Instr) (stop : Option (Nat × Exc)) : State :=
  let drain := match i with
    | .ldrain _ _ => true
    | _ => false
  let s := s.dropReplies (fun t => t % 8 == 2 && t / 8 % 2048 == c)
  match stop with
  | some (f, e) =>
    let s := s.takeLoads c f i
    let x := s.ctx c
    let x := { x with run := .active, elemCap := none, vstart := if drain then x.vstart else BitVec.ofNat 64 f }
    (s.setCtx c x).trapAt c x.pc e
  | none =>
    let s := s.takeLoads c ((s.ctx c).elemCount i) i
    let x := { s.ctx c with elemCap := none }
    match i with
    | .ldrain rd _ => s.setCtx c ((x.wx rd (x.geo 4 15)).resume)
    | _ => s.setCtx c { x with vstart := 0 }.resume

/-- A vector access is stopped at an element boundary (R82): what its elements below the lowest that is left have loaded
is written, and the instruction runs again from `vstart`, `ldrain` from its first element (R282). -/
def State.stopElems (s : State) (c : Nat) : State :=
  let s := s.dropReplies (fun t => t % 8 == 2 && t / 8 % 2048 == c)
  match (s.ctx c).run with
  | .parked (.elems (.ldrain _ _) _ _ _ _ _) => s.setCtx c { s.ctx c with run := .parked .again, elemCap := none }
  | .parked (.elems i _ _ left sent stop) =>
    let n := (left ++ sent).foldl min (match stop with
      | some (f, _) => f
      | none => (s.ctx c).elemCount i)
    let s := s.takeLoads c n i
    s.setCtx c { s.ctx c with run := .parked .again, vstart := BitVec.ofNat 64 n, elemCap := none }
  | _ => s

end Sys2Proof.Machine
end

