-- ==== Sys2Proof/Machine/Engine.lean ====
section
/-!
DEFINITION. Engine instructions of control threads, class 18 (R188, R264-R283): geometry registers, `stream`, copy and
Gleaner jobs, and the Loom.  The jobs themselves run in the steps of `EvEngine`.
-/

namespace Sys2Proof.Machine

/-- An engine-operand exception at the instruction (R283). -/
def State.badOperand (s : State) (i : Instr) : Res' := raise s 0x0D (wordVal (encode i))

/-! ### Footprints (R159, R160, R267) -/

/-- The physical ranges of a range of vector space, page by page; a page that does not translate adds none, since no
access reaches it (R267, R268). -/
def State.physRanges (s : State) (c : Nat) : Nat → Word → Nat → List (Nat × Nat)
  | 0, _, _ => []
  | n + 1, va, len =>
    if len = 0 ∨ !inVector va then []
    else
      let k := min len (0x10000000 - va.toNat % 0x10000000)
      let rest := s.physRanges c n (va + BitVec.ofNat 64 k) (len - k)
      match s.vecTr (clusterOfCtx c) (s.ctx c).vspace.toNat .fw va .r with
      | some t => (t.pa, k) :: rest
      | none => rest

/-- The physical ranges of a footprint, none for a length of 0. -/
def State.footprint (s : State) (c : Nat) (va len : Word) : List (Nat × Nat) := s.physRanges c 4097 va len.toNat

/-- Two sets of ranges have a byte in common. -/
def rangesMeet (a b : List (Nat × Nat)) : Bool :=
  a.any (fun x => b.any (fun y => x.1 < y.1 + y.2 && y.1 < x.1 + x.2))

/-- A slot range: first slot and count (R277). -/
def slotRange (v : Word) : Option (Nat × Nat) :=
  let n := bits v 16 10
  if v &&& ~~~0x3FF01FF = 0 ∧ 1 ≤ n ∧ n ≤ 512 ∧ bits v 0 9 + n ≤ 512 then some (bits v 0 9, n) else none

/-- The tiles and scale planes of a slot range as physical ranges (R118, R130, R281). -/
def slotRanges (cl : Nat) (r : Nat × Nat) : List (Nat × Nat) :=
  [(tileKey cl r.1, 0x6000 * r.2), (planeKey cl r.1, 0x100 * r.2)]

/-- The tiles and planes that a slot-range operand names. -/
def operandRanges (cl : Nat) (v : Word) : List (Nat × Nat) :=
  match slotRange v with
  | some r => slotRanges cl r
  | none => []

/-- An accumulator bank as a range of its own, apart from every address (R159). -/
def bankRange (c b : Nat) : Nat × Nat := (0x2000000000000000 + 2 * c + b, 1)

/-- A physical range reaches an accumulator bank of a crew through its windows (R118, R119). -/
def reachesBank (c b : Nat) (r : Nat × Nat) : Bool :=
  let base := winBase (clusterOfCtx c) + 0x2000000 + crewNo c * 0x200000
  let lo := max r.1 base - base
  let hi := min (r.1 + r.2) (base + 0x200000) - base
  lo < hi && (0x1000 ≤ hi - lo || [lo / 0x1000, (hi - 1) / 0x1000].any (fun p =>
    let a := p * 0x1000 + 0x100 + b * 0x400
    lo < a + 0x400 && a < hi))

/-- Ranges of a footprint, with the accumulator banks of the crew that they reach (R119, R160). -/
def withBanks (c : Nat) (l : List (Nat × Nat)) : List (Nat × Nat) :=
  l ++ ([0, 1].filter (fun b => l.any (reachesBank c b))).map (bankRange c)

/-- What a Loom job reads (R281). -/
def LoomJob.reads (j : LoomJob) (cl : Nat) : List (Nat × Nat) :=
  if j.kind = 4 then [] else operandRanges cl j.ra ++ operandRanges cl j.rb

/-- The bank a Loom operation accumulates in (R279). -/
def LoomJob.bank (j : LoomJob) : Nat := (j.lg0.extractLsb' 8 1).toNat

/-- What a Loom job writes (R280, R281). -/
def LoomJob.writes (j : LoomJob) (c : Nat) : List (Nat × Nat) :=
  if j.kind = 4 then
    (if j.ra.getLsbD 0 then [bankRange c 0] else []) ++ (if j.ra.getLsbD 1 then [bankRange c 1] else [])
  else [bankRange c j.bank]

/-- The follow-on of a copy card: 0 none, 1 `lmma.o`, 2 `lmma.r` (R271). -/
def Job.follow (j : Job) : Nat := if j.glean then 0 else bits (nth 0 j.card 0) 2 2

/-- The Loom job that a copy's completion submits, on a square of a side (R163, R273). -/
def Job.followOn (j : Job) (side : Nat) : Option LoomJob :=
  if j.follow = 0 then none
  else some { num := j.num + 1, kind := if j.follow = 1 then 5 else 6, ra := nth 0 j.card 6, rb := nth 0 j.card 7,
              lg0 := j.lg0, chunk := 0, started := false, tokens := 0, side := side, parts := [] }

/-- The jobs of a crew that have not completed or stopped: number, reads and writes (R267, R270). -/
def State.jobList (s : State) (c : Nat) : List (Word × List (Nat × Nat) × List (Nat × Nat)) :=
  let x := s.ctx c
  let cl := clusterOfCtx c
  let loom := fun (j : LoomJob) => (j.num, j.reads cl, j.writes c)
  x.jobs.map (fun j => (j.num, j.reads, j.writes)) ++ x.jobs.filterMap (fun j => (j.followOn 0).map loom) ++ x.loomq.map loom

/-- Cards in a cluster's job queue of 64 (R267); a card leaves it when its job completes or stops. -/
def State.cards (s : State) (cl : Nat) : Nat := ((ctxsOf cl).map (fun c => (s.ctx c).jobs.length)).sum

/-! ### Geometry registers and `ewait` -/

/-- `ecfg` (R264). -/
def execEcfg (ra : RegNo) (eng : BitVec 3) (n : BitVec 4) (s : State) : Res' :=
  .next (s.setMe (s.me.geoWrite eng.toNat n.toNat (s.rx ra))).next

/-- `erd` (R264). -/
def execErd (rd : RegNo) (eng : BitVec 3) (n : BitVec 4) (s : State) : Res' :=
  s.done rd (s.me.geo eng.toNat n.toNat)

/-- `ewait` parks; EWAIT_RETURN ends it (R270). -/
def execEwait (ra : RegNo) (s : State) : Res' := s.park (.ewait (s.rx ra))

/-! ### `stream` -/

/-- `stream` (R266, R283): it parks while the crew is REVOKED. -/
def execStream (ra rb : RegNo) (s : State) : Res' :=
  let x := s.me
  let a := s.rx ra
  let f6 := x.geo 1 6
  let n := x.vl * max 1 (bits (x.geo 1 7) 0 32)
  if a.toNat ≥ 8 || !streamOk a.toNat (bits f6 0 5) (bits f6 8 5) (bits f6 16 5) then s.badOperand (.stream ra rb)
  else if x.gstate = .revoked then s.park .again
  else if n ≤ x.vstart.toNat then .next (s.setMe { x with vstart := 0 }).next
  else s.issueElems (.stream ra rb) a (s.rx rb) x.vstart.toNat n

/-! ### Copy and Gleaner jobs -/

/-- A completion address that R269 refuses. -/
def badCompletion (v : Word) : Bool := v != 0 && (!inVector v || v.toNat % 8 != 0)

/-- The card fields that R271 and R272 refuse; a convert copy of one row has no pitch to check. -/
def cardBad (w : List Word) : Bool :=
  let ctl := nth 0 w 0
  let len := bits (nth 0 w 3) 0 32
  let sf := bits ctl 8 5
  let df := bits ctl 16 5
  let plain := bits ctl 0 2 == 0
  ctl &&& 0xFFFFFFFFC8E0E0F0 != 0 || bits ctl 0 2 > 1 || bits ctl 2 2 == 3 || bits ctl 24 3 > 4 || bits ctl 28 2 == 3 ||
    len == 0 || bits (nth 0 w 3) 32 32 == 0 ||
    (nth 0 w 1).toNat % 8 != 0 || (nth 0 w 2).toNat % 8 != 0 ||
    ((plain || bits (nth 0 w 3) 32 32 != 1) && ((nth 0 w 4).toNat % 8 != 0 || (nth 0 w 5).toNat % 8 != 0)) ||
    (if plain then sf != 0 || df != 0 || len % 8 != 0
     else sf == 0 || sf > 16 || df == 0 || df > 16 || len % 32 != 0)

/-- The conditions of R276, R281 and R283 on `lmma`. -/
def State.loomBad (s : State) (c : Nat) (ra rb : Word) (lg0 : BitVec 32) : Bool :=
  let x := s.ctx c
  let side := sideOf x.reqSq
  let claimed := fun (r : Nat × Nat) => (List.range r.2).all (fun k => x.claimed.contains (r.1 + k))
  x.reqSq == 0 || decide (x.gstate = .idle) || !loomFmtOk (lg0.extractLsb' 0 5).toNat ||
    (lg0.extractLsb' 16 8).toNat + 16 * side > 256 || (lg0.extractLsb' 24 8).toNat + 16 * side > 256 ||
    (match slotRange ra, slotRange rb with
     | some a, some b => a.2 != b.2 || !claimed a || !claimed b
     | _, _ => true)

/-- How the reading of a card ends: all of it, a load that has to wait or be made again, or an exception of a load. -/
inductive CardRead where
  | card (w : List Word) (s : State)
  | later (r : Res')
  | raises (r : Res')

/-- Doublewords of a card read by ordinary loads, after those already read (R271). -/
def State.readCard (s : State) (ra : Word) : Nat → List Word → CardRead
  | 0, l => .card l s
  | n + 1, l =>
    match s.access (ra + BitVec.ofNat 64 (8 * l.length)) (.load 8) with
    | .value v t => t.readCard ra n (l ++ [v])
    | .waits w t => .later ((t.setMe { t.me with card := some l }).park w)
    | .stall t => .later ((Ans.stall t).other s)
    | a => .raises (a.other s)

/-- Footprints of a card or of the Gleaner registers: `n` pairs from word `k`. -/
def State.footprints (s : State) (w : List Word) (k n : Nat) : List (Nat × Nat) :=
  withBanks s.cur
    ((List.range n).flatMap (fun j => s.footprint s.cur (nth 0 w (k + 2 * j)) (nth 0 w (k + 2 * j + 1))))

/-- A card enters the job queue with the next number, which goes to `rd` (R267). -/
def State.submitCard (s : State) (rd : RegNo) (glean : Bool) (w : List Word) (count : Nat) (done : Word)
    (reads writes : List (Nat × Nat)) : Res' :=
  let x := s.me
  let num := x.lastJob + 1
  let j : Job := { num := num, glean := glean, card := w, count := count, done := done, reads := reads, writes := writes,
                   flags := 0, row := 0, byte := 0, started := false, level := x.level,
                   lg0 := (x.geo 4 0).setWidth 32, packets := 0, pages := some (s.spaceTable s.cur), fail := none, got := [],
                   left := 0, marked := false }
  (s.setMe { x with jobs := x.jobs ++ [j], lastJob := if j.follow = 0 then num else num + 1, card := none }).done rd num

/-- A card that has been read (R271, R273, R283). -/
def State.copyCard (s : State) (i : Instr) (rd : RegNo) (done : Word) (w : List Word) : Res' :=
  let ctl := nth 0 w 0
  if cardBad w ||
      (bits ctl 2 2 != 0 && s.loomBad s.cur (nth 0 w 6) (nth 0 w 7) ((s.me.geo 4 0).setWidth 32)) then s.badOperand i
  else s.submitCard rd false w 0 done (s.footprints w 8 (bits ctl 24 3)) (s.footprints w 16 (bits ctl 28 2))

/-- `copyj` (R271-R273): the exceptions of the card's loads come before its own (R207), and a full queue parks it. -/
def execCopyj (rd ra rb : RegNo) (s : State) : Res' :=
  let l := s.me.card.getD []
  let bad := (s.rx ra).toNat % 32 != 0 || badCompletion (s.rx rb)
  match s.readCard (s.rx ra) (20 - l.length) l with
  | .raises r => r
  | r =>
    if !bad && decide (s.cards (clusterOfCtx s.cur) ≥ 64) then s.park .again
    else
      match r with
      | .card w t => if bad then t.badOperand (.copyj rd ra rb) else t.copyCard (.copyj rd ra rb) rd (s.rx rb) w
      | .later r => r
      | .raises r => r

/-- `gleanj` (R274, R275, R283). -/
def execGleanj (rd ra rb : RegNo) (s : State) : Res' :=
  let n := (s.rx ra).toNat
  let w := (List.range 16).map (s.me.geo 3)
  let g0 := nth 0 w 0
  if n == 0 || n ≥ 2 ^ 32 || (nth 0 w 1).toNat % 8 != 0 || (nth 0 w 2).toNat % 8 != 0 || (nth 0 w 3).toNat % 8 != 0 ||
      bits g0 32 3 > 4 || bits g0 36 2 == 3 || badCompletion (s.rx rb) then s.badOperand (.gleanj rd ra rb)
  else if s.cards (clusterOfCtx s.cur) ≥ 64 then s.park .again
  else s.submitCard rd true w n (s.rx rb) (s.footprints w 4 (bits g0 32 3)) (s.footprints w 12 (bits g0 36 2))

/-! ### Operand slots (R277) -/

/-- A slot of the cluster is claimed by no crew. -/
def State.slotFree (s : State) (cl n : Nat) : Bool := !((ctxsOf cl).any (fun c => (s.ctx c).claimed.contains n))

/-- The lowest run of free slots (R277). -/
def State.freeRun (s : State) (cl n : Nat) : Option Nat :=
  let free := (List.range 512).filter (s.slotFree cl)
  free.find? (fun f => f + n ≤ 512 && (List.range n).all (fun k => free.contains (f + k)))

/-- `lclaim` (R277). -/
def execLclaim (rd ra : RegNo) (s : State) : Res' :=
  let v := s.rx ra
  let n := bits v 16 10
  if v &&& ~~~0x3FF0000 ≠ 0 ∨ n = 0 then s.badOperand (.lclaim rd ra)
  else
    match s.freeRun (clusterOfCtx s.cur) n with
    | none => s.done rd 0
    | some f =>
      let t := s.setMe { s.me with claimed := (List.range n).foldl (fun l k => setIns l (f + k)) s.me.claimed }
      t.done rd (BitVec.ofNat 64 (f + n * 2 ^ 16))

/-- Claims of a context released: the slots are cleared (R277). -/
def State.releaseSlots (s : State) (c : Nat) (l : List Nat) : State :=
  let cl := clusterOfCtx c
  let s := l.foldl (fun s n => (clearRange s (tileKey cl n) 0x6000) |> (clearRange · (planeKey cl n) 0x100)) s
  s.setCtx c { s.ctx c with claimed := (s.ctx c).claimed.filter (fun n => !l.contains n) }

/-- `lrelease` (R277): it parks until the crew's jobs that touch the range have ended. -/
def execLrelease (ra : RegNo) (s : State) : Res' :=
  match slotRange (s.rx ra) with
  | none => s.badOperand (.lrelease ra)
  | some r =>
    let l := (List.range r.2).map (r.1 + ·)
    let rs := slotRanges (clusterOfCtx s.cur) r
    if !(l.all (s.me.claimed.contains ·)) then s.badOperand (.lrelease ra)
    else if (s.jobList s.cur).any (fun j => rangesMeet j.2.1 rs || rangesMeet j.2.2 rs) then s.park .again
    else .next (s.releaseSlots s.cur l).next

/-! ### Loom jobs (R276, R280-R282) -/

/-- The crew has no Loom and no request for one (R276). -/
def Ctx.noLoom (x : Ctx) : Bool := x.reqSq == 0 || decide (x.gstate = .idle)

/-- The Loom instructions park (R276, R83). -/
def Ctx.loomParks (x : Ctx) : Bool := x.gstate = .requested || x.gstate = .revoked

/-- A Loom job enters the crew's queue of 8, on the square that the crew holds (R267, R281). -/
def State.submitLoom (s : State) (kind : BitVec 3) (ra rb : Word) : Res' :=
  let x := s.me
  if x.loomParks || x.loomq.length ≥ 8 then s.park .again
  else
    let j : LoomJob := { num := x.lastJob + 1, kind := kind, ra := ra, rb := rb, lg0 := (x.geo 4 0).setWidth 32,
                         chunk := 0, started := false, tokens := 0, side := sideOf x.gsq, parts := [] }
    .next (s.setMe { x with loomq := x.loomq ++ [j], lastJob := x.lastJob + 1 }).next

/-- `lzero` (R280). -/
def execLzero (ra : RegNo) (s : State) : Res' :=
  if s.me.noLoom || (s.rx ra).toNat ≥ 4 then s.badOperand (.lzero ra) else s.submitLoom 4 (s.rx ra) 0

/-- `lmma.o` (R281). -/
def execLmmaO (ra rb : RegNo) (s : State) : Res' :=
  if s.loomBad s.cur (s.rx ra) (s.rx rb) ((s.me.geo 4 0).setWidth 32) then s.badOperand (.lmmaO ra rb)
  else s.submitLoom 5 (s.rx ra) (s.rx rb)

/-- `lmma.r` (R281). -/
def execLmmaR (ra rb : RegNo) (s : State) : Res' :=
  if s.loomBad s.cur (s.rx ra) (s.rx rb) ((s.me.geo 4 0).setWidth 32) then s.badOperand (.lmmaR ra rb)
  else s.submitLoom 6 (s.rx ra) (s.rx rb)

/-- A Loom job of the crew has still to end: one in the queue, or a copy's follow-on. -/
def Ctx.loomBusy (x : Ctx) : Bool := !x.loomq.isEmpty || x.jobs.any (fun j => j.follow != 0)

/-- The drained formats of a bank by its accumulator type (R282). -/
def drainOk (isInt : Bool) (f : Nat) : Bool :=
  if isInt then f == 11 || f == 10 else f == 2 || f == 3 || f == 4 || f == 8

/-- `ldrain` (R282): it waits for the crew's earlier Loom jobs; the format is checked against the type that they leave
the bank in. -/
def execLdrain (rd ra : RegNo) (s : State) : Res' :=
  let x := s.me
  let g := x.geo 4 1
  let side := sideOf x.gsq
  if x.noLoom || (s.rx ra).toNat % 8 != 0 || (x.geo 4 2).toNat % 8 != 0 then s.badOperand (.ldrain rd ra)
  else if x.loomParks || x.loomBusy then s.park .again
  else if !drainOk (if g.getLsbD 8 then x.acc1Int else x.acc0Int) (bits g 0 5) then s.badOperand (.ldrain rd ra)
  else s.issueElems (.ldrain rd ra) (s.rx ra) 0 0 (256 * side * side)

end Sys2Proof.Machine
end

