-- ==== Sys2Proof/Machine/Sync.lean ====
section
/-!
DEFINITION. Synchronisation instructions, class 19 (R284-R295, R165-R169).

A wait parks the context; the step that ends it is one of the table's events (FENCE_RETURN, BARRIER_COMPLETE and so on).
The drains before an arrival park the context with its instruction to be run again.
-/

namespace Sys2Proof.Machine

/-! ### Scopes and drains (R165, R166) -/

/-- A cluster has a core inside a scope. -/
def clusterInside (scope : Word) (cl : Nat) : Bool := (coresOf cl).any (inRect scope)

/-- A physical address lies inside a scope (R165). -/
def inScope (scope : Word) (pa : Nat) : Bool :=
  match placeOf pa with
  | .window cl _ => clusterInside scope cl
  | _ => true

/-- A range that a job writes lies inside a scope; accumulator banks lie where their crew does. -/
def rangeInside (scope : Word) (c : Nat) (r : Nat × Nat) : Bool :=
  if r.1 ≥ 0x2000000000000000 then clusterInside scope (clusterOfCtx c) else inScope scope r.1

/-- Posted stores of a context that are neither applied nor reported (R156, R166). -/
def State.inFlight (s : State) (c : Nat) : List Posted := (s.posted ++ s.wbuf).filter (fun p => p.from_ == c)

/-- The conditions of a fence over a scope (R166). -/
def State.fenceDone (s : State) (c : Nat) (scope : Word) : Bool :=
  (s.inFlight c).all (fun p => !inScope scope p.pa) &&
    (s.jobList c).all (fun j => !(j.2.2.any (rangeInside scope c)))

/-- Every posted store and every job of the crew has completed (R290, R301). -/
def State.allDone (s : State) (c : Nat) : Bool := (s.inFlight c).isEmpty && (s.jobList c).isEmpty

/-- The whole mesh as a scope (R285). -/
def wholeMesh : Word := 0x1F0F0000

/-- A `gbar` or `halt` of a quiet crew finds a FAULTED micro-thread under trapmode 1 (R374). -/
def State.syncTrap (s : State) (c : Nat) : Bool := s.trapmode c == 1 && s.summary c != 0

/-! ### Instructions -/

/-- `fence` (R286): FENCE_RETURN ends it. -/
def execFence (ra : RegNo) (s : State) : Res' :=
  if !rectOk (s.rx ra) then raise s 0x0F (s.rx ra) else s.park (.fence (s.rx ra))

/-- An arrival on the context's barrier channel (R287), which is a sampling point of the abort line (R52). -/
def State.arrive (s : State) (kind : Nat) (scope : Word) (comb : Nat) (v : Word) : Res' :=
  s.park (.barrier kind scope s.me.sense comb v s.now)

/-- `barr` (R285, R289): the fence first, then the arrival; BARRIER_COMPLETE ends it. -/
def execBarr (ra : RegNo) (s : State) : Res' :=
  let v := s.rx ra
  if !rectOk v || !inRect v (s.cur / 4) || !rectIn v s.me.rect then raise s 0x0F v
  else if !s.fenceDone s.cur v then s.park .again
  else (s.sampleAbort s.cur).arrive 0 v 0 0

/-- `gbar` (R285, R287, R290, R400): its scope is `rect`; the exchange phase begins, the crew and its exchange work drain, and the context arrives;
GBAR_COMPLETE ends it. -/
def execGbar (s : State) : Res' :=
  if !rectOk s.me.rect then raise s 0x0F s.me.rect
  else
  let t := if s.me.xch then s else (s.setMe { s.me with xch := true }).drainBuf
  if !t.drained t.cur then t.park .again
  else if t.syncTrap t.cur then raise t 0x17 (t.summary t.cur)
  else if !t.allDone t.cur then t.park .again
  else (t.sampleAbort t.cur).arrive 1 t.me.rect 0 0

/-- `vote` (R285, R287, R291, R400): its scope is `rect`; VOTE_COMPLETE ends it. -/
def execVote (rd ra : RegNo) (comb : BitVec 3) (s : State) : Res' :=
  if !rectOk s.me.rect then raise s 0x0F s.me.rect
  else (s.setMe { s.me with loadRd := rd }).arrive 2 s.me.rect comb.toNat (s.rx ra)

/-- `abort` (R52, R292). -/
def execAbort (s : State) : Res' :=
  let cl := clusterOfCtx s.cur
  let t := s.setCluster cl { s.cluster cl with abortLines := setIns (s.cluster cl).abortLines s.me.recIdx.toNat }
  .next (t.setMe { t.me with abortSeen := true, abortEver := true }).next

/-- `abortq` (R293). -/
def execAbortq (rd : RegNo) (s : State) : Res' := s.done rd (if s.me.abortSeen then 1 else 0)

/-- The key of the doubleword at an address that a context may load, for `wait` and `wake` (R294, R295). -/
def State.keyAt (s : State) (va : Word) : Nat :=
  match s.translate (s.who s.cur) va .r with
  | .ok t _ =>
    match placeOf t.pa with
    | .window cl off => (s.winKey (winOf cl off)).getD t.pa
    | .domain slot addr => if slot = s.memberId.toNat then memKey t.skew addr else t.pa
    | _ => memKey t.skew t.pa
  | _ => 0

/-- The end of the load of a `wait` (R294): it returns when the value differs or the abort line is raised, and else
parks. -/
def State.waitOn (s : State) (key : Nat) (v expected va : Word) : Res' :=
  if v ≠ expected then .next (lapse s (s.cur / 4)).next
  else if s.abortRaised s.cur then .next (lapse (s.sampleAbort s.cur) (s.cur / 4)).next
  else s.park (.watch key expected va)

/-- `wait` (R294): of the windows, only the core's own local memory. -/
def execWait (ra rb : RegNo) (s : State) : Res' :=
  match s.access (s.rx ra) (.load 8) with
  | .value v t => t.waitOn (s.keyAt (s.rx ra)) v (s.rx rb) (s.rx ra)
  | .waits (.remote pa) t => (t.setMe { t.me with watching := some (s.rx rb, s.rx ra) }).park (.remote pa)
  | .waits _ t => raise t 0x07 (s.rx ra)
  | a => a.other s

/-- Data that the current context waits for come back: to a `wait`, or to a load, an atomic, `callt` or `copyj`
(R157, R339). -/
def State.arrived (s : State) (v : Word) : Res' :=
  match s.me.watching, s.me.run with
  | some (e, va), .parked (.remote pa) => (s.setMe { s.me with run := .active, watching := none }).waitOn pa v e va
  | _, _ => s.loaded v

/-- The cause of an address that could not be loaded, for `wake` (R295, R218). -/
def State.loadFault (s : State) (t : Tr) (va : Word) : Option Exc :=
  let w := s.who s.cur
  match placeOf t.pa with
  | .reserved => some { cause := 0x18, val := va }
  | .window cl off => if s.winState w.level (winOf cl off) = .fault then some { cause := 0x07, val := va } else none
  | p =>
    if t.attr = 2 then some { cause := 0x07, val := va }
    else
      match p with
      | .hub off =>
        if w.level = .app ∨ (s.hubRead w.part (w.level = .fw) off).isNone then some { cause := 0x18, val := va } else none
      | .domain slot addr =>
        if slot = s.memberId.toNat then (if domainLocal addr then none else some { cause := 0x18, val := va })
        else if s.ownsSlot w.part slot && s.reachable slot then none
        else some { cause := 0x18, val := va }
      | _ =>
        match s.memFault w t va false with
        | some e => if e.cause = 0x18 ∨ e.cause = 0x23 then some e else none
        | none => none

/-- The context is parked in `wait` on a doubleword. -/
def Ctx.watches (x : Ctx) (key : Nat) : Bool :=
  match x.run with
  | .parked (.watch k _ _) => k == key
  | _ => false

/-- Contexts parked in `wait` on a doubleword are released: each returns at that moment, and its core's leases lapse (R155,
R295). -/
def State.wakeAll (s : State) (key : Nat) : State :=
  let t := ((s.ctxs.filter (fun e => e.2.watches key)).map (·.1)).foldl (fun t c => lapse t (c / 4)) s
  { t with ctxs := s.ctxs.map (fun e => if e.2.watches key then (e.1, e.2.resume) else e) }

/-- `wake` (R295): the checks of a load, and no access. -/
def execWake (ra : RegNo) (s : State) : Res' :=
  let va := s.rx ra
  if !canonical va then raise s 0x03 va
  else if va.toNat % 8 ≠ 0 then raise s 0x04 va
  else
    match s.translate (s.who s.cur) va .r with
    | .exc e t => .next (t.trapAt t.cur t.me.pc e)
    | .upcall t => .next (t.deliver va)
    | .wait t => .next t
    | .ok tr t =>
      match t.loadFault tr va with
      | some e => .next (t.trapAt t.cur t.me.pc e)
      | none => .next (t.wakeAll (s.keyAt va)).next

end Sys2Proof.Machine
end

