-- ==== Sys2Proof/Machine/Gang.lean ====
section
/-!
DEFINITION. Gangs: completion words (R61-R63, R299), the end of a context (R64, R301), placement passes (R55-R60, R300,
R349, R383), save images and snapshots (R378-R383, R426).
-/

namespace Sys2Proof.Machine

/-! ### Order -/

/-- Insertion of an element before the first that does not come before it. -/
def insertBy {α : Type} (le : α → α → Bool) (a : α) : List α → List α
  | [] => [a]
  | b :: l => if le a b then a :: b :: l else b :: insertBy le a l

/-- A list put in order, equal elements as they stood. -/
def sortBy {α : Type} (le : α → α → Bool) (l : List α) : List α := l.foldr (insertBy le) []

/-- A Scrivener record of a lane (R439): its core's row and column, its cluster and its place in the lane array. -/
def State.laneRecord (s : State) (code part cl lane core detail : Nat) : State :=
  scrivener s code part (core / 32 + core % 32 * 0x100 + cl * 0x10000 + lane / 32 * 0x10000000 + lane % 32 * 0x800000) 0
    [detail]

/-! ### Completion words (R61, R62) -/

/-- The gang status word (R62). -/
def gangWord (app : Nat) (cancelled rollback neverfit aborted trapped : Bool) (halted ssn : Nat) : Word :=
  BitVec.ofNat 64 (packBits [(app, 56), (bit cancelled, 52), (bit rollback, 51), (bit neverfit, 50), (bit aborted, 49),
    (bit trapped, 48), (halted, 32), (ssn, 0)])

/-- Two status words combined: error fields by OR, the count by sum, the superstep by maximum (R62). -/
def joinWords (a b : Word) : Word :=
  ((a ||| b) &&& 0xFFFF000000000000) |||
    BitVec.ofNat 64 (packBits [(bits a 32 16 + bits b 32 16, 32), (max (bits a 0 32) (bits b 0 32), 0)])

/-- A completion word written as one 8-byte store through a translation: written, refused, or kept waiting (R269, R299). -/
def State.putWord (s : State) (core c part : Nat) (t : Option Tr) (va v : Word) (level : Level) : Ans :=
  if !canonical va || va.toNat % 8 != 0 then .exc { cause := 0x04, val := va } s
  else
    match t with
    | none => .exc { cause := 0x06, val := va } s
    | some t =>
      s.place { c := c, core := core, part := part, level := level, kind := 1, l1 := false, holder := 0x100000 } t va
        (.store 8 v)

/-- A completion word that waits is tried: it is written, or refused and written to the Scrivener, or it waits on (R151, R299,
R415). -/
def State.tryLate (s : State) (w : LateWord) : State :=
  match s.putWord w.core w.ctx w.part (some { pa := w.pa, skew := w.skew, attr := w.attr, hcl := w.hcl }) w.va w.data .app with
  | .value _ t => t
  | .exc _ t => scrivener t 0x62 w.part 0 w.pa [w.recNo]
  | .stall t => { t with lateWords := t.lateWords ++ [w] }
  | _ => { s with lateWords := s.lateWords ++ [w] }

/-- Completion words of records that could not be written at once are tried again, in their order. -/
def State.drainLate (s : State) : State := s.lateWords.foldl State.tryLate { s with lateWords := [] }

/-- The partition of a record (R296). -/
def LRec.part (r : LRec) : Nat := r.fld 20 4

/-- The completion word of a record: its copy in `last`, the store at App (log 20), and a Scrivener record where the store
fails; a store that has to wait, for a held sector or a Copying line, is made later (R62, R63, R151, R299, R415). -/
def State.completion (s : State) (r : Nat) (v : Word) : State :=
  let g := s.lrec r
  let s := s.setRec r { g with last := v }
  let rect := if g.state = 3 then g.placed else g.rect
  let core := (32 * row0 rect + col0 rect) % 512
  match s.vecTr (clusterOf core) (g.fld 24 4) .app g.done .w with
  | none => scrivener s 0x62 g.part 0 0 [r]
  | some t =>
    s.tryLate { recNo := r, core := core, ctx := 4 * core + g.fld 8 2, part := g.part, va := g.done, pa := t.pa, skew := t.skew,
                attr := t.attr, hcl := t.hcl, data := v }

/-! ### The end of a context (R64, R301) -/

/-- A context's own status word at its end (R301). -/
def State.ownWord (s : State) (c : Nat) (app : BitVec 8) (trapped : Bool) : Word :=
  let x := s.ctx c
  gangWord app.toNat false (s.gang c).rbFailed false x.abortEver trapped 1 x.ssn.toNat

/-- Local-memory banks of a context are powered down: they wake zero (R64, R145). -/
def State.sleepBanks (s : State) (c : Nat) (banks : BitVec 8) : State :=
  let l := (List.range 8).filter (fun b => banks.getLsbD b)
  { s with asleep := l.foldl (fun a b => put a (8 * (c / 4) + b) none) s.asleep }

/-- The local-memory banks that a context used are powered down (R64). -/
def State.powerDown (s : State) (c : Nat) : State := s.sleepBanks c (s.ctx c).lbanks

/-- A context ends: claims released, lanes returned, loop stack and sequencer discarded; its registers stay as they
stand (R121, R301), but for the writes that wait at its register windows, which are open now (R49). -/
def State.endContext (s : State) (c : Nat) : State :=
  let s := s.releaseSlots c (s.ctx c).claimed
  let cl := clusterOfCtx c
  let r := (s.ctx c).recIdx.toNat
  let k := s.cluster cl
  let used := ((s.ctx c).loomq.map (·.tokens)).sum
  let s := s.setCluster cl { k with tokens := if used = 0 then k.tokens else put k.tokens r (look 0 k.tokens r - used),
                                    tokenQ := k.tokenQ.filter (· != c) }
  let s := ((s.dropGrant c).leaveTripQ c (fun _ => true)).dropAsked c
  let s := { s with wbuf := s.wbuf.filter (fun p => !(p.from_ == c && p.reads)) }
  State.drainBuf (s.setCtx c { s.ctx c with
    run := .free, loops := [], seq := [], jobs := [], loomq := [], stops := [], trips := [], emuNos := [], prompt := none,
    promptBusy := false, postFaults := [], emu := none, emuAt := none, fwWait := none, fwVal := none, call := none, card := none, watching := none,
    winBack := none, elemCap := none })

/-- Whether the context still runs for a record. -/
def State.runsFor (s : State) (c r : Nat) : Bool :=
  let x := s.ctx c
  x.recIdx.toNat == r && (match x.run with
    | .free => false
    | .retained _ => false
    | _ => true)

/-- The contexts of a gang that have not ended, with their ranks. -/
def State.liveRanks (s : State) (r : Nat) : List (Nat × Nat) :=
  let l := s.gangCtxs r
  ((List.range l.length).map (fun k => (k, nth 0 l k))).filter (fun p => s.runsFor p.2 r)

/-- A record goes back to IDLE after its gang (R54). -/
def State.idleRec (s : State) (r : Nat) : State :=
  s.setRec r { (s.lrec r).setState 1 with
    waited := 0, held := false, marked := false, saved := false, own := [], msgs := [], rollback := false, attempts := 0,
    unreplayable := false, rbFailed := false, stopping := none, trigger := false, fresh := false, aborted := [] }

/-- The abort lines of a gang are lowered (R52). -/
def State.lowerLines (s : State) (r : Nat) : State :=
  (List.range 32).foldl (fun s cl =>
    s.setCluster cl { s.cluster cl with abortLines := setDel (s.cluster cl).abortLines r }) s

/-! ### Save images (R378, R381-R383) -/

/-- The address of the image of a rank (R382, R426). -/
def Region.at (g : Region) (r k : Nat) : Nat := g.base + (512 * r + k) * g.stride

/-- The region holds an image of a size for a rank (R382). -/
def Region.fits (g : Region) (r k size : Nat) : Bool :=
  size ≤ g.stride && (512 * r + k + 1) * g.stride ≤ g.len

/-- A region of a partition. -/
def State.saveReg (s : State) (part : Nat) : Region := look .none s.saveRegs part

/-- The snapshot region of a partition (R426). -/
def State.snapReg (s : State) (part : Nat) : Region := look .none s.snapRegs part

/-- Whole doublewords carried into memory at a physical address, with the write-log bits of a partition (R143, R311); a
sector that is poisoned, or in a quarantined region, is not written (R406, R407). -/
def State.carryOut (s : State) (part key n pa : Nat) : State :=
  if s.inMemory pa && s.inMemory (pa + n - 1) then
    let s := (List.range (n / 0x10000 + 1)).foldl (fun s k => logWrite s part (pa + min (0x10000 * k) (n - 1))) s
    let sectors := (List.range ((pa + n - 1) / 256 + 1 - pa / 256)).map (pa / 256 + ·)
    let refused := sectors.filter (fun q => (writeTrouble s 0 (256 * q)).isSome)
    let covered := fun (sector : Nat) =>
      decide (pa < sector * 256 + 256) && decide (sector * 256 < pa + n) && !refused.contains sector
    let stored := (List.range (n / 8)).map (pa + 8 * ·)
    let s := { s with
      l1 := (s.l1.filter (fun e => !covered e.sector)).map (fun e =>
        if e.expiry = 0 then e else { e with since := (stored.filter (fun d => !e.since.contains d)) ++ e.since })
      scrubs := s.scrubs.map (fun e => if covered e.sector then { e with marked := true } else e) }
    if refused.isEmpty then carry s key n pa
    else (sectors.filter covered).foldl (fun s q =>
      let a := max pa (256 * q)
      carry s (key + (a - pa)) (min (pa + n) (256 * q + 256) - a) a) s
  else s

/-- The first sector of a range that cannot be written, with its cause (R406, R407). -/
def State.rangeRefused (s : State) (pa n : Nat) : Option (BitVec 8 × Nat) :=
  if n = 0 then none
  else ((List.range ((pa + n - 1) / 256 + 1 - pa / 256)).map (fun q => 256 * (pa / 256 + q))).findSome? (fun a =>
    (writeTrouble s 0 a).map (fun e => (e, a)))

/-- Parts of on-chip storage that follow the words of an image, in order: key and length (R378). -/
def Ctx.imageParts (x : Ctx) (c : Nat) : List (Nat × Nat) :=
  x.claimed.flatMap (fun n => [(tileKey (clusterOfCtx c) n, 0x6000), (planeKey (clusterOfCtx c) n, 0x100)]) ++
    ((List.range 8).filter (fun b => x.lbanks.getLsbD b)).map (fun b => (localKey (c / 4) (b * 0x8000), 0x8000))

/-- Storage parts carried out one after another. -/
def State.carryParts (s : State) (part : Nat) : List (Nat × Nat) → Nat → State
  | [], _ => s
  | (key, n) :: l, pa => (s.carryOut part key n pa).carryParts part l (pa + n)

/-- The image of a context written at a physical address (R378, R381). -/
def State.putImage (s : State) (part c pa : Nat) : State :=
  let w := s.imageWords c
  (s.physWriteFor part pa w).carryParts part ((s.ctx c).imageParts c) (pa + 8 * w.length)

/-- The storage of a range can be read back: in memory, its checks right, not poisoned (R310, R405). -/
def State.rangeGood (s : State) (pa n : Nat) : Bool :=
  s.inMemory pa && s.inMemory (pa + n - 1) && (badCheckIn s pa n).isNone &&
    (List.range (n / 256 + 1)).all (fun k => (memTrouble s 0 (pa + 256 * k)).isNone)

/-- Storage parts carried back one after another, none where one cannot be read. -/
def State.carryBack (s : State) : List (Nat × Nat) → Nat → Option State
  | [], _ => some s
  | (key, n) :: l, pa => if s.rangeGood pa n then (carry s pa n key).carryBack l (pa + n) else none

/-- The counts of a header (R378), and the size of its image. -/
def hdrSize (h : Word) : Nat :=
  4096 + 96 * bits h 16 5 + 192 * bits h 21 7 + 24832 * bits h 28 10 +
    32768 * ((List.range 8).filter (fun b => h.getLsbD (43 + b))).length

/-- The length of the image at a physical address by its header, that of the control-state record where it cannot be read. -/
def State.imageLen (s : State) (pa : Nat) : Nat :=
  match s.physRead pa 1 with
  | some w => hdrSize (nth 0 w 0)
  | none => 4096

/-- A check mismatch that the restore logic meets in a range, with its record (R404). -/
def State.noteBad (s : State) (part core pa n : Nat) : State :=
  match badCheckIn s pa n with
  | some k => s.mismatch 9 part core k
  | none => s

/-- The words of an image at a physical address (R378). -/
def State.getImage (s : State) (pa : Nat) : Option (List Word) :=
  match s.physRead pa 512 with
  | none => none
  | some w =>
    let h := nth 0 w 0
    match s.physRead (pa + 4096) (12 * bits h 16 5 + 24 * bits h 21 7) with
    | none => none
    | some v => some (w ++ v)

/-- The micro-threads of a REVOKED crew as its records have them, for what reads their states before the regrant. -/
def State.mirrorRecords (s : State) (c : Nat) : State :=
  let x := s.ctx c
  x.locals.foldl (fun s i =>
    s.setMt c i (x.mtOfRecord false (fun n => s.saveRead c (x.recordVa i + BitVec.ofNat 64 (8 * n))))) s

/-- The footprints of a restored job, translated again (R383). -/
def State.jobFootprints (s : State) (c : Nat) (j : Job) : Job :=
  let fp := fun (k n : Nat) => withBanks c ((List.range n).flatMap (fun i =>
    s.footprint c (nth 0 j.card (k + 2 * i)) (nth 0 j.card (k + 2 * i + 1))))
  let ctl := nth 0 j.card 0
  if j.glean then { j with reads := fp 4 (bits ctl 32 3), writes := fp 12 (bits ctl 36 2) }
  else { j with reads := fp 8 (bits ctl 24 3), writes := fp 16 (bits ctl 28 2) }

/-- The local-memory banks and operand slots of a context are awake: an image's bytes reach them after their wake-up
(R145, R383), and no wake-up that comes later clears them. -/
def State.awakeBanks (s : State) (c : Nat) : State :=
  let x := s.ctx c
  { s with asleep := s.asleep.filter (fun e =>
      !(e.1 < 0x10000 && e.1 / 8 == c / 4 && x.lbanks.getLsbD (e.1 % 8)) &&
        !(x.claimed.any (fun n => e.1 == slotUnit (clusterOfCtx c) n))) }

/-- The words and the on-chip storage of an image brought back to a context (R383), none where the image cannot be read
(R404).  An abort that its core issued or saw before the save still counts (R62, R292). -/
def State.loadImage (s : State) (r c pa : Nat) (rect : Word) (stvec : Word) : Option State :=
  let g := s.lrec r
  match s.getImage pa with
  | none => none
  | some w =>
    let old := s.ctx c
    let y := old.ofImage (nth 0 w) rect
    let y := { y with run := .active, level := .app, recIdx := BitVec.ofNat 8 r, ptroot := g.ptroot &&& 0xFFFFFFFFFF000,
                      vspace := BitVec.ofNat 4 (g.fld 24 4), st := { old.st with vec := stvec }, ft := old.ft,
                      abortEver := y.abortEver || g.aborted.contains (rankIn rect (c / 4)) }
    match (s.setCtx c y).carryBack (y.imageParts c) (pa + 8 * w.length) with
    | none => none
    | some t =>
      let t := t.setCtx c { t.ctx c with jobs := (t.ctx c).jobs.map (t.jobFootprints c) }
      some (t.awakeBanks c)

/-- The doubleword of the saved micro-thread records of a REVOKED crew that the restore logic finds wrong or poisoned, with
its cause and physical address (R310, R404, R405). -/
def State.recordsBad (s : State) (c : Nat) : Option (BitVec 8 × Nat) :=
  if (s.ctx c).gstate = .revoked then (s.ctx c).locals.findSome? (s.recordBad c) else none

/-- A context restored from its image and its micro-thread records in a save slot (R383), none where they cannot be read
(R404). -/
def State.restoreImage (s : State) (r c pa : Nat) (rect : Word) (stvec : Word) : Option State :=
  match s.loadImage r c pa rect stvec with
  | none => none
  | some t =>
    if (t.recordsBad c).isSome then none
    else some (if (t.ctx c).gstate = .revoked then t.mirrorRecords c else t)

/-- What the restore logic found wrong in an image or in the records beside it, with its record (R404). -/
def State.noteRestore (s : State) (r c pa : Nat) (rect : Word) (stvec : Word) : State :=
  let part := (s.lrec r).part
  match s.loadImage r c pa rect stvec with
  | none => s.noteBad part (c / 4) pa (s.imageLen pa)
  | some t =>
    match t.recordsBad c with
    | some (k, a) => if k = 0x20 then s.mismatch 9 part (c / 4) a else s
    | none => s

/-! ### Snapshots (R426) -/

/-- The size of a snapshot of a context. -/
def State.snapSize (s : State) (c : Nat) : Nat :=
  let x := s.ctx c
  let y := { x with seq := [], jobs := [] }
  y.imageSize + x.vl * (8 * recWords x.recSide) + 0xF000 * x.lanesHeld

/-- The crew's contexts are saved, and its lane save area holds their records (R83). -/
def Ctx.recordsSaved (x : Ctx) : Bool := x.saved.isSome && x.inSave && x.revoked.isNone

/-- The doublewords of a micro-thread's record as a snapshot takes them: from the lane save area where the crew's contexts
are saved (R426). -/
def State.snapRecord (s : State) (c i : Nat) : List Word :=
  let x := s.ctx c
  (List.range (recWords x.recSide)).map (fun n =>
    if x.recordsSaved then s.saveRead c (x.recordVa i + BitVec.ofNat 64 (8 * n)) else x.mtRead (s.mt c i) n)

/-- What keeps a snapshot from being taken whole: a record that its reader finds wrong or poisoned, with its physical address
or 0, or a sector of the snapshot that refuses the write (R310, R404-R407). -/
def State.snapTrouble (s : State) (c pa : Nat) : Option (BitVec 8 × Nat) :=
  let x := s.ctx c
  match (if x.recordsSaved then x.locals.findSome? (s.recordBad c)
         else if x.locals.any (s.spillBad c) then some (0x20, 0) else none) with
  | some e => some e
  | none => s.rangeRefused pa (s.snapSize c)

/-- The scratchpads of a crew's grant slots. -/
def State.scratchParts (s : State) (c : Nat) : List (Nat × Nat) :=
  ((s.ctx c).slots.filter (· < 512)).map (fun l => (scratchKey (clusterOfCtx c) l, 0xF000))

/-- The snapshot of a context: its image, its micro-thread records and its scratchpads (R426). -/
def State.putSnapshot (s : State) (part c pa : Nat) : State :=
  let x := s.ctx c
  let t := (s.setCtx c { x with seq := [], jobs := [], loomq := [] }).putImage part c pa
  let t := t.setCtx c x
  let pa := pa + { x with seq := [], jobs := [] }.imageSize
  let n := recWords x.recSide
  let t := x.locals.foldl (fun t i => t.physWriteFor part (pa + 8 * n * i) (s.snapRecord c i)) t
  t.carryParts part (s.scratchParts c) (pa + 8 * n * x.vl)

/-- The snapshot of a context of a rollback gang; a cause that it meets is delivered as in a gang without the attribute, and
the superstep, whose snapshot is not whole, is not rolled back to (R429). -/
def State.takeSnapshot (s : State) (r k c : Nat) : State :=
  let g := s.lrec r
  let pa := (s.snapReg g.part).at r k
  let t := s.putSnapshot g.part c pa
  match s.snapTrouble c pa with
  | none => t
  | some (e, a) =>
    let t := if e = 0x20 then t.mismatch 9 g.part (c / 4) a else t
    (t.setRec r { t.lrec r with unreplayable := true }).trapAt c (t.ctx c).pc { cause := e, val := BitVec.ofNat 64 a }

/-- A snapshot of every context of a rollback gang; where one does not fit, the attribute goes (R426). -/
def State.snapshot (s : State) (r : Nat) : State :=
  let g := s.lrec r
  let p := g.part
  if g.rollback then
    let l := s.liveRanks r
    if l.all (fun k => (s.snapReg p).fits r k.1 (s.snapSize k.2)) then
      l.foldl (fun s k => s.takeSnapshot r k.1 k.2) s
    else scrivener (s.setRec r { g with rollback := false }) 0x16 p 0 0 [r]
  else s

/-! ### Placement (R55-R60, R300, R349, R350, R383) -/

/-- The core belongs to a partition and is not missing (R437). -/
def State.coreIn? (s : State) (part core : Nat) : Bool :=
  s.partOf core == part && s.img.parts.any (fun d => d.part == part && inRect d.cores core) &&
    !((s.cluster (clusterOf core)).missingCores.contains core)

/-- The core is free for a record (R56). -/
def State.coreFree (s : State) (r core : Nat) : Bool :=
  let g := s.lrec r
  s.coreIn? g.part core &&
    (match (s.ctx (4 * core + g.fld 8 2)).run with
     | .free => true
     | .retained succ => succ == r
     | _ => false)

/-- Rectangles of the extent of a record, or its own (R56). -/
def LRec.candidates (g : LRec) : List Word :=
  if g.fld 10 1 = 0 then [g.rect]
  else
    let h := row1 g.rect - row0 g.rect
    let w := col1 g.rect - col0 g.rect
    (List.range (16 - h)).flatMap (fun a => (List.range (32 - w)).map (fun b => mkRect a b (a + h) (b + w)))

/-- The candidates inside the record's partition. -/
def State.rectsFor (s : State) (r : Nat) : List Word :=
  let g := s.lrec r
  g.candidates.filter (fun w => (rectCores w).all (s.coreIn? g.part))

/-- The record can never fit (R55, R437). -/
def State.neverFits (s : State) (r : Nat) : Bool := (s.rectsFor r).isEmpty

/-- The rectangle of contexts retained for a record (R64). -/
def State.retainedRect (s : State) (r : Nat) : Option Word :=
  (s.ctxs.find? (fun e => e.2.run == .retained r)).map (fun e => e.2.rect)

/-- Two rectangles have the same extent. -/
def sameExtent (a b : Word) : Bool := row1 a + row0 b == row1 b + row0 a && col1 a + col0 b == col1 b + col0 a

/-- A retention released: the banks are powered down and the context is FREE (R64). -/
def State.release (s : State) (c : Nat) : State :=
  match (s.ctx c).run with
  | .retained _ => (s.powerDown c).setCtx c { s.ctx c with run := .free, lbanks := 0 }
  | _ => s

/-- The slots that a saved rank claims (R378). -/
def State.savedSlots (s : State) (pa : Nat) : List Nat :=
  match s.physRead (pa + 0x580) 8 with
  | some w => (List.range 512).filter (fun n => (nth 0 w (n / 64)).getLsbD (n % 64))
  | none => []

/-- The ranks of a saved record that have images: those not halted before (R383). -/
def LRec.savedRanks (g : LRec) : List Nat :=
  (List.range (rectCores g.rect).length).filter (fun k => !(g.own.any (fun e => e.1 == k)))

/-- Every claimed slot number of a saved gang is free in the cluster its rank lands in (R383). -/
def State.slotsLand (s : State) (r : Nat) (rect : Word) : Bool :=
  let g := s.lrec r
  let cores := rectCores rect
  let l := g.savedRanks.flatMap (fun k =>
    (s.savedSlots ((s.saveReg g.part).at r k)).map (fun n => (clusterOf (nth 0 cores k), n)))
  l.all (fun e => s.slotFree e.1 e.2) && decide l.Nodup

/-- The gangs that run in a partition. -/
def State.running (s : State) (part : Nat) : List Nat :=
  (s.recs.filter (fun e => e.2.state == 3 && e.2.part == part)).map (·.1)

/-- The power word's fields (R296). -/
def LRec.fmin (g : LRec) : Nat := bits g.power 0 16
/-- Maximum power. -/
def LRec.pmax (g : LRec) : Nat := bits g.power 16 16
/-- Heavy-unit budget. -/
def LRec.heavy (g : LRec) : Nat := bits g.power 32 15

/-- The partition's power allows the record (R328). -/
def State.powerFits (s : State) (r : Nat) : Bool :=
  let g := s.lrec r
  match s.partDef g.part with
  | some d => ((s.running g.part).map (fun k => (s.lrec k).pmax)).sum + g.pmax ≤ d.pgrant
  | none => false

/-- Where a record can be placed now (R56, R64, R383). -/
def State.spotFor (s : State) (r : Nat) : Option Word :=
  let g := s.lrec r
  let ok := fun w => (rectCores w).all (s.coreFree r) && (!g.saved || s.slotsLand r w)
  match s.retainedRect r with
  | some w => if sameExtent w g.rect then ([w].filter (fun w => (rectCores w).all (s.coreIn? g.part) && ok w)).head?
              else (s.rectsFor r).find? ok
  | none => (s.rectsFor r).find? ok

/-- A context started at its record's entry (R60, R300, R349); what placement does not name takes its reset value
(log 21). -/
def State.startCtx (s : State) (r c : Nat) (rect stvec : Word) : State :=
  let g := s.lrec r
  let old := s.ctx c
  let banks := match old.run with
    | .retained _ => old.lbanks
    | _ => 0
  s.setCtx c { Ctx.reset with
    run := .active, pc := g.entry, x := [(1, g.codebound &&& ~~~3), (10, g.arg), (11, g.lanes)],
    recIdx := BitVec.ofNat 8 r, rect := rect, codebound := g.codebound &&& ~~~3, fnbase := g.fnbase &&& ~~~7,
    ptroot := g.ptroot &&& 0xFFFFFFFFFF000, vspace := BitVec.ofNat 4 (g.fld 24 4),
    st := { old.st with vec := stvec }, ft := old.ft, lbanks := banks }

/-- The effect of `irefresh` on a core and its cluster (R350). -/
def State.refreshCore (s : State) (core : Nat) : State :=
  let cl := clusterOf core
  { s.setCluster cl { s.cluster cl with bcache := [] } with
    icache := s.icache.filter (fun e => e.1.1 != core), fbuf := s.fbuf.filter (fun e => e.1.1 / 4 != core) }

/-- The gangs with cores on a die. -/
def State.gangsOn (s : State) (die : Nat) : List Nat :=
  (s.recs.filter (fun e => e.2.state == 3 && (rectCores e.2.placed).any (fun k => dieOf k == die))).map (·.1)

/-- The largest fmin of the gangs on a die, at least 1,200 MHz (R329). -/
def State.clockFloor (s : State) (die : Nat) : Nat :=
  ((s.gangsOn die).map (fun r => (s.lrec r).fmin)).foldl max 1200

/-- Every gang with cores on a die is boost-eligible (R329). -/
def State.boostDie (s : State) (die : Nat) : Bool := (s.gangsOn die).all (fun r => (s.lrec r).fld 13 1 == 1)

/-- A die's clock brought to what the gangs on it ask for, when one has come (R329): firmware raises it to the largest fmin,
in steps of 100 MHz, and lowers it to 3,300 MHz where a gang is not boost-eligible.  Where the largest fmin is above 3,300
MHz and a gang is not boost-eligible, or the die's power is not below its share, the two clauses of R329 contradict each
other, and the floor wins; the change has been made when a core of the gang first issues, so that no droop leaves the clock
below the floor (DESIGN CHOICE, log 121). -/
def State.fitClock (s : State) (die : Nat) : State :=
  let mhz := max (min 3600 ((s.clockFloor die + 99) / 100 * 100))
    (if s.boostDie die then s.clock die else min (s.clock die) 3300)
  if mhz = s.clock die then s else s.setClock die mhz

/-- A record placed on a rectangle: every context starts, or is restored from its slot (R60, R383). -/
def State.placeAt (s : State) (r : Nat) (rect : Word) : State :=
  let g := s.lrec r
  let stvec := match s.partDef g.part with
    | some d => d.stvec &&& ~~~3
    | none => 0
  let region := s.saveReg g.part
  let g2 := { g.setState 3 with
    placed := rect, rollback := g.fld 12 1 == 1, attempts := 0, unreplayable := false, trigger := false, fresh := false,
    saved := false, waited := 0, marked := false, msgs := [], own := if g.saved then g.own else [],
    aborted := if g.saved then g.aborted else [] }
  let s := s.setRec r g2
  let cores := rectCores rect
  let s := (List.range cores.length).foldl (fun s k =>
    let core := nth 0 cores k
    let c := 4 * core + g.fld 8 2
    let s := s.refreshCore core
    if !g.saved then s.startCtx r c rect stvec
    else if g.own.any (fun e => e.1 == k) then s
    else
      match s.restoreImage r c (region.at r k) rect stvec with
      | some t => t
      | none =>
        let l := s.lrec r
        (s.setRec r { l with own := put l.own k (gangWord 0 false g2.rollback false (g.aborted.contains k) true 1 0) }).noteRestore
          r c (region.at r k) rect stvec) s
  ((cores.map dieOf).eraseDups.foldl State.fitClock s).snapshot r

/-- Records in the order of a pass: effective priority, then arming (R57). -/
def State.passOrder (s : State) : List Nat :=
  (sortBy (fun a b => decide (b.2.fld 40 2 < a.2.fld 40 2) || (b.2.fld 40 2 == a.2.fld 40 2 && decide (a.2.armed ≤ b.2.armed)))
    (s.recs.filter (fun e => e.2.state == 2 && !e.2.held))).map (·.1)

/-- Every image of a gang fits its save slot (R382). -/
def State.imagesFit (s : State) (r : Nat) : Bool :=
  let g := s.lrec r
  (s.liveRanks r).all (fun k => (s.saveReg g.part).fits r k.1 ((s.ctx k.2).imageSize))

/-- A gang that a record of an effective priority may stop at its `gbar` (R59, R382). -/
def State.canMark (s : State) (q prio : Nat) : Bool :=
  let g := s.lrec q
  g.state == 3 && decide (g.fld 6 2 < prio) && s.imagesFit q

/-- The gang whose context keeps a core from a record. -/
def State.holder (s : State) (core ctx : Nat) : Option Nat :=
  match (s.ctx (4 * core + ctx)).run with
  | .free => none
  | .retained _ => none
  | _ => some (s.ctx (4 * core + ctx)).recIdx.toNat

/-- The pre-emption that the first record of a pass looks for (R59). -/
def State.markFor (s : State) (r : Nat) : State :=
  let g := s.lrec r
  let n := g.fld 8 2
  let busy := fun w => (rectCores w).filter (fun k => !s.coreFree r k)
  match (s.rectsFor r).find? (fun w => (busy w).all (fun k => match s.holder k n with
    | some q => s.canMark q (g.fld 40 2)
    | none => false)) with
  | none => s
  | some w => ((busy w).filterMap (fun k => s.holder k n)).foldl (fun s q => s.setRec q { s.lrec q with marked := true }) s

/-- Retentions for a record of another extent end (R64). -/
def State.releaseFor (s : State) (r : Nat) : State :=
  match s.retainedRect r with
  | some w =>
    if sameExtent w (s.lrec r).rect then s
    else ((s.ctxs.filter (fun e => e.2.run == .retained r)).map (·.1)).foldl State.release s
  | none => s

/-- The records of a pass, one after another (R57): a blocking record stops it. -/
def State.passOver (s : State) : List Nat → Bool → State
  | [], _ => s
  | r :: l, first =>
    let s := s.releaseFor r
    let g := s.lrec r
    match (if s.powerFits r then s.spotFor r else none) with
    | some w => (s.placeAt r w).passOver l false
    | none =>
      let s := if first && s.powerFits r then s.markFor r else s
      if g.fld 40 2 = 3 ∧ 1 ≤ g.waited then s else s.passOver l false

/-- A placement pass (R57). -/
def State.pass (s : State) : State := s.passOver s.passOrder true

/-- A gang completes: its completion word is written, the record is IDLE, and a pass runs (R54, R57). -/
def State.finishGang (s : State) (r : Nat) (v : Word) : State := ((s.completion r v).idleRec r |>.lowerLines r).pass

/-- The superstep of a saved or running gang (R62). -/
def State.gangSsn (s : State) (r : Nat) : Nat :=
  let g := s.lrec r
  let l := if g.state = 3 then (s.liveRanks r).map (fun k => (s.ctx k.2).ssn.toNat)
    else if g.saved then
      g.savedRanks.map (fun k => match s.physRead ((s.saveReg g.part).at r k + 0x250) 1 with
        | some w => bits (nth 0 w 0) 0 32
        | none => 0)
    else []
  (l ++ g.own.map (fun e => bits e.2 0 32)).foldl max 0

/-- The image of a saved rank has the abort-seen flag set (R378). -/
def State.imageAborted (s : State) (g : LRec) (r k : Nat) : Bool :=
  match s.physRead ((s.saveReg g.part).at r k + 0x10) 1 with
  | some w => (nth 0 w 0).getLsbD 0
  | none => false

/-- An abort of the gang has been issued or seen by a core, in a status word of one that has ended, before a save, or by an
image that was imported (R62, R292). -/
def State.gangAborted (s : State) (r : Nat) : Bool :=
  let g := s.lrec r
  !g.aborted.isEmpty || (g.state == 3 && (s.liveRanks r).any (fun k => (s.ctx k.2).abortEver)) ||
    (g.state != 3 && g.saved && g.savedRanks.any (s.imageAborted g r))

/-- A gang or an armed record withdrawn: its contexts end, and the completion word says cancelled beside what the words of
the cores that have ended say (R54, R62, R383, R435).  Whether the cores whose contexts a withdrawal ends count as halted is
left open: the count is of those that had ended before (DESIGN CHOICE, log 120). -/
def State.withdraw (s : State) (r : Nat) : State :=
  let g := s.lrec r
  let v := (g.own.map (·.2)).foldl joinWords
    (gangWord 0 true g.rbFailed false (s.gangAborted r) false 0 (s.gangSsn r))
  let s := if g.state = 3 then (s.liveRanks r).foldl (fun s k => (s.powerDown k.2).endContext k.2) s else s
  s.finishGang r v

/-- A context whose records or image cannot be restored ends for its gang with the trapped bit (R404), and in a rollback gang
with the rollback bit (R429). -/
def State.failContext (s : State) (c : Nat) : State :=
  let r := (s.ctx c).recIdx.toNat
  let g := { s.lrec r with rbFailed := (s.lrec r).rbFailed || (s.lrec r).rollback }
  let s := s.setRec r g
  let s := s.setRec r { g with own := put g.own (rankIn g.placed (c / 4)) (s.ownWord c 0 true) }
  (s.powerDown c).endContext c

/-- Of the contexts `l` of a crew, one whose record in a spill area is found wrong where it is read for a save or a restore
(R310): the gang's context ends, with a record that names no physical address (R404, R439). -/
def State.spillFails (s : State) (c : Nat) (l : List Nat) : Option State :=
  if l.any (s.spillBad c) then some ((s.mismatch 9 (s.partOf (c / 4)) (c / 4) 0).failContext c) else none

/-- A stopped gang is saved and its record returns to ARMED (R54, R59, R381).  The spec does not say what becomes of an abort
line that is raised when the gang is pre-empted: the model leaves it raised in the clusters where it is until the gang's
next `gbar` lowers it, and raises none in the clusters where the gang is placed again (DESIGN CHOICE, log 106); the
cores that have issued or seen the abort keep it for the aborted bit (R62, R292). -/
def State.saveGang (s : State) (r : Nat) (hold : Bool) : State :=
  let g := s.lrec r
  let seen := ((s.liveRanks r).filter (fun k => (s.ctx k.2).abortEver)).map (·.1)
  let g := { g with aborted := seen.foldl setIns g.aborted }
  let s := s.setRec r g
  let s := (s.liveRanks r).foldl (fun s k =>
    (s.putImage g.part k.2 ((s.saveReg g.part).at r k.1)).endContext k.2) s
  let g := s.lrec r
  let s := s.setRec r { (g.setState 2).setFld 40 2 (g.fld 6 2) with
    armed := s.armCount, waited := 0, held := hold, marked := false, saved := true, stopping := none, msgs := [] }
  { s with armCount := s.armCount + 1 }

end Sys2Proof.Machine
end

