-- ==== Sys2Proof/Machine/Launch.lean ====
section
/-!
DEFINITION. Launch and system instructions, class 20 (R284, R296-R306), and the numeric behaviour records (R113, R114).
-/

namespace Sys2Proof.Machine

/-- `lpatch` (R298): it awaits the hub's reply; HUB_LPATCH_REQUEST ends it. -/
def execLpatch (ra rb : RegNo) (field : BitVec 3) (s : State) : Res' :=
  if (s.rx ra).toNat > 255 then raise s 0x10 (s.rx ra)
  else s.park (.lpatch (s.rx ra).toNat field.toNat (s.rx rb))

/-- `larm` (R299): a fence over the whole mesh, then the hub's reply; HUB_LARM_REQUEST ends it. -/
def execLarm (ra : RegNo) (s : State) : Res' :=
  if (s.rx ra).toNat > 255 then raise s 0x10 (s.rx ra)
  else if !s.fenceDone s.cur wholeMesh then s.park .again
  else s.park (.larm (s.rx ra).toNat)

/-- `halt` (R301): HALT_DRAIN_END ends the context when its drains are done. -/
def execHalt (ra : RegNo) (s : State) : Res' := s.park (.halt ((s.rx ra).setWidth 8))

/-- `trap` completes and raises the software trap: the saved pc is the next word's (R302). -/
def execTrap (code : BitVec 8) (s : State) : Res' :=
  .next (s.trapAt s.cur (s.me.pc + 4) { cause := 0x14, val := code.setWidth 64 })

/-- `eret` (R303, R373): at Fw it also ends an emulation trip (R394), once what firmware reads for it has come (R198). -/
def execEret (s : State) : Res' :=
  let x := s.me
  if x.level = .app then raise s 0x02 (wordVal (encode .eret))
  else
    match x.emu with
    | some (kind, word) =>
      if x.level = .fw ∧ x.ft.cause = 0x13 then
        (if x.fwWait.isSome then .next s else .next (s.endTrip s.cur kind word))
      else .next (s.setMe x.eret)
    | none => .next (s.setMe x.eret)

/-- `upret` (R304). -/
def execUpret (s : State) : Res' :=
  if s.me.level ≠ .app then raise s 0x02 (wordVal (encode .upret))
  else .next (s.setMe { s.me with pc := s.me.upepc, upcallEn := true })

/-- `irefresh` (R174, R305): it waits for the stores and job writes before it, then the core's instruction cache and
the lines of the cluster's block cache go; taken sequencer entries keep the words they hold. -/
def execIrefresh (s : State) : Res' :=
  if !s.allDone s.cur then s.park .again
  else
    let cl := clusterOfCtx s.cur
    let t := { s with icache := s.icache.filter (fun e => e.1.1 != s.cur / 4),
                       fbuf := s.fbuf.filter (fun e => e.1.1 / 4 != s.cur / 4) }
    .next (t.setCluster cl { t.cluster cl with bcache := [] }).next

/-! ### Capability records (R113, R114, R199, R306) -/

/-- What R114 gives a Loom format: chunk, scaled, INT32 accumulators, MACs. -/
def numericFields (f : Nat) : Option (Nat × Bool × Bool × Nat) :=
  match f with
  | 3 => some (16, false, false, 128)
  | 4 => some (16, false, false, 128)
  | 7 => some (48, true, false, 512)
  | 8 => some (48, true, false, 256)
  | 9 => some (48, true, false, 512)
  | 10 => some (32, false, true, 256)
  | _ => none

/-- The numeric behaviour record of a format code (R113). -/
def numericRecord (f : Nat) : Word :=
  match numericFields f with
  | none => 0
  | some (chunk, scaled, int, macs) =>
    BitVec.ofNat 64 (packBits [(macs, 28), (2, 26), (1, 24), (bit int, 21), (1, 19), (1, 17), (bit scaled, 16),
      (chunk, 8), (bit int, 5), (f, 0)])

/-- A capability record. -/
def State.capability (s : State) (n : Nat) : Word :=
  if n = 0 then BitVec.ofNat 64 (packBits [(0x5347, 48), (0x0008, 32), (s.img.stepping.toNat, 24)])
  else if n = 1 then BitVec.ofNat 64 (packBits [(8, 40), (32, 32), (16, 24), (512, 12), (4, 8), (12, 0)])
  else if n = 0x10 then s.disposition
  else if n = 0x20 then BitVec.ofNat 64 (packBits [(16, 20), (6, 16), (32, 8), (1, 0)])
  else if 0x100 ≤ n ∧ n ≤ 0x110 then numericRecord (n - 0x100)
  else 0

/-- `discover` (R306). -/
def execDiscover (rd ra : RegNo) (s : State) : Res' := s.done rd (s.capability (s.rx ra).toNat)

end Sys2Proof.Machine
end

