-- ==== Sys2Proof/Machine/WMem.lean ====
section
/-!
DEFINITION. Memory words of micro-threads, ops 0x33-0x38 (R194, R245-R247, R151).

A load is served when its word issues; stores, atomics and scratchpad stores wait in the block and are performed at its
commit.
-/

namespace Sys2Proof.Machine

/-- The current micro-thread as the maker of vector-port accesses: it acts at App (R245). -/
def State.laneWho (s : State) : Who := { s.portWho s.cur with level := .app, holder := 512 * s.cur + s.curMt }

/-- Where a lane's access goes. -/
inductive LaneAt where
  /-- Memory of this module. -/
  | here (t : Tr)
  /-- Memory of another member, by slot and physical address (R339). -/
  | remote (slot pa : Nat)

/-- An access to memory of this module when its word issues: a load meets every cause, a store those of its place (R338,
R405-R409). -/
def State.laneMem (s : State) (t : Tr) (va : Word) (need : Need) : Except Exc LaneAt :=
  match s.memFault s.laneWho t va (need != .r) with
  | some e => if need = .r ∨ e.cause = 0x18 ∨ e.cause = 0x23 then .error e else .ok (.here t)
  | none => .ok (.here t)

/-- The checks of a lane's access when its word issues (R232, R338, R388). -/
def State.laneAt (s : State) (va : Word) (n : Nat) (need : Need) : Except Exc LaneAt :=
  if !canonical va then .error { cause := 0x03, val := va }
  else if va.toNat % n ≠ 0 then .error { cause := 0x04, val := va }
  else
    match s.vecTr (clusterOfCtx s.cur) s.me.vspace.toNat .app va need with
    | none => .error { cause := 0x06, val := va }
    | some t =>
      if t.attr = 2 then .error { cause := 0x07, val := va }
      else
        match placeOf t.pa with
        | .reserved => .error { cause := 0x18, val := va }
        | .window _ _ => .error { cause := 0x07, val := va }
        | .hub _ => .error { cause := 0x18, val := va }
        | .domain slot addr =>
          if slot = s.memberId.toNat then
            (if domainLocal addr then s.laneMem { pa := addr, skew := t.skew, attr := 1 } va need
             else .error { cause := 0x18, val := va })
          else if s.ownsSlot (s.partOf (s.cur / 4)) slot && s.reachable slot then .ok (.remote slot t.pa)
          else .error { cause := 0x18, val := va }
        | _ => s.laneMem t va need

/-- The key of a lane's access: a remote address is its own key. -/
def LaneAt.key : LaneAt → Nat
  | .here t => memKey t.skew t.pa
  | .remote _ pa => pa

/-- A byte as the block's own stores leave it (R151). -/
def ownByte (l : List BlkStore) (key : Nat) : Option Byte :=
  match l.reverse.find? (fun e => e.kind == 0 && e.key ≤ key && key < e.key + e.width) with
  | some e => some (e.data.extractLsb' (8 * (key - e.key)) 8)
  | none => none

/-- Bytes of memory with the block's own stores over them. -/
def overlayOwn (l : List BlkStore) (key : Nat) (bs : List Byte) : List Byte :=
  (List.range bs.length).map (fun j => (ownByte l (key + j)).getD (nth 0 bs j))

/-- Every byte comes from the block's own stores. -/
def allOwn (l : List BlkStore) (key n : Nat) : Bool := (List.range n).all (fun j => (ownByte l (key + j)).isSome)

/-- The bytes that a load has read stay with the block for its commit; a third execution holds their sectors, unless another block
holds one: then this one lets go of its own, and is no third execution any more (R151; log 107). -/
def State.noteLoad (s : State) (b : Blk) (key : Nat) (bs : List Byte) : Blk × State :=
  let l := [sectorOf key, sectorOf (key + bs.length - 1)].dedup
  let hold := decide (2 ≤ b.runs) && !l.any (s.blocked s.laneWho)
  ({ b with loads := b.loads ++ [(key, bs)], runs := if hold then b.runs else min b.runs 1 },
    if hold then { s with heldSectors := s.heldSectors ++ l.map (fun q => (q, 512 * s.cur + s.curMt)) }
    else s.letGo s.cur s.curMt)

/-- The data of a load of this module's memory, with its check (R245, R310). -/
def State.laneLoad (s : State) (b : Blk) (t : Tr) (va : Word) (n : Nat) (signed : Bool) (wd : RegNo) : WRes :=
  let key := memKey t.skew t.pa
  let bs := readBytes s.mem key n
  if s.stalls t && !allOwn b.stores key n then .wait s.noteStall
  else
  match (if allOwn b.stores key n then none else s.badCheck s.laneWho key t.pa va) with
  | some (e, u) => .fault e u
  | none =>
    let v := BitVec.ofNat 64 (leNat (overlayOwn b.stores key bs))
    let r := (s.served s.laneWho t (sectorOf key) (.load n)).noteLoad b key bs
    .go (r.1.dst wd (extend n signed v)) r.2

/-- `ld` and `lds` (R245): the data of another member come back by LOAD_DATA_RETURN. -/
def State.wordLoad (s : State) (h : WHdr) (wd wa wb : RegNo) (wid : BitVec 2) (signed : Bool) : Res' :=
  let n := 2 ^ wid.toNat
  s.word h (fun b =>
    match b.src s.myMt.linkq wa with
    | none => .hold s
    | some (x, b1) =>
      match b1.src s.myMt.linkq wb with
      | none => .hold s
      | some (y, b2) =>
        match s.laneAt (x + y) n .r with
        | .error e => .fault e s
        | .ok (.here t) => s.laneLoad b2 t (x + y) n signed wd
        | .ok (.remote slot pa) =>
          if allOwn b2.stores pa n then
            .go (b2.dst wd (extend n signed
              (BitVec.ofNat 64 (leNat (overlayOwn b2.stores pa (List.replicate n 0)))))) s
          else
            .hold ((s.sendReq slot (tagOf 1 s.cur s.curMt) (domainPacket 1 pa n 0 0 0) []).setBlk
              { b2 with wait := some (wd, n, signed, pa) }))

/-- `ld` (R245). -/
def execWLd (h : WHdr) (wd wa wb : RegNo) (wid : BitVec 2) (s : State) : Res' := s.wordLoad h wd wa wb wid false

/-- `lds` (R245). -/
def execWLds (h : WHdr) (wd wa wb : RegNo) (wid : BitVec 2) (s : State) : Res' := s.wordLoad h wd wa wb wid true

/-- A store or atomic that waits in the block for its commit. -/
def LaneAt.held (a : LaneAt) (kind : Nat) (va : Word) (n : Nat) (d d2 : Word) (rd : RegNo) : BlkStore :=
  match a with
  | .here t => { kind := kind, va := va, key := a.key, pa := t.pa, skew := t.skew, attr := t.attr, hcl := t.hcl, width := n, data := d,
                 data2 := d2, rd := rd }
  | .remote _ pa => { kind := kind, va := va, key := pa, pa := pa, skew := 0, attr := 1, hcl := 32, width := n, data := d,
                      data2 := d2, rd := rd }

/-- `st` (R245): the sources pop in the order `wa`, `wb`, `wd`. -/
def execWSt (h : WHdr) (wd wa wb : RegNo) (wid : BitVec 2) (s : State) : Res' :=
  let n := 2 ^ wid.toNat
  s.word h (fun b =>
    match b.src s.myMt.linkq wa with
    | none => .hold s
    | some (x, b1) =>
      match b1.src s.myMt.linkq wb with
      | none => .hold s
      | some (y, b2) =>
        match b2.src s.myMt.linkq wd with
        | none => .hold s
        | some (v, b3) =>
          match s.laneAt (x + y) n .w with
          | .error e => .fault e s
          | .ok a => .go { b3 with stores := b3.stores ++ [a.held 0 (x + y) n v 0 0] } s)

/-- The atomics (R246): operands are those of the word's issue; a compute phase of a rollback gang issues none (R428). -/
def State.wordAtomic (s : State) (h : WHdr) (wd wa wb : RegNo) (kind : Nat) : Res' :=
  s.word h (fun b =>
    match b.src s.myMt.linkq wa with
    | none => .hold s
    | some (x, b1) =>
      match b1.src s.myMt.linkq wb with
      | none => .hold s
      | some (y, b2) =>
        match s.laneAt (x + y) 8 .rw with
        | .error e => .fault e s
        | .ok a =>
          if s.noAtomic s.cur then .fault { cause := 0x2A, val := x + y } s
          else
            let old := look 0 b.w wd.toNat
            .go { b2 with stores := b2.stores ++ [a.held kind (x + y) 8 old (look 0 b.w (wd.toNat + 1)) wd] } s)

/-- `aadd` (R246). -/
def execWAadd (h : WHdr) (wd wa wb : RegNo) (s : State) : Res' := s.wordAtomic h wd wa wb 2

/-- `aswap` (R246). -/
def execWAswap (h : WHdr) (wd wa wb : RegNo) (s : State) : Res' := s.wordAtomic h wd wa wb 3

/-- `acas` (R246). -/
def execWAcas (h : WHdr) (wd wa wb : RegNo) (s : State) : Res' := s.wordAtomic h wd wa wb 4

/-! ### Scratchpad (R247) -/

/-- The unit of a bank of the lane of the current micro-thread (R145). -/
def State.mySpUnit (s : State) (bit : Nat) : Nat :=
  spUnit (clusterOfCtx s.cur) (s.laneOf s.cur s.curMt) (bit / 8 / 0x4000)

/-- The key of the scratchpad of the current micro-thread's lane (R128). -/
def State.mySp (s : State) : Nat := scratchKey (clusterOfCtx s.cur) (s.laneOf s.cur s.curMt)

/-- The window address of a byte of a lane's scratchpad (R118), which a mismatch record names. -/
def State.spAddr (s : State) (c i off : Nat) : Nat :=
  winBase (clusterOfCtx c) + 0x80000000 + crewNo c * 0x2000000 + (s.mt c i).slot * 0x10000 + off

/-- The first doubleword of an element's place that cannot be consumed (R310, R404, R405). -/
def State.spBad (s : State) (key bit w : Nat) : Option Nat :=
  [bit / 8 / 8 * 8, (bit + w - 1) / 8 / 8 * 8].find? (fun o => chipFails s (key + o))

/-- The fault of a scratchpad doubleword that cannot be consumed, at the key and window address given, and its record (R403-R405,
R450). -/
def State.spFault (s : State) (c key a : Nat) : Exc × State :=
  let k := chipCause s key
  ({ cause := k, val := causeVal k (BitVec.ofNat 64 a) },
    if k = 0x20 then s.mismatch 2 (s.partOf (c / 4)) (c / 4) a else s)

/-- `spld` (R247): the block's earlier store to the element, or the committed contents with their check, which the commit looks
at again (R151).  A range fault records the address 0 (DESIGN CHOICE, log 123). -/
def execWSpld (h : WHdr) (wd wa wb : RegNo) (s : State) : Res' :=
  s.word h (fun b =>
    match b.src s.myMt.linkq wa with
    | none => .hold s
    | some (x, b1) =>
      match b1.src s.myMt.linkq wb with
      | none => .hold s
      | some (y, b2) =>
        match spPlace b.cap.bfmt (x + y) with
        | none => .fault { cause := 0x08, val := 0 } s
        | some (first, w, code) =>
          if s.unitAsleep (s.mySpUnit first) then .wait (s.wakeUnit (s.mySpUnit first)).noteStall
          else
          match b.stores.reverse.find? (fun e => e.kind == 1 && e.pa == first) with
          | some e => .go (b2.dst wd (spValue code e.data.toNat)) s
          | none =>
            match s.spBad s.mySp first w with
            | some o =>
              let r := s.spFault s.cur (s.mySp + o) (s.spAddr s.cur s.curMt o)
              .fault r.1 r.2
            | none =>
              let r := s.noteLoad b2 (s.mySp + first / 8) (readBytes s.mem (s.mySp + first / 8) ((first % 8 + w + 7) / 8))
              .go (r.1.dst wd (spValue code (readBits s.mem s.mySp first w))) r.2)

/-- `spst` (R247); its range fault records the address 0 too (DESIGN CHOICE, log 123). -/
def execWSpst (h : WHdr) (wd wa wb : RegNo) (s : State) : Res' :=
  s.word h (fun b =>
    match b.src s.myMt.linkq wa with
    | none => .hold s
    | some (x, b1) =>
      match b1.src s.myMt.linkq wb with
      | none => .hold s
      | some (y, b2) =>
        match b2.src s.myMt.linkq wd with
        | none => .hold s
        | some (v, b3) =>
          match spPlace b.cap.bfmt (x + y) with
          | none => .fault { cause := 0x08, val := 0 } s
          | some (first, w, code) =>
            if s.unitAsleep (s.mySpUnit first) then .wait (s.wakeUnit (s.mySpUnit first))
            else
            let r := spStored code (b.rnd s.curMt 0) v
            let e : BlkStore := { kind := 1, va := 0, key := s.mySp, pa := first, skew := 0, attr := 0, hcl := 32, width := w,
                                  data := BitVec.ofNat 64 r.1, data2 := 0, rd := 0 }
            .go { (b3.flag r.2) with stores := b3.stores ++ [e] } s)

end Sys2Proof.Machine
end

