-- ==== Sys2Proof/Machine/EvCrew.lean ====
section
/-!
DEFINITION. Steps of a crew: blocks begin and commit (R38-R47, R151, R390, R397, R421-R423), `vsync` and vector accesses
end, and events are taken at instruction boundaries (R374, R376, R387, R392).

A step of another agent acts on the units that `State.arg` names; where its condition does not hold it changes nothing.
-/

namespace Sys2Proof.Machine

/-! ### Instruction boundaries (R387) -/

/-- The context is at an instruction boundary at which pending events are taken: it may issue, or it is parked in one of
the waits of R387 or before its instruction has begun. -/
def Ctx.atBoundary (x : Ctx) : Bool :=
  match x.run with
  | .active => true
  | .parked .again => true
  | .parked (.vsync _) => true
  | .parked (.watch _ _ _) => true
  | .parked (.ewait _) => true
  | .parked (.fence _) => true
  | .parked (.halt _) => true
  | _ => false

/-- The receiver's queue has no room for the block's pushes (R46, R47). -/
def State.noRoom (s : State) (c i : Nat) (b : Blk) : Bool :=
  let j := (i + 1) % max 1 (s.ctx c).vl
  let queue := if j = i then (s.mt c i).linkq.drop b.pops else (s.mt c j).linkq
  decide (queue.length + b.pushes.length > 4) && !b.pushes.isEmpty

/-- A block holds now, at a link-in read on an empty queue, or at commit for room (R47, R80): an entry or room that has come
since it began to hold ends the hold. -/
def State.blkHolds (s : State) (c i : Nat) (b : Blk) : Bool :=
  b.heldSince.isSome && !b.decided && !b.trip && b.wait.isNone &&
    (if b.pos < b.words.length then decide ((s.mt c i).linkq.length < b.pops + linkReads (nth 0 b.words b.pos))
     else s.noRoom c i b)

/-- A resident context is held (R80). -/
def State.isHeld (s : State) (c i : Nat) : Bool :=
  match (s.mt c i).blk with
  | some b => s.blkHolds c i b
  | none => false

/-! ### Blocks that begin (R41-R43, R375) -/

/-- What a micro-thread begins: entry, repetitions left after it, the block's address, and whether it is of a chain or
runs without an entry. -/
structure Begin where
  ent : Nat
  left : Nat
  addr : Word
  chain : Bool
  bare : Bool
  deriving DecidableEq, Repr

/-- The block that a micro-thread begins next (R41-R43, R375). -/
def Ctx.nextBegin (x : Ctx) (m : Mt) : Option Begin :=
  if m.state = .running then some { ent := m.ent, left := m.left, addr := m.block, chain := m.chain, bare := m.bare }
  else if m.left > 0 then
    (x.seq.find? (fun e => e.id == m.ent)).map (fun e =>
      { ent := e.id, left := m.left - 1, addr := e.addr, chain := false, bare := false })
  else
    (x.seq.find? (fun e => e.id > m.ent)).map (fun e =>
      { ent := e.id, left := e.count - 1, addr := e.addr, chain := false, bare := false })

/-- A micro-thread may begin a block: it is resident, between blocks, on a grant that no revocation takes (R40, R82). -/
def State.mayBegin (s : State) (c i : Nat) : Bool :=
  let x := s.ctx c
  let m := s.mt c i
  i < x.vl && x.holds && x.revoked.isNone && m.blk.isNone && decide (m.res = .resident)

/-! ### Events at a boundary -/

/-- A resident micro-thread of a convoy has still to come to the word that the others hold at: it runs the same block of the
same broadcast, or is about to begin it, and no link-in read or room holds it alone (R40, R392). -/
def State.behind (s : State) (c : Nat) (m : Mt) (b : Blk) (p i : Nat) : Bool :=
  let n := s.mt c i
  decide (n.res = .resident) &&
    (match n.blk with
     | some d => d.addr == b.addr && d.k == b.k && d.cap == b.cap && !d.trip && decide (d.pos ≤ p) && !s.isHeld c i
     | none => s.mayBegin c i && (match (s.ctx c).nextBegin n with
       | some g => g.ent == m.ent && g.left == m.left && g.addr == b.addr && g.chain == m.chain
       | none => false))

/-- The convoy of the crew's first trip has come to its word (R40, R392). -/
def State.convoyHere (s : State) (c : Nat) : Bool :=
  match (s.ctx c).trips with
  | [] => true
  | (i, _, p) :: _ =>
    match (s.mt c i).blk with
    | none => true
    | some b => (s.ctx c).locals.all (fun j => !s.behind c (s.mt c i) b p j)

/-- An emulation trip can be taken: the record is free, the context is next in request order, and the convoy has come to the
word (R387, R392). -/
def State.tripReady (s : State) (c : Nat) : Bool :=
  (s.ctx c).atBoundary && !(s.ctx c).trips.isEmpty && s.emuFree (c / 4) && s.firstTrip c && s.convoyHere c

/-- The first reported failure of a posted store at the context's level (R387). -/
def Ctx.postFault (x : Ctx) : Option (Level × Exc) := x.postFaults.find? (fun p => p.1 == x.level)

/-- A posted-store fault can be taken. -/
def State.postReady (s : State) (c : Nat) : Bool :=
  (s.ctx c).atBoundary && !s.tripReady c && (s.ctx c).postFault.isSome

/-- A Prompt trap can be taken (R374). -/
def State.promptReady (s : State) (c : Nat) : Bool :=
  let x := s.ctx c
  x.atBoundary && !s.tripReady c && !s.postReady c && x.prompt.isSome && !x.promptBusy && decide (x.level = .app)

/-- The registers that an emulated word reads (R194). -/
def tripSources (w : IWord) : List RegNo :=
  if wordOp w = 0x04 ∨ wordOp w = 0x1B then [w.extractLsb' 7 5, w.extractLsb' 2 5] else [w.extractLsb' 7 5]

/-- The guard of a word (R191). -/
def wordGuard (b : Blk) (w : IWord) : Bool :=
  b.guard { e := w.extractLsb' 31 1, n := w.extractLsb' 30 1, gp := w.extractLsb' 23 7 }

/-- The sources of a word, whatever its guard; an entry of an empty link-in queue, which only a word whose guard is clear
can name here, is a free value (DESIGN CHOICE, log 108). -/
def tripOperands (b : Blk) (q : List Word) (open_ : Word) : List RegNo → List Word
  | [] => []
  | r :: rs =>
    match b.src q r with
    | some (v, c) => v :: tripOperands c q open_ rs
    | none => open_ :: tripOperands b q open_ rs

/-- The entry of one micro-thread in a trip's record (R393). -/
def tripEntry (m : Mt) (b : Blk) (i : Nat) (w : IWord) (open_ : Word) : List Word :=
  let l := tripOperands b m.linkq open_ (tripSources w)
  emuEntry (nth 0 l 0) (nth 0 l 1) i (wordGuard b w)

/-- EMULATION_TRIP: the trip of the micro-threads that hold at one word of one broadcast (R392, R393). -/
def execEmulationTrip (s : State) : Res' :=
  let c := s.arg.unit
  let x := s.ctx c
  if s.tripReady c then
    match x.trips with
    | [] => .next s
    | (i, a, p) :: _ =>
      match (s.mt c i).blk with
      | none => .next (s.setCtx c { x with trips := x.trips.drop 1 })
      | some b =>
        let same := fun (t : Nat × Word × Nat) =>
          t.2 == (a, p) && (match (s.mt c t.1).blk with
            | some d => d.k == b.k && d.cap == b.cap && d.trip
            | none => false)
        let group := x.trips.filter same
        let w := nth 0 b.words p
        let entries := group.map (fun t =>
          match (s.mt c t.1).blk with
          | some d => tripEntry (s.mt c t.1) d t.1 w (Config.freeValue (s.freeN + t.1))
          | none => emuEntry 0 0 t.1 false)
        let modes := BitVec.ofNat 64 (packBits [(b.k, 32), (p, 8), (b.cap.wrm.toNat, 0)])
        let nos := group.map (fun t => (t.1, match (s.mt c t.1).blk with
          | some d => d.tripNo
          | none => 0))
        let t := ({ s with freeN := s.freeN + 512 }.setCtx c
          { x with trips := x.trips.filter (fun t => !same t), emuNos := nos }).leaveTripQ c (fun n => nos.any (fun e => e.2 + 1 == n))
        .next (t.trip c 1 w
          (emuRecord w 1 (a + BitVec.ofNat 64 (4 * p)) group.length modes b.cap.srnkey b.cap.vbase 0 entries))
  else .next s

/-- POSTED_STORE_FAULT: a reported failure of a posted store is taken (R121, R387, R432). -/
def execPostedStoreFault (s : State) : Res' :=
  let c := s.arg.unit
  let x := s.ctx c
  match x.postFault with
  | some (l, e) =>
    if s.postReady c then .next ((s.setCtx c { x with postFaults := x.postFaults.erase (l, e) }).trapAt c x.pc e)
    else .next s
  | none => .next s

/-- PROMPT_TRAP (R374, R387). -/
def execPromptTrap (s : State) : Res' :=
  let c := s.arg.unit
  let x := s.ctx c
  match x.prompt with
  | some i =>
    if s.promptReady c then
      .next ((s.setCtx c { x with prompt := none, promptBusy := true }).trapAt c x.pc
        { cause := 0x17, val := BitVec.ofNat 64 i })
    else .next s
  | none => .next s

/-! ### `vsync` (R45, R257, R374, R376) -/

/-- The crew of a parked `vsync` is done; while it is REVOKED it waits (R83). -/
def State.vsyncDone (s : State) (c : Nat) : Bool := s.drained c && !decide ((s.ctx c).gstate = .revoked)

/-- VSYNC_RETURN: `rd` takes the fault summary, and under trapmode 1 a nonzero summary traps after it. -/
def execVsyncReturn (s : State) : Res' :=
  let c := s.arg.unit
  match (s.ctx c).run with
  | .parked (.vsync _) =>
    if s.vsyncDone c then
      let t := s.sampleAbort c
      let sum := t.summary c
      let x := (t.ctx c).resume
      let t := t.setCtx c (x.wx x.loadRd sum)
      if t.trapmode c = 1 ∧ sum ≠ 0 then .next (t.trapAt c x.pc { cause := 0x17, val := sum }) else .next t
    else .next s
  | _ => .next s

/-- The micro-threads that have still to stop, in the layout of the summary (R376). -/
def State.stillRunning (s : State) (c : Nat) : Word :=
  (s.ctx c).locals.foldl (fun w i => if s.quiet c i then w else w ||| (1 <<< (i % 64))) 0

/-- A wait that began at a tick has reached the context's time-out (R376). -/
def State.timedOut (s : State) (c since : Nat) : Bool :=
  (s.ctx c).btmo != 0 && since + (s.ctx c).btmo.toNat * 1024 ≤ s.now

/-- VSYNC_TIMEOUT (R376). -/
def execVsyncTimeout (s : State) : Res' :=
  let c := s.arg.unit
  match (s.ctx c).run with
  | .parked (.vsync since) =>
    if s.timedOut c since then .next (s.trapAt c (s.ctx c).pc { cause := 0x16, val := s.stillRunning c }) else .next s
  | _ => .next s

/-! ### Vector accesses (R139, R152, R255, R261, R262) -/

/-- VECTOR_REQUEST_PACKET (R126, R139, R416): with `flag` the packet that begins with element `index` of the operand that
the first number of `list` names has reached channel `addr` (32*stack + channel), which serves those of its elements that it
holds; a second number other than 0 says that it is a packet of bounced accesses sent again.  Without `flag` home slices and
Gleaners serve those accesses of the elements of `list` that travel in no packet. -/
def execVectorRequestPacket (s : State) : Res' :=
  let c := s.arg.unit
  match (s.ctx c).run with
  | .parked (.elems i ra rb _ _ _) =>
    if s.arg.flag then
      let o := nth 0 s.arg.list 0
      match s.vpacket c i ra rb o s.arg.index (nth 0 s.arg.list 1 != 0) with
      | some p => .next (s.servePacket c o p (p.served s (s.arg.addr / 32) (s.arg.addr % 32)))
      | none => .next s
    else .next (s.perform c none s.arg.list)
  | _ => .next s

/-- VECTOR_ACCESS_DONE: the instruction ends once every element is performed. -/
def execVectorAccessDone (s : State) : Res' :=
  let c := s.arg.unit
  match (s.ctx c).run with
  | .parked (.elems i _ _ [] [] stop) => .next (s.endElems c i stop)
  | _ => .next s

/-! ### Blocks begin (R42, R390, R397, R421) -/

/-- The LFSR of a core (R422). -/
def State.lfsrOf (s : State) (core : Nat) : BitVec 16 := look (0xACE1 ^^^ (s.selfid (4 * core)).setWidth 16) s.lfsr core

/-- An entry of a crew replaced. -/
def State.setEntry (s : State) (c : Nat) (e : SeqEntry) : State :=
  let x := s.ctx c
  s.setCtx c { x with seq := x.seq.map (fun f => if f.id = e.id then e else f) }

/-- The checker's choice for a broadcast, made when its first micro-thread begins it (R421). -/
def State.pick (s : State) (c : Nat) (e : SeqEntry) (k : Nat) : State :=
  if e.picks.any (fun p => p.1 == k) then s
  else
    let l := s.lfsrOf (c / 4)
    { s.setEntry c { e with picks := put e.picks k (l.toNat % max 1 (s.ctx c).vl) } with
      lfsr := put s.lfsr (c / 4) (lfsrStep l) }

/-- The block starts on the micro-thread with its registers as they stand (R230). -/
def Mt.start (m : Mt) (cap : Captured) (addr : Word) (ws : List IWord) (k : Nat) (checked : Bool) : Blk :=
  { cap := cap, addr := addr, words := ws, pos := 0, k := k, w := m.w, p := m.p, flags := 0, dirty := 0, pops := 0,
    pushes := [], stores := [], loads := [], runs := 0, wait := none, trip := false, tripNo := 0, stop := false, next := none,
    fault := none, checked := checked, decided := false, heldSince := none, stalled := false }

/-- A block fetched and begun, or the micro-thread faulted by the fetch or by an illegal block. -/
def State.beginBlock (s : State) (c i : Nat) (g : Begin) (cap : Captured) (held : List IWord) (k : Nat)
    (checked : Bool) : State :=
  let m := { s.mt c i with state := .running, block := g.addr, chain := g.chain, bare := g.bare, ent := g.ent,
                           left := g.left }
  let past := (s.ctx c).codebound.toNat ≤ g.addr.toNat
  match (if g.addr.toNat % 4 ≠ 0 then .error (if past then 0x0A else 0x09) else s.blockFetch c g.addr held) with
  | .error cause =>
    let s := if cause = 0x20 then
        s.mismatch 10 (s.partOf (c / 4)) (c / 4) (s.blockBadPa c g.addr 32 held.length) else s
    s.mtFault c i m { cause := cause, val := g.addr }
  | .ok ws =>
    let s := s.blockFill c g.addr ws.length held.length
    match offender ws with
    | some w => s.mtFault c i m { cause := 0x01, val := w.setWidth 64 }
    | none => s.setMt c i { m with blk := some (m.start cap g.addr ws k checked) }

/-- The fetch of a block has to wait for a Copying line (R415). -/
def State.beginWaits (s : State) (c : Nat) (g : Begin) (held : List IWord) : Bool :=
  decide (g.addr.toNat % 4 = 0) && s.blockWaits c g.addr (s.blockWords c 32 g.addr held).1.length held.length

/-- BLOCK_BEGIN (R38, R43): a broadcast or fetched block begins on a micro-thread.  A block that `thfetch` chains to a
repetition of VLOOP takes that repetition's number as its `k` of R104 (DESIGN CHOICE, log 123). -/
def execBlockBegin (s : State) : Res' :=
  let c := s.arg.unit
  let i := s.arg.index
  let x := s.ctx c
  match x.nextBegin (s.mt c i) with
  | none => .next s
  | some g =>
    if s.mayBegin c i then
      match (if g.bare then none else x.seq.find? (fun e => e.id == g.ent)) with
      | none => if s.beginWaits c g [] then .next s else .next ((s.beginBlock c i g x.capture [] 0 false).sweepSeq c)
      | some e =>
        if s.beginWaits c g (if g.chain || g.addr != e.addr then [] else e.held) then .next s
        else
        let k := e.count - 1 - g.left
        let s := s.pick c e k
        let e := ((s.ctx c).seq.find? (fun f => f.id == e.id)).getD e
        let held := if g.chain || g.addr != e.addr then [] else e.held
        let t := s.beginBlock c i g e.cap held k (look 512 e.picks k == i)
        let t := match (t.mt c i).blk with
          | some b => if g.chain || g.addr != e.addr || !e.held.isEmpty then t else t.setEntry c { e with held := b.words }
          | none => t
        .next (t.sweepSeq c)
    else .next s

/-! ### Blocks commit (R39, R46, R47, R151, R423) -/

/-- A commit under way: the micro-thread's registers and the state with the accesses made so far. -/
inductive Commit where
  | ok (w : Table Word) (dirty : BitVec 23) (s : State)
  | fault (e : Exc) (s : State)
  | wait
  deriving DecidableEq, Repr

/-- The accesses of a block, in word order (R151, R245-R247). -/
def State.commitStores (s : State) (c i : Nat) : List BlkStore → Table Word → BitVec 23 → Commit
  | [], w, d => .ok w d s
  | e :: es, w, d =>
    let who : Who := { s.portWho c with level := .app, holder := 512 * c + i }
    let t : Tr := { pa := e.pa, skew := e.skew, attr := e.attr, hcl := e.hcl }
    let reg := fun (s : State) (v : Word) =>
      if e.rd = 0 then s.commitStores c i es w d
      else s.commitStores c i es (put w e.rd.toNat v) (d ||| (1 <<< (e.rd.toNat - 1)))
    if e.kind = 1 then
      if s.blocked who (sectorOf (e.key + e.pa / 8)) || s.blocked who (sectorOf (e.key + (e.pa + e.width - 1) / 8)) then .wait
      else
      match (if e.width = 64 then none else s.spBad e.key e.pa e.width) with
      | some o =>
        let r := s.spFault c (e.key + o) (s.spAddr c i o)
        .fault r.1 r.2
      | none => (putBits s e.key e.pa e.width e.data.toNat).commitStores c i es w d
    else if e.kind = 5 then reg s e.data
    else
      let a := match e.kind with
        | 0 => s.place who t e.va (.store e.width e.data)
        | 2 => s.place who t e.va (.amo 8 0 e.data 0)
        | 3 => s.place who t e.va (.amo 8 1 e.data 0)
        | _ => s.place who t e.va (.amo 8 2 e.data2 e.data)
      match a with
      | .value v u => if e.kind = 0 then u.commitStores c i es w d else reg u v
      | .exc x u => .fault x u
      | _ => .wait

/-- The first atomic of a block that another member has still to perform (R246, R339). -/
def Blk.remoteAtomic (b : Blk) : Option BlkStore :=
  b.stores.find? (fun e => 2 ≤ e.kind && e.kind ≤ 4 && (match placeOf e.pa with
    | .domain _ _ => true
    | _ => false))

/-- The packet of such an atomic (R339). -/
def BlkStore.packet (e : BlkStore) : List Word :=
  if e.kind = 4 then domainPacket 3 e.pa 8 2 e.data2 e.data else domainPacket 3 e.pa 8 (e.kind - 2) e.data 0

/-- The sectors that the block's loads read, those of the scratchpad too (R151). -/
def Blk.loadSectors (b : Blk) : List Nat :=
  b.loads.flatMap (fun l => [sectorOf l.1, sectorOf (l.1 + l.2.length - 1)])

/-- The sectors that an access held for the commit writes (R151). -/
def BlkStore.sectors (e : BlkStore) : List Nat :=
  if e.kind = 1 then [sectorOf (e.key + e.pa / 8), sectorOf (e.key + (e.pa + e.width - 1) / 8)] else [sectorOf e.key]

/-- A byte that a load of the block read has changed (R151). -/
def State.staleLoad (s : State) (b : Blk) : Bool := b.loads.any (fun l => readBytes s.mem l.1 l.2.length != l.2)

/-- Another block holds one of the sectors (R151). -/
def State.heldElsewhere (s : State) (c i : Nat) (l : List Nat) : Bool :=
  l.any (fun q => s.heldSectors.any (fun h => h.1 == q && h.2 != 512 * c + i))

/-- The block runs again from its first word (R151).  The spec says both that the home slices hold the sectors 'for the third'
after two re-executions and that 'the third execution then commits'; the model takes both of the third execution, which is
the second re-execution: it holds its sectors and commits (DESIGN CHOICE, log 107).  While another block holds one of them
it runs again without a hold. -/
def State.reRun (s : State) (c i : Nat) (m : Mt) (b : Blk) : State :=
  let l := b.loadSectors
  let runs := if b.runs = 1 && s.heldElsewhere c i l then 1 else b.runs + 1
  let s := s.setMt c i { m with blk := some { m.start b.cap b.addr b.words b.k b.checked with runs := runs } }
  if runs = 2 then { s with heldSectors := s.heldSectors ++ l.map (fun q => (q, 512 * c + i)) } else s

/-- The commit has to wait; a third execution that waits for a sector of another block lets go of its own, and is no third
execution any more (R151; log 107). -/
def State.waitCommit (s : State) (c i : Nat) (m : Mt) (b : Blk) : State :=
  if 2 ≤ b.runs && !b.decided && s.heldElsewhere c i (b.stores.flatMap BlkStore.sectors) then
    (s.letGo c i).setMt c i { m with blk := some { b with runs := 1 } }
  else s

/-- The doubleword that a narrow store of the block merges with and finds wrong: every one is verified before any store is
made (R39, R314). -/
def State.narrowBad (s : State) (c i : Nat) (b : Blk) : Option (Exc × State) :=
  let who : Who := { s.portWho c with level := .app, holder := 512 * c + i }
  b.stores.findSome? (fun e =>
    if e.kind = 1 then
      (if e.width = 64 then none
       else
         match s.spBad e.key e.pa e.width with
         | some o => some (s.spFault c (e.key + o) (s.spAddr c i o))
         | none => none)
    else if e.kind = 0 ∧ e.width < 8 then
      (match placeOf e.pa with
       | .domain _ _ => none
       | _ => s.badCheck who e.key e.pa e.va)
    else none)

/-- The stores of the block with the atomics of other members taken as performed: what can be tried before any of those
is sent. -/
def Blk.localStores (b : Blk) : List BlkStore :=
  b.stores.map (fun e =>
    if 2 ≤ e.kind && e.kind ≤ 4 && (match placeOf e.pa with
      | .domain _ _ => true
      | _ => false) then { e with kind := 5 } else e)

/-- The commit is decided, and another member is to perform an atomic of it first: nothing keeps the block from taking effect
any more, and the sectors that it read and writes are held until it does (R39, R151, R246, R339).  In an exchange phase it
marks the superstep unreplayable (R428).  Two members cannot be asked at once: where a later atomic of the same block is then
refused, the micro-thread faults with the earlier one performed (DEDUCED, log 39). -/
def State.sendAtomic (s : State) (c i : Nat) (m : Mt) (b : Blk) (e : BlkStore) : State :=
  let slot := match placeOf e.pa with
    | .domain n _ => n
    | _ => 0
  let l := b.loadSectors ++ b.stores.flatMap BlkStore.sectors
  let s := s.noteAtomic c
  let t := if b.decided then s else { s with heldSectors := s.heldSectors ++ l.map (fun q => (q, 512 * c + i)) }
  (t.sendReq slot (tagOf 1 c i) e.packet []).setMt c i
    { m with blk := some { b with decided := true, wait := some (e.rd, 8, false, e.pa) } }

/-- The other micro-threads on a lane whose contexts wait in its spill area for a block, longest waiting first (R80). -/
def State.spilledWaiting (s : State) (c slot : Nat) : Option Nat :=
  let l := (s.ctx c).locals.filter (fun j =>
    let m := s.mt c j
    m.slot == slot && decide (m.res = .spilled) && (decide (m.state = .running) || pending (s.ctx c) m))
  l.foldl (fun b j => match b with
    | none => some j
    | some k => if (s.mt c j).since < (s.mt c k).since then some j else some k) none

/-- A commit rotates one pair of contexts on a lane with a context that waits in its spill area (R80). -/
def State.rotate (s : State) (c i : Nat) : State :=
  let m := s.mt c i
  if m.res = .resident then
    match s.spilledWaiting c m.slot with
    | some j =>
      (s.setMt c i { m with res := .spilling }).setMt c j { s.mt c j with res := .restoring }
    | none => s
  else s

/-- The micro-thread after its block has committed (R32, R43, R248): a raised abort line stops a chain (R52).  With
repetitions left its record names the block of the next (R378). -/
def State.afterCommit (s : State) (c : Nat) (m : Mt) (b : Blk) : State × Mt :=
  let again := ((s.ctx c).seq.find? (fun e => e.id == m.ent && m.left != 0)).map (·.addr)
  let stopped := { m with state := .stopped, chain := false, bare := false, block := again.getD m.block }
  match b.next with
  | some a =>
    if b.stop then (s, stopped)
    else
      let t := s.sampleAbort c
      if s.abortRaised c then (t, stopped) else (t, { m with state := .running, chain := true, block := a })
  | none => (s, stopped)

/-- A silent-error event on a micro-thread's lane: its record, and firmware's count; a lane that has had one before is to be
retired (R423, R436). -/
def State.silentError (s : State) (c i : Nat) : State :=
  let cl := clusterOfCtx c
  let lane := s.laneOf c i
  let s := s.laneRecord 0x10 (s.partOf (c / 4)) cl lane (c / 4) i
  let k := s.cluster cl
  if k.silent.contains lane then s.setCluster cl { k with retiring := setIns k.retiring lane }
  else s.setCluster cl { k with silent := setIns k.silent lane }

/-- BLOCK_COMMIT (R39, R151, R246, R314, R423): the block's effects come about together, once nothing can stop any of them;
`arg` says whether the checker found a mismatch. -/
def execBlockCommit (s : State) : Res' :=
  let c := s.arg.unit
  let i := s.arg.index
  let m := s.mt c i
  let j := (i + 1) % max 1 (s.ctx c).vl
  match m.blk with
  | none => .next s
  | some b =>
    if b.pos < b.words.length || b.trip || b.wait.isSome then .next s
    else if s.noRoom c i b then
      .next (s.setMt c i { m with blk := some { b with heldSince := some (b.heldSince.getD s.now) } })
    else if b.runs < 2 && !b.decided && s.staleLoad b then .next (s.reRun c i m b)
    else if b.checked && s.arg.flag && !b.decided then
      .next ((s.silentError c i).mtFault c i m { cause := 0x28, val := BitVec.ofNat 64 i })
    else
      match (if b.decided then none else s.narrowBad c i b) with
      | some (e, t) => .next (t.mtFault c i m e)
      | none =>
        match s.commitStores c i b.localStores b.w b.dirty with
        | .wait => .next (s.waitCommit c i m b)
        | .fault e t => .next ({ s with scriv := t.scriv, scrivNext := t.scrivNext }.mtFault c i m e)
        | .ok w d t =>
          match b.remoteAtomic with
          | some e => .next (s.sendAtomic c i m b e)
          | none =>
            let m := { m with w := w, p := b.p, flags := m.flags ||| b.flags, dirty := m.dirty ||| d, blk := none,
                              linkq := m.linkq.drop b.pops }
            let (t, m) := t.afterCommit c m b
            let t := t.setMt c i m
            let t := t.putMt c j { t.mt c j with linkq := (t.mt c j).linkq ++ b.pushes }
            .next (((t.letGo c i).rotate c i).sweepSeq c)

end Sys2Proof.Machine
end

