-- ==== Sys2Proof/Machine/Pool.lean ====
section
/-!
DEFINITION. The lane pool of a cluster and the Ostler (R68-R86): lanes that are taken, cleared and joined, moves,
revocations, and the decision of a frame (R74).
-/

namespace Sys2Proof.Machine

/-! ### Lanes -/

/-- A crew of the cluster holds the lane, or it has joined a square that is not whole yet, or is to join a crew. -/
def State.laneUsed (s : State) (cl lane : Nat) : Bool :=
  (ctxsOf cl).any (fun c =>
    let x := s.ctx c
    x.slots.contains lane || x.joining.contains lane || x.here.contains lane || x.moves.any (fun e => e.2 == lane))

/-- A lane is present, no spare that has still to join, held by no crew and in no work. -/
def State.laneFree (s : State) (cl lane : Nat) : Bool :=
  let k := s.cluster cl
  !k.missing.contains lane && !k.retired.contains lane && !(k.work.any (fun w => w.lane == lane)) && !s.laneUsed cl lane

/-- The lanes of an aligned position: origin lane and side, in the order of grant slots (R75). -/
def posLanes (origin side : Nat) : List Nat :=
  (List.range (side * side)).map (fun k => origin + k / side * 32 + k % side)

/-- The aligned positions of a side, origins in row-major order (R75). -/
def positions (side : Nat) : List Nat :=
  if side = 0 then []
  else (List.range (16 / side)).flatMap (fun a => (List.range (32 / side)).map (fun b => 32 * side * a + side * b))

/-- The lanes of a position that is held back (R76). -/
def Cluster.backLanes (k : Cluster) : List Nat :=
  match k.heldBack with
  | some (_, o, n) => posLanes o n
  | none => []

/-- The crew whose grant slots carry a lane. -/
def State.laneOwner (s : State) (cl lane : Nat) : Option Nat :=
  (ctxsOf cl).find? (fun c => (s.ctx c).slots.contains lane)

/-! ### Work on lanes (R78, R81, R86) -/

/-- A lane that its crew has to vacate: it spills, then it is cleared (R78, R81). -/
def State.vacate (s : State) (cl lane : Nat) (dest : Option Nat) : State :=
  let k := s.cluster cl
  if k.work.any (fun w => w.lane == lane) then
    s.setCluster cl { k with work := k.work.map (fun w => if w.lane = lane then { w with dest := dest } else w) }
  else
    s.setCluster cl { k with work := k.work ++ [{ lane := lane, clearing := false, since := s.now, dest := dest,
                                                   retire := k.retiring.contains lane && dest.isNone }] }

/-- The crew's contexts are off a lane: its slot is no longer kept and no context is placed on it. -/
def State.offLane (s : State) (c lane : Nat) : Bool :=
  let x := s.ctx c
  (List.range x.slots.length).all (fun j =>
    nth 0 x.slots j != lane || (x.target ≤ j && x.locals.all (fun i => (s.mt c i).slot != j)))

/-- Crews hold these lanes no more: the slots that carried them name lane 512 until the shrink ends (R77, R78), and `alc` does
not stay above the lanes that are left (R68). -/
def State.loseLanes (s : State) (cl : Nat) (lanes : List Nat) : State :=
  ((ctxsOf cl).filter (fun c => (s.ctx c).slots.any lanes.contains)).foldl (fun s c =>
    let x := s.ctx c
    let y := { x with slots := x.slots.map (fun l => if lanes.contains l then 512 else l) }
    s.setCtx c { y with alc := min x.alc y.lanesHeld }) s

/-- Lanes whose contexts are gone begin their clearing (R81). -/
def State.startClearing (s : State) (cl : Nat) : State :=
  let k := s.cluster cl
  let gone := (k.work.filter (fun w => !w.clearing && (ctxsOf cl).all (fun c => s.offLane c w.lane))).map (·.lane)
  (s.loseLanes cl gone).setCluster cl { k with work := k.work.map (fun w =>
    if gone.contains w.lane then { w with clearing := true, since := s.now } else w) }

/-- A lane taken out of the pool (R86, R436): a spare takes its place, and can be granted from the next frame boundary;
with no spare left the position stays missing. -/
def State.takeOut (s : State) (cl lane : Nat) : State :=
  let k := s.cluster cl
  let n := { k with retiring := setDel k.retiring lane, silent := setDel k.silent lane, work := k.work.filter (fun w => w.lane != lane) }
  if 0 < k.spares then
    (clearRange (s.setCluster cl { n with spares := k.spares - 1, retired := setIns k.retired lane })
      (scratchKey cl lane) 0x10000).laneRecord 0x12 0xFF cl lane (coreOf cl 0) 1
  else (s.setCluster cl { n with missing := setIns k.missing lane }).laneRecord 0x12 0xFF cl lane (coreOf cl 0) 0

/-- The lanes of a square grant that has still to join: a lane that went to retirement and that no spare has taken the place
of leaves it without a place, and the request waits again (R76, R86). -/
def State.dropSquare (s : State) (cl lane : Nat) : State :=
  if (s.cluster cl).missing.contains lane then
    match (ctxsOf cl).find? (fun c => (s.ctx c).joining.contains lane && (s.ctx c).gsq != 0) with
    | some c => s.returnLanes c
    | none => s
  else s

/-- A crew is to give up its grant slots from `m` up; kept slots on the lanes of `away` move onto lanes that the shrink
removes (R75, R76). -/
def State.shrinkTo (s : State) (c m : Nat) (away : List Nat) : State :=
  let x := s.ctx c
  let cl := clusterOfCtx c
  let n := x.slots.length
  let inside := (List.range (min m n)).filter (fun k => away.contains (nth 0 x.slots k))
  let outside := ((List.range n).filter (fun j => m ≤ j)).map (nth 0 x.slots) |>.filter (fun l => !away.contains l)
  let pairs := inside.zip outside
  let taken := (((List.range n).filter (fun j => m ≤ j)).map (nth 0 x.slots)).filter
      (fun l => !(pairs.any (fun p => p.2 == l))) ++ pairs.map (fun p => nth 0 x.slots p.1)
  let s := s.setCtx c { x with target := m, gstate := .shrinking,
                               moves := pairs.foldl (fun t p => put t p.1 p.2) x.moves }
  let s := taken.foldl (fun s l => s.vacate cl l none) s
  s.respread c

/-- A lane that a crew keeps is to be vacated for another crew: its slot moves to a lane outside (R76). -/
def State.moveOff (s : State) (c lane dest : Nat) : State :=
  let x := s.ctx c
  match (List.range x.slots.length).find? (fun k => nth 512 x.slots k == lane) with
  | none => s
  | some k =>
    ((s.setCtx c { x with moves := put x.moves k 512 }).vacate (clusterOfCtx c) lane (some dest)).respread c

/-- A move can end: the slot's contexts have spilled and its new lane carries none (R76); a lane is chosen for it where
none is yet. -/
def State.endMove (s : State) (c k : Nat) (lane : Nat) : State :=
  let x := s.ctx c
  let cl := clusterOfCtx c
  let back := (s.cluster cl).backLanes
  let target := if lane < 512 then some lane
    else (List.range 512).find? (fun l => s.laneFree cl l && !back.contains l)
  match target with
  | none => s
  | some l =>
    let spilled := x.locals.all (fun i => (s.mt c i).slot != k || decide ((s.mt c i).res = .spilled))
    if spilled && (s.offLane c l || !x.slots.contains l) then
      let old := nth 0 x.slots k
      let slots := (List.range x.slots.length).map (fun j =>
        if j = k then l else if nth 0 x.slots j = l then old else nth 0 x.slots j)
      (s.setCtx c { x with slots := slots, moves := del x.moves k }).respread c
    else s

/-- The moves of every crew of a cluster that can end do. -/
def State.endMoves (s : State) (cl : Nat) : State :=
  ((ctxsOf cl).filter (fun c => !(s.ctx c).moves.isEmpty)).foldl (fun s c =>
    (s.ctx c).moves.foldl (fun s e => s.endMove c e.1 e.2) s) s

/-- Some context of the crew is on its way. -/
def State.moving (s : State) (c : Nat) : Bool :=
  let x := s.ctx c
  !x.moves.isEmpty || x.locals.any (fun i =>
    let m := s.mt c i
    decide (m.res = .spilling) || decide (m.res = .restoring) || decide (min x.target x.slots.length ≤ m.slot))

/-- The grant's state once no context is on its way: a shrink ends, and SPILLED says that a context is not resident
(R77). -/
def State.settleMoves (s : State) (c : Nat) : State :=
  let x := s.ctx c
  if !x.holds || s.moving c then s
  else
    let g := if x.locals.all (fun i => decide ((s.mt c i).res = .resident)) then GState.granted else .spilled
    if x.gstate = .shrinking then
      s.setCtx c { x with gstate := g, slots := x.slots.take x.target, alc := min x.alc x.target }
    else s.setCtx c { x with gstate := g }

/-- The contexts of a cluster that hold lanes or have micro-threads. -/
def State.crewCtxs (s : State) (cl : Nat) : List Nat :=
  (ctxsOf cl).filter (fun c => (s.ctx c).holds || !(s.ctx c).locals.isEmpty)

/-- Every crew of a cluster settled, lanes cleared and moves ended as far as they can be, and the records of contexts that are
not resident where their lanes are (R79). -/
def State.poolWork (s : State) (cl : Nat) : State :=
  let s := (s.startClearing cl).endMoves cl |>.startClearing cl
  (s.crewCtxs cl).foldl (fun s c => (s.settleMoves c).syncSpill c) s

/-! ### Revocation (R77, R82) -/

/-- A crew that holds lanes is revoked: the revocation point is now (R77, R82).  Its Loom waits for tokens no more (R331). -/
def State.revoke (s : State) (c : Nat) : State :=
  let x := s.ctx c
  if x.holds then
    let cl := clusterOfCtx c
    let k := s.cluster cl
    let s := s.setCluster cl { k with
      work := k.work.map (fun w => if w.dest = some c then { w with dest := none } else w)
      tokenQ := k.tokenQ.filter (· != c) }
    s.setCtx c { x with gstate := .revoked, revoked := some s.now, joining := [], moves := [] }
  else s

/-! ### Joining (R81, R84) -/

/-- Every lane of a grant has joined (R70, R77, R84): a first grant or a regrant restores what is saved; a growth
spreads the contexts. -/
def State.allJoined (s : State) (c : Nat) : State :=
  let x := s.ctx c
  let n := sideOf x.gsq
  let slots := if n = 0 then x.slots else posLanes (32 * x.orow + x.ocol) n
  if x.gstate = .requested ∨ x.gstate = .revoked then
    let s := s.setCtx c { x with slots := slots, here := [], target := slots.length, alc := slots.length, gstate := .granted }
    if x.saved.isSome then
      match x.locals.findSome? (s.recordBad c) with
      | some (k, pa) =>
        (if k = 0x20 then s.mismatch 9 (s.partOf (c / 4)) (c / 4) pa else s).failContext c
      | none => (s.restoreRecords c).settleMoves c
    else s
  else
    let s := s.setCtx c { x with target := x.slots.length, alc := x.alcFor x.slots.length }
    (s.respread c).settleMoves c

/-- A cleared lane joins a crew: with the next slot number, or among those of a square that still lacks lanes (R75, R81). -/
def State.joinLane (s : State) (c lane : Nat) : State :=
  let x := s.ctx c
  let x := { x with joining := x.joining.filter (fun l => l != lane),
                    slots := if x.gsq = 0 then x.slots ++ [lane] else x.slots,
                    here := if x.gsq = 0 then x.here else x.here ++ [lane] }
  let s := s.setCtx c x
  let s := if x.joining.isEmpty then s.allJoined c else s
  match (ctxsOf (clusterOfCtx c)).find? (fun d => d != c && (s.ctx d).joining.contains lane) with
  | some d => s.moveOff c lane d
  | none => s

/-- Lanes granted to a crew: those that are free join at once, the others when their clearing ends (R75, R81). -/
def State.give (s : State) (c : Nat) (lanes : List Nat) : State :=
  let cl := clusterOfCtx c
  let free := lanes.filter (s.laneFree cl)
  let s := s.setCtx c { s.ctx c with joining := (s.ctx c).joining ++ lanes }
  let s := (lanes.filter (fun l => !free.contains l)).foldl (fun s l => s.vacate cl l (some c)) s
  free.foldl (fun s l => s.joinLane c l) s

/-- Lanes that were to join a crew and are withheld from it, the last ones first. -/
def State.withhold (s : State) (c n : Nat) : State :=
  let x := s.ctx c
  let cl := clusterOfCtx c
  let lost := x.joining.reverse.take n
  let k := s.cluster cl
  let s := s.setCluster cl { k with
    work := k.work.map (fun w => if lost.contains w.lane ∧ w.dest = some c then { w with dest := none } else w) }
  s.setCtx c { x with joining := x.joining.filter (fun l => !lost.contains l) }

/-! ### Retirement (R86) -/

/-- Lanes to be retired are taken as soon as nothing else is at work on them (R86). -/
def State.tryRetire (s : State) (cl : Nat) : State :=
  (s.cluster cl).retiring.foldl (fun s lane =>
    let k := s.cluster cl
    match k.work.find? (fun w => w.lane == lane) with
    | some w =>
      if w.dest.isNone then
        s.setCluster cl { k with work := k.work.map (fun w => if w.lane = lane then { w with retire := true } else w) }
      else s
    | none =>
      match s.laneOwner cl lane with
      | none => if s.laneUsed cl lane then s else s.takeOut cl lane
      | some c =>
        let x := s.ctx c
        if x.gsq ≠ 0 then s.revoke c
        else if (x.gstate = .granted ∨ x.gstate = .spilled) ∧ x.joining.isEmpty ∧ !s.moving c then
          s.shrinkTo c (x.slots.length - 1) [lane]
        else s) s

/-- The whole of the work that the end of a piece of work may let go on. -/
def State.poolStep (s : State) (cl : Nat) : State := ((s.poolWork cl).tryRetire cl).poolWork cl

/-! ### The frame (R73-R76) -/

/-- An ordinary crew as the Ostler sees it at a boundary (R74). -/
structure Crew where
  c : Nat
  weight : Nat
  demand : Nat
  floor : Nat
  lanes : Nat
  asked : Nat
  target : Nat
  deriving DecidableEq, Repr

/-- The lane weight of a context's gang (R74). -/
def State.weight (s : State) (c : Nat) : Nat := max 1 ((s.gang c).fld 14 4)

/-- The crew has an ordinary demand. -/
def Ctx.ordinary (x : Ctx) : Bool := x.reqSq == 0 && x.reqLen != 0 && x.gstate != .idle && x.run != .free

/-- The ordinary crews of a cluster that take part in a frame. -/
def State.crews (s : State) (cl : Nat) : List Crew :=
  ((ctxsOf cl).filter (fun c => (s.ctx c).ordinary && (s.ctx c).gstate != .shrinking)).map (fun c =>
    let x := s.ctx c
    { c := c, weight := s.weight c, demand := (x.reqLen + 1) / 2 * 2, floor := x.floorLanes,
      lanes := x.slots.length + x.joining.length, asked := x.asked, target := 0 })

/-- A crew's share at λ = n/16 (R74). -/
def Crew.share (k : Crew) (n : Nat) : Nat := min k.demand (max k.floor (2 * (n * k.weight / 32)))

/-- The largest λ, in sixteenths, whose shares fit (R74). -/
def lambda (l : List Crew) (q : Nat) : Nat → Nat
  | 0 => 0
  | n + 1 => if (l.map (fun k => k.share (n + 1))).sum ≤ q then n + 1 else lambda l q n

/-- One round of what is left over, two lanes at a time (R74). -/
def leftRound : List Crew → Nat → List Crew × Nat
  | [], n => ([], n)
  | k :: l, n =>
    if k.target < k.demand ∧ 2 ≤ n then
      let r := leftRound l (n - 2)
      ({ k with target := k.target + 2 } :: r.1, r.2)
    else
      let r := leftRound l n
      (k :: r.1, r.2)

/-- Rounds until nothing more can be given. -/
def leftRounds : Nat → List Crew → Nat → List Crew
  | 0, l, _ => l
  | f + 1, l, n => if n < 2 ∨ l.all (fun k => k.demand ≤ k.target) then l else leftRounds f (leftRound l n).1 (leftRound l n).2

/-- The targets of the ordinary crews (R74): weight descending, then core row, column and context. -/
def targets (l : List Crew) (q : Nat) : List Crew :=
  let n := lambda l q 8192
  let l := (sortBy (fun a b => decide (b.weight < a.weight) || (a.weight == b.weight && decide (a.c ≤ b.c))) l).map
    (fun k => { k with target := k.share n })
  leftRounds 256 l (q - (l.map (·.target)).sum)

/-- The next crew that gives way while the floors do not fit: lowest weight, latest request (R74).  Of crews whose weights and
ticks are equal the spec names none: the one of the lowest context gives way; a crew restored from an image counts as
having asked at tick 0 (DESIGN CHOICE, log 100). -/
def givesWay (l : List Crew) : Option Crew :=
  (sortBy (fun a b => decide (a.weight < b.weight) || (a.weight == b.weight && decide (b.asked ≤ a.asked))) l).head?

/-- Crews dropped until the floors of the rest fit (R74). -/
def dropCrews : Nat → List Crew → Nat → List Crew × List Crew
  | 0, l, _ => (l, [])
  | f + 1, l, q =>
    if (l.map (·.floor)).sum ≤ q then (l, [])
    else
      match givesWay l with
      | none => (l, [])
      | some k =>
        let r := dropCrews f (l.filter (fun j => j.c != k.c)) q
        (r.1, k :: r.2)

/-- A square request that waits (R74).  It counts as waiting since the tick of the `setvl` that made it, also after its crew
has been revoked; the spec does not say since when (DESIGN CHOICE, log 100). -/
def State.waitsSquare (s : State) (c : Nat) : Bool :=
  let x := s.ctx c
  x.reqSq != 0 && x.slots.isEmpty && x.joining.isEmpty && x.here.isEmpty && !x.nofit && x.revoked.isNone &&
    (decide (x.gstate = .requested) || decide (x.gstate = .revoked)) && x.run != .free

/-- Lanes of held squares (R74), those whose lanes have still to join among them. -/
def State.squareLanes (s : State) (cl : Nat) : Nat :=
  ((ctxsOf cl).map (fun c =>
    let x := s.ctx c
    if x.slots.isEmpty ∧ x.joining.isEmpty ∧ x.here.isEmpty then 0 else sideOf x.gsq * sideOf x.gsq)).sum

/-- A square granted at a position (R74, R76): its lanes join as they become free. -/
def State.grantSquare (s : State) (c origin : Nat) : State :=
  let cl := clusterOfCtx c
  let x := s.ctx c
  let lanes := posLanes origin (sideOf x.reqSq)
  let s := s.setCtx c { x with gsq := x.reqSq, orow := origin / 32, ocol := origin % 32, slots := [], here := [],
                               joining := lanes }
  let s := lanes.foldl (fun s l =>
    match (s.cluster cl).work.find? (fun w => w.lane == l) with
    | some w => if w.dest.isNone then s.vacate cl l (some c) else s
    | none =>
      match s.laneOwner cl l with
      | some d => s.moveOff d l c
      | none =>
        if (ctxsOf cl).any (fun d => d != c && (s.ctx d).joining.contains l) then s
        else s.setCtx c { s.ctx c with joining := (s.ctx c).joining.filter (fun j => j != l),
                                       here := (s.ctx c).here ++ [l] }) s
  if (s.ctx c).joining.isEmpty then s.allJoined c else s

/-- Every lane of a position is present. -/
def State.posPresent (s : State) (cl side o : Nat) : Bool :=
  (posLanes o side).all (fun l => !(s.cluster cl).missing.contains l)

/-- Lanes that squares hold. -/
def State.inSquares (s : State) (cl : Nat) : List Nat :=
  (ctxsOf cl).flatMap (fun c =>
    let x := s.ctx c
    if x.gsq ≠ 0 then x.slots ++ x.joining ++ x.here else [])

/-- The position to hold back: no square lane in it, the fewest lanes of ordinary crews, first in row-major order
(R74). -/
def State.backFor (s : State) (cl side : Nat) : Option Nat :=
  let squares := s.inSquares cl
  let l := (positions side).filter (fun o =>
    s.posPresent cl side o && (posLanes o side).all (fun l => !squares.contains l))
  (sortBy (fun a b => decide (a.1 < b.1) || (a.1 == b.1 && decide (a.2 ≤ b.2)))
    (l.map (fun o => (((posLanes o side).filter (fun l => (s.laneOwner cl l).isSome)).length, o)))).head?.map (·.2)

/-- One waiting square request at a boundary (R74, R76); `n` are the lanes of squares so far. -/
def State.trySquare (s : State) (cl o : Nat) (p : State × Nat) (c : Nat) : State × Nat :=
  let t := p.1
  let n := p.2
  let side := sideOf (t.ctx c).reqSq
  let pool := 512 - (t.cluster cl).missing.length
  if !((positions side).any (t.posPresent cl side)) then (t.setCtx c { t.ctx c with nofit := true }, n)
  else if pool < n + side * side + 2 * o then p
  else
    let back := match (s.cluster cl).heldBack with
      | some (d, a, _) => if d = c then some a else none
      | none => none
    match back with
    | some a => ((t.setCluster cl { t.cluster cl with heldBack := none }).grantSquare c a, n + side * side)
    | none =>
      match (positions side).find? (fun a => (posLanes a side).all (fun l =>
          t.laneFree cl l && !((t.cluster cl).backLanes.contains l))) with
      | some a => (t.grantSquare c a, n + side * side)
      | none =>
        if (t.cluster cl).heldBack.isSome then p
        else
          match t.backFor cl side with
          | some a => (t.setCluster cl { t.cluster cl with heldBack := some (c, a, side) }, n + side * side)
          | none => p

/-- Spares that have taken a place since the last boundary can be granted (R436), and join a square that waits for their
places (R76, R86). -/
def State.bringSpares (s : State) (cl : Nat) : State :=
  (s.cluster cl).retired.foldl (fun s lane =>
    match (ctxsOf cl).find? (fun c => (s.ctx c).joining.contains lane) with
    | some c => s.joinLane c lane
    | none => s) (s.setCluster cl { s.cluster cl with retired := [] })

/-- A holding whose request is gone, or whose position has lost a lane, is released (R76). -/
def State.checkBack (s : State) (cl : Nat) : State :=
  match (s.cluster cl).heldBack with
  | some (c, o, n) =>
    if s.waitsSquare c && sideOf (s.ctx c).reqSq == n && s.posPresent cl n o then s
    else s.setCluster cl { s.cluster cl with heldBack := none }
  | none => s

/-- Lanes of ordinary crews that are revoked and have still to be saved, on their way to no one. -/
def State.revokedLanes (s : State) (cl : Nat) : List Nat :=
  (List.range 512).filter (fun l =>
    !((s.cluster cl).work.any (fun w => w.lane == l)) && !((s.cluster cl).retiring.contains l) &&
      (ctxsOf cl).any (fun c =>
        let x := s.ctx c
        x.revoked.isSome && x.gsq == 0 && (x.slots ++ x.here).contains l))

/-- Lanes an ordinary crew may be given: free ones in row-major order, then those on their way to no one, then those that a
revoked crew has still to return (R74, R75).  They are fewer than the targets ask for only by lanes on their way to
retirement, whose replacement follows at the next frame (R86). -/
def State.spareLanes (s : State) (cl : Nat) : List Nat :=
  let back := (s.cluster cl).backLanes
  ((List.range 512).filter (s.laneFree cl) ++
    (sortBy (fun a b => decide (a.lane ≤ b.lane)) ((s.cluster cl).work.filter (fun w => w.dest.isNone && !w.retire))).map
      (·.lane) ++ s.revokedLanes cl).filter (fun l => !back.contains l)

/-- A crew's target carried out: a shrink starts, or lanes are given (R74, R77). -/
def State.applyTarget (s : State) (cl : Nat) (grow : Bool) (k : Crew) : State :=
  let x := s.ctx k.c
  let n := x.slots.length + x.joining.length
  if x.revoked.isSome then s
  else if grow then (if n < k.target then s.give k.c ((s.spareLanes cl).take (k.target - n)) else s)
  else if k.target < n then
    let s := s.withhold k.c (n - k.target)
    if k.target < x.slots.length ∧ (x.gstate = .granted ∨ x.gstate = .spilled) then
      s.shrinkTo k.c k.target (s.cluster cl).backLanes
    else if (s.ctx k.c).joining.isEmpty ∧ !x.joining.isEmpty then s.allJoined k.c else s
  else s

/-- The decision of a frame (R74).  Of a REQUESTED crew that gives way while the floors do not fit the spec says only that it
stays REQUESTED: the lanes that are already joining it stay with it (DESIGN CHOICE, log 110). -/
def State.frame (s : State) (cl : Nat) : State :=
  let s := (s.bringSpares cl).checkBack cl
  let n0 := s.squareLanes cl
  let o := ((ctxsOf cl).filter (fun c => (s.ctx c).ordinary)).length
  let waiting := sortBy (fun a b => decide (s.weight b < s.weight a) ||
    (s.weight a == s.weight b && decide ((s.ctx a).asked ≤ (s.ctx b).asked))) ((ctxsOf cl).filter s.waitsSquare)
  let p := waiting.foldl (s.trySquare cl o) (s, n0)
  let t := p.1
  let h := ((ctxsOf cl).map (fun c => if (t.ctx c).gstate = .shrinking then (t.ctx c).lanesHeld else 0)).sum
  let q := 512 - (t.cluster cl).missing.length - p.2 - h
  let d := dropCrews 64 (t.crews cl) q
  let t := d.2.foldl (fun t k => t.revoke k.c) t
  let l := targets d.1 q
  let t := l.foldl (State.applyTarget · cl false ·) t
  let t := l.foldl (State.applyTarget · cl true ·) t
  t.poolStep cl

end Sys2Proof.Machine
end

