-- ==== Sys2Proof/Machine/EvGrant.lean ====
section
/-!
DEFINITION. Steps of the Ostler, of lanes and of the power controller (R70-R86, R329, R330, R436, R438).
-/

namespace Sys2Proof.Machine

/-- SETVL_GRANT_RETURN (R70): a request that can never be placed gives 0; else the grant has joined, the saved contexts
are back, and `vl` is settled. -/
def execSetvlGrantReturn (s : State) : Res' :=
  let c := s.arg.unit
  let x := s.ctx c
  match x.run with
  | .parked .setvl =>
    if x.nofit then
      let t := s.dropGrant c
      .next (t.setCtx c ((t.ctx c).wx x.loadRd 0).resume)
    else if (x.gstate = .granted ∨ x.gstate = .spilled) ∧ x.joining.isEmpty then
      match s.spillFails c (s.settleReads c) with
      | some t => .next t
      | none =>
      let t := s.settle c
      let y := { t.ctx c with gstate := (t.ctx c).fitState }
      .next (t.setCtx c (y.wx x.loadRd (BitVec.ofNat 64 y.vl)).resume)
    else .next s
  | _ => .next s

/-! ### Rotation and moves (R78-R80) -/

/-- A block abandoned without effect: its record points at its first word, and the trip it has asked for is asked for no more
(R39, R82, R392). -/
def State.abandon (s : State) (c i : Nat) : State :=
  let no := match (s.mt c i).blk with
    | some b => if b.trip then b.tripNo + 1 else 0
    | none => 0
  let s := (s.setMt c i { s.mt c i with blk := none }).dropReplies (fun t => t == tagOf 1 c i)
  let x := s.ctx c
  ((s.setCtx c { x with trips := x.trips.filter (fun t => t.1 != i) }).leaveTripQ c (fun n => n != 0 && n == no)).letGo c i

/-- The held context of a lane that has held longest (R80). -/
def State.heldLongest (s : State) (c : Nat) (l : List Nat) : Option Nat :=
  let since := fun i => match (s.mt c i).blk with
    | some b => b.heldSince.getD 0
    | none => 0
  (sortBy (fun a b => decide (since a ≤ since b)) l).head?

/-- LANE_ROTATION: a rotation without a commit on a lane that the crew keeps, in SHRINKING and while others move too (R80);
`index` is the grant slot. -/
def execLaneRotation (s : State) : Res' :=
  let c := s.arg.unit
  let slot := s.arg.index
  let here := (s.ctx c).locals.filter (fun i => (s.mt c i).slot == slot && decide ((s.mt c i).res = .resident))
  if here.all (s.isHeld c) ∧ (s.ctx c).holds ∧ slot < (s.ctx c).spread ∧
      !(s.ctx c).moves.any (fun e => e.1 == slot) then
    match s.spilledWaiting c slot, s.heldLongest c here with
    | some j, some i =>
      let t := s.abandon c i
      let t := t.setMt c i { t.mt c i with res := .spilling }
      .next (t.setMt c j { t.mt c j with res := .restoring })
    | _, _ => .next s
  else .next s

/-- SPILL_COMPLETE (R78, R80): a context between blocks leaves its lane; it is placed where the crew's lanes now put
it, and comes back where its lane has room for it beside the contexts that stay there. -/
def execSpillComplete (s : State) : Res' :=
  let c := s.arg.unit
  let i := s.arg.index
  let x := s.ctx c
  let m := s.mt c i
  if m.res = .spilling ∧ m.blk.isNone ∧ x.holds then
    let t := x.slotFor i
    let others := (x.locals.filter (fun j => j != i && x.slotFor j == t && (s.mt c j).slot == t &&
      (decide ((s.mt c j).res = .resident) || decide ((s.mt c j).res = .restoring)))).length
    let r := x.placedIn i && (m.slot != t || decide (others < 4))
    let n := { m with slot := t, res := if r then .restoring else .spilled, since := s.now }
    .next ((s.setMt c i n).poolStep (clusterOfCtx c))
  else .next s

/-- RESTORE_COMPLETE (R78, R79): a lane holds at most four resident contexts; a record whose check is wrong is not restored
(R310, R404). -/
def execRestoreComplete (s : State) : Res' :=
  let c := s.arg.unit
  let i := s.arg.index
  let m := s.mt c i
  let here := ((s.ctx c).locals.filter (fun j =>
    (s.mt c j).slot == m.slot && (decide ((s.mt c j).res = .resident) || decide ((s.mt c j).res = .spilling)))).length
  if m.res = .restoring ∧ here < 4 ∧ (s.ctx c).holds then
    match s.spillFails c [i] with
    | some t => .next t
    | none => .next ((s.setMt c i { m with res := .resident, since := s.now }).poolStep (clusterOfCtx c))
  else .next s

/-- LANE_CLEARING_DONE (R81, R86): the program area is zero with valid checks; the lane goes to retirement, to the crew
that waits for it, or to the pool. -/
def execLaneClearingDone (s : State) : Res' :=
  let cl := s.arg.unit
  let k := s.cluster cl
  match k.work.find? (fun w => w.lane == s.arg.index && w.clearing) with
  | none => .next s
  | some w =>
    let t := clearRange s (scratchKey cl w.lane) 0xF000
    let t := t.setCluster cl { k with work := k.work.filter (fun v => v.lane != w.lane) }
    let t := if w.retire then (t.takeOut cl w.lane).dropSquare cl w.lane
      else match w.dest with
        | some c => t.joinLane c w.lane
        | none => t
    .next (t.poolStep cl)

/-- FRAME_BOUNDARY (R73, R74): once in each tick that is a multiple of 2,048. -/
def execFrameBoundary (s : State) : Res' :=
  let cl := s.arg.unit
  if s.now % 2048 = 0 ∧ cl < 32 ∧ (s.cluster cl).frame ≠ some s.now then
    .next ((s.setCluster cl { s.cluster cl with frame := some s.now }).frame cl)
  else .next s

/-! ### Revocation (R77, R82, R83) -/

/-- The block waits: for the data of a load, at a link-in read, for room, or for firmware; one whose commit is decided runs to
its end (R39, R82, R395). -/
def State.blkWaits (s : State) (c i : Nat) (b : Blk) : Bool :=
  !b.decided && (b.trip || b.wait.isSome || b.stalled || s.blkHolds c i b)

/-- REVOCATION_DEADLINE (R82): 4,096 ticks after the revocation point, blocks that wait are abandoned; the others run to
their end word. -/
def execRevocationDeadline (s : State) : Res' :=
  let c := s.arg.unit
  let x := s.ctx c
  let late := fun i =>
    match x.revoked with
    | some t => decide (t + 4096 ≤ s.now)
    | none => decide ((s.mt c i).res = .spilling) && (s.cluster (clusterOfCtx c)).work.any (fun w =>
        w.lane == s.laneOf c i && !w.clearing && decide (w.since + 4096 ≤ s.now))
  .next ((x.locals.filter (fun i => late i && (match (s.mt c i).blk with
    | some b => s.blkWaits c i b
    | none => false))).foldl (fun s i => s.abandon c i) s)

/-- A vector access in progress can stop at an element boundary: no data of it are on their way from another member, and no
element has written above one that is left (R82, R255). -/
def Ctx.elemsSettled (x : Ctx) : Bool :=
  match x.run with
  | .parked (.elems _ _ _ left sent _) => sent.isEmpty && left.all (x.cap.top ≤ ·)
  | _ => true

/-- Firmware serves a `vldb` of the context: its elements end with the `eret` (R82, R198, R394). -/
def Ctx.inVldb (x : Ctx) : Bool :=
  match x.emu with
  | some (2, _) => true
  | _ => false

/-- The gang of a context is being stopped to be discarded without a save (R435). -/
def State.discarding (s : State) (c : Nat) : Bool :=
  match (s.gang c).stopping with
  | some (_, 18) => true
  | _ => false

/-- The crew's work in flight has ended, and its contexts can be saved (R83). -/
def State.canSave (s : State) (c : Nat) : Bool :=
  let x := s.ctx c
  x.revoked.isSome && !s.discarding c && x.elemsSettled && !x.inVldb && x.loomStopped && x.locals.all (fun i => (s.mt c i).blk.isNone) &&
    !s.saveWaits c

/-- A revoked crew's contexts saved, and its lanes returned (R83); a record in a spill area that the save finds wrong ends the
context (R309, R404). -/
def State.contextSave (s : State) (c : Nat) : State :=
  let s := s.stopElems c
  let s := match s.spillFails c (s.ctx c).locals with
    | some t => t
    | none =>
      let t := (s.saveRecords c).returnLanes c
      t.setCtx c { t.ctx c with revoked := none }
  s.poolStep (clusterOfCtx c)

/-- CONTEXT_SAVE (R83). -/
def execContextSave (s : State) : Res' :=
  if s.canSave s.arg.unit then .next (s.contextSave s.arg.unit) else .next s

/-- SYS_REVOCATION (R77). -/
def execSysRevocation (s : State) : Res' := .next (s.revoke s.arg.unit)

/-- LANE_RETIREMENT (R86): a present lane is to be retired. -/
def execLaneRetirement (s : State) : Res' :=
  let cl := s.arg.unit
  let k := s.cluster cl
  if cl < 32 ∧ s.arg.index < 512 ∧ !k.missing.contains s.arg.index then
    .next ((s.setCluster cl { k with retiring := setIns k.retiring s.arg.index }).poolStep cl)
  else .next s

/-! ### Power (R85, R329-R331, R438) -/

/-- A die's share of the module's power, in W: an eighth where firmware has apportioned none (R25, R330; DESIGN CHOICE,
log 109). -/
def State.share (s : State) (die : Nat) : Nat := look 450 s.power die

/-- A clock that firmware may set on a die whose power is `watts` (R329). -/
def State.clockOk (s : State) (die mhz watts : Nat) : Bool :=
  mhz % 100 == 0 && decide (1200 ≤ mhz) && decide (mhz ≤ 3600) && decide (s.clockFloor die ≤ mhz) &&
    (decide (mhz ≤ 3300) ||
      (s.boostDie die && decide (watts < s.share die)))

/-- A hop ends: the die's clock is set where R329 allows it; a clock that is lowered has to keep its floor only. -/
def State.tryClock (s : State) (die mhz watts : Nat) : State :=
  if s.clockOk die mhz watts || (mhz % 100 == 0 && decide (s.clockFloor die ≤ mhz) && decide (mhz < s.clock die)) then
    s.setClock die mhz
  else s

/-- A hop of a die's clock begins (R438). -/
def State.startHop (s : State) (die mhz : Nat) : State :=
  { s with hops := s.hops.filter (fun g => g.1 != die) ++ [(die, mhz, none)] }

/-- A hop of the die is in progress, or abandoned and to be tried again. -/
def State.hopping (s : State) (die : Nat) : Bool := s.hops.any (fun h => h.1 == die)

/-- Ordinary crews on a die whose `alc` can fall, or has fallen (R85). -/
def State.alcCrews (s : State) (die : Nat) (lower : Bool) : List Nat :=
  (s.ctxs.map (·.1)).filter (fun c =>
    let x := s.ctx c
    dieOf (c / 4) == die && x.holds && x.gsq == 0 &&
      (if lower then decide (x.floorLanes < x.alc) else decide (x.alc < x.target)))

/-- Every such crew's `alc` lowered by two down to its floor, or raised by two up to its lanes, and its contexts
re-placed (R80, R85). -/
def State.stepAlc (s : State) (die : Nat) (lower : Bool) : State :=
  (s.alcCrews die lower).foldl (fun s c =>
    let x := s.ctx c
    let n := if lower then max x.floorLanes (x.alc - 2) else min x.target (x.alc + 2)
    ((s.setCtx c { x with alc := n }).respread c).settleMoves c) s

/-- The last step on `alc` undone: the pressure on the lanes is over, and every crew has all its lanes back, also those that
it has grown by meanwhile (R80, R85). -/
def State.endAlc (s : State) (die : Nat) : State :=
  (s.alcCrews die false).foldl (fun s c =>
    ((s.setCtx c { s.ctx c with alc := (s.ctx c).target }).respread c).settleMoves c) s

/-- POWER_PRESSURE (R329, R330, R438): the clock, then `alc`, then Loom tokens; `value` is how many tokens the step holds back.
A change of the clock is a hop; from above 3,300 MHz it goes down to that at once, as far as the floor lets it. -/
def execPowerPressure (s : State) : Res' :=
  let d := s.arg.unit
  let p := look (0, 0, 0) s.pressure d
  if s.hops.any (fun h => h.1 == d && h.2.2.isNone) then .next s
  else if s.clockFloor d + 100 ≤ s.clock d ∧ !s.hopping d then
    .next { s.startHop d (max ((s.clockFloor d + 99) / 100 * 100) (min 3300 (s.clock d - 100))) with
      pressure := put s.pressure d (p.1 + 1, p.2) }
  else if !(s.alcCrews d true).isEmpty then
    .next ({ s with pressure := put s.pressure d (p.1, p.2.1 + 1, p.2.2) }.stepAlc d true)
  else .next { s with pressure := put s.pressure d (p.1, p.2.1, p.2.2 + s.arg.value.toNat) }

/-- POWER_PRESSURE_END (R330): the steps are undone in reverse order, the clock only as far as R329 lets it rise; `addr` is
the power measured on the die, in W. -/
def execPowerPressureEnd (s : State) : Res' :=
  let d := s.arg.unit
  let p := look (0, 0, 0) s.pressure d
  if 0 < p.2.2 then .next { s with pressure := put s.pressure d (p.1, p.2.1, 0) }
  else if 0 < p.2.1 then
    let t := { s with pressure := put s.pressure d (p.1, p.2.1 - 1, 0) }
    .next (if p.2.1 = 1 then t.endAlc d else t.stepAlc d false)
  else if 0 < p.1 ∧ !s.hopping d then
    .next { (if s.clockOk d (s.clock d + 100) s.arg.addr then s.startHop d (s.clock d + 100) else s) with
      pressure := put s.pressure d (p.1 - 1, 0, 0) }
  else .next s

/-- CLOCK_HOP (R329): a hop in progress ends at its target, if the rules still allow that clock; a hop that is still going on
stands until it does, or until the droop detector fires.  `addr` is the power measured on the die, in W. -/
def execClockHop (s : State) : Res' :=
  let d := s.arg.unit
  let mhz := s.arg.value.toNat
  match s.hops.find? (fun h => h.1 == d) with
  | some h =>
    if h.2.2.isNone then
      .next ({ s with hops := s.hops.filter (fun g => g.1 != d) }.tryClock d h.2.1 s.arg.addr)
    else .next s
  | none =>
    if d < 8 && s.clockOk d mhz s.arg.addr then
      (if s.arg.flag then .next (s.startHop d mhz)
       else .next (s.setClock d mhz))
    else .next s

/-- DROOP_DURING_HOP (R438): `alc` falls and the hop is abandoned. -/
def execDroopDuringHop (s : State) : Res' :=
  let d := s.arg.unit
  match s.hops.find? (fun h => h.1 == d && h.2.2.isNone) with
  | some h =>
    let p := look (0, 0, 0) s.pressure d
    let down := !(s.alcCrews d true).isEmpty
    let t := { s with hops := s.hops.map (fun g => if g.1 = d then (d, h.2.1, some s.now) else g),
                      pressure := if down then put s.pressure d (p.1, p.2.1 + 1, p.2.2) else s.pressure }
    .next (scrivener (if down then t.stepAlc d true else t) 0x50 0xFF 0 0 [d, h.2.1])
  | none => .next s

/-- CLOCK_HOP_RETRY (R438): no sooner than 1 ms, 3,300,000 ticks, after the abandonment; the hop is in progress again until
CLOCK_HOP ends it, or the droop detector fires once more. -/
def execClockHopRetry (s : State) : Res' :=
  let d := s.arg.unit
  match s.hops.find? (fun h => h.1 == d) with
  | some (_, mhz, some t) =>
    if t + 3300000 ≤ s.now then
      .next (s.startHop d mhz)
    else .next s
  | _ => .next s

end Sys2Proof.Machine
end

