-- ==== Sys2Proof/Machine/EvGang.lean ====
section
/-!
DEFINITION. Steps of gangs: fences, barriers, votes and waits end (R286-R295, R376), the hub answers `lpatch` and `larm`
(R298, R299), contexts end and report (R61-R64, R301), records age (R58), gangs are pre-empted (R380, R381), rolled back
(R427-R429) and moved (R87).
-/

namespace Sys2Proof.Machine

/-- FENCE_RETURN (R155, R166, R286). -/
def execFenceReturn (s : State) : Res' :=
  let c := s.arg.unit
  match (s.ctx c).run with
  | .parked (.fence scope) =>
    if s.fenceDone c scope then .next ((lapse s (c / 4)).setCtx c (s.ctx c).resume) else .next s
  | _ => .next s

/-! ### Barriers (R287-R291, R376) -/

/-- A barrier: kind, scope, channel and sense bit (R288), with the number of the vote (R291). -/
structure Bar where
  kind : Nat
  scope : Word
  chan : Nat
  sense : Bool
  votes : BitVec 8
  deriving DecidableEq, Repr

/-- The barrier that a context is parked in. -/
def State.barOf (s : State) (c : Nat) : Option Bar :=
  match (s.ctx c).run with
  | .parked (.barrier kind scope sense _ _ _) =>
    some { kind := kind, scope := scope, chan := c % 4, sense := sense,
           votes := if kind = 2 then (s.ctx c).votes else 0 }
  | _ => none

/-- The contexts on a barrier's channel inside its scope, but for missing cores (R437). -/
def State.barCtxs (s : State) (b : Bar) : List Nat :=
  ((rectCores b.scope).filter (fun k => !((s.cluster (clusterOf k)).missingCores.contains k))).map (fun k => 4 * k + b.chan)

/-- A core of the gang whose context has halted (R288). -/
def State.haltedIn (s : State) (r c : Nat) : Bool :=
  let g := s.lrec r
  inRect g.placed (c / 4) && g.fld 8 2 == c % 4 && g.own.any (fun e => e.1 == rankIn g.placed (c / 4))

/-- The participants of a barrier. -/
def State.arrivals (s : State) (b : Bar) : List Nat := (s.barCtxs b).filter (fun c => s.barOf c == some b)

/-- A barrier completes: every core inside its scope has arrived, or has halted as part of the gang (R288). -/
def State.barDone (s : State) (r : Nat) (b : Bar) : Bool :=
  (s.barCtxs b).all (fun c => s.barOf c == some b || s.haltedIn r c)

/-- A participant is released: its sense bit flips (R288). -/
def State.leaveBar (s : State) (c : Nat) : State :=
  let x := s.ctx c
  s.setCtx c { x.resume with sense := !x.sense }

/-- The same at the return of a `barr` or `gbar`, at which the core's leases lapse (R155). -/
def State.leaveLapsed (s : State) (c : Nat) : State := (lapse s (c / 4)).leaveBar c

/-- BARRIER_COMPLETE (R289). -/
def execBarrierComplete (s : State) : Res' :=
  match s.barOf s.arg.unit with
  | some b =>
    if b.kind = 0 ∧ s.barDone (s.ctx s.arg.unit).recIdx.toNat b then .next ((s.arrivals b).foldl State.leaveLapsed s)
    else .next s
  | none => .next s

/-- A crew's contexts saved where a revocation has nothing to wait for (R83): of a crew that holds lanes, or whose revocation
has still to be carried out; lanes that are joining a grant are returned. -/
def State.saveCrew (s : State) (c : Nat) : State :=
  let held := (s.ctx c).holds || (s.ctx c).revoked.isSome
  match (if held then s.spillFails c (s.ctx c).locals else none) with
  | some t => t
  | none =>
    let t := (if held then s.saveRecords c else s).returnLanes c
    let x := t.ctx c
    t.setCtx c { x with
      revoked := none
      gstate := if held then .revoked
        else if x.gstate = .requested then (if x.saved.isSome then .revoked else .idle) else x.gstate }

/-- The clusters of a gang go on with their pools. -/
def State.poolsOf (s : State) (l : List Nat) : State :=
  ((l.map clusterOfCtx).dedup).foldl State.poolStep s

/-- The pre-emption that a completed `gbar` finds pending (R59, R290, R381).  A gang that runs on takes its snapshot
(R426): one that is not marked, one that has a context above App or a Prompt trap due, which is stopped later (R387), and
one whose images have come not to fit (R382). -/
def State.preemptMarked (s : State) (r : Nat) : State :=
  let g := s.lrec r
  let l := (s.liveRanks r).map (·.2)
  if !g.marked then s.snapshot r
  else if !s.imagesFit r then (s.setRec r { g with marked := false }).snapshot r
  else if l.all (fun c => (s.ctx c).level = .app && (s.ctx c).prompt.isNone) then
    (((l.foldl State.saveCrew s).saveGang r false).poolsOf l).pass
  else (s.setRec r { g with stopping := some (false, 17) }).snapshot r

/-- A core of the gang begins the next superstep (R50, R290). -/
def State.leaveGbar (s : State) (c : Nat) : State :=
  let t := s.leaveLapsed c
  let x := t.ctx c
  t.setCtx c { x with ssn := x.ssn + 1, xch := false, votes := 0, abortSeen := false }

/-- GBAR_COMPLETE (R50, R290), not while a rollback trigger of the superstep is still to be taken (R427); where the gang is marked, not before every save area can be written (R151, R415). -/
def execGbarComplete (s : State) : Res' :=
  match s.barOf s.arg.unit with
  | some b =>
    let r := (s.ctx s.arg.unit).recIdx.toNat
    let l := s.arrivals b
    if b.kind = 1 ∧ s.barDone r b ∧ !(s.lrec r).trigger ∧ l.all s.allDone ∧ !((s.lrec r).marked && l.any s.saveWaits) then
      let t := (l.foldl State.leaveGbar s).lowerLines r
      let t := t.setRec r { t.lrec r with attempts := 0, unreplayable := false, fresh := true }
      .next (t.preemptMarked r)
    else .next s
  | none => .next s

/-- A vote's identity (R291). -/
def voteUnit (comb : Nat) : Word :=
  match comb with
  | 0 => 0xFFFFFFFFFFFFFFFF
  | 3 => 0x8000000000000000
  | 4 => 0x7FFFFFFFFFFFFFFF
  | _ => 0

/-- Two votes combined (R291). -/
def voteJoin (comb : Nat) (a b : Word) : Word :=
  match comb with
  | 0 => a &&& b
  | 1 => a ||| b
  | 2 => a + b
  | 3 => if a.slt b then b else a
  | _ => if a.slt b then a else b

/-- The combiner and value of a parked vote. -/
def State.voteOf (s : State) (c : Nat) : Nat × Word :=
  match (s.ctx c).run with
  | .parked (.barrier _ _ _ comb v _) => (comb, v)
  | _ => (0, 0)

/-- VOTE_COMPLETE (R291): where the combiners differ, every core is released and raises sync-operand. -/
def execVoteComplete (s : State) : Res' :=
  match s.barOf s.arg.unit with
  | some b =>
    let l := s.arrivals b
    let comb := (s.voteOf s.arg.unit).1
    if b.kind = 2 ∧ s.barDone (s.ctx s.arg.unit).recIdx.toNat b then
      if l.all (fun c => (s.voteOf c).1 == comb) then
        let v := (l.map (fun c => (s.voteOf c).2)).foldl (voteJoin comb) (voteUnit comb)
        .next (l.foldl (fun t c =>
          let t := t.leaveBar c
          let x := t.ctx c
          t.setCtx c ({ x with votes := x.votes + 1 }.wx x.loadRd v)) s)
      else
        .next (l.foldl (fun t c =>
          let pc := (t.ctx c).pc
          let t := t.leaveBar c
          (t.setCtx c { t.ctx c with votes := (t.ctx c).votes + 1 }).trapAt c pc
            { cause := 0x0F, val := (s.voteOf c).2 }) s)
    else .next s
  | none => .next s

/-- BARRIER_TIMEOUT (R376): the barrier is cancelled, and every context parked in it traps; a barrier whose condition holds
completes (R448). -/
def execBarrierTimeout (s : State) : Res' :=
  match s.barOf s.arg.unit, (s.ctx s.arg.unit).run with
  | some b, .parked (.barrier _ scope _ _ _ since) =>
    if s.timedOut s.arg.unit since && !s.barDone (s.ctx s.arg.unit).recIdx.toNat b then
      .next ((s.arrivals b).foldl (fun t c => t.trapAt c (t.ctx c).pc { cause := 0x15, val := scope }) s)
    else .next s
  | _, _ => .next s

/-! ### `wait` (R294) -/

/-- The doubleword of a key, none where it lies in another member's memory. -/
def State.keyRead (s : State) (c key : Nat) : Option Word :=
  match placeOf key with
  | .hub off => s.hubRead (s.partOf (c / 4)) ((s.ctx c).level = .fw) off
  | .domain slot _ => if slot = s.memberId.toNat then some (readDw s.mem key) else none
  | _ => some (readDw s.mem key)

/-- WAIT_RETURN (R52, R155, R169, R294): on the abort line, or when a store has changed the doubleword: the `wait` then makes
its ordinary load again, with all that a load does, and returns with the core's leases lapsed, or takes what stops the
load. -/
def execWaitReturn (s : State) : Res' :=
  let c := s.arg.unit
  match (s.ctx c).run with
  | .parked (.watch key v va) =>
    let back := fun (t : State) => (lapse t (c / 4)).setCtx c (t.ctx c).resume
    if s.abortRaised c then .next (back (s.sampleAbort c))
    else
      match s.keyRead c key with
      | none => .next (s.setCtx c { s.ctx c with run := .active })
      | some d =>
        if d = v then .next s
        else
          match { s with cur := c }.access va (.load 8) with
          | .value d t => .next (if d = v then t else back t)
          | a => a.other s
  | _ => .next s

/-! ### The hub (R297-R299) -/

/-- The value is accepted for a field (R297). -/
def patchOk (field : Nat) (v : Word) : Bool :=
  match field with
  | 0 => true
  | 1 => rectOk v
  | 2 => v &&& ~~~0x303FF == 0 && bits v 0 10 ≤ 512
  | 3 => v.toNat ≤ 3600
  | 4 => 1 ≤ v.toNat && v.toNat ≤ 3600
  | 5 => v.toNat ≤ 1
  | 6 => v.toNat ≤ 16384
  | _ => false

/-- A field written (R297). -/
def LRec.patch (g : LRec) (field : Nat) (v : Word) : LRec :=
  let power := fun (lo len : Nat) =>
    (g.power &&& ~~~(BitVec.ofNat 64 ((2 ^ len - 1) * 2 ^ lo))) ||| BitVec.ofNat 64 (v.toNat % 2 ^ len * 2 ^ lo)
  match field with
  | 0 => { g with arg := v }
  | 1 => { g with rect := v }
  | 2 => { g with lanes := v }
  | 3 => { g with power := power 0 16 }
  | 4 => { g with power := power 16 16 }
  | 5 => g.setFld 13 1 v.toNat
  | _ => { g with power := power 32 15 }

/-- A request that the hub refuses (R298, R402). -/
def State.hubRefuse (s : State) (c : Nat) (cause : Nat) : Res' :=
  .next (s.trapAt c (s.ctx c).pc { cause := 0x11, val := BitVec.ofNat 64 cause })

/-- HUB_LPATCH_REQUEST (R298). -/
def execHubLpatchRequest (s : State) : Res' :=
  let c := s.arg.unit
  match (s.ctx c).run with
  | .parked (.lpatch r field v) =>
    let g := s.lrec r
    if g.part ≠ s.partOf (c / 4) then s.hubRefuse c 1
    else if g.state ≠ 1 then s.hubRefuse c 2
    else if !patchOk field v then s.hubRefuse c 3
    else .next ((s.setRec r (g.patch field v)).setCtx c (s.ctx c).resume)
  | _ => .next s

/-- The partition's power grant refuses a record (R328). -/
def State.powerRefuses (s : State) (r : Nat) : Bool :=
  let g := s.lrec r
  match s.partDef g.part with
  | none => true
  | some d =>
    let boost := g.fld 13 1 == 1
    g.pmax == 0 || decide (d.pgrant < g.pmax) || decide (d.fcap < g.fmin) || (boost && !d.boost) ||
      (decide (3300 < g.fmin) && !boost)

/-- A record is armed, and a pass runs (R54, R57). -/
def State.arm (s : State) (r : Nat) : State :=
  let g := s.lrec r
  let s := s.setRec r { (g.setState 2).setFld 40 2 (g.fld 6 2) with
    armed := s.armCount, waited := 0, held := false, marked := false, saved := false, own := [], msgs := [],
    aborted := [] }
  { s with armCount := s.armCount + 1 }.pass

/-- HUB_LARM_REQUEST (R299, R402, R426).  Of a rectangle that reaches beyond the mesh the spec says two things: the example
of R60 has 17x1 answered as a record that never fits, R8 and R402 have it refused with refusal 3.  The model refuses it
(DESIGN CHOICE, log 111): `rectOk` is tested first, and only a rectangle on the mesh can be found never to fit. -/
def execHubLarmRequest (s : State) : Res' :=
  let c := s.arg.unit
  match (s.ctx c).run with
  | .parked (.larm r) =>
    let g := s.lrec r
    if g.part ≠ s.partOf (c / 4) then s.hubRefuse c 1
    else if g.state ≠ 1 then s.hubRefuse c 2
    else if !rectOk g.rect || (g.fld 12 1 == 1 && (s.snapReg g.part).len == 0) then s.hubRefuse c 3
    else if s.powerRefuses r then s.hubRefuse c 4
    else
      let t := s.setCtx c (s.ctx c).resume
      if t.neverFits r then .next (t.completion r (gangWord 0 false false true false false 0 0)) else .next (t.arm r)
  | _ => .next s

/-! ### Ends (R61-R64, R301, R374) -/

/-- HALT_DRAIN_END (R301): the context ends once its crew, its stores and its jobs are done; under trapmode 1 a FAULTED
micro-thread traps at the `halt` first. -/
def execHaltDrainEnd (s : State) : Res' :=
  let c := s.arg.unit
  let x := s.ctx c
  match x.run with
  | .parked (.halt app) =>
    if !s.drained c then .next s
    else if s.syncTrap c then .next (s.trapAt c x.pc { cause := 0x17, val := s.summary c })
    else if !s.allDone c || x.revoked.isSome then .next s
    else
      let r := x.recIdx.toNat
      let g := s.lrec r
      let t := s.setRec r { g with own := put g.own (rankIn g.placed (c / 4)) (s.ownWord c app (decide (x.level ≠ .app))) }
      let t := t.endContext c
      let t := if g.fld 11 1 = 1 then t.setCtx c { t.ctx c with run := .retained (g.fld 32 8) }
        else (t.powerDown c).setCtx c { t.ctx c with lbanks := 0 }
      .next (t.drainBuf.poolStep (clusterOfCtx c))
  | _ => .next s

/-- The children of a rank in the done tree of a rectangle (R61). -/
def childRanks (rect : Word) (k : Nat) : List Nat :=
  let w := col1 rect + 1 - col0 rect
  let h := row1 rect + 1 - row0 rect
  (if k % w + 1 < w then [k + 1] else []) ++ (if k % w = 0 ∧ k / w + 1 < h then [k + w] else [])

/-- DONE_MESSAGE (R61-R63): the message of rank `index` of record `unit`; the root's completes the gang,
not while a rollback trigger is still to be taken (R427).  Completion words
that wait to be written are tried again first (R151, R299, R415). -/
def execDoneMessage (s : State) : Res' :=
  let s := s.drainLate
  let r := s.arg.unit
  let k := s.arg.index
  let g := s.lrec r
  let has := fun (t : Table Word) (n : Nat) => t.any (fun e => e.1 == n)
  if g.state = 3 ∧ !g.trigger ∧ has g.own k ∧ !has g.msgs k ∧ (childRanks g.placed k).all (has g.msgs) then
    let v := (childRanks g.placed k).foldl (fun v n => joinWords v (look 0 g.msgs n)) (look 0 g.own k)
    if k = 0 then .next (s.finishGang r v) else .next (s.setRec r { g with msgs := put g.msgs k v })
  else .next s

/-- AGING_TICK (R57, R58): every 65,536 cycles of the hub die, whose clock stays nominal, so that its cycles are ticks (log
112).  The interval's phase is one for all records: the spec does not say when a record armed in mid-interval, or saved
back at priority 3, has waited one further interval, and the model has it blocking at the first aging tick after it
stands at priority 3 (DESIGN CHOICE, log 112). -/
def execAgingTick (s : State) : Res' :=
  if s.aged < s.now / 65536 then
    let age := fun (e : Nat × LRec) =>
      if e.2.state = 2 then
        (if e.2.fld 40 2 < 3 then (e.1, e.2.setFld 40 2 (e.2.fld 40 2 + 1)) else (e.1, { e.2 with waited := e.2.waited + 1 }))
      else e
    .next { s with aged := s.aged + 1, recs := s.recs.map age }.pass
  else .next s

/-- RETENTION_RELEASE (R64). -/
def execRetentionRelease (s : State) : Res' := .next (s.release s.arg.unit)

/-! ### Pre-emption (R380, R381) -/

/-- A context stands at a stop point of its control thread (R380). -/
def Ctx.stopPoint (x : Ctx) : Bool :=
  match x.run with
  | .active => true
  | .parked .again => true
  | .parked .setvl => true
  | .parked (.vsync _) => true
  | .parked (.watch _ _ _) => true
  | .parked (.ewait _) => true
  | .parked (.fence _) => true
  | .parked (.barrier _ _ _ _ _ _) => true
  | .parked (.elems _ _ _ _ _ _) => x.elemsSettled
  | _ => false

/-- The context stands at a stop point, at App, with no event due there (R380, R381, R387).  A posted store that Sys or Fw
issued has its report taken at that level only, and keeps no stop back; an image has no place for the report, which goes
(DESIGN CHOICE, log 113). -/
def Ctx.canStop (x : Ctx) : Bool :=
  decide (x.level = .app) && x.emu.isNone && x.trips.isEmpty && x.prompt.isNone && !x.promptBusy && x.postFault.isNone &&
    x.stopPoint

/-- A context stopped: its instruction is to be issued again (R380). -/
def State.atStop (s : State) (c : Nat) : State :=
  let s := s.stopElems c
  s.setCtx c { s.ctx c with run := .active, card := none, watching := none, elemCap := none, winBack := none }

/-- Waiting writes to the register windows of a gang's contexts are applied (R380). -/
def State.applyAllWaiting (s : State) (l : List Nat) : State :=
  l.foldl (fun s c =>
    let run := (s.ctx c).run
    let t := (s.setCtx c { s.ctx c with run := .retained 0 }).drainBuf
    t.setCtx c { t.ctx c with run := run }) s

/-- A job stands at a stop point (R380): a copy between two pieces, whose packets are all reported, a Gleaner job at an
entry index that is a multiple of 32. -/
def Job.atStop (j : Job) : Bool := j.packets == 0 && j.left == 0 && (!j.glean || !j.started || j.row % 32 == 0)

/-- A pre-emption has nothing left to wait for in a context (R380, R381): a write of a job that waits at a register window
of another gang is awaited, one of the same gang is applied before the save. -/
def State.stopDone (s : State) (c : Nat) : Bool :=
  let x := s.ctx c
  x.canStop && x.revoked.isNone && !x.holds && x.loomStopped && x.jobs.all Job.atStop &&
    s.posted.all (fun p => p.from_ != c) &&
    s.wbuf.all (fun p => p.from_ != c || p.op < 17 || p.reads || (s.ctx p.win.ownerNo).recIdx == x.recIdx)

/-- A context of a gang that is discarded without a save has stopped (R380, R435): its control thread, at any level, its
blocks, its Loom and its jobs stand at their stop points, and its posted stores have been applied. -/
def State.discardDone (s : State) (c : Nat) : Bool :=
  let x := s.ctx c
  x.emu.isNone && x.stopPoint && x.loomStopped && x.jobs.all Job.atStop &&
    x.locals.all (fun i => (s.mt c i).blk.isNone) && s.posted.all (fun p => p.from_ != c)

/-- A gang is discarded: its contexts are stopped, no block begins on its crews any more, and once every one has stopped the
record is withdrawn (R62, R435). -/
def State.discardStop (s : State) (r : Nat) : State :=
  let l := (s.liveRanks r).map (·.2)
  let t := l.foldl (fun t c =>
    if (t.ctx c).emu.isNone && (t.ctx c).stopPoint && (t.ctx c).revoked.isNone then (t.atStop c).revoke c else t) s
  if l.all t.discardDone then t.withdraw r else t

/-- PREEMPTION_STOP (R380, R381, R435): contexts at their stop points are stopped and their crews revoked; when every one is
saved, the images are written, the record returns to ARMED and the command's status is written.  Where an image has come
not to fit its slot, the command is refused and the gang runs on (R382). -/
def execPreemptionStop (s : State) : Res' :=
  let r := s.arg.unit
  match (s.lrec r).stopping with
  | none => .next s
  | some (_, 18) => .next (s.discardStop r)
  | some (hold, m) =>
    let l := (s.liveRanks r).map (·.2)
    let t := l.foldl (fun t c => if (t.ctx c).canStop then (t.atStop c).revoke c else t) s
    if !l.all t.stopDone then .next t
    else if !t.imagesFit r then
      let t := t.setRec r { t.lrec r with stopping := none, marked := false }
      .next ((if m < 17 then t.answer m 2 else t).poolsOf l)
    else
      let t := (l.foldl State.saveCrew t).applyAllWaiting l
      let t := t.saveGang r hold
      let t := if m < 17 then t.answer m 1 else t
      .next ((t.poolsOf l).pass)

/-! ### Rollback (R427-R429) -/

/-- A context stopped for a rollback: its blocks are abandoned, its jobs stop without completion words, its arrivals are
cancelled, and its Loom neither holds tokens nor waits for them (R331, R427). -/
def State.stopForRollback (s : State) (c : Nat) : State :=
  let s := (s.ctx c).locals.foldl (fun s i => s.abandon c i) s
  let x := s.ctx c
  let cl := clusterOfCtx c
  let r := x.recIdx.toNat
  let k := s.cluster cl
  let used := (x.loomq.map (·.tokens)).sum
  let s := s.setCluster cl { k with
    tokens := put k.tokens r (look 0 k.tokens r - used), tokenQ := k.tokenQ.filter (· != c) }
  let s := { s with wbuf := s.wbuf.filter (fun p => !(p.from_ == c && decide (17 ≤ p.op))) }
  let s := (s.leaveTripQ c (fun _ => true)).dropAsked c
  s.setCtx c { s.ctx c with
    run := .active, seq := [], jobs := [], loomq := [], stops := [], trips := [], emuNos := [], emuAt := none,
    fwWait := none, fwVal := none, prompt := none, promptBusy := false, call := none, card := none, watching := none, winBack := none,
    elemCap := none }

/-- The scratchpads of a snapshot written to the present grant slots (R427): slot `k` takes image `k mod m`. -/
def State.restoreScratch (s : State) (c pa m : Nat) : State :=
  if m = 0 then s
  else
    let l := (s.ctx c).slots
    (List.range l.length).foldl (fun s k =>
      carry s (pa + 0xF000 * (k % m)) 0xF000 (scratchKey (clusterOfCtx c) (nth 0 l k))) s

/-- The micro-threads of a snapshot: onto the present grant where its shape is that of the request, else into the lane
save area for the regrant (R84, R427). -/
def State.restoreMts (s : State) (c pa : Nat) (side lanes : Nat) (held : Ctx) : State :=
  let x := s.ctx c
  let n := recWords side
  let word := fun i k => readDw s.mem (pa + 8 * n * i + 8 * k)
  if held.holds ∧ sideOf held.gsq = sideOf x.reqSq then
    let y := { x with gstate := held.gstate, slots := held.slots, target := held.target, alc := held.alc, gsq := held.gsq,
                      orow := held.orow, ocol := held.ocol, saved := none, joining := held.joining, here := held.here,
                      moves := held.moves }
    let s := s.setCtx c y
    let s := y.locals.foldl (fun s i => s.setMt c i (y.mtOfRecord (side != 0) (word i))) s
    ((s.placeMts c).settleMoves c).restoreScratch c (pa + 8 * n * x.vl) lanes
  else
    let s := s.setCtx c { held with gstate := .idle } |>.returnLanes c
    let s := s.setCtx c x
    if x.gstate = .revoked then
      let s := x.locals.foldl (fun s i =>
        (List.range n).foldl (fun s k => s.saveWrite c (x.recordVa i + BitVec.ofNat 64 (8 * k)) (word i k)) s) s
      s.mirrorRecords c
    else s

/-- A context restored from its snapshot, none where the snapshot cannot be read or its slot numbers are taken (R427,
R429).  An abort that its core has issued or seen stays in its status word (R292).  A bank of local memory that the context
had not used at the snapshot is zero again, as it was then (R145, R427). -/
def State.restoreSnapshot (s : State) (r k c : Nat) : Option State :=
  let g := s.lrec r
  let pa := (s.snapReg g.part).at r k
  let held := s.ctx c
  let s := s.releaseSlots c held.claimed
  let s := s.discard c 0
  if !((s.savedSlots pa).all (s.slotFree (clusterOfCtx c))) then none
  else
    match s.restoreImage r c pa g.placed held.st.vec with
    | none => none
    | some t =>
      let x := t.ctx c
      let mts := pa + x.imageSize
      let grant := readDw s.mem (pa + 8 * 0x46)
      let side := x.recSide
      let size := 8 * recWords side * x.vl + 0xF000 * bits grant 0 10
      let t := t.sleepBanks c (held.lbanks &&& ~~~x.lbanks)
      if size ≠ 0 ∧ !t.rangeGood mts size then none
      else
        let x := { x with xch := false, votes := 0, abortSeen := false, abortEver := held.abortEver, st := held.st,
                          chgfill := held.chgfill, chgwb := held.chgwb }
        let u := (t.setCtx c x).restoreMts c mts side (bits grant 0 10) held
        if (u.recordsBad c).isSome then none else some u

/-- The ranks that a rollback restores: those that run, and those that halted in this superstep (R427). -/
def State.rollRanks (s : State) (r n : Nat) : List (Nat × Nat) :=
  let l := s.gangCtxs r
  ((List.range l.length).map (fun k => (k, nth 0 l k))).filter (fun p =>
    s.runsFor p.2 r || ((s.lrec r).own.any (fun e => e.1 == p.1 && bits e.2 0 32 == n) &&
      (match (s.ctx p.2).run with
       | .free => true
       | .retained _ => true
       | _ => false)))

/-- ROLLBACK (R427): once every context is at its stop point and every posted store is applied, the gang goes back to the
snapshot of its superstep; a snapshot that fails its verification leaves its record (R404). -/
def execRollback (s : State) : Res' :=
  let r := s.arg.unit
  let g := s.lrec r
  let live := (s.liveRanks r).map (·.2)
  if g.trigger ∧ g.state = 3 ∧ live.all (fun c => (s.ctx c).canStop && s.posted.all (fun p => p.from_ != c)) then
    let n := s.gangSsn r
    let ranks := s.rollRanks r n
    let t := live.foldl State.stopForRollback (s.applyAllWaiting live)
    let t := t.setRec r { g with
      trigger := false, attempts := g.attempts + 1, msgs := [], fresh := false,
      own := g.own.filter (fun e => !ranks.any (fun p => p.1 == e.1)) }
    let t := ranks.foldl (fun t p =>
      match t.restoreSnapshot r p.1 p.2 with
      | some u => u
      | none =>
        let region := t.snapReg g.part
        ((t.setRec r { t.lrec r with rbFailed := true }).failContext p.2).noteBad g.part (p.2 / 4) (region.at r p.1)
          region.stride) t
    let t := t.lowerLines r
    .next ((scrivener t 0x15 g.part 0 0 [n, g.attempts + 1]).poolsOf live)
  else .next s

/-! ### The Drover (R87) -/

/-- The resident tables of two clusters are equal for a space (R87). -/
def State.sameTable (s : State) (space a b : Nat) : Bool :=
  let part := fun cl => (s.cluster cl).vtab.filter (fun e => e.1 / 4096 == space && e.2 != 0)
  part a == part b

/-- A move is allowed to a rectangle (R87). -/
def State.droverOk (s : State) (r : Nat) (rect : Word) : Bool :=
  let g := s.lrec r
  let from_ := rectCores g.placed
  let dest := rectCores rect
  let slots := (List.range from_.length).flatMap (fun k =>
    ((s.ctx (4 * nth 0 from_ k + g.fld 8 2)).claimed).map (fun n => (clusterOf (nth 0 dest k), n)))
  g.fld 10 1 == 1 && g.fld 11 1 == 0 && rectOk rect && sameExtent rect g.placed && dest.all (s.coreFree r) &&
    slots.all (fun e => s.slotFree e.1 e.2) && decide slots.Nodup &&
    dest.all (fun a => from_.all (fun b => s.sameTable (g.fld 24 4) (clusterOf a) (clusterOf b)))

/-- One context moved to the corresponding core (R87): its crew is revoked, its slots and banks are copied with their
checks, and the source is cleared.  A context whose records cannot be saved has ended (R404). -/
def State.moveContext (s : State) (c d : Nat) (rect : Word) : State :=
  let s := s.saveCrew c
  let x := s.ctx c
  if x.run = .free then s
  else
    let y := { x with rect := rect, ft := (s.ctx d).ft }
    let s := (x.imageParts c).zip (x.imageParts d) |>.foldl (fun s p => carry s p.1.1 p.1.2 p.2.1) s
    let s := (s.setCtx d y).awakeBanks d
    let s := x.locals.foldl (fun s i => s.setMt d i (s.mt c i)) s
    (s.powerDown c).endContext c

/-- DROVER_MOVE (R87, R290, R329): of a gang whose `gbar` has just completed, or of one saved by pre-emption, whose source
clusters are those of the rectangle it ran on.  Whether a gang one of whose cores has halted can move is left open: the
model moves none (DESIGN CHOICE, log 119).  Writes that wait at the register windows of its contexts are applied before the
move, as at a pre-emption (DESIGN CHOICE, log 119). -/
def execDroverMove (s : State) : Res' :=
  let r := s.arg.unit
  let g := s.lrec r
  let rect := s.arg.value
  if g.state = 3 ∧ g.fresh ∧ g.own.isEmpty ∧ s.droverOk r rect ∧
      (s.liveRanks r).all (fun p => (s.ctx p.2).level = .app && s.allDone p.2 && s.drained p.2 &&
        (s.ctx p.2).revoked.isNone && (s.ctx p.2).run == .active) then
    let n := g.fld 8 2
    let from_ := rectCores g.placed
    let dest := rectCores rect
    let t := (List.range from_.length).foldl (fun t k =>
      t.moveContext (4 * nth 0 from_ k + n) (4 * nth 0 dest k + n) rect) (s.applyAllWaiting (from_.map (4 * · + n)))
    let t := t.setRec r { t.lrec r with placed := rect }
    let t := (dest.map dieOf).eraseDups.foldl (fun t d => t.fitClock d) t
    .next ((scrivener t 0x61 g.part 0 0 [r]).poolsOf (from_.map (4 * ·)))
  else if g.state = 2 ∧ g.saved ∧ !g.held ∧ g.fld 10 1 = 1 ∧ g.fld 11 1 = 0 ∧ sameExtent rect g.rect ∧ rectOk rect ∧
      (rectCores rect).all (s.coreFree r) ∧ s.slotsLand r rect ∧ s.powerFits r ∧
      (rectCores rect).all (fun a => (rectCores g.placed).all (fun b =>
        s.sameTable (g.fld 24 4) (clusterOf a) (clusterOf b))) then
    .next (scrivener (s.placeAt r rect) 0x61 g.part 0 0 [r])
  else .next s

end Sys2Proof.Machine
end

