-- ==== Sys2Proof/Machine/EvEngine.lean ====
section
/-!
DEFINITION. Steps of the engines (R109-R112, R159-R164, R267-R283, R331, R389, R404-R406, R409, R411, R424, R425, R443):
jobs start, move their data and complete, and the Loom sums its chunks.

JOB_START starts a job and, on a started one, moves as many pieces as `arg.index` says; the job's completion event moves
what is left.  Data of another member that a job reads come with the step, each doubleword with its check and mark, in the
order of the reads.
-/

namespace Sys2Proof.Machine

/-! ### `ewait` (R270) -/

/-- EWAIT_RETURN: every job up to the number has ended; the lowest that stopped raises engine-job. -/
def execEwaitReturn (s : State) : Res' :=
  let c := s.arg.unit
  let x := s.ctx c
  match x.run with
  | .parked (.ewait upto) =>
    if (s.jobList c).any (fun j => j.1.toNat ≤ upto.toNat) then .next s
    else
      match (x.stops.filter (fun e => e.1.toNat ≤ upto.toNat)).map (fun e => e.1.toNat) with
      | [] => .next (s.setCtx c x.resume)
      | n :: l => .next (s.trapAt c x.pc { cause := 0x0E, val := BitVec.ofNat 64 (l.foldl min n) })
  | _ => .next s

/-! ### Edges (R160, R267) -/

/-- No earlier job of the crew that has still to end shares an edge with a job (R160). -/
def State.edgesFree (s : State) (c : Nat) (num : Word) (reads writes : List (Nat × Nat)) : Bool :=
  (s.jobList c).all (fun j =>
    !(j.1.toNat < num.toNat) ||
      !(rangesMeet j.2.2 reads || rangesMeet j.2.1 writes || rangesMeet j.2.2 writes))

/-! ### A job's accesses (R159, R268, R389) -/

/-- The footprints of a job as its card declares them: base and length (R271, R274). -/
def Job.footprints (j : Job) : List (Nat × Nat) :=
  let pairs := fun (k n : Nat) => (List.range n).map (fun i =>
    ((nth 0 j.card (k + 2 * i)).toNat, (nth 0 j.card (k + 2 * i + 1)).toNat))
  let ctl := nth 0 j.card 0
  if j.glean then pairs 4 (bits ctl 32 3) ++ pairs 12 (bits ctl 36 2)
  else pairs 8 (bits ctl 24 3) ++ pairs 16 (bits ctl 28 2)

/-- Every byte of a doubleword lies in a footprint (R159). -/
def Job.covers (j : Job) (va : Word) : Bool :=
  (List.range 8).all (fun k => j.footprints.any (fun f => f.1 ≤ va.toNat + k && va.toNat + k < f.1 + f.2))

/-- What a doubleword that a job reaches comes to: memory, a window item that can be reached now, a register window at
which the access waits (R49, R121), a gated unit (R145), the hub, another member, a stop, or a wait.  `pa` is the physical
address. -/
inductive JobAt where
  | mem (t : Tr)
  | win (w : Win) (pa : Nat)
  | buf (w : Win) (pa : Nat)
  | sleep (w : Win)
  | hub (off : Nat)
  | remote (slot pa : Nat)
  | stop (k : BitVec 8)
  | wait

/-- The translation of a job's address, by the entries that stood when it was submitted (R136). -/
def State.jobTr (s : State) (c : Nat) (j : Job) (va : Word) (n : Need) : Option Tr :=
  vecLeaf (look 0 (j.pages.getD (s.spaceTable c)) (vtabKey (s.ctx c).vspace.toNat va)) j.level va n

/-- The checks of a job's access in the order of R389's causes. -/
def State.jobAt (s : State) (c : Nat) (j : Job) (va : Word) (n : Need) : JobAt :=
  if !canonical va || !j.covers va then .stop 0x03
  else
    match s.jobTr c j va n with
    | none => .stop 0x06
    | some t =>
      match placeOf t.pa with
      | .reserved => .stop 0x18
      | .window cl off =>
        let w := winOf cl off
        match (if s.ownerWaits w then
            (if s.winState j.level w = .fault then WinSt.fault else WinSt.buffer) else s.winState j.level w) with
        | .fault => .stop 0x07
        | .go => if s.winAsleep w then .sleep w else .win w t.pa
        | .buffer => .buf w t.pa
        | .poll => if w.owner.isSome then .buf w t.pa else .wait
      | p =>
        if t.attr = 2 then .stop 0x07
        else
          match p with
          | .hub off =>
            if j.level = .app ∨ (s.hubRead (s.partOf (c / 4)) (j.level = .fw) off).isNone then .stop 0x18 else .hub off
          | .domain slot addr =>
            if slot = s.memberId.toNat then
              (if domainLocal addr then .mem { pa := addr, skew := t.skew, attr := 1 } else .stop 0x18)
            else if s.ownsSlot (s.partOf (c / 4)) slot && s.reachable slot then .remote slot t.pa
            else .stop 0x18
          | _ => .mem t

/-- A step of a job: what it gives and the state; or its stop cause, none where it has to wait. -/
abbrev JobTry (α : Type) := Except (Option (BitVec 8) × State) (α × State)

/-- Who makes a job's accesses: a Gleaner's are never served above the guarantee (R409). -/
def State.jobWho (s : State) (c : Nat) (j : Job) : Who :=
  { s.who c with level := if j.glean then .app else j.level, kind := if j.glean then 6 else 5, l1 := false }

/-- A doubleword read in memory form: a consumer verifies it, a carrier takes it as it is (R310, R311, R404, R405). -/
def State.jobTake (s : State) (c : Nat) (j : Job) (consumer : Bool) (pa : Nat) (d : Datum) : JobTry Datum :=
  if consumer && d.mark then .error (some 0x21, s)
  else if consumer && d.synd != 0 then
    .error (some 0x20, s.mismatch (if j.glean then 6 else 5) (s.partOf (c / 4)) (c / 4) pa)
  else .ok (d, s)

/-- A job as it stands in its crew. -/
def State.jobNow (s : State) (c : Nat) (j : Job) : Job := ((s.ctx c).jobs.find? (fun i => i.num == j.num)).getD j

/-- A job's access takes its place in a window-write buffer, unless that is full (R49, R121); `rd` says that it reads. -/
def State.jobQueue (s : State) (c : Nat) (j : Job) (w : Win) (va : Word) (pa : Nat) (v : Word) (rd : Bool) : Option State :=
  if 32 ≤ s.bufUse w.bufCore then none
  else
    let p : Posted := { from_ := c, level := j.level, va := va, pa := pa, data := v, width := 8,
                        op := 17 + j.num.toNat + (if rd then 2 ^ 64 else 0) }
    some { s with wbuf := s.wbuf ++ [p] }

/-- The tag of what a job asks of other members. -/
def jobTag (c : Nat) (num : Word) : Nat := tagOf 5 c (num.toNat % 0x40000)

/-- A doubleword of another member read by a job: its reply is taken and kept until the piece is over, or the read is
requested, once (R338, R339, R389). -/
def State.jobFar (s : State) (c : Nat) (j : Job) (consumer : Bool) (va : Word) (slot pa : Nat) : JobTry Datum :=
  match s.takeReply (jobTag c j.num) (fun q => (q.word 1).toNat == pa && bits (q.word 2) 0 8 == 1) with
  | some (q, s) =>
    if q.cause ≠ 0 then .error (some (backCause q.cause), s)
    else
      let jobs := (s.ctx c).jobs.map (fun i => if i.num = j.num then { i with got := put i.got va.toNat (q.datum 0) } else i)
      (s.setCtx c { s.ctx c with jobs := jobs }).jobTake c j consumer (pa / 8 * 8) (q.datum 0)
  | none =>
    if s.pend.any (fun p => p.back.isNone && p.tag == jobTag c j.num && (nth 0 p.words 1).toNat == pa &&
        bits (nth 0 p.words 0) 0 8 == 1) then .error (none, s)
    else .error (none, s.sendReq slot (jobTag c j.num) (domainPacket 1 pa 8 0 0 0) [])

/-- A doubleword read by a job; what a read that waited, at a register window or for another member, has come back with is
taken (R121, R339). -/
def State.jobRead (s : State) (c : Nat) (j : Job) (consumer : Bool) (va : Word) : JobTry Datum :=
  match (s.jobNow c j).got.find? (fun e => e.1 == va.toNat) with
  | some (_, d) => s.jobTake c j consumer ((s.jobTr c j va .r).map (·.pa) |>.getD 0) d
  | none =>
  match s.jobAt c j va .r with
  | .stop e => .error (some e, s)
  | .wait => .error (none, s)
  | .buf w pa =>
    if s.wbuf.any (fun p => p.ofJob c j.num && p.reads && p.va == va) then .error (none, s)
    else .error (none, (s.jobQueue c j w va pa 0 true).getD s)
  | .sleep w => .error (none, s.winWake w)
  | .win w pa =>
    match s.winKey w with
    | some key =>
      (s.useBank c w).jobTake c j consumer pa
        { v := readDw s.mem key, synd := look 0 s.synd key, mark := s.marks.contains key }
    | none =>
      match s.winBad w false with
      | some (e, pa) => .error (some e, if e = 0x20 then s.mismatch 1 (s.partOf (c / 4)) (c / 4) pa else s)
      | none => .ok (.of (s.winRead w), s)
  | .hub off =>
    s.jobTake c j consumer (hubBase + off)
      { v := (s.hubRead (s.partOf (c / 4)) (j.level = .fw) off).getD 0, synd := look 0 s.hubSynd off,
        mark := s.marks.contains (hubBase + off) }
  | .remote slot pa => s.jobFar c j consumer va slot pa
  | .mem t =>
    let key := memKey t.skew t.pa
    let d : Datum := { v := readDw s.mem key, synd := look 0 s.synd key, mark := false }
    match s.memFault (s.jobWho c j) t va false with
    | some e =>
      if (e.cause = 0x21 ∨ e.cause = 0x22) ∧ !consumer then
        .ok ({ d with mark := true }, s.served (s.jobWho c j) t (sectorOf key) (.load 8))
      else .error (some e.cause, s)
    | none =>
      if s.stalls t then .error (none, s)
      else (s.served (s.jobWho c j) t (sectorOf key) (.load 8)).jobTake c j consumer t.pa d

/-- A doubleword written with its check as it came (R311).  In on-chip storage a poison mark stays beside it (R405; log
105); in memory a mark is the sector's, which the piece settles. -/
def putDatum (s : State) (key : Nat) (d : Datum) (onChip : Bool := false) : State :=
  let s := putDw s key d.v
  let s := if d.synd = 0 then s else { s with synd := put s.synd key d.synd }
  if onChip then { s with marks := if d.mark then setIns s.marks key else s.marks.filter (· != key) } else s

/-- A doubleword that a job hands to a consumer, a register of a window, is verified there (R310, R313, R405). -/
def State.jobVerify (s : State) (c pa : Nat) (d : Datum) : JobTry Unit :=
  if d.mark then .error (some 0x21, s)
  else if d.synd != 0 then .error (some 0x20, s.mismatch 1 (s.partOf (c / 4)) (c / 4) pa)
  else .ok ((), s)

/-- A doubleword written by a job; `whole` says that its piece covers its aligned 256-byte sector (R406).  A write to a
register window that is closed, or that has others waiting before it, waits in the window-write buffer (R49). -/
def State.jobWrite (s : State) (c : Nat) (j : Job) (va : Word) (d : Datum) (whole : Bool) : JobTry Unit :=
  let part := s.partOf (c / 4)
  match s.jobAt c j va .w with
  | .stop e => .error (some e, s)
  | .wait => .error (none, s)
  | .sleep w => .error (none, s.winWake w)
  | .buf w pa =>
    match s.jobVerify c pa d with
    | .error e => .error e
    | .ok (_, s) =>
      match s.jobQueue c j w va pa d.v false with
      | none => .error (none, s)
      | some t => .ok ((), t)
  | .win w pa =>
    match s.winKey w with
    | some key => .ok ((), putDatum (s.useBank c w) key d true)
    | none =>
      match s.jobVerify c pa d with
      | .error e => .error e
      | .ok (_, s) =>
        match s.winPut part (c / 4) j.level w d.v with
        | .ok t => .ok ((), t.drainBuf)
        | .error (e, t) => .error (some e, t)
  | .hub off => .ok ((), s.hubWrite part (j.level = .fw) off d)
  | .remote slot pa =>
    let jobs := (s.ctx c).jobs.map (fun i => if i.num = j.num then { i with packets := i.packets + 1 } else i)
    .ok ((), (s.setCtx c { s.ctx c with jobs := jobs }).sendReq slot (jobTag c j.num) (domainPacket 4 pa 8 0 0 0) [d])
  | .mem t =>
    let key := memKey t.skew t.pa
    if s.heldSectors.any (fun h => h.1 == sectorOf key) || s.stalls t then .error (none, s)
    else
      match s.memFault (s.jobWho c j) t va true true with
      | some e =>
        if e.cause = 0x21 && whole && !bulkMarked s t.skew t.pa then
          .ok ((), putDatum (storeMem s part 4096 t.pa key []) key d)
        else .error (some e.cause, s)
      | none =>
        let s := s.served (s.jobWho c j) t (sectorOf key) (.store 8 d.v)
        .ok ((), putDatum (storeMem s part 4096 t.pa key []) key d)

/-- What is left of poison once a piece has been written: a whole sector is renewed, and a mark that came with the data
is the sector's (R405, R406). -/
def State.settlePiece (s : State) (c : Nat) (j : Job) (va : Word) (whole mark : Bool) : State :=
  match s.jobAt c j va .w with
  | .mem t =>
    let s := if whole then renewSector s t.skew t.pa else s
    if mark then poisonSector s 0 t.skew t.pa else s
  | _ => s

/-! ### Copy jobs (R272, R443) -/

/-- The copy converts. -/
def Job.converts (j : Job) : Bool := bits (nth 0 j.card 0) 0 2 == 1

/-- The bytes of a row at the destination (R272). -/
def Job.rowLen (j : Job) : Nat :=
  let n := bits (nth 0 j.card 3) 0 32
  if j.converts then n * fmtBits (bits (nth 0 j.card 0) 16 5) / 8 else n

/-- The rows of a copy. -/
def Job.rows (j : Job) : Nat := bits (nth 0 j.card 3) 32 32

/-- The row that is moved `k`-th: rows go up in destination order (R443; log 32). -/
def Job.rowNo (j : Job) (k : Nat) : Word :=
  BitVec.ofNat 64 (if (nth 0 j.card 5).msb then j.rows - 1 - k else k)

/-- The destination of a position: row and byte. -/
def Job.dest (j : Job) (p : Nat × Nat) : Word :=
  nth 0 j.card 2 + j.rowNo p.1 * nth 0 j.card 5 + BitVec.ofNat 64 p.2

/-- The source row of a position. -/
def Job.srcRow (j : Job) (p : Nat × Nat) : Word := nth 0 j.card 1 + j.rowNo p.1 * nth 0 j.card 4

/-- The position after a doubleword. -/
def Job.after (j : Job) (p : Nat × Nat) : Nat × Nat := if p.2 + 8 < j.rowLen then (p.1, p.2 + 8) else (p.1 + 1, 0)

/-- The positions of one piece: consecutive destination doublewords up to a boundary (R272, R443). -/
def Job.piece (j : Job) (limit : Nat) : Nat → Nat × Nat → List (Nat × Nat)
  | 0, _ => []
  | n + 1, p =>
    if j.rows ≤ p.1 then []
    else
      let q := j.after p
      if q.1 < j.rows && j.dest q == j.dest p + 8 && (j.dest q).toNat % limit != 0 then p :: j.piece limit n q else [p]

/-- The positions of one packet: those whose destinations rise within one 2 KiB range (R443). -/
def Job.packet (j : Job) : Nat → Nat × Nat → List (Nat × Nat)
  | 0, _ => []
  | n + 1, p =>
    if j.rows ≤ p.1 then []
    else
      let q := j.after p
      if q.1 < j.rows && decide ((j.dest p).toNat < (j.dest q).toNat) &&
          (j.dest q).toNat / 2048 == (j.dest p).toNat / 2048 then p :: j.packet n q else [p]

/-- Consecutive source doublewords read as a consumer, as one number (R310). -/
def State.jobRun (s : State) (c : Nat) (j : Job) : Nat → Word → JobTry Nat
  | 0, _ => .ok (0, s)
  | n + 1, va =>
    match s.jobRead c j true va with
    | .error e => .error e
    | .ok (d, s) =>
      match s.jobRun c j n (va + 8) with
      | .error e => .error e
      | .ok (v, s) => .ok (d.v.toNat + 2 ^ 64 * v, s)

/-- A destination doubleword of a convert copy: the elements it holds, converted by RNE (R99, R272). -/
def State.convertDw (s : State) (c : Nat) (j : Job) (p : Nat × Nat) : JobTry (Datum × BitVec 7) :=
  let sf := bits (nth 0 j.card 0) 8 5
  let df := bits (nth 0 j.card 0) 16 5
  let sb := fmtBits sf
  let db := fmtBits df
  let e0 := 8 * p.2 / db
  let e1 := (8 * p.2 + 63) / db
  let d0 := sb * e0 / 64
  let d1 := (sb * (e1 + 1) - 1) / 64
  match s.jobRun c j (d1 + 1 - d0) (j.srcRow p + BitVec.ofNat 64 (8 * d0)) with
  | .error e => .error e
  | .ok (v, s) =>
    let one := fun e => convertElem sf df { mode := 0, draw := 0 } (v / 2 ^ (sb * e - 64 * d0) % 2 ^ sb)
    let es := (List.range (e1 + 1 - e0)).map (fun n => one (e0 + n))
    let (w, fl) := packElems db es
    .ok (({ v := BitVec.ofNat 64 (w / 2 ^ (8 * p.2 - db * e0)), synd := 0, mark := false }, fl), s)

/-- The doubleword that goes to a position, and its flags. -/
def State.copyDw (s : State) (c : Nat) (j : Job) (p : Nat × Nat) : JobTry (Datum × BitVec 7) :=
  if j.converts then s.convertDw c j p
  else
    match s.jobRead c j false (j.srcRow p + BitVec.ofNat 64 p.2) with
    | .error e => .error e
    | .ok (d, s) => .ok ((d, 0), s)

/-- Flags of conversions that a job has written stay with it (R268, R272). -/
def State.addFlags (s : State) (c : Nat) (j : Job) (fl : BitVec 7) : State :=
  s.setCtx c { s.ctx c with
    jobs := (s.ctx c).jobs.map (fun i => if i.num = j.num then { i with flags := i.flags ||| fl } else i) }

/-- The doublewords of a piece moved one after another, with how many have been: one that has to wait ends the step's part of
the piece, and what was written before a stop stays, with its flags (R268, R272). -/
def State.movePiece (s : State) (c : Nat) (j : Job) (whole : Bool) :
    List (Nat × Nat) → Nat → BitVec 7 → Bool → JobTry (BitVec 7 × Bool × Nat)
  | [], k, fl, mark => .ok ((fl, mark, k), s)
  | p :: ps, k, fl, mark =>
    let ends := fun (e : Option (BitVec 8)) (s : State) =>
      if e.isNone && decide (0 < k) then Except.ok ((fl, mark, k), s) else .error (e, s.addFlags c j fl)
    match s.copyDw c j p with
    | .error (e, s) => ends e s
    | .ok ((d, f), s) =>
      match s.jobWrite c j (j.dest p) d whole with
      | .error (e, s) => ends e s
      | .ok (_, s) => s.movePiece c j whole ps (k + 1) (fl ||| f) (mark || d.mark)

/-- The doublewords of a packet to another member, each with its check and mark as they are (R311, R405, R443). -/
def State.packetData (s : State) (c : Nat) (j : Job) :
    List (Nat × Nat) → BitVec 7 → List Datum → JobTry (BitVec 7 × List Datum)
  | [], fl, l => .ok ((fl, l), s)
  | p :: ps, fl, l =>
    match s.jobAt c j (j.dest p) .w with
    | .stop e => .error (some e, s)
    | .wait => .error (none, s)
    | _ =>
      match s.copyDw c j p with
      | .error e => .error e
      | .ok ((d, f), s) => s.packetData c j ps (fl ||| f) (l ++ [d])

/-- The doublewords of its 2 KiB range that a packet writes, as a map of bits (R443). -/
def packetMap (offs : List Nat) : List Datum :=
  (List.range 4).map (fun n => .of (BitVec.ofNat 64
    (offs.foldl (fun a o => a + (if o / 512 = n then 2 ^ (o % 512 / 8) else 0)) 0)))

/-- A packet of a copy sent: consecutive doublewords, or a map of those it writes in front of them (R443; log 32). -/
def State.sendPiece (s : State) (slot tag pa : Nat) (offs : List Nat) (data : List Datum) : State :=
  let first := nth 0 offs 0
  if offs == (List.range offs.length).map (fun k => first + 8 * k) then
    s.sendReq slot tag (domainPacket 4 pa (8 * data.length) 0 0 0) data
  else s.sendReq slot tag (domainPacket 5 (pa / 2048 * 2048) 0 0 0 0) (packetMap offs ++ data)

/-- A job of a crew replaced. -/
def State.setJob (s : State) (c : Nat) (j : Job) : State :=
  s.setCtx c { s.ctx c with jobs := (s.ctx c).jobs.map (fun i => if i.num = j.num then j else i) }

/-- Some doublewords of a piece of a copy moved: to memory and windows up to a 256-byte boundary, or as many of them as the
first number of the step's `list` says where that is not 0, to another member a packet (R162, R272, R443).  The doublewords
that one step moves change together; which they are is the step's to say, down to one (DESIGN CHOICE, log 61). -/
def State.copyPiece (s : State) (c : Nat) (j : Job) : JobTry Job :=
  let p := (j.row, j.byte)
  match s.jobAt c j (j.dest p) .w with
  | .stop e => .error (some e, s)
  | .wait => .error (none, s)
  | .remote slot pa =>
    let l := j.packet 256 p
    match s.packetData c j l 0 [] with
    | .error e => .error e
    | .ok ((fl, data), s) =>
      let q := j.after (l.getLastD p)
      let j := { j with row := q.1, byte := q.2, flags := j.flags ||| fl, packets := j.packets + 1, got := [] }
      .ok (j, (s.sendPiece slot (jobTag c j.num) pa (l.map (fun p => (j.dest p).toNat % 2048)) data).setJob c j)
  | _ =>
    let l := j.piece 256 32 p
    let m := if nth 0 s.arg.list 0 = 0 then l else l.take (nth 0 s.arg.list 0)
    let whole := j.left != 0 || l.length == 32
    match s.movePiece c j whole m 0 0 j.marked with
    | .error e => .error e
    | .ok ((fl, mark, k), s) =>
      let m := l.take k
      let ends := m.length == l.length
      let q := j.after (m.getLastD p)
      let s := if ends || !whole then s.settlePiece c j (j.dest p) whole mark else s
      let j := { j with row := q.1, byte := q.2, flags := j.flags ||| fl, got := [],
                        left := if whole && !ends then l.length - m.length else 0, marked := whole && !ends && mark }
      .ok (j, s.setJob c j)

/-! ### Gleaner jobs (R275) -/

/-- One entry of a Gleaner job. -/
def State.gleanEntry (s : State) (c : Nat) (j : Job) : JobTry Job :=
  let ctl := nth 0 j.card 0
  let wide := ctl.getLsbD 16
  let at_ := nth 0 j.card 1 + BitVec.ofNat 64 (if wide then 8 * j.row else 4 * j.row / 8 * 8)
  match s.jobRead c j true at_ with
  | .error e => .error e
  | .ok (i, s) =>
    let x := if wide then i.v else if j.row % 2 = 0 then i.v &&& 0xFFFFFFFF else i.v >>> 32
    let t := nth 0 j.card 2 + (x <<< bits ctl 24 6)
    let b := nth 0 j.card 3 + BitVec.ofNat 64 (8 * j.row)
    let (src, dst) := if ctl.getLsbD 0 then (b, t) else (t, b)
    if !canonical t then .error (some 0x03, s)
    else if t.toNat % 8 ≠ 0 then .error (some 0x04, s)
    else
      match s.jobRead c j false src with
      | .error e => .error e
      | .ok (d, s) =>
        match s.jobWrite c j dst d false with
        | .error e => .error e
        | .ok (_, s) =>
          let s := s.settlePiece c j dst false d.mark
          let n := (((s.ctx c).jobs.find? (fun i => i.num == j.num)).map (·.packets)).getD j.packets
          let j := { j with row := j.row + 1, packets := n, got := [] }
          .ok (j, s.setJob c j)

/-! ### Progress and completion -/

/-- All of a job's data have moved. -/
def Job.moved (j : Job) : Bool := if j.glean then j.count ≤ j.row else j.rows ≤ j.row

/-- Up to `n` pieces or entries of a job moved. -/
def State.advance (s : State) (c : Nat) (j : Job) : Nat → JobTry Job
  | 0 => .ok (j, s)
  | n + 1 =>
    if j.moved then .ok (j, s)
    else
      match (if j.glean then s.gleanEntry c j else s.copyPiece c j) with
      | .error e => .error e
      | .ok (j, s) => s.advance c j n

/-- The pieces that a job can still have: one at least for each doubleword. -/
def Job.fuel (j : Job) : Nat := if j.glean then j.count else j.rows * (j.rowLen / 8 + 1)

/-- The completion word of a job (R269). -/
def jobWord (num : Word) (cause : BitVec 8) (flags : BitVec 7) : Word :=
  BitVec.ofNat 64 (packBits [(bits num 0 32, 32), (cause.toNat, 16), (flags.toNat, 8), (bit (cause != 0), 1), (1, 0)])

/-- A Loom job put into the queue in the order of numbers (R163). -/
def insertLoom (j : LoomJob) (l : List LoomJob) : List LoomJob :=
  insertBy (fun a b => decide (a.num.toNat ≤ b.num.toNat)) j l

/-- A copy or Gleaner job has ended (R163, R269, R273, R389): its follow-on goes to the Loom, or counts as stopped with
it. -/
def State.jobOut (s : State) (c : Nat) (j : Job) (k : BitVec 8) : State :=
  let s := s.dropReplies (fun t => t == jobTag c j.num)
  let x := s.ctx c
  let x := { x with jobs := x.jobs.filter (fun i => i.num != j.num) }
  if k = 0 then
    match j.followOn (sideOf x.reqSq) with
    | some l => s.setCtx c { x with loomq := insertLoom l x.loomq }
    | none => s.setCtx c x
  else
    s.setCtx c { x with stops := x.stops ++ (j.num, k) :: (if j.follow = 0 then [] else [(j.num + 1, k)]) }

/-- A copy or Gleaner job ends with a cause, 0 for none (R269, R389): its completion word is written, under the entries that
its accesses went through (R136).  A write that has to wait, at a Copying line, a held sector, a gated unit or a register
window, leaves the job where it is (R49, R145, R151, R415). -/
def State.endJob (s : State) (c : Nat) (j : Job) (cause : BitVec 8) : State :=
  let x := s.ctx c
  if j.done = 0 then s.jobOut c j cause
  else
    let t := s.jobTr c j j.done .w
    match s.putWord (c / 4) c (s.partOf (c / 4)) t j.done (jobWord j.num cause j.flags) j.level with
    | .value _ t => t.jobOut c j cause
    | .exc _ u =>
      (scrivener u 0x62 (s.partOf (c / 4)) 0 ((t.map (·.pa)).getD 0) [j.num.toNat]).jobOut c j 0x06
    | .stall t => if cause = 0 then t else t.setCtx c { t.ctx c with
        jobs := (t.ctx c).jobs.map (fun i => if i.num = j.num then { i with fail := some cause } else i) }
    | _ => s.setCtx c x

/-- A job can end now: a follow-on finds room (R267). -/
def State.endReady (s : State) (c : Nat) (j : Job) : Bool :=
  j.follow == 0 || decide ((s.ctx c).loomq.length < 8)

/-- A stop cause of a step taken: in a rollback gang a trigger starts a rollback instead (R268, R427). -/
def State.stopJob (s : State) (c : Nat) (j : Job) (k : BitVec 8) : State :=
  if s.rollsBack c k then s.noteTrigger c k else (s.noteTrigger c k).endJob c j k

/-- The member that a domain copy writes to can be reached no more (R443). -/
def State.cutOff (s : State) (c : Nat) (j : Job) : Bool :=
  !j.glean && decide (0 < j.packets) &&
    (match s.jobAt c j (j.dest (0, 0)) .w with
     | .stop k => k == 0x18
     | _ => false)

/-- Nothing keeps a job whose data have moved from its completion (R49, R162, R267, R443): its packets are reported, its
writes to register windows applied, and its end has room. -/
def State.jobDone (s : State) (c : Nat) (j : Job) : Bool :=
  j.moved && j.packets == 0 && !s.wbuf.any (fun p => p.ofJob c j.num) && s.endReady c j

/-- A job advanced by up to `n` pieces, and ended when `finish` asks for it and it is done. -/
def State.runJob (s : State) (c : Nat) (j : Job) (n : Nat) (finish : Bool) : State :=
  match (if s.cutOff c j then some 0x18 else j.fail) with
  | some k => s.stopJob c j k
  | none =>
    match s.advance c j n with
    | .error (some k, t) => t.stopJob c (((t.ctx c).jobs.find? (fun i => i.num == j.num)).getD j) k
    | .error (none, t) => t
    | .ok (j, t) => if finish && t.jobDone c j then t.endJob c j 0 else t

/-- The job of a context that the step names by its number, if it is of a kind and started. -/
def State.jobNamed (s : State) (glean : Bool) : Option Job :=
  ((s.ctx s.arg.unit).jobs.find? (fun j => j.num == s.arg.value)).filter (fun j => j.glean == glean && j.started)

/-- COPY_JOB_COMPLETE (R162, R163, R272). -/
def execCopyJobComplete (s : State) : Res' :=
  match s.jobNamed false with
  | some j => .next (s.runJob s.arg.unit j j.fuel true)
  | none => .next s

/-- GLEANER_JOB_COMPLETE (R162, R275). -/
def execGleanerJobComplete (s : State) : Res' :=
  match s.jobNamed true with
  | some j => .next (s.runJob s.arg.unit j j.fuel true)
  | none => .next s

/-- PACKET_REPORT (R443, R338): a report that has come in for a packet of the job, whose last completes it; a packet that the
target refuses, or whose port is DOWN, stops it (R432). -/
def execPacketReport (s : State) : Res' :=
  let c := s.arg.unit
  match (s.ctx c).jobs.find? (fun j => j.num == s.arg.value) with
  | none => .next s
  | some j =>
    match s.takeReply (jobTag c j.num) (fun q => decide (4 ≤ bits (q.word 2) 0 8)) with
    | none => .next s
    | some (q, s) =>
      let k := { j with packets := j.packets - 1 }
      .next (if q.cause ≠ 0 then (s.setJob c k).stopJob c k (backCause q.cause) else (s.setJob c k).runJob c k 0 true)

/-- REFRESH_BREAK (R411): the burst that a refresh broke resumes where it stopped, and no result changes. -/
def execRefreshBreak (s : State) : Res' := .next s

/-! ### The Loom (R109-R112, R276, R278-R281, R331) -/

/-- Elements of a slot row, chunk length, element bits, scaled, and integer, by format (R109, R278). -/
def loomShape (f : Nat) : Nat × Nat × Nat × Bool × Bool :=
  match f with
  | 10 => (96, 32, 8, false, true)
  | 8 => (48, 48, 8, true, false)
  | 7 => (48, 48, fmtBits 7, true, false)
  | 9 => (48, 48, fmtBits 9, true, false)
  | _ => (48, 16, 16, false, false)

/-- The format of a Loom job. -/
def LoomJob.fmt (j : LoomJob) : Nat := (j.lg0.extractLsb' 0 5).toNat

/-- The chunks of a Loom job (R281). -/
def LoomJob.chunks (j : LoomJob) : Nat :=
  let (kslot, len, _) := loomShape j.fmt
  bits j.ra 16 10 * kslot / len

/-- The key of the bytes of a chunk in a row of an operand: slot and offset. -/
def LoomJob.rowKey (j : LoomJob) (cl : Nat) (range : Word) (row k : Nat) : Nat :=
  let (kslot, len, b, _) := loomShape j.fmt
  tileKey cl (bits range 0 9 + k * len / kslot) + 96 * row + k * len % kslot * b / 8

/-- The elements of a chunk in a row of an operand, as codes (R99, R278). -/
def State.loomCodes (s : State) (cl : Nat) (j : LoomJob) (range : Word) (row k : Nat) : List Nat :=
  let (_, len, b, _) := loomShape j.fmt
  let v := leNat (readBytes s.mem (j.rowKey cl range row k) (len * b / 8))
  (List.range len).map (fun n => v / 2 ^ (b * n) % 2 ^ b)

/-- The key of the scale of a row in a chunk. -/
def LoomJob.scaleKey (cl : Nat) (range : Word) (row k : Nat) : Nat := planeKey cl (bits range 0 9 + k) + row

/-- A doubleword that a chunk reads cannot be consumed (R310, R404, R405). -/
def State.loomBadKey (s : State) (cl : Nat) (j : LoomJob) (n : Nat) : Option Nat :=
  let (_, len, b, scaled, _) := loomShape j.fmt
  let rows := fun (range : Word) (r0 : Nat) => (List.range n).findSome? (fun r =>
    match badChipIn s (j.rowKey cl range (r0 + r) j.chunk) (len * b / 8) with
    | some k => some k
    | none => if scaled then badChipIn s (LoomJob.scaleKey cl range (r0 + r) j.chunk) 1 else none)
  match rows j.ra (j.lg0.extractLsb' 16 8).toNat with
  | some k => some k
  | none => rows j.rb (j.lg0.extractLsb' 24 8).toNat

/-- A value times a power of two. -/
def Num.scale (a : Num) (q : Int) : Num :=
  match a with
  | .fin n m e => .fin n m (e + q)
  | x => x

/-- The values of a chunk in a row, each times its scale; an element of a NaV block has no value (R98). -/
def State.loomValues (s : State) (cl : Nat) (j : LoomJob) (range : Word) (row k : Nat) : List Num :=
  let (_, _, _, scaled, _) := loomShape j.fmt
  let codes := s.loomCodes cl j range row k
  let vals := match fpFmt j.fmt with
    | some f => codes.map f.decode
    | none => codes.map (fun v => intNum (intDecode j.fmt v))
  if scaled then
    let sc := (readByte s.mem (LoomJob.scaleKey cl range row k)).toNat
    if sc = 255 then vals.map (fun _ => .nan false false) else vals.map (fun v => v.scale ((sc : Int) - 127))
  else vals

/-- The exact sum of values, with the invalid flag of infinities of both signs. -/
def sumAll (l : List Num) : Num × BitVec 7 :=
  l.foldl (fun a x => let (v, f) := sumNum false a.1 x; (v, a.2 ||| f)) (.fin false 0 0, 0)

/-- The exact chunk sum of two rows (R110, R112).  The sum begins at +0, so that a chunk of products that are all -0 gives
+0, a sign that the spec leaves open (DESIGN CHOICE, log 103).  Of a chunk that holds both an element with no value and
infinities of both signs the spec does not say whether NV is set: the model sets it where the infinities meet before that
element in K order (DESIGN CHOICE, log 104). -/
def chunkSum (a b : List Num) : Num × BitVec 7 :=
  (a.zip b).foldl (fun t p =>
    let (x, f) := prodNum p.1 p.2
    let (v, g) := sumNum false t.1 x
    (v, t.2 ||| f ||| g)) (.fin false 0 0, 0)

/-- One add of a Loom: FP32 by RNE, or INT32 with saturation (R110, R111). -/
def loomAdd (int : Bool) (acc : BitVec 32) (x : Num × BitVec 7) : BitVec 32 × BitVec 7 :=
  if int then
    let v : Int := match x.1 with
      | .fin n m e => (if n then -1 else 1) * ((scaleTo m e 0 : Nat) : Int)
      | _ => 0
    let (i, f) := saturate (-2 ^ 31) (2 ^ 31 - 1) (acc.toInt + v)
    (BitVec.ofInt 32 i, f)
  else
    let (v, f) := fpAdd f32 { mode := 0, draw := 0 } (f32.decode acc.toNat) x.1
    (BitVec.ofNat 32 v, f ||| x.2)

/-- An accumulator code as a value of an add. -/
def loomVal (int : Bool) (v : BitVec 32) : Num × BitVec 7 :=
  if int then (intNum v.toInt, 0) else (f32.decode v.toNat, 0)

/-- The combine of `lmma.r`: neighbours in pairs until one is left (R111). -/
def combine (int : Bool) : Nat → List (BitVec 32) → BitVec 7 → List (BitVec 32) × BitVec 7
  | 0, l, f => (l, f)
  | n + 1, l, f =>
    if l.length ≤ 1 then (l, f)
    else
      let r := (List.range (l.length / 2)).map (fun q => loomAdd int (nth 0 l (2 * q)) (loomVal int (nth 0 l (2 * q + 1))))
      combine int n (r.map (·.1)) (r.foldl (fun a x => a ||| x.2) f)

/-- The value is not finite once it stands in FP32 (R424, R425). -/
def Num.notFinite (a : Num) : Bool :=
  match f32.decode ((FpFmt.bin f32).convert { mode := 0, draw := 0 } a).1 with
  | .fin _ _ _ => false
  | _ => true

/-- The magnitude of a value. -/
def Num.abs : Num → Num
  | .fin _ m e => .fin false m e
  | .inf _ => .inf false
  | x => x

/-- A value as FP32 holds it, by RNE (R424). -/
def Num.r32 (a : Num) : Num := f32.decode ((FpFmt.bin f32).convert { mode := 0, draw := 0 } a).1

/-- A sum taken in FP32, one value after another from +0 (R424; log 65). -/
def sum32 (l : List Num) : Num := l.foldl (fun t x => (sumNum false t x).1.r32) (.fin false 0 0)

/-- The sum of products of two rows taken in FP32 (R424; log 65). -/
def dot32 (a b : List Num) : Num := sum32 ((a.zip b).map (fun p => (prodNum p.1 p.2).1.r32))

/-- The sums of the columns of rows of values, in FP32. -/
def cols32 (m : List (List Num)) : List Num :=
  (List.range ((m.map List.length).foldl max 0)).map (fun k => sum32 (m.filterMap (·[k]?)))

/-- What the Loom computes in FP32 of a tile and chunk, of whose operands `a` holds the rows of A and `b` the columns of B
(R424). -/
structure Checksums where
  /-- The row and column checksums. -/
  u : List Num
  v : List Num
  /-- The row and column sums of the chunk sums. -/
  rows : List Num
  cols : List Num
  /-- The chunk sums. -/
  sums : List Num
  /-- The bound. -/
  tau : Num
  deriving DecidableEq, Repr

/-- The checksums and the bound of a tile and chunk (R424).  The order in which the FP32 sums are taken is left open; here it is
that of the indices (DESIGN CHOICE, log 65). -/
def checksums (a b : List (List Num)) : Checksums :=
  let sums := a.map (fun r => b.map (fun q => (chunkSum r q).1))
  { u := a.map (fun r => dot32 r (cols32 b))
    v := b.map (fun q => dot32 (cols32 a) q)
    rows := sums.map (fun l => sum32 (l.map Num.r32))
    cols := cols32 (sums.map (·.map Num.r32))
    sums := sums.flatten
    tau := (sum32 (a.flatMap (fun r => b.map (fun q => dot32 (r.map Num.abs) (q.map Num.abs))))).scale (-16) }

/-- Two checksums differ by more than the bound (R424). -/
def apart (tau x y : Num) : Bool := decide (numCmp tau (sumNum false x y.neg).1.abs < 0)

/-- A row or column of a tile has a difference above the bound (R424). -/
def Checksums.event (k : Checksums) : Bool :=
  (k.u.zip k.rows).any (fun p => apart k.tau p.1 p.2) || (k.v.zip k.cols).any (fun p => apart k.tau p.1 p.2)

/-- A tile and chunk is unverifiable (R425): an operand, chunk sum, checksum or bound is an infinity or no value, or an
INT8 sum saturates. -/
def unverifiable (a b : List (List Num)) (k : Checksums) (sat : Bool) : Bool :=
  sat || a.any (·.any Num.notFinite) || b.any (·.any Num.notFinite) || k.sums.any Num.notFinite ||
    k.u.any Num.notFinite || k.v.any Num.notFinite || k.tau.notFinite

/-- The micro-thread and element that hold element (I, J) of a bank (R276, R281). -/
def loomCell (side i k : Nat) : Nat × Nat := (i / 16 * side + k / 16, 16 * (i % 16) + k % 16)

/-- An accumulator element. -/
def State.accAt (s : State) (c side bank i k : Nat) : BitVec 32 :=
  let m := s.mt c (loomCell side i k).1
  look 0 (if bank = 1 then m.acc1 else m.acc0) (loomCell side i k).2

/-- An accumulator element written. -/
def State.setAcc (s : State) (c side bank i k : Nat) (v : BitVec 32) : State :=
  let (t, e) := loomCell side i k
  let m := s.mt c t
  s.setMt c t (if bank = 1 then { m with acc1 := put m.acc1 e v } else { m with acc0 := put m.acc0 e v })

/-- A chunk's sums of every element, in row-major order. -/
def State.chunkSums (s : State) (c : Nat) (j : LoomJob) (n : Nat) : List (Num × BitVec 7) :=
  let cl := clusterOfCtx c
  let a := (List.range n).map (fun r => s.loomValues cl j j.ra ((j.lg0.extractLsb' 16 8).toNat + r) j.chunk)
  let b := (List.range n).map (fun r => s.loomValues cl j j.rb ((j.lg0.extractLsb' 24 8).toNat + r) j.chunk)
  a.flatMap (fun r => b.map (chunkSum r))

/-- The sum of one element of a chunk added, for `lmma.o`, or to its partial sum for `lmma.r`, with the combine after the last
chunk (R110, R111). -/
def State.addSum (c side : Nat) (e : Nat × Num × BitVec 7) (t : State × LoomJob × BitVec 7) : State × LoomJob × BitVec 7 :=
  let (s, j, f) := t
  let int := j.fmt == 10
  let g := side / 4
  let i := e.1 / (16 * side)
  let k := e.1 % (16 * side)
  if j.kind = 5 then
    let (v, h) := loomAdd int (s.accAt c side j.bank i k) e.2
    (s.setAcc c side j.bank i k v, j, f ||| h)
  else
    let p := j.chunk % g
    let (v, h) := loomAdd int (look 0 j.parts (16 * e.1 + p)) e.2
    let j := { j with parts := put j.parts (16 * e.1 + p) v }
    if j.chunk + 1 = j.chunks then
      let (l, h2) := combine int 3 ((List.range g).map (fun q => look 0 j.parts (16 * e.1 + q))) 0
      let (v, h3) := loomAdd int (s.accAt c side j.bank i k) (loomVal int (nth 0 l 0))
      (s.setAcc c side j.bank i k v, j, f ||| h ||| h2 ||| h3)
    else (s, j, f ||| h)

/-- A chunk added for `lmma.o`, or to its partial sum for `lmma.r`, with the combine after the last chunk (R110, R111);
the flags are the Loom's. -/
def State.addChunk (s : State) (c : Nat) (j : LoomJob) (side : Nat) (sums : List (Num × BitVec 7)) :
    State × LoomJob × BitVec 7 :=
  ((List.range (16 * side * (16 * side))).zip sums).foldl (fun t e => State.addSum c side e t) (s, j, 0)

/-- An element of a tile whose INT8 sum saturates as a chunk is added (R110, R111, R425). -/
def State.tileSaturates (s : State) (c : Nat) (j : LoomJob) (side m : Nat) (sums : List (Num × BitVec 7)) : Bool :=
  j.fmt == 10 && (List.range 256).any (fun e =>
    let n := (16 * (m / side) + e / 16) * (16 * side) + 16 * (m % side) + e % 16
    (State.addSum c side (n, nth (.fin false 0 0, 0) sums n) (s, j, 0)).2.2.getLsbD 6)

/-- The rows of values that a tile of a chunk reads from an operand. -/
def State.tileRows (s : State) (c : Nat) (j : LoomJob) (range : Word) (r0 q : Nat) : List (List Num) :=
  (List.range 16).map (fun r => s.loomValues (clusterOfCtx c) j range (r0 + 16 * q + r) j.chunk)

/-- The tiles of a chunk that cannot be verified, and whether a tile that can be finds a checksum event (R424, R425). -/
def State.checkTiles (s : State) (c : Nat) (j : LoomJob) (side : Nat) (sums : List (Num × BitVec 7)) : Nat × Bool :=
  (List.range (side * side)).foldl (fun (t : Nat × Bool) m =>
    let a := s.tileRows c j j.ra (j.lg0.extractLsb' 16 8).toNat (m / side)
    let b := s.tileRows c j j.rb (j.lg0.extractLsb' 24 8).toNat (m % side)
    let k := checksums a b
    if unverifiable a b k (s.tileSaturates c j side m sums) then (t.1 + 1, t.2) else (t.1, t.2 || k.event)) (0, false)

/-- The token share of a gang in a cluster, less the tokens that the power controller holds back (R330, R331). -/
def State.tokenShare (s : State) (r cl : Nat) : Nat :=
  let g := s.lrec r
  let cores := rectCores g.placed
  max 16 (g.heavy * (cores.filter (fun k => clusterOf k == cl)).length / max 1 cores.length) -
    (look (0, 0, 0) s.pressure (cl / 4)).2.2

/-- Free tokens of a gang's share. -/
def State.freeTokens (s : State) (r cl : Nat) : Nat := s.tokenShare r cl - look 0 (s.cluster cl).tokens r

/-- Tokens taken or returned. -/
def State.useTokens (s : State) (r cl more less : Nat) : State :=
  let k := s.cluster cl
  s.setCluster cl { k with tokens := put k.tokens r (look 0 k.tokens r + more - less) }

/-- The crew's Loom can work on a job: it holds its square, no revocation has stopped it, and a sum goes on where the square
has the side that the job was submitted on (R82, R276, R281). -/
def State.loomLive (s : State) (c : Nat) (j : LoomJob) : Bool :=
  let x := s.ctx c
  decide (x.gstate = .granted) && x.revoked.isNone && x.gsq != 0 && (j.kind == 4 || j.side == sideOf x.gsq)

/-- The operand slots of a Loom job that are gated begin to wake (R145). -/
def State.wakeSlots (s : State) (c : Nat) (j : LoomJob) : State :=
  (s.ctx c).claimed.foldl (fun s n =>
    if rangesMeet [(tileKey (clusterOfCtx c) n, 0x6000)] (j.reads (clusterOfCtx c)) then s.wakeUnit (slotUnit (clusterOfCtx c) n)
    else s) s

/-- Every operand slot of a Loom job is awake (R145). -/
def State.slotsAwake (s : State) (c : Nat) (j : LoomJob) : Bool :=
  (s.ctx c).claimed.all (fun n =>
    !rangesMeet [(tileKey (clusterOfCtx c) n, 0x6000)] (j.reads (clusterOfCtx c)) ||
      !s.unitAsleep (slotUnit (clusterOfCtx c) n))

/-- The first job of the Loom queue can run: no copy's follow-on comes before it, and its edges are satisfied (R160,
R163, R267). -/
def State.loomReady (s : State) (c : Nat) (j : LoomJob) : Bool :=
  let x := s.ctx c
  x.jobs.all (fun i => i.follow == 0 || !(i.num.toNat + 1 < j.num.toNat)) &&
    s.edgesFree c j.num (j.reads (clusterOfCtx c)) (j.writes c)

/-- The first Loom job replaced. -/
def State.setLoom (s : State) (c : Nat) (j : LoomJob) : State :=
  s.setCtx c { s.ctx c with loomq := j :: (s.ctx c).loomq.drop 1 }

/-- The first Loom job ends, with a cause where it stopped (R389). -/
def State.endLoom (s : State) (c : Nat) (j : LoomJob) (cause : BitVec 8) : State :=
  let x := s.ctx c
  s.setCtx c { x with loomq := x.loomq.drop 1, stops := if cause = 0 then x.stops else x.stops ++ [(j.num, cause)] }

/-- `lzero` performed (R280). -/
def State.zeroBanks (s : State) (c : Nat) (ra : Word) : State :=
  s.mapMts c (fun _ m =>
    { m with acc0 := if ra.getLsbD 0 then [] else m.acc0, acc1 := if ra.getLsbD 1 then [] else m.acc1 })

/-- The copy jobs that a cluster's four copy engines work on (R16). -/
def State.copying (s : State) (cl : Nat) : Nat :=
  ((ctxsOf cl).map (fun c => ((s.ctx c).jobs.filter (fun j => j.started && !j.glean && !j.moved)).length)).sum

/-- JOB_START (R16, R160, R162, R267): a job starts once its edges are satisfied, a copy once an engine is free; on a job
that has started, `arg.index` pieces move.  A job that an image has brought back goes by the entries of that moment
(R136, R383). -/
def execJobStart (s : State) : Res' :=
  let c := s.arg.unit
  let x := s.ctx c
  match x.jobs.find? (fun j => j.num == s.arg.value) with
  | some j =>
    if j.started then .next (s.runJob c j s.arg.index false)
    else if s.edgesFree c j.num j.reads j.writes && (j.glean || decide (s.copying (clusterOfCtx c) < 4)) then
      .next (s.setJob c { j with started := true, pages := some (j.pages.getD (s.spaceTable c)) })
    else .next s
  | none =>
    match x.loomq with
    | [] => .next s
    | j :: _ =>
      if j.num = s.arg.value ∧ !j.started ∧ s.loomLive c j ∧ s.loomReady c j then
        if !s.slotsAwake c j then .next (s.wakeSlots c j)
        else if j.kind = 4 then .next ((s.zeroBanks c j.ra).endLoom c j 0) else .next (s.setLoom c { j with started := true })
      else .next s

/-- LOOM_TOKEN_WAIT_END (R331): a Loom takes its tokens for the next chunk, or joins the queue of those that wait. -/
def execLoomTokenWaitEnd (s : State) : Res' :=
  let c := s.arg.unit
  let x := s.ctx c
  let cl := clusterOfCtx c
  let r := x.recIdx.toNat
  match x.loomq with
  | [] => .next s
  | j :: _ =>
    if j.started ∧ j.tokens = 0 ∧ s.loomLive c j then
      let k := s.cluster cl
      let free := s.freeTokens r cl
      let first := (k.tokenQ.filter (fun d => (s.ctx d).recIdx == x.recIdx)).head?
      if 16 ≤ free ∧ (first = none ∨ first = some c) then
        let side := j.side
        let n := min (side * side) free
        let s := s.setCluster cl { k with tokenQ := k.tokenQ.filter (· != c) }
        .next ((s.useTokens r cl n 0).setLoom c { j with tokens := n })
      else .next (s.setCluster cl { k with tokenQ := if k.tokenQ.contains c then k.tokenQ else k.tokenQ ++ [c] })
    else .next s

/-- LOOM_CHUNK (R82, R110-R112, R331, R404, R424, R425): the chunk in progress ends.  The comparison of R424 finds
an event where the sums of the model differ by more than the bound, and where, as `arg.flag` says, a silent error of the
cells makes them differ; the chunk is then not added. -/
def execLoomChunk (s : State) : Res' :=
  let c := s.arg.unit
  let x := s.ctx c
  let cl := clusterOfCtx c
  let r := x.recIdx.toNat
  match x.loomq with
  | [] => .next s
  | j :: _ =>
    if j.tokens = 0 then .next s
    else
      let side := j.side
      let s := s.useTokens r cl 0 j.tokens
      let idle := { j with tokens := 0 }
      match s.loomBadKey cl j (16 * side) with
      | some k =>
        let e := chipCause s k
        let s := if e = 0x20 then s.mismatch 3 (s.partOf (c / 4)) (c / 4) k else s
        if s.rollsBack c e then .next ((s.setLoom c idle).noteTrigger c e)
        else .next ((s.noteTrigger c e).endLoom c idle e)
      | none =>
        let sums := s.chunkSums c j (16 * side)
        let t := s.addChunk c idle side sums
        let found := s.checkTiles c j side sums
        let bad := found.1
        if found.2 ∨ (s.arg.flag ∧ bad < side * side) then
          let s := s.setCtx c { s.ctx c with loomRestart := some (j.num, j.chunk) }
          let s := scrivener s 0x11 (s.partOf (c / 4)) (c / 4 / 32 + c / 4 % 32 * 0x100 + cl * 0x10000) 0 [j.num.toNat]
          if s.rollsBack c 0x29 then .next ((s.setLoom c idle).noteTrigger c 0x29)
          else .next ((s.noteTrigger c 0x29).endLoom c idle 0x29)
        else
          let (u, j, fl) := t
          let u := u.setCluster cl { u.cluster cl with unverif := (u.cluster cl).unverif + BitVec.ofNat 64 bad }
          let y := u.ctx c
          let int := j.fmt == 10
          let y := { y with lg := put y.lg 15 (y.geo 4 15 ||| fl.setWidth 64),
                            acc0Int := if j.bank = 0 then int else y.acc0Int,
                            acc1Int := if j.bank = 1 then int else y.acc1Int }
          let u := u.setCtx c y
          let j := { j with chunk := j.chunk + 1 }
          if j.chunks ≤ j.chunk then .next (u.endLoom c j 0) else .next (u.setLoom c j)

end Sys2Proof.Machine
end

