-- ==== Sys2Proof/Machine/EvAccess.lean ====
section
/-!
DEFINITION. Steps that end accesses in flight: window stores and loads arrive at their targets (R49, R121, R156-R158),
data come back from other members (R28, R339, R432), leases lapse (R155), units wake (R145) and translations are
invalidated (R133).
-/

namespace Sys2Proof.Machine

/-- TLBINV_WRITE (R133): a Sys or Fw write of `value` on the core of context `unit`. -/
def execTlbinvWrite (s : State) : Res' :=
  let c := s.arg.unit
  if (s.ctx c).level = .app then .next s else .next (s.tlbInvalidate (c / 4) s.arg.value)

/-! ### Windows -/

/-- What a posted store keeps its order for: a target core's windows, or a crew's scratchpads (R158); operand memory has
no order. -/
def Win.target : Win → Option (Nat × Nat)
  | .local_ k _ => some (0, k)
  | .emu k _ => some (0, k)
  | .control c _ => some (0, c / 4)
  | .micro c _ _ => some (0, c / 4)
  | .scratch c _ _ => some (1, c)
  | _ => none

/-- An earlier posted store of the same context to the same target is still on its way (R158). -/
def State.keptBack (s : State) (n : Nat) (p : Posted) : Bool :=
  p.win.target.isSome && (s.posted.take n).any (fun q => q.from_ == p.from_ && q.win.target == p.win.target)

/-- A posted store has left its way. -/
def State.takePosted (s : State) (n : Nat) : State := { s with posted := s.posted.take n ++ s.posted.drop (n + 1) }

/-- WINDOW_STORE_ARRIVAL: the posted store at position `index` arrives: it is applied, waits under R49, or is dropped and
reported (R121). -/
def execWindowStoreArrival (s : State) : Res' :=
  let n := s.arg.index
  match s.posted[n]? with
  | none => .next s.drainBuf
  | some p =>
    match placeOf p.pa with
    | .window _ _ =>
      let w := p.win
      if s.keptBack n p then .next s
      else if s.winAsleep w then .next (s.winWake w)
      else
        let t := s.takePosted n
        match (if s.ownerWaits w && s.winState p.level w != .fault then WinSt.buffer else s.winState p.level w) with
        | .go => .next (t.applyWaiting p).drainBuf
        | .fault => .next (t.reportPost p { cause := 0x07, val := p.va })
        | .buffer => if s.bufUse w.bufCore < 32 then .next { t with wbuf := t.wbuf ++ [p] } else .next s
        | .poll =>
          if w.owner.isSome ∧ s.bufUse w.bufCore < 32 then .next { t with wbuf := t.wbuf ++ [p] } else .next s
    | _ => .next s

/-- The read of a context waits in a window-write buffer (R121). -/
def State.readWaits (s : State) (c : Nat) : Bool := s.wbuf.any (fun p => p.from_ == c && p.op == 16)

/-- The current context's window load at its target: its data, or a fault (R121, R157, R310).  A read of a register window
that is closed, or that has others waiting before it, takes its place behind them (R49, R121, R158). -/
def State.windowLoad (s : State) (pa : Nat) (va : Word) : Res' :=
  match s.me.winBack, placeOf pa with
  | some (_, some e), _ => .next ((s.setMe { s.me with winBack := none }).trapAt s.cur s.me.pc e)
  | some (v, none), _ => (s.setMe { s.me with winBack := none }).arrived v
  | none, .window cl off =>
    let w := winOf cl off
    let behind := s.posted.any (fun p => p.from_ == s.cur && w.target.isSome && p.win.target == w.target)
    let st := s.winState s.me.level w
    if st = .fault then .next (s.trapAt s.cur s.me.pc { cause := 0x07, val := va })
    else if behind then .next s
    else if w.owner.isSome && (st != .go || s.ownerWaits w) then
      if s.readWaits s.cur || decide (32 ≤ s.bufUse w.bufCore) then .next s
      else
        let p : Posted := { from_ := s.cur, level := s.me.level, va := va, pa := pa, data := 0, width := 8, op := 16 }
        .next { s with wbuf := s.wbuf ++ [p] }
    else if st != .go then .next s
    else if s.winAsleep w then .next (s.winWake w)
    else
      match s.winLoad (s.who s.cur) w pa va with
      | .value v t => t.arrived v
      | .exc e t => .next (t.trapAt t.cur t.me.pc e)
      | _ => .next s
  | none, _ => .next s

/-- WINDOW_LOAD_ARRIVAL: the window load of context `unit` comes to its target, or one that waited there has its data. -/
def execWindowLoadArrival (s : State) : Res' :=
  match (s.ctx s.arg.unit).run with
  | .parked (.window pa va) => { s with cur := s.arg.unit }.windowLoad pa va
  | _ => .next s

/-! ### Data from other members -/

/-- The bytes that the load of a parked context takes. -/
def Ctx.awaits (x : Ctx) : Nat := if x.watching.isSome || x.card.isSome || x.call.isSome then 8 else x.loadW

/-- The reply from a physical address. -/
def RemoteReq.from_ (q : RemoteReq) (pa : Nat) : Bool := (q.word 1).toNat == pa

/-- The data, or the cause, for a parked context, which verifies the whole doubleword (R310, R315, R404). -/
def State.dataForCtx (s : State) (c : Nat) : Res' :=
  let x := s.ctx c
  match x.run with
  | .parked (.remote pa) =>
    match s.takeReply (tagOf 0 c 0) (·.from_ pa) with
    | none => .next s
    | some (q, s) =>
      if q.cause ≠ 0 then .next (s.trapAt c x.pc (backExc q.cause pa))
      else
        match s.takeDatum 1 (s.partOf (c / 4)) (c / 4) pa x.awaits (q.datum 0) with
        | .ok (v, t) => { t with cur := c }.arrived v
        | .error (e, t) => .next (t.trapAt c x.pc e)
  | _ => .next s

/-- The data, or the cause, for a block that waits: a load in its middle, or an atomic at its end (R246, R339). -/
def State.dataForMt (s : State) (c i : Nat) : State :=
  let m := s.mt c i
  match m.blk with
  | none => s
  | some b =>
    match b.wait with
    | none => s
    | some (rd, n, signed, pa) =>
      match s.takeReply (tagOf 1 c i) (·.from_ pa) with
      | none => s
      | some (q, s) =>
      if q.cause ≠ 0 then s.mtFault c i m (backExc q.cause pa)
      else
        match s.takeDatum 2 (s.partOf (c / 4)) (c / 4) pa n (q.datum 0) with
        | .error (e, t) => t.mtFault c i m e
        | .ok (d, s) =>
          if b.pos < b.words.length then
            let v := BitVec.ofNat 64 (leNat (overlayOwn b.stores pa (toLe d.toNat n)))
            let d := b.dst rd (extend n signed v)
            s.setMt c i { m with blk := some { d with wait := none, pos := b.pos + 1, heldSince := none, stalled := false } }
          else
            let k := b.stores.findIdx (fun e => some e == b.remoteAtomic)
            let l := (List.range b.stores.length).map (fun j =>
              match b.stores[j]? with
              | some e => if j = k then [{ e with kind := 5, data := d }] else [e]
              | none => [])
            s.setMt c i { m with blk := some { b with wait := none, stores := l.flatten } }

/-- A source of a `stream` element whose remote data have come: one of this module, at address 0, is read now, of one of
another the reply is taken; with no exception it has still to wait (R266, R310, R315, R339). -/
def State.srcGiven (s : State) (c k pa : Nat) (b : Bool) : Except (Option Exc × State) (Word × State) :=
  let f := (s.ctx c).cap.g 6
  if pa = 0 then
    match s.streamSrc c k b with
    | .value v t => .ok (v, t)
    | .exc e t => .error (some e, t)
    | .stall t => .error (none, t)
    | _ => .error (none, s)
  else
    match s.takeReply (tagOf 2 c k) (·.from_ pa) with
    | none => .error (none, s)
    | some (q, s) =>
      if q.cause ≠ 0 then .error (some (backExc q.cause pa), s)
      else
        match s.takeDatum 2 (s.partOf (c / 4)) (c / 4) pa (fmtBits (if b then bits f 8 5 else bits f 0 5) / 8) (q.datum 0) with
        | .ok r => .ok r
        | .error (e, t) => .error (some e, t)

/-- The sources of a `stream` element whose remote data have come. -/
def State.streamGiven (s : State) (c k pa pb : Nat) (two : Bool) : Except (Option Exc × State) (Word × Word × State) :=
  match s.srcGiven c k pa false with
  | .error e => .error e
  | .ok (a, t) =>
    if two then
      match t.srcGiven c k pb true with
      | .error e => .error e
      | .ok (b, u) => .ok (a, b, u)
    else .ok (a, 0, t)

/-- The width of a vector load's elements, and whether they are sign-extended (R260). -/
def elemForm (i : Instr) : Nat × Bool :=
  match i with
  | .vld _ _ u w | .vlds _ _ _ u w | .vldx _ _ _ u w => (2 ^ w.toNat, u == 0)
  | _ => (8, false)

/-- The data, or the cause, for an element of a vector access (R261, R339): a load's element has then been performed, and
a `stream`'s, once both of its sources are there, goes on to its write. -/
def State.dataForElem (s : State) (c k : Nat) : State :=
  match (s.ctx c).run with
  | .parked (.elems i ra rb left sent stop) =>
    let at_ := look (0, 0) (s.ctx c).cap.got k
    let (pa, pb) := (at_.1.toNat, at_.2.toNat)
    let still := sent.filter (· != k)
    if !sent.contains k then s
    else
      match i with
      | .stream _ _ =>
        match s.streamGiven c k pa pb (streamTwo (bits ra 0 4)) with
        | .ok (a, b, t) => (t.keepElem c k a b).setElems c (.elems i ra rb (left ++ [k]) still stop)
        | .error (some e, t) => t.failElem c i ra rb left sent k e
        | .error (none, t) => { t with inbox := s.inbox }
      | _ =>
        match s.takeReply (tagOf 2 c k) (·.from_ pa) with
        | none => s
        | some (q, s) =>
          if q.cause ≠ 0 then s.failElem c i ra rb left sent k (backExc q.cause pa)
          else
            match s.takeDatum 2 (s.partOf (c / 4)) (c / 4) pa (elemForm i).1 (q.datum 0) with
            | .ok (v, t) =>
              (t.keepElem c k (extend (elemForm i).1 (elemForm i).2 v) 0).setElems c (.elems i ra rb left still stop)
            | .error (e, t) => t.failElem c i ra rb left sent k e
  | _ => s

/-- The doubleword, or the cause, for the `vldb` that firmware serves on a context's core (R198, R339, R393). -/
def State.dataForFw (s : State) (c : Nat) : State :=
  match (s.ctx c).fwWait with
  | none => s
  | some pa =>
    let back := fun (t : State) => t.setCtx c { t.ctx c with fwWait := none }
    match s.takeReply (tagOf 4 c 0) (·.from_ pa) with
    | none => s
    | some (q, s) =>
      if q.cause ≠ 0 then back (s.vldbResult c (.error (backExc q.cause pa)))
      else
        match s.takeDatum 2 (s.partOf (c / 4)) (c / 4) pa 8 (q.datum 0) with
        | .ok (v, t) => back (t.vldbResult c (.ok v))
        | .error (e, t) => back (t.vldbResult c (.error e))

/-- A posted store or atomic of another member's memory has been performed, or is reported as failed (R339, R432). -/
def State.postDone (s : State) (n : Nat) : State :=
  match s.posted[n]? with
  | none => s
  | some p =>
    match placeOf p.pa with
    | .domain _ _ =>
      match s.takeReply (tagOf 3 p.from_ 0) (·.from_ p.pa) with
      | none => s
      | some (q, s) =>
        let t := s.takePosted n
        if q.cause ≠ 0 then t.reportPost p (backExc q.cause p.pa) else t
    | _ => s

/-- LOAD_DATA_RETURN (R28, R339, R431, R432): the data or completion of an access to another member, whose reply has come in an
accepted packet or whose port is DOWN, comes back; the first number of `list` says to whom: 0 the context, 1 micro-thread
`index`, 2 element `index`, 3 the posted store at position `index`, 4 the firmware that serves the context. -/
def execLoadDataReturn (s : State) : Res' :=
  let c := s.arg.unit
  match nth 0 s.arg.list 0 with
  | 0 => s.dataForCtx c
  | 1 => .next (s.dataForMt c s.arg.index)
  | 2 => .next (s.dataForElem c s.arg.index)
  | 3 => .next (s.postDone s.arg.index)
  | _ => .next (s.dataForFw c)

/-! ### Leases and power -/

/-- LEASE_LAPSE (R125, R155): the lease of core `unit` on sector `index` lapses once 4,096 cycles of its die are over; the
sector stays, to be revalidated. -/
def execLeaseLapse (s : State) : Res' :=
  let c := s.arg.unit
  .next { s with l1 := s.l1.map (fun e =>
    if e.core = c ∧ e.sector = s.arg.index ∧ e.expiry ≤ s.cycles (dieOf c) then e.lapsed else e) }

/-- UNIT_WAKE_UP (R145): a unit whose wake-up has begun is awake; its storage was cleared when it was gated, and nothing
has reached it since. -/
def execUnitWakeUp (s : State) : Res' :=
  match look none s.asleep s.arg.index with
  | some _ => .next { s with asleep := s.asleep.filter (fun e => e.1 != s.arg.index) }
  | none => .next s

end Sys2Proof.Machine
end

