-- ==== Sys2Proof/Machine/EvHub.lean ====
section
/-!
DEFINITION. Steps of the hub: doorbells, register writes and mailbox commands (R54, R144, R325, R326, R333, R335,
R340-R343, R377, R381-R385, R408, R426, R433, R440).

A command's event performs the first command of mailbox `arg.unit` when its opcode is the event's; its status is 1 done
or 2 refused.
-/

namespace Sys2Proof.Machine

/-! ### Writes of the hub range (R325, R326) -/

/-- A doorbell is accepted: in the recovery state only that of mailbox 16 (R332). -/
def State.bell (s : State) (m : Nat) : State :=
  if s.recovery ∧ m ≠ 16 then scrivener s 0x60 m 0 (0x400000010020 + m * 0x1000) [m] else s.ringBell m

/-- DOORBELL (R326) at mailbox `unit`. -/
def execDoorbell (s : State) : Res' := if s.arg.unit < 17 then .next (s.bell s.arg.unit) else .next s

/-- REGISTER_WRITE (R323, R325): function `unit` writes the doubleword at offset `index`; a virtual function reaches its
partition's mailbox only. -/
def execRegisterWrite (s : State) : Res' :=
  let f := s.arg.unit
  let off := s.arg.index
  let mine := f = 0 ∨ (0x10000 + (f - 1) * 0x1000 ≤ off ∧ off < 0x10000 + f * 0x1000 ∧ f ≤ 16)
  if off % 8 ≠ 0 ∨ ¬ mine then .next s
  else if 0x10000 ≤ off ∧ off < 0x21000 ∧ off % 0x1000 = 0x20 then .next (s.bell ((off - 0x10000) / 0x1000))
  else .next (s.hubPut off (.of s.arg.value))

/-- The host reads the doubleword at an offset of the hub range through BAR0 of a function (R323, R325): physical function
0 sees what Fw sees, a virtual function its partition's mailbox; a doubleword that fails its verification goes back as poison
(R310, R404).  Where the layout lists nothing, the spec gives a host
read no answer: poison with a free value (DESIGN CHOICE, log 114). -/
def State.barRead (s : State) (f off : Nat) : State :=
  let mine := f = 0 ∨ (0x10000 + (f - 1) * 0x1000 ≤ off ∧ off < 0x10000 + f * 0x1000 ∧ f ≤ 16)
  match (if off % 8 = 0 ∧ mine then s.hubRead (f - 1) (f = 0) off else none) with
  | some v =>
    let t := if look 0 s.hubSynd off = 0 then s else s.mismatch 7 (if f = 0 then 0xFF else f - 1) 0 (hubBase + off)
    { t with out := t.out ++ [.hostData f (s.hubFails off) [v]] }
  | none => { (free s).2 with out := s.out ++ [.hostData f true [(free s).1]] }

/-! ### Commands in general (R326) -/

/-- A field of a command: bytes `off` up. -/
def cmdField (q : List Word) (off n : Nat) : Nat := bits (nth 0 q (off / 8)) (8 * (off % 8)) (8 * n)

/-- The opcode of a command. -/
def cmdOp (q : List Word) : Nat := cmdField q 0 2

/-- The opcodes that a chapter defines. -/
def knownOps : List Nat :=
  [0x10, 0x11, 0x20, 0x31, 0x40, 0x41, 0x50, 0x60, 0x61, 0x62, 0x63, 0x64, 0x65, 0x70, 0x80]

/-- The state of a partition's interface (R335). -/
def State.tdispOf (s : State) (p : Nat) : Tdisp := look .unlocked s.tdisp p

/-- A command refused before it is looked at: in the recovery state (R332), of an interface in ERROR (R435), or naming
another partition than its mailbox's (log 40). -/
def State.cmdBarred (s : State) (m : Nat) (q : List Word) : Bool :=
  (s.recovery && !(m == 16 && cmdOp q == 0x20)) || (m < 16 && s.tdispOf m == .error && cmdOp q != 0x80) ||
    (m < 16 && cmdField q 2 1 != m)

/-- The partition that a command acts for. -/
def cmdPart (m : Nat) (q : List Word) : Nat := if m < 16 then m else cmdField q 2 1 % 16

/-- The first command of the step's mailbox performed: `f` gives the state after it, none where it is refused; `ready`
says that it need not wait. -/
def State.command (s : State) (op : Nat) (ready : Nat → List Word → Bool) (f : Nat → List Word → Option State) : Res' :=
  let m := s.arg.unit
  match (s.box m).queue with
  | [] => .next s
  | q :: _ =>
    if cmdOp q ≠ op then .next s
    else if s.cmdBarred m q then .next (s.answer m 2)
    else if !ready m q then .next s
    else
      match f m q with
      | some t => .next (t.answer m 1)
      | none => .next (s.answer m 2)

/-- A command that never waits. -/
def State.command1 (s : State) (op : Nat) (f : Nat → List Word → Option State) : Res' := s.command op (fun _ _ => true) f

/-- A command that never waits, and whose refusal leaves a state of its own. -/
def State.command1' (s : State) (op : Nat) (f : Nat → List Word → Except State State) : Res' :=
  let m := s.arg.unit
  match (s.box m).queue with
  | [] => .next s
  | q :: _ =>
    if cmdOp q ≠ op then .next s
    else if s.cmdBarred m q then .next (s.answer m 2)
    else
      match f m q with
      | .ok t => .next (t.answer m 1)
      | .error t => .next (t.answer m 2)

/-- UNDEFINED_MAILBOX_OPCODE (R326). -/
def execUndefinedMailboxOpcode (s : State) : Res' :=
  match (s.box s.arg.unit).queue with
  | [] => .next s
  | q :: _ => if knownOps.contains (cmdOp q) then .next s else .next (s.answer s.arg.unit 2)

/-- A record of another partition for a mailbox (R326). -/
def State.foreign (s : State) (m r : Nat) : Bool := m < 16 && (s.lrec r).state != 0 && (s.lrec r).part != m

/-- The interface of a partition is locked or runs: its configuration is frozen (R335, R336). -/
def State.frozen (s : State) (p : Nat) : Bool := s.tdispOf p == .locked || s.tdispOf p == .run

/-! ### Launch records (R54, R296, R326) -/

/-- A record from its image: it is IDLE, reserved bits are zero, and it has not written a completion word. -/
def recOfImage (w : List Word) : LRec :=
  { LRec.reset with
    ctl := (nth 0 w 0 &&& 0xFF0FFFFFC0) ||| 1, rect := nth 0 w 1, entry := nth 0 w 2, codebound := nth 0 w 3,
    fnbase := nth 0 w 4, ptroot := nth 0 w 5, arg := nth 0 w 6, lanes := nth 0 w 7, done := nth 0 w 8,
    power := nth 0 w 9 &&& 0x7FFFFFFFFFFF }

/-- The partition field of a record would change, of a partition that is frozen (R336); an UNBUILT record is of no
partition, whatever it holds. -/
def State.buildFrozen (s : State) (r : Nat) (g : LRec) : Bool :=
  let old := s.lrec r
  if old.state = 0 then s.frozen g.part else old.part != g.part && (s.frozen old.part || s.frozen g.part)

/-- BUILD (R54, R336, R374, R402): trapmode 3 is refused. -/
def execBuild (s : State) : Res' :=
  s.command1 0x10 (fun m q =>
    let r := cmdField q 4 1
    match s.physRead (cmdField q 8 8) 32 with
    | none => none
    | some w =>
      let g := recOfImage w
      if s.foreign m r || (m < 16 && g.part != m) || 2 ≤ (s.lrec r).state || g.fld 18 2 == 3 || s.buildFrozen r g then none
      else some (s.setRec r g))

/-- RELEASE: an ARMED record is withdrawn, with a completion word where it holds saved images; a RUNNING one refuses
(R54, R62, R383). -/
def execRelease (s : State) : Res' :=
  s.command1 0x11 (fun m q =>
    let r := cmdField q 4 1
    if s.foreign m r || (s.lrec r).state == 3 then none
    else
      let t := if (s.lrec r).state = 2 ∧ (s.lrec r).saved then s.withdraw r else s
      some (t.setRec r ((t.lrec r).setState 0)))

/-! ### Configuration and write logs (R143, R144, R333) -/

/-- A staged image with what the module has had replaced since: spares that have taken places, positions, cores and ways out
of service, and stacks retired or dead, whose slots no image moves (R318, R420, R436). -/
def State.withReplacements (s : State) (i : CfgImage) : CfgImage :=
  let cls := List.range 32
  let grow := fun (t : Table Nat) (f : Nat → Nat → Nat) =>
    cls.foldl (fun t cl => if f cl (look 0 t cl) = look 0 t cl then t else put t cl (f cl (look 0 t cl))) t
  { i with
    missingLanes := (i.missingLanes ++ cls.flatMap (fun cl => (s.cluster cl).missing.map (fun l => (cl, l)))).eraseDups
    sparesUsed := grow i.sparesUsed (fun cl n => max n (32 - (s.cluster cl).spares))
    missingCores := (i.missingCores ++ cls.flatMap (fun cl => (s.cluster cl).missingCores)).eraseDups
    spareCores := (i.spareCores ++ cls.filter (fun cl => (s.cluster cl).spareCore)).eraseDups
    l1Ways := grow i.l1Ways (fun cl n => n ||| (s.cluster cl).l1Spares)
    l2Ways := grow i.l2Ways (fun cl n => n ||| (s.cluster cl).l2Spares)
    waysOut := (i.waysOut ++ cls.flatMap (fun cl => (s.cluster cl).waysOut)).eraseDups
    linkSpares := (i.linkSpares ++ (List.range 24).filter (fun k => (look .reset s.ports k).spareUsed)).eraseDups
    retired := (i.retired ++ s.stored.retired).eraseDups
    deadInPlace := (i.deadInPlace ++ s.stored.deadInPlace).eraseDups }

/-- CFGSTAGE (R333, R420, R436). -/
def execCfgstage (s : State) : Res' :=
  s.command1 0x20 (fun _ q =>
    match s.physRead (cmdField q 8 8) (cmdField q 16 4 / 8) with
    | none => none
    | some w =>
      match Config.readImage w with
      | some i => some { s with stored := s.withReplacements i }
      | none => none)

/-- A word of a partition's write log (R143). -/
def State.logWord (s : State) (part tier w : Nat) : Word :=
  mask64 s.wlog (part * 0x4000000 + tier * 0x2000000 + 64 * w)

/-- WLOGRC (R144): before its words are cleared, every L1 copy that is writable in their regions is made read-only. -/
def execWlogrc (s : State) : Res' :=
  s.command1 0x31 (fun m q =>
    let part := cmdPart m q
    let tier := cmdField q 3 1
    let first := cmdField q 4 4
    let n := cmdField q 8 4
    let buf := cmdField q 16 8
    if 1 < tier ∨ n = 0 ∨ 512 < n ∨ (if tier = 0 then 196608 else 344064) < first + n ∨ cmdField q 12 4 ≠ 0 ∨ buf % 8 ≠ 0 ∨
        (m = 16 ∧ 15 < cmdField q 2 1) then none
    else
      let words := (List.range n).map (fun k => s.logWord part tier (first + k))
      let lo := part * 0x4000000 + tier * 0x2000000 + 64 * first
      let inside := fun (r : Nat) => decide (lo ≤ r) && decide (r < lo + 64 * n)
      let read := fun (e : L1Ent) =>
        if inside (logBit part (e.sector * 256 % 0x10000000000000)) then { e with writable := false } else e
      some ({ s with wlog := s.wlog.filter (fun r => !inside r), l1 := s.l1.map read }.physWrite buf words))

/-! ### The fabric (R340-R343) -/

/-- A slot of another partition for a mailbox (R341). -/
def State.foreignSlot (s : State) (m slot : Nat) : Bool := m < 16 && !s.ownsSlot m slot

/-- A group of another partition for a mailbox (R341). -/
def State.foreignGroup (s : State) (m g : Nat) : Bool :=
  m < 16 && !(match s.partDef m with
    | some d => d.groups.contains g
    | none => false)

/-- The slot is assigned to a partition that is frozen (R336), as the module's own is to every one (R341). -/
def State.frozenSlot (s : State) (slot : Nat) : Bool :=
  s.img.parts.any (fun d => (slot == s.memberId.toNat || d.slots.contains slot) && s.frozen d.part)

/-- The group is assigned to a partition that is frozen. -/
def State.frozenGroup (s : State) (g : Nat) : Bool := s.img.parts.any (fun d => d.groups.contains g && s.frozen d.part)

/-- MEMBER (R340). -/
def execMember (s : State) : Res' :=
  s.command1 0x40 (fun m q =>
    let slot := cmdField q 4 2
    let e := cmdField q 8 4
    if 1024 ≤ slot ∨ e / 0x2000000 % 64 ≠ 0 ∨ s.foreignSlot m slot ∨ s.frozenSlot slot then none
    else some { s with members := put s.members slot (BitVec.ofNat 32 e) })

/-- A group (R342). -/
def State.group (s : State) (g : Nat) : Group := look .reset s.groups g

/-- The slot numbers of a group table. -/
def tableSlots (w : List Word) (n : Nat) : List Nat :=
  (List.range n).map (fun k => bits (nth 0 w (k / 4)) (16 * (k % 4)) 16)

/-- GROUP (R342, R433): the round number goes on. -/
def execGroup (s : State) : Res' :=
  s.command1 0x41 (fun m q =>
    let g := cmdField q 4 1
    let pa := cmdField q 8 8
    if 64 ≤ g ∨ s.foreignGroup m g ∨ s.frozenGroup g ∨ (s.group g).running.isSome then none
    else
      match s.physRead pa 1 with
      | none => none
      | some c =>
        let n := (nth 0 c 0).toNat
        if n < 2 ∨ 1024 < n then none
        else
          match s.physRead (pa + 8) ((n + 3) / 4) with
          | none => none
          | some w =>
            let l := tableSlots w n
            if l.any (fun k => 1024 ≤ k || s.foreignSlot m k) ∨ !l.contains s.memberId.toNat then none
            else some { s with groups := put s.groups g { s.group g with members := l } })

/-- Fields of a collective descriptor (R342). -/
def collKind (d : List Word) : Nat := bits (nth 0 d 0) 0 16
/-- Its format. -/
def collFmt (d : List Word) : Nat := bits (nth 0 d 0) 16 8
/-- Its operation. -/
def collOp (d : List Word) : Nat := bits (nth 0 d 0) 24 8
/-- Its group. -/
def collGroup (d : List Word) : Nat := bits (nth 0 d 0) 32 8
/-- Its root. -/
def collRoot (d : List Word) : Nat := bits (nth 0 d 0) 48 16
/-- Its length in bytes. -/
def collLen (d : List Word) : Nat := bits (nth 0 d 1) 0 32
/-- Its timeout in µs; 0 means 1,000. -/
def collTimeout (d : List Word) : Nat := if bits (nth 0 d 1) 32 32 = 0 then 1000 else bits (nth 0 d 1) 32 32

/-- A descriptor is accepted for a group of `n` members (R342); a barrier moves nothing, and its length is not looked at
(log 41). -/
def collOk (d : List Word) (n : Nat) : Bool :=
  let f := collFmt d
  let k := collKind d
  1 ≤ k && k ≤ 3 && (f == 1 || f == 2 || f == 4 || f == 12 || f == 16) && collOp d ≤ 2 && collGroup d < 64 &&
    decide (n ≠ 0) &&
    (k == 3 || (8 ≤ collLen d && collLen d ≤ 1048576 && collLen d % (fmtBits f / 8) == 0)) &&
    (k != 2 || collRoot d < n) &&
    (nth 0 d 2).toNat % 8 == 0 && (nth 0 d 3).toNat % 8 == 0 && (nth 0 d 4).toNat % 8 == 0

/-- The descriptor of a COLL command. -/
def State.collDesc (s : State) (q : List Word) : Option (List Word) := s.physRead (cmdField q 8 8) 8

/-- COLL (R343, R433): it waits in the queue while the group's round runs; its round begins with its status. -/
def execColl (s : State) : Res' :=
  s.command 0x50 (fun _ q => match s.collDesc q with
      | some d => !(collGroup d < 64 && (s.group (collGroup d)).running.isSome)
      | none => true)
    (fun m q => match s.collDesc q with
      | none => none
      | some d =>
        let g := s.group (collGroup d)
        if !collOk d g.members.length || s.foreignGroup m (collGroup d) then none
        else
          let n : Group := { g with round := g.round + 1, running := some { desc := d, since := s.now, own := none },
                                    part := cmdPart m q }
          some { s with groups := put s.groups (collGroup d) n })

/-! ### Save and restore (R381-R385, R426, R377) -/

/-- SAVEREG (R384). -/
def execSavereg (s : State) : Res' :=
  s.command1 0x60 (fun m q =>
    let p := cmdPart m q
    let base := cmdField q 8 8
    let stride := cmdField q 16 4
    if base % 0x10000 ≠ 0 ∨ stride = 0 ∨ s.recs.any (fun e => e.2.state == 2 && e.2.saved && e.2.part == p) then none
    else
      let g : Region := { base := base, stride := stride * 0x8000, len := cmdField q 20 4 * 0x10000 }
      some { s with saveRegs := put s.saveRegs p g })

/-- PREEMPT (R381, R382, R384): the gang begins to stop; the command stays first in its mailbox until PREEMPTION_STOP
writes its status. -/
def execPreempt (s : State) : Res' :=
  let m := s.arg.unit
  match (s.box m).queue with
  | [] => .next s
  | q :: _ =>
    let r := cmdField q 4 1
    let g := s.lrec r
    if cmdOp q ≠ 0x61 then .next s
    else if s.cmdBarred m q || s.foreign m r || g.state != 3 then .next (s.answer m 2)
    else if g.stopping.isSome then .next s
    else if !s.imagesFit r then .next (s.answer m 2)
    else .next (s.setRec r { g with stopping := some (cmdField q 5 1 % 2 == 1, m) })

/-- RESUME (R384). -/
def execResume (s : State) : Res' :=
  s.command1 0x62 (fun m q =>
    let r := cmdField q 4 1
    let g := s.lrec r
    if s.foreign m r || !(g.state == 2 && g.held) then none else some (s.setRec r { g with held := false }).pass)

/-- Words of an image's reserved bytes (R378). -/
def reservedWords : List Nat :=
  (List.range 28).map (4 + ·) ++ [0x20, 0x5D, 0x5E, 0x5F] ++ (List.range 14).map (0x72 + ·) ++
    (List.range 8).map (0xB8 + ·) ++ (List.range 280).map (0xE8 + ·)

/-- A sequencer entry of an image, from its first word, has its reserved bits zero (R378). -/
def seqZero (f : Nat → Word) : Bool := bits (f 10) 29 35 == 0 && bits (f 11) 3 61 == 0

/-- A job record of an image, from its first word, has its reserved bytes and bits zero (R378). -/
def jobZero (f : Nat → Word) : Bool :=
  f 22 &&& ~~~0x7F01 == 0 && (!(f 22).getLsbD 0 || (List.range 3).all (fun k => f (17 + k) == 0))

/-- What R385 asks of an image's words. -/
def imageOk (w : List Word) : Bool :=
  let h := nth 0 w 0
  let ns := bits h 16 5
  bits h 0 16 == 1 && bits h 51 13 == 0 && ns ≤ 17 && bits h 21 7 ≤ 64 && bits h 28 10 ≤ 512 && bits h 39 4 ≤ 8 &&
    reservedWords.all (fun n => nth 0 w n == 0) && bits (nth 0 w 2) 24 4 ≤ 6 && nth 0 w 2 &&& ~~~0xFFF0101 == 0 &&
    ((List.range 8).map (fun k => oneBits (nth 0 w (0xB0 + k)) 64)).sum == bits h 28 10 &&
    (List.range 40).all (fun k => k < 5 * bits h 39 4 || nth 0 w (0xC0 + k) == 0) &&
    (List.range (bits h 39 4)).all (fun k => bits (nth 0 w (0xC1 + 5 * k)) 3 61 == 0) &&
    (List.range ns).all (fun k => seqZero (fun n => nth 0 w (512 + 12 * k + n))) &&
    (List.range (bits h 21 7)).all (fun k => jobZero (fun n => nth 0 w (512 + 12 * ns + 24 * k + n)))

/-- A slot holds the image of a rank: its header is not zero, or cannot be read (log 72). -/
def State.slotUsed (s : State) (g : Region) (r k : Nat) : Bool :=
  g.fits r k 4096 && (match s.physRead (g.at r k) 1 with
    | some w => nth 0 w 0 != 0
    | none => true)

/-- An image in a slot is accepted (R385). -/
def State.slotOk (s : State) (g : Region) (r k : Nat) : Bool :=
  let pa := g.at r k
  match s.getImage pa with
  | none => false
  | some w => imageOk w && g.fits r k (hdrSize (nth 0 w 0)) && s.rangeGood pa (hdrSize (nth 0 w 0))

/-- IMPORT accepts a record's slots: some rank has an image, every image is accepted, and the record's extent covers the
ranks that have one (R385). -/
def State.imagesOk (s : State) (r : Nat) : Bool :=
  let g := s.lrec r
  let used := (List.range 512).filter (s.slotUsed (s.saveReg g.part) r)
  !used.isEmpty && used.all (fun k => k < (rectCores g.rect).length && s.slotOk (s.saveReg g.part) r k)

/-- The check mismatches that an IMPORT meets in a record's slots, each with its record (R404). -/
def State.noteImages (s : State) (r : Nat) : State :=
  let g := s.lrec r
  let reg := s.saveReg g.part
  ((List.range (rectCores g.rect).length).filter (s.slotUsed reg r)).foldl (fun s k =>
    s.noteBad g.part 0 (reg.at r k) (s.imageLen (reg.at r k))) s

/-- IMPORT (R384, R385), which a record with the rollback attribute needs a snapshot region for, since it is armed by it (R426):
the ranks with no image have ended before the save, and what their status words said is not to be
had from the images (log 72).  The record's own rectangle counts as the one that it was saved on. -/
def execImportImg (s : State) : Res' :=
  s.command1' 0x63 (fun m q =>
    let r := cmdField q 4 1
    let g := s.lrec r
    if s.foreign m r || g.state != 1 || !rectOk g.rect ||
        (g.fld 12 1 == 1 && (s.snapReg g.part).len == 0) then .error s
    else if !s.imagesOk r then .error (s.noteImages r)
    else
      let gone := (List.range (rectCores g.rect).length).filter (fun k => !s.slotUsed (s.saveReg g.part) r k)
      let t := s.setRec r { (g.setState 2).setFld 40 2 (g.fld 6 2) with
        armed := s.armCount, waited := 0, held := true, marked := false, saved := true, msgs := [], aborted := [],
        placed := g.rect, own := gone.map (fun k => (k, gangWord 0 false false false false false 1 0)) }
      .ok { t with armCount := t.armCount + 1 })

/-- PRQ (R377, R384). -/
def execPrq (s : State) : Res' :=
  s.command1 0x64 (fun m q =>
    let base := cmdField q 8 8
    let n := cmdField q 16 1
    if base % 32 ≠ 0 ∨ n < 4 ∨ 16 < n then none
    else some { s with prqs := put s.prqs (cmdPart m q) { base := base, q := n, next := 0, seqn := 0 } })

/-- SNAPREG (R426). -/
def execSnapreg (s : State) : Res' :=
  s.command1 0x65 (fun m q =>
    let base := cmdField q 8 8
    let stride := cmdField q 16 4
    if base % 0x10000 ≠ 0 ∨ stride = 0 then none
    else
      let g : Region := { base := base, stride := stride * 0x10000, len := cmdField q 20 4 * 0x10000 }
      some { s with snapRegs := put s.snapRegs (cmdPart m q) g })

/-! ### PCLEAR (R408) -/

/-- A range lies within ranges given as base and length: from `a` on, one range after another. -/
def coveredBy (l : List (Nat × Nat)) (stop : Nat) : Nat → Nat → Bool
  | 0, a => stop ≤ a
  | n + 1, a =>
    if stop ≤ a then true
    else
      match l.find? (fun r => r.1 ≤ a && a < r.1 + r.2) with
      | some r => coveredBy l stop n (r.1 + r.2)
      | none => false

/-- The range lies in a partition's memory grant (R323). -/
def State.granted (s : State) (p a stop : Nat) : Bool :=
  match s.partDef p with
  | some d => coveredBy d.grants stop (d.grants.length + 1) a
  | none => false

/-- A key of memory under any skew lies in a physical range of whole regions (R137). -/
def keyIn (k a stop : Nat) : Bool :=
  k < 0x200000000000000 && a ≤ k % 0x10000000000000 && k % 0x10000000000000 < stop

/-- A range cleared with its poison, quarantine and bulk marks (R408, R420); `all` says that the command came through mailbox
16, which alone can lift the quarantine of a whole channel. -/
def State.pclearRange (s : State) (a stop : Nat) (all : Bool) : State :=
  let regions := (List.range ((stop - a) / 0x10000)).map (a / 0x10000 + ·)
  { s with
    mem := s.mem.filter (fun c => !keyIn c.1 a stop)
    synd := s.synd.filter (fun e => !keyIn e.1 a stop)
    poison := s.poison.filter (fun q => !keyIn (q.2 * 256) a stop)
    bad := s.bad.filter (fun q => !keyIn (q.2 * 256) a stop)
    quar := s.quar.filter (fun q => !(a ≤ q.2 * 0x10000 && q.2 * 0x10000 < stop))
    quarChan := if all ∧ a ≤ 0x10000000000 ∧ 0x25000000000 ≤ stop then [] else s.quarChan
    bulk := s.bulk.map (fun b => if b.stuck then b else { b with cleared := regions.foldl setIns b.cleared })
    l1 := s.l1.filter (fun e => !keyIn (e.sector * 256) a stop)
    l2 := s.l2.filter (fun e => !keyIn (e.sector * 256) a stop)
    scrubs := s.scrubs.map (fun e => if keyIn (e.sector * 256) a stop then { e with marked := true } else e) }

/-- PCLEAR (R408). -/
def execPclear (s : State) : Res' :=
  s.command1 0x70 (fun m q =>
    let a := cmdField q 8 8
    let n := cmdField q 16 4
    let stop := a + n * 0x10000
    if a % 0x10000 ≠ 0 ∨ n = 0 ∨ ¬ (stop ≤ hbmTop ∨ (0x10000000000 ≤ a ∧ stop ≤ 0x25000000000)) ∨
        (m < 16 ∧ !s.granted m a stop) then none
    else some (s.pclearRange a stop (m == 16)))

/-! ### SUMMARY (R440) -/

/-- A stack's state in SUMMARY. -/
def StackState.code : StackState → Nat
  | .healthy => 0
  | .retiring => 1
  | .retired => 2
  | .dead => 3
  | .failing => 4

/-- A direction's state in SUMMARY. -/
def LinkState.code : LinkState → Nat
  | .down => 0
  | .up16 => 1
  | .retrain _ => 2
  | .up8 => 3

/-- A port's doubleword. -/
def State.linkWord (s : State) (n : Nat) : Word :=
  let a := s.dir n 0
  let b := s.dir n 1
  let oldest := match a.buf with
    | [] => a.seq
    | f :: _ => f.1
  BitVec.ofNat 64 (packBits [(b.seq, 32), (oldest, 16), (bit b.spareUsed, 9), (bit a.spareUsed, 8), (b.st.code, 4),
    (a.st.code, 0)])

/-! ### Lines that move (R414, R417) -/

/-- The moving slot that holds a moving line, by its number (R414). -/
def State.movingSlot (s : State) (n : Nat) : Option Nat :=
  (List.range 240).find? (fun t => entMv (slotEntry s t) && movingRank s t == n / frameLines)

/-- The lines that each channel of a retiring stack moves: fifteen slots (R318). -/
def movingLines : Nat := 15 * frameLines

/-- A sector key lies in line `q` of a slot (R137). -/
def keyInLine (slot q key : Nat) : Bool := key * 256 % 0x10000000000000 / 1024 == 240 * q + slot

/-- The poison of a line goes from its old home's controller to its new home's, with the region's quarantine (R417). -/
def State.carryPoison (s : State) (slot q : Nat) : State :=
  let e := slotEntry s slot
  let old := 32 * entOstack e + q % 32
  let new := 32 * entStack e + q % 32
  let moved := fun (p : Nat × Nat) => p.1 == old && keyInLine slot q p.2
  let region := (240 * q + slot) / 64
  let l := s.poison.filter moved ++ s.bad.filter moved
  let t := { s with poison := s.poison.filter (fun p => !moved p), bad := s.bad.filter (fun p => !moved p) }
  let t := if t.quar.contains (old, region) && !t.quar.contains (new, region) then
      { t with quar := t.quar ++ [(new, region)] } else t
  l.foldl (fun t p => if t.quar.contains (new, regionOf p.2) then t else enterPoison t new p.2 (new / 32) 0) t

/-- The line that a channel was copying is Done, at the end of its slot 48 (R414). -/
def State.lineDone (s : State) (r : Retire) (ch : Nat) : State :=
  let n := look 0 r.pos ch
  let t := match s.movingSlot n with
    | some slot => s.carryPoison slot (32 * (n % frameLines) + ch)
    | none => s
  { t with retire := some { r with pos := put r.pos ch (n + 1), copying := r.copying.filter (fun e => e.1 != ch) } }

/-- Every line whose copy has ended is Done, with its poison at its new home (R414, R417; log 89). -/
def State.settleLines (s : State) : State :=
  match s.retire with
  | none => s
  | some r =>
    (r.copying.filter (fun e => e.2 ≤ s.now)).foldl (fun t e =>
      match t.retire with
      | some q => t.lineDone q e.1
      | none => t) s

/-- The lines Done in the retirement in progress (R414, R440). -/
def State.doneLines (s : State) : Nat :=
  match s.retire with
  | some r => (r.pos.map (·.2)).sum
  | none => 0

/-- The cache ways of a cluster that are gated: for want of a spare (R436), or because nothing uses them (R145). -/
def State.gatedWays (s : State) (cl : Nat) : Nat :=
  (s.cluster cl).waysGated + (s.asleep.filter (fun e =>
    (decide (0x30000 ≤ e.1) && decide (e.1 < 0x40000) && clusterOf ((e.1 - 0x30000) / 16) == cl) ||
      (decide (0x40000 ≤ e.1) && (e.1 - 0x40000) / 16 / 8 == cl))).length

/-- A cluster's sixteen doublewords. -/
def State.clusterWords (s : State) (cl : Nat) : List Word :=
  let k := s.cluster cl
  let present := (List.range 512).filter (fun l => !k.missing.contains l)
  (List.range 8).map (fun j => mask64 present (64 * j)) ++
    [BitVec.ofNat 64 k.poolsize, k.unverif,
     BitVec.ofNat 64 (packBits [(bit k.spareCore, 16), ((mask64 (k.missingCores.map coreIn) 0).toNat, 0)]),
     BitVec.ofNat 64 (packBits [(s.gatedWays cl % 256, 24), (k.l2Spares % 256, 16), (k.l1Spares % 65536, 0)]), 0, 0, 0, 0]

/-- A context's state in SUMMARY. -/
def State.ctxCode (s : State) (c : Nat) : Nat :=
  let x := s.ctx c
  if (s.cluster (clusterOfCtx c)).missingCores.contains (c / 4) then 5
  else
    match x.run with
    | .free => 0
    | .retained _ => 4
    | .active => if x.level = .app then 1 else 3
    | .parked _ => if x.level = .app then 2 else 3

/-- A context's two doublewords, as mailbox `m` may see them. -/
def State.ctxWords (s : State) (m c : Nat) : List Word :=
  let x := s.ctx c
  if m < 16 ∧ s.partOf (c / 4) ≠ m then [6, 0]
  else
    [BitVec.ofNat 64 (packBits [(x.ssn.toNat, 32), (x.gstate.code, 16), (x.recIdx.toNat, 8), (s.ctxCode c, 0)]),
     BitVec.ofNat 64 (packBits [(x.vl, 16), (x.lanesHeld, 0)])]

/-- The reply: 37,120 bytes. -/
def State.summaryWords (s : State) (m : Nat) : List Word :=
  let health := fun (k : Nat) =>
    BitVec.ofNat 64 (packBits ((List.range 8).map (fun j => ((stackState s (8 * k + j)).code, 8 * j))))
  [BitVec.ofNat 64 (packBits [(37120, 32), (1, 0)]), s.mpn.setWidth 64, BitVec.ofNat 64 s.capg,
   BitVec.ofNat 64 s.scrivNext, health 0, health 1, BitVec.ofNat 64 s.doneLines, BitVec.ofNat 64 s.quar.length] ++
    (List.range 12).map s.linkWord ++ List.replicate 12 0 ++ (List.range 32).flatMap s.clusterWords ++
    (List.range 2048).flatMap (s.ctxWords m)

/-- SUMMARY (R440): a line whose copy has ended counts as Done. -/
def execSummary (s : State) : Res' :=
  s.settleLines.command1 0x80 (fun m q =>
    let pa := cmdField q 8 8
    if pa % 64 ≠ 0 ∨ cmdField q 16 4 < 37120 then none else some (s.physWrite pa (s.summaryWords m)))

end Sys2Proof.Machine
end

