-- ==== Sys2Proof/Machine/EvHost.lean ====
section
/-!
DEFINITION. Steps of the host port and of other modules: host requests (R170, R171, R323, R324, R404), requests of a
remote module (R172, R311, R338, R339), the trusted interfaces (R335, R336, R435) and measurements (R334).
-/

namespace Sys2Proof.Machine

/-! ### Host requests (R323, R324) -/

/-- The host as the maker of an access, for a partition (R324, R450). -/
def hostWho (part : Nat) : Who :=
  { c := 2048, core := 512, part := part, level := .app, kind := 7, l1 := false, holder := 0x100000 }

/-- The partition whose time slots and write log a function uses (R143, R324). -/
def fnPart (f : Nat) : Nat := f - 1

/-- A function may reach the 64 bytes at a device address: those of its partition's memory grant, while CXL.mem through
its interface is enabled (R323, R335, R435). -/
def State.hostReaches (s : State) (f pa : Nat) : Bool :=
  f == 0 ||
    (s.granted (f - 1) pa (pa + 64) && s.tdispOf (f - 1) != .error && s.tdispOf (f - 1) != .locked)

/-- One doubleword of a host read: its data, or poison with data the spec leaves open (R404, R405; log 5). -/
def State.hostDw (s : State) (part pa : Nat) : Word × Bool × State :=
  match s.memAccess (hostWho part) { pa := pa, skew := 0, attr := 0 } (BitVec.ofNat 64 pa) (.load 8) with
  | .value v t => (v, false, t)
  | .exc _ t => ((free t).1, true, (free t).2)
  | _ => ((free s).1, true, (free s).2)

/-- The doublewords of a host read, whether one is poisoned, and the state after them. -/
def State.hostDws (s : State) (part pa : Nat) : Nat → List Word × Bool × State
  | 0 => ([], false, s)
  | n + 1 =>
    let d := s.hostDw part pa
    let r := d.2.2.hostDws part (pa + 8) n
    (d.1 :: r.1, d.2.1 || r.2.1, r.2.2)

/-- The bytes of a doubleword that a mask takes from another. -/
def mergeBytes (old new : Word) (mask : Nat) : Word :=
  let m : Word := BitVec.ofNat 64 (packBits ((List.range 8).map (fun j => (if bits (BitVec.ofNat 64 mask) j 1 = 1 then 0xFF else 0, 8 * j))))
  (old &&& ~~~m) ||| (new &&& m)

/-- One doubleword of a host write under its byte enables (R314, R324): a refused one, and a merge whose doubleword
fails its check, writes nothing. -/
def State.hostPutDw (s : State) (part pa : Nat) (v : Word) (mask : Nat) : State :=
  let w := hostWho part
  let tr : Tr := { pa := pa, skew := 0, attr := 0 }
  let va := BitVec.ofNat 64 pa
  let key := memKey 0 pa
  if mask = 0 then s
  else if (s.memFault w tr va true (mask == 255)).isSome then s
  else
    match (if mask = 255 then none else s.badCheck w key pa va) with
    | some (_, t) => t
    | none =>
      storeMem (s.served w tr (sectorOf key) (.store 8 v)) part 4096 pa key
        (toLe (if mask = 255 then v else mergeBytes (readDw s.mem key) v mask).toNat 8)

/-- The doublewords of a host write under a mask of 64 byte enables. -/
def State.hostPut (s : State) (part mask : Nat) : Nat → Nat → List Word → State
  | _, _, [] => s
  | pa, k, v :: l => (s.hostPutDw part pa v (mask / 2 ^ (8 * k) % 256)).hostPut part mask (pa + 8) (k + 1) l

/-- A request of the host arrives: it waits at the service core that its target chooses (R170, R171). -/
def State.hostArrive (s : State) (q : HostReq) : State :=
  if s.recovery ∨ 16 < q.fn ∨ q.pa % 64 ≠ 0 then s
  else { s with hostq := put s.hostq (serviceCore s q.pa) (look [] s.hostq (serviceCore s q.pa) ++ [q]) }

/-- A request has to wait: its line is Copying (R415), or a write finds its sector held for a block's third execution
(R151). -/
def State.hostWaits (s : State) (q : HostReq) : Bool :=
  s.stalls { pa := q.pa, skew := 0, attr := 0 } || (q.write && s.blocked (hostWho 0) (sectorOf (memKey 0 q.pa)))

/-- A request performed, with what goes back to the host: data, or a write's completion (R171, R323, R324). -/
def State.hostServe (s : State) (q : HostReq) : State :=
  let sent := fun (t : State) (o : Out) => { t with out := t.out ++ [o] }
  if !s.hostReaches q.fn q.pa || !(s.inMemory q.pa || decide (q.pa < hbmTop)) then
    sent s (if q.write then .hostDone q.fn else .hostData q.fn true (List.replicate 8 0xFFFFFFFFFFFFFFFF))
  else if q.write then
    sent (s.hostPut (fnPart q.fn) q.mask q.pa 0 ((List.range 8).map (nth 0 q.words))) (.hostDone q.fn)
  else
    let r := s.hostDws (fnPart q.fn) q.pa 8
    sent r.2.2 (.hostData q.fn r.2.1 r.1)

/-- HOST_REQUEST (R170, R171, R323, R324): service core `unit` performs the oldest request that waits at it. -/
def execHostRequest (s : State) : Res' :=
  match look [] s.hostq s.arg.unit with
  | [] => .next s
  | q :: l => if s.hostWaits q then .next s else .next ({ s with hostq := put s.hostq s.arg.unit l }.hostServe q)

/-! ### Requests of a remote module (R172, R339) -/

/-- The partition that a member slot is assigned to (R341). -/
def State.slotPart (s : State) (slot : Nat) : Nat :=
  match s.img.parts.find? (fun d => d.slots.contains slot) with
  | some d => d.part
  | none => 0

/-- The member slot whose entry names a module (R340). -/
def State.slotOfModule (s : State) (id : Nat) : Option Nat :=
  (s.members.find? (fun e => e.2.getLsbD 31 && (e.2.extractLsb' 0 20).toNat == id)).map (·.1)

/-- The address that a request reaches in this module (R338). -/
def RemoteReq.pa (q : RemoteReq) : Nat := (q.word 1).toNat % 0x20000000000

/-- Who makes a remote request's accesses: the link controller, for the partition of the source's member slot (R172,
R450): it merges for the core that stores (DESIGN CHOICE, log 122). -/
def State.remoteWho (s : State) (q : RemoteReq) : Who :=
  { hostWho (match s.slotOfModule q.source with
      | some n => s.slotPart n
      | none => 0) with kind := 1 }

/-- A doubleword in memory form as it stands at a key, with its check and mark (R308, R405). -/
def State.datumAt (s : State) (key : Nat) (mark : Bool) : Datum :=
  { v := readDw s.mem key, synd := look 0 s.synd key, mark := mark }

/-- How the performance of a remote request ends: with a cause, 0 for none, and data; none where it has to wait. -/
abbrev RemoteEnd := Option (State × Nat × List Datum)

/-- A load of another module: its whole doubleword goes back with its check and mark as they are, which its consumer
verifies (R311, R315, R405). -/
def State.remoteLoad (s : State) (q : RemoteReq) (n : Nat) : RemoteEnd :=
  let w := s.remoteWho q
  let tr : Tr := { pa := q.pa, skew := 0, attr := 1 }
  let key := memKey 0 (q.pa / 8 * 8)
  if s.stalls tr then none
  else
    match s.memFault w tr (q.word 1) false with
    | some e =>
      if e.cause = 0x21 then some (s, 0, [s.datumAt key true]) else some (s, e.cause.toNat, [])
    | none => some (s.served w tr (sectorOf key) (.load n), 0, [s.datumAt key false])

/-- The doublewords of a write of another module, each stored with the check it came with, up to the first that is
refused; `whole` says of an address that the write covers its aligned sector, which lifts its poison (R172, R311,
R406). -/
def State.remotePut (s : State) (w : Who) (whole : Nat → Bool) : List (Nat × Datum) → Nat × State
  | [] => (0, s)
  | (pa, d) :: l =>
    let tr : Tr := { pa := pa, skew := 0, attr := 1 }
    let go := putDatum (storeMem (s.served w tr (sectorOf (memKey 0 pa)) (.store 8 d.v)) w.part 4096 pa (memKey 0 pa) [])
      (memKey 0 pa) d
    match s.memFault w tr (BitVec.ofNat 64 pa) true true with
    | some e => if e.cause = 0x21 && whole pa && !bulkMarked s 0 pa then go.remotePut w whole l else (e.cause.toNat, s)
    | none => go.remotePut w whole l

/-- The poison of the sectors that a remote write has covered: lifted where it covered them whole, and theirs where a
doubleword came marked (R405, R406). -/
def State.remoteSettle (s : State) (whole : Nat → Bool) (l : List (Nat × Datum)) : State :=
  (l.filter (fun e => e.2.mark)).foldl (fun s e => poisonSector s 0 0 e.1)
    ((l.filter (fun e => e.1 % 256 == 0 && whole e.1)).foldl (fun s e => renewSector s 0 e.1) s)

/-- Whole doublewords that another module writes, each at its address (R172, R443). -/
def State.remoteWrite (s : State) (q : RemoteReq) (l : List (Nat × Datum)) : RemoteEnd :=
  let w := s.remoteWho q
  if l.any (fun e => s.blocked w (sectorOf (memKey 0 e.1)) || s.stalls { pa := e.1, skew := 0, attr := 1 }) then none
  else
    let whole := fun (a : Nat) => (List.range 32).all (fun k => l.any (fun e => e.1 == a / 256 * 256 + 8 * k))
    match s.remotePut w whole l with
    | (0, t) => some (t.remoteSettle whole l, 0, [])
    | (k, t) => some (t, k, [])

/-- Consecutive doublewords from the address of a request up. -/
def RemoteReq.run (q : RemoteReq) (data : List Datum) : List (Nat × Datum) :=
  (List.range data.length).map (fun k => (q.pa + 8 * k, nth (Datum.of 0) data k))

/-- The doublewords of a packet that covers part of its 2 KiB range, at the places that its map gives (R443; log 32). -/
def RemoteReq.spread (q : RemoteReq) : List (Nat × Datum) :=
  let offs := (List.range 256).filter (fun k => ((nth (Datum.of 0) q.payload (6 + k / 64)).v).getLsbD (k % 64))
  (offs.zip (q.payload.drop 10)).map (fun e => (q.pa + 8 * e.1, e.2))

/-- A narrow store or an atomic of another module: what it brings is verified where it is merged or combined (R310, R314,
R339), and the old value goes back in its place within its doubleword. -/
def State.remoteMerge (s : State) (q : RemoteReq) (op : MemOp) : RemoteEnd :=
  let w := s.remoteWho q
  let pa := q.pa
  let bad := [2, 3].find? (fun n => (nth (Datum.of 0) q.payload n).mark || (nth (Datum.of 0) q.payload n).synd != 0)
  match bad with
  | some n =>
    if (nth (Datum.of 0) q.payload n).mark then some (s, 0x21, [])
    else
      let kind := match op with
        | .amo _ _ _ _ => 4
        | _ => 1
      some (s.mismatch kind w.part 0 (pa / 8 * 8), 0x20, [])
  | none =>
    match s.memAccess w { pa := pa, skew := 0, attr := 1 } (q.word 1) op with
    | .value v t => some (t, 0, [.of (v <<< (8 * (pa % 8)))])
    | .exc e t => some (t, e.cause.toNat, [])
    | _ => none

/-- A request performed at this module, at an address of HBM4 or of the second tier (R338). -/
def State.remoteServe (s : State) (q : RemoteReq) : RemoteEnd :=
  let h := q.word 0
  let n := bits h 8 8
  if !(s.inMemory q.pa || decide (q.pa < hbmTop)) || !domainLocal q.pa then some (s, 0x18, [])
  else
    match bits h 0 8 with
    | 1 => s.remoteLoad q n
    | 2 =>
      if n = 8 then s.remoteWrite q (q.run [nth (Datum.of 0) q.payload 2])
      else s.remoteMerge q (.store n (q.word 2))
    | 3 => s.remoteMerge q (.amo n (bits h 16 8) (q.word 2) (q.word 3))
    | 5 => s.remoteWrite q q.spread
    | _ => s.remoteWrite q (q.run (q.payload.drop 6))

/-- REMOTE_REQUEST (R172, R311, R338, R339): the link controller of port `unit` performs the oldest request that has come
over it from module `index`, as an ordinary access of its own memory, and answers. -/
def execRemoteRequest (s : State) : Res' :=
  let k := s.rxq.findIdx (fun q => q.port == s.arg.unit && q.source == s.arg.index)
  match s.rxq[k]? with
  | none => .next s
  | some q =>
    match s.remoteServe q with
    | none => .next s
    | some (t, cause, data) =>
      .next ({ t with rxq := t.rxq.take k ++ t.rxq.drop (k + 1) }.sendVia q.port
        (remoteReply cause [q.word 0, q.word 1]) (s.routeBack (q.word 4)) data)

/-! ### Trusted interfaces (R335, R336, R435) -/

/-- An answer to the host: 0 done, 1 error response (log 9). -/
def State.say (s : State) (code : Nat) (w : List Word) : State := { s with out := s.out ++ [.reply code w] }

/-- An interface in another state. -/
def State.setTdisp (s : State) (p : Nat) (t : Tdisp) : State := { s with tdisp := put s.tdisp p t }

/-- The launch records of a partition in a state. -/
def State.recsIn (s : State) (p st : Nat) : List Nat :=
  (s.recs.filter (fun e => e.2.state == st && e.2.part == p)).map (·.1)

/-- The time-slot entries of a partition, as index and byte (R140). -/
def State.slotEntriesOf (s : State) (p : Nat) : List Word :=
  ((List.range 32768).filter (fun k =>
    decide ((s.slotByte k).toNat / 32 % 4 = 0) && (s.slotByte k).toNat % 16 == p)).map
      (fun k => BitVec.ofNat 64 (0x100 * k + (s.slotByte k).toNat))

/-- A base-address register of a partition's function (R336). -/
def State.bar (s : State) (p n : Nat) : Word := look 0 s.bars (8 * (p + 1) + n)

/-- The interface report of a partition: the standard information, the MMIO range of BAR0, what is specific to the device
(R336; log 87). -/
def State.reportWords (s : State) (p : Nat) : List Word :=
  match s.partDef p with
  | none => []
  | some d =>
    Config.interfaceInfo p ++ [s.bar p 0, 0x1000] ++ [p, d.pgrant, d.fcap, bit d.boost].map (BitVec.ofNat 64) ++
      d.grants.flatMap (fun g => [BitVec.ofNat 64 g.1, BitVec.ofNat 64 g.2]) ++ Config.sha3 (s.slotEntriesOf p) ++
      Config.sha3 (((s.recs.filter (fun e => e.2.state != 0 && e.2.part == p)).map (·.1)).map (BitVec.ofNat 64))

/-- LOCK_INTERFACE_REQUEST (R335, R435). -/
def execLockInterfaceRequest (s : State) : Res' :=
  let p := s.arg.unit
  if 16 ≤ p then .next s
  else if s.tdispOf p = .unlocked then .next ((s.setTdisp p .locked).say 0 [])
  else .next (s.say 1 [])

/-- GET_DEVICE_INTERFACE_REPORT (R335, R336, R435). -/
def execGetDeviceInterfaceReport (s : State) : Res' :=
  let p := s.arg.unit
  if 16 ≤ p then .next s
  else if s.frozen p then .next (s.say 0 (s.reportWords p))
  else .next (s.say 1 [])

/-- START_INTERFACE_REQUEST (R335, R435). -/
def execStartInterfaceRequest (s : State) : Res' :=
  let p := s.arg.unit
  if 16 ≤ p then .next s
  else if s.tdispOf p = .locked then .next ((s.setTdisp p .run).say 0 [])
  else .next (s.say 1 [])

/-- The gangs of an interface begin to stop as at a PREEMPT with hold (R335, R381); one whose images do not fit its slots is
stopped and discarded. -/
def State.stopGangs (s : State) (p : Nat) : State :=
  (s.recsIn p 3).foldl (fun s r =>
    let g := s.lrec r
    if g.stopping.isSome then s
    else if s.imagesFit r then s.setRec r { g with stopping := some (true, 17) }
    else s.setRec r { g with stopping := some (true, 18) }) s

/-- STOP_INTERFACE_REQUEST (R335, R380, R381, R435): from RUN the interface's gangs are pre-empted, and once every one is
saved they are withdrawn and the request is answered; until then it stands, and its step is made again. -/
def execStopInterfaceRequest (s : State) : Res' :=
  let p := s.arg.unit
  if 16 ≤ p then .next s
  else if s.tdispOf p = .unlocked then .next (s.say 0 [])
  else if s.tdispOf p = .run ∧ !(s.recsIn p 3).isEmpty then .next (s.stopGangs p)
  else
    let t := if s.tdispOf p = .run then ((s.recsIn p 2).filter (fun r => (s.lrec r).saved)).foldl State.withdraw s else s
    .next ((t.setTdisp p .unlocked).say 0 [])

/-- A gang begins to stop at its stop points, to be discarded without a save (R435); a PREEMPT of it that is under way is
refused. -/
def State.beginDiscard (s : State) (r : Nat) : State :=
  let g := s.lrec r
  let s := s.setRec r { g with stopping := some (false, 18), marked := false }
  match g.stopping with
  | some (_, m) => if m < 17 then s.answer m 2 else s
  | none => s

/-- The fall of an interface to ERROR (R435): the partition's armed records end with the cancelled word at once, none of them
being placed meanwhile, and its gangs begin to stop; an interface that is not frozen keeps its state. -/
def State.fallToError (s : State) (p trigger : Nat) : State :=
  if p < 16 ∧ s.frozen p then
    let t := scrivener (s.setTdisp p .error) 0x40 p 0 0 [trigger]
    let t := (s.recsIn p 2).foldl (fun t r => t.setRec r { t.lrec r with held := true }) t
    let t := (s.recsIn p 3).foldl State.beginDiscard t
    (s.recsIn p 2).foldl State.withdraw t
  else s

/-- LOCKED_BAR_WRITE (R336, R435): the host writes base-address register `index` of the function of partition `unit`; a
locked one keeps its value, and its interface falls to ERROR. -/
def execLockedBarWrite (s : State) : Res' :=
  let p := s.arg.unit
  if p < 16 ∧ s.arg.index < 6 ∧ s.tdispOf p = .unlocked then
    .next { s with bars := put s.bars (8 * (p + 1) + s.arg.index) s.arg.value }
  else .next (s.fallToError p 1)

/-- IDE_INTEGRITY_FAILURE (R435) on the stream of partition `unit`. -/
def execIdeIntegrityFailure (s : State) : Res' := .next (s.fallToError s.arg.unit 2)

/-- The item that a measurement index names (R334, R336). -/
def State.measured (s : State) (n : Nat) : Option (List Word) :=
  if n = 1 then some Config.bootRom
  else if n = 2 then some Config.firmware
  else if n = 3 then some (Config.imageWords s.img)
  else if n = 4 then some (Config.imageWords s.stored)
  else if 16 ≤ n ∧ n < 32 ∧ s.frozen (n - 16) then some (s.reportWords (n - 16))
  else none

/-- SPDM_MEASUREMENT (R334): the signed digest of measurement `index`. -/
def execSpdmMeasurement (s : State) : Res' :=
  match s.measured s.arg.index with
  | some w => .next (s.say 0 (Config.sha3 w ++ Config.sign (Config.sha3 w)))
  | none => .next (s.say 1 [])

end Sys2Proof.Machine
end

