-- ==== Sys2Proof/Machine/EvFabric.lean ====
section
/-!
DEFINITION. Steps of the Imtia links and of collectives (R337, R343, R430-R434).

A step names a port in `unit`; a direction is 0 for sending and 1 for receiving.
-/

namespace Sys2Proof.Machine

/-! ### Replay (R337, R431) -/

/-- A number lies below another in the order of sequence numbers, which wrap at 2^16 (R337). -/
def seqBelow (n e : Nat) : Bool := 1 ≤ (e + 0x10000 - n) % 0x10000 && (e + 0x10000 - n) % 0x10000 ≤ 512

/-- The flits that have been sent and that number `e` acknowledges leave the replay buffer (R431). -/
def LinkDir.freeBelow (l : LinkDir) (e : Nat) : LinkDir :=
  let kept := (l.buf.take l.sent).filter (fun f => !seqBelow f.1 e)
  { l with buf := kept ++ l.buf.drop l.sent, sent := kept.length,
           replays := if kept.length < min l.sent l.buf.length then 0 else l.replays }

/-- A record of a port (R439). -/
def State.portRecord (s : State) (code port : Nat) (detail : List Nat) : State := scrivener s code 0xFF port 0 detail

/-- The request that a reply answers, of this module's own where `own`, else one that came in for another, waits no more. -/
def State.settlePend (s : State) (own : Bool) (q : RemoteReq) : State :=
  { s with pend := dropFirst (fun p => p.back.isNone == own && p.answered q) s.pend }

/-- A message of a collective belongs to a round that has ended here, or that no COLL has begun and GROUP has undone: it is
discarded (R433). -/
def State.staleRound (s : State) (q : RemoteReq) : Bool :=
  let g := s.group (bits (q.word 0) 8 8)
  decide ((q.word 1).toNat < g.round) || (decide ((q.word 1).toNat = g.round) && g.running.isNone)

/-- A whole packet that a port has received: one that is routed to another module goes on through the port of that module's
entry, or comes back with cause 0x18; a request for this module waits for the link controller, a reply to a request that is
still waited for, and a message of a collective round that has not ended, until it is taken (R24, R172, R339, R340, R432,
R433; log 9). -/
def State.packetIn (s : State) (p : Nat) (l : List Datum) : State :=
  let route := (nth (Datum.of 0) l 4).v
  let q : RemoteReq := { port := p, source := bits route 0 20, payload := l }
  let request := decide (q.kind ≤ 5)
  if bits route 40 1 = 1 ∧ bits route 20 20 ≠ s.modId.toNat then
    match (s.slotOfModule (bits route 20 20)).filter s.reachable with
    | some slot =>
      let t := if request then
          { s with pend := s.pend ++ [{ port := s.portOf slot, back := some p, words := [q.word 0, q.word 1], route := route }] }
        else if q.kind = 6 then s.settlePend false q
        else s
      t.sendData (s.portOf slot) (l.take 6) (l.drop 6)
    | none => if request then s.sendVia p (remoteReply 0x18 [q.word 0, q.word 1]) (s.routeBack route) [] else s
  else if request then { s with rxq := s.rxq ++ [q] }
  else if q.kind = 6 then
    (if s.pend.any (fun e => e.back.isNone && e.answered q) then { s.settlePend true q with inbox := s.inbox ++ [q] } else s)
  else if s.staleRound q then s
  else { s with inbox := s.inbox ++ [q] }

/-- The payload of a flit joins the packet that is arriving over a port; with its last flit the packet is whole (R337). -/
def State.payloadIn (s : State) (p : Nat) (data : List Datum) : State :=
  let l := look [] s.rxPart p ++ data
  if l.length < 6 ∨ l.length < 6 + (nth (Datum.of 0) l 5).v.toNat then { s with rxPart := put s.rxPart p l }
  else { s with rxPart := s.rxPart.filter (fun e => e.1 != p) }.packetIn p l

/-- FLIT_RECEIVE (R337, R431): the flit numbered `index` arrives, its link CRC right when `flag` is set; it is accepted
in sequence, and its payload delivered, or it is discarded with a negative acknowledgement. -/
def execFlitReceive (s : State) : Res' :=
  let p := s.arg.unit
  let l := s.dir p 1
  if 12 ≤ p || !l.up then .next s
  else if s.arg.flag && s.arg.index == l.seq then
    let e := (l.seq + 1) % 0x10000
    let t := s.setDir p 1 { l with seq := e }
    .next (({ t with out := t.out ++ [.ack p e] } : State).payloadIn p s.arg.data)
  else .next { s with out := s.out ++ [.nak p l.seq] }

/-- ACKNOWLEDGEMENT (R337, R431) carrying `index`. -/
def execAcknowledgement (s : State) : Res' :=
  let p := s.arg.unit
  if 12 ≤ p then .next s else .next ((s.setDir p 0 ((s.dir p 0).freeBelow s.arg.index)).pump p)

/-- Every unacknowledged flit from `e` on is sent again, and new ones after them (R431). -/
def State.replay (s : State) (p e : Nat) : State :=
  let l := (s.dir p 0).freeBelow e
  let t := (s.setDir p 0 { l with sent := 0 }).pump p
  if l.sent = 0 then t else t.portRecord 0x24 p [e]

/-- NEGATIVE_ACKNOWLEDGEMENT (R430, R431) carrying `index`: the sender resends; a flit replayed eight times in a row
makes the direction retrain. -/
def execNegativeAcknowledgement (s : State) : Res' :=
  let p := s.arg.unit
  if 12 ≤ p || !(s.dir p 0).up then .next s
  else
    let t := s.replay p s.arg.index
    let l := t.dir p 0
    if l.buf.isEmpty then .next t
    else if l.replays + 1 < 8 then .next (t.setDir p 0 { l with replays := l.replays + 1 })
    else .next (t.setDir p 0 { l with replays := 0, st := .retrain (if l.st = .up8 then 8 else 16) })

/-! ### Lanes (R430) -/

/-- The half that a lane lies in: 0 for lanes 0-7, 1 for lanes 8-15. -/
def laneHalf (lane : Nat) : Nat := lane / 8

/-- A request whose port is DOWN ends with cause 0x18: at its issuer, or, where it was forwarded, by an answer to its source
(R432). -/
def State.cutPend (s : State) (p : Pend) : State :=
  match p.back with
  | some q => s.sendVia q (remoteReply 0x18 p.words) (s.routeBack p.route) []
  | none =>
    let q : RemoteReq := { port := p.port, source := 0, payload := (remoteReply 0x18 p.words ++ [0, 0, 0]).map Datum.of }
    { s with inbox := s.inbox ++ [q] }

/-- A direction goes DOWN: every request that left by its port and is not answered ends (R430, R432). -/
def State.goDown (s : State) (p d : Nat) (l : LinkDir) : State :=
  let t := (s.setDir p d { l with st := .down }).portRecord 0x23 p [l.half]
  (s.pend.filter (·.port == p)).foldl State.cutPend { t with pend := s.pend.filter (·.port != p) }

/-- LANE_LOST (R430): lane `index` of direction `value`. -/
def execLaneLost (s : State) : Res' :=
  let p := s.arg.unit
  let d := s.arg.value.toNat
  let lane := s.arg.index
  let l := s.dir p d
  if 12 ≤ p ∨ 2 ≤ d ∨ 16 ≤ lane ∨ l.isDown ∨ l.lost.contains lane then .next s
  else
    let s := s.portRecord 0x20 p [lane, d]
    if !l.spareUsed then
      let target := match l.st with
        | .retrain t => t
        | .up8 => 8
        | _ => 16
      .next ((s.setDir p d { l with spareUsed := true, st := .retrain target }).portRecord 0x21 p [lane, d])
    else
      let m := { l with lost := setIns l.lost lane }
      let h := 1 - laneHalf lane
      let both := m.lost.any (fun k => laneHalf k == h)
      if l.st = .up8 then
        .next (if laneHalf lane = l.half then s.goDown p d m else s.setDir p d m)
      else if both then .next (s.goDown p d m)
      else
        let t := s.setDir p d { m with half := h, st := .retrain 8 }
        .next (if l.st = .retrain 8 then t else t.portRecord 0x22 p [h])

/-- RETRAIN_DONE (R430, R431): the retrain of direction `index` ends, with success when `flag` is set; a receiver
reports its expected number, which a sender takes from `value`. -/
def execRetrainDone (s : State) : Res' :=
  let p := s.arg.unit
  let d := s.arg.index
  let l := s.dir p d
  if 12 ≤ p ∨ 2 ≤ d then .next s
  else
    match l.st with
    | .retrain target =>
      if s.arg.flag then
        let t := s.setDir p d { l with st := if target = 8 then .up8 else .up16, fails := 0, replays := 0 }
        if d = 0 then .next (t.replay p s.arg.value.toNat) else .next { t with out := t.out ++ [.ack p l.seq] }
      else if l.fails + 1 < 3 then .next (s.setDir p d { l with fails := l.fails + 1 })
      else .next (s.goDown p d { l with fails := 0 })
    | _ => .next s

/-! ### Collectives (R342, R343, R433, R434) -/

/-- The doublewords that a collective of `len` bytes touches. -/
def dwsOf (len : Nat) : Nat := (len + 7) / 8

/-- Element `e` of packed elements of `w` bits (R99). -/
def packedElem (w : Nat) (l : List Word) (e : Nat) : Nat := bits (nth 0 l (e * w / 64)) (e * w % 64) w

/-- Elements packed into doublewords (R99). -/
def collPack (w : Nat) (l : List Nat) : List Word :=
  (List.range (dwsOf (l.length * w / 8))).map (fun k =>
    BitVec.ofNat 64 (packBits ((List.range (64 / w)).map (fun j => (nth 0 l (64 / w * k + j), w * j)))))

/-- Two elements combined (R343): sum, maximum or minimum in the descriptor's format; a sum of floating-point elements
is rounded once by RNE, and an integer sum wraps. -/
def collJoin (fmt op a b : Nat) : Nat :=
  let float := fun (f : Fmt) =>
    if op = 0 then (fpAdd f { mode := 0, draw := 0 } (f.decode a) (f.decode b)).1 else (fpMinMax f (op == 1) a b).1
  match fmt with
  | 1 => float f64
  | 2 => float f32
  | 4 => float bf16
  | _ =>
    let x : Word := BitVec.ofNat 64 a
    let y : Word := BitVec.ofNat 64 b
    let less := if fmt = 12 then decide (x.toInt < y.toInt) else decide (a < b)
    if op = 0 then (x + y).toNat else if (op == 1) == less then b else a

/-- One element of an all-reduce, over the ranks' elements in increasing rank order (R343). -/
def collFold (fmt op : Nat) : List Nat → Nat
  | [] => 0
  | a :: l => l.foldl (collJoin fmt op) a

/-- The result of a round over the contributions in rank order (R342, R343): the root's doublewords as they are for a
broadcast, which combines nothing (R311), else what the combining controller produces. -/
def collResult (d : List Word) (parts : List (List Datum)) : List Datum :=
  if collKind d = 2 then nth [] parts (collRoot d)
  else
    let w := fmtBits (collFmt d)
    (collPack w ((List.range (8 * collLen d / w)).map (fun e =>
      collFold (collFmt d) (collOp d) (parts.map (fun p => packedElem w (p.map (·.v)) e))))).map Datum.of

/-- The rank of this module in a group (R342). -/
def State.ownRank (s : State) (g : Group) : Nat := g.members.findIdx (fun m => m == s.memberId.toNat)

/-- The module's own contribution, or the cause that aborts the round; a combining controller verifies it as it reads it
(R310, R343, R404, R433). -/
def State.collRead (s : State) (part : Nat) (combines : Bool) (pa : Nat) : Nat → List Datum → Except (BitVec 8 × State) (List Datum)
  | 0, l => .ok l
  | n + 1, l =>
    let mark := (memTrouble s 0 pa).isSome
    if !s.inMemory pa then .error (0x18, s)
    else if combines && mark then .error (0x21, s)
    else if combines && checkFails s (memKey 0 pa) then .error (0x20, s.mismatch 8 part 0 pa)
    else s.collRead part combines (pa + 8) n (l ++ [s.datumAt (memKey 0 pa) mark])

/-- Doubleword `k` of a result as it is written: past the length of the collective, its bytes keep their value (R314). -/
def State.collMerge (s : State) (d : List Word) (k : Nat) (v : Word) : Word :=
  let n := collLen d - 8 * k
  if n < 8 then mergeBytes (readDw s.mem (memKey 0 ((nth 0 d 3).toNat + 8 * k))) v (2 ^ n - 1) else v

/-- What the module contributes: its src, which only the root of a broadcast reads (R342). -/
def State.ownPart (s : State) (g : Group) (d : List Word) : Except (BitVec 8 × State) (List Datum) :=
  if collKind d = 2 ∧ s.ownRank g ≠ collRoot d then .ok []
  else s.collRead g.part (collKind d != 2) (nth 0 d 2).toNat (dwsOf (collLen d)) []

/-- The doublewords of a result that are listed, written to dst with their checks. -/
def State.collPut (s : State) (part : Nat) (d : List Word) (r : List Datum) : List Nat → State
  | [] => s
  | k :: l =>
    let pa := (nth 0 d 3).toNat + 8 * k
    let e := nth (Datum.of 0) r k
    let t := s.physWriteFor part pa [s.collMerge d k e.v]
    (if e.synd = 0 then t else { t with synd := put t.synd (memKey 0 pa) e.synd }).collPut part d r l

/-- The same, with the marks that came with a broadcast (R405). -/
def State.collWrite (s : State) (part : Nat) (d : List Word) (r : List Datum) (l : List Nat) : State :=
  l.foldl (fun t k =>
    if (nth (Datum.of 0) r k).mark then poisonSector t 0 0 ((nth 0 d 3).toNat + 8 * k) else t) (s.collPut part d r l)

/-- What refuses the writes of dst: an address outside memory, poison or quarantine, a doubleword to be merged whose check
fails. -/
def State.collTrouble (s : State) (d : List Word) : Option (BitVec 8) :=
  let l := (List.range (dwsOf (collLen d))).map (fun k => (k, (nth 0 d 3).toNat + 8 * k))
  if l.any (fun p => !s.inMemory p.2) then some 0x18
  else if l.any (fun p => (writeTrouble s 0 p.2).isSome) then some 0x21
  else if l.any (fun p => decide (collLen d < 8 * p.1 + 8) && checkFails s (memKey 0 p.2)) then some 0x20
  else none

/-- The message is a contribution to a round: kind 8, group and rank, then the round and its first doubleword (R343, R433;
log 9). -/
def RemoteReq.contributes (q : RemoteReq) (n round rank : Nat) : Bool :=
  q.kind == 8 && bits (q.word 0) 8 8 == n && bits (q.word 0) 32 32 == rank && (q.word 1).toNat == round

/-- Doubleword `k` of a rank's contribution to the running round, with its check and mark: the module's own, or one that has
come in (R343, R433). -/
def State.contribution (s : State) (n : Nat) (r : Round) (rank k : Nat) : Option Datum :=
  let g := s.group n
  if rank = s.ownRank g then (r.own.getD [])[k]?
  else
    (s.inbox.find? (fun q => q.contributes n g.round rank && decide ((q.word 2).toNat ≤ k) &&
      decide (k < (q.word 2).toNat + q.payload.length - 6))).map (fun q => q.datum (k - (q.word 2).toNat))

/-- The ranks whose contributions a round needs (R342). -/
def contributors (g : Group) (d : List Word) : List Nat :=
  if collKind d = 2 then [collRoot d] else List.range g.members.length

/-- Every contribution to doubleword `k` of the result is there. -/
def State.hasContributions (s : State) (n : Nat) (r : Round) (k : Nat) : Bool :=
  (contributors (s.group n) r.desc).all (fun i => (s.contribution n r i k).isSome)

/-- Every contribution to the round is there; of a barrier, a message of each member. -/
def State.roundFull (s : State) (n : Nat) (r : Round) : Bool :=
  let g := s.group n
  if collKind r.desc = 3 then
    (List.range g.members.length).all (fun i => i == s.ownRank g || s.inbox.any (fun q => q.contributes n g.round i))
  else (List.range (dwsOf (collLen r.desc))).all (s.hasContributions n r)

/-- The contributions in rank order. -/
def State.contributions (s : State) (n : Nat) (r : Round) : List (List Datum) :=
  let g := s.group n
  (List.range g.members.length).map (fun i =>
    (List.range (dwsOf (collLen r.desc))).map (fun k => (s.contribution n r i k).getD (.of 0)))

/-- The packets of a contribution: 256 doublewords each, one at least (R337, R343; log 9). -/
def contribPackets (n rank round : Nat) (l : List Datum) : List (List Word × List Datum) :=
  (List.range (max 1 ((l.length + 255) / 256))).map (fun k =>
    ([BitVec.ofNat 64 (packBits [(rank, 32), (n, 8), (8, 0)]), BitVec.ofNat 64 round, BitVec.ofNat 64 (256 * k)],
      (l.drop (256 * k)).take 256))

/-- The module's contribution goes to the other members that can be reached: a broadcast's from its root only (R342, R343). -/
def State.contribute (s : State) (n : Nat) (r : Round) (own : List Datum) : State :=
  let g := s.group n
  let rank := s.ownRank g
  let t := { s with groups := put s.groups n { g with running := some { r with own := some own } } }
  if collKind r.desc = 2 ∧ rank ≠ collRoot r.desc then t
  else
    (g.members.filter (fun m => m != s.memberId.toNat && s.reachable m)).foldl
      (fun t m => (contribPackets n rank g.round own).foldl (fun t p => t.sendTo m p.1 p.2) t) t

/-- What a combining controller finds wrong in the contributions of a round (R310, R404, R433): poison, or a check, whose
record names no address of this module. -/
def State.contribBad (s : State) (g : Group) (d : List Word) (parts : List (List Datum)) : Option (BitVec 8 × State) :=
  let l := parts.flatten
  if collKind d = 2 then none
  else if l.any (·.mark) then some (0x21, s)
  else if l.any (fun e => e.synd != 0) then some (0x20, s.mismatch 8 g.part 0 0)
  else none

/-- Some other member of a group cannot be reached (R432, R433). -/
def State.memberCut (s : State) (g : Group) : Bool :=
  g.members.any (fun m => m != s.memberId.toNat && !s.reachable m)

/-- The round of a group ends with a cause, 0 for none: the done word is written, and the messages of the round that have come
are discarded (R343, R433). -/
def State.endRound (s : State) (n : Nat) (d : List Word) (cause : BitVec 8) : State :=
  let g := s.group n
  { s with
    groups := put s.groups n { g with running := none }
    inbox := s.inbox.filter (fun q => q.kind == 6 || bits (q.word 0) 8 8 != n || decide (g.round < (q.word 1).toNat)) }.physWriteFor
    g.part (nth 0 d 4).toNat [jobWord 0 cause 0]

/-- The abort message of a round for one member: kind 7, group, cause, starting rank and round (R433; log 9). -/
def abortPacket (n cause rank round : Nat) : List Word :=
  [BitVec.ofNat 64 (packBits [(rank, 32), (cause, 16), (n, 8), (7, 0)]), BitVec.ofNat 64 round]

/-- The round aborts here first: the other members get abort messages (R433). -/
def State.abortFirst (s : State) (n : Nat) (d : List Word) (cause : BitVec 8) : State :=
  let g := s.group n
  let rank := s.ownRank g
  let t := scrivener (s.endRound n d cause) 0x30 g.part 0 0 [cause.toNat, rank]
  (g.members.filter (fun m => m != s.memberId.toNat && s.reachable m)).foldl
    (fun t m => t.sendTo m (abortPacket n cause.toNat rank g.round) []) t

/-- A running round completes once every contribution to it is there: the result is written to dst and the done word after
it, or what the combining controller finds aborts it (R343, R433). -/
def State.closeRound (s : State) (n : Nat) (r : Round) : State :=
  let g := s.group n
  let d := r.desc
  if !s.roundFull n r then s
  else if collKind d = 3 then s.endRound n d 0
  else
    let parts := s.contributions n r
    match s.contribBad g d parts, s.collTrouble d with
    | some (k, t), _ => t.abortFirst n d k
    | none, some k => s.abortFirst n d k
    | none, none => (s.collWrite g.part d (collResult d parts) (List.range (dwsOf (collLen d)))).endRound n d 0

/-- COLLECTIVE_ROUND_DONE (R343): the link controllers work on the round of group `unit`: the module's contribution is read
and sent, and then, once those of the other members have come, the round completes. -/
def execCollectiveRoundDone (s : State) : Res' :=
  let n := s.arg.unit
  let g := s.group n
  match g.running with
  | none => .next s
  | some r =>
    match r.own with
    | some _ => .next (s.closeRound n r)
    | none =>
      if collKind r.desc = 3 then .next (s.contribute n r [])
      else
        match s.ownPart g r.desc with
        | .error (k, t) => .next (t.abortFirst n r.desc k)
        | .ok own => .next (s.contribute n r own)

/-- The doublewords of dst that are final when a round aborts: of those to which every contribution is there, the ones that
`list` names, none where a read fails (R434). -/
def State.partialResult (s : State) (n : Nat) (r : Round) : State :=
  let g := s.group n
  let d := r.desc
  if collKind d = 3 ∨ (s.collTrouble d).isSome then s
  else
    let parts := s.contributions n r
    if (s.contribBad g d parts).isSome then s
    else s.collWrite g.part d (collResult d parts)
      (s.arg.list.filter (fun k => decide (k < dwsOf (collLen d)) && s.hasContributions n r k))

/-- COLLECTIVE_TIMEOUT (R432, R433, R434): the round of group `unit` has not completed in its time, or a member of it
cannot be reached. -/
def execCollectiveTimeout (s : State) : Res' :=
  let n := s.arg.unit
  let g := s.group n
  match g.running with
  | none => .next s
  | some r =>
    if s.memberCut g then .next ((s.partialResult n r).abortFirst n r.desc 0x18)
    else if r.since + 3300 * collTimeout r.desc ≤ s.now then .next ((s.partialResult n r).abortFirst n r.desc 0x15)
    else .next s

/-- ABORT_MESSAGE (R433, R434): the abort message of the running round of group `unit` that has come in stops the round here
with its cause, and the record names the rank that started it. -/
def execAbortMessage (s : State) : Res' :=
  let n := s.arg.unit
  let g := s.group n
  match g.running with
  | none => .next s
  | some r =>
    match s.inbox.find? (fun q => q.kind == 7 && bits (q.word 0) 8 8 == n && (q.word 1).toNat == g.round) with
    | none => .next s
    | some q =>
      let k := BitVec.ofNat 8 (bits (q.word 0) 16 8)
      .next (scrivener ((s.partialResult n r).endRound n r.desc k) 0x30 g.part 0 0 [k.toNat, bits (q.word 0) 32 32])

end Sys2Proof.Machine
end

