-- ==== Sys2Proof/Machine/EvMemory.lean ====
section
/-!
DEFINITION. Steps of the memories: time slots with the Fuller and the remap engine (R140, R141, R321, R410, R414, R417),
requests at a channel and their bounces (R415, R416, R419), retirement and death of a stack (R318, R414-R420), and
cache ways (R436).
-/

namespace Sys2Proof.Machine

/-! ### The Fuller (R321, R410) -/

/-- The physical address, under linear skew, of a channel line of a stack, none where no slot lies in its frame
(R316). -/
def State.lineAt (s : State) (x ch n : Nat) : Option Nat :=
  ((List.range 240).find? (fun t => entStack (slotEntry s t) == x && entFrame (slotEntry s t) == n / frameLines)).map
    (fun t => (240 * (32 * (n % frameLines) + ch) + t) * 1024)

/-- The Fuller's write-backs on a channel: an entry that a write has marked is dropped, another writes the corrected
data with their checks (R410). -/
def State.writeBacks (s : State) (x ch : Nat) : State :=
  let mine := fun (e : Scrub) => e.stack == x && e.ch == ch
  let s' := { s with scrubs := s.scrubs.filter (fun e => !mine e) }
  (s.scrubs.filter (fun e => mine e && !e.marked)).foldl
    (fun t e => { t with mem := writeBytes t.mem (e.sector * 256) e.data }) s'

/-- The Fuller reads a sector: `f` is 1 where correction changed it, 2 where it is uncorrectable (R321, R405). -/
def State.scrubSector (s : State) (x ch pa f : Nat) : State :=
  if f = 2 then poisonSector s 1 0 pa
  else if f = 1 then
    { s with scrubs := s.scrubs ++
        [{ stack := x, ch := ch, sector := pa / 256, data := readBytes s.mem pa 256, marked := false }] }
  else s

/-- The Fuller's turn on a channel: it writes back, then reads the next two sectors in channel line order (R321). -/
def State.fullerTurn (s : State) (x ch : Nat) : State :=
  let s := s.writeBacks x ch
  let k := 32 * x + ch
  let n := look 0 s.fuller k
  let t := match s.lineAt x ch (n / 2) with
    | none => s
    | some pa =>
      let a := pa + 512 * (n % 2)
      (s.scrubSector x ch a (nth 0 s.arg.list 0)).scrubSector x ch (a + 256) (nth 0 s.arg.list 1)
  { t with fuller := put t.fuller k ((n + 1) % (32 * frameLines)) }

/-! ### The remap engine (R414, R417) -/

/-- The remap engine reads the line that it begins to copy on a channel: sectors that correction finds uncorrectable,
which the step lists, are poisoned (R405, R414). -/
def State.readMoving (s : State) (n ch : Nat) : State :=
  match s.movingSlot n with
  | some slot =>
    let pa := (240 * (32 * (n % frameLines) + ch) + slot) * 1024
    (s.arg.list.filter (· < 4)).foldl (fun t k => poisonSector t 2 0 (pa + 256 * k)) s
  | none => s

/-- The remap engine's turn on a channel of the source stack in slot 16 of a frame: its next line is Copying until the end
of slot 48, 1,056 ticks after slot 16 began (R414). -/
def State.remapTurn (s : State) (r : Retire) (ch slot : Nat) : State :=
  let n := look 0 r.pos ch
  let began := s.now / 32 * 32
  if slot = 16 ∧ !r.copying.any (fun e => e.1 == ch) ∧ n < movingLines ∧ r.start < began then
    (s.readMoving n ch) |> fun t => { t with retire := some { r with copying := put r.copying ch (began + 1056) } }
  else s

/-! ### Requests at a channel (R415, R416, R419) -/

/-- The entry that routes a request: of the previous table under the old phase (R320, R415). -/
def State.routeOf (s : State) (q : ChanReq) : BitVec 32 :=
  if q.oldPhase then slotEntryPrev s (slotOf q.skew q.pa) else slotEntry s (slotOf q.skew q.pa)

/-- What becomes of a request (R415, R419). -/
inductive Fate where
  | served
  | stalled
  | bounced
  /-- At a dead stack: a read returns poison, a write is dropped. -/
  | dropped
  deriving DecidableEq, Repr

/-- The fate of a request by the state of its line; a forwarded request is served at the old home (R415, R419). -/
def State.fateOf (s : State) (q : ChanReq) : Fate :=
  if 0x10000000000 ≤ q.pa then .served
  else
    match lineOf s (slotOf q.skew q.pa) (qOf q.pa) with
    | .copying => .stalled
    | .done => if q.oldPhase then .bounced else .served
    | .pending => .served
    | .still => if stackState s (entStack (s.routeOf q)) = .dead then .dropped else .served

/-- A request performed: a read that finds its sector uncorrectable poisons it, a write is applied where poison and
quarantine let it (R405, R406). -/
def State.performReq (s : State) (q : ChanReq) (uncorrectable : Bool) : State :=
  let key := memKey q.skew q.pa
  match q.write with
  | none => if uncorrectable then poisonSector s 0 q.skew q.pa else s
  | some v =>
    if (writeTrouble s q.skew q.pa).isSome then s else storeMem s q.part 4096 q.pa key (toLe v.toNat 8)

/-- A request that reaches its channel (R415). -/
def State.reach (s : State) (q : ChanReq) : State :=
  match s.fateOf q with
  | .served => s.performReq q s.arg.flag
  | .dropped => s
  | .stalled => { s with chanReqs := s.chanReqs ++ [q] }
  | .bounced => { s with chanReqs := s.chanReqs ++ [{ q with bounced := true }] }

/-! ### Time slots (R140, R141) -/

/-- The channel that performs a request, 32*stack + channel: of its route, or of the old home to which a line that is not
yet Done sends it (R141, R415). -/
def State.chanOfReq (s : State) (q : ChanReq) : Nat :=
  32 * (if q.oldPhase then entStack (s.routeOf q) else homeStack s q.skew q.pa) + chanOf q.pa

/-- A request that waits for a time slot of its channel: it has not bounced, and its line is not Copying (R141, R415). -/
def State.waitsForSlot (s : State) (k : Nat) (q : ChanReq) : Bool :=
  !q.bounced && s.chanOfReq q == k && decide (s.fateOf q ≠ .stalled)

/-- The partition whose requests a partition slot serves (R141): its owner, or where the owner has nothing pending and the
slot is donated, the next partition in turn that has. -/
def State.slotServes (s : State) (k : Nat) (e : Byte) : Option Nat :=
  let pending := fun (p : Nat) => s.chanReqs.any (fun q => q.part == p && s.waitsForSlot k q)
  let owner := e.toNat % 16
  if pending owner then some owner
  else if e.getLsbD 4 then
    ((List.range 16).map (fun j => (look 0 s.donated k + 1 + j) % 16)).find? pending
  else none

/-- The requests of a partition that wait for a channel are performed, in the order in which they arrived (R141). -/
def State.serveSlot (s : State) (k p : Nat) : State :=
  let mine := fun (q : ChanReq) => q.part == p && s.waitsForSlot k q
  (s.chanReqs.filter mine).foldl State.reach { s with chanReqs := s.chanReqs.filter (fun q => !mine q) }

/-- A partition slot begins on a channel (R141). -/
def State.partSlot (s : State) (k : Nat) (e : Byte) : State :=
  match s.slotServes k e with
  | none => s
  | some p =>
    let t := { s with serving := put s.serving k (s.now / 32, p) }
    let t := if p = e.toNat % 16 then t else { t with donated := put t.donated k p }
    t.serveSlot k p

/-- TIME_SLOT_START (R140, R141, R321, R414): on channel `index` of stack `unit`, the time slot in which the tick lies
begins. -/
def execTimeSlotStart (s : State) : Res' :=
  let x := s.arg.unit
  let ch := s.arg.index
  let slot := s.now % 2048 / 32
  let e := s.slotByte (x * 2048 + ch * 64 + slot)
  let kind := e.toNat / 32 % 4
  let s := s.settleLines
  if 16 ≤ x ∨ 32 ≤ ch ∨ stackState s x = .dead ∨ stackState s x = .retired ∨ s.mute.contains x then .next s
  else if kind = 0 then
    .next (if (look (0, 0) s.serving (32 * x + ch)).1 = s.now / 32 ∧ s.serving.any (fun p => p.1 == 32 * x + ch) then s
      else s.partSlot (32 * x + ch) e)
  else
    match s.retire with
    | some r => .next (if r.stack = x ∧ kind = 2 then s.remapTurn r ch slot else s)
    | none => .next (if kind = 2 then s.fullerTurn x ch else s)

/-- A request of a port reaches its channel (R141, R415, R419): the second tier, a dead stack and a slot that serves its
partition answer at once; else it waits. -/
def State.reqArrives (s : State) (q : ChanReq) : State :=
  let k := s.chanOfReq q
  if 0x10000000000 ≤ q.pa ∨ s.fateOf q = .dropped ∨ s.fateOf q = .bounced ∨
      (s.serving.any (fun e => e.1 == k && e.2 == (s.now / 32, q.part)) && !s.mute.contains (k / 32)) then s.reach q
  else { s with chanReqs := s.chanReqs ++ [q] }

/-- CHANNEL_REQUEST (R141, R415): the request of a port for the doubleword at `addr` under skew `unit`, routed under phase
`index`, a read or a write of `words`, of partition `value`.  Where `list` is not empty the stack no
longer answers, and the request, like every later one, waits (R419). -/
def execChannelRequest (s : State) : Res' :=
  let a := s.arg
  let s := s.settleLines
  let q0 : ChanReq := { pa := a.addr / 8 * 8, skew := a.unit, oldPhase := a.index != s.mpn.toNat, write := a.words.head?,
                        part := a.value.toNat % 16, bounced := false, since := 0 }
  let k := s.chanOfReq q0
  let q := { q0 with since := s.cycles (homeDie (k / 32) (k % 32)) }
  if !s.inMemory q.pa && !decide (q.pa < hbmTop) || 3 ≤ q.skew then .next s
  else if q.oldPhase && (s.retire.isNone || BitVec.ofNat 16 a.index + 1 != s.mpn) then .next s
  else if a.list.isEmpty then .next (s.reqArrives q)
  else .next { s with chanReqs := s.chanReqs ++ [q],
                      mute := if q.pa < hbmTop then setIns s.mute (k / 32) else s.mute }

/-- BOUNCE_RECEIVED (R415, R416): the bounced requests that `list` names are sent again under the new phase, in one
packet. -/
def execBounceReceived (s : State) : Res' :=
  let l := (List.range s.chanReqs.length).filter (fun k => s.arg.list.contains k &&
    (match s.chanReqs[k]? with
     | some q => q.bounced
     | none => false))
  let rest := (List.range s.chanReqs.length).filter (fun k => !l.contains k)
  let get := fun (k : Nat) => (s.chanReqs[k]?).toList
  let t := { s with chanReqs := rest.flatMap get }
  .next ((l.flatMap get).foldl (fun t q => t.reqArrives { q with oldPhase := false, bounced := false }) t)

/-- STACK_ANSWER_TIMEOUT (R419): the request at position `index` has waited 20,000 cycles of its home die: a read returns poison, a write
is dropped. -/
def execStackAnswerTimeout (s : State) : Res' :=
  let k := s.arg.index
  match s.chanReqs[k]? with
  | none => .next s
  | some q =>
    let c := s.chanOfReq q
    if q.since + 20000 * 3300 ≤ s.cycles (homeDie (c / 32) (c % 32)) then .next { s with chanReqs := s.chanReqs.take k ++ s.chanReqs.drop (k + 1) }
    else .next s

/-! ### Retirement and death (R318, R414, R418-R420) -/

/-- STACK_RETIREMENT_START (R414, R420): of stack `unit`; where none can start, a healthy stack is failing and not
evacuable. -/
def execStackRetirementStart (s : State) : Res' :=
  .next (s.retireStack s.arg.unit)

/-- An entry once its move is over (R316, R418). -/
def settledEntry (e : BitVec 32) : BitVec 32 := mkEntry (entStack e) (entFrame e) (entStack e) (entFrame e) false

/-- No vector access under way has packets of the old phase (R416, R418). -/
def State.packetsNew (s : State) : Bool :=
  s.ctxs.all (fun e => match e.2.elemCap with
    | some k => k.mpn == s.mpn
    | none => true)

/-- RETIREMENT_END (R418): every moving line is Done and no request of the old phase is left. -/
def execRetirementEnd (s : State) : Res' :=
  let s := s.settleLines
  match s.retire with
  | none => .next s
  | some r =>
    if (List.range 32).all (fun ch => movingLines ≤ look 0 r.pos ch) ∧ s.chanReqs.all (fun q => !q.oldPhase) ∧ s.packetsNew then
      let cur := s.slotCur.map (fun e => (e.1, settledEntry e.2))
      let x := r.stack
      let t := { s with
        slotCur := cur
        slotPrev := cur
        retire := none
        quar := s.quar.filter (fun q => q.1 / 32 != x)
        stored := { s.stored with retired := setIns s.stored.retired x } }
      let t := if stackState s x = .dead then t else t.setStack x .retired
      .next (scrivener t 5 0xFF x 0 [s.mpn.toNat])
    else .next s

/-- The bulk marks of a dead stack's moving slots: the lines that are not Done (R419). -/
def State.undoneMarks (s : State) (r : Retire) : List Bulk :=
  ((List.range 240).filter (fun t => entMv (slotEntry s t))).map (fun t =>
    { slot := t
      upto := (List.range 32).map (fun ch =>
        (ch, min frameLines (look 0 r.pos ch - movingRank s t * frameLines)))
      cleared := [], stuck := false })

/-- The quarantines of a dead stack's regions at the new homes of their moving lines: only PCLEAR removes one (R407, R417). -/
def State.movedQuar (s : State) (r : Retire) : List (Nat × Nat) :=
  (s.quar.filter (fun q => q.1 / 32 == r.stack)).flatMap (fun q =>
    ((List.range 64).map (64 * q.2 + ·)).filterMap (fun line =>
      let e := slotEntry s (line % 240)
      if line / 240 % 32 = q.1 % 32 ∧ entMv e then some (32 * entStack e + q.1 % 32, q.2) else none))

/-- The undone lines of a dead stack go to Done with bulk marks (R419). -/
def State.dieMoving (s : State) (r : Retire) : State :=
  { s with
    quar := (s.quar ++ s.movedQuar r).eraseDups
    bulk := s.bulk ++ s.undoneMarks r
    retire := some { r with pos := (List.range 32).map (fun ch => (ch, movingLines)), copying := [] } }

/-- The slots of a dead stack are marked where they stand (R420). -/
def State.dieInPlace (s : State) (x : Nat) : State :=
  let t := { s with
    bulk := s.bulk ++ (s.slotsOn x).map (fun n => ({ slot := n, upto := [], cleared := [], stuck := true } : Bulk))
    stored := { s.stored with deadInPlace := setIns s.stored.deadInPlace x } }.setStack x .dead
  { t with capg := t.capacity }

/-- STACK_DEAD (R419, R420): firmware finds stack `unit` dead. -/
def execStackDead (s : State) : Res' :=
  let x := s.arg.unit
  let s := { s.settleLines with mute := s.mute.filter (· != x) }
  let note := fun (t : State) => Host.Outcome.next (scrivener t 6 0xFF x 0 [t.mpn.toNat])
  if 16 ≤ x ∨ stackState s x = .dead ∨ stackState s x = .retired then .next s
  else if s.mayRetire x then
    let t := s.startRetirement x .dead
    match t.retire with
    | some r => note (t.dieMoving r)
    | none => .next s
  else
    match s.retire with
    | some r => if r.stack = x then note ((s.setStack x .dead).dieMoving r) else note (s.dieInPlace x)
    | none => note (s.dieInPlace x)

/-! ### Cache ways (R436) -/

/-- What a way of a cache holds leaves it: from an L1 the copies, from an L2 slice its sectors, the dirty ones written back
(R436). -/
def State.emptyWay (s : State) (l2 : Bool) (n way : Nat) : State :=
  if l2 then (s.l2.filter (fun e => e.home == n && e.way == way)).foldl (fun t e => t.evictSector 2048 e) s
  else { s with l1 := s.l1.filter (fun e => !(e.core == n && e.way == way)) }

/-- WAY_RETIREMENT (R436): in cluster `unit`, way `addr` of the L1 of core `index`, or with `flag` of L2 slice `index`: what
it holds leaves, and the spare takes its place, or with none left the way is out of service. -/
def execWayRetirement (s : State) : Res' :=
  let cl := s.arg.unit
  let n := s.arg.index
  let way := s.arg.addr
  let k := s.cluster cl
  let id := if s.arg.flag then 8 * cl + n else coreOf cl n
  let unit := if s.arg.flag then l2Unit id way else l1Unit id way
  if 32 ≤ cl ∨ (if s.arg.flag then 8 else 16) ≤ n ∨ 12 ≤ way ∨ k.waysOut.contains unit then .next s
  else
    let used := if s.arg.flag then k.l2Spares / 2 ^ n % 2 = 1 else k.l1Spares / 2 ^ n % 2 = 1
    let k' := if used then { k with waysGated := k.waysGated + 1, waysOut := setIns k.waysOut unit }
      else if s.arg.flag then { k with l2Spares := k.l2Spares + 2 ^ n } else { k with l1Spares := k.l1Spares + 2 ^ n }
    let core := if s.arg.flag then coreOf cl 0 else coreOf cl n
    let t := (s.emptyWay s.arg.flag id way).setCluster cl k'
    .next (scrivener t 0x14 0xFF (core / 32 + core % 32 * 0x100 + cl * 0x10000) 0 [bit (!decide used)])

end Sys2Proof.Machine
end

