-- ==== Sys2Proof/Machine/EvReset.lean ====
section
/-!
DEFINITION. Cold and warm reset (R332, R344, R345, R420, R422, R436, R437) and the disposition record (R199).
-/

namespace Sys2Proof.Machine

/-! ### The image applied (R317, R318, R333, R420) -/

/-- A slot table that has had a stack retired (R318). -/
def State.withRetired (s : State) (x : Nat) : State :=
  let t : Table (BitVec 32) := (s.moveTable x).map (fun (e : Nat × BitVec 32) => (e.1, settledEntry e.2))
  { s with slotCur := t, slotPrev := t }.setStack x .retired

/-- The cluster of a cache way by its unit number. -/
def unitCluster (u : Nat) : Nat := if u < 0x40000 then clusterOf ((u - 0x30000) / 16) else (u - 0x40000) / 128

/-- A cluster under an image's spare maps (R86, R333, R436, R437). -/
def imageCluster (i : CfgImage) (cl : Nat) : Cluster :=
  { Cluster.reset with
    missing := (i.missingLanes.filter (fun p => p.1 == cl)).map (·.2)
    spares := 32 - look 0 i.sparesUsed cl
    missingCores := i.missingCores.filter (fun k => clusterOf k == cl)
    spareCore := i.spareCores.contains cl
    l1Spares := look 0 i.l1Ways cl
    l2Spares := look 0 i.l2Ways cl
    waysOut := i.waysOut.filter (fun u => unitCluster u == cl)
    waysGated := (i.waysOut.filter (fun u => unitCluster u == cl)).length }

/-- The port directions under an image's spare map of link lanes (R333, R344, R430). -/
def imagePorts (i : CfgImage) : Table LinkDir :=
  (i.linkSpares.filter (· < 24)).map (fun k => (k, { LinkDir.reset with spareUsed := true }))

/-- The built-in test finds a core bad: its cluster's spare takes its place, or it is missing (R436, R437). -/
def State.coreFails (s : State) (core : Nat) : State :=
  let cl := clusterOf core
  let k := s.cluster cl
  let t := if k.spareCore then s.setCluster cl { k with missingCores := setIns k.missingCores core }
    else s.setCluster cl { k with spareCore := true }
  scrivener t 0x13 0xFF (core / 32 + core % 32 * 0x100 + cl * 0x10000) 0 [bit (!k.spareCore)]

/-- The trap registers at reset under a partition definition (R370). -/
def partCtx (d : PartDef) : Ctx :=
  { Ctx.reset with st := { TrapRegs.reset with vec := d.stvec &&& ~~~3 }, ft := { TrapRegs.reset with vec := d.ftvec &&& ~~~3 } }

/-- The contexts at reset: those of a core that a partition definition holds have its handler addresses (R344, R370). -/
def imageCtxs (i : CfgImage) : Table Ctx :=
  if i.parts.all (fun d => partCtx d = Ctx.reset) then []
  else (List.range 2048).filterMap (fun c =>
    match i.parts.find? (fun d => inRect d.cores (c / 4)) with
    | some d => if partCtx d = Ctx.reset then none else some (c, partCtx d)
    | none => none)

/-- The stacks as an image has them, loaded at a cold reset (R318, R319, R420). -/
def State.loadStacks (s : State) (i : CfgImage) : State :=
  let s := i.retired.foldl State.withRetired s
  let s := i.deadInPlace.foldl (fun s x =>
    { s with bulk := s.bulk ++
        (s.slotsOn x).map (fun n => ({ slot := n, upto := [], cleared := [], stuck := true } : Bulk)) }.setStack x .dead) s
  { s with capg := s.capacity }

/-- What every reset keeps: who moves next, and what the module has sent. -/
def State.keepModel (s : State) (t : State) : State :=
  { t with agenda := s.agenda, arg := s.arg, cur := s.cur, curMt := s.curMt, rr := s.rr, freeN := s.freeN, out := s.out,
           stored := s.stored }

/-- The identity that enumeration gives (R35, R344): module identifier and member slot. -/
def State.enumerate (s : State) : State :=
  { s with modId := BitVec.ofNat 20 s.arg.addr, memberId := BitVec.ofNat 10 s.arg.index }

/-- COLD_RESET (R332, R344): with `flag` the firmware or the image fails its verification, and the module stays in its
recovery state, its memory neither trained nor cleared; else the stored image takes effect.  `addr` and `index` are the
identity that enumeration gives, `list` the cores whose built-in test fails. -/
def execColdReset (s : State) : Res' :=
  if s.arg.flag then .next { s.keepModel .reset with recovery := true, mem := s.mem, synd := s.synd }
  else
    let t := s.keepModel { State.reset with
      img := s.stored
      ctxs := imageCtxs s.stored
      ports := imagePorts s.stored
      power := s.stored.shares
      clusters := (List.range 32).map (fun cl => (cl, imageCluster s.stored cl)) }
    .next (((s.arg.list.filter (· < 512)).foldl State.coreFails (t.loadStacks s.stored)).enumerate)

/-- A cluster after a warm reset: what has been retired stays out (R345, R436; log 50). -/
def Cluster.warm (k : Cluster) : Cluster :=
  { Cluster.reset with
    missing := k.missing, spares := k.spares, missingCores := k.missingCores, spareCore := k.spareCore,
    l1Spares := k.l1Spares, l2Spares := k.l2Spares, waysGated := k.waysGated, waysOut := k.waysOut, retired := k.retired, silent := k.silent, frame := k.frame }

/-- The key of a byte of HBM4 or the second tier, under any skew. -/
def memoryKey (k : Nat) : Bool := decide (k < 0x200000000000000) && decide (k % 0x10000000000000 < 0x25000000000)

/-- WARM_RESET (R345): memory, a retirement, the time base, the module's identity (R35) and the Scrivener are kept; what was
Copying is Pending again, and requests in flight are lost. -/
def execWarmReset (s : State) : Res' :=
  let s := s.settleLines
  let t := s.keepModel { State.reset with
    now := s.now
    clockBase := (List.range 8).map (fun d => (d, (s.now, s.cycles d)))
    aged := s.aged
    modId := s.modId
    memberId := s.memberId
    ports := imagePorts s.img
    power := s.img.shares
    img := s.img
    ctxs := imageCtxs s.img
    clusters := (List.range 32).map (fun cl => (cl, (s.cluster cl).warm))
    mem := s.mem.filter (fun c => memoryKey c.1)
    synd := s.synd.filter (fun e => memoryKey e.1)
    bad := s.bad
    poison := s.poison
    quar := s.quar
    quarChan := s.quarChan
    bulk := s.bulk
    wlog := s.wlog
    slotCur := s.slotCur
    slotPrev := s.slotPrev
    mpn := s.mpn
    capg := s.capg
    stackSt := s.stackSt
    retire := s.retire.map (fun r => { r with copying := [] })
    fuller := s.fuller
    mute := s.mute
    scriv := s.scriv
    scrivNext := s.scrivNext
    recovery := s.arg.flag }
  if s.arg.flag then .next t
  else .next ((s.arg.list.filter (· < 512)).foldl State.coreFails t)

/-! ### The disposition record (R199) -/

/-- A core is taken out of service (R199, R437): its gangs are stopped and saved as at a pre-emption, or withdrawn where
no save region holds them, and it is missing from then on. -/
def State.coreOut (s : State) (core : Nat) : State :=
  let cl := clusterOf core
  let live := [0, 1, 2, 3].filter (fun n => s.runsFor (4 * core + n) (s.ctx (4 * core + n)).recIdx.toNat)
  let gangs := (live.map (fun n => (s.ctx (4 * core + n)).recIdx.toNat)).dedup
  let s := s.setCluster cl { s.cluster cl with missingCores := setIns (s.cluster cl).missingCores core }
  let s := scrivener s 0x13 0xFF (core / 32 + core % 32 * 0x100 + cl * 0x10000) 0 [0]
  gangs.foldl (fun s r =>
    let g := s.lrec r
    if g.stopping.isSome then s
    else if s.imagesFit r then
      s.setRec r { g with stopping := some (false, 17) }
    else s.withdraw r) s

/-- DISPOSITION_SET (R199): bit `index` of the record in the stored image, for a lane `addr` of cluster `unit` (bits 0-2) or
the core `unit` (bits 3 and 4) that holds the failed unit. -/
def execDispositionSet (s : State) : Res' :=
  let b := s.arg.index
  let t := { s with stored := { s.stored with disposition := s.stored.disposition ||| BitVec.ofNat 5 (2 ^ b) } }
  if b < 3 then
    let cl := s.arg.unit
    let k := s.cluster cl
    if cl < 32 ∧ s.arg.addr < 512 then
      .next (if k.missing.contains s.arg.addr then t
        else (t.setCluster cl { k with retiring := setIns k.retiring s.arg.addr }).poolStep cl)
    else .next s
  else if b < 5 ∧ s.arg.unit < 512 then .next (t.coreOut s.arg.unit)
  else .next s

end Sys2Proof.Machine
end

