-- ==== Sys2Proof/Machine/Agents.lean ====
section
/-!
DEFINITION. A turn of each agent: what the next entry of the agenda does (R30, R40, R133, R140, R145, R146, R170, R173, R323,
R330, R387, R391; log 1).
A turn ends in a state, or performs an instruction on one.
-/

namespace Sys2Proof.Machine

/-- What a turn comes to. -/
inductive Turn where
  | done (s : State)
  | run (i : Instr) (s : State)

/-! ### Control threads (R30, R387, R396) -/

/-- The gang of a context is being stopped, and the context stands at App, or at any level where its gang is to be discarded
(R380, R381, R427, R435). -/
def State.halted (s : State) (c : Nat) : Bool :=
  (decide ((s.ctx c).level = .app) && ((s.gang c).stopping.isSome || (s.gang c).trigger)) || (s.discarding c && (s.ctx c).emu.isNone)

/-- The context may issue: it is READY, or parked before its instruction has begun. -/
def Ctx.mayIssue (x : Ctx) : Bool :=
  match x.run with
  | .active => true
  | .parked .again => true
  | _ => false

/-- A context issues the word at its pc; a word that its stream does not define raises the illegal-instruction cause
(R195, R396). -/
def State.issueWord (s : State) (c : Nat) : Turn :=
  match s.fetch c (s.ctx c).pc with
  | (.error (some e), t) => .done (t.trapAt c (t.ctx c).pc e)
  | (.error none, t) => .done t
  | (.ok w, t) =>
    let r := (t.ctx c).recIdx.toNat
    let t := if (t.lrec r).fresh then t.setRec r { t.lrec r with fresh := false } else t
    let t := t.setCtx c { t.ctx c with run := .active }
    match decodeC w with
    | .error _ => .done (t.trapAt c (t.ctx c).pc { cause := 0x01, val := w.setWidth 64 })
    | .ok i => .run i { t with cur := c }

/-- The turn of a context: a pending event in the order of R387, else the next instruction. -/
def State.issueTurn (s : State) (c : Nat) : Turn :=
  let named := { s with arg := { StepArg.zero with unit := c } }
  if s.tripReady c then .run .emulationTrip named
  else if s.postReady c then .run .postedStoreFault named
  else if s.promptReady c then .run .promptTrap named
  else if s.halted c || !(s.ctx c).mayIssue then .done s
  else s.issueWord c

/-- The next context in turn that may issue (R30). -/
def State.nextCtx (s : State) : Option Nat :=
  let l := (s.ctxs.filter (fun e => e.2.mayIssue)).map (·.1)
  match l.find? (fun c => s.rr < c) with
  | some c => some c
  | none => l.head?

/-- With nothing on the agenda a tick passes and the contexts that may issue take turns (log 1). -/
def State.idleTurn (s : State) : Turn :=
  let t := { s with now := s.now + 1 }
  match t.nextCtx with
  | none => .done t
  | some c => { t with rr := c }.issueTurn c

/-! ### Micro-threads (R40) -/

/-- The turn of a micro-thread: the next word of its block, or the block's commit. -/
def State.wordTurn (s : State) (c i : Nat) : Turn :=
  match (s.mt c i).blk with
  | none => .done s
  | some b =>
    match b.words[b.pos]? with
    | none => .run .blockCommit { s with arg := { StepArg.zero with unit := c, index := i } }
    | some w =>
      match decodeW w with
      | .ok j => .run j { s with cur := c, curMt := i }
      | .error _ => .done s

/-! ### Caches and TLBs (R133, R146, R173) -/

/-- The translation of a code address that needs no walk: the resident table's, or that of a TLB entry which serves a
fetch (R133, R136). -/
def State.codeTr (s : State) (c : Nat) (va : Word) : Option Tr :=
  let w := s.who c
  if inVector va then s.vecTr (clusterOfCtx c) (s.ctx c).vspace.toNat w.level va .x
  else ((s.tlbHit w va).filter (fun e => tlbServes e w.level .x)).map (fun e => leafTr e.leaf va (e.bits == 16))

/-- A sector of code is filled ahead of its fetch: it is read at its home slice, at the context's charge (R146, R173). -/
def State.fillCode (s : State) (w : Who) (t : Tr) (va : Word) (take : State → State) : State :=
  if t.attr ≠ 2 ∧ (s.codeLine w t va).isSome ∧ !s.stalls t then
    take (s.served w t (sectorOf (memKey t.skew t.pa)) (.load 4))
  else s

/-- A core's instruction cache takes the sector of an address of a context. -/
def State.fillI (s : State) (c : Nat) (va : Word) : State :=
  let w := { s.who c with kind := 10, l1 := false }
  match s.codeTr c va with
  | some t => if t.attr = 0 then s.fillCode w t va (fun s => s.takeI w t va) else s
  | none => s

/-- A context's fetch buffer takes the sector of an address (R173, R396). -/
def State.fillF (s : State) (c : Nat) (va : Word) : State :=
  let w := { s.who c with kind := 10, l1 := false }
  match s.codeTr c va with
  | some t => s.fillCode w t va (fun s => s.takeF c w t va)
  | none => s

/-- The block cache of a context's cluster takes the sector of an address of its crew. -/
def State.fillB (s : State) (c : Nat) (va : Word) : State :=
  match s.codePlace c va with
  | some t => if t.attr ≠ 0 then s else s.fillCode (s.blockWho c) t va (fun s => s.takeB (clusterOfCtx c) (s.blockWho c) t va)
  | none => s

/-- A context's translation of a page enters the TLBs of its core ahead of an access: by a walk, whose reads are charged, or
from its cluster's resident table (R133, R146). -/
def State.fillT (s : State) (c : Nat) (va : Word) : State :=
  let w := s.who c
  if inVector va then (if (s.vecEnt w va).leaf.getLsbD 0 then s.enterTlb (s.vecEnt w va) else s)
  else
    let (r, seen) := s.walk w va
    if seen.any (fun pa => s.stalls { pa := pa, skew := 0, attr := 0 }) then s
    else
      let t := seen.foldl (fun s pa => s.touch w.c (homeOf s 32 0 pa) (sectorOf (memKey 0 pa)) false) s
      match r with
      | .leaf e pa =>
        let bits := if (s.pageEntries va e pa).length = 16 then 16 else 12
        if (s.siblingBad va e pa).isSome then t
        else t.enterTlb { core := w.core, page := va.toNat / 2 ^ bits, bits := bits, vector := false,
                          root := (s.ctx c).ptroot, leaf := e, first := true }
      | _ => t

/-- A fill of a context evicts a sector from its home slice (R146); a dirty one whose line is Copying stalls (R415). -/
def State.evict (s : State) (c sector : Nat) : State :=
  if s.copyingAt 0 (sector * 256 % 0x10000000000000) then s
  else
  match s.l2.find? (fun e => e.sector == sector) with
  | none => s
  | some e => s.evictSector c e

/-! ### Gated units (R145) -/

/-- A unit's storage, by key and length: none for a cache way. -/
def unitRange (u : Nat) : Option (Nat × Nat) :=
  if u < 0x1000 then some (localKey (u / 8) (u % 8 * 0x8000), 0x8000)
  else if 0x10000 ≤ u ∧ u < 0x20000 then
    some (scratchKey ((u - 0x10000) / 4 / 512) ((u - 0x10000) / 4 % 512) + u % 4 * 0x4000, 0x4000)
  else if 0x20000 ≤ u ∧ u < 0x24000 then some (tileKey ((u - 0x20000) / 512) (u % 512), 0x6000)
  else none

/-- Storage that holds only zeros with right checks. -/
def State.blank (s : State) (k n : Nat) : Bool :=
  !s.mem.any (fun c => decide (k ≤ c.1) && decide (c.1 < k + n)) && !s.synd.any (fun e => k ≤ e.1 && e.1 < k + n)

/-- A unit that nothing uses (R145): a bank of local memory that holds nothing, a scratchpad bank of a lane that no crew
holds, an operand slot that none has claimed, or a way of a cache (DESIGN CHOICE, log 55). -/
def State.unitIdle (s : State) (u : Nat) : Bool :=
  if u < 0x1000 then s.blank (localKey (u / 8) (u % 8 * 0x8000)) 0x8000
  else if 0x10000 ≤ u ∧ u < 0x20000 then s.laneFree ((u - 0x10000) / 4 / 512) ((u - 0x10000) / 4 % 512)
  else if 0x20000 ≤ u ∧ u < 0x24000 then s.slotFree ((u - 0x20000) / 512) (u % 512)
  else (decide (0x30000 ≤ u) && decide (u < 0x32000) && decide (u % 16 < 12)) ||
    (decide (0x40000 ≤ u) && decide (u < 0x41000) && decide (u % 16 < 12))

/-- A unit that nothing uses is gated: it will wake zero, a way of a cache with every line invalid once its dirty sectors
are written back (R145). -/
def State.gate (s : State) (u : Nat) : State :=
  if !s.unitIdle u ∨ s.asleep.any (fun e => e.1 == u) then s
  else
    let t := if u < 0x30000 then
        (match unitRange u with
         | some (k, n) => clearRange s k n
         | none => s)
      else if u < 0x40000 then s.emptyWay false ((u - 0x30000) / 16) (u % 16)
      else s.emptyWay true ((u - 0x40000) / 16) (u % 16)
    let t := if 0x20000 ≤ u ∧ u < 0x24000 then clearRange t (planeKey ((u - 0x20000) / 512) (u % 512)) 0x100 else t
    { t with asleep := put t.asleep u none }

/-! ### Firmware (R140, R330, R336) -/

/-- Firmware writes an entry of a time-slot table, unless it is or would become that of a partition whose interface is
locked (R140, R336). -/
def State.setSlot (s : State) (key : Nat) (b : Byte) : State :=
  let owner := fun (e : Byte) => decide (e.toNat / 32 % 4 = 0) && s.frozen (e.toNat % 16)
  if 0x8000 ≤ key ∨ owner (s.slotByte key) ∨ owner b then s else { s with slotTab := put s.slotTab key b }

/-- Firmware apportions a die's share of the 3,600 W, which the shares never exceed (R25, R330). -/
def State.setShare (s : State) (die w : Nat) : State :=
  let t := { s with power := put s.power die w }
  if die < 8 ∧ ((List.range 8).map t.share).sum ≤ 3600 then t else s

/-! ### Turns -/

/-- What an entry of the agenda does. -/
def State.turn (s : State) (a : Action) : Turn :=
  match a with
  | .issue c => s.issueTurn c
  | .word c i => s.wordTurn c i
  | .event i g => .run i { s with arg := g }
  | .ticks n => .done { s with now := s.now + n }
  | .serve core => .done (s.serve core)
  | .fillI c va => .done (s.fillI c va)
  | .dropI core line => .done { s with icache := s.icache.filter (fun e => e.1 != (core, line)) }
  | .fillF c va => .done (s.fillF c va)
  | .dropF c line => .done { s with fbuf := s.fbuf.filter (fun e => e.1 != (c, line)) }
  | .fillB c va => .done (s.fillB c va)
  | .dropB cl line =>
    .done (s.setCluster cl { s.cluster cl with bcache := (s.cluster cl).bcache.filter (fun e => e.1 != line) })
  | .gate u => .done (s.gate u)
  | .slotEntry key b => .done (s.setSlot key b)
  | .hostArrive q => .done (s.hostArrive q)
  | .barRead f off => .done (s.barRead f off)
  | .share die w => .done (s.setShare die w)
  | .fillT c va => .done (s.fillT c va)
  | .dropT core va =>
    .done { s with tlb := s.tlb.filter (fun e => !(e.core == core && e.page == va.toNat / 2 ^ e.bits)) }
  | .evict c sector => .done (s.evict c sector)

/-! ### The place of a table word (log 60) -/

/-- The virtual and physical address at which `withFetchWord` puts a word. -/
def probeVa : Word := 0x60000000

/-- Context 0 READY at a word of its code. -/
def State.withCode (s : State) (w : Nat) : State :=
  let x := s.ctx 0
  let k := s.cluster 0
  let t := s.setCtx 0 { x with run := .active, pc := probeVa, codebound := probeVa + 0x10000 }
  let t := t.setCluster 0 { k with vtab := put k.vtab (vtabKey x.vspace.toNat probeVa) 0x6000001B }
  { t with mem := writeBytes t.mem (memKey 0 probeVa.toNat) (toLe w 4), synd := dropSynd t.synd (memKey 0 probeVa.toNat) 4
           agenda := [.issue 0] }

/-- Micro-thread 0 of context 0 runs a block of one word. -/
def State.withBlock (s : State) (w : Nat) : State :=
  let m := s.mt 0 0
  let x := s.ctx 0
  let b := m.start x.capture probeVa [BitVec.ofNat 32 w] 0 false
  { s.setMt 0 0 { m with state := .running, blk := some b } with agenda := [.word 0 0] }

/-- The word is one that the decoder reads for micro-threads and not for control threads. -/
def microWord (w : Nat) : Bool :=
  match decodeTableWord 32 w with
  | some i => decide (i.streamOf = .micro)
  | none => false

end Sys2Proof.Machine
end

