-- ==== Sys2Proof/Machine/Atomics.lean ====
section
/-!
DEFINITION. Atomics of control threads, class 7 (R184, R222, R223).
-/

namespace Sys2Proof.Machine

/-- An atomic of 4 or 8 bytes (R222): the old value goes to `rd`, sign-extended for .w. -/
def State.atomic (s : State) (op : Nat) (d : BitVec 1) (rd ra rb : RegNo) : Res' :=
  let n := if d = 1 then 8 else 4
  match s.access (s.rx ra) (.amo n op (s.rx rb) (s.rx rd)) (keeps := rd != 0) with
  | .value v t => t.done rd (extend n true v)
  | .waits w t => (t.setMe { t.me with loadRd := rd, loadW := n, loadSigned := true }).park w
  | a => a.other s

/-- `amoadd` (R222). -/
def execAmoadd (rd ra rb : RegNo) (d : BitVec 1) (s : State) : Res' := s.atomic 0 d rd ra rb

/-- `amoswap` (R222). -/
def execAmoswap (rd ra rb : RegNo) (d : BitVec 1) (s : State) : Res' := s.atomic 1 d rd ra rb

/-- `amocas` (R222). -/
def execAmocas (rd ra rb : RegNo) (d : BitVec 1) (s : State) : Res' := s.atomic 2 d rd ra rb

/-- `amomin` (R222). -/
def execAmomin (rd ra rb : RegNo) (d : BitVec 1) (s : State) : Res' := s.atomic 3 d rd ra rb

/-- `amomax` (R222). -/
def execAmomax (rd ra rb : RegNo) (d : BitVec 1) (s : State) : Res' := s.atomic 4 d rd ra rb

/-- `amominu` (R222). -/
def execAmominu (rd ra rb : RegNo) (d : BitVec 1) (s : State) : Res' := s.atomic 5 d rd ra rb

/-- `amomaxu` (R222). -/
def execAmomaxu (rd ra rb : RegNo) (d : BitVec 1) (s : State) : Res' := s.atomic 6 d rd ra rb

/-- `amoand` (R222). -/
def execAmoand (rd ra rb : RegNo) (d : BitVec 1) (s : State) : Res' := s.atomic 7 d rd ra rb

/-- `amoor` (R222). -/
def execAmoor (rd ra rb : RegNo) (d : BitVec 1) (s : State) : Res' := s.atomic 8 d rd ra rb

end Sys2Proof.Machine
end

