-- ==== Sys2Proof/Machine/CsrOps.lean ====
section
/-!
DEFINITION. Status register access of control threads, class 15 (R185, R228, R229).
-/

namespace Sys2Proof.Machine

/-- The checks of R185 before any effect: an index that names no register, then a register closed to the level. -/
def State.csrGuard (s : State) (i : Instr) (idx : BitVec 12) (ok : Res') : Res' :=
  match csrFault s.me.level idx.toNat with
  | some k => raise s k (wordVal (encode i))
  | none => ok

/-- A status register written (R228, R185): `tlbinv` invalidates (R133), `step`.xch opens the exchange phase and the
window writes that wait for the context are applied (R49). -/
def State.csrPut (s : State) (idx : Nat) (v : Word) : State :=
  if idx = 0x101 then s.tlbInvalidate (s.cur / 4) v
  else (s.setMe (s.me.csrWrite (s.me.level != .app) idx v)).drainBuf

/-- `csrr` (R228). -/
def execCsrr (rd : RegNo) (idx : BitVec 12) (s : State) : Res' :=
  s.csrGuard (.csrr rd idx) idx (s.done rd (s.csr s.cur idx.toNat))

/-- `csrw` (R228). -/
def execCsrw (ra : RegNo) (idx : BitVec 12) (s : State) : Res' :=
  s.csrGuard (.csrw ra idx) idx (.next (s.csrPut idx.toNat (s.rx ra)).next)

/-- `csrs` (R228): one read-modify-write. -/
def execCsrs (ra : RegNo) (idx : BitVec 12) (s : State) : Res' :=
  s.csrGuard (.csrs ra idx) idx (.next (s.csrPut idx.toNat (s.csr s.cur idx.toNat ||| s.rx ra)).next)

/-- `csrc` (R228): one read-modify-write. -/
def execCsrc (ra : RegNo) (idx : BitVec 12) (s : State) : Res' :=
  s.csrGuard (.csrc ra idx) idx (.next (s.csrPut idx.toNat (s.csr s.cur idx.toNat &&& ~~~(s.rx ra))).next)

end Sys2Proof.Machine
end

