-- ==== Sys2Proof/Machine/IntAlu.lean ====
section
/-!
DEFINITION. Integer register and immediate operations of control threads, classes 1 and 2 with `lui` and `auipc`
(R179, R180, R210, R211).  They write `rd` and advance the pc; they set no flag.
-/

namespace Sys2Proof.Machine

/-- `add` (R210). -/
def execAdd (rd ra rb : RegNo) (s : State) : Res' := s.done rd (s.rx ra + s.rx rb)

/-- `sub` (R210). -/
def execSub (rd ra rb : RegNo) (s : State) : Res' := s.done rd (s.rx ra - s.rx rb)

/-- `and` (R210). -/
def execAnd (rd ra rb : RegNo) (s : State) : Res' := s.done rd (s.rx ra &&& s.rx rb)

/-- `or` (R210). -/
def execOr (rd ra rb : RegNo) (s : State) : Res' := s.done rd (s.rx ra ||| s.rx rb)

/-- `xor` (R210). -/
def execXor (rd ra rb : RegNo) (s : State) : Res' := s.done rd (s.rx ra ^^^ s.rx rb)

/-- `andn` (R210). -/
def execAndn (rd ra rb : RegNo) (s : State) : Res' := s.done rd (s.rx ra &&& ~~~s.rx rb)

/-- `orn` (R210). -/
def execOrn (rd ra rb : RegNo) (s : State) : Res' := s.done rd (s.rx ra ||| ~~~s.rx rb)

/-- `xnor` (R210). -/
def execXnor (rd ra rb : RegNo) (s : State) : Res' := s.done rd (~~~(s.rx ra ^^^ s.rx rb))

/-- `sll` (R210). -/
def execSll (rd ra rb : RegNo) (s : State) : Res' := s.done rd (s.rx ra <<< ((s.rx rb).toNat % 64))

/-- `srl` (R210). -/
def execSrl (rd ra rb : RegNo) (s : State) : Res' := s.done rd (s.rx ra >>> ((s.rx rb).toNat % 64))

/-- `sra` (R210). -/
def execSra (rd ra rb : RegNo) (s : State) : Res' := s.done rd ((s.rx ra).sshiftRight ((s.rx rb).toNat % 64))

/-- `rol` (R210). -/
def execRol (rd ra rb : RegNo) (s : State) : Res' := s.done rd ((s.rx ra).rotateLeft ((s.rx rb).toNat % 64))

/-- `ror` (R210). -/
def execRor (rd ra rb : RegNo) (s : State) : Res' := s.done rd ((s.rx ra).rotateRight ((s.rx rb).toNat % 64))

/-- `slt` (R210). -/
def execSlt (rd ra rb : RegNo) (s : State) : Res' := s.done rd (flagWord ((s.rx ra).slt (s.rx rb)))

/-- `sltu` (R210). -/
def execSltu (rd ra rb : RegNo) (s : State) : Res' := s.done rd (flagWord ((s.rx ra).ult (s.rx rb)))

/-- `seq` (R210). -/
def execSeq (rd ra rb : RegNo) (s : State) : Res' := s.done rd (flagWord (s.rx ra == s.rx rb))

/-- `sne` (R210). -/
def execSne (rd ra rb : RegNo) (s : State) : Res' := s.done rd (flagWord (s.rx ra != s.rx rb))

/-- `min` (R210). -/
def execMin (rd ra rb : RegNo) (s : State) : Res' := s.done rd (smin (s.rx ra) (s.rx rb))

/-- `max` (R210). -/
def execMax (rd ra rb : RegNo) (s : State) : Res' := s.done rd (smax (s.rx ra) (s.rx rb))

/-- `minu` (R210). -/
def execMinu (rd ra rb : RegNo) (s : State) : Res' := s.done rd (umin (s.rx ra) (s.rx rb))

/-- `maxu` (R210). -/
def execMaxu (rd ra rb : RegNo) (s : State) : Res' := s.done rd (umax (s.rx ra) (s.rx rb))

/-- `clz` (R210). -/
def execClz (rd ra : RegNo) (s : State) : Res' := s.done rd (BitVec.ofNat 64 (leadingZeros (s.rx ra) 64))

/-- `ctz` (R210). -/
def execCtz (rd ra : RegNo) (s : State) : Res' := s.done rd (BitVec.ofNat 64 (trailingZeros (s.rx ra) 64))

/-- `popc` (R210). -/
def execPopc (rd ra : RegNo) (s : State) : Res' := s.done rd (BitVec.ofNat 64 (oneBits (s.rx ra) 64))

/-- `sextb` (R210). -/
def execSextb (rd ra : RegNo) (s : State) : Res' := s.done rd (((s.rx ra).setWidth 8).signExtend 64)

/-- `sexth` (R210). -/
def execSexth (rd ra : RegNo) (s : State) : Res' := s.done rd (((s.rx ra).setWidth 16).signExtend 64)

/-- `sextw` (R210). -/
def execSextw (rd ra : RegNo) (s : State) : Res' := s.done rd (((s.rx ra).setWidth 32).signExtend 64)

/-- `addi` (R210). -/
def execAddi (rd ra : RegNo) (imm : BitVec 12) (s : State) : Res' := s.done rd (s.rx ra + sext imm)

/-- `andi` (R210). -/
def execAndi (rd ra : RegNo) (imm : BitVec 12) (s : State) : Res' := s.done rd (s.rx ra &&& sext imm)

/-- `ori` (R210). -/
def execOri (rd ra : RegNo) (imm : BitVec 12) (s : State) : Res' := s.done rd (s.rx ra ||| sext imm)

/-- `xori` (R210). -/
def execXori (rd ra : RegNo) (imm : BitVec 12) (s : State) : Res' := s.done rd (s.rx ra ^^^ sext imm)

/-- `slti` (R210). -/
def execSlti (rd ra : RegNo) (imm : BitVec 12) (s : State) : Res' := s.done rd (flagWord ((s.rx ra).slt (sext imm)))

/-- `sltiu` (R210). -/
def execSltiu (rd ra : RegNo) (imm : BitVec 12) (s : State) : Res' := s.done rd (flagWord ((s.rx ra).ult (sext imm)))

/-- `seqi` (R210). -/
def execSeqi (rd ra : RegNo) (imm : BitVec 12) (s : State) : Res' := s.done rd (flagWord (s.rx ra == sext imm))

/-- `slli` (R210). -/
def execSlli (rd ra : RegNo) (sh : BitVec 6) (s : State) : Res' := s.done rd (s.rx ra <<< sh.toNat)

/-- `srli` (R210). -/
def execSrli (rd ra : RegNo) (sh : BitVec 6) (s : State) : Res' := s.done rd (s.rx ra >>> sh.toNat)

/-- `srai` (R210). -/
def execSrai (rd ra : RegNo) (sh : BitVec 6) (s : State) : Res' := s.done rd ((s.rx ra).sshiftRight sh.toNat)

/-- `rori` (R210). -/
def execRori (rd ra : RegNo) (sh : BitVec 6) (s : State) : Res' := s.done rd ((s.rx ra).rotateRight sh.toNat)

/-- `lui` (R211). -/
def execLui (rd : RegNo) (imm : BitVec 22) (s : State) : Res' := s.done rd (sext imm <<< 12)

/-- `auipc` (R211). -/
def execAuipc (rd : RegNo) (imm : BitVec 22) (s : State) : Res' := s.done rd (s.me.pc + (sext imm <<< 12))

end Sys2Proof.Machine
end

