-- ==== Sys2Proof/Machine/MulDiv.lean ====
section
/-!
DEFINITION. Multiply and divide of control threads, class 3 (R181, R212): emulated as a class when disposition bit 3 is
set (R199, R209).  They set no flag but IZ.
-/

namespace Sys2Proof.Machine

/-- A class 3 instruction by its position in R212. -/
def State.class3 (s : State) (i : Instr) (k : Nat) (rd ra rb : RegNo) : Res' :=
  s.unitC 3 i (s.rx ra) (s.rx rb)
    ((s.orFlags (mulDiv k (s.rx ra) (s.rx rb)).2).done rd (mulDiv k (s.rx ra) (s.rx rb)).1)

/-- `mul` (R212). -/
def execMul (rd ra rb : RegNo) (s : State) : Res' := s.class3 (.mul rd ra rb) 0 rd ra rb

/-- `mulh` (R212). -/
def execMulh (rd ra rb : RegNo) (s : State) : Res' := s.class3 (.mulh rd ra rb) 1 rd ra rb

/-- `mulhu` (R212). -/
def execMulhu (rd ra rb : RegNo) (s : State) : Res' := s.class3 (.mulhu rd ra rb) 2 rd ra rb

/-- `mulhsu` (R212). -/
def execMulhsu (rd ra rb : RegNo) (s : State) : Res' := s.class3 (.mulhsu rd ra rb) 3 rd ra rb

/-- `div` (R212). -/
def execDiv (rd ra rb : RegNo) (s : State) : Res' := s.class3 (.div rd ra rb) 4 rd ra rb

/-- `divu` (R212). -/
def execDivu (rd ra rb : RegNo) (s : State) : Res' := s.class3 (.divu rd ra rb) 5 rd ra rb

/-- `rem` (R212). -/
def execRem (rd ra rb : RegNo) (s : State) : Res' := s.class3 (.rem rd ra rb) 6 rd ra rb

/-- `remu` (R212). -/
def execRemu (rd ra rb : RegNo) (s : State) : Res' := s.class3 (.remu rd ra rb) 7 rd ra rb

end Sys2Proof.Machine
end

