-- ==== Sys2Proof/Machine/ScalarFp.lean ====
section
/-!
DEFINITION. Scalar floating point of control threads, class 4 (R182, R213-R217): every rounding uses `fmode`.crm, flags
are ORed into `fflags`, nothing traps but an emulated `fdiv` or `fsqrt` (R199, R209).
-/

namespace Sys2Proof.Machine

/-- The rounding of a control thread (R102). -/
def State.crm (s : State) : Rnd := { mode := s.me.crm, draw := 0 }

/-- An instruction ends with a result and its flags. -/
def State.doneF (s : State) (rd : RegNo) (r : Word × BitVec 7) : Res' := (s.orFlags r.2).done rd r.1

/-- The operand of a scalar instruction as a code (R213). -/
def State.fx (s : State) (p : BitVec 1) (r : RegNo) : Nat := scalarBits p (s.rx r)

/-- The operand as a value. -/
def State.fv (s : State) (p : BitVec 1) (r : RegNo) : Num := (scalarFmt p).decode (s.fx p r)

/-- A fused form with the signs of its product and addend (R214). -/
def State.fused (s : State) (negP negC : Bool) (p : BitVec 1) (rd ra rb : RegNo) : Res' :=
  s.doneF rd (fpWord (fpFma (scalarFmt p) s.crm negP negC (s.fv p ra) (s.fv p rb) (s.fv p rd)))

/-- A comparison (R215). -/
def State.fcompare (s : State) (kind : Nat) (p : BitVec 1) (rd ra rb : RegNo) : Res' :=
  let r := fpCmp (scalarFmt p) kind (s.fx p ra) (s.fx p rb)
  s.doneF rd (flagWord r.1, r.2)

/-- A convert to an integer range (R107, R217). -/
def State.toInt (s : State) (lo hi : Int) (p : BitVec 1) (rd ra : RegNo) : Res' :=
  let r := fpToInt s.crm lo hi (s.fv p ra)
  s.doneF rd (BitVec.ofInt 64 r.1, r.2)

/-- A convert from an integer (R107, R217). -/
def State.fromInt (s : State) (i : Int) (p : BitVec 1) (rd : RegNo) : Res' :=
  s.doneF rd (fpWord (intToFp (scalarFmt p) s.crm i))

/-- `fadd` (R214). -/
def execFadd (rd ra rb : RegNo) (p : BitVec 1) (s : State) : Res' :=
  s.doneF rd (fpWord (fpAdd (scalarFmt p) s.crm (s.fv p ra) (s.fv p rb)))

/-- `fsub` (R214): the sum with the second operand negated. -/
def execFsub (rd ra rb : RegNo) (p : BitVec 1) (s : State) : Res' :=
  s.doneF rd (fpWord (fpAdd (scalarFmt p) s.crm (s.fv p ra) (s.fv p rb).neg))

/-- `fmul` (R214). -/
def execFmul (rd ra rb : RegNo) (p : BitVec 1) (s : State) : Res' :=
  s.doneF rd (fpWord (fpMul (scalarFmt p) s.crm (s.fv p ra) (s.fv p rb)))

/-- `fdiv` (R214), emulated under disposition bit 4. -/
def execFdiv (rd ra rb : RegNo) (p : BitVec 1) (s : State) : Res' :=
  s.unitC 4 (.fdiv rd ra rb p) (s.rx ra) (s.rx rb)
    (s.doneF rd (fpWord (fpDivCodes (scalarFmt p) s.crm (s.fx p ra) (s.fx p rb))))

/-- `fsqrt` (R214), emulated under disposition bit 4. -/
def execFsqrt (rd ra : RegNo) (p : BitVec 1) (s : State) : Res' :=
  s.unitC 4 (.fsqrt rd ra p) (s.rx ra) 0
    (s.doneF rd (fpWord (fpSqrtCode (scalarFmt p) s.crm (s.fx p ra))))

/-- `fmin` (R215). -/
def execFmin (rd ra rb : RegNo) (p : BitVec 1) (s : State) : Res' :=
  s.doneF rd (fpWord (fpMinMax (scalarFmt p) false (s.fx p ra) (s.fx p rb)))

/-- `fmax` (R215). -/
def execFmax (rd ra rb : RegNo) (p : BitVec 1) (s : State) : Res' :=
  s.doneF rd (fpWord (fpMinMax (scalarFmt p) true (s.fx p ra) (s.fx p rb)))

/-- `fabs` clears the sign bit and sets no flag (R91, R215). -/
def execFabs (rd ra : RegNo) (p : BitVec 1) (s : State) : Res' :=
  s.done rd (BitVec.ofNat 64 (s.fx p ra % (scalarFmt p).sign true))

/-- `fneg` inverts the sign bit and sets no flag (R91, R215). -/
def execFneg (rd ra : RegNo) (p : BitVec 1) (s : State) : Res' :=
  s.done rd (BitVec.ofNat 64 (s.fx p ra ^^^ (scalarFmt p).sign true))

/-- `fmadd`: `ra*rb + rd` (R214). -/
def execFmadd (rd ra rb : RegNo) (p : BitVec 1) (s : State) : Res' :=
  s.fused false false p rd ra rb

/-- `fmsub`: `ra*rb - rd` (R214). -/
def execFmsub (rd ra rb : RegNo) (p : BitVec 1) (s : State) : Res' :=
  s.fused false true p rd ra rb

/-- `fnmadd`: `-(ra*rb) + rd` (R214). -/
def execFnmadd (rd ra rb : RegNo) (p : BitVec 1) (s : State) : Res' :=
  s.fused true false p rd ra rb

/-- `fnmsub`: `-(ra*rb) - rd` (R214). -/
def execFnmsub (rd ra rb : RegNo) (p : BitVec 1) (s : State) : Res' :=
  s.fused true true p rd ra rb

/-- `feq` (R215). -/
def execFeq (rd ra rb : RegNo) (p : BitVec 1) (s : State) : Res' :=
  s.fcompare 0 p rd ra rb

/-- `flt` (R215). -/
def execFlt (rd ra rb : RegNo) (p : BitVec 1) (s : State) : Res' :=
  s.fcompare 1 p rd ra rb

/-- `fle` (R215). -/
def execFle (rd ra rb : RegNo) (p : BitVec 1) (s : State) : Res' :=
  s.fcompare 2 p rd ra rb

/-- `fcvt.l`: to INT64 (R217). -/
def execFcvtL (rd ra : RegNo) (p : BitVec 1) (s : State) : Res' :=
  s.toInt (-2 ^ 63) (2 ^ 63 - 1) p rd ra

/-- `fcvt.lu`: to n64 (R217). -/
def execFcvtLu (rd ra : RegNo) (p : BitVec 1) (s : State) : Res' :=
  s.toInt 0 (2 ^ 64 - 1) p rd ra

/-- From INT64 (R217). -/
def execFcvtFromL (rd ra : RegNo) (p : BitVec 1) (s : State) : Res' :=
  s.fromInt (s.rx ra).toInt p rd

/-- From n64 (R217). -/
def execFcvtFromLu (rd ra : RegNo) (p : BitVec 1) (s : State) : Res' :=
  s.fromInt (s.rx ra).toNat p rd

/-- `fcvt.w`: to INT32, sign-extended (R217). -/
def execFcvtW (rd ra : RegNo) (p : BitVec 1) (s : State) : Res' :=
  s.toInt (-2 ^ 31) (2 ^ 31 - 1) p rd ra

/-- `fcvt.wu`: to n32, zero-extended (R217). -/
def execFcvtWu (rd ra : RegNo) (p : BitVec 1) (s : State) : Res' :=
  s.toInt 0 (2 ^ 32 - 1) p rd ra

/-- From INT32 in bits 31:0 (R217). -/
def execFcvtFromW (rd ra : RegNo) (p : BitVec 1) (s : State) : Res' :=
  s.fromInt ((s.rx ra).setWidth 32).toInt p rd

/-- From n32 in bits 31:0 (R217). -/
def execFcvtFromWu (rd ra : RegNo) (p : BitVec 1) (s : State) : Res' :=
  s.fromInt ((s.rx ra).setWidth 32).toNat p rd

/-- `fcvt.d.s` is exact (R107, R217). -/
def execFcvtDS (rd ra : RegNo) (s : State) : Res' :=
  s.doneF rd (fpWord ((FpFmt.bin f64).convert s.crm (f32.decode (s.fx 0 ra))))

/-- `fcvt.s.d` narrows under the FP32 row of R106 (R217). -/
def execFcvtSD (rd ra : RegNo) (s : State) : Res' :=
  s.doneF rd (fpWord ((FpFmt.bin f32).convert s.crm (f64.decode (s.fx 1 ra))))

/-- `fclass` (R216). -/
def execFclass (rd ra : RegNo) (p : BitVec 1) (s : State) : Res' :=
  s.done rd (BitVec.ofNat 64 (fpClass (scalarFmt p) (s.fx p ra)))

end Sys2Proof.Machine
end

