-- ==== Sys2Proof/Machine/WControl.lean ====
section
/-!
DEFINITION. Control words of micro-threads, ops 0x39-0x3C (R194, R248-R253).
-/

namespace Sys2Proof.Machine

/-- `thfetch` names the block fetched after the commit (R248). -/
def execWThfetch (h : WHdr) (imm : BitVec 12) (s : State) : Res' :=
  s.word h (fun b => .go { b with next := some (b.addr + BitVec.ofNat 64 (4 * b.pos) + (sext imm <<< 2)) } s)

/-- `thfetchr` (R248). -/
def execWThfetchr (h : WHdr) (wa : RegNo) (s : State) : Res' :=
  s.word h (fun b =>
    match b.src s.myMt.linkq wa with
    | none => .hold s
    | some (x, b1) => .go { b1 with next := some x } s)

/-- `stop` (R249). -/
def execWStop (h : WHdr) (s : State) : Res' := s.word h (fun b => .go { b with stop := true } s)

/-- `idx` writes the global index (R250). -/
def execWIdx (h : WHdr) (wd : RegNo) (s : State) : Res' :=
  s.word h (fun b => .go (b.dst wd (b.gidx s.curMt)) s)

/-- `sel` always executes; its guard picks the operand (R251). -/
def execWSel (h : WHdr) (wd wa wb : RegNo) (s : State) : Res' :=
  s.wordF2 { h with n := 0, gp := 127 } wd wa wb (fun b x y => (if b.guard h then x else y, 0))

/-- `rng` (R253): the key is a captured crew-shared register. -/
def execWRng (h : WHdr) (wd wa wb : RegNo) (s : State) : Res' :=
  s.wordF1 h wd wa (fun b x => (mix64 (look 0 b.cap.cs (wb.toNat - 24)) (x + b.gidx s.curMt), 0))

end Sys2Proof.Machine
end

