-- ==== Sys2Proof/Machine/WConvert.lean ====
section
/-!
DEFINITION. Conversions of micro-threads, ops 0x25-0x2D (R194, R241-R244).  Format codes are those of R88.
-/

namespace Sys2Proof.Machine

/-- Elements of one format converted to another and packed from element 0 upward (R99, R106, R234). -/
def convertList (rd : Nat → Rnd) (sf df : Nat) (l : List Nat) : Word × BitVec 7 :=
  let (v, fl) := packElems (fmtBits df) ((List.range l.length).map (fun j => convertElem sf df (rd j) (nth 0 l j)))
  (BitVec.ofNat 64 v, fl)

/-- Elements `first` to `first + n - 1` of a register. -/
def elemsFrom (w first n : Nat) (x : Word) : List Nat := (List.range n).map (fun j => elem w x (first + j))

/-- A width-halving convert (R241). -/
def State.halve (s : State) (h : WHdr) (wd wa wb : RegNo) (sf df : Nat) : Res' :=
  let n := 64 / fmtBits sf
  s.wordF2 h wd wa wb (fun b x y =>
    convertList (b.rnd s.curMt) sf df (elemsFrom (fmtBits sf) 0 n x ++ elemsFrom (fmtBits sf) 0 n y))

/-- A width-doubling convert of half `hf` (R242). -/
def State.double (s : State) (h : WHdr) (wd wa : RegNo) (hf : BitVec 1) (sf df : Nat) : Res' :=
  let n := 64 / fmtBits df
  s.wordF1 h wd wa (fun b x => convertList (b.rnd s.curMt) sf df (elemsFrom (fmtBits sf) (hf.toNat * n) n x))

/-- Converts between floats and integers of one width, .d or .s2 (R244). -/
def State.convertSame (s : State) (h : WHdr) (wd wa : RegNo) (p : BitVec 1) (sd dd ss ds : Nat) : Res' :=
  s.wordF1 h wd wa (fun b x =>
    if p = 0 then convertList (b.rnd s.curMt) sd dd [x.toNat]
    else convertList (b.rnd s.curMt) ss ds (elemsFrom 32 0 2 x))

/-- `cvth.s.d` (R241). -/
def execWCvthSD (h : WHdr) (wd wa wb : RegNo) (s : State) : Res' :=
  s.halve h wd wa wb 1 2

/-- `cvth.h.s` (R241). -/
def execWCvthHS (h : WHdr) (wd wa wb : RegNo) (s : State) : Res' :=
  s.halve h wd wa wb 2 3

/-- `cvth.b.s` (R241). -/
def execWCvthBS (h : WHdr) (wd wa wb : RegNo) (s : State) : Res' :=
  s.halve h wd wa wb 2 4

/-- `cvth.t8.h` (R241). -/
def execWCvthT8H (h : WHdr) (wd wa wb : RegNo) (s : State) : Res' :=
  s.halve h wd wa wb 3 8

/-- `cvth.e4.h` (R241). -/
def execWCvthE4H (h : WHdr) (wd wa wb : RegNo) (s : State) : Res' :=
  s.halve h wd wa wb 3 5

/-- `cvth.e5.h` (R241). -/
def execWCvthE5H (h : WHdr) (wd wa wb : RegNo) (s : State) : Res' :=
  s.halve h wd wa wb 3 6

/-- `cvth.t6.t8` (R241). -/
def execWCvthT6T8 (h : WHdr) (wd wa : RegNo) (s : State) : Res' :=
  s.wordF1 h wd wa (fun b x => convertList (b.rnd s.curMt) 8 9 (elemsFrom 8 0 8 x))

/-- `cvtd.d.s` (R242). -/
def execWCvtdDS (h : WHdr) (wd wa : RegNo) (hf : BitVec 1) (s : State) : Res' :=
  s.double h wd wa hf 2 1

/-- `cvtd.s.h` (R242). -/
def execWCvtdSH (h : WHdr) (wd wa : RegNo) (hf : BitVec 1) (s : State) : Res' :=
  s.double h wd wa hf 3 2

/-- `cvtd.s.b` (R242). -/
def execWCvtdSB (h : WHdr) (wd wa : RegNo) (hf : BitVec 1) (s : State) : Res' :=
  s.double h wd wa hf 4 2

/-- `cvtd.h.t8` (R242). -/
def execWCvtdHT8 (h : WHdr) (wd wa : RegNo) (hf : BitVec 1) (s : State) : Res' :=
  s.double h wd wa hf 8 3

/-- `cvtd.h.e4` (R242). -/
def execWCvtdHE4 (h : WHdr) (wd wa : RegNo) (hf : BitVec 1) (s : State) : Res' :=
  s.double h wd wa hf 5 3

/-- `cvtd.h.e5` (R242). -/
def execWCvtdHE5 (h : WHdr) (wd wa : RegNo) (hf : BitVec 1) (s : State) : Res' :=
  s.double h wd wa hf 6 3

/-- `cvtd.t8.t6` (R242). -/
def execWCvtdT8T6 (h : WHdr) (wd wa : RegNo) (s : State) : Res' :=
  s.wordF1 h wd wa (fun b x => convertList (b.rnd s.curMt) 9 8 (elemsFrom 6 0 8 x))

/-- `cvt.f4` of the sixteen FP32 elements of `wa` to `wa`+7 (R243). -/
def execWCvtF4 (h : WHdr) (wd wa : RegNo) (s : State) : Res' :=
  s.word h (fun b =>
    let l := (List.range 8).flatMap (fun r => elemsFrom 32 0 2 (look 0 b.w (wa.toNat + r)))
    let r := convertList (b.rnd s.curMt) 2 7 l
    .go ((b.dst wd r.1).flag r.2) s)

/-- `cvtfi` (R244). -/
def execWCvtfi (h : WHdr) (wd wa : RegNo) (p : BitVec 1) (s : State) : Res' :=
  s.convertSame h wd wa p 1 12 2 11

/-- `cvtfu` (R244). -/
def execWCvtfu (h : WHdr) (wd wa : RegNo) (p : BitVec 1) (s : State) : Res' :=
  s.convertSame h wd wa p 1 16 2 15

/-- `cvtif` (R244). -/
def execWCvtif (h : WHdr) (wd wa : RegNo) (p : BitVec 1) (s : State) : Res' :=
  s.convertSame h wd wa p 12 1 11 2

/-- `cvtuf` (R244). -/
def execWCvtuf (h : WHdr) (wd wa : RegNo) (p : BitVec 1) (s : State) : Res' :=
  s.convertSame h wd wa p 16 1 15 2

end Sys2Proof.Machine
end

