-- ==== Sys2Proof/Machine/WFloat.lean ====
section
/-!
DEFINITION. Floating words of micro-threads, ops 0x14-0x24 and 0x3D (R194, R197, R239, R240).
-/

namespace Sys2Proof.Machine

/-- `fadd` (R239). -/
def execWFadd (h : WHdr) (wd wa wb : RegNo) (fm : BitVec 2) (s : State) : Res' :=
  s.wordElems2 h wd wa wb fm (fun t rd x y => fpAdd t rd (t.decode x) (t.decode y))

/-- `fsub` (R239). -/
def execWFsub (h : WHdr) (wd wa wb : RegNo) (fm : BitVec 2) (s : State) : Res' :=
  s.wordElems2 h wd wa wb fm (fun t rd x y => fpAdd t rd (t.decode x) (t.decode y).neg)

/-- `fmul` (R239). -/
def execWFmul (h : WHdr) (wd wa wb : RegNo) (fm : BitVec 2) (s : State) : Res' :=
  s.wordElems2 h wd wa wb fm (fun t rd x y => fpMul t rd (t.decode x) (t.decode y))

/-- `fma` (R239). -/
def execWFma (h : WHdr) (wd wa wb : RegNo) (fm : BitVec 2) (s : State) : Res' :=
  s.wordElems3 h wd wa wb fm (fun t rd x y z => fpFma t rd false false (t.decode x) (t.decode y) (t.decode z))

/-- `fms` (R239). -/
def execWFms (h : WHdr) (wd wa wb : RegNo) (fm : BitVec 2) (s : State) : Res' :=
  s.wordElems3 h wd wa wb fm (fun t rd x y z => fpFma t rd false true (t.decode x) (t.decode y) (t.decode z))

/-- `fnma` (R239). -/
def execWFnma (h : WHdr) (wd wa wb : RegNo) (fm : BitVec 2) (s : State) : Res' :=
  s.wordElems3 h wd wa wb fm (fun t rd x y z => fpFma t rd true false (t.decode x) (t.decode y) (t.decode z))

/-- `fnms` (R239). -/
def execWFnms (h : WHdr) (wd wa wb : RegNo) (fm : BitVec 2) (s : State) : Res' :=
  s.wordElems3 h wd wa wb fm (fun t rd x y z => fpFma t rd true true (t.decode x) (t.decode y) (t.decode z))

/-- `fdiv`: by firmware where op 0x1B is emulated (R239, R199). -/
def execWFdiv (h : WHdr) (wd wa wb : RegNo) (fm : BitVec 2) (s : State) : Res' :=
  s.unitWord 1 h [wa, wb] (s.wordElems2 h wd wa wb fm fpDivCodes)

/-- `fsqrt`: by firmware where op 0x1C is emulated (R239, R199). -/
def execWFsqrt (h : WHdr) (wd wa : RegNo) (fm : BitVec 2) (s : State) : Res' :=
  s.unitWord 1 h [wa] (s.wordElems1 h wd wa fm fpSqrtCode)

/-- `fmin` (R239, R215). -/
def execWFmin (h : WHdr) (wd wa wb : RegNo) (fm : BitVec 2) (s : State) : Res' :=
  s.wordElems2 h wd wa wb fm (fun t _ x y => fpMinMax t false x y)

/-- `fmax` (R239, R215). -/
def execWFmax (h : WHdr) (wd wa wb : RegNo) (fm : BitVec 2) (s : State) : Res' :=
  s.wordElems2 h wd wa wb fm (fun t _ x y => fpMinMax t true x y)

/-- `fabs` clears the sign of each element (R215). -/
def execWFabs (h : WHdr) (wd wa : RegNo) (fm : BitVec 2) (s : State) : Res' :=
  s.wordElems1 h wd wa fm (fun t _ x => (x % 2 ^ (t.width - 1), 0))

/-- `fneg` flips the sign of each element (R215). -/
def execWFneg (h : WHdr) (wd wa : RegNo) (fm : BitVec 2) (s : State) : Res' :=
  s.wordElems1 h wd wa fm (fun t _ x => (x ^^^ 2 ^ (t.width - 1), 0))

/-- `exp2`: by firmware where ops 0x21-0x24 are emulated (R240, R199). -/
def execWExp2 (h : WHdr) (wd wa : RegNo) (fm : BitVec 2) (s : State) : Res' :=
  s.unitWord 2 h [wa] (s.wordElems1 h wd wa fm (fpSpecial 0))

/-- `log2`: by firmware where ops 0x21-0x24 are emulated (R240, R199). -/
def execWLog2 (h : WHdr) (wd wa : RegNo) (fm : BitVec 2) (s : State) : Res' :=
  s.unitWord 2 h [wa] (s.wordElems1 h wd wa fm (fpSpecial 1))

/-- `rcp`: by firmware where ops 0x21-0x24 are emulated (R240, R199). -/
def execWRcp (h : WHdr) (wd wa : RegNo) (fm : BitVec 2) (s : State) : Res' :=
  s.unitWord 2 h [wa] (s.wordElems1 h wd wa fm (fpSpecial 2))

/-- `rsqrt`: by firmware where ops 0x21-0x24 are emulated (R240, R199). -/
def execWRsqrt (h : WHdr) (wd wa : RegNo) (fm : BitVec 2) (s : State) : Res' :=
  s.unitWord 2 h [wa] (s.wordElems1 h wd wa fm (fpSpecial 3))

/-- `fsin.s2` is retired: bit 5 of the disposition record is 1 on this part, and firmware performs it (R197, R199). -/
def execWFsinS2 (h : WHdr) (_wd wa : RegNo) (s : State) : Res' :=
  s.askTrip h [wa]

/-- `fcos.s2` is retired: bit 5 of the disposition record is 1 on this part, and firmware performs it (R197, R199). -/
def execWFcosS2 (h : WHdr) (_wd wa : RegNo) (s : State) : Res' :=
  s.askTrip h [wa]

end Sys2Proof.Machine
end

