-- ==== Sys2Proof/Machine/WInt.lean ====
section
/-!
DEFINITION. Integer words of micro-threads, ops 0x00-0x0A (R194, R236).
-/

namespace Sys2Proof.Machine

/-- `add` (R236). -/
def execWAdd (h : WHdr) (wd wa wb : RegNo) (s : State) : Res' :=
  s.word2 h wd wa wb (fun x y => x + y)

/-- `sub` (R236). -/
def execWSub (h : WHdr) (wd wa wb : RegNo) (s : State) : Res' :=
  s.word2 h wd wa wb (fun x y => x - y)

/-- `min` (R236). -/
def execWMin (h : WHdr) (wd wa wb : RegNo) (s : State) : Res' :=
  s.word2 h wd wa wb smin

/-- `max` (R236). -/
def execWMax (h : WHdr) (wd wa wb : RegNo) (s : State) : Res' :=
  s.word2 h wd wa wb smax

/-- `and` (R236). -/
def execWAnd (h : WHdr) (wd wa wb : RegNo) (s : State) : Res' :=
  s.word2 h wd wa wb (fun x y => x &&& y)

/-- `or` (R236). -/
def execWOr (h : WHdr) (wd wa wb : RegNo) (s : State) : Res' :=
  s.word2 h wd wa wb (fun x y => x ||| y)

/-- `xor` (R236). -/
def execWXor (h : WHdr) (wd wa wb : RegNo) (s : State) : Res' :=
  s.word2 h wd wa wb (fun x y => x ^^^ y)

/-- `andn` (R236). -/
def execWAndn (h : WHdr) (wd wa wb : RegNo) (s : State) : Res' :=
  s.word2 h wd wa wb (fun x y => x &&& ~~~y)

/-- `sll` (R236). -/
def execWSll (h : WHdr) (wd wa wb : RegNo) (s : State) : Res' :=
  s.word2 h wd wa wb (fun x y => x <<< (y.toNat % 64))

/-- `srl` (R236). -/
def execWSrl (h : WHdr) (wd wa wb : RegNo) (s : State) : Res' :=
  s.word2 h wd wa wb (fun x y => x >>> (y.toNat % 64))

/-- `sra` (R236). -/
def execWSra (h : WHdr) (wd wa wb : RegNo) (s : State) : Res' :=
  s.word2 h wd wa wb (fun x y => x.sshiftRight (y.toNat % 64))

/-- `ror` (R236). -/
def execWRor (h : WHdr) (wd wa wb : RegNo) (s : State) : Res' :=
  s.word2 h wd wa wb (fun x y => x.rotateRight (y.toNat % 64))

/-- `mul` (R236). -/
def execWMul (h : WHdr) (wd wa wb : RegNo) (s : State) : Res' :=
  s.word2 h wd wa wb (fun x y => (mulDiv 0 x y).1)

/-- `mulh` (R236). -/
def execWMulh (h : WHdr) (wd wa wb : RegNo) (s : State) : Res' :=
  s.word2 h wd wa wb (fun x y => (mulDiv 1 x y).1)

/-- `mulhu` (R236). -/
def execWMulhu (h : WHdr) (wd wa wb : RegNo) (s : State) : Res' :=
  s.word2 h wd wa wb (fun x y => (mulDiv 2 x y).1)

/-- `mulhsu` (R236). -/
def execWMulhsu (h : WHdr) (wd wa wb : RegNo) (s : State) : Res' :=
  s.word2 h wd wa wb (fun x y => (mulDiv 3 x y).1)

/-- `minu` (R236). -/
def execWMinu (h : WHdr) (wd wa wb : RegNo) (s : State) : Res' :=
  s.word2 h wd wa wb umin

/-- `maxu` (R236). -/
def execWMaxu (h : WHdr) (wd wa wb : RegNo) (s : State) : Res' :=
  s.word2 h wd wa wb umax

/-- `div`: by firmware where op 0x04 is emulated (R236, R199). -/
def execWDiv (h : WHdr) (wd wa wb : RegNo) (s : State) : Res' :=
  s.unitWord 0 h [wa, wb] (s.wordF2 h wd wa wb (fun _ x y => mulDiv 4 x y))

/-- `divu`: by firmware where op 0x04 is emulated (R236, R199). -/
def execWDivu (h : WHdr) (wd wa wb : RegNo) (s : State) : Res' :=
  s.unitWord 0 h [wa, wb] (s.wordF2 h wd wa wb (fun _ x y => mulDiv 5 x y))

/-- `rem`: by firmware where op 0x04 is emulated (R236, R199). -/
def execWRem (h : WHdr) (wd wa wb : RegNo) (s : State) : Res' :=
  s.unitWord 0 h [wa, wb] (s.wordF2 h wd wa wb (fun _ x y => mulDiv 6 x y))

/-- `remu`: by firmware where op 0x04 is emulated (R236, R199). -/
def execWRemu (h : WHdr) (wd wa wb : RegNo) (s : State) : Res' :=
  s.unitWord 0 h [wa, wb] (s.wordF2 h wd wa wb (fun _ x y => mulDiv 7 x y))

/-- `addi` (R236). -/
def execWAddi (h : WHdr) (wd wa : RegNo) (imm : BitVec 7) (s : State) : Res' :=
  s.wordF1 h wd wa (fun _ x => (x + sext imm, 0))

/-- `slli` (R236). -/
def execWSlli (h : WHdr) (wd wa : RegNo) (sh : BitVec 6) (s : State) : Res' :=
  s.wordF1 h wd wa (fun _ x => (x <<< sh.toNat, 0))

/-- `srli` (R236). -/
def execWSrli (h : WHdr) (wd wa : RegNo) (sh : BitVec 6) (s : State) : Res' :=
  s.wordF1 h wd wa (fun _ x => (x >>> sh.toNat, 0))

/-- `srai` (R236). -/
def execWSrai (h : WHdr) (wd wa : RegNo) (sh : BitVec 6) (s : State) : Res' :=
  s.wordF1 h wd wa (fun _ x => (x.sshiftRight sh.toNat, 0))

/-- `movi` (R236). -/
def execWMovi (h : WHdr) (wd : RegNo) (imm : BitVec 12) (s : State) : Res' :=
  s.word h (fun b => .go (b.dst wd (sext imm)) s)

end Sys2Proof.Machine
end

