-- ==== Sys2Proof/Machine/WPred.lean ====
section
/-!
DEFINITION. Compares and predicate logic of micro-threads, ops 0x0B-0x13, 0x2E-0x32 and 0x3E (R194, R237, R238).
-/

namespace Sys2Proof.Machine

/-- `ceq` (R237). -/
def execWCeq (h : WHdr) (pd wa wb : RegNo) (bank : BitVec 2) (s : State) : Res' :=
  s.wordCmp h bank pd wa wb (fun x y => (x == y, 0))

/-- `clt` (R237). -/
def execWClt (h : WHdr) (pd wa wb : RegNo) (bank : BitVec 2) (s : State) : Res' :=
  s.wordCmp h bank pd wa wb (fun x y => (x.slt y, 0))

/-- `cltu` (R237). -/
def execWCltu (h : WHdr) (pd wa wb : RegNo) (bank : BitVec 2) (s : State) : Res' :=
  s.wordCmp h bank pd wa wb (fun x y => (x.ult y, 0))

/-- `fceq.d` (R237, R215). -/
def execWFceqD (h : WHdr) (pd wa wb : RegNo) (bank : BitVec 2) (s : State) : Res' :=
  s.wordCmp h bank pd wa wb (fun x y => fpCmp f64 0 x.toNat y.toNat)

/-- `fclt.d` (R237, R215). -/
def execWFcltD (h : WHdr) (pd wa wb : RegNo) (bank : BitVec 2) (s : State) : Res' :=
  s.wordCmp h bank pd wa wb (fun x y => fpCmp f64 1 x.toNat y.toNat)

/-- `fcle.d` (R237, R215). -/
def execWFcleD (h : WHdr) (pd wa wb : RegNo) (bank : BitVec 2) (s : State) : Res' :=
  s.wordCmp h bank pd wa wb (fun x y => fpCmp f64 2 x.toNat y.toNat)

/-- `fceq.s` on bits 31:0 (R237, R215). -/
def execWFceqS (h : WHdr) (pd wa wb : RegNo) (bank : BitVec 2) (s : State) : Res' :=
  s.wordCmp h bank pd wa wb (fun x y => fpCmp f32 0 (x.toNat % 2 ^ 32) (y.toNat % 2 ^ 32))

/-- `fclt.s` on bits 31:0 (R237, R215). -/
def execWFcltS (h : WHdr) (pd wa wb : RegNo) (bank : BitVec 2) (s : State) : Res' :=
  s.wordCmp h bank pd wa wb (fun x y => fpCmp f32 1 (x.toNat % 2 ^ 32) (y.toNat % 2 ^ 32))

/-- `fcle.s` on bits 31:0 (R237, R215). -/
def execWFcleS (h : WHdr) (pd wa wb : RegNo) (bank : BitVec 2) (s : State) : Res' :=
  s.wordCmp h bank pd wa wb (fun x y => fpCmp f32 2 (x.toNat % 2 ^ 32) (y.toNat % 2 ^ 32))

/-- `pand` (R238). -/
def execWPand (h : WHdr) (pd pa pb : RegNo) (bank : BitVec 2) (s : State) : Res' :=
  s.wordPred h bank pd (fun b => b.predAt bank pa && b.predAt bank pb)

/-- `por` (R238). -/
def execWPor (h : WHdr) (pd pa pb : RegNo) (bank : BitVec 2) (s : State) : Res' :=
  s.wordPred h bank pd (fun b => b.predAt bank pa || b.predAt bank pb)

/-- `pxor` (R238). -/
def execWPxor (h : WHdr) (pd pa pb : RegNo) (bank : BitVec 2) (s : State) : Res' :=
  s.wordPred h bank pd (fun b => b.predAt bank pa != b.predAt bank pb)

/-- `pandn` (R238). -/
def execWPandn (h : WHdr) (pd pa pb : RegNo) (bank : BitVec 2) (s : State) : Res' :=
  s.wordPred h bank pd (fun b => b.predAt bank pa && !b.predAt bank pb)

/-- `pmov` (R238). -/
def execWPmov (h : WHdr) (pd pa : RegNo) (sbank bank : BitVec 2) (s : State) : Res' :=
  s.wordPred h bank pd (fun b => b.predAt sbank pa)

/-- `pnot` (R238). -/
def execWPnot (h : WHdr) (pd pa : RegNo) (bank : BitVec 2) (s : State) : Res' :=
  s.wordPred h bank pd (fun b => !b.predAt bank pa)

end Sys2Proof.Machine
end

