-- ==== Sys2Proof/Machine/Dispatch.lean ====
section
/-!
DEFINITION. One arm for each constructor of `Instr`.
-/

namespace Sys2Proof.Machine

/-- The meaning of an instruction, or of a step of another agent. -/
def exec (i : Instr) (s : State) : Host.Outcome State Fault Refusal :=
  match i with
  | .add rd ra rb => Sys2Proof.Machine.execAdd rd ra rb s
  | .sub rd ra rb => Sys2Proof.Machine.execSub rd ra rb s
  | .and_ rd ra rb => Sys2Proof.Machine.execAnd rd ra rb s
  | .or_ rd ra rb => Sys2Proof.Machine.execOr rd ra rb s
  | .xor_ rd ra rb => Sys2Proof.Machine.execXor rd ra rb s
  | .andn rd ra rb => Sys2Proof.Machine.execAndn rd ra rb s
  | .orn rd ra rb => Sys2Proof.Machine.execOrn rd ra rb s
  | .xnor rd ra rb => Sys2Proof.Machine.execXnor rd ra rb s
  | .sll rd ra rb => Sys2Proof.Machine.execSll rd ra rb s
  | .srl rd ra rb => Sys2Proof.Machine.execSrl rd ra rb s
  | .sra rd ra rb => Sys2Proof.Machine.execSra rd ra rb s
  | .rol rd ra rb => Sys2Proof.Machine.execRol rd ra rb s
  | .ror rd ra rb => Sys2Proof.Machine.execRor rd ra rb s
  | .slt rd ra rb => Sys2Proof.Machine.execSlt rd ra rb s
  | .sltu rd ra rb => Sys2Proof.Machine.execSltu rd ra rb s
  | .seq rd ra rb => Sys2Proof.Machine.execSeq rd ra rb s
  | .sne rd ra rb => Sys2Proof.Machine.execSne rd ra rb s
  | .min_ rd ra rb => Sys2Proof.Machine.execMin rd ra rb s
  | .max_ rd ra rb => Sys2Proof.Machine.execMax rd ra rb s
  | .minu rd ra rb => Sys2Proof.Machine.execMinu rd ra rb s
  | .maxu rd ra rb => Sys2Proof.Machine.execMaxu rd ra rb s
  | .clz rd ra => Sys2Proof.Machine.execClz rd ra s
  | .ctz rd ra => Sys2Proof.Machine.execCtz rd ra s
  | .popc rd ra => Sys2Proof.Machine.execPopc rd ra s
  | .sextb rd ra => Sys2Proof.Machine.execSextb rd ra s
  | .sexth rd ra => Sys2Proof.Machine.execSexth rd ra s
  | .sextw rd ra => Sys2Proof.Machine.execSextw rd ra s
  | .addi rd ra imm => Sys2Proof.Machine.execAddi rd ra imm s
  | .andi rd ra imm => Sys2Proof.Machine.execAndi rd ra imm s
  | .ori rd ra imm => Sys2Proof.Machine.execOri rd ra imm s
  | .xori rd ra imm => Sys2Proof.Machine.execXori rd ra imm s
  | .slli rd ra sh => Sys2Proof.Machine.execSlli rd ra sh s
  | .srli rd ra sh => Sys2Proof.Machine.execSrli rd ra sh s
  | .srai rd ra sh => Sys2Proof.Machine.execSrai rd ra sh s
  | .rori rd ra sh => Sys2Proof.Machine.execRori rd ra sh s
  | .slti rd ra imm => Sys2Proof.Machine.execSlti rd ra imm s
  | .sltiu rd ra imm => Sys2Proof.Machine.execSltiu rd ra imm s
  | .seqi rd ra imm => Sys2Proof.Machine.execSeqi rd ra imm s
  | .mul rd ra rb => Sys2Proof.Machine.execMul rd ra rb s
  | .mulh rd ra rb => Sys2Proof.Machine.execMulh rd ra rb s
  | .mulhu rd ra rb => Sys2Proof.Machine.execMulhu rd ra rb s
  | .mulhsu rd ra rb => Sys2Proof.Machine.execMulhsu rd ra rb s
  | .div rd ra rb => Sys2Proof.Machine.execDiv rd ra rb s
  | .divu rd ra rb => Sys2Proof.Machine.execDivu rd ra rb s
  | .rem rd ra rb => Sys2Proof.Machine.execRem rd ra rb s
  | .remu rd ra rb => Sys2Proof.Machine.execRemu rd ra rb s
  | .fadd rd ra rb p => Sys2Proof.Machine.execFadd rd ra rb p s
  | .fsub rd ra rb p => Sys2Proof.Machine.execFsub rd ra rb p s
  | .fmul rd ra rb p => Sys2Proof.Machine.execFmul rd ra rb p s
  | .fdiv rd ra rb p => Sys2Proof.Machine.execFdiv rd ra rb p s
  | .fsqrt rd ra p => Sys2Proof.Machine.execFsqrt rd ra p s
  | .fmin rd ra rb p => Sys2Proof.Machine.execFmin rd ra rb p s
  | .fmax rd ra rb p => Sys2Proof.Machine.execFmax rd ra rb p s
  | .fabs rd ra p => Sys2Proof.Machine.execFabs rd ra p s
  | .fneg rd ra p => Sys2Proof.Machine.execFneg rd ra p s
  | .fmadd rd ra rb p => Sys2Proof.Machine.execFmadd rd ra rb p s
  | .fmsub rd ra rb p => Sys2Proof.Machine.execFmsub rd ra rb p s
  | .fnmadd rd ra rb p => Sys2Proof.Machine.execFnmadd rd ra rb p s
  | .fnmsub rd ra rb p => Sys2Proof.Machine.execFnmsub rd ra rb p s
  | .feq rd ra rb p => Sys2Proof.Machine.execFeq rd ra rb p s
  | .flt rd ra rb p => Sys2Proof.Machine.execFlt rd ra rb p s
  | .fle rd ra rb p => Sys2Proof.Machine.execFle rd ra rb p s
  | .fcvtL rd ra p => Sys2Proof.Machine.execFcvtL rd ra p s
  | .fcvtLu rd ra p => Sys2Proof.Machine.execFcvtLu rd ra p s
  | .fcvtFromL rd ra p => Sys2Proof.Machine.execFcvtFromL rd ra p s
  | .fcvtFromLu rd ra p => Sys2Proof.Machine.execFcvtFromLu rd ra p s
  | .fcvtW rd ra p => Sys2Proof.Machine.execFcvtW rd ra p s
  | .fcvtWu rd ra p => Sys2Proof.Machine.execFcvtWu rd ra p s
  | .fcvtFromW rd ra p => Sys2Proof.Machine.execFcvtFromW rd ra p s
  | .fcvtFromWu rd ra p => Sys2Proof.Machine.execFcvtFromWu rd ra p s
  | .fcvtDS rd ra => Sys2Proof.Machine.execFcvtDS rd ra s
  | .fcvtSD rd ra => Sys2Proof.Machine.execFcvtSD rd ra s
  | .fclass rd ra p => Sys2Proof.Machine.execFclass rd ra p s
  | .lb rd ra imm => Sys2Proof.Machine.execLb rd ra imm s
  | .lh rd ra imm => Sys2Proof.Machine.execLh rd ra imm s
  | .lw rd ra imm => Sys2Proof.Machine.execLw rd ra imm s
  | .ld rd ra imm => Sys2Proof.Machine.execLd rd ra imm s
  | .lbu rd ra imm => Sys2Proof.Machine.execLbu rd ra imm s
  | .lhu rd ra imm => Sys2Proof.Machine.execLhu rd ra imm s
  | .lwu rd ra imm => Sys2Proof.Machine.execLwu rd ra imm s
  | .sb ra rb imm => Sys2Proof.Machine.execSb ra rb imm s
  | .sh ra rb imm => Sys2Proof.Machine.execSh ra rb imm s
  | .sw ra rb imm => Sys2Proof.Machine.execSw ra rb imm s
  | .sd ra rb imm => Sys2Proof.Machine.execSd ra rb imm s
  | .amoadd rd ra rb d => Sys2Proof.Machine.execAmoadd rd ra rb d s
  | .amoswap rd ra rb d => Sys2Proof.Machine.execAmoswap rd ra rb d s
  | .amocas rd ra rb d => Sys2Proof.Machine.execAmocas rd ra rb d s
  | .amomin rd ra rb d => Sys2Proof.Machine.execAmomin rd ra rb d s
  | .amomax rd ra rb d => Sys2Proof.Machine.execAmomax rd ra rb d s
  | .amominu rd ra rb d => Sys2Proof.Machine.execAmominu rd ra rb d s
  | .amomaxu rd ra rb d => Sys2Proof.Machine.execAmomaxu rd ra rb d s
  | .amoand rd ra rb d => Sys2Proof.Machine.execAmoand rd ra rb d s
  | .amoor rd ra rb d => Sys2Proof.Machine.execAmoor rd ra rb d s
  | .beq ra rb imm => Sys2Proof.Machine.execBeq ra rb imm s
  | .bne ra rb imm => Sys2Proof.Machine.execBne ra rb imm s
  | .blt ra rb imm => Sys2Proof.Machine.execBlt ra rb imm s
  | .bge ra rb imm => Sys2Proof.Machine.execBge ra rb imm s
  | .bltu ra rb imm => Sys2Proof.Machine.execBltu ra rb imm s
  | .bgeu ra rb imm => Sys2Proof.Machine.execBgeu ra rb imm s
  | .jal rd imm => Sys2Proof.Machine.execJal rd imm s
  | .lui rd imm => Sys2Proof.Machine.execLui rd imm s
  | .auipc rd imm => Sys2Proof.Machine.execAuipc rd imm s
  | .jalr rd ra imm => Sys2Proof.Machine.execJalr rd ra imm s
  | .callt rd ra rb => Sys2Proof.Machine.execCallt rd ra rb s
  | .loop_ ra imm => Sys2Proof.Machine.execLoop ra imm s
  | .csrr rd idx => Sys2Proof.Machine.execCsrr rd idx s
  | .csrw ra idx => Sys2Proof.Machine.execCsrw ra idx s
  | .csrs ra idx => Sys2Proof.Machine.execCsrs ra idx s
  | .csrc ra idx => Sys2Proof.Machine.execCsrc ra idx s
  | .setvl rd ra => Sys2Proof.Machine.execSetvl rd ra s
  | .vfetch ra => Sys2Proof.Machine.execVfetch ra s
  | .vloop ra rb => Sys2Proof.Machine.execVloop ra rb s
  | .vsync rd => Sys2Proof.Machine.execVsync rd s
  | .vget rd ra item => Sys2Proof.Machine.execVget rd ra item s
  | .vput ra rb item => Sys2Proof.Machine.execVput ra rb item s
  | .vsetc ra cn => Sys2Proof.Machine.execVsetc ra cn s
  | .vld wd ra u w => Sys2Proof.Machine.execVld wd ra u w s
  | .vst wd ra w => Sys2Proof.Machine.execVst wd ra w s
  | .vlds wd ra rb u w => Sys2Proof.Machine.execVlds wd ra rb u w s
  | .vsts wd ra rb w => Sys2Proof.Machine.execVsts wd ra rb w s
  | .vldx wd ra wi u w => Sys2Proof.Machine.execVldx wd ra wi u w s
  | .vstx wd ra wi w => Sys2Proof.Machine.execVstx wd ra wi w s
  | .vldb wd ra => Sys2Proof.Machine.execVldb wd ra s
  | .ecfg ra eng n => Sys2Proof.Machine.execEcfg ra eng n s
  | .erd rd eng n => Sys2Proof.Machine.execErd rd eng n s
  | .ewait ra => Sys2Proof.Machine.execEwait ra s
  | .stream ra rb => Sys2Proof.Machine.execStream ra rb s
  | .copyj rd ra rb => Sys2Proof.Machine.execCopyj rd ra rb s
  | .gleanj rd ra rb => Sys2Proof.Machine.execGleanj rd ra rb s
  | .lclaim rd ra => Sys2Proof.Machine.execLclaim rd ra s
  | .lrelease ra => Sys2Proof.Machine.execLrelease ra s
  | .lzero ra => Sys2Proof.Machine.execLzero ra s
  | .lmmaO ra rb => Sys2Proof.Machine.execLmmaO ra rb s
  | .lmmaR ra rb => Sys2Proof.Machine.execLmmaR ra rb s
  | .ldrain rd ra => Sys2Proof.Machine.execLdrain rd ra s
  | .fence ra => Sys2Proof.Machine.execFence ra s
  | .barr ra => Sys2Proof.Machine.execBarr ra s
  | .vote rd ra comb => Sys2Proof.Machine.execVote rd ra comb s
  | .abortq rd => Sys2Proof.Machine.execAbortq rd s
  | .wait ra rb => Sys2Proof.Machine.execWait ra rb s
  | .wake ra => Sys2Proof.Machine.execWake ra s
  | .lpatch ra rb field => Sys2Proof.Machine.execLpatch ra rb field s
  | .larm ra => Sys2Proof.Machine.execLarm ra s
  | .halt ra => Sys2Proof.Machine.execHalt ra s
  | .trap code => Sys2Proof.Machine.execTrap code s
  | .discover rd ra => Sys2Proof.Machine.execDiscover rd ra s
  | .wAdd hd wd wa wb => Sys2Proof.Machine.execWAdd hd wd wa wb s
  | .wSub hd wd wa wb => Sys2Proof.Machine.execWSub hd wd wa wb s
  | .wMin hd wd wa wb => Sys2Proof.Machine.execWMin hd wd wa wb s
  | .wMax hd wd wa wb => Sys2Proof.Machine.execWMax hd wd wa wb s
  | .wAnd hd wd wa wb => Sys2Proof.Machine.execWAnd hd wd wa wb s
  | .wOr hd wd wa wb => Sys2Proof.Machine.execWOr hd wd wa wb s
  | .wXor hd wd wa wb => Sys2Proof.Machine.execWXor hd wd wa wb s
  | .wAndn hd wd wa wb => Sys2Proof.Machine.execWAndn hd wd wa wb s
  | .wSll hd wd wa wb => Sys2Proof.Machine.execWSll hd wd wa wb s
  | .wSrl hd wd wa wb => Sys2Proof.Machine.execWSrl hd wd wa wb s
  | .wSra hd wd wa wb => Sys2Proof.Machine.execWSra hd wd wa wb s
  | .wRor hd wd wa wb => Sys2Proof.Machine.execWRor hd wd wa wb s
  | .wMul hd wd wa wb => Sys2Proof.Machine.execWMul hd wd wa wb s
  | .wMulh hd wd wa wb => Sys2Proof.Machine.execWMulh hd wd wa wb s
  | .wMulhu hd wd wa wb => Sys2Proof.Machine.execWMulhu hd wd wa wb s
  | .wMulhsu hd wd wa wb => Sys2Proof.Machine.execWMulhsu hd wd wa wb s
  | .wDiv hd wd wa wb => Sys2Proof.Machine.execWDiv hd wd wa wb s
  | .wDivu hd wd wa wb => Sys2Proof.Machine.execWDivu hd wd wa wb s
  | .wRem hd wd wa wb => Sys2Proof.Machine.execWRem hd wd wa wb s
  | .wRemu hd wd wa wb => Sys2Proof.Machine.execWRemu hd wd wa wb s
  | .wMinu hd wd wa wb => Sys2Proof.Machine.execWMinu hd wd wa wb s
  | .wMaxu hd wd wa wb => Sys2Proof.Machine.execWMaxu hd wd wa wb s
  | .wAddi hd wd wa imm => Sys2Proof.Machine.execWAddi hd wd wa imm s
  | .wSlli hd wd wa sh => Sys2Proof.Machine.execWSlli hd wd wa sh s
  | .wSrli hd wd wa sh => Sys2Proof.Machine.execWSrli hd wd wa sh s
  | .wSrai hd wd wa sh => Sys2Proof.Machine.execWSrai hd wd wa sh s
  | .wMovi hd wd imm => Sys2Proof.Machine.execWMovi hd wd imm s
  | .wCeq hd pd wa wb bank => Sys2Proof.Machine.execWCeq hd pd wa wb bank s
  | .wClt hd pd wa wb bank => Sys2Proof.Machine.execWClt hd pd wa wb bank s
  | .wCltu hd pd wa wb bank => Sys2Proof.Machine.execWCltu hd pd wa wb bank s
  | .wFceqD hd pd wa wb bank => Sys2Proof.Machine.execWFceqD hd pd wa wb bank s
  | .wFcltD hd pd wa wb bank => Sys2Proof.Machine.execWFcltD hd pd wa wb bank s
  | .wFcleD hd pd wa wb bank => Sys2Proof.Machine.execWFcleD hd pd wa wb bank s
  | .wFceqS hd pd wa wb bank => Sys2Proof.Machine.execWFceqS hd pd wa wb bank s
  | .wFcltS hd pd wa wb bank => Sys2Proof.Machine.execWFcltS hd pd wa wb bank s
  | .wFcleS hd pd wa wb bank => Sys2Proof.Machine.execWFcleS hd pd wa wb bank s
  | .wFadd hd wd wa wb fm => Sys2Proof.Machine.execWFadd hd wd wa wb fm s
  | .wFsub hd wd wa wb fm => Sys2Proof.Machine.execWFsub hd wd wa wb fm s
  | .wFmul hd wd wa wb fm => Sys2Proof.Machine.execWFmul hd wd wa wb fm s
  | .wFma hd wd wa wb fm => Sys2Proof.Machine.execWFma hd wd wa wb fm s
  | .wFms hd wd wa wb fm => Sys2Proof.Machine.execWFms hd wd wa wb fm s
  | .wFnma hd wd wa wb fm => Sys2Proof.Machine.execWFnma hd wd wa wb fm s
  | .wFnms hd wd wa wb fm => Sys2Proof.Machine.execWFnms hd wd wa wb fm s
  | .wFdiv hd wd wa wb fm => Sys2Proof.Machine.execWFdiv hd wd wa wb fm s
  | .wFsqrt hd wd wa fm => Sys2Proof.Machine.execWFsqrt hd wd wa fm s
  | .wFmin hd wd wa wb fm => Sys2Proof.Machine.execWFmin hd wd wa wb fm s
  | .wFmax hd wd wa wb fm => Sys2Proof.Machine.execWFmax hd wd wa wb fm s
  | .wFabs hd wd wa fm => Sys2Proof.Machine.execWFabs hd wd wa fm s
  | .wFneg hd wd wa fm => Sys2Proof.Machine.execWFneg hd wd wa fm s
  | .wExp2 hd wd wa fm => Sys2Proof.Machine.execWExp2 hd wd wa fm s
  | .wLog2 hd wd wa fm => Sys2Proof.Machine.execWLog2 hd wd wa fm s
  | .wRcp hd wd wa fm => Sys2Proof.Machine.execWRcp hd wd wa fm s
  | .wRsqrt hd wd wa fm => Sys2Proof.Machine.execWRsqrt hd wd wa fm s
  | .wCvthSD hd wd wa wb => Sys2Proof.Machine.execWCvthSD hd wd wa wb s
  | .wCvthHS hd wd wa wb => Sys2Proof.Machine.execWCvthHS hd wd wa wb s
  | .wCvthBS hd wd wa wb => Sys2Proof.Machine.execWCvthBS hd wd wa wb s
  | .wCvthT8H hd wd wa wb => Sys2Proof.Machine.execWCvthT8H hd wd wa wb s
  | .wCvthE4H hd wd wa wb => Sys2Proof.Machine.execWCvthE4H hd wd wa wb s
  | .wCvthE5H hd wd wa wb => Sys2Proof.Machine.execWCvthE5H hd wd wa wb s
  | .wCvthT6T8 hd wd wa => Sys2Proof.Machine.execWCvthT6T8 hd wd wa s
  | .wCvtdDS hd wd wa h => Sys2Proof.Machine.execWCvtdDS hd wd wa h s
  | .wCvtdSH hd wd wa h => Sys2Proof.Machine.execWCvtdSH hd wd wa h s
  | .wCvtdSB hd wd wa h => Sys2Proof.Machine.execWCvtdSB hd wd wa h s
  | .wCvtdHT8 hd wd wa h => Sys2Proof.Machine.execWCvtdHT8 hd wd wa h s
  | .wCvtdHE4 hd wd wa h => Sys2Proof.Machine.execWCvtdHE4 hd wd wa h s
  | .wCvtdHE5 hd wd wa h => Sys2Proof.Machine.execWCvtdHE5 hd wd wa h s
  | .wCvtdT8T6 hd wd wa => Sys2Proof.Machine.execWCvtdT8T6 hd wd wa s
  | .wCvtF4 hd wd wa => Sys2Proof.Machine.execWCvtF4 hd wd wa s
  | .wCvtfi hd wd wa p => Sys2Proof.Machine.execWCvtfi hd wd wa p s
  | .wCvtfu hd wd wa p => Sys2Proof.Machine.execWCvtfu hd wd wa p s
  | .wCvtif hd wd wa p => Sys2Proof.Machine.execWCvtif hd wd wa p s
  | .wCvtuf hd wd wa p => Sys2Proof.Machine.execWCvtuf hd wd wa p s
  | .wPand hd pd pa pb bank => Sys2Proof.Machine.execWPand hd pd pa pb bank s
  | .wPor hd pd pa pb bank => Sys2Proof.Machine.execWPor hd pd pa pb bank s
  | .wPxor hd pd pa pb bank => Sys2Proof.Machine.execWPxor hd pd pa pb bank s
  | .wPandn hd pd pa pb bank => Sys2Proof.Machine.execWPandn hd pd pa pb bank s
  | .wPmov hd pd pa sbank bank => Sys2Proof.Machine.execWPmov hd pd pa sbank bank s
  | .wLd hd wd wa wb wid => Sys2Proof.Machine.execWLd hd wd wa wb wid s
  | .wLds hd wd wa wb wid => Sys2Proof.Machine.execWLds hd wd wa wb wid s
  | .wSt hd wd wa wb wid => Sys2Proof.Machine.execWSt hd wd wa wb wid s
  | .wSpld hd wd wa wb => Sys2Proof.Machine.execWSpld hd wd wa wb s
  | .wSpst hd wd wa wb => Sys2Proof.Machine.execWSpst hd wd wa wb s
  | .wAadd hd wd wa wb => Sys2Proof.Machine.execWAadd hd wd wa wb s
  | .wAswap hd wd wa wb => Sys2Proof.Machine.execWAswap hd wd wa wb s
  | .wAcas hd wd wa wb => Sys2Proof.Machine.execWAcas hd wd wa wb s
  | .wThfetch hd imm => Sys2Proof.Machine.execWThfetch hd imm s
  | .wThfetchr hd wa => Sys2Proof.Machine.execWThfetchr hd wa s
  | .wStop hd => Sys2Proof.Machine.execWStop hd s
  | .wIdx hd wd => Sys2Proof.Machine.execWIdx hd wd s
  | .wSel hd wd wa wb => Sys2Proof.Machine.execWSel hd wd wa wb s
  | .wRng hd wd wa wb => Sys2Proof.Machine.execWRng hd wd wa wb s
  | .wFsinS2 hd wd wa => Sys2Proof.Machine.execWFsinS2 hd wd wa s
  | .wFcosS2 hd wd wa => Sys2Proof.Machine.execWFcosS2 hd wd wa s
  | .wPnot hd pd pa bank => Sys2Proof.Machine.execWPnot hd pd pa bank s
  | .endloop => Sys2Proof.Machine.execEndloop s
  | .gbar => Sys2Proof.Machine.execGbar s
  | .abort => Sys2Proof.Machine.execAbort s
  | .eret => Sys2Proof.Machine.execEret s
  | .upret => Sys2Proof.Machine.execUpret s
  | .irefresh => Sys2Proof.Machine.execIrefresh s
  | .tlbinvWrite => Sys2Proof.Machine.execTlbinvWrite s
  | .setvlGrantReturn => Sys2Proof.Machine.execSetvlGrantReturn s
  | .vsyncReturn => Sys2Proof.Machine.execVsyncReturn s
  | .vectorAccessDone => Sys2Proof.Machine.execVectorAccessDone s
  | .ewaitReturn => Sys2Proof.Machine.execEwaitReturn s
  | .fenceReturn => Sys2Proof.Machine.execFenceReturn s
  | .barrierComplete => Sys2Proof.Machine.execBarrierComplete s
  | .gbarComplete => Sys2Proof.Machine.execGbarComplete s
  | .voteComplete => Sys2Proof.Machine.execVoteComplete s
  | .waitReturn => Sys2Proof.Machine.execWaitReturn s
  | .hubLpatchRequest => Sys2Proof.Machine.execHubLpatchRequest s
  | .hubLarmRequest => Sys2Proof.Machine.execHubLarmRequest s
  | .haltDrainEnd => Sys2Proof.Machine.execHaltDrainEnd s
  | .doneMessage => Sys2Proof.Machine.execDoneMessage s
  | .blockBegin => Sys2Proof.Machine.execBlockBegin s
  | .blockCommit => Sys2Proof.Machine.execBlockCommit s
  | .loadDataReturn => Sys2Proof.Machine.execLoadDataReturn s
  | .laneRotation => Sys2Proof.Machine.execLaneRotation s
  | .spillComplete => Sys2Proof.Machine.execSpillComplete s
  | .restoreComplete => Sys2Proof.Machine.execRestoreComplete s
  | .laneClearingDone => Sys2Proof.Machine.execLaneClearingDone s
  | .frameBoundary => Sys2Proof.Machine.execFrameBoundary s
  | .revocationDeadline => Sys2Proof.Machine.execRevocationDeadline s
  | .contextSave => Sys2Proof.Machine.execContextSave s
  | .agingTick => Sys2Proof.Machine.execAgingTick s
  | .powerPressure => Sys2Proof.Machine.execPowerPressure s
  | .powerPressureEnd => Sys2Proof.Machine.execPowerPressureEnd s
  | .clockHop => Sys2Proof.Machine.execClockHop s
  | .droopDuringHop => Sys2Proof.Machine.execDroopDuringHop s
  | .clockHopRetry => Sys2Proof.Machine.execClockHopRetry s
  | .laneRetirement => Sys2Proof.Machine.execLaneRetirement s
  | .wayRetirement => Sys2Proof.Machine.execWayRetirement s
  | .dispositionSet => Sys2Proof.Machine.execDispositionSet s
  | .droverMove => Sys2Proof.Machine.execDroverMove s
  | .loomTokenWaitEnd => Sys2Proof.Machine.execLoomTokenWaitEnd s
  | .jobStart => Sys2Proof.Machine.execJobStart s
  | .copyJobComplete => Sys2Proof.Machine.execCopyJobComplete s
  | .gleanerJobComplete => Sys2Proof.Machine.execGleanerJobComplete s
  | .loomChunk => Sys2Proof.Machine.execLoomChunk s
  | .packetReport => Sys2Proof.Machine.execPacketReport s
  | .windowStoreArrival => Sys2Proof.Machine.execWindowStoreArrival s
  | .windowLoadArrival => Sys2Proof.Machine.execWindowLoadArrival s
  | .postedStoreFault => Sys2Proof.Machine.execPostedStoreFault s
  | .emulationTrip => Sys2Proof.Machine.execEmulationTrip s
  | .promptTrap => Sys2Proof.Machine.execPromptTrap s
  | .barrierTimeout => Sys2Proof.Machine.execBarrierTimeout s
  | .vsyncTimeout => Sys2Proof.Machine.execVsyncTimeout s
  | .leaseLapse => Sys2Proof.Machine.execLeaseLapse s
  | .unitWakeUp => Sys2Proof.Machine.execUnitWakeUp s
  | .preemptionStop => Sys2Proof.Machine.execPreemptionStop s
  | .rollback => Sys2Proof.Machine.execRollback s
  | .hostRequest => Sys2Proof.Machine.execHostRequest s
  | .remoteRequest => Sys2Proof.Machine.execRemoteRequest s
  | .doorbell => Sys2Proof.Machine.execDoorbell s
  | .registerWrite => Sys2Proof.Machine.execRegisterWrite s
  | .build => Sys2Proof.Machine.execBuild s
  | .release => Sys2Proof.Machine.execRelease s
  | .cfgstage => Sys2Proof.Machine.execCfgstage s
  | .wlogrc => Sys2Proof.Machine.execWlogrc s
  | .member => Sys2Proof.Machine.execMember s
  | .group => Sys2Proof.Machine.execGroup s
  | .coll => Sys2Proof.Machine.execColl s
  | .savereg => Sys2Proof.Machine.execSavereg s
  | .preempt => Sys2Proof.Machine.execPreempt s
  | .resume => Sys2Proof.Machine.execResume s
  | .importImg => Sys2Proof.Machine.execImportImg s
  | .prq => Sys2Proof.Machine.execPrq s
  | .snapreg => Sys2Proof.Machine.execSnapreg s
  | .pclear => Sys2Proof.Machine.execPclear s
  | .summary => Sys2Proof.Machine.execSummary s
  | .undefinedMailboxOpcode => Sys2Proof.Machine.execUndefinedMailboxOpcode s
  | .lockInterfaceRequest => Sys2Proof.Machine.execLockInterfaceRequest s
  | .getDeviceInterfaceReport => Sys2Proof.Machine.execGetDeviceInterfaceReport s
  | .startInterfaceRequest => Sys2Proof.Machine.execStartInterfaceRequest s
  | .stopInterfaceRequest => Sys2Proof.Machine.execStopInterfaceRequest s
  | .lockedBarWrite => Sys2Proof.Machine.execLockedBarWrite s
  | .ideIntegrityFailure => Sys2Proof.Machine.execIdeIntegrityFailure s
  | .spdmMeasurement => Sys2Proof.Machine.execSpdmMeasurement s
  | .flitReceive => Sys2Proof.Machine.execFlitReceive s
  | .acknowledgement => Sys2Proof.Machine.execAcknowledgement s
  | .negativeAcknowledgement => Sys2Proof.Machine.execNegativeAcknowledgement s
  | .laneLost => Sys2Proof.Machine.execLaneLost s
  | .retrainDone => Sys2Proof.Machine.execRetrainDone s
  | .collectiveRoundDone => Sys2Proof.Machine.execCollectiveRoundDone s
  | .collectiveTimeout => Sys2Proof.Machine.execCollectiveTimeout s
  | .abortMessage => Sys2Proof.Machine.execAbortMessage s
  | .timeSlotStart => Sys2Proof.Machine.execTimeSlotStart s
  | .channelRequest => Sys2Proof.Machine.execChannelRequest s
  | .vectorRequestPacket => Sys2Proof.Machine.execVectorRequestPacket s
  | .stackRetirementStart => Sys2Proof.Machine.execStackRetirementStart s
  | .retirementEnd => Sys2Proof.Machine.execRetirementEnd s
  | .stackAnswerTimeout => Sys2Proof.Machine.execStackAnswerTimeout s
  | .stackDead => Sys2Proof.Machine.execStackDead s
  | .refreshBreak => Sys2Proof.Machine.execRefreshBreak s
  | .coldReset => Sys2Proof.Machine.execColdReset s
  | .warmReset => Sys2Proof.Machine.execWarmReset s
  | .bounceReceived => Sys2Proof.Machine.execBounceReceived s
  | .sysRevocation => Sys2Proof.Machine.execSysRevocation s
  | .retentionRelease => Sys2Proof.Machine.execRetentionRelease s

end Sys2Proof.Machine
end

