-- ==== Sys2Proof/Machine/Step.lean ====
section
/-!
DEFINITION. One step of the module: the next entry of the agenda, or the contexts in turn where it is empty (log 1).
-/

namespace Sys2Proof.Machine

/-- A turn carried out. -/
def State.take (t : Turn) : Host.Outcome State Fault Refusal :=
  match t with
  | .done s => .next s
  | .run i s => exec i s

/-- One step. -/
def step (s : State) : Host.Outcome State Fault Refusal :=
  match s.agenda with
  | [] => State.take s.idleTurn
  | a :: l => State.take ({ s with agenda := l }.turn a)

/-- The state in which the next step fetches and runs a word of the opcode table (log 60). -/
def State.withFetchWord (s : State) (_nbits w : Nat) : State :=
  if microWord w then s.withBlock w else s.withCode w

end Sys2Proof.Machine
end

