-- ==== Sys2Proof/Safety.lean ====
section
/-!
DEFINITION. What counts as a safe run, and the terms in which claims about instructions are made.
-/

namespace Sys2Proof.Machine

/-! ### Safe runs -/

/-- The outcome is a next state: no fault and no refusal. -/
def Answers (o : Res') : Prop := ∃ t, o = .next t

/-- The steps that the agenda puts on other agents are steps of other agents. -/
def State.AgendaOk (s : State) : Prop :=
  ∀ a ∈ s.agenda, match a with
    | .event i _ => i.streamOf = .event
    | _ => True

/-- Storage is in its canonical form. -/
abbrev State.Sound (s : State) : Prop := Memory.wf s.mem = true

/-! ### What an instruction of a control thread changes -/

/-- Nothing differs but one context. -/
def OnlyCtx (c : Nat) (s t : State) : Prop := t = { s with ctxs := t.ctxs } ∧ ∀ d, d ≠ c → t.ctx d = s.ctx d

/-- The register `rd` holds `v` where it is not `x0`, and every other register its old value (R206). -/
def RegIs (s t : State) (rd : RegNo) (v : Word) : Prop := ∀ r, t.rx r = if r = rd ∧ rd ≠ 0 then v else s.rx r

/-- The instruction runs to its end: `rd` takes `v`, flags are added to `fflags`, the pc goes on by a word, and nothing
else changes. -/
def Gives (i : Instr) (s : State) (rd : RegNo) (v : Word) (flags : BitVec 7 := 0) : Prop :=
  ∃ t, exec i s = .next t ∧ OnlyCtx s.cur s t ∧ RegIs s t rd v ∧
    t.me = { s.me with x := t.me.x, pc := s.me.pc + 4, fflags := s.me.fflags ||| flags }

/-- The instruction goes to an address, with `rd` taking `v`. -/
def Jumps (i : Instr) (s : State) (rd : RegNo) (v pc : Word) : Prop :=
  ∃ t, exec i s = .next t ∧ OnlyCtx s.cur s t ∧ RegIs s t rd v ∧ t.me = { s.me with x := t.me.x, pc := pc }

/-- The instruction changes its own context as `f` says, and nothing else. -/
def Becomes (i : Instr) (s : State) (f : Ctx → Ctx) : Prop :=
  ∃ t, exec i s = .next t ∧ OnlyCtx s.cur s t ∧ t.me = f s.me

/-- The instruction parks its context, its pc unchanged (R30). -/
def Parks (i : Instr) (s : State) (w : Why) : Prop := Becomes i s (fun x => { x with run := .parked w })

/-- The instruction raises an exception (R372): entry at the pc with a cause and a value. -/
def Raises (i : Instr) (s : State) (k : BitVec 8) (v : Word) : Prop :=
  exec i s = .next (s.trapAt s.cur s.me.pc { cause := k, val := v })

/-- A translation ends with `t` and leaves the state `u` (R131-R136, R218). -/
abbrev State.Translates (s u : State) (va : Word) (n : Need) (t : Tr) : Prop := s.translate (s.who s.cur) va n = .ok t u

/-! ### What a word of a micro-thread changes -/

/-- The current micro-thread runs a block and is at word `b.pos`, with nothing that holds it. -/
abbrev State.Runs (s : State) (b : Blk) : Prop := s.myMt.blk = some b ∧ b.trip = false ∧ b.wait = none

/-- A word that completes: the block changes as given and goes on by a word, and nothing else changes. -/
def WGives (i : Instr) (s : State) (b d : Blk) : Prop :=
  exec i s = .next (s.setBlk { d with pos := b.pos + 1, heldSince := none, stalled := false })

/-- A word whose guard does not hold: the block goes on by a word, and nothing else changes (R191). -/
def WSkips (i : Instr) (s : State) (b : Blk) : Prop := exec i s = .next (s.setBlk { b with pos := b.pos + 1 })

/-- A word of two sources under a guard (R191, R192): skipped where the guard does not hold; held while a source names an
entry of the link-in queue that has not come (R47); else the block is what `r` makes of it, of the block after the sources
are read, and of the sources. -/
def Word2 (i : Instr) (s : State) (h : WHdr) (wa wb : RegNo) (r : Blk → Blk → Word → Word → Blk) : Prop :=
  ∀ b, s.Runs b →
    (b.guard h = false → WSkips i s b) ∧
    (b.guard h = true →
      (b.src s.myMt.linkq wa = none → exec i s = .next s.noteHold) ∧
      ∀ x b1, b.src s.myMt.linkq wa = some (x, b1) →
        (b1.src s.myMt.linkq wb = none → exec i s = .next s.noteHold) ∧
        ∀ y b2, b1.src s.myMt.linkq wb = some (y, b2) → WGives i s b (r b b2 x y))

/-- A word of one source under a guard. -/
def Word1 (i : Instr) (s : State) (h : WHdr) (wa : RegNo) (r : Blk → Blk → Word → Blk) : Prop :=
  ∀ b, s.Runs b →
    (b.guard h = false → WSkips i s b) ∧
    (b.guard h = true →
      (b.src s.myMt.linkq wa = none → exec i s = .next s.noteHold) ∧
      ∀ x b1, b.src s.myMt.linkq wa = some (x, b1) → WGives i s b (r b b1 x))

/-- A word of no source under a guard. -/
def Word0 (i : Instr) (s : State) (h : WHdr) (r : Blk → Blk) : Prop :=
  ∀ b, s.Runs b → (b.guard h = false → WSkips i s b) ∧ (b.guard h = true → WGives i s b (r b))

/-- A packed word (R193, R234): `n` elements of `w` bits from bit 0 up, each the result of `f`, zeros above them, and the
flags of all of them. -/
def Packs (w n : Nat) (f : Nat → Nat × BitVec 7) (v : Word) (fl : BitVec 7) : Prop :=
  v.toNat < 2 ^ (w * n) ∧ (∀ j, j < n → elem w v j = (f j).1 % 2 ^ w) ∧
    fl = (List.range n).foldl (fun a j => a ||| (f j).2) 0

/-! ### Memory that an access can use -/

/-- A control thread's access at an address reaches memory: the checks of R218 pass, the address translates to `t` and
leaves the state `u` (R131-R135), nothing of R404-R409 stops it, its line is not Copying (R415) and no block holds its
sector (R151).  An atomic is not one that R428 refuses. -/
abbrev State.Reaches (s u : State) (va : Word) (op : MemOp) (t : Tr) : Prop :=
  canonical va = true ∧ va.toNat % op.width = 0 ∧ s.Translates u va op.need t ∧ t.attr ≠ 2 ∧
    (placeOf t.pa = .hbm ∨ placeOf t.pa = .tier2) ∧
    u.memFault (s.who s.cur) t va op.writes op.whole = none ∧
    u.stalls t = false ∧ (op.whole = true ∨ checkFails u (memKey t.skew t.pa) = false) ∧
    (op.writes = false ∨ u.blocked (s.who s.cur) (sectorOf (memKey t.skew t.pa)) = false)

/-- The number in the `n` bytes at a translated address, little-endian (R5). -/
def State.numAt (s : State) (t : Tr) (n : Nat) : Nat := leNat (readBytes s.mem (memKey t.skew t.pa) n)

/-- Nothing differs but what the caches hold, what their fills and write-backs leave (R123-R125, R146, R410), and
contexts. -/
abbrev OnlyCaches (u t : State) : Prop :=
  t = { u with ctxs := t.ctxs, l1 := t.l1, l2 := t.l2, freeN := t.freeN, bad := t.bad, scrubs := t.scrubs }

/-- A context but for the fields that fills of the caches change: its two counters, and the reports of write-backs that
poison refuses (R146, R407). -/
abbrev Ctx.Charged (x y : Ctx) : Prop :=
  y = { x with chgfill := y.chgfill, chgwb := y.chgwb, postFaults := y.postFaults } ∧ x.postFaults <+: y.postFaults

/-- A load ends: `rd` takes the value, the pc goes on by a word, and nothing else changes but what the caches hold and
what the context is charged for it (R125, R146). -/
def LoadGives (i : Instr) (s u : State) (rd : RegNo) (v : Word) : Prop :=
  ∃ t, exec i s = .next t ∧ OnlyCaches u t ∧ (∀ d, d ≠ s.cur → t.ctx d = u.ctx d) ∧ RegIs u t rd v ∧
    Ctx.Charged { u.me with x := t.me.x, pc := u.me.pc + 4 } t.me

/-- Bytes of storage outside the spill areas of the lanes (R79) read as before. -/
def KeepsStorage (s t : State) : Prop :=
  ∀ k, (∀ cl l r, r < 16 → k < spillKey cl l r ∨ spillKey cl l r + 256 ≤ k) → readByte t.mem k = readByte s.mem k

/-- The elements `first` up to `n` of an instruction are issued (R261, R262): the context parks with what the instruction
captures and all of them to be performed, or, where a trial of some element fails, those below the lowest failing one
and that failure. -/
def Issues (i : Instr) (s : State) (ra rb : Word) (first n : Nat) : Prop :=
  let u := s.setMe { s.me with elemCap := some (s.capElems s.cur i first) }
  let ks := (List.range (n - first)).map (first + ·)
  let parks := fun (l : List Nat) (stop : Option (Nat × Exc)) (x : Ctx) =>
    { x with elemCap := some (s.capElems s.cur i first), run := .parked (.elems i ra rb l [] stop) }
  ((∀ k ∈ ks, u.tryElem s.cur i ra rb k = none) → Becomes i s (parks ks none)) ∧
  ∀ f e w, f ∈ ks → (∀ k ∈ ks, k < f → u.tryElem s.cur i ra rb k = none) →
    u.tryElem s.cur i ra rb f = some (e, w) →
    ∃ t, exec i s = .next t ∧ t = { s with ctxs := t.ctxs, scriv := w.scriv, scrivNext := w.scrivNext } ∧
      (∀ d, d ≠ s.cur → t.ctx d = s.ctx d) ∧ t.me = parks (ks.filter (· < f)) (some (f, e)) s.me

/-- A partition's write log has the bit of a physical address (R143). -/
def State.logged (s : State) (part pa : Nat) : Prop := logWrite s part pa = s

/-- A store or atomic of `n` bytes ends with `rd` holding `v`: the bytes at the translated address are those of `new`,
their check is right and the write log has the address (R143, R309); every other byte of storage reads as before, and
nothing else changes but what the caches hold, open scrub entries and what the context is charged. -/
def StoreGives (i : Instr) (s u : State) (a : Tr) (n : Nat) (new : Nat) (rd : RegNo) (v : Word) : Prop :=
  ∃ t, exec i s = .next t ∧
    t = { u with ctxs := t.ctxs, l1 := t.l1, l2 := t.l2, freeN := t.freeN, bad := t.bad, mem := t.mem, synd := t.synd,
                 wlog := t.wlog, scrubs := t.scrubs, recs := t.recs } ∧
    (∀ d, d ≠ s.cur → t.ctx d = u.ctx d) ∧ RegIs u t rd v ∧
    Ctx.Charged { u.me with x := t.me.x, pc := u.me.pc + 4 } t.me ∧
    (∀ r, t.lrec r = { u.lrec r with unreplayable := (t.lrec r).unreplayable }) ∧
    t.numAt a n = new % 2 ^ (8 * n) ∧ checkFails t (memKey a.skew a.pa) = false ∧
    t.logged (s.partOf (s.cur / 4)) a.pa ∧
    ∀ k, k < memKey a.skew a.pa ∨ memKey a.skew a.pa + n ≤ k → readByte t.mem k = readByte u.mem k

end Sys2Proof.Machine
end

