-- ==== Sys2Proof/Certificates/Slice0/Obligations.lean ====
section
/-!
DEFINITION. The statements for the provers.  The names `Gives`, `Jumps`, `Raises`, `LoadGives` and their like are those of
`Sys2Proof.Safety`: each says what an instruction changes and that it changes nothing else.
-/

open Sys2Proof Sys2Proof.Machine

/-- After reset every context is FREE with an IDLE grant, at App, and has no entry on its loop stack; every launch record
is UNBUILT; every mailbox is empty; memory reads zero with checks 0xDE; the time base is 0 and every interface is
unlocked. Its storage is in canonical form and its agenda holds steps of other agents only: the premises of
StorageStaysCanonical and EveryStepAnswers hold of it. (13_host_fabric_power.md R344, R26)  That a context which nothing has
placed stands at App, and the other values of the registers that the spec gives no reset value, are the model's choice
(DESIGN CHOICE, log 3). -/
def Obligations.ResetLeaves : Prop :=
  (∀ c, (State.reset.ctx c).run = .free ∧ (State.reset.ctx c).gstate = .idle ∧ (State.reset.ctx c).level = .app ∧
    (State.reset.ctx c).loops = []) ∧
  (∀ r, (State.reset.lrec r).state = 0) ∧ (∀ m, (State.reset.box m).queue = [] ∧ (State.reset.box m).cmd = []) ∧
  (∀ k, readByte State.reset.mem k = 0 ∧ storedCheck State.reset k = 0xDE) ∧ State.reset.now = 0 ∧
  (∀ f, look Tdisp.unlocked State.reset.tdisp f = .unlocked) ∧ State.reset.Sound ∧ State.reset.AgendaOk

/-- From every state whose storage lists its bytes at strictly rising keys and lists no zero byte, whatever agent moves, a
step leads to a state with storage in that form: equal contents are equal data after any run. (05_memory.md,
13_host_fabric_power.md R344) -/
def Obligations.StorageStaysCanonical : Prop :=
  ∀ s t : State, s.Sound → step s = .next t → t.Sound

/-- From every state whose agenda puts only events on other agents, a step answers a next state, and one whose agenda again
puts only events on other agents, so that every step of a run answers: no fault and no refusal, whatever the words at the
program counter, the operands and the levels are. (07_encoding.md R195, 17_traps.md R372, 18_isa_exceptions.md R386)  That
steps come from an agenda is the model's choice (DESIGN CHOICE, log 1). -/
def Obligations.EveryStepAnswers : Prop :=
  ∀ s : State, s.AgendaOk → ∃ t, step s = .next t ∧ t.AgendaOk

/-- When the next entry of the agenda issues context c, or the agenda is empty and c is next in turn, when no event is
pending there, the context may issue and its gang is not being stopped, and when the fetch at its pc gives a word that
decodes to i, then the step is exec of i on the state the fetch left, with c as the current context, active, and its
gang no longer at the point where the Drover moves it. (R30, 17_traps.md R387, 06_ordering.md)  The agenda, and what happens
where it is empty (a tick passes and the contexts that may issue take turns), are the model's choice (DESIGN CHOICE,
log 1). -/
def Obligations.StepRunsTheDecodedWord : Prop :=
  ∀ (s s0 t : State) (c : Nat) (w : IWord) (i : Instr),
    (s.agenda = .issue c :: s0.agenda ∧ s0 = { s with agenda := s0.agenda } ∨
      s.agenda = [] ∧ s0 = { s with now := s.now + 1, rr := c } ∧ ({ s with now := s.now + 1 } : State).nextCtx = some c) →
    s0.tripReady c = false → s0.postReady c = false → s0.promptReady c = false → s0.halted c = false →
    (s0.ctx c).mayIssue = true →
    s0.fetch c (s0.ctx c).pc = (.ok w, t) → decodeC w = .ok i →
    ∃ u, step s = exec i u ∧ u = { t with ctxs := u.ctxs, recs := u.recs, cur := c } ∧
      u.me = { t.ctx c with run := .active } ∧ (∀ d, d ≠ c → u.ctx d = t.ctx d) ∧
      ∀ r, u.lrec r = if r = (t.ctx c).recIdx.toNat then { t.lrec r with fresh := false } else t.lrec r

/-- A pending emulation trip, report of a failed posted store or Prompt trap of the context goes first, in that order.
Where the fetch fails the context takes the trap at its pc with the cause of the fetch; where it has to wait, for a held
sector or a Copying line, nothing else happens. A word that its stream does not define raises the illegal-instruction cause, with the word as its value. Other contexts and storage are those the
fetch left. (17_traps.md R387, R195, 18_isa_exceptions.md R396) -/
def Obligations.StepOtherwise : Prop :=
  ∀ (s s0 t : State) (c : Nat) (l : List Action) (w : IWord) (e : Exc) (n : DecodeErr), s.agenda = .issue c :: l →
    s0 = { s with agenda := l } →
    let ev := fun (i : Instr) => exec i { s0 with arg := { StepArg.zero with unit := c } }
    (s0.tripReady c = true → step s = ev .emulationTrip) ∧
    (s0.tripReady c = false → s0.postReady c = true → step s = ev .postedStoreFault) ∧
    (s0.tripReady c = false → s0.postReady c = false → s0.promptReady c = true → step s = ev .promptTrap) ∧
    (s0.tripReady c = false → s0.postReady c = false → s0.promptReady c = false →
      ((s0.halted c = true ∨ (s0.ctx c).mayIssue = false) → step s = .next s0) ∧
      (s0.halted c = false → (s0.ctx c).mayIssue = true →
        (s0.fetch c (s0.ctx c).pc = (.error (some e), t) → step s = .next (t.trapAt c (t.ctx c).pc e)) ∧
        (s0.fetch c (s0.ctx c).pc = (.error none, t) → step s = .next t) ∧
        (s0.fetch c (s0.ctx c).pc = (.ok w, t) → decodeC w = .error n →
          ∃ u : State, step s = .next (u.trapAt c (u.ctx c).pc { cause := 0x01, val := w.setWidth 64 }) ∧
            u = { t with ctxs := u.ctxs, recs := u.recs } ∧ u.ctx c = { t.ctx c with run := .active } ∧
            ∀ d, d ≠ c → u.ctx d = t.ctx d)))

/-- A fetch at or past codebound gives cause 0x0A and reads nothing. Below it a pc that is not canonical, or that the
resident table does not translate for execution, gives cause 0x09. Where the pc translates to memory outside a window
page, a line that the core's instruction cache holds gives the word, else one that the context's fetch buffer holds; else,
with no wrong check, poison, quarantine or Copying line in the way, the word is the four bytes there. The fetch leaves the state of the translation but for what
the caches hold and what the context is charged. (18_isa_exceptions.md R396, R173, R146)  What a fetch buffer holds and for
how long is the model's choice (DESIGN CHOICE, log 18). -/
def Obligations.FetchReadsStorage : Prop :=
  ∀ (s : State) (c : Nat) (pc : Word),
    let w : Who := { s.who c with kind := 10, l1 := false }
    ((s.ctx c).codebound.toNat ≤ pc.toNat → s.fetch c pc = (.error (some { cause := 0x0A, val := pc }), s)) ∧
    (pc.toNat < (s.ctx c).codebound.toNat → canonical pc = false →
      s.fetch c pc = (.error (some { cause := 0x09, val := pc }), s)) ∧
    (pc.toNat < (s.ctx c).codebound.toNat → inVector pc = true →
      s.vecTr (clusterOf (c / 4)) (s.ctx c).vspace.toNat (s.ctx c).level pc .x = none →
      s.fetch c pc = (.error (some { cause := 0x09, val := pc }), s)) ∧
    ∀ (t : Tr) (u : State), pc.toNat < (s.ctx c).codebound.toNat → canonical pc = true →
      s.translate w pc .x = .ok t u → t.attr ≠ 2 → t.pa < 0x25000000000 →
      let at_ := (c / 4, sectorOf (memKey t.skew t.pa))
      let own := (c, sectorOf (memKey t.skew t.pa))
      let here : Tr := { t with pa := t.pa / 4 * 4 }
      (∀ l, u.icache.find? (fun e => e.1 == at_) = some (at_, l) → s.fetch c pc = (.ok (nth 0 l (t.pa % 256 / 4)), u)) ∧
      (∀ l, (∀ e ∈ u.icache, e.1 ≠ at_) → u.fbuf.find? (fun e => e.1 == own) = some (own, l) →
        s.fetch c pc = (.ok (nth 0 l (t.pa % 256 / 4)), u)) ∧
      ((∀ e ∈ u.icache, e.1 ≠ at_) → (∀ e ∈ u.fbuf, e.1 ≠ own) → u.memFault w here pc false = none →
        checkFails u (memKey t.skew (t.pa / 4 * 4)) = false → u.stalls here = false →
        ∃ v : State, s.fetch c pc = (.ok (BitVec.ofNat 32 (u.numAt here 4)), v) ∧
          v = { u with ctxs := v.ctxs, l1 := v.l1, l2 := v.l2, freeN := v.freeN, bad := v.bad, scrubs := v.scrubs,
                       icache := v.icache } ∧
          ∀ d, Ctx.Charged (u.ctx d) (v.ctx d))

/-- When the next entry of the agenda is a word of micro-thread i of context c, the step is exec of the instruction that
the word at the block's position decodes to, with that micro-thread current; at the end of the block it is the commit
of the block. A micro-thread with no block in progress has no step. When the entry is an event with its arguments, the
step is exec of that row on the state with those arguments and the rest of the agenda; ticks only advance the time
base. (R38, R40, 95_what_each_step_holds.md) -/
def Obligations.StepRunsMicroWordsAndEvents : Prop :=
  (∀ (s s0 : State) (c i : Nat) (b : Blk) (w : IWord) (j : Instr), s.agenda = .word c i :: s0.agenda →
    s0 = { s with agenda := s0.agenda } →
    ((s.mt c i).blk = none → step s = .next s0) ∧
    ((s.mt c i).blk = some b → b.words[b.pos]? = none →
      step s = exec .blockCommit { s0 with arg := { StepArg.zero with unit := c, index := i } }) ∧
    ((s.mt c i).blk = some b → b.words[b.pos]? = some w → decodeW w = .ok j →
      step s = exec j { s0 with cur := c, curMt := i })) ∧
  ∀ (s : State) (l : List Action), (∀ i g, s.agenda = .event i g :: l → step s = exec i { s with agenda := l, arg := g }) ∧
    ∀ n, s.agenda = .ticks n :: l → step s = .next { s with agenda := l, now := s.now + n }

/-- For every well-formed instruction of both streams the encoder gives a word that the decoder of its stream reads as
that instruction, with every operand; a step of another agent has no word. (07_encoding.md) -/
def Obligations.DecodeOfEncode : Prop :=
  ∀ i : Instr, i.wf = true →
    match i.streamOf with
    | .control => ∃ w, encode i = some w ∧ decodeC w = .ok i
    | .micro => ∃ w, encode i = some w ∧ decodeW w = .ok i
    | .event => encode i = none

/-- Where the decoder of a stream reads a word as an instruction, the instruction is well-formed, belongs to that stream,
and its encoding is that word: two different words never decode to one instruction, and a word with a bit set in a
field that must be zero is rejected. (07_encoding.md R195, R177, R190) -/
def Obligations.EncodeOfDecode : Prop :=
  ∀ (w : IWord) (i : Instr),
    (decodeC w = .ok i → i.wf = true ∧ i.streamOf = .control ∧ encode i = some w) ∧
    (decodeW w = .ok i → i.wf = true ∧ i.streamOf = .micro ∧ encode i = some w)

/-- The words printed in the examples of the spec decode to the instructions printed beside them. (R177, R190,
08_control_isa.md R211, 08_control_isa.md R227, 11_sync_isa.md, 09_microthread_isa.md) -/
def Obligations.DecodeOfWordsOfTheSpec : Prop :=
  decodeC 0x08C85001 = .ok (.sub 3 4 5) ∧ decodeC 0x13000000 = .ok (.addi 12 0 0) ∧
  decodeC 0x70140004 = .ok (.loop_ 10 4) ∧ decodeC 0x2B563000 = .ok (.ld 13 11 0) ∧
  decodeC 0x2318D040 = .ok (.fadd 12 12 13 1) ∧ decodeC 0x12D60008 = .ok (.addi 11 11 8) ∧
  decodeC 0x70001000 = .ok .endloop ∧ decodeC 0x30102FFF = .ok (.sb 8 2 0xFFF) ∧
  decodeC 0x394E600B = .ok (.amocas 5 7 6 1) ∧ decodeC 0x6854B000 = .ok (.callt 1 10 11) ∧
  decodeC 0x20C85000 = .ok (.fadd 3 4 5 0) ∧ decodeC 0xA0000004 = .ok .eret ∧
  decodeW 0x4380531C = .ok (.wAdd { e := 0, n := 1, gp := 7 } 5 6 7) ∧
  decodeW 0x3F988191 = .ok (.wClt { e := 0, n := 0, gp := 127 } 8 3 4 1) ∧
  decodeW 0x3FAE84AA = .ok (.wFma { e := 0, n := 0, gp := 127 } 8 9 10 2) ∧
  decodeW 0x3F942FFB = .ok (.wMovi { e := 0, n := 0, gp := 127 } 2 0xFFB) ∧
  decodeW 0x3FF04502 = .ok (.wAcas { e := 0, n := 0, gp := 127 } 4 10 0) ∧
  decodeW 0x0276110E = .ok (.wSel { e := 0, n := 0, gp := 4 } 1 2 3) ∧
  decodeW 0x3FF60000 = .ok (.wStop { e := 0, n := 0, gp := 127 }) ∧
  decodeW 0x81720FFD = .ok (.wThfetch { e := 1, n := 0, gp := 2 } 0xFFD)

/-- Every class 1 and class 2 instruction completes from every state: rd takes the value of the tables of R210, a write to
x0 is discarded, no flag changes, the pc goes on by a word and nothing else changes. Shifts take the low six bits of
the second operand, clz and ctz give 64 for zero, and comparisons write 1 or 0. (R210) -/
def Obligations.IntegerResults : Prop :=
  ∀ (s : State) (rd ra rb : RegNo) (imm : BitVec 12) (sh : BitVec 6),
    let a := s.rx ra
    let b := s.rx rb
    let i := imm.signExtend 64
    let n := (s.rx rb).toNat % 64
    s.rx 0 = 0 ∧
    Gives (.add rd ra rb) s rd (BitVec.ofNat 64 (a.toNat + b.toNat)) ∧
    Gives (.sub rd ra rb) s rd (BitVec.ofInt 64 (a.toInt - b.toInt)) ∧
    Gives (.and_ rd ra rb) s rd (a &&& b) ∧ Gives (.or_ rd ra rb) s rd (a ||| b) ∧
    Gives (.xor_ rd ra rb) s rd (a ^^^ b) ∧ Gives (.andn rd ra rb) s rd (a &&& ~~~b) ∧
    Gives (.orn rd ra rb) s rd (a ||| ~~~b) ∧ Gives (.xnor rd ra rb) s rd (~~~(a ^^^ b)) ∧
    Gives (.sll rd ra rb) s rd (BitVec.ofNat 64 (a.toNat * 2 ^ n)) ∧
    Gives (.srl rd ra rb) s rd (BitVec.ofNat 64 (a.toNat / 2 ^ n)) ∧
    Gives (.sra rd ra rb) s rd (BitVec.ofInt 64 (a.toInt / 2 ^ n)) ∧
    Gives (.rol rd ra rb) s rd (a <<< n ||| a >>> (64 - n)) ∧
    Gives (.ror rd ra rb) s rd (a >>> n ||| a <<< (64 - n)) ∧
    Gives (.slt rd ra rb) s rd (if a.toInt < b.toInt then 1 else 0) ∧
    Gives (.sltu rd ra rb) s rd (if a.toNat < b.toNat then 1 else 0) ∧
    Gives (.seq rd ra rb) s rd (if a = b then 1 else 0) ∧ Gives (.sne rd ra rb) s rd (if a = b then 0 else 1) ∧
    Gives (.min_ rd ra rb) s rd (BitVec.ofInt 64 (min a.toInt b.toInt)) ∧
    Gives (.max_ rd ra rb) s rd (BitVec.ofInt 64 (max a.toInt b.toInt)) ∧
    Gives (.minu rd ra rb) s rd (BitVec.ofNat 64 (min a.toNat b.toNat)) ∧
    Gives (.maxu rd ra rb) s rd (BitVec.ofNat 64 (max a.toNat b.toNat)) ∧
    Gives (.clz rd ra) s rd (if a = 0 then 64 else BitVec.ofNat 64 (63 - a.toNat.log2)) ∧
    (∃ z, z ≤ 64 ∧ a.toNat % 2 ^ z = 0 ∧ (z < 64 → a.getLsbD z = true) ∧
      Gives (.ctz rd ra) s rd (BitVec.ofNat 64 z)) ∧
    Gives (.popc rd ra) s rd (BitVec.ofNat 64 ((List.range 64).filter a.getLsbD).length) ∧
    Gives (.sextb rd ra) s rd ((a.setWidth 8).signExtend 64) ∧
    Gives (.sexth rd ra) s rd ((a.setWidth 16).signExtend 64) ∧
    Gives (.sextw rd ra) s rd ((a.setWidth 32).signExtend 64) ∧
    Gives (.addi rd ra imm) s rd (a + i) ∧ Gives (.andi rd ra imm) s rd (a &&& i) ∧
    Gives (.ori rd ra imm) s rd (a ||| i) ∧ Gives (.xori rd ra imm) s rd (a ^^^ i) ∧
    Gives (.slli rd ra sh) s rd (BitVec.ofNat 64 (a.toNat * 2 ^ sh.toNat)) ∧
    Gives (.srli rd ra sh) s rd (BitVec.ofNat 64 (a.toNat / 2 ^ sh.toNat)) ∧
    Gives (.srai rd ra sh) s rd (BitVec.ofInt 64 (a.toInt / 2 ^ sh.toNat)) ∧
    Gives (.rori rd ra sh) s rd (a >>> sh.toNat ||| a <<< (64 - sh.toNat)) ∧
    Gives (.slti rd ra imm) s rd (if a.toInt < i.toInt then 1 else 0) ∧
    Gives (.sltiu rd ra imm) s rd (if a.toNat < i.toNat then 1 else 0) ∧
    Gives (.seqi rd ra imm) s rd (if a = i then 1 else 0)

/-- lui writes sext(imm22) times 2^12 and auipc the address of its own word plus that; nothing else changes but the pc.
Every distance from -2^33 up to 2^33 - 2049 is a sum of an immediate of auipc and one of addi (the last 2 KiB below
2^33 are not reached: the sentence of R211 rounds this). (08_control_isa.md R211) -/
def Obligations.UpperImmediates : Prop :=
  (∀ (s : State) (rd : RegNo) (imm : BitVec 22),
    Gives (.lui rd imm) s rd (BitVec.ofInt 64 (imm.toInt * 2 ^ 12)) ∧
    Gives (.auipc rd imm) s rd (s.me.pc + BitVec.ofInt 64 (imm.toInt * 2 ^ 12))) ∧
  ∀ d : Int, -2 ^ 33 ≤ d → d < 2 ^ 33 - 2048 →
    ∃ (hi : BitVec 22) (lo : BitVec 12), hi.toInt * 2 ^ 12 + lo.toInt = d

/-- Where the disposition record does not mark class 3, each multiply and divide completes with the value of R212; a
division by zero, and the signed division of the least value by -1, complete with the values R212 names and set IZ. No
other flag changes, and nothing else but rd and the pc. (R212) -/
def Obligations.MultiplyDivideResults : Prop :=
  ∀ (s : State) (rd ra rb : RegNo), s.emulated 3 = false →
    let a := s.rx ra
    let b := s.rx rb
    let corner := a.toInt = -2 ^ 63 ∧ b.toInt = -1
    Gives (.mul rd ra rb) s rd (BitVec.ofNat 64 (a.toNat * b.toNat)) ∧
    Gives (.mulh rd ra rb) s rd (BitVec.ofInt 64 (a.toInt * b.toInt / 2 ^ 64)) ∧
    Gives (.mulhu rd ra rb) s rd (BitVec.ofNat 64 (a.toNat * b.toNat / 2 ^ 64)) ∧
    Gives (.mulhsu rd ra rb) s rd (BitVec.ofInt 64 (a.toInt * b.toNat / 2 ^ 64)) ∧
    (b = 0 → Gives (.div rd ra rb) s rd (-1) 0x20 ∧ Gives (.rem rd ra rb) s rd a 0x20 ∧
      Gives (.divu rd ra rb) s rd 0xFFFFFFFFFFFFFFFF 0x20 ∧ Gives (.remu rd ra rb) s rd a 0x20) ∧
    (corner → Gives (.div rd ra rb) s rd a 0x20 ∧ Gives (.rem rd ra rb) s rd 0 0x20) ∧
    (b ≠ 0 → ¬ corner → Gives (.div rd ra rb) s rd (BitVec.ofInt 64 (a.toInt.tdiv b.toInt)) ∧
      Gives (.rem rd ra rb) s rd (BitVec.ofInt 64 (a.toInt.tmod b.toInt))) ∧
    (b ≠ 0 → Gives (.divu rd ra rb) s rd (BitVec.ofNat 64 (a.toNat / b.toNat)) ∧
      Gives (.remu rd ra rb) s rd (BitVec.ofNat 64 (a.toNat % b.toNat)))

/-- With storage in its canonical form: where the disposition record marks the class, the core's record serves no trip
and no other context asked before, the instruction traps to Fw whatever the level: cause 0x13, the word as its value,
the address of the word saved, and no register or flag changed; the record holds the word, its address, one entry with
the operands, and the rounding mode. Otherwise the context queues for the record, once for the word at which it waits, and
nothing else changes. Storage outside the record, and every other context, is as before. (R209, 18_isa_exceptions.md R391, 18_isa_exceptions.md R392,
18_isa_exceptions.md R393, 17_traps.md R372) -/
def Obligations.EmulatedClassesTrap : Prop :=
  ∀ (s : State) (i : Instr) (w : IWord) (k : Nat) (x y : Word) (rd ra rb : RegNo) (p : BitVec 1),
    s.Sound →
    (k = 3 ∧ x = s.rx ra ∧ y = s.rx rb ∧
        (i = .mul rd ra rb ∨ i = .mulh rd ra rb ∨ i = .mulhu rd ra rb ∨ i = .mulhsu rd ra rb ∨ i = .div rd ra rb ∨
          i = .divu rd ra rb ∨ i = .rem rd ra rb ∨ i = .remu rd ra rb) ∨
      k = 4 ∧ x = s.rx ra ∧ (i = .fdiv rd ra rb p ∧ y = s.rx rb ∨ i = .fsqrt rd ra p ∧ y = 0)) →
    encode i = some w → s.emulated k = true →
    let core := s.cur / 4
    let mine := s.emuFree core = true ∧ s.firstTrip s.cur = true
    (¬ mine → ∃ t, exec i s = .next t ∧ t = { s with ctxs := t.ctxs, emuQ := t.emuQ } ∧
      (∀ d, d ≠ s.cur → t.ctx d = s.ctx d) ∧ t.me = { s.me with emuAt := some s.me.pc } ∧
      (s.me.emuAt = some s.me.pc → t.emuQ = s.emuQ) ∧
      (s.me.emuAt ≠ some s.me.pc → look [] t.emuQ core =
        (look [] s.emuQ core).filter (fun e => e ≠ (s.cur, 0)) ++ [(s.cur, 0)])) ∧
    (mine →
      ∃ t, exec i s = .next t ∧
        t = { s with ctxs := t.ctxs, mem := t.mem, synd := t.synd, marks := t.marks, emuQ := t.emuQ } ∧
        (∀ e ∈ look [] t.emuQ core, e ≠ (s.cur, 0)) ∧
        (∀ d, d ≠ s.cur → t.ctx d = s.ctx d) ∧
        t.me = { s.me with
          run := .active, level := .fw, pc := s.me.ft.vec >>> 2 <<< 2, call := none, card := none, watching := none
          ft := { s.me.ft with cause := 0x13, epc := s.me.pc, val := w.setWidth 64, plev := s.me.level.code,
                               ldepth := BitVec.ofNat 3 s.me.loops.length }
          emu := some (0, w), emuAt := none } ∧
        t.emuWord core 0 = w.setWidth 64 ∧ t.emuWord core 8 = s.me.pc ∧
        t.emuWord core 0x10 = 1 ∧ t.emuWord core 0x18 = s.me.crm.setWidth 64 ∧
        t.emuField core 0 0 = x ∧ t.emuField core 0 1 = y ∧ t.emuField core 0 3 = 0x8000 ∧
        ∀ a, a < emuKey core ∨ emuKey core + 0x120 ≤ a → readByte t.mem a = readByte s.mem a)

/-- Each class 4 instruction completes from every state (fdiv and fsqrt where they are not emulated): .s forms read bits
31:0 of their sources, .d forms all 64 bits, rounding is by crm, the flags of the result are ORed into fflags, and
nothing else changes. fsub adds the second operand with its sign inverted; the fused forms take the signs of R214.
(R213, R214, R215, R216, R217, R206) -/
def Obligations.ScalarFloatResults : Prop :=
  ∀ (s : State) (rd ra rb : RegNo) (p : BitVec 1),
    let f : Fmt := if p = 1 then f64 else f32
    let code := fun (r : RegNo) => if p = 1 then (s.rx r).toNat else (s.rx r).toNat % 2 ^ 32
    let v := fun r => f.decode (code r)
    let rm : Rnd := { mode := s.me.crm, draw := 0 }
    let G := fun (i : Instr) (r : Nat × BitVec 7) => Gives i s rd (BitVec.ofNat 64 r.1) r.2
    let B := fun (i : Instr) (r : Bool × BitVec 7) => Gives i s rd (if r.1 then 1 else 0) r.2
    let I := fun (i : Instr) (r : Int × BitVec 7) => Gives i s rd (BitVec.ofInt 64 r.1) r.2
    G (.fadd rd ra rb p) (fpAdd f rm (v ra) (v rb)) ∧ G (.fsub rd ra rb p) (fpAdd f rm (v ra) (v rb).neg) ∧
    G (.fmul rd ra rb p) (fpMul f rm (v ra) (v rb)) ∧
    (s.emulated 4 = false → G (.fdiv rd ra rb p) (fpDiv f rm (v ra) (v rb)) ∧
      G (.fsqrt rd ra p) (fpSqrt f rm (v ra))) ∧
    G (.fmin rd ra rb p) (fpMinMax f false (code ra) (code rb)) ∧
    G (.fmax rd ra rb p) (fpMinMax f true (code ra) (code rb)) ∧
    G (.fabs rd ra p) (code ra % 2 ^ (if p = 1 then 63 else 31), 0) ∧
    G (.fneg rd ra p) (code ra ^^^ 2 ^ (if p = 1 then 63 else 31), 0) ∧
    G (.fmadd rd ra rb p) (fpFma f rm false false (v ra) (v rb) (v rd)) ∧
    G (.fmsub rd ra rb p) (fpFma f rm false true (v ra) (v rb) (v rd)) ∧
    G (.fnmadd rd ra rb p) (fpFma f rm true false (v ra) (v rb) (v rd)) ∧
    G (.fnmsub rd ra rb p) (fpFma f rm true true (v ra) (v rb) (v rd)) ∧
    B (.feq rd ra rb p) (fpCmp f 0 (code ra) (code rb)) ∧ B (.flt rd ra rb p) (fpCmp f 1 (code ra) (code rb)) ∧
    B (.fle rd ra rb p) (fpCmp f 2 (code ra) (code rb)) ∧
    I (.fcvtL rd ra p) (fpToInt rm (-2 ^ 63) (2 ^ 63 - 1) (v ra)) ∧
    I (.fcvtLu rd ra p) (fpToInt rm 0 (2 ^ 64 - 1) (v ra)) ∧
    I (.fcvtW rd ra p) (fpToInt rm (-2 ^ 31) (2 ^ 31 - 1) (v ra)) ∧
    I (.fcvtWu rd ra p) (fpToInt rm 0 (2 ^ 32 - 1) (v ra)) ∧
    G (.fcvtFromL rd ra p) (intToFp f rm (s.rx ra).toInt) ∧ G (.fcvtFromLu rd ra p) (intToFp f rm (s.rx ra).toNat) ∧
    G (.fcvtFromW rd ra p) (intToFp f rm ((s.rx ra).setWidth 32).toInt) ∧
    G (.fcvtFromWu rd ra p) (intToFp f rm ((s.rx ra).setWidth 32).toNat) ∧
    G (.fcvtDS rd ra) ((FpFmt.bin f64).convert rm (f32.decode ((s.rx ra).toNat % 2 ^ 32))) ∧
    G (.fcvtSD rd ra) ((FpFmt.bin f32).convert rm (f64.decode (s.rx ra).toNat)) ∧
    G (.fclass rd ra p) (fpClass f (code ra), 0)

/-- What the numbers are, for every binary and tapered format. ROUNDING: a magnitude `r/2^k` of the way from the code `a` to
the next goes to one of the two as its mode says (R101, R103): to the nearer, ties to the even code; to zero; down; up; or by
⌊2^16 r/2^k⌋ + draw ≥ 2^16; a representable one stays with no flag, another sets NX, a subnormal result UF, one that reaches
the infinity OF; what lies at or beyond 2^(emax+1) gives the overflow result, and in a saturating format what lies beyond the
largest finite value gives that; and only the value rounded counts, not how it is written (R101, R105, R106). T8 and T6
round likewise between neighbouring codes. ARITHMETIC: sums, products, quotients, roots and fused forms of finite values are
the exact results so rounded, an exact zero sum is negative under RDN only, a NaN operand gives the canonical NaN and sets NV
if an operand is signalling, and the invalid and divide-by-zero forms give their NaN or infinity and flag (R91, R92, R214).
fmin and fmax, converts and fclass: R107, R215, R216. exp2, log2, rcp and rsqrt are exact where R240 says so, with its special
operands. (R91, R92, R101, R103, R105, R106, R107, R214, R215, R216, 09_microthread_isa.md R240) -/
def Obligations.FloatLaws : Prop :=
  (∀ (f : Fmt) (rd : Rnd) (neg : Bool), f ∈ [f64, f32, f16, bf16, e4m3, e5m2, e2m1] →
    let up := fun (odd : Bool) (r g : Nat) => r ≠ 0 ∧
      (rd.mode = 0 ∧ (g < 2 * r ∨ 2 * r = g ∧ odd = true) ∨ rd.mode = 2 ∧ neg = true ∨ rd.mode = 3 ∧ neg = false ∨
        4 ≤ rd.mode.toNat ∧ 2 ^ 16 ≤ r * 2 ^ 16 / g + rd.draw)
    let R := fun (m : Nat) (e : Int) => roundMag f rd neg { m := m, e := e, more := false }
    (∀ (a k r m : Nat) (e : Int), a < (if f.inf then f.infCode else f.maxCode) → f.decode a = .fin false m e → r < 2 ^ k →
      m * 2 ^ k + r ≠ 0 →
      (r = 0 → R (m * 2 ^ k) (e - k) = (f.sign neg + a, 0)) ∧
      (r ≠ 0 → ¬ up (a % 2 == 1) r (2 ^ k) → ∃ fl, R (m * 2 ^ k + r) (e - k) = (f.sign neg + a, fl) ∧
        (2 ^ f.fb ≤ a → fl = fNX) ∧ (a + 1 < 2 ^ f.fb → fl = fUF ||| fNX) ∧ (fl = fNX ∨ fl = fUF ||| fNX)) ∧
      (up (a % 2 == 1) r (2 ^ k) → ∃ fl, R (m * 2 ^ k + r) (e - k) = (f.sign neg + (a + 1), fl) ∧
        (f.inf = true → a + 1 = f.infCode → fl = fOF ||| fNX) ∧
        (f.inf = false ∨ a + 1 ≠ f.infCode → (2 ^ f.fb ≤ a → fl = fNX) ∧ (a + 1 < 2 ^ f.fb → fl = fUF ||| fNX) ∧
          (fl = fNX ∨ fl = fUF ||| fNX)))) ∧
    (∀ (m : Nat) (e : Int), m ≠ 0 → f.inf = true → f.bias < (Nat.log2 m : Int) + e →
      R m e = (f.sign neg + (if rd.mode = 1 ∨ rd.mode = 2 ∧ neg = false ∨ rd.mode = 3 ∧ neg = true then f.infCode - 1
        else f.infCode), fOF ||| fNX)) ∧
    (∀ (m k r p : Nat) (e : Int), f.inf = false → f.decode f.maxCode = .fin false m e → m * 2 ^ k < r →
      R (r * 2 ^ p) (e - k) = (f.sign neg + f.maxCode, fOF ||| fNX)) ∧
    ∀ (m j : Nat) (e : Int), R (m * 2 ^ j) (e - j) = R m e) ∧
  (∀ (n : Nat) (rd : Rnd) (neg : Bool) (c lo m hi : Nat) (e : Int), (n = 7 ∨ n = 5) → c < 2 ^ n - 1 →
    let mag := fun (k : Nat) => Mag.mk (taperedMag n k).1 (taperedMag n k).2 false
    let at_ := fun (k : Nat) => Mag.mk k e false
    let R := fun (k : Nat) => roundTapered n rd neg (at_ k)
    let code := fun (k : Nat) => if k = 0 then 0 else (if neg then 2 ^ n else 0) + k
    (if c = 0 then lo = 0 else (at_ lo).cmp (mag c) = 0) → (at_ hi).cmp (mag (c + 1)) = 0 → lo < m → m < hi →
    let up := rd.mode = 0 ∧ (hi - lo < 2 * (m - lo) ∨ 2 * (m - lo) = hi - lo ∧ c % 2 = 1) ∨ rd.mode = 2 ∧ neg = true ∨
      rd.mode = 3 ∧ neg = false ∨ 4 ≤ rd.mode.toNat ∧ 2 ^ 16 ≤ (m - lo) * 2 ^ 16 / (hi - lo) + rd.draw
    R lo = (code c, 0) ∧ R hi = (code (c + 1), 0) ∧
    (up → R m = (code (c + 1), if c = 0 then fUF ||| fNX else fNX)) ∧
    (¬ up → R m = (code c, if c = 0 then fUF ||| fNX else fNX)) ∧
    (c + 1 = 2 ^ n - 1 → R (hi + m) = (code (c + 1), fOF ||| fNX))) ∧
  (∀ (f : Fmt) (rm : Rnd), (f = f64 ∨ f = f32 ∨ f = f16 ∨ f = bf16) →
    let R := fun (n : Bool) (m : Nat) (e : Int) => roundMag f rm n { m := m, e := e, more := false }
    let one := f.infCode / 2 / 2 ^ f.fb * 2 ^ f.fb
    (∀ a b, fpAdd f rm a b = fpAdd f rm b a ∧ fpMul f rm a b = fpMul f rm b a) ∧
    (∀ x y z : Nat, ∀ v ∈ [fpAdd f rm (f.decode x) (f.decode y), fpMul f rm (f.decode x) (f.decode y),
        fpDiv f rm (f.decode x) (f.decode y), fpSqrt f rm (f.decode x), fpExp2 f rm (f.decode x), fpLog2 f rm (f.decode x),
        fpRcp f rm (f.decode x), fpRsqrt f rm (f.decode x),
        fpFma f rm false false (f.decode x) (f.decode y) (f.decode z)], v.1 < 2 ^ f.width) ∧
    (∀ a b, a.isNan = true ∨ b.isNan = true →
      let v := (f.nan, if a.isSig || b.isSig then fNV else 0)
      fpAdd f rm a b = v ∧ fpMul f rm a b = v ∧ fpDiv f rm a b = v) ∧
    (∀ a, a.isNan = true → let v := (f.nan, if a.isSig then fNV else 0)
      fpSqrt f rm a = v ∧ fpExp2 f rm a = v ∧ fpLog2 f rm a = v ∧ fpRcp f rm a = v ∧ fpRsqrt f rm a = v) ∧
    (∀ n : Bool, fpAdd f rm (.inf n) (.inf !n) = (f.nan, fNV) ∧ fpAdd f rm (.inf n) (.inf n) = (f.sign n + f.infCode, 0) ∧
      fpRcp f rm (.inf n) = (f.sign n, 0)) ∧
    (∀ (n d : Bool) (m k : Nat) (e : Int),
      fpAdd f rm (.fin n m e) (.fin n k e) = R n (m + k) e ∧
      (k < m → fpAdd f rm (.fin n m e) (.fin (!n) k e) = R n (m - k) e) ∧
      fpAdd f rm (.fin n m e) (.fin (!n) m e) = (f.sign (rm.mode == 2), 0) ∧
      fpAdd f rm (.inf n) (.fin d m e) = (f.sign n + f.infCode, 0)) ∧
    (∀ (n d : Bool) (m k : Nat) (e g : Int),
      fpMul f rm (.fin n m e) (.fin d k g) = R (n != d) (m * k) (e + g) ∧
      (m ≠ 0 → fpMul f rm (.inf d) (.fin n m e) = (f.sign (d != n) + f.infCode, 0)) ∧
      fpMul f rm (.inf d) (.fin n 0 e) = (f.nan, fNV) ∧
      (m ≠ 0 → k ≠ 0 → fpDiv f rm (.fin n (m * k) e) (.fin d m g) = R (n != d) k (e - g)) ∧
      (k ≠ 0 → fpDiv f rm (.fin n k e) (.fin d 0 g) = (f.sign (n != d) + f.infCode, fDZ)) ∧
      fpDiv f rm (.fin n 0 e) (.fin d 0 g) = (f.nan, fNV) ∧ fpDiv f rm (.inf n) (.inf d) = (f.nan, fNV) ∧
      fpDiv f rm (.fin n m e) (.inf d) = (f.sign (n != d), 0)) ∧
    (∀ (m : Nat) (e : Int), m ≠ 0 → fpSqrt f rm (.fin false (m * m) (2 * e)) = R false m e ∧
      fpSqrt f rm (.fin true m e) = (f.nan, fNV)) ∧
    (∀ (n : Bool) (e : Int), fpSqrt f rm (.fin n 0 e) = (f.sign n, 0) ∧ fpSqrt f rm (.inf n) =
      (if n then f.nan else f.infCode, if n then fNV else 0)) ∧
    (∀ (np nc n d : Bool) (m k : Nat) (e g : Int) (c : Machine.Num), fpFma f rm np nc (.fin n m e) (.fin d k g) c =
        fpAdd f rm (.fin ((n != d) != np) (m * k) (e + g)) (if nc then c.neg else c) ∧
      fpFma f rm np nc (.inf d) (.fin n 0 e) c = (f.nan, fNV)) ∧
    (∀ (x y : Nat), let a := f.decode x
      let b := f.decode y
      let fl : BitVec 7 := if a.isSig || b.isSig then fNV else 0
      (a.isNan = true → b.isNan = true → fpMinMax f false x y = (f.nan, fl) ∧ fpMinMax f true x y = (f.nan, fl)) ∧
      (a.isNan = true → b.isNan = false → fpMinMax f false x y = (y, fl) ∧ fpMinMax f true x y = (y, fl)) ∧
      (a.isNan = false → b.isNan = true → fpMinMax f false x y = (x, fl) ∧ fpMinMax f true x y = (x, fl)) ∧
      (numCmp a b < 0 → fpMinMax f false x y = (x, 0) ∧ fpMinMax f true x y = (y, 0) ∧
        fpMinMax f false y x = (x, 0) ∧ fpMinMax f true y x = (y, 0)) ∧
      (∀ e g, a = .fin true 0 e → b = .fin false 0 g → fpMinMax f false x y = (x, 0) ∧ fpMinMax f true x y = (y, 0) ∧
        fpMinMax f false y x = (x, 0) ∧ fpMinMax f true y x = (y, 0))) ∧
    (∀ (n : Bool) (m j : Nat) (e : Int),
      (m ≠ 0 → m < 2 ^ 20 → fpExp2 f rm (.fin n m 0) = R false 1 (if n then -(m : Int) else m)) ∧
      fpExp2 f rm (.fin n 0 e) = (one, 0) ∧ fpExp2 f rm (.inf n) = (if n then 0 else f.infCode, 0) ∧
      fpLog2 f rm (.fin false (2 ^ j) e) = R (decide ((j : Int) + e < 0)) ((j : Int) + e).natAbs 0 ∧
      fpLog2 f rm (.fin n 0 e) = (f.sign true + f.infCode, fDZ) ∧
      (m ≠ 0 → fpLog2 f rm (.fin true m e) = (f.nan, fNV) ∧ fpRsqrt f rm (.fin true m e) = (f.nan, fNV)) ∧
      fpLog2 f rm (.inf n) = (if n then f.nan else f.infCode, if n then fNV else 0) ∧
      fpRcp f rm (.fin n (2 ^ j) e) = R n 1 (-((j : Int) + e)) ∧
      fpRcp f rm (.fin n 0 e) = (f.sign n + f.infCode, fDZ) ∧
      (j ≤ 26 → fpRsqrt f rm (.fin false (2 ^ (2 * j)) (2 * e)) = R false 1 (-((j : Int) + e))) ∧
      fpRsqrt f rm (.fin n 0 e) = (f.sign n + f.infCode, fDZ) ∧
      fpRsqrt f rm (.inf n) = (if n then f.nan else 0, if n then fNV else 0)) ∧
    (∀ i : Int, intToFp f rm i = R (decide (i < 0)) i.natAbs 0) ∧
    ∀ x : Nat, ∃ k, k ≤ 9 ∧ fpClass f x = 2 ^ k) ∧
  (∀ (rd : Rnd) (lo hi : Int) (n : Bool) (q k r : Nat), lo ≤ 0 → 0 ≤ hi → r < 2 ^ k →
    let up := r ≠ 0 ∧ (rd.mode = 0 ∧ (2 ^ k < 2 * r ∨ 2 * r = 2 ^ k ∧ q % 2 = 1) ∨ rd.mode = 2 ∧ n = true ∨
      rd.mode = 3 ∧ n = false ∨ 4 ≤ rd.mode.toNat ∧ 2 ^ 16 ≤ r * 2 ^ 16 / 2 ^ k + rd.draw)
    (∀ p : Nat, (p = q + 1 ∧ up ∨ p = q ∧ ¬ up) →
      let i : Int := if n then -(p : Int) else p
      fpToInt rd lo hi (.fin n (q * 2 ^ k + r) (-(k : Int))) =
        if i < lo then (lo, fNV) else if hi < i then (hi, fNV) else (i, if r = 0 then 0 else fNX)) ∧
    (∀ sg, fpToInt rd lo hi (.nan sg n) = (0, fNV)) ∧ fpToInt rd lo hi (.inf n) = (if n then lo else hi, fNV)) ∧
  (∀ (rd : Rnd) (n sg : Bool),
    (∀ f ∈ [f64, f32, f16, bf16, e5m2], (FpFmt.bin f).convert rd (.nan sg n) = (f.nan, if sg then fNV else 0) ∧
      (FpFmt.bin f).convert rd (.inf n) = (f.sign n + f.infCode, 0)) ∧
    (FpFmt.bin e4m3).convert rd (.nan sg n) = (e4m3.sign n + 0x7F, if sg then fNV else 0) ∧
    (FpFmt.bin e2m1).convert rd (.nan sg n) = (0, fNV) ∧
    (FpFmt.bin e4m3).convert rd (.inf n) = (e4m3.sign n + 0x7E, fOF ||| fNX) ∧
    (FpFmt.bin e2m1).convert rd (.inf n) = (e2m1.sign n + 7, fOF ||| fNX) ∧
    (∀ k ∈ [7, 5], (FpFmt.tapered k).convert rd (.nan sg n) = (2 ^ k, if sg then fNV else 0) ∧
      (FpFmt.tapered k).convert rd (.inf n) = ((if n then 2 ^ k else 0) + (2 ^ k - 1), fOF ||| fNX))) ∧
  ∀ (rd : Rnd) (sf df b : Nat),
    (∀ x y, fpFmt sf = some x → fpFmt df = some y → convertElem sf df rd b = y.convert rd (x.decode b)) ∧
    (∀ x lo hi, fpFmt sf = some x → intRange df = some (lo, hi) → convertElem sf df rd b =
      (((fpToInt rd lo hi (x.decode b)).1 % 2 ^ fmtBits df).toNat, (fpToInt rd lo hi (x.decode b)).2)) ∧
    ∀ lo hi l h, intRange sf = some (lo, hi) → intRange df = some (l, h) → b < 2 ^ fmtBits sf →
      let i : Int := if lo < 0 ∧ 2 ^ (fmtBits sf - 1) ≤ b then (b : Int) - 2 ^ fmtBits sf else b
      (∀ y, fpFmt df = some y → convertElem sf df rd b = y.convert rd (.fin (decide (i < 0)) i.natAbs 0)) ∧
      (fmtBits sf < fmtBits df → convertElem sf df rd b = ((i % 2 ^ fmtBits df).toNat, 0)) ∧
      (fmtBits df ≤ fmtBits sf →
        (i < l → convertElem sf df rd b = ((l % 2 ^ fmtBits df).toNat, fIS)) ∧
        (h < i → convertElem sf df rd b = ((h % 2 ^ fmtBits df).toNat, fIS)) ∧
        (l ≤ i → i ≤ h → convertElem sf df rd b = ((i % 2 ^ fmtBits df).toNat, 0)))

/-- A translation of an address in vector space that succeeds gives what the resident table holds, and leaves the state as
it was but for the TLBs. One in scalar space, with storage in its canonical form, is that of a TLB entry of the core which
serves the access, with nothing changed, or that of the leaf on which the walk of the current tables ends, which permits it:
then A is set in the leaf's entry, and D as well for an access that writes, in each of the sixteen entries where they stand
for one 64 KiB page, and every other byte of storage reads as before (A and D of R132). Contexts change only in what fills charge them, and
otherwise only the TLBs, what the caches hold, scrub entries, the write log and checks change.
(R131, R132, R133, R135, R146, R413) -/
def Obligations.TranslationLeaves : Prop :=
  ∀ (s u : State) (w : Who) (va : Word) (n : Need) (t : Tr), s.Sound → s.translate w va n = .ok t u →
    (inVector va = true → u = { s with tlb := u.tlb, freeN := u.freeN } ∧
      s.vecTr (clusterOf w.core) (s.ctx w.c).vspace.toNat w.level va n = some t) ∧
    u = { s with ctxs := u.ctxs, mem := u.mem, synd := u.synd, tlb := u.tlb, l1 := u.l1, l2 := u.l2, freeN := u.freeN,
                 bad := u.bad, scrubs := u.scrubs, wlog := u.wlog } ∧
    (∀ c, Ctx.Charged (s.ctx c) (u.ctx c)) ∧
    (inVector va = false →
      (∃ e ∈ s.tlb, e.core = w.core ∧ e.vector = false ∧ e.root = (s.ctx w.c).ptroot ∧
        e.page = va.toNat / 2 ^ e.bits ∧ tlbServes e w.level n = true ∧ t = leafTr e.leaf va (e.bits == 16) ∧ u = s) ∨
      ∃ e at_, (s.walk w va).1 = .leaf e at_ ∧ permits e w.level n = true ∧
        let pas := s.pageEntries va e at_
        t = leafTr e va (pas.length == 16) ∧
        (∀ p ∈ pas, readDw u.mem (memKey 0 p) =
          readDw s.mem (memKey 0 p) ||| (if n = .w ∨ n = .rw then 0xC0 else 0x40)) ∧
        ∀ k, (∀ p ∈ pas, k < memKey 0 p ∨ memKey 0 p + 8 ≤ k) → readByte u.mem k = readByte s.mem k)

/-- A load whose access reaches memory completes: rd takes the little-endian bytes at the translated address, sign-
extended by lb, lh, lw and ld, zero-extended by lbu, lhu and lwu; the pc goes on by a word; every other register, all
of storage, and everything else is as the translation left it, but for what caches hold and what the context is
charged. (R218, R219, R206) -/
def Obligations.LoadResults : Prop :=
  ∀ (s u : State) (rd ra : RegNo) (imm : BitVec 12) (t : Tr),
    let a := s.rx ra + imm.signExtend 64
    (s.Reaches u a (.load 1) t →
      LoadGives (.lb rd ra imm) s u rd ((BitVec.ofNat 8 (u.numAt t 1)).signExtend 64) ∧
      LoadGives (.lbu rd ra imm) s u rd (BitVec.ofNat 64 (u.numAt t 1))) ∧
    (s.Reaches u a (.load 2) t →
      LoadGives (.lh rd ra imm) s u rd ((BitVec.ofNat 16 (u.numAt t 2)).signExtend 64) ∧
      LoadGives (.lhu rd ra imm) s u rd (BitVec.ofNat 64 (u.numAt t 2))) ∧
    (s.Reaches u a (.load 4) t →
      LoadGives (.lw rd ra imm) s u rd ((BitVec.ofNat 32 (u.numAt t 4)).signExtend 64) ∧
      LoadGives (.lwu rd ra imm) s u rd (BitVec.ofNat 64 (u.numAt t 4))) ∧
    (s.Reaches u a (.load 8) t → LoadGives (.ld rd ra imm) s u rd (BitVec.ofNat 64 (u.numAt t 8)))

/-- With storage in its canonical form, a store whose access reaches memory completes: the bytes at the translated
address, as many as the store is wide, are the low bytes of rb; every other byte of storage reads as before; the check
of the doubleword is right and the partition's write log has the address; no register changes, and the pc goes on by a
word. (R220, R143, R309, R218) -/
def Obligations.StoreResults : Prop :=
  ∀ (s u : State) (ra rb : RegNo) (imm : BitVec 12) (t : Tr), s.Sound →
    let a := s.rx ra + imm.signExtend 64
    let v := s.rx rb
    (s.Reaches u a (.store 1 v) t → StoreGives (.sb ra rb imm) s u t 1 v.toNat 0 0) ∧
    (s.Reaches u a (.store 2 v) t → StoreGives (.sh ra rb imm) s u t 2 v.toNat 0 0) ∧
    (s.Reaches u a (.store 4 v) t → StoreGives (.sw ra rb imm) s u t 4 v.toNat 0 0) ∧
    (s.Reaches u a (.store 8 v) t → StoreGives (.sd ra rb imm) s u t 8 v.toNat 0 0)

/-- With storage in its canonical form, an atomic of n bytes whose access reaches memory, and which the rollback rule does
not refuse, completes: rd takes the old value, sign-extended for .w; the n bytes become the new value of R222 (a
failing amocas leaves them); the write log has the address in either case; every other byte of storage, every other
register and the flags are unchanged. (R222, R223, R143, 19_memory_faults.md R428) -/
def Obligations.AtomicResults : Prop :=
  ∀ (s u : State) (rd ra rb : RegNo) (d : BitVec 1) (t : Tr), s.Sound →
    let n := if d = 1 then 8 else 4
    let m := 2 ^ (8 * n)
    let old := u.numAt t n
    let v := (s.rx rb).toNat % m
    let c := (s.rx rd).toNat % m
    let sgn := fun x : Nat => (if 2 * x < m then (x : Int) else (x : Int) - m)
    let A := fun (i : Instr) (op : Nat) (new : Nat) =>
      s.Reaches u (s.rx ra) (.amo n op (s.rx rb) (s.rx rd)) t → u.noAtomic s.cur = false →
        StoreGives i s u t n new rd (BitVec.ofInt 64 (sgn old))
    A (.amoadd rd ra rb d) 0 ((old + v) % m) ∧ A (.amoswap rd ra rb d) 1 v ∧
    A (.amocas rd ra rb d) 2 (if old = c then v else old) ∧
    A (.amomin rd ra rb d) 3 (if sgn old ≤ sgn v then old else v) ∧
    A (.amomax rd ra rb d) 4 (if sgn old ≤ sgn v then v else old) ∧
    A (.amominu rd ra rb d) 5 (min old v) ∧ A (.amomaxu rd ra rb d) 6 (max old v) ∧
    A (.amoand rd ra rb d) 7 (old &&& v) ∧ A (.amoor rd ra rb d) 8 (old ||| v)

/-- A load, store or atomic at an address that is not canonical raises the address fault; at a canonical address that is
not a multiple of its width, the alignment fault; at an address in vector space whose resident entry does not
translate or does not permit the access, the vector translation fault: each with no other effect. An access narrower
than 8 bytes, or an atomic, of a window or through an attr 2 page raises the window fault, and so does any access through an
attr 2 page of what is neither window nor reserved; any other access of a reserved range raises the bus fault: on the
state that the translation leaves. The value is the address. (R218, R207, R221, R222, R116)  That beside the attr the
physical place decides is the model's choice (DEDUCED, log 10): the clauses that speak of a window or a reserved
range by its place alone. -/
def Obligations.AccessFaults : Prop :=
  ∀ (s : State) (rd ra rb : RegNo) (imm : BitVec 12) (d : BitVec 1),
    let a := s.rx ra + imm.signExtend 64
    let v := s.rx rb
    let F := fun (i : Instr) (va : Word) (op : MemOp) =>
      (canonical va = false → Raises i s 0x03 va) ∧
      (canonical va = true → va.toNat % op.width ≠ 0 → Raises i s 0x04 va) ∧
      (canonical va = true → va.toNat % op.width = 0 → inVector va = true →
        s.vecTr (clusterOf (s.cur / 4)) s.me.vspace.toNat s.me.level va op.need = none → Raises i s 0x06 va) ∧
      ∀ t u, canonical va = true → va.toNat % op.width = 0 → s.Translates u va op.need t →
        let narrow := op.width ≠ 8 ∨ ∃ n o x y, op = .amo n o x y
        let T := fun (k : BitVec 8) => exec i s = .next (u.trapAt u.cur u.me.pc { cause := k, val := va })
        (placeOf t.pa = .reserved → (t.attr = 2 → narrow → T 0x07) ∧ (¬ (t.attr = 2 ∧ narrow) → T 0x18)) ∧
        (t.attr = 2 → placeOf t.pa ≠ .reserved → (∀ cl off, placeOf t.pa ≠ .window cl off) → T 0x07) ∧
        ∀ cl off, placeOf t.pa = .window cl off → narrow → T 0x07
    let A := fun (i : Instr) (k : Nat) => F i (s.rx ra) (.amo (if d = 1 then 8 else 4) k v (s.rx rd))
    F (.lb rd ra imm) a (.load 1) ∧ F (.lh rd ra imm) a (.load 2) ∧ F (.lw rd ra imm) a (.load 4) ∧
    F (.ld rd ra imm) a (.load 8) ∧ F (.lbu rd ra imm) a (.load 1) ∧ F (.lhu rd ra imm) a (.load 2) ∧
    F (.lwu rd ra imm) a (.load 4) ∧ F (.sb ra rb imm) a (.store 1 v) ∧ F (.sh ra rb imm) a (.store 2 v) ∧
    F (.sw ra rb imm) a (.store 4 v) ∧ F (.sd ra rb imm) a (.store 8 v) ∧ A (.amoadd rd ra rb d) 0 ∧
    A (.amoswap rd ra rb d) 1 ∧ A (.amocas rd ra rb d) 2 ∧ A (.amomin rd ra rb d) 3 ∧ A (.amomax rd ra rb d) 4 ∧
    A (.amominu rd ra rb d) 5 ∧ A (.amomaxu rd ra rb d) 6 ∧ A (.amoand rd ra rb d) 7 ∧ A (.amoor rd ra rb d) 8

/-- A doubleword load of the core's own local memory, its bank awake, its check right and no mark on it, completes at once; a load of
another item that the level may access, its unit awake, parks the context until the window load arrives; a doubleword
store to another core's local memory is posted: it completes with the store in flight and storage unchanged; an item
closed to the level raises the window fault; a gated unit begins its wake-up and the instruction is issued again: all
on the state that the translation leaves. (R120, R121, R145, R148, R156, R157, R221)  That an access is a window access by
its physical place, whatever the attr of its page, is the model's choice (DEDUCED, log 10). -/
def Obligations.WindowAccesses : Prop :=
  ∀ (s u : State) (rd ra rb : RegNo) (imm : BitVec 12) (t : Tr) (cl off k o : Nat),
    let a := s.rx ra + imm.signExtend 64
    let v := s.rx rb
    canonical a = true → a.toNat % 8 = 0 → placeOf t.pa = .window cl off →
    let reads := s.Translates u a .r t
    let writes := s.Translates u a .w t
    let item := winOf cl off
    let shut := u.winState s.me.level item = .fault
    let core := s.cur / 4
    (shut → (reads → exec (.ld rd ra imm) s = .next (u.trapAt u.cur u.me.pc { cause := 0x07, val := a })) ∧
      (writes → exec (.sd ra rb imm) s = .next (u.trapAt u.cur u.me.pc { cause := 0x07, val := a }))) ∧
    (¬ shut → u.winAsleep item = true → (reads → exec (.ld rd ra imm) s = .next (u.winWake item)) ∧
      (writes → exec (.sd ra rb imm) s = .next (u.winWake item))) ∧
    (reads → item = .local_ core o → u.unitAsleep (bankUnit core o) = false → checkFails u (localKey core o) = false →
      u.marks.contains (localKey core o / 8 * 8) = false →
      ∃ w, exec (.ld rd ra imm) s = .next w ∧ OnlyCtx s.cur u w ∧ RegIs u w rd (readDw u.mem (localKey core o)) ∧
        w.me = { u.me with x := w.me.x, pc := s.me.pc + 4, lbanks := u.me.lbanks ||| (1 <<< (o / 0x8000)) }) ∧
    (reads → ¬ shut → u.winAsleep item = false → (∀ o, item ≠ .local_ core o ∧ item ≠ .emu core o) →
      ∃ w, exec (.ld rd ra imm) s = .next w ∧ OnlyCtx s.cur u w ∧
        w.me = { u.me with run := .parked (.window t.pa a), loadRd := rd, loadW := 8, loadSigned := true }) ∧
    (writes → item = .local_ k o → k ≠ core → u.winAsleep item = false →
      ∃ w, exec (.sd ra rb imm) s = .next w ∧ w.me = { u.me with pc := s.me.pc + 4 } ∧
        (∀ d, d ≠ s.cur → w.ctx d = u.ctx d) ∧
        w = { u with ctxs := w.ctxs,
                     posted := u.posted ++ [{ from_ := s.cur, level := s.me.level, va := a, pa := t.pa, data := v,
                                              width := 8, op := 0 }] })

/-- Each branch goes to pc + 4*imm where its comparison holds and to the next word where it does not, and changes nothing
else; jal and jalr write pc + 4 to rd and jump, jalr with the source read before rd is written and bits 1:0 cleared.
No target is checked at the jump: the fetch at a target at or past codebound raises the fetch-overrun exception.
(R224) -/
def Obligations.BranchesAndJumps : Prop :=
  ∀ (s : State) (rd ra rb : RegNo) (imm : BitVec 12) (off : BitVec 22),
    let a := s.rx ra
    let b := s.rx rb
    let B := fun (i : Instr) (c : Prop) =>
      (c → Jumps i s 0 0 (s.me.pc + BitVec.ofInt 64 (4 * imm.toInt))) ∧ (¬ c → Jumps i s 0 0 (s.me.pc + 4))
    B (.beq ra rb imm) (a = b) ∧ B (.bne ra rb imm) (a ≠ b) ∧ B (.blt ra rb imm) (a.toInt < b.toInt) ∧
    B (.bge ra rb imm) (a.toInt ≥ b.toInt) ∧ B (.bltu ra rb imm) (a.toNat < b.toNat) ∧
    B (.bgeu ra rb imm) (a.toNat ≥ b.toNat) ∧
    Jumps (.jal rd off) s rd (s.me.pc + 4) (s.me.pc + BitVec.ofInt 64 (4 * off.toInt)) ∧
    Jumps (.jalr rd ra imm) s rd (s.me.pc + 4) ((a + imm.signExtend 64) &&& ~~~3) ∧
    ∀ c, (s.ctx c).codebound.toNat ≤ (s.ctx c).pc.toNat →
      s.fetch c (s.ctx c).pc = (.error (some { cause := 0x0A, val := (s.ctx c).pc }), s)

/-- Where the two table reads of callt reach memory: an index at or past the count raises call-check with value 0; an entry
whose signature is not that of rb raises call-check with value 1; otherwise rd takes pc + 4 and the pc goes to fnbase
plus four times the signed word offset of the entry. Where it traps, rd and the pc's save are those before the
instruction. Nothing changes but that, what the translations leave, what the caches hold and what the context is
charged. (R225, R207, 18_isa_exceptions.md R398) -/
def Obligations.TypedCall : Prop :=
  ∀ (s s1 u u1 : State) (rd ra rb : RegNo) (t e : Tr),
    let base := s.me.fnbase
    let idx := s.rx ra
    let entry := base + 8 + (idx <<< 3)
    let count := s1.numAt t 8
    s.Reaches s1 base (.load 8) t →
    (∃ v, s.access base (.load 8) = .value (BitVec.ofNat 64 count) v) ∧
    (s.access base (.load 8) = .value (BitVec.ofNat 64 count) u →
      OnlyCaches s1 u ∧ (∀ d, d ≠ s.cur → u.ctx d = s1.ctx d) ∧ Ctx.Charged s1.me u.me ∧
      (count % 2 ^ 32 ≤ idx.toNat →
        exec (.callt rd ra rb) s = .next (u.trapAt s.cur s.me.pc { cause := 0x0B, val := 0 })) ∧
      (idx.toNat < count % 2 ^ 32 → u.Reaches u1 entry (.load 8) e →
        let sig := u1.numAt e 8 % 2 ^ 32
        (sig ≠ (s.rx rb).toNat % 2 ^ 32 → ∃ v : State,
          exec (.callt rd ra rb) s = .next (v.trapAt s.cur s.me.pc { cause := 0x0B, val := 1 }) ∧ OnlyCaches u1 v ∧
            (∀ d, d ≠ s.cur → v.ctx d = u1.ctx d) ∧ Ctx.Charged u1.me v.me) ∧
        (sig = (s.rx rb).toNat % 2 ^ 32 → ∃ v, exec (.callt rd ra rb) s = .next v ∧ OnlyCaches u1 v ∧
          (∀ d, d ≠ s.cur → v.ctx d = u1.ctx d) ∧ RegIs u1 v rd (s.me.pc + 4) ∧
          Ctx.Charged { u1.me with
            x := v.me.x
            pc := base + BitVec.ofInt 64 (4 * (BitVec.ofNat 32 (u1.numAt e 8 / 2 ^ 32)).toInt) } v.me)))

/-- loop with a count of zero goes past the endloop and leaves the stack; with six entries held it raises the loop-stack
exception; otherwise it pushes its entry and goes on. endloop drops the entries that end elsewhere and counts down the
one that ends at its own address, going back to its start while the count is not used up; with no such entry it raises
the loop-stack exception with the stack unchanged. A loop word with an immediate of zero does not decode. (R226, R207) -/
def Obligations.HardwareLoops : Prop :=
  ∀ (s : State) (ra : RegNo) (imm : BitVec 12) (skip rest : List LoopEnt) (e : LoopEnt),
    let stop := s.me.pc + BitVec.ofNat 64 (4 * imm.toNat)
    (s.rx ra = 0 → Jumps (.loop_ ra imm) s 0 0 (stop + 4)) ∧
    (s.rx ra ≠ 0 → 6 ≤ s.me.loops.length → Raises (.loop_ ra imm) s 0x0C 0) ∧
    (s.rx ra ≠ 0 → s.me.loops.length < 6 → Becomes (.loop_ ra imm) s (fun x =>
      { x with pc := x.pc + 4,
               loops := { start := x.pc + 4, stop := stop, count := s.rx ra } :: x.loops })) ∧
    ((∀ d ∈ s.me.loops, d.stop ≠ s.me.pc) → Raises .endloop s 0x0C 0) ∧
    (s.me.loops = skip ++ e :: rest → (∀ d ∈ skip, d.stop ≠ s.me.pc) → e.stop = s.me.pc →
      (e.count ≠ 1 → Becomes .endloop s (fun x =>
        { x with pc := e.start, loops := { e with count := e.count - 1 } :: rest })) ∧
      (e.count = 1 → Becomes .endloop s (fun x => { x with pc := x.pc + 4, loops := rest }))) ∧
    (Instr.wf (.loop_ ra 0) = false)

/-- For every register of the map, a csrr at a level to which it is open completes from every state: rd takes the
register's value, and nothing else but the pc changes. The value has the fields of R35, R36, R68, R102, R105, R133,
R134, R146, R327 and R370 at their bits with zeros between; every register of the map is in the list. (R228, R185, R35,
R36, R68, R102, R105, R370) -/
def Obligations.StatusRegisterReads : Prop :=
  (∀ (s : State) (rd : RegNo) (idx : BitVec 12), csrFault s.me.level idx.toNat = none →
    Gives (.csrr rd idx) s rd (s.csr s.cur idx.toNat)) ∧
  ∀ (s : State) (c : Nat),
    let x := s.ctx c
    let core := c / 4
    let k := s.cluster (clusterOf core)
    let b := fun (p : Bool) => if p then 1 else 0
    let values : List (Nat × Word) := [(0x001, x.fflags.setWidth 64), (0x002, BitVec.ofNat 64 (x.crm.toNat + 16 * x.wrm.toNat)),
      (0x003, x.srnkey), (0x004, x.bfmt), (0x010, BitVec.ofNat 64 x.vl), (0x011, x.vlreq),
      (0x012, BitVec.ofNat 64 (x.lanesHeld + 2 ^ 16 * x.gsq.toNat + 2 ^ 20 * x.gstate.code + 2 ^ 24 * x.orow +
        2 ^ 32 * x.ocol + 2 ^ 63 * b x.nofit)),
      (0x013, BitVec.ofNat 64 x.alc), (0x014, BitVec.ofNat 64 (512 - k.missing.length + 2 ^ 10 * k.spares)),
      (0x015, x.vstart), (0x016, x.vbase), (0x017, x.vsave),
      (0x020, BitVec.ofNat 64 (core / 32 + 2 ^ 8 * (core % 32) + 2 ^ 16 * (c % 4) + 2 ^ 24 * clusterOf core +
        2 ^ 29 * dieOf core + 2 ^ 32 * (dieOf core / 2) + 2 ^ 34 * s.memberId.toNat + 2 ^ 44 * s.modId.toNat)),
      (0x021, BitVec.ofNat 64 (x.ssn.toNat + 2 ^ 32 * b x.xch + 2 ^ 40 * x.recIdx.toNat)), (0x022, x.rect),
      (0x030, (x.upcallHandler &&& ~~~3) ||| BitVec.ofNat 64 (b x.upcallEn)), (0x031, x.upepc), (0x032, x.upaddr),
      (0x023, s.partWord c), (0x033, x.upnote), (0x040, x.fnbase), (0x041, x.codebound), (0x050, x.chgfill), (0x051, x.chgwb),
      (0x060, s.mpn.setWidth 64), (0x061, BitVec.ofNat 64 s.capg), (0x062, 0xC000000000), (0x100, x.ptroot), (0x101, 0),
      (0x102, x.vspace.setWidth 64), (0x110, x.st.vec), (0x111, x.st.cause.setWidth 64), (0x112, x.st.epc),
      (0x113, x.st.val), (0x114, BitVec.ofNat 64 (x.st.plev.toNat + 2 ^ 8 * x.st.ldepth.toNat)), (0x115, x.st.scratch),
      (0x120, x.btmo.setWidth 64), (0x210, x.ft.vec), (0x211, x.ft.cause.setWidth 64), (0x212, x.ft.epc),
      (0x213, x.ft.val), (0x214, BitVec.ofNat 64 (x.ft.plev.toNat + 2 ^ 8 * x.ft.ldepth.toNat)), (0x215, x.ft.scratch)]
    (∀ n v, (n, v) ∈ values → s.csr c n = v) ∧ ∀ n, csrKnown n = true ↔ ∃ v, (n, v) ∈ values

/-- A csrw of a register open at the level writes the value of ra, csrs the register OR ra, csrc the register AND NOT ra.
A writable register takes its fields and keeps its reserved bits zero; fmode, the bank formats, ststatus and ftstatus
keep a field that the code does not suit; a write of 0 to step.xch is ignored; a register that is read-only, or read-
only at App, keeps its value. Window writes that wait for the context are then applied; with none waiting nothing else
changes. (R228, R185, R36, R68, R102, R129, R370, R49) -/
def Obligations.StatusRegisterWrites : Prop :=
  ∀ (s : State) (ra : RegNo) (idx : BitVec 12) (f : Ctx → Word → Ctx),
    let n := idx.toNat
    let sys := s.me.level ≠ .app
    let K := fun (i : Instr) (v : Word) => exec i s = .next ((s.setMe (f s.me v)).drainBuf.next)
    csrFault s.me.level n = none →
    (((n, f) : Nat × (Ctx → Word → Ctx)) ∈ [
      (0x001, fun x v => { x with fflags := v.setWidth 7 }),
      (0x002, fun x v => { x with crm := if (v.setWidth 3).toNat ≤ 3 then v.setWidth 3 else x.crm,
                                  wrm := if (v.extractLsb' 4 3).toNat ≤ 4 then v.extractLsb' 4 3 else x.wrm }),
      (0x003, fun x v => { x with srnkey := v }),
      (0x015, fun x v => { x with vstart := v &&& 0x1FFFFFFFFFF }), (0x016, fun x v => { x with vbase := v }),
      (0x017, fun x v => { x with vsave := v &&& ~~~0xFF }), (0x021, fun x v => { x with xch := x.xch || v.getLsbD 32 }),
      (0x030, fun x v => { x with upcallHandler := v &&& ~~~3, upcallEn := v.getLsbD 0 }),
      (0x031, fun x v => { x with upepc := v }), (0x032, fun x v => { x with upaddr := v }),
      (0x033, fun x v => { x with upnote := v &&& ~~~7 })] ∨
     n ∈ [0x010, 0x011, 0x012, 0x013, 0x014, 0x020, 0x023, 0x060, 0x061, 0x062] ∧ (∀ x v, f x v = x) ∨
     ¬ sys ∧ n ∈ [0x022, 0x040, 0x041, 0x050, 0x051] ∧ (∀ x v, f x v = x) ∨
     sys ∧ ((n, f) : Nat × (Ctx → Word → Ctx)) ∈ [
      (0x022, fun x v => { x with rect := v &&& 0xFFFFFFFF }), (0x040, fun x v => { x with fnbase := v &&& ~~~7 }),
      (0x041, fun x v => { x with codebound := v &&& ~~~3 }), (0x050, fun x v => { x with chgfill := v }),
      (0x051, fun x v => { x with chgwb := v }), (0x100, fun x v => { x with ptroot := v &&& 0xFFFFFFFFFF000 }),
      (0x102, fun x v => { x with vspace := v.setWidth 4 }),
      (0x110, fun x v => { x with st := { x.st with vec := v &&& ~~~3 } }),
      (0x111, fun x v => { x with st := { x.st with cause := v.setWidth 8 } }),
      (0x112, fun x v => { x with st := { x.st with epc := v } }),
      (0x113, fun x v => { x with st := { x.st with val := v } }),
      (0x114, fun x v => { x with st := { x.st with
        ldepth := if (v.extractLsb' 8 3).toNat = 7 then x.st.ldepth else v.extractLsb' 8 3
        plev := if (v.extractLsb' 0 2).toNat = 3 then x.st.plev else v.extractLsb' 0 2 } }),
      (0x115, fun x v => { x with st := { x.st with scratch := v } }),
      (0x120, fun x v => { x with btmo := v.setWidth 32 }),
      (0x210, fun x v => { x with ft := { x.ft with vec := v &&& ~~~3 } }),
      (0x211, fun x v => { x with ft := { x.ft with cause := v.setWidth 8 } }),
      (0x212, fun x v => { x with ft := { x.ft with epc := v } }),
      (0x213, fun x v => { x with ft := { x.ft with val := v } }),
      (0x214, fun x v => { x with ft := { x.ft with
        ldepth := if (v.extractLsb' 8 3).toNat = 7 then x.ft.ldepth else v.extractLsb' 8 3
        plev := if (v.extractLsb' 0 2).toNat = 3 then x.ft.plev else v.extractLsb' 0 2 } }),
      (0x215, fun x v => { x with ft := { x.ft with scratch := v } })]) →
    K (.csrw ra idx) (s.rx ra) ∧ K (.csrs ra idx) (s.csr s.cur n ||| s.rx ra) ∧
    K (.csrc ra idx) (s.csr s.cur n &&& ~~~s.rx ra) ∧ (s.wbuf = [] → ∀ x, (s.setMe x).drainBuf = s.setMe x)

/-- csrw, csrs and csrc of bfmt write the value of ra, bfmt OR ra, and bfmt AND NOT ra: each of its four bank fields whose
new code is a bank format (0 to 16 without 5 and 6) is replaced, and the others keep their value. One of tlbinv at Sys or
Fw, whose value as it is read is 0, removes from the TLBs of the core, or with bit 1 of the cores of its
cluster, the entries of the page named in bits 63:12, or with bit 2 all of them; it keeps every other entry and
changes nothing else. (R129, R133, R185, R228) -/
def Obligations.BankFormatsAndTlbinv : Prop :=
  ∀ (s : State) (ra : RegNo) (j : Nat) (i : Instr) (v : Word),
    let a := s.rx ra
    (j < 4 → (i, v) ∈ [(Instr.csrw ra 0x004, a), (.csrs ra 0x004, s.me.bfmt ||| a), (.csrc ra 0x004, s.me.bfmt &&& ~~~a)] →
      ∃ t, exec i s = .next t ∧
        (t.me.bfmt.extractLsb' (8 * j) 5 =
          if (v.extractLsb' (8 * j) 5).toNat ∈ [0, 1, 2, 3, 4, 7, 8, 9, 10, 11, 12, 13, 14, 15, 16] then
            v.extractLsb' (8 * j) 5 else s.me.bfmt.extractLsb' (8 * j) 5) ∧
        (s.wbuf = [] → OnlyCtx s.cur s t ∧ t.me = { s.me with bfmt := t.me.bfmt, pc := s.me.pc + 4 })) ∧
    (s.me.level ≠ .app → (i, v) ∈ [(Instr.csrw ra 0x101, a), (.csrs ra 0x101, a), (.csrc ra 0x101, 0)] →
      ∃ t, exec i s = .next t ∧ t = { s with ctxs := t.ctxs, tlb := t.tlb } ∧
        (∀ d, d ≠ s.cur → t.ctx d = s.ctx d) ∧ t.me = { s.me with pc := s.me.pc + 4 } ∧
        ∀ e : TlbEnt, e ∈ t.tlb ↔ e ∈ s.tlb ∧
          ¬ ((e.core = s.cur / 4 ∨ v.getLsbD 1 = true ∧ e.core ∈ coresOf (clusterOf (s.cur / 4))) ∧
            (v.getLsbD 2 = true ∨ e.page = v.toNat / 2 ^ e.bits)))

/-- A status register access whose index is not in the map raises illegal-instruction; one of an index from 0x100 up at
App, or of an index from 0x200 up at Sys, raises the privileged-access exception, before any effect and with the word
as its value; so do eret at App, upret at Sys and Fw, and a vput of the status item at App. (R185, R228, R284, R303,
R304, R258)  That an index which names no register raises illegal-instruction at every level, also where it lies from 0x100
or 0x200 up, is the model's choice (DEDUCED, log 15). -/
def Obligations.Privilege : Prop :=
  ∀ (s : State) (rd ra rb : RegNo) (idx : BitVec 12) (w : IWord) (i : Instr),
    (i = .csrr rd idx ∨ i = .csrw ra idx ∨ i = .csrs ra idx ∨ i = .csrc ra idx → encode i = some w →
      (csrKnown idx.toNat = false → Raises i s 0x01 (w.setWidth 64)) ∧
      (csrKnown idx.toNat = true →
        s.me.level = .app ∧ 0x100 ≤ idx.toNat ∨ s.me.level = .sys ∧ 0x200 ≤ idx.toNat →
        Raises i s 0x02 (w.setWidth 64))) ∧
    (s.me.level = .app → Raises .eret s 0x02 0xA0000004) ∧
    (s.me.level ≠ .app → ∀ u, encode .upret = some u → Raises .upret s 0x02 (u.setWidth 64)) ∧
    (s.me.level = .app → encode (.vput ra rb 129) = some w → Raises (.vput ra rb 129) s 0x02 (w.setWidth 64))

/-- A cause raised at App goes to Sys, one raised at Sys or Fw goes to Fw, and emulation goes to Fw whatever the level.
Entry saves the address, cause, value, level and number of loop entries in the trap registers of that level and goes
to its vector; it changes no x register, flag, loop entry, job or micro-thread, and no other context. A cause that
triggers a rollback enters no handler: only the gang's trigger is set (R427, R429). (R372)  That entry drops what an
interrupted callt, copyj or wait had read is the model's choice (DEDUCED, log 27): the fields call, card and
watching. -/
def Obligations.TrapEntry : Prop :=
  ∀ (s : State) (c : Nat) (epc : Word) (e : Exc),
    let x := s.ctx c
    let t := s.trapAt c epc e
    let r := fun (o : TrapRegs) => { o with cause := e.cause, epc := epc, val := e.val, plev := x.level.code,
                                            ldepth := BitVec.ofNat 3 x.loops.length }
    t = { s with ctxs := t.ctxs, recs := t.recs } ∧ (∀ d, d ≠ c → t.ctx d = s.ctx d) ∧
    (s.rollsBack c e.cause = true → t.ctx c = x ∧ (s.gang c |>.rollback) = true ∧
      ∀ k, t.lrec k = if k = x.recIdx.toNat then { s.lrec k with trigger := true } else s.lrec k) ∧
    (s.rollsBack c e.cause = false →
      (e.cause ≠ 0x13 → x.level = .app → t.ctx c =
        { x with run := .active, level := .sys, pc := x.st.vec &&& ~~~3, st := r x.st, call := none, card := none,
                 watching := none }) ∧
      (e.cause = 0x13 ∨ x.level ≠ .app → t.ctx c =
        { x with run := .active, level := .fw, pc := x.ft.vec &&& ~~~3, ft := r x.ft, call := none, card := none,
                 watching := none }))

/-- trap completes by raising the software trap with its code as the value: the saved pc is the address of the trap plus
4, a trap at App goes to Sys and one at Sys or Fw to Fw; no x register, flag or loop entry changes. (R302) -/
def Obligations.SoftwareTrap : Prop :=
  ∀ (s : State) (code : BitVec 8),
    ∃ t, exec (.trap code) s = .next t ∧ t = { s with ctxs := t.ctxs, recs := t.recs } ∧
      (∀ d, d ≠ s.cur → t.ctx d = s.ctx d) ∧
      (s.me.level = .app → t.me.level = .sys ∧ t.me.pc = s.me.st.vec &&& ~~~3 ∧
        t.me.st = { s.me.st with cause := 0x14, epc := s.me.pc + 4, val := code.setWidth 64, plev := 0,
                                 ldepth := BitVec.ofNat 3 s.me.loops.length } ∧ t.me.ft = s.me.ft) ∧
      (s.me.level ≠ .app → t.me.level = .fw ∧ t.me.pc = s.me.ft.vec &&& ~~~3 ∧
        t.me.ft = { s.me.ft with cause := 0x14, epc := s.me.pc + 4, val := code.setWidth 64, plev := s.me.level.code,
                                 ldepth := BitVec.ofNat 3 s.me.loops.length } ∧ t.me.st = s.me.st) ∧
      t.me.x = s.me.x ∧ t.me.fflags = s.me.fflags ∧ t.me.loops = s.me.loops

/-- At Sys or Fw eret completes: it drops the loop entries above the saved depth, takes its pc and level from the level's
own trap registers, and changes nothing else but that a Prompt trap's service ends with a return to App. An eret at Fw
whose cause is the emulation cause, with a trip in service, ends the trip too, and waits first for what firmware reads
from another member: a Zavan-C word has the record's result in its rd, its flags in fflags and goes on after the word;
a Zavan-W word's results go to the micro-threads of the record that still wait for the trip, entry by entry; a vldb has
its element in W wd of each. A fault number other than zero in the record is raised at the word instead, with the value
that firmware's own read met where there was one, or faults each
micro-thread whose guard held while the others go on. (17_traps.md R373, 17_traps.md R374, R394, R395)  The model's choices:
that a value of cause 0x21 is rounded to its sector (DEDUCED, log 16), that entries whose guard was clear stand in the record
(log 25), that a vldb may have none (log 30), and that eret waits for firmware's read and ends what is still asked (log 58). -/
def Obligations.ReturnFromException : Prop :=
  ∀ s : State, s.me.level ≠ .app →
    let r := if s.me.level = .sys then s.me.st else s.me.ft
    let l : Level := if r.plev = 0 then .app else if r.plev = 1 then .sys else .fw
    let back := fun (x : Ctx) => { x with
      pc := r.epc, level := l, loops := x.loops.drop (x.loops.length - r.ldepth.toNat)
      promptBusy := if l = .app then false else x.promptBusy }
    Answers (exec .eret s) ∧
    (s.me.emu = none ∨ s.me.level = .sys ∨ s.me.ft.cause ≠ 0x13 → Becomes .eret s back) ∧
    ∀ kind word, s.me.emu = some (kind, word) → s.me.level = .fw → s.me.ft.cause = 0x13 →
      let core := s.cur / 4
      let x := { back s.me with emu := none, fwVal := none }
      let base := (s.setMe x).dropReplies (fun t => t == tagOf 4 s.cur 0)
      let pos := bits (s.emuWord core 0x18) 8 5
      let fault : BitVec 8 := (s.emuWord core 0x38).setWidth 8
      let val := s.emuWord core 0x28
      let all := List.range (min (s.emuWord core 0x10).toNat 512)
      let apply := fun (t : State) (k : Nat) => t.applyEntry s.cur (word.extractLsb' 12 5) pos core k
      (s.me.fwWait ≠ none → exec .eret s = .next s) ∧
      (s.me.fwWait = none →
        (kind ≠ 1 → fault ≠ 0 → exec .eret s = .next (base.trapAt s.cur r.epc
          { cause := fault, val := s.me.fwVal.getD (if fault = 0x21 then val &&& ~~~0xFF else val) })) ∧
        (kind = 0 → fault = 0 → ∃ t, exec .eret s = .next t ∧ OnlyCtx s.cur base t ∧
          t.me = { x.wx (word.extractLsb' 22 5) (s.emuField core 0 2) with
            pc := r.epc + 4, fflags := x.fflags ||| (s.emuField core 0 3).extractLsb' 16 7 }) ∧
        (kind = 1 → fault = 0 → exec .eret s = .next (all.foldl apply base)) ∧
        (kind = 1 → fault ≠ 0 → exec .eret s = .next (all.foldl (fun t k =>
          let i := (t.emuField core k 3).toNat % 1024
          if t.inTrip s.cur i pos = false then t
          else if (t.emuField core k 3).getLsbD 15 = true then
            t.mtFault s.cur i (t.mt s.cur i) { cause := fault, val := 0 }
          else apply t k) base)) ∧
        (kind ≠ 0 → kind ≠ 1 → fault = 0 → s.Sound →
          let lies := fun (i : Nat) (n : Nat) => ∃ l r, (s.mt s.cur i).spillRec = some (l, r) ∧
            n = spillKey (clusterOfCtx s.cur) l r
          (∀ i n, lies i n → n + 256 ≤ emuKey core ∨ emuKey core + 0x5000 ≤ n) → ∃ t, exec .eret s = .next t ∧
            t = { base with ctxs := t.ctxs, mts := t.mts, mem := t.mem, synd := t.synd } ∧
            t.me = { x with vstart := 0, pc := r.epc + 4 } ∧ (∀ d, d ≠ s.cur → t.ctx d = s.ctx d) ∧
            (∀ a, (∀ i n, lies i n → a < n ∨ n + 256 ≤ a) → readByte t.mem a = readByte s.mem a) ∧
            (∀ i, (∀ k ∈ all, (s.emuField core k 3).toNat % 1024 ≠ i) → t.mt s.cur i = s.mt s.cur i) ∧
            ((∀ k ∈ all, ∀ l ∈ all, k ≠ l →
                (s.emuField core k 3).toNat % 1024 ≠ (s.emuField core l 3).toNat % 1024) →
              ∀ k ∈ all, let i := (s.emuField core k 3).toNat % 1024
                let n := (word.extractLsb' 22 5).toNat
                t.mt s.cur i = { s.mt s.cur i with w := put (s.mt s.cur i).w n (s.emuField core k 2)
                                                   dirty := (s.mt s.cur i).dirty ||| (1 <<< (n - 1)) })))

/-- A context with at most six loop entries that takes a trap with no rollback due, and returns with no change of its trap
registers, has its pc at the saved address, its level, registers, flags and loop stack as before the trap.
(17_traps.md R372, 17_traps.md R373) -/
def Obligations.TrapAndReturnInverse : Prop :=
  ∀ (x : Ctx) (epc : Word) (e : Exc), x.loops.length ≤ 6 →
    let y := (x.trap epc e).eret
    y.pc = epc ∧ y.level = x.level ∧ y.x = x.x ∧ y.fflags = x.fflags ∧ y.loops = x.loops

/-- At App upret sets the pc to upepc and enables upcalls, and changes nothing else: the loop stack stays and the notice
doubleword is not read. (R304) -/
def Obligations.ReturnFromUpcall : Prop :=
  ∀ s : State, s.me.level = .app → Becomes .upret s (fun x => { x with pc := x.upepc, upcallEn := true })

/-- A scope that is not well formed, or for barr one that does not hold the core or lies outside rect, raises sync-
operand. fence otherwise parks until its conditions hold. barr and gbar wait, to be issued again, until their drains
are done; gbar first sets step.xch; then they sample the abort line and park as arrivals with the context's sense bit.
A gbar of a drained crew with a FAULTED micro-thread under trapmode 1 raises micro-thread fault with the fault summary
(that value is the model's reading, log 70). vote parks with its combiner and value. The scope of gbar and vote is rect: one
that is not well formed raises sync-operand with it as the value. No register changes. (R165, R166,
R285, R286, R289, R290, R291, R52, 17_traps.md R374, 18_isa_exceptions.md R400) -/
def Obligations.SyncInstructions : Prop :=
  ∀ (s : State) (rd ra : RegNo) (comb : BitVec 3),
    let v := s.rx ra
    let me := s.cur
    let wfOf := fun (v : Word) => v.toNat < 2 ^ 32 ∧ row0 v ≤ row1 v ∧ row1 v ≤ 15 ∧ col0 v ≤ col1 v ∧ col1 v ≤ 31
    let wf := wfOf v
    let mine := inRect v (me / 4) = true ∧ rectIn v s.me.rect = true
    let seen := s.abortRaised me
    let arrive := fun (kind : Nat) (scope : Word) (x : Ctx) => { x with
      run := .parked (.barrier kind scope s.me.sense 0 0 s.now)
      abortSeen := if seen then true else s.me.abortSeen, abortEver := if seen then true else s.me.abortEver }
    (¬ wf → Raises (.fence ra) s 0x0F v) ∧ (wf → Parks (.fence ra) s (.fence v)) ∧
    (¬ (wf ∧ mine) → Raises (.barr ra) s 0x0F v) ∧
    (wf → mine → s.fenceDone me v = false → Parks (.barr ra) s .again) ∧
    (wf → mine → s.fenceDone me v = true → Becomes (.barr ra) s (arrive 0 v)) ∧
    (¬ wfOf s.me.rect → Raises .gbar s 0x0F s.me.rect ∧ Raises (.vote rd ra comb) s 0x0F s.me.rect) ∧
    (wfOf s.me.rect → s.wbuf = [] ∨ s.me.xch = true →
      (s.drained me = false → Becomes .gbar s (fun x => { x with xch := true, run := .parked .again })) ∧
      (s.drained me = true → s.syncTrap me = true → ∃ t : State, t.me = { s.me with xch := true } ∧ OnlyCtx me s t ∧
        exec .gbar s = .next (t.trapAt me s.me.pc { cause := 0x17, val := s.summary me })) ∧
      (s.drained me = true → s.syncTrap me = false → s.allDone me = false →
        Becomes .gbar s (fun x => { x with xch := true, run := .parked .again })) ∧
      (s.drained me = true → s.syncTrap me = false → s.allDone me = true →
        Becomes .gbar s (fun x => { arrive 1 x.rect x with xch := true }))) ∧
    (wfOf s.me.rect → Becomes (.vote rd ra comb) s (fun x =>
      { x with loadRd := rd, run := .parked (.barrier 2 x.rect x.sense comb.toNat v s.now) }))

/-- abort raises the gang's abort line in the context's cluster and sets the crew's abort-seen flag; every other line
keeps its state, no register changes, and the pc goes on. abortq writes the flag to bit 0 of rd and zero above, and
changes nothing else. (R52, R292, R293) -/
def Obligations.AbortAndQuery : Prop :=
  ∀ (s : State) (rd : RegNo),
    Gives (.abortq rd) s rd (BitVec.ofNat 64 (if s.me.abortSeen then 1 else 0)) ∧
    ∃ t, exec .abort s = .next t ∧ t = { s with ctxs := t.ctxs, clusters := t.clusters } ∧
      (∀ d, d ≠ s.cur → t.ctx d = s.ctx d) ∧
      t.me = { s.me with abortSeen := true, abortEver := true, pc := s.me.pc + 4 } ∧ t.abortRaised s.cur = true ∧
      ∀ cl, ∃ l, t.cluster cl = { s.cluster cl with abortLines := l } ∧
        ∀ r, r ∈ l ↔ r ∈ (s.cluster cl).abortLines ∨ cl = clusterOfCtx s.cur ∧ r = s.me.recIdx.toNat

/-- A wait whose load reaches memory, or takes a doubleword of the core's own local memory, completes where the doubleword
differs from rb or where the gang's abort line is raised, with the leases of its core lapsed; otherwise it parks on the
doubleword. One of any other window item that the level may access raises the window fault. A wake of an address in memory or
local memory that the context may read releases every context parked in wait on that doubleword, and only those: each goes on
after its word, with its core's leases lapsed; the wake goes on too and makes no access. Neither changes a register or a byte
of storage. (R294, R295, R155, R52, R120) -/
def Obligations.WaitAndWake : Prop :=
  ∀ (s u : State) (ra rb : RegNo) (t : Tr),
    let a := s.rx ra
    let b := s.rx rb
    let ends := fun (v : Word) (key : Nat) (x : Ctx) (w : State) =>
      (∀ d, d ≠ s.cur → w.ctx d = u.ctx d) ∧
      (v ≠ b ∨ u.abortRaised s.cur = true → ∀ e ∈ w.l1, e.core = s.cur / 4 → e.expiry = 0 ∧ e.since = []) ∧
      (v ≠ b → Ctx.Charged { x with pc := x.pc + 4 } w.me) ∧
      (v = b → u.abortRaised s.cur = true → Ctx.Charged { x with pc := x.pc + 4, abortSeen := true, abortEver := true } w.me) ∧
      (v = b → u.abortRaised s.cur = false → Ctx.Charged { x with run := .parked (.watch key b a) } w.me)
    let wakes := fun (key : Nat) => ∃ w, exec (.wake ra) s = .next w ∧ w = { u with ctxs := w.ctxs, l1 := w.l1 } ∧
      (∀ e ∈ w.l1, e ∈ u.l1 ∨ ∃ e0 ∈ u.l1, e = { e0 with expiry := 0, since := [] }) ∧
      (∀ e ∈ w.l1, ∀ d, (u.ctx d).watches key = true → e.core = d / 4 → e.expiry = 0 ∧ e.since = []) ∧
      ∀ d, let x := u.ctx d
        let y := match x.run with
          | .parked (.watch k _ _) => if k = key then { x with run := .active, pc := x.pc + 4 } else x
          | _ => x
        w.ctx d = if d = s.cur then { y with pc := y.pc + 4 } else y
    (s.Reaches u a (.load 8) t → wakes (memKey t.skew t.pa) ∧
      ∃ w, exec (.wait ra rb) s = .next w ∧ OnlyCaches u w ∧
        ends (BitVec.ofNat 64 (u.numAt t 8)) (memKey t.skew t.pa) u.me w) ∧
    ∀ cl off k o, canonical a = true → a.toNat % 8 = 0 → s.Translates u a .r t → placeOf t.pa = .window cl off →
      let item := winOf cl off
      (item = .local_ k o → wakes (localKey k o)) ∧
      (item = .local_ (s.cur / 4) o → u.unitAsleep (bankUnit (s.cur / 4) o) = false →
        let key := localKey (s.cur / 4) o
        checkFails u key = false → u.marks.contains (key / 8 * 8) = false →
        ∃ w, exec (.wait ra rb) s = .next w ∧ w = { u with ctxs := w.ctxs, l1 := w.l1 } ∧
          ends (readDw u.mem key) key { u.me with lbanks := u.me.lbanks ||| (1 <<< (o / 0x8000)) } w) ∧
      (u.winState s.me.level item = .fault ∨
          u.winAsleep item = false ∧ (∀ o, item ≠ .local_ (s.cur / 4) o ∧ item ≠ .emu (s.cur / 4) o) →
        exec (.wait ra rb) s = .next (u.trapAt s.cur s.me.pc { cause := 0x07, val := a }))

/-- lpatch and larm of a record index above 255 raise launch-operand; otherwise lpatch parks with its request to the hub,
larm too once a fence over the whole mesh holds, waiting before that. Where the record is IDLE, of the context's own
partition and no refusal applies, the hub's reply lets the context go on after the word: lpatch has written the
record's field and nothing else; larm has armed the record, or written the never-fits word where it can never fit. halt
parks in its drains with the low byte of its operand; once they are done the context ends, FREE or RETAINED for its
successor, and its core's status word is written. irefresh waits for the context's posted stores and jobs, then removes
the core's instruction-cache lines, its contexts' fetch buffers and the cluster's block-cache lines and nothing else. discover writes the capability
record of its index, zero where there is none, and changes nothing else. (R113, R174, R298, R299, R301, R305, R306)  The
model's choices: that irefresh empties the whole block cache of the cluster (DEDUCED, log 37) and in which order the
hub tests its refusals (DESIGN CHOICE, log 111). -/
def Obligations.LaunchAndSystem : Prop :=
  ∀ (s : State) (rd ra rb : RegNo) (field : BitVec 3),
    let v := s.rx ra
    let me := s.cur
    let r := v.toNat
    let g := s.lrec r
    let on := s.setMe { s.me with run := .active, pc := s.me.pc + 4 }
    let hub := fun (t : State) => { t with arg := { t.arg with unit := me } }
    (255 < r → Raises (.lpatch ra rb field) s 0x10 v ∧ Raises (.larm ra) s 0x10 v) ∧
    (r ≤ 255 → Parks (.lpatch ra rb field) s (.lpatch r field.toNat (s.rx rb)) ∧
      (s.fenceDone me 0x1F0F0000 = false → Parks (.larm ra) s .again) ∧
      (s.fenceDone me 0x1F0F0000 = true → Parks (.larm ra) s (.larm r))) ∧
    (r ≤ 255 → g.part = s.partOf (me / 4) → g.state = 1 →
      (patchOk field.toNat (s.rx rb) = true → ∃ t u : State, exec (.lpatch ra rb field) s = .next t ∧
        exec .hubLpatchRequest (hub t) = .next u ∧ u = { s with arg := u.arg, ctxs := u.ctxs, recs := u.recs } ∧
        (∀ d, d ≠ me → u.ctx d = s.ctx d) ∧ u.me = { s.me with run := .active, pc := s.me.pc + 4 } ∧
        ∀ k, u.lrec k = if k = r then g.patch field.toNat (s.rx rb) else s.lrec k) ∧
      (s.fenceDone me 0x1F0F0000 = true → rectOk g.rect = true →
        (g.fld 12 1 = 1 → (s.snapReg g.part).len ≠ 0) → s.powerRefuses r = false →
        ∃ t u : State, exec (.larm ra) s = .next t ∧ exec .hubLarmRequest (hub t) = .next u ∧
          ∃ w : State, w = { on with arg := w.arg, ctxs := w.ctxs } ∧ (∀ d, w.ctx d = on.ctx d) ∧
            u = if on.neverFits r = true then w.completion r 0x4000000000000 else w.arm r)) ∧
    Parks (.halt ra) s (.halt (v.setWidth 8)) ∧
    (s.drained me = true → s.syncTrap me = false → s.allDone me = true → s.me.revoked = none →
      ∃ (t u w : State), exec (.halt ra) s = .next t ∧ exec .haltDrainEnd (hub t) = .next u ∧
        u = w.drainBuf.poolStep (clusterOfCtx me) ∧
        (w.ctx me).run = (if (s.gang me).fld 11 1 = 1 then .retained ((s.gang me).fld 32 8) else .free) ∧
        (w.lrec s.me.recIdx.toNat).own = put (s.gang me).own (rankIn (s.gang me).placed (me / 4))
          (gangWord (v.toNat % 256) false (s.gang me).rbFailed false s.me.abortEver (decide (s.me.level ≠ .app)) 1
            s.me.ssn.toNat)) ∧
    (s.allDone me = false → Parks .irefresh s .again) ∧
    (s.allDone me = true → ∃ t, exec .irefresh s = .next t ∧
      t = { s with ctxs := t.ctxs, icache := t.icache, fbuf := t.fbuf, clusters := t.clusters } ∧
      (∀ d, d ≠ me → t.ctx d = s.ctx d) ∧ t.me = { s.me with pc := s.me.pc + 4 } ∧
      (∀ e, e ∈ t.icache ↔ e ∈ s.icache ∧ e.1.1 ≠ me / 4) ∧ (∀ e, e ∈ t.fbuf ↔ e ∈ s.fbuf ∧ e.1.1 / 4 ≠ me / 4) ∧
      ∀ cl, t.cluster cl = if cl = clusterOfCtx me then { s.cluster cl with bcache := [] } else s.cluster cl) ∧
    (∃ n, Gives (.discover rd ra) s rd n ∧
      (r = 0 → n = BitVec.ofNat 64 (0x5347 * 2 ^ 48 + 8 * 2 ^ 32 + s.img.stepping.toNat * 2 ^ 24)) ∧
      (r = 1 → n = 0x8201020040C) ∧ (r = 0x10 → n = s.disposition) ∧ (r = 0x20 → n = 0x01062001) ∧
      (r = 0x103 → n = numericRecord 3) ∧ (r = 0x104 → n = numericRecord 4) ∧ (r = 0x107 → n = numericRecord 7) ∧
      (r = 0x108 → n = 0x10090B3008) ∧ (r = 0x109 → n = numericRecord 9) ∧ (r = 0x10A → n = numericRecord 10) ∧
      (r ∉ [0, 1, 0x10, 0x20, 0x103, 0x104, 0x107, 0x108, 0x109, 0x10A] → n = 0))

/-- A request for lanes with no save area raises grant-config. A crew that shrinks, is being revoked or is not drained
waits, and one that asks for another shape waits for its Loom's chunk and its save area too. A request of length zero drops the
grant: IDLE, vl 0, every lane given up, rd 0. A crew that holds lanes in the shape asked takes vl as the smaller of the
request and its lanes, keeps the registers of the micro-threads below it, creates the new ones with every register,
predicate, flag and accumulator zero, IDLE, and writes vl to rd; its grant is GRANTED, or
SPILLED where a lane has more than four contexts; where a spilled record that this would read is wrong it parks instead, for
the restore logic. Any other request parks the context for the Ostler, REQUESTED (or
still REVOKED); the contexts of a crew that held lanes are saved: each written register and the state of each micro-thread
stand at their places of its record, with the accumulators of a square's; where one of its spilled records is wrong its
revocation begins instead. (R69, R70, R71, R77, R79, R82, R379)  Which records a change of vl reads, and that a wrong one is
left to the restore logic, are the model's reading (DESIGN CHOICE, log 44). -/
def Obligations.SetvlForms : Prop :=
  ∀ (s : State) (rd ra : RegNo),
    let v := s.rx ra
    let sq : BitVec 2 := v.extractLsb' 16 2
    let side := if sq = 1 then 4 else if sq = 2 then 8 else 16
    let len := if sq = 0 then min (v.toNat % 1024) 512 else side * side
    let req := BitVec.ofNat 64 (len + 2 ^ 16 * sq.toNat)
    let x := s.me
    let waits := x.gstate = .shrinking ∨ x.revoked.isSome = true ∨ s.drained s.cur = false ∨
      x.holds = true ∧ x.gsq ≠ sq ∧ (x.loomStopped = false ∨ s.saveWaits s.cur = true)
    let n := min len x.slots.length
    let u := s.setMe { x with vlreq := req, nofit := false }
    let bad := (u.setVlReads s.cur n).any (u.spillBad s.cur)
    (len ≠ 0 → x.vsave = 0 → Raises (.setvl rd ra) s 0x12 0) ∧
    (len = 0 ∨ x.vsave ≠ 0 → waits → Parks (.setvl rd ra) s .again) ∧
    (len = 0 → ¬ waits → ∃ t, exec (.setvl rd ra) s = .next t ∧ RegIs s t rd 0 ∧ t.me.gstate = .idle ∧ t.me.vl = 0 ∧
      t.me.vlreq = req ∧ t.me.slots = [] ∧ t.me.pc = x.pc + 4 ∧ (∀ d, d ≠ s.cur → t.ctx d = s.ctx d) ∧
      (∀ l ∈ x.slots, l < 512 → ∃ w ∈ (t.cluster (clusterOfCtx s.cur)).work, w.lane = l) ∧ t.mem = s.mem) ∧
    (len ≠ 0 → x.vsave ≠ 0 → ¬ waits → x.holds = true → x.gsq = sq → bad = true → Becomes (.setvl rd ra) s (fun x =>
      { x with vlreq := req, nofit := false, loadRd := rd, run := .parked .setvl })) ∧
    (len ≠ 0 → x.vsave ≠ 0 → ¬ waits → x.holds = true → x.gsq = sq → bad = false → ∃ t, exec (.setvl rd ra) s = .next t ∧
      RegIs s t rd (BitVec.ofNat 64 n) ∧ t.me.vl = n ∧ t.me.vlreq = req ∧ t.me.nofit = false ∧
      t.me.gstate = t.me.fitState ∧ t.me.slots = x.slots ∧ t.me.pc = x.pc + 4 ∧
      (∀ i, i < n → i < x.vl → ∃ m : Mt, t.mt s.cur i =
        { s.mt s.cur i with slot := m.slot, res := m.res, since := m.since, spillRec := m.spillRec }) ∧
      (∀ i, i < n → x.vl ≤ i → let m := t.mt s.cur i
        m.w = [] ∧ m.p = 0 ∧ m.flags = 0 ∧ m.state = .idle ∧ m.cause = 0 ∧ m.dirty = 0 ∧ m.linkq = [] ∧ m.acc0 = [] ∧
          m.acc1 = [] ∧ m.left = 0 ∧ m.blk = none ∧ m.ent = x.seqNext - 1) ∧
      t = { s with ctxs := t.ctxs, mts := t.mts, mem := t.mem, synd := t.synd, marks := t.marks } ∧
      (s.Sound → KeepsStorage s t) ∧ ∀ d, d ≠ s.cur → t.ctx d = s.ctx d) ∧
    (len ≠ 0 → x.vsave ≠ 0 → ¬ waits → x.holds = true → x.gsq ≠ sq → x.locals.any (s.spillBad s.cur) = true →
      Becomes (.setvl rd ra) s (fun x => { x with gstate := .revoked, revoked := some s.now, run := .parked .again })) ∧
    (len ≠ 0 → x.vsave ≠ 0 → ¬ waits →
      x.holds = false ∨ x.gsq ≠ sq ∧ x.locals.any (s.spillBad s.cur) = false → ∃ t, exec (.setvl rd ra) s = .next t ∧
      t.me.run = .parked .setvl ∧ t.me.vlreq = req ∧ t.me.nofit = false ∧ t.me.loadRd = rd ∧ t.me.pc = x.pc ∧
      t.me.x = x.x ∧ t.me.gstate = (if x.gstate = .revoked then .revoked else .requested) ∧
      (x.slots ≠ [] ∨ x.joining ≠ [] → t.me.slots = [] ∧ t.me.joining = []) ∧
      (x.holds = true → t.me.slots = [] ∧ t.me.saved = some (if x.gsq = 0 then 0 else if x.gsq = 1 then 4 else
        if x.gsq = 2 then 8 else 16)) ∧ (x.holds = false → t.mem = s.mem) ∧ (∀ d, d ≠ s.cur → t.ctx d = s.ctx d) ∧
      (x.holds = true → s.Sound → ∀ key : Nat → Nat → Nat,
        let words := if x.gsq = 0 then 32 else 288
        let va := fun (i k : Nat) => x.vsave + BitVec.ofNat 64 (i * (8 * words)) + BitVec.ofNat 64 (8 * k)
        (∀ i k, i < x.vl → k < words → s.saveRefused s.cur (va i k) = none ∧
          ∃ tr, s.saveTr s.cur (va i k) .w = some tr ∧ key i k = memKey tr.skew tr.pa) →
        (∀ i j k l, i < x.vl → j < x.vl → k < words → l < words → (i, k) ≠ (j, l) →
          key i k + 8 ≤ key j l ∨ key j l + 8 ≤ key i k) →
        ∀ i, i < x.vl →
          (∀ k, k < words → 23 ≤ k ∨ (s.mt s.cur i).dirty.getLsbD k = true →
            readDw t.mem (key i k) = x.mtRead (s.mt s.cur i) k) ∧
          ∀ b, (∀ j k, j < x.vl → k < words → b < key j k ∨ key j k + 8 ≤ b) → readByte t.mem b = readByte s.mem b))

/-- A block address is checked for canonical form, word alignment, translation and codebound, each with its cause. With
the abort line raised, no micro-thread, or a count of zero, the instruction completes and broadcasts nothing; with the
crew REVOKED or sixteen entries taken it waits; otherwise a new entry with the address, the count and the captured
registers is last in the sequencer, and but for the pc and what fetching its words leaves in the caches and counters
nothing else changes. vsync samples the abort line and parks. vsetc sets one of c0 to c5 and nothing
else. (R41, R44, R52, R256, R257, R259) -/
def Obligations.Broadcasts : Prop :=
  ∀ (s : State) (rd ra rb : RegNo) (cn : BitVec 3),
    let v := s.rx ra
    let me := s.cur
    let seen := s.abortRaised me
    let flags := fun (x : Ctx) => { x with
      abortSeen := if seen then true else x.abortSeen, abortEver := if seen then true else x.abortEver }
    let ok := canonical v = true ∧ v.toNat % 4 = 0 ∧
      (s.vecTr (clusterOfCtx me) s.me.vspace.toNat s.me.level v .x).isSome = true ∧ v.toNat < s.me.codebound.toNat
    let B := fun (i : Instr) (n : Nat) =>
      (canonical v = false → Raises i s 0x03 v) ∧
      (canonical v = true → v.toNat % 4 ≠ 0 → Raises i s 0x04 v) ∧
      (canonical v = true → v.toNat % 4 = 0 →
        s.vecTr (clusterOfCtx me) s.me.vspace.toNat s.me.level v .x = none → Raises i s 0x06 v) ∧
      (canonical v = true → v.toNat % 4 = 0 →
        (s.vecTr (clusterOfCtx me) s.me.vspace.toNat s.me.level v .x).isSome = true → s.me.codebound.toNat ≤ v.toNat →
        Raises i s 0x0A v) ∧
      (ok → (seen = true ∨ s.me.vl = 0 ∨ n = 0) → Becomes i s (fun x => { flags x with pc := x.pc + 4 })) ∧
      (ok → seen = false → s.me.vl ≠ 0 → n ≠ 0 → s.me.gstate = .revoked ∨ 16 ≤ s.seqUsed me → Parks i s .again) ∧
      (ok → seen = false → s.me.vl ≠ 0 → n ≠ 0 → s.me.gstate ≠ .revoked → s.seqUsed me < 16 →
        ∃ (t : State) (q : List SeqEntry) (held : List IWord), exec i s = .next t ∧
          t = { s with ctxs := t.ctxs, clusters := t.clusters, l1 := t.l1, l2 := t.l2, freeN := t.freeN, bad := t.bad,
                       scrubs := t.scrubs } ∧ (∀ d, d ≠ me → t.ctx d = s.ctx d) ∧
          (∀ cl, t.cluster cl = { s.cluster cl with bcache := (t.cluster cl).bcache }) ∧
          (∀ e ∈ q, e ∈ s.me.seq) ∧ (∀ e ∈ s.me.seq, s.entryFreed me e = false → e ∈ q) ∧
          Ctx.Charged { s.me with pc := s.me.pc + 4, seqNext := s.me.seqNext + 1, seq := q ++
            [{ id := s.me.seqNext, addr := v, count := n, held := held, picks := [],
               cap := { cs := s.me.cs, vbase := s.me.vbase, srnkey := s.me.srnkey, bfmt := s.me.bfmt,
                        wrm := s.me.wrm } }] } t.me)
    B (.vfetch ra) 1 ∧ B (.vloop ra rb) ((s.rx rb).toNat % 2 ^ 32) ∧
    Becomes (.vsync rd) s (fun x => { flags x with loadRd := rd, run := .parked (.vsync s.now) }) ∧
    Becomes (.vsetc ra cn) s (fun x => { x with cs := put x.cs cn.toNat v, pc := x.pc + 4 })

/-- An index at or past vl raises vector-index with the word as its value; a REVOKED crew, or a micro-thread with blocks
still to run, makes the instruction wait. Otherwise vget writes the item to rd and changes nothing else; vput changes
that item of that micro-thread: a register (with its dirty bit), a predicate from bit 0, the seven flags, or, above
App, the status; of storage only the record of a micro-thread that is spilled changes with it. (R186, R258, R175, R379,
R79) -/
def Obligations.MicroThreadItems : Prop :=
  ∀ (s : State) (rd ra rb : RegNo) (item : BitVec 8) (w : IWord),
    let i := (s.rx ra).toNat
    let m := s.mt s.cur i
    let n := item.toNat
    let v := s.rx rb
    let ready := i < s.me.vl ∧ s.me.gstate ≠ .revoked ∧ s.quiet s.cur i = true
    (s.me.vl ≤ i → encode (.vget rd ra item) = some w → Raises (.vget rd ra item) s 0x0D (w.setWidth 64)) ∧
    (s.me.vl ≤ i → item ≠ 129 → encode (.vput ra rb item) = some w → Raises (.vput ra rb item) s 0x0D (w.setWidth 64)) ∧
    (i < s.me.vl → s.me.gstate = .revoked → Parks (.vget rd ra item) s .again ∧
      (item ≠ 129 → Parks (.vput ra rb item) s .again)) ∧
    (i < s.me.vl → s.me.gstate ≠ .revoked → s.quiet s.cur i = false → exec (.vget rd ra item) s = .next s ∧
      (item ≠ 129 → exec (.vput ra rb item) s = .next s)) ∧
    (ready →
      (1 ≤ n ∧ n ≤ 23 → Gives (.vget rd ra item) s rd (look 0 m.w n)) ∧
      (32 ≤ n ∧ n ≤ 127 → Gives (.vget rd ra item) s rd (if m.p.getLsbD (n - 32) then 1 else 0)) ∧
      (n = 128 → Gives (.vget rd ra item) s rd (m.flags.setWidth 64)) ∧
      (n = 129 → Gives (.vget rd ra item) s rd (s.me.mtStatus m)) ∧
      ∀ u, exec (.vput ra rb item) s = .next u → item ≠ 129 ∨ s.me.level ≠ .app →
        u = { s with ctxs := u.ctxs, mts := u.mts, mem := u.mem, synd := u.synd } ∧
        (m.spillRec = none → u.mem = s.mem ∧ u.synd = s.synd) ∧
        (∀ l r, m.spillRec = some (l, r) → let key := spillKey (clusterOfCtx s.cur) l r
          ∀ k, k < key ∨ key + 256 ≤ k → readByte u.mem k = readByte s.mem k) ∧
        u.me = { s.me with pc := s.me.pc + 4 } ∧ (∀ d, d ≠ s.cur → u.ctx d = s.ctx d) ∧
        (∀ c j, 512 * c + j ≠ 512 * s.cur + i → u.mt c j = s.mt c j) ∧
        (1 ≤ n ∧ n ≤ 23 → u.mt s.cur i = { m with w := put m.w n v, dirty := m.dirty ||| (1 <<< (n - 1)) }) ∧
        (n = 128 → u.mt s.cur i = { m with flags := v.setWidth 7 }) ∧
        (n = 129 → u.mt s.cur i = s.me.putStatus m v) ∧
        (32 ≤ n ∧ n ≤ 127 → (∀ j, (u.mt s.cur i).p.getLsbD j = if j = n - 32 then v.getLsbD 0 else m.p.getLsbD j) ∧
          u.mt s.cur i = { m with p := (u.mt s.cur i).p })) ∧
    (ready → item ≠ 129 ∨ s.me.level ≠ .app → ∃ u, exec (.vput ra rb item) s = .next u ∧ u.me.pc = s.me.pc + 4)

/-- A vector load or store with vstart at or past vl clears vstart and completes. A REVOKED crew, or one with a block
still to run on a micro-thread from vstart up, makes it wait. Otherwise it parks with its elements from vstart up to
be performed, or, where a trial of some element fails, with those below the lowest failing one and that failure; no
register or byte of storage changes yet. (R187, R255, R260, R261, R262) -/
def Obligations.VectorAccesses : Prop :=
  ∀ (s : State) (wd ra rb wi : RegNo) (u : BitVec 1) (w : BitVec 2) (i : Instr) (y : Word),
    (i = .vld wd ra u w ∧ y = 0 ∨ i = .vst wd ra w ∧ y = 0 ∨ i = .vlds wd ra rb u w ∧ y = s.rx rb ∨
      i = .vsts wd ra rb w ∧ y = s.rx rb ∨ i = .vldx wd ra wi u w ∧ y = 0 ∨ i = .vstx wd ra wi w ∧ y = 0) →
    let first := s.me.vstart.toNat
    let ready := ∀ k, first ≤ k → k < s.me.vl → s.quiet s.cur k = true
    (s.me.gstate = .revoked → Parks i s .again) ∧
    (s.me.gstate ≠ .revoked → s.me.vl ≤ first → Becomes i s (fun x => { x with vstart := 0, pc := x.pc + 4 })) ∧
    (s.me.gstate ≠ .revoked → first < s.me.vl → ¬ ready → Parks i s .again) ∧
    (s.me.gstate ≠ .revoked → first < s.me.vl → ready → Issues i s (s.rx ra) y first s.me.vl)

/-- With storage in its canonical form: vldb waits as class 17 does; then, the core's record free and no other context's
request before it, it traps to Fw whatever the level with cause 0x13 and the word as its value, and the record holds
the word of kind 2, its address, one entry for each element from vstart up, the base address, and vstart and vl. No
register, flag or micro-thread changes, and no storage outside the record. Otherwise the context queues for the record
and nothing else changes. (R198, 18_isa_exceptions.md R391, 18_isa_exceptions.md R392, 18_isa_exceptions.md R393)  That a vldb
with vstart at or past vl traps too, with a record of no entry, is the model's choice (DEDUCED, log 30). -/
def Obligations.RetiredVectorLoad : Prop :=
  ∀ (s : State) (wd ra : RegNo) (w : IWord), s.Sound → encode (.vldb wd ra) = some w →
    let first := s.me.vstart.toNat
    let ready := ∀ k, first ≤ k → k < s.me.vl → s.quiet s.cur k = true
    let core := s.cur / 4
    let mine := s.emuFree core = true ∧ s.firstTrip s.cur = true
    (s.me.gstate = .revoked ∨ ¬ ready → Parks (.vldb wd ra) s .again) ∧
    (s.me.gstate ≠ .revoked → ready → ¬ mine → ∃ t, exec (.vldb wd ra) s = .next t ∧
      t = { s with ctxs := t.ctxs, emuQ := t.emuQ } ∧ (∀ d, d ≠ s.cur → t.ctx d = s.ctx d) ∧
      t.me = { s.me with emuAt := some s.me.pc } ∧ (s.me.emuAt = some s.me.pc → t.emuQ = s.emuQ) ∧
      (s.me.emuAt ≠ some s.me.pc → (s.cur, 0) ∈ look [] t.emuQ core)) ∧
    (s.me.gstate ≠ .revoked → ready → mine → s.me.vl ≤ 512 →
      ∃ t, exec (.vldb wd ra) s = .next t ∧
        t = { s with ctxs := t.ctxs, mem := t.mem, synd := t.synd, marks := t.marks, emuQ := t.emuQ } ∧
        (∀ d, d ≠ s.cur → t.ctx d = s.ctx d) ∧ t.me.level = .fw ∧ t.me.pc = s.me.ft.vec &&& ~~~3 ∧
        t.me.ft.cause = 0x13 ∧ t.me.ft.epc = s.me.pc ∧ t.me.ft.val = w.setWidth 64 ∧ t.me.emu = some (2, w) ∧
        t.me.x = s.me.x ∧ t.me.st = s.me.st ∧
        t.emuWord core 0 = BitVec.ofNat 64 (w.toNat + 2 * 2 ^ 32) ∧ t.emuWord core 8 = s.me.pc ∧
        t.emuWord core 0x10 = BitVec.ofNat 64 (s.me.vl - first) ∧ t.emuWord core 0x28 = s.rx ra ∧
        ∀ a, a < emuKey core ∨ emuKey core + 0x5000 ≤ a → readByte t.mem a = readByte s.mem a)

/-- erd writes a geometry register to rd. ecfg of a register with no format field replaces it, with the reserved bits of
sg7, gg0 and lg15 dropped; a format field of sg6 whose code the stream engine does not accept keeps its value while the others
take theirs, and one of lg0 or lg1 whose code the Loom does not accept keeps its value; no other
register changes. ewait parks with its job number. stream with an operation or formats that R266 does not allow raises
engine-operand; a REVOKED crew waits; with nothing left from vstart it clears vstart and completes; otherwise it parks
with its elements to be performed, as a vector access does. (R264, R265, R266, R270, R274, R279, R283) -/
def Obligations.EngineRegisters : Prop :=
  ∀ (s : State) (rd ra rb : RegNo) (eng : BitVec 3) (n : BitVec 4) (w : IWord),
    let v := s.rx ra
    let x := s.me
    let e := eng.toNat
    let k := n.toNat
    let f6 := x.geo 1 6
    let count := x.vl * max 1 ((x.geo 1 7).toNat % 2 ^ 32)
    let ok := v.toNat < 8 ∧ streamOk v.toNat (f6.toNat % 32) (f6.toNat / 2 ^ 8 % 32) (f6.toNat / 2 ^ 16 % 32) = true
    (e = 1 ∨ e = 3 ∨ e = 4 → Gives (.erd rd eng n) s rd (x.geo e k)) ∧
    (e = 1 ∧ k ≤ 7 ∨ e = 3 ∨ e = 4 ∧ (k ≤ 2 ∨ k = 15) → ∃ t, exec (.ecfg ra eng n) s = .next t ∧ OnlyCtx s.cur s t ∧
      t.me = { x with pc := x.pc + 4, sg := t.me.sg, gg := t.me.gg, lg := t.me.lg } ∧
      (∀ e' k', (e' = 1 ∨ e' = 3 ∨ e' = 4) → (e', k') ≠ (e, k) → t.me.geo e' k' = x.geo e' k') ∧
      (e = 1 ∧ k ≤ 5 ∨ e = 3 ∧ 1 ≤ k ∨ e = 4 ∧ k = 2 → t.me.geo e k = v) ∧
      (e = 1 ∧ k = 7 → t.me.geo e k = v &&& 0xFFFFFFFF) ∧ (e = 3 ∧ k = 0 → t.me.geo e k = v &&& 0x373F010001) ∧
      (e = 4 ∧ k = 15 → t.me.geo e k = v &&& 0x7F) ∧
      (e = 1 ∧ k = 6 →
        let code := fun (j : Nat) => v.toNat / 2 ^ (8 * j) % 32
        let field := fun (j : Nat) => if code j ∈ [0, 1, 2, 3, 4, 5, 6, 8, 10, 11, 12, 13, 14, 15, 16] then code j
          else f6.toNat / 2 ^ (8 * j) % 32
        t.me.geo e k = BitVec.ofNat 64 (field 0 + 2 ^ 8 * field 1 + 2 ^ 16 * field 2)) ∧
      (e = 4 ∧ k = 0 → (t.me.geo e k).extractLsb' 16 16 = v.extractLsb' 16 16 ∧
        (t.me.geo e k).getLsbD 8 = v.getLsbD 8 ∧ (t.me.geo e k).toNat % 32 = if v.toNat % 32 ∈ [3, 4, 7, 8, 9, 10] then v.toNat % 32 else (x.geo e k).toNat % 32) ∧
      (e = 4 ∧ k = 1 → (t.me.geo e k).getLsbD 8 = v.getLsbD 8 ∧
        (t.me.geo e k).toNat % 32 = if v.toNat % 32 ∈ [2, 3, 4, 8, 10, 11] then v.toNat % 32 else (x.geo e k).toNat % 32)) ∧
    Parks (.ewait ra) s (.ewait v) ∧
    (¬ ok → encode (.stream ra rb) = some w → Raises (.stream ra rb) s 0x0D (w.setWidth 64)) ∧
    (ok → x.gstate = .revoked → Parks (.stream ra rb) s .again) ∧
    (ok → x.gstate ≠ .revoked → count ≤ x.vstart.toNat →
      Becomes (.stream ra rb) s (fun x => { x with vstart := 0, pc := x.pc + 4 })) ∧
    (ok → x.gstate ≠ .revoked → x.vstart.toNat < count →
      Issues (.stream ra rb) s v (s.rx rb) x.vstart.toNat count)

/-- A copyj first loads its card: a load that raises is what the instruction comes to, and a load that has to wait too, but
that a full cluster queue then parks a copyj with good operands to be issued again. A card
address that is not a multiple of 32, a completion address outside vector space or unaligned, a card or Gleaner
register that the rules refuse, raises engine-operand with the word as its value, on the state that the loads leave; a full
cluster queue parks the context. Otherwise the job enters last in the context's list with the next number, which goes to rd (a
card with a follow-on takes the number after too), with its footprints, its level and the entries of its vector space, and has
moved nothing yet. (R136, R267, R269, R271, R272, R273, R274, R275, R283, R207)  That a card holds its place in the queue until
its job ends (log 28), which cards are refused beyond the words of R271 and R272 (log 42), which ranges a footprint reaches
(log 56) and what of a card is kept while a load of it waits (log 27) are the model's choices. -/
def Obligations.JobSubmission : Prop :=
  ∀ (s t : State) (rd ra rb : RegNo) (w : IWord) (card : List Word) (o : Res'),
    let a := s.rx ra
    let b := s.rx rb
    let bad := b ≠ 0 ∧ (inVector b = false ∨ b.toNat % 8 ≠ 0)
    let full := 64 ≤ s.cards (clusterOfCtx s.cur)
    let held := s.me.card.getD []
    let read := s.readCard a (20 - held.length) held
    let gg := (List.range 16).map (s.me.geo 3)
    let ggOk := 1 ≤ a.toNat ∧ a.toNat < 2 ^ 32 ∧ (s.me.geo 3 1).toNat % 8 = 0 ∧ (s.me.geo 3 2).toNat % 8 = 0 ∧
      (s.me.geo 3 3).toNat % 8 = 0 ∧ ((s.me.geo 3 0).extractLsb' 32 3).toNat ≤ 4 ∧
      ((s.me.geo 3 0).extractLsb' 36 2).toNat ≠ 3
    let enters := fun (i : Instr) (o : State) (glean : Bool) (l : List Word) (count more : Nat)
        (reads writes : List (Nat × Nat)) =>
      ∃ (j : Job) (u : State), exec i s = .next u ∧ OnlyCtx s.cur o u ∧ RegIs o u rd (o.me.lastJob + 1) ∧
        u.me = { o.me with x := u.me.x, pc := o.me.pc + 4, jobs := o.me.jobs ++ [j],
                           lastJob := o.me.lastJob + 1 + BitVec.ofNat 64 more, card := none } ∧
        j.num = o.me.lastJob + 1 ∧ j.glean = glean ∧ j.card = l ∧ j.count = count ∧ j.done = b ∧ j.level = o.me.level ∧
        j.reads = reads ∧ j.writes = writes ∧ j.started = false ∧ j.row = 0 ∧ j.byte = 0 ∧ j.flags = 0 ∧ j.packets = 0 ∧
        j.got = [] ∧ j.left = 0 ∧ j.marked = false ∧ j.fail = none ∧ j.pages = some (o.spaceTable o.cur) ∧
        j.lg0 = (o.me.geo 4 0).setWidth 32
    let wrong := a.toNat % 32 ≠ 0 ∨ bad
    (read = .raises o → exec (.copyj rd ra rb) s = o) ∧
    (read = .later o → wrong ∨ ¬ full → exec (.copyj rd ra rb) s = o) ∧
    ((∀ o, read ≠ .raises o) → ¬ wrong → full → Parks (.copyj rd ra rb) s .again) ∧
    (read = .card card t → wrong → encode (.copyj rd ra rb) = some w →
      exec (.copyj rd ra rb) s = .next (t.trapAt t.cur t.me.pc { cause := 0x0D, val := w.setWidth 64 })) ∧
    (¬ wrong → ¬ full → read = .card card t →
      let ctl := nth 0 card 0
      let follow := ctl.toNat / 4 % 4
      let refused := cardBad card = true ∨
        follow ≠ 0 ∧ t.loomBad t.cur (nth 0 card 6) (nth 0 card 7) ((t.me.geo 4 0).setWidth 32) = true
      (refused → encode (.copyj rd ra rb) = some w →
        exec (.copyj rd ra rb) s = .next (t.trapAt t.cur t.me.pc { cause := 0x0D, val := w.setWidth 64 })) ∧
      (¬ refused → t.cur = s.cur → enters (.copyj rd ra rb) t false card 0 (if follow = 0 then 0 else 1)
        (t.footprints card 8 (bits ctl 24 3)) (t.footprints card 16 (bits ctl 28 2)))) ∧
    (¬ ggOk ∨ bad → encode (.gleanj rd ra rb) = some w → Raises (.gleanj rd ra rb) s 0x0D (w.setWidth 64)) ∧
    (ggOk → ¬ bad → full → Parks (.gleanj rd ra rb) s .again) ∧
    (ggOk → ¬ bad → ¬ full → enters (.gleanj rd ra rb) s true gg a.toNat 0
      (s.footprints gg 4 (bits (nth 0 gg 0) 32 3)) (s.footprints gg 12 (bits (nth 0 gg 0) 36 2)))

/-- lclaim takes the lowest run of free slots of its cluster and writes its slot range, or writes 0 and claims none.
lrelease of claimed slots that no job touches clears their tiles and planes and gives them up; with a job on them it
waits. lzero, lmma.o and lmma.r enter a job with the next number in the Loom's queue, or wait while the crew is
REQUESTED or REVOKED or eight jobs are queued; ldrain waits for the crew's Loom jobs and parks with the elements of
its tile. Operands that the rules refuse raise engine-operand with the word as the value. (R276, R277, R280, R281,
R282, R283, R267) -/
def Obligations.LoomInstructions : Prop :=
  ∀ (s : State) (rd ra rb : RegNo) (w : IWord),
    let v := s.rx ra
    let x := s.me
    let cl := clusterOfCtx s.cur
    let n := v.toNat / 2 ^ 16 % 1024
    let free := fun f => f + n ≤ 512 ∧ ∀ k, k < n → s.slotFree cl (f + k) = true
    let lg0 := (x.geo 4 0).setWidth 32
    let J := fun (i : Instr) (kind : BitVec 3) (a b : Word) =>
      (x.gstate = .requested ∨ x.gstate = .revoked ∨ 8 ≤ x.loomq.length → Parks i s .again) ∧
      (x.gstate ≠ .requested → x.gstate ≠ .revoked → x.loomq.length < 8 → Becomes i s (fun x => { x with
        pc := x.pc + 4, lastJob := x.lastJob + 1
        loomq := x.loomq ++ [{ num := x.lastJob + 1, kind := kind, ra := a, rb := b, lg0 := lg0, chunk := 0,
                               started := false, tokens := 0, side := sideOf x.gsq, parts := [] }] }))
    (v &&& ~~~0x3FF0000 ≠ 0 ∨ n = 0 → encode (.lclaim rd ra) = some w → Raises (.lclaim rd ra) s 0x0D (w.setWidth 64)) ∧
    (v &&& ~~~0x3FF0000 = 0 → n ≠ 0 →
      ((∀ f, ¬ free f) → Gives (.lclaim rd ra) s rd 0) ∧
      ∀ f, free f → (∀ g, g < f → ¬ free g) → ∃ t, exec (.lclaim rd ra) s = .next t ∧ OnlyCtx s.cur s t ∧
        RegIs s t rd (BitVec.ofNat 64 (f + 2 ^ 16 * n)) ∧
        t.me = { x with x := t.me.x, pc := x.pc + 4, claimed := t.me.claimed } ∧
        ∀ k, k ∈ t.me.claimed ↔ k ∈ x.claimed ∨ f ≤ k ∧ k < f + n) ∧
    (slotRange v = none → encode (.lrelease ra) = some w → Raises (.lrelease ra) s 0x0D (w.setWidth 64)) ∧
    (∀ f m, slotRange v = some (f, m) →
      let touched := ∃ j ∈ s.jobList s.cur, rangesMeet j.2.1 (slotRanges cl (f, m)) = true ∨
        rangesMeet j.2.2 (slotRanges cl (f, m)) = true
      let mine := ∀ k, f ≤ k → k < f + m → k ∈ x.claimed
      (¬ mine → encode (.lrelease ra) = some w → Raises (.lrelease ra) s 0x0D (w.setWidth 64)) ∧
      (mine → touched → Parks (.lrelease ra) s .again) ∧
      (mine → ¬ touched → ∃ t, exec (.lrelease ra) s = .next t ∧
        t = { s with ctxs := t.ctxs, mem := t.mem, synd := t.synd, marks := t.marks } ∧
        (∀ d, d ≠ s.cur → t.ctx d = s.ctx d) ∧
        t.me = { x with pc := x.pc + 4, claimed := t.me.claimed } ∧
        (∀ k, k ∈ t.me.claimed ↔ k ∈ x.claimed ∧ ¬ (f ≤ k ∧ k < f + m)) ∧
        ∀ k, readByte t.mem k =
          if tileKey cl f ≤ k ∧ k < tileKey cl (f + m) ∨ planeKey cl f ≤ k ∧ k < planeKey cl (f + m) then 0
          else readByte s.mem k)) ∧
    (x.noLoom = true ∨ 4 ≤ v.toNat → encode (.lzero ra) = some w → Raises (.lzero ra) s 0x0D (w.setWidth 64)) ∧
    (x.noLoom = false → v.toNat < 4 → J (.lzero ra) 4 v 0) ∧
    (s.loomBad s.cur v (s.rx rb) lg0 = true → (encode (.lmmaO ra rb) = some w → Raises (.lmmaO ra rb) s 0x0D (w.setWidth 64)) ∧
      (encode (.lmmaR ra rb) = some w → Raises (.lmmaR ra rb) s 0x0D (w.setWidth 64))) ∧
    (s.loomBad s.cur v (s.rx rb) lg0 = false → J (.lmmaO ra rb) 5 v (s.rx rb) ∧ J (.lmmaR ra rb) 6 v (s.rx rb)) ∧
    let g := x.geo 4 1
    let bad := x.noLoom = true ∨ v.toNat % 8 ≠ 0 ∨ (x.geo 4 2).toNat % 8 ≠ 0
    let fmtOk := drainOk (if g.getLsbD 8 then x.acc1Int else x.acc0Int) (g.toNat % 32) = true
    (bad → encode (.ldrain rd ra) = some w → Raises (.ldrain rd ra) s 0x0D (w.setWidth 64)) ∧
    (¬ bad → x.loomParks = true ∨ x.loomBusy = true → Parks (.ldrain rd ra) s .again) ∧
    (¬ bad → x.loomParks = false → x.loomBusy = false →
      (¬ fmtOk → encode (.ldrain rd ra) = some w → Raises (.ldrain rd ra) s 0x0D (w.setWidth 64)) ∧
      (fmtOk → Issues (.ldrain rd ra) s v 0 0 (256 * sideOf x.gsq * sideOf x.gsq)))

/-- A guard of 127 holds unless negated, any other reads its predicate, inverted when negated. As sources w0 is zero, w1
to w23 the block's registers, w24 to w29 the captured scalars, and w30 takes the next entry of the link-in queue, none
where the block has taken all that came. As destinations w0 discards, w1 to w23 take the value with their dirty bit,
and w31 pushes. A predicate write changes that predicate only. (R191, R192, R230, R379) -/
def Obligations.MicroOperands : Prop :=
  ∀ (b : Blk) (q : List Word) (r : RegNo) (v : Word) (h : WHdr) (bank : BitVec 2) (p : Bool) (n : Nat),
    let k := r.toNat
    (h.gp = 127 → (b.guard h = true ↔ h.n = 0)) ∧
    (h.gp ≠ 127 → (b.guard h = true ↔ (b.p.getLsbD h.gp.toNat = true ↔ h.n = 0))) ∧
    b.src q 0 = some (0, b) ∧ (1 ≤ k → k ≤ 23 → b.src q r = some (look 0 b.w k, b)) ∧
    (24 ≤ k → k ≤ 29 → b.src q r = some (look 0 b.cap.cs (k - 24), b)) ∧
    (q.length ≤ b.pops → b.src q 30 = none) ∧
    (∀ x, q[b.pops]? = some x → b.src q 30 = some (x, { b with pops := b.pops + 1 })) ∧
    b.dst 0 v = b ∧ b.dst 31 v = { b with pushes := b.pushes ++ [v] } ∧
    (1 ≤ k → k ≤ 23 → b.dst r v = { b with w := (b.dst r v).w, dirty := (b.dst r v).dirty } ∧
      (∀ j, look 0 (b.dst r v).w j = if j = k then v else look 0 b.w j) ∧
      ∀ j, (b.dst r v).dirty.getLsbD j = true ↔ b.dirty.getLsbD j = true ∨ j = k - 1) ∧
    (bank.toNat < 3 → b.setPred bank r p = { b with p := (b.setPred bank r p).p } ∧
      (b.setPred bank r p).p.getLsbD n = if n = 32 * bank.toNat + k then p else b.p.getLsbD n)

/-- Each integer word completes with the value of R236 in its destination, div and rem where they are not emulated with IZ
in the block's flags at the corners of R212; each compare writes one predicate, the floating ones with NV as R215
gives it; each logic word writes one predicate from those of its bank. A word whose guard does not hold is skipped;
nothing else of the machine changes. (R191, R194, R236, R237, R238, R199) -/
def Obligations.MicroIntegerAndPredicates : Prop :=
  ∀ (s : State) (h : WHdr) (wd wa wb : RegNo) (imm7 : BitVec 7) (sh : BitVec 6) (imm : BitVec 12) (bank sb : BitVec 2),
    let W := fun (i : Instr) (f : Word → Word → Word) => Word2 i s h wa wb (fun _ b x y => b.dst wd (f x y))
    let D := fun (i : Instr) (f : Word → Word → Word × BitVec 7) =>
      Word2 i s h wa wb (fun _ b x y => (b.dst wd (f x y).1).flag (f x y).2)
    let C := fun (i : Instr) (f : Word → Word → Bool × BitVec 7) =>
      Word2 i s h wa wb (fun _ b x y => (b.setPred bank wd (f x y).1).flag (f x y).2)
    let P := fun (i : Instr) (f : Bool → Bool → Bool) =>
      Word0 i s h (fun b => b.setPred bank wd (f (b.predAt bank wa) (b.predAt bank wb)))
    let lo := fun x : Word => x.toNat % 2 ^ 32
    W (.wAdd h wd wa wb) (· + ·) ∧ W (.wSub h wd wa wb) (· - ·) ∧ W (.wAnd h wd wa wb) (· &&& ·) ∧
    W (.wOr h wd wa wb) (· ||| ·) ∧ W (.wXor h wd wa wb) (· ^^^ ·) ∧ W (.wAndn h wd wa wb) (fun x y => x &&& ~~~y) ∧
    W (.wMin h wd wa wb) (fun x y => BitVec.ofInt 64 (min x.toInt y.toInt)) ∧
    W (.wMax h wd wa wb) (fun x y => BitVec.ofInt 64 (max x.toInt y.toInt)) ∧
    W (.wMinu h wd wa wb) (fun x y => BitVec.ofNat 64 (min x.toNat y.toNat)) ∧
    W (.wMaxu h wd wa wb) (fun x y => BitVec.ofNat 64 (max x.toNat y.toNat)) ∧
    W (.wSll h wd wa wb) (fun x y => x <<< (y.toNat % 64)) ∧ W (.wSrl h wd wa wb) (fun x y => x >>> (y.toNat % 64)) ∧
    W (.wSra h wd wa wb) (fun x y => BitVec.ofInt 64 (x.toInt / 2 ^ (y.toNat % 64))) ∧
    W (.wRor h wd wa wb) (fun x y => x.rotateRight (y.toNat % 64)) ∧ W (.wMul h wd wa wb) (· * ·) ∧
    W (.wMulh h wd wa wb) (fun x y => BitVec.ofInt 64 (x.toInt * y.toInt / 2 ^ 64)) ∧
    W (.wMulhu h wd wa wb) (fun x y => BitVec.ofNat 64 (x.toNat * y.toNat / 2 ^ 64)) ∧
    W (.wMulhsu h wd wa wb) (fun x y => BitVec.ofInt 64 (x.toInt * y.toNat / 2 ^ 64)) ∧
    (s.emulated 0 = false →
      D (.wDiv h wd wa wb) (fun x y => if y = 0 then (-1, 0x20)
        else if x.toInt = -2 ^ 63 ∧ y.toInt = -1 then (x, 0x20) else (BitVec.ofInt 64 (x.toInt.tdiv y.toInt), 0)) ∧
      D (.wRem h wd wa wb) (fun x y => if y = 0 then (x, 0x20)
        else if x.toInt = -2 ^ 63 ∧ y.toInt = -1 then (0, 0x20) else (BitVec.ofInt 64 (x.toInt.tmod y.toInt), 0)) ∧
      D (.wDivu h wd wa wb) (fun x y => if y = 0 then (0xFFFFFFFFFFFFFFFF, 0x20) else (BitVec.ofNat 64 (x.toNat / y.toNat), 0)) ∧
      D (.wRemu h wd wa wb) (fun x y => if y = 0 then (x, 0x20) else (BitVec.ofNat 64 (x.toNat % y.toNat), 0))) ∧
    Word1 (.wAddi h wd wa imm7) s h wa (fun _ b x => b.dst wd (x + imm7.signExtend 64)) ∧
    Word1 (.wSlli h wd wa sh) s h wa (fun _ b x => b.dst wd (x <<< sh.toNat)) ∧
    Word1 (.wSrli h wd wa sh) s h wa (fun _ b x => b.dst wd (x >>> sh.toNat)) ∧
    Word1 (.wSrai h wd wa sh) s h wa (fun _ b x => b.dst wd (BitVec.ofInt 64 (x.toInt / 2 ^ sh.toNat))) ∧
    Word0 (.wMovi h wd imm) s h (fun b => b.dst wd (imm.signExtend 64)) ∧
    C (.wCeq h wd wa wb bank) (fun x y => (decide (x = y), 0)) ∧
    C (.wClt h wd wa wb bank) (fun x y => (decide (x.toInt < y.toInt), 0)) ∧
    C (.wCltu h wd wa wb bank) (fun x y => (decide (x.toNat < y.toNat), 0)) ∧
    C (.wFceqD h wd wa wb bank) (fun x y => fpCmp f64 0 x.toNat y.toNat) ∧
    C (.wFcltD h wd wa wb bank) (fun x y => fpCmp f64 1 x.toNat y.toNat) ∧
    C (.wFcleD h wd wa wb bank) (fun x y => fpCmp f64 2 x.toNat y.toNat) ∧
    C (.wFceqS h wd wa wb bank) (fun x y => fpCmp f32 0 (lo x) (lo y)) ∧
    C (.wFcltS h wd wa wb bank) (fun x y => fpCmp f32 1 (lo x) (lo y)) ∧
    C (.wFcleS h wd wa wb bank) (fun x y => fpCmp f32 2 (lo x) (lo y)) ∧
    P (.wPand h wd wa wb bank) (fun a b => a && b) ∧ P (.wPor h wd wa wb bank) (fun a b => a || b) ∧
    P (.wPxor h wd wa wb bank) (fun a b => a != b) ∧ P (.wPandn h wd wa wb bank) (fun a b => a && !b) ∧
    P (.wPnot h wd wa bank) (fun a _ => !a) ∧
    Word0 (.wPmov h wd wa sb bank) s h (fun b => b.setPred bank wd (b.predAt sb wa))

/-- Each packed floating word and each convert completes with, in every element of the result, the operation on the
elements of the sources under the captured rounding mode and the element's own draw, zeros above the last element, and
the flags of all elements in the block's flags; fdiv, fsqrt and the special functions where they are not emulated.
fabs and fneg act on each sign and set no flag. cvt.f4 takes sixteen FP32 elements from eight registers. (R193, R234,
R239, R240, R241, R242, R243, R244, R104) -/
def Obligations.MicroFloatAndConverts : Prop :=
  ∀ (s : State) (h : WHdr) (wd wa wb : RegNo) (fm : BitVec 2) (p hf : BitVec 1),
    let t := fmtOf fm
    let n := 64 / t.width
    let done := fun (b : Blk) (w n : Nat) (f : Nat → Nat × BitVec 7) (d : Blk) =>
      ∃ v fl, Packs w n f v fl ∧ d = (b.dst wd v).flag fl
    let R := fun (i : Instr) (w n : Nat) (f : (Nat → Rnd) → (Nat → Word) → (RegNo → Word) → Nat → Nat × BitVec 7) (two : Bool) =>
      ∃ r, (if two then Word2 i s h wa wb r else Word1 i s h wa (fun a b x => r a b x 0)) ∧
        ∀ a b x y, done b w n (f (a.rnd s.curMt) (fun k => if k = 0 then x else y) (fun q => look 0 a.w q.toNat)) (r a b x y)
    let E2 := fun (i : Instr) (f : Fmt → Rnd → Nat → Nat → Nat × BitVec 7) => R i t.width n (fun rd x _ j =>
      f t (rd j) (elem t.width (x 0) j) (elem t.width (x 1) j)) true
    let E1 := fun (i : Instr) (f : Fmt → Rnd → Nat → Nat × BitVec 7) => R i t.width n (fun rd x _ j =>
      f t (rd j) (elem t.width (x 0) j)) false
    let E3 := fun (i : Instr) (np nc : Bool) => R i t.width n (fun rd x w j =>
      fpFma t (rd j) np nc (t.decode (elem t.width (x 0) j)) (t.decode (elem t.width (x 1) j))
        (t.decode (elem t.width (w wd) j))) true
    let H := fun (i : Instr) (sf df : Nat) => R i (fmtBits df) (128 / fmtBits sf) (fun rd x _ j =>
      convertElem sf df (rd j) (elem (fmtBits sf) (x (j / (64 / fmtBits sf))) (j % (64 / fmtBits sf)))) true
    let L := fun (i : Instr) (sf df k first : Nat) => R i (fmtBits df) k (fun rd x _ j =>
      convertElem sf df (rd j) (elem (fmtBits sf) (x 0) (first + j))) false
    let G := fun (i : Instr) (sf df : Nat) => L i sf df (64 / fmtBits df) (hf.toNat * (64 / fmtBits df))
    let S := fun (i : Instr) (sd dd ss ds : Nat) => if p = 0 then L i sd dd 1 0 else L i ss ds 2 0
    E2 (.wFadd h wd wa wb fm) (fun t rd x y => fpAdd t rd (t.decode x) (t.decode y)) ∧
    E2 (.wFsub h wd wa wb fm) (fun t rd x y => fpAdd t rd (t.decode x) (t.decode y).neg) ∧
    E2 (.wFmul h wd wa wb fm) (fun t rd x y => fpMul t rd (t.decode x) (t.decode y)) ∧
    E3 (.wFma h wd wa wb fm) false false ∧ E3 (.wFms h wd wa wb fm) false true ∧
    E3 (.wFnma h wd wa wb fm) true false ∧ E3 (.wFnms h wd wa wb fm) true true ∧
    E2 (.wFmin h wd wa wb fm) (fun t _ x y => fpMinMax t false x y) ∧
    E2 (.wFmax h wd wa wb fm) (fun t _ x y => fpMinMax t true x y) ∧
    E1 (.wFabs h wd wa fm) (fun t _ x => (x % 2 ^ (t.width - 1), 0)) ∧
    E1 (.wFneg h wd wa fm) (fun t _ x => (x ^^^ 2 ^ (t.width - 1), 0)) ∧
    (s.emulated 1 = false →
      E2 (.wFdiv h wd wa wb fm) (fun t rd x y => fpDiv t rd (t.decode x) (t.decode y)) ∧
      E1 (.wFsqrt h wd wa fm) (fun t rd x => fpSqrt t rd (t.decode x))) ∧
    (s.emulated 2 = false →
      E1 (.wExp2 h wd wa fm) (fun t rd x => fpExp2 t rd (t.decode x)) ∧
      E1 (.wLog2 h wd wa fm) (fun t rd x => fpLog2 t rd (t.decode x)) ∧
      E1 (.wRcp h wd wa fm) (fun t rd x => fpRcp t rd (t.decode x)) ∧
      E1 (.wRsqrt h wd wa fm) (fun t rd x => fpRsqrt t rd (t.decode x))) ∧
    H (.wCvthSD h wd wa wb) 1 2 ∧ H (.wCvthHS h wd wa wb) 2 3 ∧ H (.wCvthBS h wd wa wb) 2 4 ∧
    H (.wCvthT8H h wd wa wb) 3 8 ∧ H (.wCvthE4H h wd wa wb) 3 5 ∧ H (.wCvthE5H h wd wa wb) 3 6 ∧
    L (.wCvthT6T8 h wd wa) 8 9 8 0 ∧ G (.wCvtdDS h wd wa hf) 2 1 ∧ G (.wCvtdSH h wd wa hf) 3 2 ∧
    G (.wCvtdSB h wd wa hf) 4 2 ∧ G (.wCvtdHT8 h wd wa hf) 8 3 ∧ G (.wCvtdHE4 h wd wa hf) 5 3 ∧
    G (.wCvtdHE5 h wd wa hf) 6 3 ∧ L (.wCvtdT8T6 h wd wa) 9 8 8 0 ∧
    S (.wCvtfi h wd wa p) 1 12 2 11 ∧ S (.wCvtfu h wd wa p) 1 16 2 15 ∧ S (.wCvtif h wd wa p) 12 1 11 2 ∧
    S (.wCvtuf h wd wa p) 16 1 15 2 ∧
    ∃ r, Word0 (.wCvtF4 h wd wa) s h r ∧ ∀ b, done b 4 16 (fun j =>
      convertElem 2 7 (b.rnd s.curMt j) (elem 32 (look 0 b.w (wa.toNat + j / 2)) (j % 2))) (r b)

/-- With its guard holding and its sources read, a load of this module's memory completes with the bytes there, the
block's own earlier stores over them, unless its line is Copying; a store, an atomic or a scratchpad store waits in the
block; a scratchpad load gives the element's value; a scratchpad bank that is gated begins to wake, and the word issues
again; an address or element that fails its check faults the micro-thread with its cause and no effect of the block.
thfetch and thfetchr name the next block, stop ends the chain, idx gives the global index, sel always picks by its
guard, rng mixes its key. A word of an emulated class, and the retired fsin.s2 and fcos.s2, holds its block and
requests a trip, once its operands have come. (R151, R232, R245, R246, R247, R248, R249, R250, R251, R253, R392, R145)  That
a word of an emulated class requests its trip even where its guard does not hold is the model's choice (DEDUCED,
log 25), and so is the fault address 0 of a scratchpad range fault (DESIGN CHOICE, log 123). -/
def Obligations.MicroMemoryAndControl : Prop :=
  ∀ (s : State) (h : WHdr) (wd wa wb : RegNo) (wid : BitVec 2) (imm : BitVec 12) (fm : BitVec 2) (b b1 b2 b3 : Blk)
    (x y v : Word) (t : Tr),
    s.Runs b →
    let q := s.myMt.linkq
    let n := 2 ^ wid.toNat
    let me := s.cur
    let key := memKey t.skew t.pa
    let two := b.guard h = true ∧ b.src q wa = some (x, b1) ∧ b1.src q wb = some (y, b2)
    let three := two ∧ b2.src q wd = some (v, b3)
    let faults := fun (i : Instr) (e : Exc) => exec i s = .next (s.mtFault me s.curMt s.myMt e)
    let held := fun (kind : Nat) (n : Nat) (d d2 : Word) (r : RegNo) =>
      ({ kind := kind, va := x + y, key := key, pa := t.pa, skew := t.skew,
         attr := t.attr, hcl := t.hcl, width := n, data := d, data2 := d2, rd := r } : BlkStore)
    let bytes := overlayOwn b2.stores key (readBytes s.mem key n)
    let bits := leNat bytes
    let loads := fun (i : Instr) (r : Word) => ∃ (u : State) (k : Nat), k ≤ b.runs ∧ exec i s = .next u ∧
      u = { s with ctxs := u.ctxs, mts := u.mts, l1 := u.l1, l2 := u.l2, freeN := u.freeN, bad := u.bad,
                   scrubs := u.scrubs, heldSectors := u.heldSectors } ∧
      u.myMt = { s.myMt with blk := some { b2.dst wd r with pos := b.pos + 1, heldSince := none, stalled := false, runs := k,
                                                            loads := b2.loads ++ [(key, readBytes s.mem key n)] } } ∧
      ∀ d, Ctx.Charged (s.ctx d) (u.ctx d)
    let spLoads := fun (i : Instr) (first w : Nat) (r : Word) => ∃ (u : State) (k : Nat), k ≤ b.runs ∧ exec i s = .next u ∧
      u = { s with mts := u.mts, heldSectors := u.heldSectors } ∧
      u.myMt = { s.myMt with blk := some { b2.dst wd r with
        pos := b.pos + 1, heldSince := none, stalled := false, runs := k
        loads := b2.loads ++ [(s.mySp + first / 8, readBytes s.mem (s.mySp + first / 8) ((first % 8 + w + 7) / 8))] } }
    let trips := fun (i : Instr) (rs : List RegNo) =>
      (b.guard h = true → b.srcs q rs = none → exec i s = .next s.noteHold) ∧
      ((b.guard h = false ∨ (b.srcs q rs).isSome = true) → ∃ u : State,
        exec i s = .next u ∧ u = { s with ctxs := u.ctxs, mts := u.mts, emuQ := u.emuQ } ∧
        (∀ d, d ≠ me → u.ctx d = s.ctx d) ∧
        u.me = { s.me with trips := s.me.trips ++ [(s.curMt, b.addr, b.pos)], tripSeq := s.me.tripSeq + 1 } ∧
        u.myMt = { s.myMt with blk := some { b with trip := true, tripNo := s.me.tripSeq, heldSince := none } } ∧
        (me, s.me.tripSeq + 1) ∈ look [] u.emuQ (me / 4))
    (∀ e, two → s.laneAt (x + y) n .r = .error e → faults (.wLd h wd wa wb wid) e ∧ faults (.wLds h wd wa wb wid) e) ∧
    (two → s.laneAt (x + y) n .r = .ok (.here t) → checkFails s key = false → s.stalls t = false →
      loads (.wLd h wd wa wb wid) (BitVec.ofNat 64 bits) ∧
      (n < 8 → loads (.wLds h wd wa wb wid)
        (BitVec.ofInt 64 (if 2 * (bits % 2 ^ (8 * n)) < 2 ^ (8 * n) then (bits : Int) else (bits : Int) - 2 ^ (8 * n))))) ∧
    (three → (∀ e, s.laneAt (x + y) n .w = .error e → faults (.wSt h wd wa wb wid) e) ∧
      (s.laneAt (x + y) n .w = .ok (.here t) →
        WGives (.wSt h wd wa wb wid) s b { b3 with stores := b3.stores ++ [held 0 n v 0 0] })) ∧
    (two → ∀ i k, (i = .wAadd h wd wa wb ∧ k = 2 ∨ i = .wAswap h wd wa wb ∧ k = 3 ∨ i = .wAcas h wd wa wb ∧ k = 4) →
      (∀ e, s.laneAt (x + y) 8 .rw = .error e → faults i e) ∧
      (s.laneAt (x + y) 8 .rw = .ok (.here t) → s.noAtomic me = true → faults i { cause := 0x2A, val := x + y }) ∧
      (s.laneAt (x + y) 8 .rw = .ok (.here t) → s.noAtomic me = false → WGives i s b { b2 with
        stores := b2.stores ++ [held k 8 (look 0 b.w wd.toNat) (look 0 b.w (wd.toNat + 1)) wd] })) ∧
    (two → spPlace b.cap.bfmt (x + y) = none → faults (.wSpld h wd wa wb) { cause := 0x08, val := 0 }) ∧
    (three → spPlace b.cap.bfmt (x + y) = none → faults (.wSpst h wd wa wb) { cause := 0x08, val := 0 }) ∧
    (∀ first w code, spPlace b.cap.bfmt (x + y) = some (first, w, code) → s.unitAsleep (s.mySpUnit first) = true →
      (two → exec (.wSpld h wd wa wb) s = .next (s.wakeUnit (s.mySpUnit first)).noteStall) ∧
      (three → exec (.wSpst h wd wa wb) s = .next (s.wakeUnit (s.mySpUnit first)))) ∧
    (∀ first w code, spPlace b.cap.bfmt (x + y) = some (first, w, code) → s.unitAsleep (s.mySpUnit first) = false →
      (two → (∀ e ∈ b.stores, ¬ (e.kind = 1 ∧ e.pa = first)) → s.spBad s.mySp first w = none →
        spLoads (.wSpld h wd wa wb) first w (spValue code (readBits s.mem s.mySp first w))) ∧
      (two → ∀ l e r, b.stores = l ++ e :: r → e.kind = 1 → e.pa = first → (∀ f ∈ r, ¬ (f.kind = 1 ∧ f.pa = first)) →
        WGives (.wSpld h wd wa wb) s b (b2.dst wd (spValue code e.data.toNat))) ∧
      (three → WGives (.wSpst h wd wa wb) s b { b3.flag (spStored code (b.rnd s.curMt 0) v).2 with
        stores := b3.stores ++ [{ kind := 1, va := 0, key := s.mySp, pa := first, skew := 0, attr := 0, hcl := 32, width := w,
                                  data := BitVec.ofNat 64 (spStored code (b.rnd s.curMt 0) v).1, data2 := 0, rd := 0 }] })) ∧
    Word0 (.wThfetch h imm) s h (fun b => { b with
      next := some (b.addr + BitVec.ofNat 64 (4 * b.pos) + BitVec.ofInt 64 (4 * imm.toInt)) }) ∧
    Word1 (.wThfetchr h wa) s h wa (fun _ b x => { b with next := some x }) ∧
    Word0 (.wStop h) s h (fun b => { b with stop := true }) ∧
    Word0 (.wIdx h wd) s h (fun b => b.dst wd (b.cap.vbase + BitVec.ofNat 64 s.curMt)) ∧
    Word2 (.wSel h wd wa wb) s { h with n := 0, gp := 127 } wa wb (fun a b x y => b.dst wd (if a.guard h then x else y)) ∧
    Word1 (.wRng h wd wa wb) s h wa (fun a b x =>
      b.dst wd (mix64 (look 0 a.cap.cs (wb.toNat - 24)) (x + a.cap.vbase + BitVec.ofNat 64 s.curMt))) ∧
    trips (.wFsinS2 h wd wa) [wa] ∧ trips (.wFcosS2 h wd wa) [wa] ∧
    (s.emulated 0 = true → trips (.wDiv h wd wa wb) [wa, wb] ∧ trips (.wDivu h wd wa wb) [wa, wb] ∧
      trips (.wRem h wd wa wb) [wa, wb] ∧ trips (.wRemu h wd wa wb) [wa, wb]) ∧
    (s.emulated 1 = true → trips (.wFdiv h wd wa wb fm) [wa, wb] ∧ trips (.wFsqrt h wd wa fm) [wa]) ∧
    (s.emulated 2 = true → trips (.wExp2 h wd wa fm) [wa] ∧ trips (.wLog2 h wd wa fm) [wa] ∧
      trips (.wRcp h wd wa fm) [wa] ∧ trips (.wRsqrt h wd wa fm) [wa])

/-- A trip is taken for every micro-thread that holds at one word of one broadcast, with that word and its address in the
record, once the core's record is free, the context is next in request order and its convoy has come. A reported failure of a posted store, and a Prompt trap with the lowest faulted micro-thread as its value,
trap at the pc. A vsync whose crew is done gives the fault summary and traps after it under trapmode 1; past its time
it traps at its pc with what still runs. An ewait returns when every job up to its number has ended; the lowest that
stopped traps. A vector access performs what the elements that the step names do without packets, or has a packet served by
a channel, which performs what it holds of it and sends back what has moved away; it ends when no element is left: at its
failing element, or with vstart zero, with what its elements
have loaded in the registers. Where its condition does not hold each event changes nothing. (R392, R393, R387, R121,
R374, R257, R376, R270, R139, R261, R262, 19_memory_faults.md R416)  That a job's stop stays in the list after ewait has
trapped for it (log 31), and in which order elements are performed and when their loads reach the registers (log 35), are
the model's choices. -/
def Obligations.BoundaryEvents : Prop :=
  ∀ s : State,
    let c := s.arg.unit
    let x := s.ctx c
    (s.tripReady c = false → exec .emulationTrip s = .next s) ∧
    (∀ e l b, s.tripReady c = true → x.trips = e :: l → (s.mt c e.1).blk = some b →
      let same := fun (f : Nat × Word × Nat) => f.2 = e.2 ∧
        ∃ d, (s.mt c f.1).blk = some d ∧ d.k = b.k ∧ d.cap = b.cap ∧ d.trip = true
      let w := nth 0 b.words e.2.2
      ∃ (u : State) (r : List Word), exec .emulationTrip s = .next (u.trip c 1 w r) ∧
        u = { s with ctxs := u.ctxs, freeN := u.freeN, emuQ := u.emuQ } ∧ (∀ d, d ≠ c → u.ctx d = s.ctx d) ∧
        u.ctx c = { x with trips := (u.ctx c).trips, emuNos := (u.ctx c).emuNos } ∧
        (∀ f, f ∈ (u.ctx c).trips ↔ f ∈ x.trips ∧ ¬ same f) ∧
        nth 0 r 0 = BitVec.ofNat 64 (w.toNat + 2 ^ 32) ∧ nth 0 r 1 = e.2.1 + BitVec.ofNat 64 (4 * e.2.2)) ∧
    (∀ e l, s.tripReady c = true → x.trips = e :: l → (s.mt c e.1).blk = none →
      exec .emulationTrip s = .next (s.setCtx c { x with trips := l })) ∧
    (s.postReady c = false → exec .postedStoreFault s = .next s) ∧
    (∀ l e, s.postReady c = true → x.postFault = some (l, e) → exec .postedStoreFault s =
      .next ((s.setCtx c { x with postFaults := x.postFaults.erase (l, e) }).trapAt c x.pc e)) ∧
    (s.promptReady c = false → exec .promptTrap s = .next s) ∧
    (∀ i, s.promptReady c = true → x.prompt = some i → exec .promptTrap s =
      .next ((s.setCtx c { x with prompt := none, promptBusy := true }).trapAt c x.pc
        { cause := 0x17, val := BitVec.ofNat 64 i })) ∧
    (∀ since, x.run = .parked (.vsync since) →
      let sum := s.summary c
      let y := { x.wx x.loadRd sum with run := .active, pc := x.pc + 4
                                        abortSeen := if s.abortRaised c then true else x.abortSeen
                                        abortEver := if s.abortRaised c then true else x.abortEver }
      exec .vsyncReturn s = .next (if s.drained c = true ∧ x.gstate ≠ .revoked then
        (if s.trapmode c = 1 ∧ sum ≠ 0 then (s.setCtx c y).trapAt c (x.pc + 4) { cause := 0x17, val := sum } else s.setCtx c y)
        else s) ∧
      exec .vsyncTimeout s = .next (if x.btmo ≠ 0 ∧ since + x.btmo.toNat * 1024 ≤ s.now then
        s.trapAt c x.pc { cause := 0x16, val := s.stillRunning c } else s)) ∧
    (∀ upto, x.run = .parked (.ewait upto) →
      ((∃ j ∈ s.jobList c, j.1.toNat ≤ upto.toNat) → exec .ewaitReturn s = .next s) ∧
      ((∀ j ∈ s.jobList c, upto.toNat < j.1.toNat) →
        ((∀ e ∈ x.stops, upto.toNat < e.1.toNat) → exec .ewaitReturn s = .next (s.setCtx c x.resume)) ∧
        ∀ n k, (n, k) ∈ x.stops → n.toNat ≤ upto.toNat → (∀ e ∈ x.stops, n.toNat ≤ e.1.toNat) →
          exec .ewaitReturn s = .next (s.trapAt c x.pc { cause := 0x0E, val := n }))) ∧
    (∀ i ra rb left sent stop, x.run = .parked (.elems i ra rb left sent stop) →
      let o := nth 0 s.arg.list 0
      let p := s.vpacket c i ra rb o s.arg.index (nth 0 s.arg.list 1 != 0)
      let base := s.dropReplies (fun t => t % 8 == 2 && t / 8 % 2048 == c)
      (s.arg.flag = false → exec .vectorRequestPacket s = .next (s.perform c none s.arg.list)) ∧
      (s.arg.flag = true → p = none → exec .vectorRequestPacket s = .next s) ∧
      (∀ q, s.arg.flag = true → p = some q → exec .vectorRequestPacket s =
        .next (s.servePacket c o q (q.served s (s.arg.addr / 32) (s.arg.addr % 32)))) ∧
      (x.gstate = .revoked → (∀ k ∈ s.arg.list, x.cap.top ≤ k) → s.arg.flag = false →
        exec .vectorRequestPacket s = .next s) ∧
      (left ≠ [] ∨ sent ≠ [] → exec .vectorAccessDone s = .next s) ∧
      (left = [] → sent = [] →
        (∀ f e, stop = some (f, e) → exec .vectorAccessDone s = .next
          (let y := { x with run := .active, elemCap := none
                             vstart := match i with
                               | .ldrain _ _ => x.vstart
                               | _ => BitVec.ofNat 64 f }
           ((base.takeLoads c f i).setCtx c y).trapAt c x.pc e)) ∧
        (stop = none → exec .vectorAccessDone s = .next ((base.takeLoads c (x.elemCount i) i).setCtx c { (match i with
          | .ldrain rd _ => x.wx rd (x.geo 4 15)
          | _ => { x with vstart := 0 }) with run := .active, pc := x.pc + 4, elemCap := none })))) ∧
    ((∀ n, x.run ≠ .parked (.vsync n)) → exec .vsyncReturn s = .next s ∧ exec .vsyncTimeout s = .next s) ∧
    ((∀ n, x.run ≠ .parked (.ewait n)) → exec .ewaitReturn s = .next s) ∧
    ((∀ i ra rb l t o, x.run ≠ .parked (.elems i ra rb l t o)) →
      exec .vectorRequestPacket s = .next s ∧ exec .vectorAccessDone s = .next s)

/-- A fence returns once its conditions hold, with the leases of its core lapsed. A barr completes for every context
parked in the same barrier when each core inside its scope has arrived or has halted in the gang: each goes on with
its sense bit flipped and its leases lapsed. A gbar completes so when every arrival's stores and jobs are done too, no rollback
trigger of the superstep is still to be taken, and the save areas of a marked gang can be written; it
clears the exchange bit, the vote number and the abort-seen flag, counts the superstep, lowers the gang's abort lines,
and then takes the snapshot or the pre-emption due. A vote gives every core the combination in the order of cores;
where combiners differ each raises sync-operand. A barrier past the context's time whose condition does not hold
raises the time-out in every context parked in it. A wait returns on the abort line, or, when the doubleword has changed, by
its ordinary load, made again: it returns where the load gives another value, and takes what stops the load; at every
return the core's leases lapse. (R286, R288, R289, R290, R50, R291, R376, R294, R155, R52, R427)  That a gbar waits while a
save area cannot be written is the model's choice (DESIGN CHOICE, log 107). -/
def Obligations.SynchronisationEvents : Prop :=
  (∀ (s : State) (c : Nat), let x := s.ctx c
    let lapsed := { s with l1 := s.l1.map (fun e : L1Ent => if e.core = c / 4 then { e with expiry := 0, since := [] } else e) }
    s.leaveBar c = s.setCtx c { x with run := .active, pc := x.pc + 4, sense := !x.sense } ∧
    s.leaveLapsed c = lapsed.setCtx c { x with run := .active, pc := x.pc + 4, sense := !x.sense } ∧
    s.leaveGbar c = lapsed.setCtx c
      { x with run := .active, pc := x.pc + 4, sense := !x.sense, ssn := x.ssn + 1, xch := false, votes := 0,
               abortSeen := false }) ∧
  (∀ (s : State) (b : Bar) (d : Nat), d ∈ s.arrivals b ↔
    (∃ k ∈ rectCores b.scope, d = 4 * k + b.chan ∧ k ∉ (s.cluster (clusterOf k)).missingCores) ∧ s.barOf d = some b) ∧
  ∀ s : State,
    let c := s.arg.unit
    let x := s.ctx c
    let r := x.recIdx.toNat
    (∀ scope, x.run = .parked (.fence scope) → exec .fenceReturn s = .next (if s.fenceDone c scope then
      (lapse s (c / 4)).setCtx c { x with run := .active, pc := x.pc + 4 } else s)) ∧
    (∀ b, s.barOf c = some b →
      let l := s.arrivals b
      let comb := (s.voteOf c).1
      exec .barrierComplete s = .next (if b.kind = 0 ∧ s.barDone r b then l.foldl State.leaveLapsed s else s) ∧
      let free := (s.lrec r).trigger = false ∧ (∀ d ∈ l, s.allDone d) ∧ ((s.lrec r).marked = true → ∀ d ∈ l, s.saveWaits d = false)
      (¬ (b.kind = 1 ∧ s.barDone r b ∧ free) → exec .gbarComplete s = .next s) ∧
      (b.kind = 1 → s.barDone r b → free →
        let t := (l.foldl State.leaveGbar s).lowerLines r
        exec .gbarComplete s = .next
          ((t.setRec r { t.lrec r with attempts := 0, unreplayable := false, fresh := true }).preemptMarked r)) ∧
      (¬ (b.kind = 2 ∧ s.barDone r b) → exec .voteComplete s = .next s) ∧
      (b.kind = 2 → s.barDone r b → (∀ d ∈ l, (s.voteOf d).1 = comb) →
        let v := l.foldl (fun a d => voteJoin comb a (s.voteOf d).2) (voteUnit comb)
        exec .voteComplete s = .next (l.foldl (fun t d =>
          let y := (t.leaveBar d).ctx d
          (t.leaveBar d).setCtx d ({ y with votes := y.votes + 1 }.wx y.loadRd v)) s)) ∧
      (b.kind = 2 → s.barDone r b → (∃ d ∈ l, (s.voteOf d).1 ≠ comb) →
        exec .voteComplete s = .next (l.foldl (fun t d =>
          let y := (t.leaveBar d).ctx d
          ((t.leaveBar d).setCtx d { y with votes := y.votes + 1 }).trapAt d (t.ctx d).pc
            { cause := 0x0F, val := (s.voteOf d).2 }) s)) ∧
      ∀ k scope sense m v since, x.run = .parked (.barrier k scope sense m v since) →
        exec .barrierTimeout s = .next (if x.btmo ≠ 0 ∧ since + x.btmo.toNat * 1024 ≤ s.now ∧ s.barDone r b = false then
          l.foldl (fun t d => t.trapAt d (t.ctx d).pc { cause := 0x15, val := scope }) s else s)) ∧
    (s.barOf c = none → exec .barrierComplete s = .next s ∧ exec .gbarComplete s = .next s ∧
      exec .voteComplete s = .next s ∧ exec .barrierTimeout s = .next s) ∧
    (∀ key v va, x.run = .parked (.watch key v va) →
      let back := fun (t : State) => (lapse t (c / 4)).setCtx c { t.ctx c with run := .active, pc := (t.ctx c).pc + 4 }
      let a := { s with cur := c }.access va (.load 8)
      (s.abortRaised c = true →
        exec .waitReturn s = .next (back (s.setCtx c { x with abortSeen := true, abortEver := true }))) ∧
      (s.abortRaised c = false →
        (s.keyRead c key = none → exec .waitReturn s = .next (s.setCtx c { x with run := .active })) ∧
        (s.keyRead c key = some v → exec .waitReturn s = .next s) ∧
        ∀ d, s.keyRead c key = some d → d ≠ v →
          (∀ e t, a = .value e t → exec .waitReturn s = .next (if e = v then t else back t)) ∧
          (∀ e t, a = .exc e t → exec .waitReturn s = .next (t.trapAt t.cur t.me.pc e)) ∧
          (∀ t, a = .stall t → exec .waitReturn s = .next t) ∧
          (∀ w t, a = .upcall w t → exec .waitReturn s = .next (t.deliver w)))) ∧
    ((∀ v, x.run ≠ .parked (.fence v)) → exec .fenceReturn s = .next s) ∧
    ((∀ k v b, x.run ≠ .parked (.watch k v b)) → exec .waitReturn s = .next s)

/-- A micro-thread that may begin starts its chain's block, the next repetition of its entry or the next entry, with the
registers it has and what the entry captured; while a word of it goes to a Copying line it waits; a block that cannot
be fetched or holds a word not of the stream faults it. A block at its last word holds while the next micro-thread's
link-in queue has no room, runs again where a byte it read has changed, faults with cause 0x28 where the checker finds a
mismatch or with that of a narrow store's wrong check, waits where a store has to, sends first the atomic that another
member performs, and otherwise commits: its registers, predicates, flags and dirty bits become the micro-thread's, its
stores are made in word order, its link entries go to the next micro-thread, and it chains on or stops. A mismatch is recorded
for the lane, and the second on one lane has it retired. (R42, R390,
R397, R421, R39, R46, R47, R151, R246, R314, R423, 20_link_faults.md R436)  The checker's finding is an input of the step
(DEDUCED, log 36); which execution holds its sectors, and what a block does that finds one held, are the model's choice
(DESIGN CHOICE, log 107). -/
def Obligations.BlockEvents : Prop :=
  ∀ s : State,
    let c := s.arg.unit
    let i := s.arg.index
    let x := s.ctx c
    let m := s.mt c i
    let j := (i + 1) % max 1 x.vl
    (x.nextBegin m = none ∨ s.mayBegin c i = false → exec .blockBegin s = .next s) ∧
    (∀ g, x.nextBegin m = some g → s.mayBegin c i = true →
      let begun := fun (b : Blk) => { m with
        state := .running, block := g.addr, chain := g.chain, bare := g.bare, ent := g.ent, left := g.left, blk := some b }
      let found := x.seq.find? (fun f => f.id == g.ent)
      (∃ t : State, exec .blockBegin s = .next t ∧
        t = { s with ctxs := t.ctxs, mts := t.mts, recs := t.recs, lfsr := t.lfsr, scriv := t.scriv,
                     scrivNext := t.scrivNext, clusters := t.clusters, l1 := t.l1, l2 := t.l2, freeN := t.freeN,
                     bad := t.bad, scrubs := t.scrubs, heldSectors := t.heldSectors } ∧
        ∀ b, (t.mt c i).blk = some b → b.addr = g.addr ∧ b.pos = 0 ∧ b.w = m.w ∧ b.p = m.p ∧ offender b.words = none ∧
          ∀ e, g.bare = false → found = some e → b.cap = e.cap ∧ b.k = e.count - 1 - g.left) ∧
      (∀ ws, g.bare = true → g.addr.toNat % 4 = 0 → s.beginWaits c g [] = false → s.blockFetch c g.addr [] = .ok ws →
        offender ws = none → ∃ t : State, exec .blockBegin s = .next t ∧
          t.mt c i = begun (m.start x.capture g.addr ws 0 false)) ∧
      ∀ e ws, g.bare = false → found = some e → g.addr.toNat % 4 = 0 →
        let held := if g.chain = true ∨ g.addr ≠ e.addr then [] else e.held
        (s.beginWaits c g held = true → exec .blockBegin s = .next s) ∧
        (s.beginWaits c g held = false → s.blockFetch c g.addr held = .ok ws → offender ws = none →
          ∃ (t : State) (checked : Bool), exec .blockBegin s = .next t ∧
            t.mt c i = begun (m.start e.cap g.addr ws (e.count - 1 - g.left) checked))) ∧
    (m.blk = none → exec .blockCommit s = .next s) ∧
    (∀ b, m.blk = some b →
      let queue := if j = i then m.linkq.drop b.pops else (s.mt c j).linkq
      let ended := b.words.length ≤ b.pos ∧ b.trip = false ∧ b.wait = none
      let room := b.pushes = [] ∨ queue.length + b.pushes.length ≤ 4
      let fresh := b.runs < 2 → b.decided = false → s.staleLoad b = false
      let good := ¬ (b.checked = true ∧ s.arg.flag = true ∧ b.decided = false)
      let merges := b.decided = true ∨ s.narrowBad c i b = none
      let made := s.commitStores c i b.localStores b.w b.dirty
      (¬ ended → exec .blockCommit s = .next s) ∧
      (ended → ¬ room → exec .blockCommit s =
        .next (s.setMt c i { m with blk := some { b with heldSince := some (b.heldSince.getD s.now) } })) ∧
      (ended → room → ¬ fresh → exec .blockCommit s = .next (s.reRun c i m b)) ∧
      (ended → room → fresh → ¬ good → exec .blockCommit s =
        .next ((s.silentError c i).mtFault c i m { cause := 0x28, val := BitVec.ofNat 64 i })) ∧
      (let cl := clusterOfCtx c
       let lane := s.laneOf c i
       let k := s.cluster cl
       s.silentError c i = (s.laneRecord 0x10 (s.partOf (c / 4)) cl lane (c / 4) i).setCluster cl
         (if lane ∈ k.silent then { k with retiring := setIns k.retiring lane }
          else { k with silent := setIns k.silent lane })) ∧
      (∀ e t, ended → room → fresh → good → b.decided = false → s.narrowBad c i b = some (e, t) →
        exec .blockCommit s = .next (t.mtFault c i m e)) ∧
      (ended → room → fresh → good → merges →
        (made = .wait → exec .blockCommit s = .next (s.waitCommit c i m b)) ∧
        (∀ e t, made = .fault e t → exec .blockCommit s =
          .next ({ s with scriv := t.scriv, scrivNext := t.scrivNext }.mtFault c i m e)) ∧
        ∀ w d t, made = .ok w d t →
          (∀ e, b.remoteAtomic = some e → exec .blockCommit s = .next (s.sendAtomic c i m b e) ∧
            (s.sendAtomic c i m b e).mt c i =
              { m with blk := some { b with decided := true, wait := some (e.rd, 8, false, e.pa) } }) ∧
          (b.remoteAtomic = none →
            let n := { m with w := w, p := b.p, flags := m.flags ||| b.flags, dirty := m.dirty ||| d, blk := none
                              linkq := m.linkq.drop b.pops }
            let u := (t.afterCommit c n b).1.setMt c i (t.afterCommit c n b).2
            let u := u.putMt c j { u.mt c j with linkq := (u.mt c j).linkq ++ b.pushes }
            exec .blockCommit s = .next (((u.letGo c i).rotate c i).sweepSeq c))) ∧
      (b.stores = [] → made = .ok b.w b.dirty s ∧ s.narrowBad c i b = none ∧ b.remoteAtomic = none))

/-- A setvl whose request can never be placed gives 0 and an IDLE grant; one whose lanes have joined settles vl and gives
it. A context between blocks leaves its lane, and one that returns needs one of the lane's four places; a lane whose
contexts all hold rotates the one held longest out for the one that waited longest. A cleared lane is zero and is
taken out, joins the crew that waits for it or goes to the pool. A frame is decided once in a tick that is a multiple
of 2,048. Blocks that wait and are late by 4,096 ticks are abandoned without effect; a revoked crew whose work has ended
is saved. A power step hops a die's clock down by 100 MHz, from above 3,300 MHz at once, not below its floor, then lowers alc, then holds
back Loom tokens, and steps are undone in reverse order. A clock that firmware sets is a multiple of 100 MHz from 1,200 to
3,600, not below an fmin on the die, and above 3,300 only with every gang there boost-eligible and power to spare in the
die's share. A clock hop ends at its target, where that is still allowed; a droop abandons it and writes record 0x50; it is
in progress again no sooner than 3,300,000 ticks after. (R70, R80, R78, R81, R86, R73, R82, R83, R77, R330, R329, R438)  The
sizes and the order of the power steps are the model's choice (DESIGN CHOICE, log 47), and so is a die's share where firmware has apportioned none, 450 W (DESIGN CHOICE, log 109). -/
def Obligations.GrantAndPowerEvents : Prop :=
  ∀ s : State,
    let c := s.arg.unit
    let i := s.arg.index
    let x := s.ctx c
    let m := s.mt c i
    let k := s.cluster c
    let p := look (0, 0, 0) s.pressure c
    let late := fun (n : Nat) => match x.revoked with
      | some t => decide (t + 4096 ≤ s.now)
      | none => decide ((s.mt c n).res = .spilling) && (s.cluster (clusterOfCtx c)).work.any (fun w =>
          w.lane == s.laneOf c n && !w.clearing && decide (w.since + 4096 ≤ s.now))
    (x.run ≠ .parked .setvl → exec .setvlGrantReturn s = .next s) ∧
    (x.run = .parked .setvl →
      (x.nofit = true → exec .setvlGrantReturn s =
        .next ((s.dropGrant c).setCtx c (((s.dropGrant c).ctx c).wx x.loadRd 0).resume)) ∧
      (x.nofit = false → (x.gstate = .granted ∨ x.gstate = .spilled) → x.joining = [] →
        (∃ n ∈ s.settleReads c, s.spillBad c n = true) → exec .setvlGrantReturn s =
        .next ((s.mismatch 9 (s.partOf (c / 4)) (c / 4) 0).failContext c)) ∧
      (x.nofit = false → (x.gstate = .granted ∨ x.gstate = .spilled) → x.joining = [] →
        (∀ n ∈ s.settleReads c, s.spillBad c n = false) → exec .setvlGrantReturn s =
        .next ((s.settle c).setCtx c (({ (s.settle c).ctx c with gstate := ((s.settle c).ctx c).fitState } : Ctx).wx
          x.loadRd (BitVec.ofNat 64 ((s.settle c).ctx c).vl)).resume)) ∧
      (x.nofit = false → ¬ ((x.gstate = .granted ∨ x.gstate = .spilled) ∧ x.joining = []) →
        exec .setvlGrantReturn s = .next s)) ∧
    (let here := x.locals.filter (fun n => (s.mt c n).slot == i && decide ((s.mt c n).res = .resident))
     let keeps := x.holds = true ∧ i < x.spread ∧ ∀ e ∈ x.moves, e.1 ≠ i
     ((∀ n ∈ here, s.isHeld c n = true) → keeps →
      ∀ a b, s.spilledWaiting c i = some b → s.heldLongest c here = some a →
        exec .laneRotation s = .next (
          let t := (s.abandon c a).setMt c a { (s.abandon c a).mt c a with res := .spilling }
          t.setMt c b { t.mt c b with res := .restoring })) ∧
     ((∃ n ∈ here, s.isHeld c n = false) ∨ ¬ keeps ∨ s.spilledWaiting c i = none ∨ here = [] →
        exec .laneRotation s = .next s)) ∧
    exec .spillComplete s = .next (if m.res = .spilling ∧ m.blk = none ∧ x.holds = true then
      (let others := x.locals.filter (fun n => n != i && x.slotFor n == x.slotFor i && (s.mt c n).slot == x.slotFor i &&
         (decide ((s.mt c n).res = .resident) || decide ((s.mt c n).res = .restoring)))
       let r := x.residentFor i = true ∧ (∀ e ∈ x.moves, e.1 ≠ x.slotFor i) ∧
         (m.slot ≠ x.slotFor i ∨ others.length < 4)
       (s.setMt c i { m with
          slot := x.slotFor i
          res := if r then .restoring else .spilled
          since := s.now }).poolStep (clusterOfCtx c)) else s) ∧
    exec .restoreComplete s = .next (if m.res = .restoring ∧ (x.locals.filter (fun n => (s.mt c n).slot == m.slot &&
        (decide ((s.mt c n).res = .resident) || decide ((s.mt c n).res = .spilling)))).length < 4 ∧ x.holds = true then
      (if s.spillBad c i then (s.mismatch 9 (s.partOf (c / 4)) (c / 4) 0).failContext c
       else (s.setMt c i { m with res := .resident, since := s.now }).poolStep (clusterOfCtx c)) else s) ∧
    ((∀ w ∈ k.work, w.lane = i → w.clearing = false) → exec .laneClearingDone s = .next s) ∧
    (∀ w, k.work.find? (fun w => w.lane == i && w.clearing) = some w →
      let t := (clearRange s (scratchKey c i) 0xF000).setCluster c { k with work := k.work.filter (fun v => v.lane != i) }
      exec .laneClearingDone s = .next ((if w.retire then (t.takeOut c i).dropSquare c i else match w.dest with
        | some d => t.joinLane d i
        | none => t).poolStep c)) ∧
    exec .frameBoundary s = .next (if s.now % 2048 = 0 ∧ c < 32 ∧ k.frame ≠ some s.now then
      (s.setCluster c { k with frame := some s.now }).frame c else s) ∧
    exec .revocationDeadline s = .next
      ((x.locals.filter (fun n => late n && (match (s.mt c n).blk with
        | some b => s.blkWaits c n b
        | none => false))).foldl (fun t n => t.abandon c n) s) ∧
    (∀ n b, s.blkWaits c n b = true ↔ b.decided = false ∧
      (b.trip = true ∨ b.wait ≠ none ∨ b.stalled = true ∨ s.blkHolds c n b = true)) ∧
    exec .contextSave s = .next (if x.revoked ≠ none ∧ s.discarding c = false ∧ x.elemsSettled = true ∧ x.inVldb = false ∧
      x.loomStopped = true ∧ (∀ n ∈ x.locals, (s.mt c n).blk = none) ∧ s.saveWaits c = false then s.contextSave c else s) ∧
    exec .sysRevocation s = .next (s.revoke c) ∧
    exec .laneRetirement s = .next (if c < 32 ∧ i < 512 ∧ i ∉ k.missing then
      (s.setCluster c { k with retiring := setIns k.retiring i }).poolStep c else s) ∧
    (let busy := ∃ h ∈ s.hops, h.1 = c ∧ h.2.2 = none
     let hops := ∃ h ∈ s.hops, h.1 = c
     (busy → exec .powerPressure s = .next s) ∧
     (¬ hops → s.clockFloor c + 100 ≤ s.clock c → exec .powerPressure s =
       .next { s.startHop c (max ((s.clockFloor c + 99) / 100 * 100) (min 3300 (s.clock c - 100))) with
         pressure := put s.pressure c (p.1 + 1, p.2) }) ∧
     (¬ busy → (hops ∨ s.clock c < s.clockFloor c + 100) → exec .powerPressure s =
       .next (if s.alcCrews c true ≠ [] then
           State.stepAlc { s with pressure := put s.pressure c (p.1, p.2.1 + 1, p.2.2) } c true
         else { s with pressure := put s.pressure c (p.1, p.2.1, p.2.2 + s.arg.value.toNat) })) ∧
     (0 < p.2.2 → exec .powerPressureEnd s = .next { s with pressure := put s.pressure c (p.1, p.2.1, 0) }) ∧
     (p.2.2 = 0 → 0 < p.2.1 →
       let t := { s with pressure := put s.pressure c (p.1, p.2.1 - 1, 0) }
       exec .powerPressureEnd s = .next (if p.2.1 = 1 then t.endAlc c else t.stepAlc c false)) ∧
     (p.2.2 = 0 → p.2.1 = 0 →
       let t := if s.clockOk c (s.clock c + 100) s.arg.addr then s.startHop c (s.clock c + 100) else s
       exec .powerPressureEnd s = .next
         (if 0 < p.1 ∧ ¬ hops then { t with pressure := put s.pressure c (p.1 - 1, 0, 0) } else s))) ∧
    (∀ mhz, s.startHop c mhz = { s with hops := s.hops.filter (fun g => g.1 != c) ++ [(c, mhz, none)] }) ∧
    (∀ low n, s.alcCrews c low = [n] →
      let y := s.ctx n
      let a := if low then max y.floorLanes (y.alc - 2) else min y.target (y.alc + 2)
      s.stepAlc c low = ((s.setCtx n { y with alc := a }).respread n).settleMoves n) ∧
    (∀ n, s.alcCrews c false = [n] →
      s.endAlc c = ((s.setCtx n { s.ctx n with alc := (s.ctx n).target }).respread n).settleMoves n) ∧
    (∀ mhz w, s.clockOk c mhz w = true ↔ mhz % 100 = 0 ∧ 1200 ≤ mhz ∧ mhz ≤ 3600 ∧
      (∀ r ∈ s.gangsOn c, (s.lrec r).fmin ≤ mhz) ∧
      (mhz ≤ 3300 ∨ (∀ r ∈ s.gangsOn c, (s.lrec r).fld 13 1 = 1) ∧ w < look 450 s.power c)) ∧
    (∀ mhz, (s.setClock c mhz).clock c = mhz ∧ (s.setClock c mhz).cycles c = s.cycles c) ∧
    (∀ mhz w, s.tryClock c mhz w = if s.clockOk c mhz w = true ∨
      mhz % 100 = 0 ∧ s.clockFloor c ≤ mhz ∧ mhz < s.clock c then s.setClock c mhz else s) ∧
    (let mhz := s.arg.value.toNat
     let watts := s.arg.addr
     (∀ n, s.hops.find? (fun h => h.1 == c) = some (c, n, none) →
      exec .clockHop s = .next (State.tryClock { s with hops := s.hops.filter (fun g => g.1 != c) } c n watts) ∧
      exec .clockHopRetry s = .next s) ∧
     (∀ n t, s.hops.find? (fun h => h.1 == c) = some (c, n, some t) → exec .clockHop s = .next s ∧
      exec .clockHopRetry s = .next (if t + 3300000 ≤ s.now then s.startHop c n else s)) ∧
     ((∀ h ∈ s.hops, h.1 ≠ c) → exec .clockHopRetry s = .next s ∧ exec .droopDuringHop s = .next s ∧
      exec .clockHop s = .next (if c < 8 ∧ s.clockOk c mhz watts = true then
        (if s.arg.flag then s.startHop c mhz else s.setClock c mhz) else s))) ∧
    ((∀ h ∈ s.hops, h.1 = c → h.2.2 ≠ none) → exec .droopDuringHop s = .next s) ∧
    ∀ n, s.hops.find? (fun h => h.1 == c && h.2.2.isNone) = some (c, n, none) →
      let down := s.alcCrews c true ≠ []
      let t := { s with hops := s.hops.map (fun g => if g.1 = c then (c, n, some s.now) else g)
                        pressure := if down then put s.pressure c (p.1, p.2.1 + 1, p.2.2) else s.pressure }
      exec .droopDuringHop s = .next (scrivener (if down then t.stepAlc c true else t) 0x50 0xFF 0 0 [c, n])

/-- The hub refuses an lpatch or larm with cause 1 for another partition's record, 2 for one that is not IDLE and 3 for a
value or a record that is not acceptable, larm with 4 for its power; else the field is written, or the record is armed
and a pass runs, or one that never fits completes at once, and the context goes on. A halted context ends once its
crew, stores and jobs are done, and its core's status word is recorded; its banks power down unless it is retained. A
rank's message goes to its parent when its children's have come, joined with its own word; the root's completes the
gang. Every 65,536 cycles ARMED records age. A pre-emption stops contexts at their stop points and, when all are
saved, writes the images and returns the record to ARMED, or is refused where an image has come not to fit; a gang to be
discarded for ERROR is withdrawn once its contexts have stopped. A rollback with every context at a stop point restores the
snapshots; a gang that has been moved has its clocks fitted to its rules. (R297, R298, R299, R402, R301, R61, R58, R64, R380,
R381, R427, R87, R374, R329)  That a rectangle beyond the mesh is refused before it can be found never to fit (DESIGN CHOICE, log 111), that the
aging interval has one phase for all records (DESIGN CHOICE, log 112), that a pre-emption and a rollback wait for posted stores
(DEDUCED, log 52), how a PREEMPT is carried out and answered (DEDUCED, log 66), the value of cause 0x17 at a `halt` (DEDUCED, log
70), what a Drover move does in one step (DEDUCED, log 54), and that a gang with a halted core is not moved (DESIGN CHOICE, log
119) are the model's choices. -/
def Obligations.GangEvents : Prop :=
  ∀ s : State,
    let c := s.arg.unit
    let x := s.ctx c
    let g := s.lrec c
    let on := { x with run := .active, pc := x.pc + 4 }
    let refuse := fun (n : Nat) => s.trapAt c x.pc { cause := 0x11, val := BitVec.ofNat 64 n }
    (∀ r f v, x.run = .parked (.lpatch r f v) →
      exec .hubLpatchRequest s = .next (if (s.lrec r).part ≠ s.partOf (c / 4) then refuse 1
        else if (s.lrec r).state ≠ 1 then refuse 2 else if patchOk f v = false then refuse 3
        else (s.setRec r ((s.lrec r).patch f v)).setCtx c on)) ∧
    (∀ r, x.run = .parked (.larm r) →
      let g := s.lrec r
      let t := s.setCtx c on
      exec .hubLarmRequest s = .next (if g.part ≠ s.partOf (c / 4) then refuse 1 else if g.state ≠ 1 then refuse 2
        else if rectOk g.rect = false ∨ g.fld 12 1 = 1 ∧ (s.snapReg g.part).len = 0 then refuse 3
        else if s.powerRefuses r then refuse 4
        else if t.neverFits r then t.completion r (gangWord 0 false false true false false 0 0) else t.arm r)) ∧
    ((∀ r f v, x.run ≠ .parked (.lpatch r f v)) → exec .hubLpatchRequest s = .next s) ∧
    ((∀ r, x.run ≠ .parked (.larm r)) → exec .hubLarmRequest s = .next s) ∧
    (∀ app, x.run = .parked (.halt app) →
      let r := x.recIdx.toNat
      let g := s.lrec r
      let own := s.ownWord c app (decide (x.level ≠ .app))
      let t := (s.setRec r { g with own := put g.own (rankIn g.placed (c / 4)) own }).endContext c
      exec .haltDrainEnd s = .next (if s.drained c = false then s
        else if s.syncTrap c then s.trapAt c x.pc { cause := 0x17, val := s.summary c }
        else if s.allDone c = false ∨ x.revoked ≠ none then s
        else ((if g.fld 11 1 = 1 then t.setCtx c { t.ctx c with run := .retained (g.fld 32 8) }
          else (t.powerDown c).setCtx c { t.ctx c with lbanks := 0 }).drainBuf).poolStep (clusterOfCtx c))) ∧
    ((∀ app, x.run ≠ .parked (.halt app)) → exec .haltDrainEnd s = .next s) ∧
    (let k := s.arg.index
     let has := fun (t : Table Word) (n : Nat) => t.any (fun e => e.1 == n)
     let kids := childRanks g.placed k
     let v := kids.foldl (fun v n => joinWords v (look 0 g.msgs n)) (look 0 g.own k)
     s.lateWords = [] → exec .doneMessage s = .next (if g.state = 3 ∧ g.trigger = false ∧ has g.own k ∧ has g.msgs k = false ∧ (∀ n ∈ kids, has g.msgs n) then
       (if k = 0 then s.finishGang c v else s.setRec c { g with msgs := put g.msgs k v }) else s)) ∧
    (¬ s.aged < s.now / 65536 → exec .agingTick s = .next s) ∧
    (s.aged < s.now / 65536 → ∃ t : State, exec .agingTick s = .next t.pass ∧ t = { s with aged := s.aged + 1, recs := t.recs } ∧
      ∀ r, let h := s.lrec r
        t.lrec r = if h.state = 2 then (if h.fld 40 2 < 3 then h.setFld 40 2 (h.fld 40 2 + 1)
          else { h with waited := h.waited + 1 }) else h) ∧
    exec .retentionRelease s = .next (match x.run with
      | .retained _ => (s.powerDown c).setCtx c { x with run := .free, lbanks := 0 }
      | _ => s) ∧
    (g.stopping = none → exec .preemptionStop s = .next s) ∧
    (∀ hold, g.stopping = some (hold, 18) →
      let l := (s.liveRanks c).map (·.2)
      let t := l.foldl (fun t d => if (t.ctx d).emu = none ∧ (t.ctx d).stopPoint = true ∧ (t.ctx d).revoked = none then
        (t.atStop d).revoke d else t) s
      exec .preemptionStop s = .next (if ∀ d ∈ l, t.discardDone d = true then t.withdraw c else t)) ∧
    (∀ hold m, g.stopping = some (hold, m) → m ≠ 18 →
      let l := (s.liveRanks c).map (·.2)
      let t := l.foldl (fun t d => if (t.ctx d).canStop then (t.atStop d).revoke d else t) s
      let u := ((l.foldl State.saveCrew t).applyAllWaiting l).saveGang c hold
      let v := t.setRec c { t.lrec c with stopping := none, marked := false }
      exec .preemptionStop s = .next (if ¬ ∀ d ∈ l, t.stopDone d then t
        else if t.imagesFit c = false then (if m < 17 then v.answer m 2 else v).poolsOf l
        else ((if m < 17 then u.answer m 1 else u).poolsOf l).pass)) ∧
    (let live := (s.liveRanks c).map (·.2)
     let ready := g.trigger = true ∧ g.state = 3 ∧ ∀ d ∈ live, (s.ctx d).canStop ∧ ∀ p ∈ s.posted, p.from_ ≠ d
     (¬ ready → exec .rollback s = .next s) ∧
     (ready →
       let n := s.gangSsn c
       let ranks := s.rollRanks c n
       let t := (live.foldl State.stopForRollback (s.applyAllWaiting live)).setRec c { g with
         trigger := false, attempts := g.attempts + 1, msgs := [], fresh := false
         own := g.own.filter (fun e => !ranks.any (fun p => p.1 == e.1)) }
       let t := ranks.foldl (fun t p => match t.restoreSnapshot c p.1 p.2 with
         | some u => u
         | none => ((t.setRec c { t.lrec c with rbFailed := true }).failContext p.2).noteBad g.part (p.2 / 4)
             ((t.snapReg g.part).at c p.1) (t.snapReg g.part).stride) t
       exec .rollback s =
         .next ((scrivener (t.lowerLines c) 0x15 g.part 0 0 [n, g.attempts + 1]).poolsOf live))) ∧
    (let rect := s.arg.value
     let n := g.fld 8 2
     let from_ := rectCores g.placed
     let dest := rectCores rect
     let atGbar := g.state = 3 ∧ g.fresh = true ∧ g.own = [] ∧ s.droverOk c rect = true ∧
       ∀ p ∈ s.liveRanks c, (s.ctx p.2).level = .app ∧ s.allDone p.2 ∧ s.drained p.2 ∧ (s.ctx p.2).revoked = none ∧
         (s.ctx p.2).run = .active
     let saved := g.state = 2 ∧ g.saved = true ∧ g.held = false ∧ g.fld 10 1 = 1 ∧ g.fld 11 1 = 0 ∧
       sameExtent rect g.rect ∧ rectOk rect ∧ (∀ k ∈ dest, s.coreFree c k) ∧ s.slotsLand c rect ∧ s.powerFits c ∧
       ∀ a ∈ dest, ∀ b ∈ from_, s.sameTable (g.fld 24 4) (clusterOf a) (clusterOf b)
     (atGbar →
       let t := (List.range from_.length).foldl (fun t k =>
         t.moveContext (4 * nth 0 from_ k + n) (4 * nth 0 dest k + n) rect) (s.applyAllWaiting (from_.map (4 * · + n)))
       let t := t.setRec c { t.lrec c with placed := rect }
       let t := (dest.map dieOf).eraseDups.foldl (fun t d => t.fitClock d) t
       exec .droverMove s = .next ((scrivener t 0x61 g.part 0 0 [c]).poolsOf (from_.map (4 * ·)))) ∧
     (saved → exec .droverMove s = .next (scrivener (s.placeAt c rect) 0x61 g.part 0 0 [c])) ∧
     (¬ atGbar → ¬ saved → exec .droverMove s = .next s))

/-- A job starts once no earlier job of its crew shares an edge with it, a copy once one of the four copy engines of its
cluster is free; a started one moves the pieces asked for, and a completion moves what is left and ends a job whose data
have all moved, with its packets reported and its writes to register windows applied. The report of a packet, which has come
in a packet accepted at a port, lessens the packets of its job, and a packet that the target refused stops it. A completion
word that fails leaves a record 0x62 and the job stopped with 0x06, one that has to wait leaves the job. A refresh changes nothing. lzero clears its
banks and ends. A Loom takes as many free tokens as it has tiles, at least sixteen and in turn, or waits in the queue
of its cluster. A chunk gives its tokens back; a wrong check in an operand stops the job with cause 0x20, a mark with 0x21, a
checksum event of a tile that can be verified with cause 0x29 and the restart offset kept, unless the gang rolls back;
otherwise its sums are added, and the job ends after its last chunk. (R16, R160, R163, R269, R275, R443, R411, R280, R110,
R331, R424, R425)  That a job whose completion word failed counts as stopped with 0x06 is read from R269 (DEDUCED, log 62), that
a bank's type changes with the first add is the model's choice (DEDUCED, log 64), and so are the order of the checksum's
sums and the silent error of the cells, which the step's flag brings (DESIGN CHOICE, log 65). -/
def Obligations.EngineEvents : Prop :=
  ∀ s : State,
    let c := s.arg.unit
    let x := s.ctx c
    let cl := clusterOfCtx c
    let r := x.recIdx.toNat
    let named := x.jobs.find? (fun j => j.num == s.arg.value)
    exec .refreshBreak s = .next s ∧
    (∀ j, named = some j →
      exec .jobStart s = .next (if j.started then s.runJob c j s.arg.index false
        else if s.edgesFree c j.num j.reads j.writes = true ∧ (j.glean = true ∨ s.copying cl < 4) then
          s.setJob c { j with started := true, pages := some (j.pages.getD (s.spaceTable c)) } else s) ∧
      exec .copyJobComplete s = .next (if j.started = true ∧ j.glean = false then s.runJob c j j.fuel true else s) ∧
      exec .gleanerJobComplete s = .next (if j.started = true ∧ j.glean = true then s.runJob c j j.fuel true else s) ∧
      (let reply := s.takeReply (jobTag c j.num) (fun q => decide (4 ≤ bits (q.word 2) 0 8))
       let k := { j with packets := j.packets - 1 }
       (reply = none → exec .packetReport s = .next s) ∧
       ∀ q t, reply = some (q, t) → exec .packetReport s = .next
         (if q.cause ≠ 0 then (t.setJob c k).stopJob c k (backCause q.cause) else (t.setJob c k).runJob c k 0 true))) ∧
    (named = none → exec .copyJobComplete s = .next s ∧ exec .gleanerJobComplete s = .next s ∧
      exec .packetReport s = .next s) ∧
    (∀ j n b, s.cutOff c j = true → s.runJob c j n b = s.stopJob c j 0x18) ∧
    (∀ j n b k, s.cutOff c j = false → j.fail = some k → s.runJob c j n b = s.stopJob c j k) ∧
    (∀ j n b, s.cutOff c j = false → j.fail = none →
      (∀ k t, s.advance c j n = .error (some k, t) →
        s.runJob c j n b = t.stopJob c (((t.ctx c).jobs.find? (fun i => i.num == j.num)).getD j) k) ∧
      (∀ t, s.advance c j n = .error (none, t) → s.runJob c j n b = t) ∧
      ∀ k t, s.advance c j n = .ok (k, t) → s.runJob c j n b =
        (if b = true ∧ k.moved = true ∧ k.packets = 0 ∧ (∀ p ∈ t.wbuf, p.ofJob c k.num = false) ∧
          t.endReady c k = true then t.endJob c k 0 else t)) ∧
    (∀ j k, j.done = 0 → s.endJob c j k = s.jobOut c j k) ∧
    (∀ j k, j.done ≠ 0 →
      let t := s.jobTr c j j.done .w
      let wrote := s.putWord (c / 4) c (s.partOf (c / 4)) t j.done (jobWord j.num k j.flags) j.level
      (∀ v u, wrote = .value v u → s.endJob c j k = u.jobOut c j k) ∧
      (∀ e u, wrote = .exc e u → s.endJob c j k =
        (scrivener u 0x62 (s.partOf (c / 4)) 0 ((t.map (·.pa)).getD 0) [j.num.toNat]).jobOut c j 0x06) ∧
      (∀ u, wrote = .stall u → k = 0 → s.endJob c j k = u)) ∧
    (x.loomq = [] → exec .loomTokenWaitEnd s = .next s ∧ exec .loomChunk s = .next s ∧
      (named = none → exec .jobStart s = .next s)) ∧
    ∀ j l, x.loomq = j :: l →
      (named = none → exec .jobStart s = .next
        (if j.num = s.arg.value ∧ j.started = false ∧ s.loomLive c j = true ∧ s.loomReady c j = true then
          (if s.slotsAwake c j = false then s.wakeSlots c j
           else if j.kind = 4 then (s.zeroBanks c j.ra).endLoom c j 0 else s.setLoom c { j with started := true }) else s)) ∧
      (let k := s.cluster cl
       let free := s.freeTokens r cl
       let first := (k.tokenQ.filter (fun d => (s.ctx d).recIdx == x.recIdx)).head?
       let n := min (j.side * j.side) free
       exec .loomTokenWaitEnd s = .next (if j.started = true ∧ j.tokens = 0 ∧ s.loomLive c j = true then
         (if 16 ≤ free ∧ (first = none ∨ first = some c) then
           ((s.setCluster cl { k with tokenQ := k.tokenQ.filter (· != c) }).useTokens r cl n 0).setLoom c { j with tokens := n }
         else s.setCluster cl { k with tokenQ := if c ∈ k.tokenQ then k.tokenQ else k.tokenQ ++ [c] })
         else s)) ∧
      (j.tokens = 0 → exec .loomChunk s = .next s) ∧
      (j.tokens ≠ 0 →
        let side := j.side
        let u := s.useTokens r cl 0 j.tokens
        let idle : LoomJob := { j with tokens := 0 }
        let stop := fun (v : State) (k : BitVec 8) => if v.rollsBack c k then (v.setLoom c idle).noteTrigger c k
          else (v.noteTrigger c k).endLoom c idle k
        let sums := u.chunkSums c j (16 * side)
        let p := u.addChunk c idle side sums
        let bad := (u.checkTiles c j side sums).1
        let event := (u.checkTiles c j side sums).2 = true ∨ s.arg.flag = true ∧ bad < side * side
        (∀ k, u.loomBadKey cl j (16 * side) = some k →
          let e : BitVec 8 := if k / 8 * 8 ∈ u.marks then 0x21 else 0x20
          exec .loomChunk s = .next (stop (if e = 0x20 then u.mismatch 3 (u.partOf (c / 4)) (c / 4) k else u) e)) ∧
        (u.loomBadKey cl j (16 * side) = none → event →
          let v := u.setCtx c { u.ctx c with loomRestart := some (j.num, j.chunk) }
          exec .loomChunk s = .next (stop (scrivener v 0x11 (v.partOf (c / 4))
            (c / 4 / 32 + c / 4 % 32 * 0x100 + cl * 0x10000) 0 [j.num.toNat]) 0x29)) ∧
        (u.loomBadKey cl j (16 * side) = none → ¬ event →
          let d : LoomJob := { p.2.1 with chunk := p.2.1.chunk + 1 }
          let v : State := p.1.setCluster cl { p.1.cluster cl with unverif := (p.1.cluster cl).unverif + BitVec.ofNat 64 bad }
          let y : Ctx := v.ctx c
          let v : State := v.setCtx c { y with
            lg := put y.lg 15 (y.geo 4 15 ||| p.2.2.setWidth 64)
            acc0Int := if d.bank = 0 then d.fmt == 10 else y.acc0Int
            acc1Int := if d.bank = 1 then d.fmt == 10 else y.acc1Int }
          exec .loomChunk s = .next (if d.chunks ≤ d.chunk then v.endLoom c d 0 else v.setLoom c d)))

/-- A posted store to a window waits behind earlier ones of its context to the same target and for a unit that wakes; then
it is applied where the item may be written, enters the window-write buffer of 32 while the owning context is running
or has accesses waiting, waits where that is full, or is dropped and reported as a window fault. A window load gives
its doubleword, or faults, once the stores before it have arrived; at a register window that is closed or has others
waiting it takes its place in the buffer. The oldest reply that has come in for a request ends the access that waits for it,
once its check is verified, or its cause is raised: a context's load, a load or an atomic of a block, an element, a posted
store, and the read of firmware. A lease lapses once its 4,096 cycles are over. A unit whose wake-up has begun is awake. A
write of tlbinv at App does nothing. (R121, R156, R157, R158, R49, R310, R339, R432, R155, R145, R133, R246)  That an atomic to
another member with rd x0 is posted, and any other parks its context, is read from the rules (DEDUCED, log 39), and so is the
cause and the value saved of an access that another member fails (DEDUCED, log 80). -/
def Obligations.AccessEvents : Prop :=
  ∀ s : State,
    let c := s.arg.unit
    let x := s.ctx c
    let n := s.arg.index
    let part := s.partOf (c / 4)
    exec .tlbinvWrite s = .next (if x.level = .app then s else s.tlbInvalidate (c / 4) s.arg.value) ∧
    (s.posted[n]? = none → exec .windowStoreArrival s = .next s.drainBuf) ∧
    (∀ p, s.posted[n]? = some p →
      let w := p.win
      let t := { s with posted := s.posted.take n ++ s.posted.drop (n + 1) }
      let room := s.bufUse w.bufCore < 32
      let st := s.winState p.level w
      ((∀ cl off, placeOf p.pa ≠ .window cl off) ∨ s.keptBack n p = true → exec .windowStoreArrival s = .next s) ∧
      ∀ cl off, placeOf p.pa = .window cl off → s.keptBack n p = false →
        (s.winAsleep w = true → exec .windowStoreArrival s = .next (s.winWake w)) ∧
        (s.winAsleep w = false →
          (st = .fault → exec .windowStoreArrival s = .next (t.reportPost p { cause := 0x07, val := p.va })) ∧
          (st = .go → s.ownerWaits w = false → exec .windowStoreArrival s = .next (t.applyWaiting p).drainBuf) ∧
          (st ≠ .fault → st = .buffer ∨ s.ownerWaits w = true → exec .windowStoreArrival s =
            .next (if room then { t with wbuf := t.wbuf ++ [p] } else s)) ∧
          (st = .poll → s.ownerWaits w = false → exec .windowStoreArrival s =
            .next (if w.owner ≠ none ∧ room then { t with wbuf := t.wbuf ++ [p] } else s)))) ∧
    (∀ p : Posted, p.reads = false →
      (s.winBad p.win true = none → s.applyWaiting p = s.winWrite p.level p.win p.data) ∧
      ∀ k pa, s.winBad p.win true = some (k, pa) → s.applyWaiting p =
        (if k = 0x20 then s.mismatch 1 (s.partOf (p.from_ / 4)) (p.from_ / 4) pa else s).reportPost p
          { cause := k, val := causeVal k p.va }) ∧
    (∀ p : Posted, p.reads = true → s.winBad p.win false = none →
      s.applyWaiting p = s.readBack p (s.winRead p.win) none) ∧
    ((∀ pa va, x.run ≠ .parked (.window pa va)) → exec .windowLoadArrival s = .next s) ∧
    (∀ pa va, x.run = .parked (.window pa va) →
      let u := { s with cur := c }
      let taken := u.setMe { x with winBack := none }
      (∀ v e, x.winBack = some (v, some e) → exec .windowLoadArrival s = .next (taken.trapAt c x.pc e)) ∧
      (∀ v, x.winBack = some (v, none) → exec .windowLoadArrival s = taken.arrived v) ∧
      (x.winBack = none → (∀ cl off, placeOf pa ≠ .window cl off) → exec .windowLoadArrival s = .next u) ∧
      ∀ cl off, x.winBack = none → placeOf pa = .window cl off →
        let w := winOf cl off
        let st := s.winState x.level w
        let behind := ∃ p ∈ s.posted, p.from_ = c ∧ w.target ≠ none ∧ p.win.target = w.target
        let queues := w.owner ≠ none ∧ (st ≠ .go ∨ s.ownerWaits w = true)
        (st = .fault → exec .windowLoadArrival s = .next (u.trapAt c x.pc { cause := 0x07, val := va })) ∧
        (st ≠ .fault → behind → exec .windowLoadArrival s = .next u) ∧
        (st ≠ .fault → ¬ behind → queues → exec .windowLoadArrival s =
          .next (if s.readWaits c = true ∨ 32 ≤ s.bufUse w.bufCore then u
            else { u with wbuf := s.wbuf ++
              [{ from_ := c, level := x.level, va := va, pa := pa, data := 0, width := 8, op := 16 }] })) ∧
        (st ≠ .fault → ¬ behind → ¬ queues →
          (st ≠ .go → exec .windowLoadArrival s = .next u) ∧
          (st = .go → s.winAsleep w = true → exec .windowLoadArrival s = .next (u.winWake w)) ∧
          (st = .go → s.winAsleep w = false →
            (∀ e t, u.winLoad (u.who c) w pa va = .exc e t →
              exec .windowLoadArrival s = .next (t.trapAt t.cur t.me.pc e)) ∧
            ∀ v t, u.winLoad (u.who c) w pa va = .value v t → exec .windowLoadArrival s = t.arrived v))) ∧
    (∀ (t : State) (v : Word), t.me.watching = none → t.me.card = none → t.me.call = none →
      let y := t.me
      t.arrived v = .next (t.setMe
        { y.wx y.loadRd (extend y.loadW y.loadSigned v) with run := .active, pc := y.pc + 4 })) ∧
    (let k := nth 0 s.arg.list 0
     let exc := fun (k pa : Nat) =>
       let cause : BitVec 8 := if k ∈ [0x20, 0x21, 0x22, 0x23] then BitVec.ofNat 8 k else 0x18
       ({ cause := cause, val := causeVal cause (BitVec.ofNat 64 pa) } : Exc)
     let bytes := fun (d : Datum) (pa w : Nat) => BitVec.ofNat 64 (d.v.toNat / 2 ^ (8 * (pa % 8)) % 2 ^ (8 * w))
     (∀ kind core pa w (d : Datum), (d.mark = true → s.takeDatum kind part core pa w d =
          .error ({ cause := 0x21, val := BitVec.ofNat 64 pa &&& ~~~0xFF }, s)) ∧
        (d.mark = false → d.synd ≠ 0 → s.takeDatum kind part core pa w d =
          .error ({ cause := 0x20, val := BitVec.ofNat 64 pa &&& ~~~7 }, s.mismatch kind part core (pa / 8 * 8))) ∧
        (d.mark = false → d.synd = 0 → s.takeDatum kind part core pa w d = .ok (bytes d pa w, s))) ∧
     (∀ tag f, let mine := fun (q : RemoteReq) => q.kind = 6 ∧ q.tag = tag ∧ f q = true
        (s.takeReply tag f = none ↔ ∀ q ∈ s.inbox, ¬ mine q) ∧
        ∀ l q r, s.inbox = l ++ q :: r → (∀ p ∈ l, ¬ mine p) → mine q →
          s.takeReply tag f = some (q, { s with inbox := l ++ r })) ∧
     (k = 0 → ((∀ pa, x.run ≠ .parked (.remote pa)) → exec .loadDataReturn s = .next s) ∧
        ∀ pa, x.run = .parked (.remote pa) →
          let reply := s.takeReply (tagOf 0 c 0) (fun q => (q.word 1).toNat == pa)
          (reply = none → exec .loadDataReturn s = .next s) ∧
          ∀ q t, reply = some (q, t) →
            (q.cause ≠ 0 → exec .loadDataReturn s = .next (t.trapAt c x.pc (exc q.cause pa))) ∧
            (q.cause = 0 →
              (∀ v u, t.takeDatum 1 (t.partOf (c / 4)) (c / 4) pa x.awaits (q.datum 0) = .ok (v, u) →
                exec .loadDataReturn s = ({ u with cur := c } : State).arrived v) ∧
              ∀ e u, t.takeDatum 1 (t.partOf (c / 4)) (c / 4) pa x.awaits (q.datum 0) = .error (e, u) →
                exec .loadDataReturn s = .next (u.trapAt c x.pc e))) ∧
     (k = 1 → ((s.mt c n).blk = none → exec .loadDataReturn s = .next s) ∧
        ∀ b, (s.mt c n).blk = some b → (b.wait = none → exec .loadDataReturn s = .next s) ∧
          ∀ rd w g pa, b.wait = some (rd, w, g, pa) →
            let m := s.mt c n
            let reply := s.takeReply (tagOf 1 c n) (fun q => (q.word 1).toNat == pa)
            (reply = none → exec .loadDataReturn s = .next s) ∧
            ∀ q t, reply = some (q, t) →
              (q.cause ≠ 0 → exec .loadDataReturn s = .next (t.mtFault c n m (exc q.cause pa))) ∧
              (q.cause = 0 →
                (∀ e u, t.takeDatum 2 (t.partOf (c / 4)) (c / 4) pa w (q.datum 0) = .error (e, u) →
                  exec .loadDataReturn s = .next (u.mtFault c n m e)) ∧
                ∀ v u, t.takeDatum 2 (t.partOf (c / 4)) (c / 4) pa w (q.datum 0) = .ok (v, u) →
                  (b.pos < b.words.length → b.stores = [] → exec .loadDataReturn s =
                    .next (u.setMt c n { m with
                      blk := some { b.dst rd (extend w g (BitVec.ofNat 64 (leNat (toLe v.toNat w)))) with
                        wait := none, pos := b.pos + 1, heldSince := none, stalled := false } })) ∧
                  (b.words.length ≤ b.pos → ∀ l e r, b.stores = l ++ e :: r → e ∉ l → b.remoteAtomic = some e →
                    exec .loadDataReturn s = .next (u.setMt c n { m with
                      blk := some { b with wait := none, stores := l ++ { e with kind := 5, data := v } :: r } })))) ∧
     (k = 2 → ((∀ i ra rb left sent stop, x.run ≠ .parked (.elems i ra rb left sent stop)) →
          exec .loadDataReturn s = .next s) ∧
        ∀ i ra rb left sent stop, x.run = .parked (.elems i ra rb left sent stop) →
          (n ∉ sent → exec .loadDataReturn s = .next s) ∧
          (n ∈ sent → (∀ f d, i ≠ .stream f d) →
            let pa := (look (0, 0) x.cap.got n).1.toNat
            let reply := s.takeReply (tagOf 2 c n) (fun q => (q.word 1).toNat == pa)
            (reply = none → exec .loadDataReturn s = .next s) ∧
            ∀ q t, reply = some (q, t) →
              (q.cause ≠ 0 → exec .loadDataReturn s = .next (t.failElem c i ra rb left sent n (exc q.cause pa))) ∧
              (q.cause = 0 →
                (∀ e u, t.takeDatum 2 (t.partOf (c / 4)) (c / 4) pa (elemForm i).1 (q.datum 0) = .error (e, u) →
                  exec .loadDataReturn s = .next (u.failElem c i ra rb left sent n e)) ∧
                ∀ v u, t.takeDatum 2 (t.partOf (c / 4)) (c / 4) pa (elemForm i).1 (q.datum 0) = .ok (v, u) →
                  exec .loadDataReturn s = .next ((u.keepElem c n (extend (elemForm i).1 (elemForm i).2 v) 0).setElems c
                    (.elems i ra rb left (sent.filter (· != n)) stop)))) ∧
          (∀ f d, i = .stream f d → exec .loadDataReturn s = .next (s.dataForElem c n))) ∧
     (k = 3 → (s.posted[n]? = none → exec .loadDataReturn s = .next s) ∧
        ∀ p, s.posted[n]? = some p →
          ((∀ m a, placeOf p.pa ≠ .domain m a) → exec .loadDataReturn s = .next s) ∧
          ∀ m a, placeOf p.pa = .domain m a →
            let reply := s.takeReply (tagOf 3 p.from_ 0) (fun q => (q.word 1).toNat == p.pa)
            (reply = none → exec .loadDataReturn s = .next s) ∧
            ∀ q t, reply = some (q, t) →
              let u := { t with posted := t.posted.take n ++ t.posted.drop (n + 1) }
              exec .loadDataReturn s = .next (if q.cause ≠ 0 then u.reportPost p (exc q.cause p.pa) else u)) ∧
     (4 ≤ k → (x.fwWait = none → exec .loadDataReturn s = .next s) ∧
        ∀ pa, x.fwWait = some pa →
          let reply := s.takeReply (tagOf 4 c 0) (fun q => (q.word 1).toNat == pa)
          let back := fun (t : State) => t.setCtx c { t.ctx c with fwWait := none }
          (reply = none → exec .loadDataReturn s = .next s) ∧
          ∀ q t, reply = some (q, t) →
            (q.cause ≠ 0 → exec .loadDataReturn s = .next (back (t.vldbResult c (.error (exc q.cause pa))))) ∧
            (q.cause = 0 →
              (∀ v u, t.takeDatum 2 (t.partOf (c / 4)) (c / 4) pa 8 (q.datum 0) = .ok (v, u) →
                exec .loadDataReturn s = .next (back (u.vldbResult c (.ok v)))) ∧
              ∀ e u, t.takeDatum 2 (t.partOf (c / 4)) (c / 4) pa 8 (q.datum 0) = .error (e, u) →
                exec .loadDataReturn s = .next (back (u.vldbResult c (.error e)))))) ∧
    (∃ t : State, exec .leaseLapse s = .next t ∧ t = { s with l1 := t.l1 } ∧ t.l1 = s.l1.map (fun e =>
      if e.core = c ∧ e.sector = n ∧ e.expiry ≤ s.cycles (dieOf c) then { e with expiry := 0, since := [] } else e)) ∧
    exec .unitWakeUp s = .next (match look none s.asleep n with
      | some _ => { s with asleep := s.asleep.filter (fun e => e.1 != n) }
      | none => s)

/-- A doorbell puts the command into the mailbox's queue of 8; in the recovery state only that of mailbox 16 does, and a command
of which a doubleword fails its verification is dropped. A register
write reaches the function's own mailbox, or for the physical function every register. A command is refused where it
is barred or its fields, its record, slot or group do not allow it; otherwise it has its effect and status 1: BUILD
fills a record, RELEASE makes it UNBUILT, CFGSTAGE stores an image with the replacements made since, WLOGRC copies log words and clears them, MEMBER
and GROUP fill a table entry, COLL starts a round once none runs, SAVEREG and SNAPREG set a region, PREEMPT begins a
stop, RESUME and IMPORT arm a record, PRQ sets a queue, PCLEAR clears a range, SUMMARY writes its words; an unknown
opcode is refused. A host read of BAR0 answers what the hub range holds there for the function, with poison where it cannot be
consumed. (R326, R325, R323, R54, R333, R144, R340, R342, R384, R426, R408, R436)  Read from the rules are: a partition byte that
is not the mailbox's is refused (DEDUCED, log 40), how a PREEMPT waits (log 66), what BUILD masks (log 67), what RELEASE leaves
(log 68), what MEMBER and GROUP refuse (log 71), which slots an IMPORT looks at and that its ranks without an image count as
halted (log 72), the alignments that PRQ, SAVEREG and SNAPREG ask for (log 73). A read of a doubleword that the layout does not
list gives a free value as poison (DESIGN CHOICE, log 114), and a command with a wrong doubleword is dropped (DESIGN CHOICE, log
118). -/
def Obligations.HubEvents : Prop :=
  ∀ s : State,
    let m := s.arg.unit
    let off := s.arg.index
    exec .doorbell s = .next (if m < 17 then s.bell m else s) ∧
    exec .registerWrite s = .next (if off % 8 ≠ 0 ∨ ¬ (m = 0 ∨ 0x10000 + (m - 1) * 0x1000 ≤ off ∧
        off < 0x10000 + m * 0x1000 ∧ m ≤ 16) then s
      else if 0x10000 ≤ off ∧ off < 0x21000 ∧ off % 0x1000 = 0x20 then s.bell ((off - 0x10000) / 0x1000)
      else s.hubPut off (.of s.arg.value)) ∧
    (∀ k a, a % 8 ≠ 0 ∨ ¬ (k = 0 ∨ 0x10000 + (k - 1) * 0x1000 ≤ a ∧ a < 0x10000 + k * 0x1000 ∧ k ≤ 16) →
      ∃ v, (s.barRead k a).out = s.out ++ [.hostData k true [v]]) ∧
    (∀ k a v, a % 8 = 0 → (k = 0 ∨ 0x10000 + (k - 1) * 0x1000 ≤ a ∧ a < 0x10000 + k * 0x1000 ∧ k ≤ 16) →
      s.hubRead (k - 1) (k = 0) a = some v → s.barRead k a =
        (let t := if look 0 s.hubSynd a = 0 then s else s.mismatch 7 (if k = 0 then 0xFF else k - 1) 0 (hubBase + a)
         { t with out := t.out ++ [.hostData k (decide (look 0 s.hubSynd a ≠ 0 ∨ hubBase + a ∈ s.marks)) [v]] })) ∧
    (∀ k, let bad := ∃ j < 4, s.hubFails (0x10000 + k * 0x1000 + 8 * j) = true
      (s.recovery = true → k ≠ 16 → s.bell k = scrivener s 0x60 k 0 (0x400000010020 + k * 0x1000) [k]) ∧
      (s.recovery = false ∨ k = 16 → bad → (s.bell k).boxes = s.boxes) ∧
      (s.recovery = false ∨ k = 16 → ¬ bad → s.bell k = (let b := s.box k
        if 8 ≤ b.queue.length then scrivener s 0x60 (if k = 16 then 0xFF else k) 0 (0x400000010020 + k * 0x1000) [k]
        else s.setBox k { b with queue := b.queue ++ [(List.range 4).map (nth 0 b.cmd)] }))) ∧
    (∀ a (d : Datum), 0x10000 ≤ a → a < 0x21000 → a % 0x1000 < 0x20 → a % 8 = 0 →
      let k := (a - 0x10000) / 0x1000
      let t := s.hubPut a d
      nth 0 (t.box k).cmd (a % 0x1000 / 8) = d.v ∧ (t.box k).queue = (s.box k).queue ∧ look 0 t.hubSynd a = d.synd ∧
        (hubBase + a ∈ t.marks ↔ d.mark = true)) ∧
    (∀ i : CfgImage, let j := s.withReplacements i
      (∀ k ∈ s.stored.retired, k ∈ j.retired) ∧ (∀ k ∈ s.stored.deadInPlace, k ∈ j.deadInPlace) ∧
      ∀ cl < 32, (∀ l ∈ (s.cluster cl).missing, (cl, l) ∈ j.missingLanes) ∧
        (∀ k ∈ (s.cluster cl).missingCores, k ∈ j.missingCores) ∧ ∀ w ∈ (s.cluster cl).waysOut, w ∈ j.waysOut) ∧
    (let z := s.settleLines
     ((z.box m).queue = [] → exec .summary s = .next z) ∧
     ∀ q l, (z.box m).queue = q :: l →
       let pa := cmdField q 8 8
       let no := pa % 64 ≠ 0 ∨ cmdField q 16 4 < 37120
       (cmdOp q ≠ 0x80 → exec .summary s = .next z) ∧
       (cmdOp q = 0x80 → z.cmdBarred m q = true ∨ no → exec .summary s = .next (z.answer m 2)) ∧
       (cmdOp q = 0x80 → z.cmdBarred m q = false → ¬ no →
         exec .summary s = .next ((z.physWrite pa (z.summaryWords m)).answer m 1))) ∧
    ((s.box m).queue = [] → ∀ i ∈ [Instr.build, .release, .cfgstage, .wlogrc, .member, .group, .coll, .savereg, .preempt,
      .resume, .importImg, .prq, .snapreg, .pclear, .undefinedMailboxOpcode], exec i s = .next s) ∧
    ∀ q l, (s.box m).queue = q :: l →
      let op := cmdOp q
      let r := cmdField q 4 1
      let g := s.lrec r
      let pa := cmdField q 8 8
      let runs := fun (i : Instr) (o : Nat) (no : Prop) (t : State) =>
        (op ≠ o → exec i s = .next s) ∧ (op = o → s.cmdBarred m q = true ∨ no → exec i s = .next (s.answer m 2)) ∧
        (op = o → s.cmdBarred m q = false → ¬ no → exec i s = .next (t.answer m 1))
      let reg := s.saveReg g.part
      let used := fun (k : Nat) => s.slotUsed reg r k = true
      let cores := (rectCores g.rect).length
      let arm := (g.setState 2).setFld 40 2 (g.fld 6 2) |> fun k =>
        { k with armed := s.armCount, waited := 0, held := true, marked := false, saved := true, msgs := [], aborted := []
                 placed := g.rect
                 own := ((List.range cores).filter (fun k => !s.slotUsed reg r k)).map (fun k =>
                   (k, gangWord 0 false false false false false 1 0)) }
      let taken := (∃ k < 512, used k) ∧ ∀ k < 512, used k → k < cores ∧ s.slotOk reg r k = true
      s.answer m 1 = (s.setBox m { s.box m with queue := l }).physWrite (nth 0 q 3).toNat [1] ∧
      exec .undefinedMailboxOpcode s = .next (if op ∈ knownOps then s else s.answer m 2) ∧
      (∀ w, s.physRead pa 32 = some w →
        let n := recOfImage w
        runs .build 0x10 (s.foreign m r = true ∨ m < 16 ∧ n.part ≠ m ∨ 2 ≤ g.state ∨ n.fld 18 2 = 3 ∨
          s.buildFrozen r n = true) (s.setRec r n)) ∧
      (s.physRead pa 32 = none → runs .build 0x10 True s) ∧
      (let t := if g.state = 2 ∧ g.saved then s.withdraw r else s
       runs .release 0x11 (s.foreign m r = true ∨ g.state = 3) (t.setRec r ((t.lrec r).setState 0))) ∧
      (∀ w i, s.physRead pa (cmdField q 16 4 / 8) = some w → Config.readImage w = some i →
        runs .cfgstage 0x20 False { s with stored := s.withReplacements i }) ∧
      (s.physRead pa (cmdField q 16 4 / 8) = none → runs .cfgstage 0x20 True s) ∧
      (∀ w, s.physRead pa (cmdField q 16 4 / 8) = some w → Config.readImage w = none → runs .cfgstage 0x20 True s) ∧
      (let tier := cmdField q 3 1
       let first := cmdField q 4 4
       let n := cmdField q 8 4
       let buf := cmdField q 16 8
       let lo := cmdPart m q * 0x4000000 + tier * 0x2000000 + 64 * first
       let inside := fun (k : Nat) => decide (lo ≤ k) && decide (k < lo + 64 * n)
       runs .wlogrc 0x31 (1 < tier ∨ n = 0 ∨ 512 < n ∨ (if tier = 0 then 196608 else 344064) < first + n ∨
           cmdField q 12 4 ≠ 0 ∨ buf % 8 ≠ 0 ∨ m = 16 ∧ 15 < cmdField q 2 1)
         (State.physWrite { s with
             wlog := s.wlog.filter (fun k => !inside k)
             l1 := s.l1.map (fun e => if inside (logBit (cmdPart m q) (e.sector * 256 % 0x10000000000000)) then
               { e with writable := false } else e) } buf ((List.range n).map (fun k => s.logWord (cmdPart m q) tier (first + k))))) ∧
      (let slot := cmdField q 4 2
       runs .member 0x40 (1024 ≤ slot ∨ cmdField q 8 4 / 0x2000000 % 64 ≠ 0 ∨ s.foreignSlot m slot = true ∨ s.frozenSlot slot = true)
         { s with members := put s.members slot (BitVec.ofNat 32 (cmdField q 8 4)) }) ∧
      (let bad := 64 ≤ r ∨ s.foreignGroup m r = true ∨ s.frozenGroup r = true ∨ (s.group r).running ≠ none
       (bad ∨ s.physRead pa 1 = none → runs .group 0x41 True s) ∧
       ∀ h, s.physRead pa 1 = some h → ¬ bad →
         let n := (nth 0 h 0).toNat
         (n < 2 ∨ 1024 < n ∨ s.physRead (pa + 8) ((n + 3) / 4) = none → runs .group 0x41 True s) ∧
         ∀ w, 2 ≤ n → n ≤ 1024 → s.physRead (pa + 8) ((n + 3) / 4) = some w →
           let t := tableSlots w n
           runs .group 0x41 ((∃ k ∈ t, 1024 ≤ k ∨ s.foreignSlot m k = true) ∨ s.memberId.toNat ∉ t)
             { s with groups := put s.groups r { s.group r with members := t } }) ∧
      (s.collDesc q = none → runs .coll 0x50 True s) ∧
      (∀ d, s.collDesc q = some d →
        let h := s.group (collGroup d)
        (op = 0x50 → s.cmdBarred m q = false → collGroup d < 64 → h.running ≠ none → exec .coll s = .next s) ∧
        (64 ≤ collGroup d ∨ h.running = none →
          runs .coll 0x50 (collOk d h.members.length = false ∨ s.foreignGroup m (collGroup d) = true)
            { s with groups := put s.groups (collGroup d) { h with
                round := h.round + 1, running := some { desc := d, since := s.now, own := none }, part := cmdPart m q } })) ∧
      (let stride := cmdField q 16 4
       let len := cmdField q 20 4 * 0x10000
       let p := cmdPart m q
       runs .savereg 0x60 (pa % 0x10000 ≠ 0 ∨ stride = 0 ∨ ∃ e ∈ s.recs, e.2.state = 2 ∧ e.2.saved = true ∧ e.2.part = p)
         { s with saveRegs := put s.saveRegs p { base := pa, stride := stride * 0x8000, len := len } } ∧
       runs .snapreg 0x65 (pa % 0x10000 ≠ 0 ∨ stride = 0)
         { s with snapRegs := put s.snapRegs p { base := pa, stride := stride * 0x10000, len := len } }) ∧
      (op ≠ 0x61 → exec .preempt s = .next s) ∧
      (let fits := ∀ k ∈ s.liveRanks r, (s.saveReg g.part).fits r k.1 (s.ctx k.2).imageSize
       let no := s.cmdBarred m q = true ∨ s.foreign m r = true ∨ g.state ≠ 3
       op = 0x61 → exec .preempt s = .next (if no then s.answer m 2 else if g.stopping ≠ none then s
         else if ¬ fits then s.answer m 2 else s.setRec r { g with stopping := some (cmdField q 5 1 % 2 == 1, m) })) ∧
      runs .resume 0x62 (s.foreign m r = true ∨ ¬ (g.state = 2 ∧ g.held = true)) (s.setRec r { g with held := false }).pass ∧
      (op ≠ 0x63 → exec .importImg s = .next s) ∧
      (let no := s.cmdBarred m q = true ∨ s.foreign m r = true ∨ g.state ≠ 1 ∨ rectOk g.rect = false ∨
         g.fld 12 1 = 1 ∧ (s.snapReg g.part).len = 0
       op = 0x63 → exec .importImg s = .next (if no then s.answer m 2
         else if ¬ taken then (s.noteImages r).answer m 2
         else State.answer { s.setRec r arm with armCount := s.armCount + 1 } m 1)) ∧
      runs .prq 0x64 (pa % 32 ≠ 0 ∨ cmdField q 16 1 < 4 ∨ 16 < cmdField q 16 1)
        { s with prqs := put s.prqs (cmdPart m q) { base := pa, q := cmdField q 16 1, next := 0, seqn := 0 } } ∧
      (let n := cmdField q 16 4
       let stop := pa + n * 0x10000
       runs .pclear 0x70 (pa % 0x10000 ≠ 0 ∨ n = 0 ∨ ¬ (stop ≤ hbmTop ∨ 0x10000000000 ≤ pa ∧ stop ≤ 0x25000000000) ∨
         m < 16 ∧ s.granted m pa stop = false) (s.pclearRange pa stop (m == 16)))

/-- A host request waits at the service core of its target, which performs the oldest first: outside its function's memory
a read is answered with all ones and poison and a write has no effect; else its eight doublewords are read or, under
its byte enables, written. A remote request is performed, the oldest of a source and port first, as an access of this
module's memory, and its reply goes out of its port, or a bus fault where there is no memory. An interface locks from
UNLOCKED, starts from LOCKED, reports while it is frozen, and stops, its gangs pre-empted first; a locked register's
write or an integrity failure drops a frozen one to ERROR, its armed records cancelled and its gangs begun to be stopped and
discarded; a measurement is a signed digest. A flit in sequence is acknowledged and its packet delivered: a request waits for
the link controller, a reply for what awaits it, a message of a collective for its round; another flit is answered by a
negative acknowledgement, on which the sender resends and after eight replays retrains. A lost lane is replaced by the spare,
or halves the direction, or brings it down, and every request that left by that port ends with cause 0x18. A round sends its
module's contribution, and once those of its number have come, writes its result and the done word, or aborts with its cause
at every member; an abort message of its number stops it. (R324, R171, R339, R172, R335, R435, R334, R337, R431, R430, R343,
R433)  The form of packets is the model's choice (DESIGN CHOICE, log 9), and so is what stands in an interface report (DESIGN
CHOICE, log 87); the consumer that a remote merge names is log 122. Read from the rules are when record 0x22 is written
(DEDUCED, log 76), when a function reaches its grant (log 77), that the replay count starts again (log 83), the partition of a
remote request (log 84), how a host access is placed and judged (logs 85, 86), and what a round checks (log 82). -/
def Obligations.HostAndFabricEvents : Prop :=
  ∀ s : State,
    let f := s.arg.unit
    let n := s.arg.index
    (∀ q : HostReq, s.hostArrive q = if s.recovery = true ∨ 16 < q.fn ∨ q.pa % 64 ≠ 0 then s else
      let k := serviceCore s q.pa
      { s with hostq := put s.hostq k (look [] s.hostq k ++ [q]) }) ∧
    (look [] s.hostq f = [] → exec .hostRequest s = .next s) ∧
    (∀ q l, look [] s.hostq f = q :: l →
      let t := { s with hostq := put s.hostq f l }
      let waits := s.stalls { pa := q.pa, skew := 0, attr := 0 } = true ∨
        q.write = true ∧ s.blocked (hostWho 0) (sectorOf (memKey 0 q.pa)) = true
      let yes := t.hostReaches q.fn q.pa = true ∧ (t.inMemory q.pa = true ∨ q.pa < hbmTop)
      let sent := fun (t : State) (o : Out) => Host.Outcome.next { t with out := t.out ++ [o] }
      (waits → exec .hostRequest s = .next s) ∧
      (¬ waits → ¬ yes → exec .hostRequest s = sent t (if q.write then .hostDone q.fn
        else .hostData q.fn true (List.replicate 8 0xFFFFFFFFFFFFFFFF))) ∧
      (¬ waits → yes → q.write = true → exec .hostRequest s =
        sent (t.hostPut (q.fn - 1) q.mask q.pa 0 ((List.range 8).map (nth 0 q.words))) (.hostDone q.fn)) ∧
      (¬ waits → yes → q.write = false → let r := t.hostDws (q.fn - 1) q.pa 8
        exec .hostRequest s = sent r.2.2 (.hostData q.fn r.2.1 r.1))) ∧
    (let j := s.rxq.findIdx (fun q => q.port == f && q.source == n)
     (s.rxq[j]? = none → exec .remoteRequest s = .next s) ∧
     ∀ q, s.rxq[j]? = some q →
       let reply := fun (t : State) (c : Nat) (l : List Datum) =>
         Host.Outcome.next (State.sendVia { t with rxq := t.rxq.take j ++ t.rxq.drop (j + 1) } q.port
           [BitVec.ofNat 64 (6 + 0x100 * c), q.word 1, q.word 0] (s.routeBack (q.word 4)) l)
       let k := bits (q.word 0) 0 8
       let w := bits (q.word 0) 8 8
       let here := (s.inMemory q.pa = true ∨ q.pa < hbmTop) ∧ domainLocal q.pa = true
       let who := s.remoteWho q
       let tr : Tr := { pa := q.pa, skew := 0, attr := 1 }
       let key := memKey 0 (q.pa / 8 * 8)
       let got := fun (m : Nat) => nth (Datum.of 0) q.payload m
       (¬ here → exec .remoteRequest s = reply s 0x18 []) ∧
       (here → k = 1 → (s.stalls tr = true → exec .remoteRequest s = .next s) ∧
         (s.stalls tr = false → s.memFault who tr (q.word 1) false = none → exec .remoteRequest s =
           reply (s.served who tr (sectorOf key) (.load w)) 0 [s.datumAt key false]) ∧
         ∀ e, s.stalls tr = false → s.memFault who tr (q.word 1) false = some e → exec .remoteRequest s =
           if e.cause = 0x21 then reply s 0 [s.datumAt key true] else reply s e.cause.toNat []) ∧
       (∀ l, here → (k = 2 ∧ w = 8 ∧ l = q.run [got 2] ∨ k = 5 ∧ l = q.spread ∨
           k ≠ 1 ∧ k ≠ 2 ∧ k ≠ 3 ∧ k ≠ 5 ∧ l = q.run (q.payload.drop 6)) →
         (s.remoteWrite q l = none → exec .remoteRequest s = .next s) ∧
         ∀ t c d, s.remoteWrite q l = some (t, c, d) → exec .remoteRequest s = reply t c d) ∧
       ∀ o, here → (k = 2 ∧ w ≠ 8 ∧ o = MemOp.store w (q.word 2) ∨
           k = 3 ∧ o = .amo w (bits (q.word 0) 16 8) (q.word 2) (q.word 3)) →
         let good := fun (m : Nat) => (got m).mark = false ∧ (got m).synd = 0
         (∀ m, (m = 2 ∨ m = 3 ∧ good 2) → (got m).mark = true → exec .remoteRequest s = reply s 0x21 []) ∧
         (∀ m, (m = 2 ∨ m = 3 ∧ good 2) → (got m).mark = false → (got m).synd ≠ 0 → exec .remoteRequest s =
           reply (s.mismatch (if k = 3 then 4 else 1) who.part 0 (q.pa / 8 * 8)) 0x20 []) ∧
         (good 2 → good 3 →
           (∀ v t, s.memAccess who tr (q.word 1) o = .value v t →
             exec .remoteRequest s = reply t 0 [.of (v <<< (8 * (q.pa % 8)))]) ∧
           (∀ e t, s.memAccess who tr (q.word 1) o = .exc e t → exec .remoteRequest s = reply t e.cause.toNat []) ∧
           ((∀ v t, s.memAccess who tr (q.word 1) o ≠ .value v t) → (∀ e t, s.memAccess who tr (q.word 1) o ≠ .exc e t) →
             exec .remoteRequest s = .next s))) ∧
    (let say := fun (t : State) (c : Nat) (l : List Word) => { t with out := t.out ++ [.reply c l] }
     let set := fun (t : State) (v : Tdisp) => { t with tdisp := put t.tdisp f v }
     let st := s.tdispOf f
     let saved := ((s.recsIn f 2).filter (fun r => (s.lrec r).saved)).foldl State.withdraw s
     exec .lockInterfaceRequest s = .next (if 16 ≤ f then s else if st = .unlocked then say (set s .locked) 0 [] else say s 1 []) ∧
     exec .getDeviceInterfaceReport s = .next (if 16 ≤ f then s else if st = .locked ∨ st = .run then say s 0 (s.reportWords f)
       else say s 1 []) ∧
     exec .startInterfaceRequest s = .next (if 16 ≤ f then s else if st = .locked then say (set s .run) 0 [] else say s 1 []) ∧
     exec .stopInterfaceRequest s = .next (if 16 ≤ f then s else if st = .unlocked then say s 0 []
       else if st = .run ∧ s.recsIn f 3 ≠ [] then s.stopGangs f
       else say (set (if st = .run then saved else s) .unlocked) 0 []) ∧
     (let fall := fun (v : Nat) => if f < 16 ∧ (st = .locked ∨ st = .run) then
         (let t := scrivener (set s .error) 0x40 f 0 0 [v]
          let t := (s.recsIn f 2).foldl (fun t r => t.setRec r { t.lrec r with held := true }) t
          let t := (s.recsIn f 3).foldl State.beginDiscard t
          (s.recsIn f 2).foldl State.withdraw t) else s
      (∀ r, let g := s.lrec r
        let t := s.setRec r { g with stopping := some (false, 18), marked := false }
        (g.stopping = none → s.beginDiscard r = t) ∧
        ∀ hold m, g.stopping = some (hold, m) → s.beginDiscard r = if m < 17 then t.answer m 2 else t) ∧
      exec .ideIntegrityFailure s = .next (fall 2) ∧
      exec .lockedBarWrite s = .next (if f < 16 ∧ n < 6 ∧ st = .unlocked then
        { s with bars := put s.bars (8 * (f + 1) + n) s.arg.value } else fall 1)) ∧
     (s.measured n = none → exec .spdmMeasurement s = .next (say s 1 [])) ∧
     ∀ l, s.measured n = some l → exec .spdmMeasurement s =
       .next (say s 0 (Config.sha3 l ++ Config.sign (Config.sha3 l)))) ∧
    (let l := s.dir f 1
     let e := (l.seq + 1) % 0x10000
     exec .flitReceive s = .next (if 12 ≤ f ∨ l.up = false then s
       else if s.arg.flag = true ∧ n = l.seq then
         State.payloadIn { s.setDir f 1 { l with seq := e } with out := s.out ++ [.ack f e] } f s.arg.data
       else { s with out := s.out ++ [.nak f l.seq] })) ∧
    (∀ l : List Datum, let route := (nth (Datum.of 0) l 4).v
      let q : RemoteReq := { port := f, source := bits route 0 20, payload := l }
      let awaited := ∃ p ∈ s.pend, p.back = none ∧ p.answered q = true
      ¬ (bits route 40 1 = 1 ∧ bits route 20 20 ≠ s.modId.toNat) →
        (q.kind ≤ 5 → s.packetIn f l = { s with rxq := s.rxq ++ [q] }) ∧
        (q.kind = 6 → ¬ awaited → s.packetIn f l = s) ∧
        (q.kind = 6 → awaited → s.packetIn f l = { s.settlePend true q with inbox := s.inbox ++ [q] }) ∧
        (6 < q.kind → s.packetIn f l = if s.staleRound q then s else { s with inbox := s.inbox ++ [q] })) ∧
    (∀ q, let h := s.group (bits (q.word 0) 8 8)
      s.staleRound q = true ↔ (q.word 1).toNat < h.round ∨ (q.word 1).toNat = h.round ∧ h.running = none) ∧
    (∀ d l, s.goDown f d l = (s.pend.filter (·.port == f)).foldl State.cutPend
      { (s.setDir f d { l with st := .down }).portRecord 0x23 f [l.half] with pend := s.pend.filter (·.port != f) }) ∧
    (∀ p : Pend, (∀ q, p.back = some q → s.cutPend p = s.sendVia q (remoteReply 0x18 p.words) (s.routeBack p.route) []) ∧
      (p.back = none → s.cutPend p = { s with inbox := s.inbox ++
        [{ port := p.port, source := 0, payload := (remoteReply 0x18 p.words ++ [0, 0, 0]).map Datum.of }] })) ∧
    exec .acknowledgement s = .next (if 12 ≤ f then s else (s.setDir f 0 ((s.dir f 0).freeBelow n)).pump f) ∧
    (let t := s.replay f n
     let l := t.dir f 0
     exec .negativeAcknowledgement s = .next (if 12 ≤ f ∨ (s.dir f 0).up = false then s else if l.buf = [] then t
       else if l.replays < 7 then t.setDir f 0 { l with replays := l.replays + 1 }
       else t.setDir f 0 { l with replays := 0, st := .retrain (if l.st = .up8 then 8 else 16) })) ∧
    (let d := s.arg.value.toNat
     let l := s.dir f d
     let t := s.portRecord 0x20 f [n, d]
     let m := { l with lost := setIns l.lost n }
     let half := n / 8
     let bad := 12 ≤ f ∨ 2 ≤ d ∨ 16 ≤ n ∨ l.isDown = true ∨ n ∈ l.lost
     (bad → exec .laneLost s = .next s) ∧
     (¬ bad → l.spareUsed = false → exec .laneLost s = .next ((t.setDir f d { l with
       spareUsed := true
       st := .retrain (match l.st with
         | .retrain g => g
         | .up8 => 8
         | _ => 16) }).portRecord 0x21 f [n, d])) ∧
     (¬ bad → l.spareUsed = true →
       (l.st = .up8 → exec .laneLost s = .next (if half = l.half then t.goDown f d m else t.setDir f d m)) ∧
       (l.st ≠ .up8 → (∃ k ∈ m.lost, k / 8 = 1 - half) → exec .laneLost s = .next (t.goDown f d m)) ∧
       (l.st ≠ .up8 → (∀ k ∈ m.lost, k / 8 ≠ 1 - half) → exec .laneLost s =
         .next (let u := t.setDir f d { m with half := 1 - half, st := .retrain 8 }
                if l.st = .retrain 8 then u else u.portRecord 0x22 f [1 - half])))) ∧
    (let l := s.dir f n
     (12 ≤ f ∨ 2 ≤ n ∨ (∀ g, l.st ≠ .retrain g) → exec .retrainDone s = .next s) ∧
     ∀ g, f < 12 → n < 2 → l.st = .retrain g →
       let t := s.setDir f n { l with st := if g = 8 then .up8 else .up16, fails := 0, replays := 0 }
       exec .retrainDone s = .next (if s.arg.flag then
         (if n = 0 then t.replay f s.arg.value.toNat else { t with out := t.out ++ [.ack f l.seq] })
         else if l.fails < 2 then s.setDir f n { l with fails := l.fails + 1 } else s.goDown f n { l with fails := 0 })) ∧
    (let g := s.group f
     (g.running = none → exec .collectiveRoundDone s = .next s ∧ exec .collectiveTimeout s = .next s ∧
       exec .abortMessage s = .next s) ∧
     ∀ r, g.running = some r →
       let d := r.desc
       let parts := s.contributions f r
       let alone := ∀ m ∈ g.members, m = s.memberId.toNat ∨ s.reachable m = false
       (r.own = none → collKind d = 3 → exec .collectiveRoundDone s = .next (s.contribute f r [])) ∧
       (r.own = none → collKind d ≠ 3 →
         (∀ k t, s.ownPart g d = .error (k, t) → exec .collectiveRoundDone s = .next (t.abortFirst f d k)) ∧
         ∀ own, s.ownPart g d = .ok own → exec .collectiveRoundDone s = .next (s.contribute f r own)) ∧
       (∀ own, collKind d = 2 ∧ s.ownRank g ≠ collRoot d ∨ alone →
         s.contribute f r own = { s with groups := put s.groups f { g with running := some { r with own := some own } } }) ∧
       (r.own ≠ none → s.roundFull f r = false → exec .collectiveRoundDone s = .next s) ∧
       (r.own ≠ none → s.roundFull f r = true → collKind d = 3 → exec .collectiveRoundDone s = .next (s.endRound f d 0)) ∧
       (r.own ≠ none → s.roundFull f r = true → collKind d ≠ 3 →
         (∀ k t, s.contribBad g d parts = some (k, t) → exec .collectiveRoundDone s = .next (t.abortFirst f d k)) ∧
         (∀ k, s.contribBad g d parts = none → s.collTrouble d = some k →
           exec .collectiveRoundDone s = .next (s.abortFirst f d k)) ∧
         (s.contribBad g d parts = none → s.collTrouble d = none → exec .collectiveRoundDone s =
           .next ((s.collWrite g.part d (collResult d parts) (List.range (dwsOf (collLen d)))).endRound f d 0))) ∧
       (∀ rank k x, rank ≠ s.ownRank g → s.contribution f r rank k = some x → ∃ q ∈ s.inbox, q.kind = 8 ∧
         bits (q.word 0) 8 8 = f ∧ bits (q.word 0) 32 32 = rank ∧ (q.word 1).toNat = g.round ∧ (q.word 2).toNat ≤ k ∧
         x = q.datum (k - (q.word 2).toNat)) ∧
       exec .collectiveTimeout s = .next (if s.memberCut g then (s.partialResult f r).abortFirst f d 0x18
         else if r.since + 3300 * collTimeout d ≤ s.now then (s.partialResult f r).abortFirst f d 0x15 else s) ∧
       (let mine := fun (q : RemoteReq) => q.kind = 7 ∧ bits (q.word 0) 8 8 = f ∧ (q.word 1).toNat = g.round
        ((∀ q ∈ s.inbox, ¬ mine q) → exec .abortMessage s = .next s) ∧
        ∀ l q m, s.inbox = l ++ q :: m → (∀ p ∈ l, ¬ mine p) → mine q → exec .abortMessage s =
          (let k := BitVec.ofNat 8 (bits (q.word 0) 16 8)
           .next (scrivener ((s.partialResult f r).endRound f d k) 0x30 g.part 0 0 [k.toNat, bits (q.word 0) 32 32]))))

/-- A partition's time slot serves the requests of its owner that wait for the channel, or where it is donated those of
the next partition in turn; a maintenance slot gives the remap engine its turn on the stack that retires, else the Fuller
its own. A request meets its line: it is served, waits, is bounced to be sent again under the new phase, or is dropped at
a dead stack; at a stack that no longer answers it waits, and one that waits 20,000 cycles of its home die is dropped. A
retirement starts where the survivors have room, raising the phase, and ends when every line is Done and no request or packet
of the old phase is left; else a healthy stack is failing. A dead stack's lines are marked, with the quarantines of lines that
move. A way leaves with its sectors. A disposition retires a lane or takes a core out. A cold reset leaves every context FREE
with its partition's handler addresses, memory zero and the stored image in effect, or the recovery state; a warm reset keeps
memory, time, log, identity, placement and the Scrivener. (R141, R321, R414, R415, R416, R419, R418, R420, R436, R199, R344,
R345)  What a warm reset keeps (DEDUCED, log 50) and what it leaves empty (DEDUCED, log 93), which requests CHANNEL_REQUEST
stands for (DESIGN CHOICE, log 88), when a line counts as Done (DEDUCED, log 89), what the slots of a stack that does not retire
do meanwhile (DEDUCED, log 90), when a retirement can start (DEDUCED, log 91), which cores a reset finds bad (DESIGN CHOICE, log
94), what a disposition does (DEDUCED, log 95), and how a stack that no longer answers is known (DESIGN CHOICE, log 124), are the
model's reading. -/
def Obligations.MemoryAndResetEvents : Prop :=
  ∀ s : State,
    let u := s.settleLines
    let x := s.arg.unit
    let n := s.arg.index
    let slot := s.now % 2048 / 32
    let e := s.slotByte (x * 2048 + n * 64 + slot)
    let kind := e.toNat / 32 % 4
    let c := 32 * x + n
    let gone := stackState u x = .dead ∨ stackState u x = .retired
    let mute := x ∈ u.mute
    ((∀ r, s.retire = some r → ∀ p ∈ r.copying, s.now < p.2) → u = s) ∧
    (16 ≤ x ∨ 32 ≤ n ∨ gone ∨ mute → exec .timeSlotStart s = .next u) ∧
    (∀ k b, let pending := fun (p : Nat) => ∃ q ∈ s.chanReqs, q.part = p ∧ s.waitsForSlot k q = true
      let own := BitVec.toNat b % 16
      (pending own → s.slotServes k b = some own) ∧
      (¬ pending own → b.getLsbD 4 = false → s.slotServes k b = none) ∧
      ∀ p, ¬ pending own → s.slotServes k b = some p → pending p) ∧
    (x < 16 → n < 32 → ¬ gone → ¬ mute →
      (let begun := (look (0, 0) u.serving c).1 = u.now / 32 ∧ ∃ p ∈ u.serving, p.1 = c
       (kind = 0 → begun ∨ u.slotServes c e = none → exec .timeSlotStart s = .next u) ∧
       ∀ p, kind = 0 → ¬ begun → u.slotServes c e = some p →
         let t := { u with serving := put u.serving c (u.now / 32, p)
                           donated := if p = e.toNat % 16 then u.donated else put u.donated c p }
         let mine := fun (q : ChanReq) => q.part == p && t.waitsForSlot c q
         exec .timeSlotStart s = .next ((t.chanReqs.filter mine).foldl State.reach
           { t with chanReqs := t.chanReqs.filter (fun q => !mine q) })) ∧
      (kind ≠ 0 → u.retire = none → exec .timeSlotStart s = .next (if kind = 2 then u.fullerTurn x n else u)) ∧
      ∀ r, kind ≠ 0 → u.retire = some r →
        exec .timeSlotStart s = .next (if r.stack = x ∧ kind = 2 then u.remapTurn r n slot else u)) ∧
    (let p : ChanReq := { pa := s.arg.addr / 8 * 8, skew := x, oldPhase := n != u.mpn.toNat, write := s.arg.words.head?
                          part := s.arg.value.toNat % 16, bounced := false, since := 0 }
     let k := u.chanOfReq p
     let q := { p with since := u.cycles (homeDie (k / 32) (k % 32)) }
     exec .channelRequest s = .next (if u.inMemory q.pa = false ∧ hbmTop ≤ q.pa ∨ 3 ≤ x then u
       else if q.oldPhase = true ∧ (u.retire = none ∨ BitVec.ofNat 16 n + 1 ≠ u.mpn) then u
       else if s.arg.list = [] then u.reqArrives q
       else { u with
         chanReqs := u.chanReqs ++ [q]
         mute := if q.pa < hbmTop then setIns u.mute (k / 32) else u.mute })) ∧
    (∀ q : ChanReq, s.reqArrives q = if 0x10000000000 ≤ q.pa ∨ s.fateOf q = .dropped ∨ s.fateOf q = .bounced ∨
        (∃ p ∈ s.serving, p.1 = s.chanOfReq q ∧ p.2 = (s.now / 32, q.part)) ∧ s.chanOfReq q / 32 ∉ s.mute then s.reach q
      else { s with chanReqs := s.chanReqs ++ [q] }) ∧
    (∀ q : ChanReq, s.reach q = match s.fateOf q with
      | .served => s.performReq q s.arg.flag
      | .dropped => s
      | .stalled => { s with chanReqs := s.chanReqs ++ [q] }
      | .bounced => { s with chanReqs := s.chanReqs ++ [{ q with bounced := true }] }) ∧
    (let all := List.range s.chanReqs.length
     let l := all.filter (fun k => s.arg.list.contains k && (match s.chanReqs[k]? with
       | some q => q.bounced
       | none => false))
     let get := fun (k : Nat) => (s.chanReqs[k]?).toList
     exec .bounceReceived s = .next ((l.flatMap get).foldl
       (fun t q => t.reqArrives { q with oldPhase := false, bounced := false })
       { s with chanReqs := (all.filter (fun k => !l.contains k)).flatMap get })) ∧
    (s.chanReqs[n]? = none → exec .stackAnswerTimeout s = .next s) ∧
    (∀ q, s.chanReqs[n]? = some q →
      let die := homeDie (s.chanOfReq q / 32) (s.chanOfReq q % 32)
      exec .stackAnswerTimeout s = .next (if q.since + 20000 * 3300 ≤ s.cycles die then
        { s with chanReqs := s.chanReqs.take n ++ s.chanReqs.drop (n + 1) } else s)) ∧
    exec .stackRetirementStart s = .next (if s.mayRetire x = true then s.startRetirement x .retiring
      else if x < 16 ∧ stackState s x = .healthy then { s with stackSt := put s.stackSt x .failing } else s) ∧
    (s.mayRetire x = true → ∀ st, let t := s.startRetirement x st
      t.mpn = s.mpn + 1 ∧ t.slotPrev = s.slotCur ∧ t.slotCur = s.moveTable x ∧ stackState t x = st ∧ t.mem = s.mem ∧
        t.retire = some { stack := x, pos := [], copying := [], start := s.now }) ∧
    (u.retire = none → exec .retirementEnd s = .next u) ∧
    (∀ r, u.retire = some r →
      let ended := (∀ ch < 32, movingLines ≤ look 0 r.pos ch) ∧ (∀ q ∈ u.chanReqs, q.oldPhase = false) ∧
        ∀ e ∈ u.ctxs, ∀ k, e.2.elemCap = some k → k.mpn = u.mpn
      (¬ ended → exec .retirementEnd s = .next u) ∧
      (ended → ∃ t : State, exec .retirementEnd s = .next t ∧
        t = { u with slotCur := t.slotCur, slotPrev := t.slotCur, retire := none, quar := t.quar, stored := t.stored,
                     stackSt := t.stackSt, scriv := t.scriv, scrivNext := u.scrivNext + 1 } ∧
        t.stored = { u.stored with retired := setIns u.stored.retired r.stack } ∧
        t.slotCur = u.slotCur.map (fun e => (e.1, settledEntry e.2)) ∧
        stackState t r.stack = (if stackState u r.stack = .dead then .dead else .retired))) ∧
    (16 ≤ x ∨ gone → exec .stackDead s = .next { u with mute := u.mute.filter (· != x) }) ∧
    (x < 16 → ¬ gone →
      let note := fun (t : State) => scrivener t 6 0xFF x 0 [t.mpn.toNat]
      let u := { u with mute := u.mute.filter (· != x) }
      let t := u.startRetirement x .dead
      (u.mayRetire x = true →
        exec .stackDead s = .next (note (t.dieMoving { stack := x, pos := [], copying := [], start := u.now }))) ∧
      (u.mayRetire x = false → u.retire = none → exec .stackDead s = .next (note (u.dieInPlace x))) ∧
      ∀ r, u.mayRetire x = false → u.retire = some r → exec .stackDead s =
        .next (note (if r.stack = x then State.dieMoving { u with stackSt := put u.stackSt x .dead } r else u.dieInPlace x))) ∧
    (let b := s.arg.flag
     let k := s.cluster x
     let way := s.arg.addr
     let id := if b then 8 * x + n else coreOf x n
     let unit := if b then l2Unit id way else l1Unit id way
     let core := if b then coreOf x 0 else coreOf x n
     let used := if b then k.l2Spares / 2 ^ n % 2 = 1 else k.l1Spares / 2 ^ n % 2 = 1
     let bad := 32 ≤ x ∨ (if b then 8 else 16) ≤ n ∨ 12 ≤ way ∨ unit ∈ k.waysOut
     (bad → exec .wayRetirement s = .next s) ∧
     (¬ bad → exec .wayRetirement s = .next (scrivener ((s.emptyWay b id way).setCluster x
       (if used then { k with waysGated := k.waysGated + 1, waysOut := setIns k.waysOut unit }
        else if b then { k with l2Spares := k.l2Spares + 2 ^ n } else { k with l1Spares := k.l1Spares + 2 ^ n }))
       0x14 0xFF (core / 32 + core % 32 * 0x100 + x * 0x10000) 0 [bit (!decide used)])) ∧
     s.emptyWay false id way = { s with l1 := s.l1.filter (fun e => !(e.core == id && e.way == way)) }) ∧
    (let k := s.cluster x
     let t := { s with stored := { s.stored with disposition := s.stored.disposition ||| BitVec.ofNat 5 (2 ^ n) } }
     exec .dispositionSet s = .next (if n < 3 then
         (if x < 32 ∧ s.arg.addr < 512 then (if s.arg.addr ∈ k.missing then t
           else (t.setCluster x { k with retiring := setIns k.retiring s.arg.addr }).poolStep x) else s)
       else if n < 5 ∧ x < 512 then t.coreOut x else s)) ∧
    (∃ t : State, exec .coldReset s = .next t ∧ (s.arg.flag = true → ∀ c, t.ctx c = Ctx.reset) ∧ (∀ r, t.lrec r = LRec.reset) ∧ t.boxes = [] ∧
      t.tdisp = [] ∧ t.now = 0 ∧ t.posted = [] ∧ t.wlog = [] ∧ t.mpn = 0 ∧ t.stored = s.stored ∧ t.recovery = s.arg.flag ∧
      t.out = s.out ∧
      (s.arg.flag = false → t.ctxs = imageCtxs s.stored ∧ t.mute = [] ∧ t.img = s.stored ∧ t.mem = [] ∧ t.synd = [] ∧ t.modId = BitVec.ofNat 20 s.arg.addr ∧
        t.memberId = BitVec.ofNat 10 n ∧ t.ports = imagePorts s.stored ∧ t.power = s.stored.shares) ∧
      (s.arg.flag = true → t.mem = s.mem ∧ t.synd = s.synd)) ∧
    (∀ i c, let t : State := { State.reset with ctxs := imageCtxs i }
      (t.ctx c).run = .free ∧
        (c < 2048 → ∀ d, i.parts.find? (fun d => inRect d.cores (c / 4)) = some d →
          t.ctx c = { Ctx.reset with st := { TrapRegs.reset with vec := d.stvec &&& ~~~3 }
                                     ft := { TrapRegs.reset with vec := d.ftvec &&& ~~~3 } }) ∧
        ((∀ d ∈ i.parts, inRect d.cores (c / 4) = false) → t.ctx c = Ctx.reset)) ∧
    ∃ t : State, exec .warmReset s = .next t ∧ t.ctxs = imageCtxs u.img ∧ t.mute = u.mute ∧ (∀ r, t.lrec r = LRec.reset) ∧ t.boxes = [] ∧
      t.tdisp = [] ∧ t.posted = [] ∧ t.chanReqs = [] ∧ t.now = u.now ∧ t.wlog = u.wlog ∧ t.mpn = u.mpn ∧
      t.slotCur = u.slotCur ∧ t.slotPrev = u.slotPrev ∧ t.capg = u.capg ∧ t.poison = u.poison ∧ t.quar = u.quar ∧
      t.bulk = u.bulk ∧ t.img = u.img ∧ t.recovery = s.arg.flag ∧ t.modId = u.modId ∧ t.memberId = u.memberId ∧
      t.ports = imagePorts u.img ∧ t.retire = u.retire.map (fun r => { r with copying := [] }) ∧
      (∀ k, readByte t.mem k = if memoryKey k then readByte u.mem k else 0) ∧
      (s.arg.list = [] → t.scriv = u.scriv ∧ t.scrivNext = u.scrivNext)
end

