-- ==== Sys2Proof/Laws/State.lean ====
section
/-!
SUPPORT. What each named update of the state changes and what it leaves, field by field, and reading a table after a
write.
-/

namespace Sys2Proof

/-- A key that was just set. -/
@[simp] theorem look_put_self {α : Type} (d : α) (m : Table α) (k : Nat) (v : α) : look d (put m k v) k = v := by
  induction m with
  | nil => simp [put, look]
  | cons e m ih =>
    obtain ⟨j, w⟩ := e
    by_cases h1 : k < j
    · simp [put, look, h1]
    · by_cases h2 : j = k
      · simp [put, look, h2]
      · simp [put, look, h1, h2, ih]

/-- Another key. -/
@[simp] theorem look_put_ne {α : Type} (d : α) (m : Table α) {k a : Nat} (v : α) (h : a ≠ k) :
    look d (put m k v) a = look d m a := by
  induction m with
  | nil => simp [put, look, Ne.symm h]
  | cons e m ih =>
    obtain ⟨j, w⟩ := e
    by_cases h1 : k < j
    · simp [put, look, h1, Ne.symm h]
    · by_cases h2 : j = k
      · simp [put, look, h2, Ne.symm h]
      · by_cases h3 : j = a
        · subst h3; simp [put, look, h1, h2]
        · simp [put, look, h1, h2, h3, ih]

/-- Any key. -/
theorem look_put {α : Type} (d : α) (m : Table α) (k a : Nat) (v : α) :
    look d (put m k v) a = if a = k then v else look d m a := by
  by_cases h : a = k
  · subst h; simp
  · simp [h]

end Sys2Proof

namespace Sys2Proof.Machine

/-! ### `setCtx` -/

@[simp] theorem State.setCtx_agenda (s : State) (c : Nat) (x : Ctx) : (s.setCtx c x).agenda = s.agenda := rfl
@[simp] theorem State.setCtx_arg (s : State) (c : Nat) (x : Ctx) : (s.setCtx c x).arg = s.arg := rfl
@[simp] theorem State.setCtx_cur (s : State) (c : Nat) (x : Ctx) : (s.setCtx c x).cur = s.cur := rfl
@[simp] theorem State.setCtx_curMt (s : State) (c : Nat) (x : Ctx) : (s.setCtx c x).curMt = s.curMt := rfl
@[simp] theorem State.setCtx_rr (s : State) (c : Nat) (x : Ctx) : (s.setCtx c x).rr = s.rr := rfl
@[simp] theorem State.setCtx_freeN (s : State) (c : Nat) (x : Ctx) : (s.setCtx c x).freeN = s.freeN := rfl
@[simp] theorem State.setCtx_now (s : State) (c : Nat) (x : Ctx) : (s.setCtx c x).now = s.now := rfl
@[simp] theorem State.setCtx_mts (s : State) (c : Nat) (x : Ctx) : (s.setCtx c x).mts = s.mts := rfl
@[simp] theorem State.setCtx_clusters (s : State) (c : Nat) (x : Ctx) : (s.setCtx c x).clusters = s.clusters := rfl
@[simp] theorem State.setCtx_lfsr (s : State) (c : Nat) (x : Ctx) : (s.setCtx c x).lfsr = s.lfsr := rfl
@[simp] theorem State.setCtx_icache (s : State) (c : Nat) (x : Ctx) : (s.setCtx c x).icache = s.icache := rfl
@[simp] theorem State.setCtx_fbuf (s : State) (c : Nat) (x : Ctx) : (s.setCtx c x).fbuf = s.fbuf := rfl
@[simp] theorem State.setCtx_tlb (s : State) (c : Nat) (x : Ctx) : (s.setCtx c x).tlb = s.tlb := rfl
@[simp] theorem State.setCtx_l1 (s : State) (c : Nat) (x : Ctx) : (s.setCtx c x).l1 = s.l1 := rfl
@[simp] theorem State.setCtx_l2 (s : State) (c : Nat) (x : Ctx) : (s.setCtx c x).l2 = s.l2 := rfl
@[simp] theorem State.setCtx_heldSectors (s : State) (c : Nat) (x : Ctx) : (s.setCtx c x).heldSectors = s.heldSectors := rfl
@[simp] theorem State.setCtx_mem (s : State) (c : Nat) (x : Ctx) : (s.setCtx c x).mem = s.mem := rfl
@[simp] theorem State.setCtx_synd (s : State) (c : Nat) (x : Ctx) : (s.setCtx c x).synd = s.synd := rfl
@[simp] theorem State.setCtx_hubSynd (s : State) (c : Nat) (x : Ctx) : (s.setCtx c x).hubSynd = s.hubSynd := rfl
@[simp] theorem State.setCtx_marks (s : State) (c : Nat) (x : Ctx) : (s.setCtx c x).marks = s.marks := rfl
@[simp] theorem State.setCtx_bad (s : State) (c : Nat) (x : Ctx) : (s.setCtx c x).bad = s.bad := rfl
@[simp] theorem State.setCtx_poison (s : State) (c : Nat) (x : Ctx) : (s.setCtx c x).poison = s.poison := rfl
@[simp] theorem State.setCtx_quar (s : State) (c : Nat) (x : Ctx) : (s.setCtx c x).quar = s.quar := rfl
@[simp] theorem State.setCtx_quarChan (s : State) (c : Nat) (x : Ctx) : (s.setCtx c x).quarChan = s.quarChan := rfl
@[simp] theorem State.setCtx_bulk (s : State) (c : Nat) (x : Ctx) : (s.setCtx c x).bulk = s.bulk := rfl
@[simp] theorem State.setCtx_wlog (s : State) (c : Nat) (x : Ctx) : (s.setCtx c x).wlog = s.wlog := rfl
@[simp] theorem State.setCtx_posted (s : State) (c : Nat) (x : Ctx) : (s.setCtx c x).posted = s.posted := rfl
@[simp] theorem State.setCtx_wbuf (s : State) (c : Nat) (x : Ctx) : (s.setCtx c x).wbuf = s.wbuf := rfl
@[simp] theorem State.setCtx_lateWords (s : State) (c : Nat) (x : Ctx) : (s.setCtx c x).lateWords = s.lateWords := rfl
@[simp] theorem State.setCtx_slotCur (s : State) (c : Nat) (x : Ctx) : (s.setCtx c x).slotCur = s.slotCur := rfl
@[simp] theorem State.setCtx_slotPrev (s : State) (c : Nat) (x : Ctx) : (s.setCtx c x).slotPrev = s.slotPrev := rfl
@[simp] theorem State.setCtx_mpn (s : State) (c : Nat) (x : Ctx) : (s.setCtx c x).mpn = s.mpn := rfl
@[simp] theorem State.setCtx_capg (s : State) (c : Nat) (x : Ctx) : (s.setCtx c x).capg = s.capg := rfl
@[simp] theorem State.setCtx_stackSt (s : State) (c : Nat) (x : Ctx) : (s.setCtx c x).stackSt = s.stackSt := rfl
@[simp] theorem State.setCtx_retire (s : State) (c : Nat) (x : Ctx) : (s.setCtx c x).retire = s.retire := rfl
@[simp] theorem State.setCtx_chanReqs (s : State) (c : Nat) (x : Ctx) : (s.setCtx c x).chanReqs = s.chanReqs := rfl
@[simp] theorem State.setCtx_scrubs (s : State) (c : Nat) (x : Ctx) : (s.setCtx c x).scrubs = s.scrubs := rfl
@[simp] theorem State.setCtx_fuller (s : State) (c : Nat) (x : Ctx) : (s.setCtx c x).fuller = s.fuller := rfl
@[simp] theorem State.setCtx_slotTab (s : State) (c : Nat) (x : Ctx) : (s.setCtx c x).slotTab = s.slotTab := rfl
@[simp] theorem State.setCtx_donated (s : State) (c : Nat) (x : Ctx) : (s.setCtx c x).donated = s.donated := rfl
@[simp] theorem State.setCtx_serving (s : State) (c : Nat) (x : Ctx) : (s.setCtx c x).serving = s.serving := rfl
@[simp] theorem State.setCtx_recs (s : State) (c : Nat) (x : Ctx) : (s.setCtx c x).recs = s.recs := rfl
@[simp] theorem State.setCtx_armCount (s : State) (c : Nat) (x : Ctx) : (s.setCtx c x).armCount = s.armCount := rfl
@[simp] theorem State.setCtx_boxes (s : State) (c : Nat) (x : Ctx) : (s.setCtx c x).boxes = s.boxes := rfl
@[simp] theorem State.setCtx_scriv (s : State) (c : Nat) (x : Ctx) : (s.setCtx c x).scriv = s.scriv := rfl
@[simp] theorem State.setCtx_scrivNext (s : State) (c : Nat) (x : Ctx) : (s.setCtx c x).scrivNext = s.scrivNext := rfl
@[simp] theorem State.setCtx_saveRegs (s : State) (c : Nat) (x : Ctx) : (s.setCtx c x).saveRegs = s.saveRegs := rfl
@[simp] theorem State.setCtx_snapRegs (s : State) (c : Nat) (x : Ctx) : (s.setCtx c x).snapRegs = s.snapRegs := rfl
@[simp] theorem State.setCtx_prqs (s : State) (c : Nat) (x : Ctx) : (s.setCtx c x).prqs = s.prqs := rfl
@[simp] theorem State.setCtx_members (s : State) (c : Nat) (x : Ctx) : (s.setCtx c x).members = s.members := rfl
@[simp] theorem State.setCtx_groups (s : State) (c : Nat) (x : Ctx) : (s.setCtx c x).groups = s.groups := rfl
@[simp] theorem State.setCtx_ports (s : State) (c : Nat) (x : Ctx) : (s.setCtx c x).ports = s.ports := rfl
@[simp] theorem State.setCtx_tdisp (s : State) (c : Nat) (x : Ctx) : (s.setCtx c x).tdisp = s.tdisp := rfl
@[simp] theorem State.setCtx_out (s : State) (c : Nat) (x : Ctx) : (s.setCtx c x).out = s.out := rfl
@[simp] theorem State.setCtx_img (s : State) (c : Nat) (x : Ctx) : (s.setCtx c x).img = s.img := rfl
@[simp] theorem State.setCtx_stored (s : State) (c : Nat) (x : Ctx) : (s.setCtx c x).stored = s.stored := rfl
@[simp] theorem State.setCtx_recovery (s : State) (c : Nat) (x : Ctx) : (s.setCtx c x).recovery = s.recovery := rfl
@[simp] theorem State.setCtx_modId (s : State) (c : Nat) (x : Ctx) : (s.setCtx c x).modId = s.modId := rfl
@[simp] theorem State.setCtx_memberId (s : State) (c : Nat) (x : Ctx) : (s.setCtx c x).memberId = s.memberId := rfl
@[simp] theorem State.setCtx_emuQ (s : State) (c : Nat) (x : Ctx) : (s.setCtx c x).emuQ = s.emuQ := rfl
@[simp] theorem State.setCtx_clocks (s : State) (c : Nat) (x : Ctx) : (s.setCtx c x).clocks = s.clocks := rfl
@[simp] theorem State.setCtx_clockBase (s : State) (c : Nat) (x : Ctx) : (s.setCtx c x).clockBase = s.clockBase := rfl
@[simp] theorem State.setCtx_power (s : State) (c : Nat) (x : Ctx) : (s.setCtx c x).power = s.power := rfl
@[simp] theorem State.setCtx_pressure (s : State) (c : Nat) (x : Ctx) : (s.setCtx c x).pressure = s.pressure := rfl
@[simp] theorem State.setCtx_hops (s : State) (c : Nat) (x : Ctx) : (s.setCtx c x).hops = s.hops := rfl
@[simp] theorem State.setCtx_aged (s : State) (c : Nat) (x : Ctx) : (s.setCtx c x).aged = s.aged := rfl
@[simp] theorem State.setCtx_asleep (s : State) (c : Nat) (x : Ctx) : (s.setCtx c x).asleep = s.asleep := rfl
@[simp] theorem State.setCtx_hostq (s : State) (c : Nat) (x : Ctx) : (s.setCtx c x).hostq = s.hostq := rfl
@[simp] theorem State.setCtx_rxq (s : State) (c : Nat) (x : Ctx) : (s.setCtx c x).rxq = s.rxq := rfl
@[simp] theorem State.setCtx_rxPart (s : State) (c : Nat) (x : Ctx) : (s.setCtx c x).rxPart = s.rxPart := rfl
@[simp] theorem State.setCtx_pend (s : State) (c : Nat) (x : Ctx) : (s.setCtx c x).pend = s.pend := rfl
@[simp] theorem State.setCtx_inbox (s : State) (c : Nat) (x : Ctx) : (s.setCtx c x).inbox = s.inbox := rfl
@[simp] theorem State.setCtx_mute (s : State) (c : Nat) (x : Ctx) : (s.setCtx c x).mute = s.mute := rfl
@[simp] theorem State.setCtx_bars (s : State) (c : Nat) (x : Ctx) : (s.setCtx c x).bars = s.bars := rfl

/-! ### `setMe` -/

@[simp] theorem State.setMe_agenda (s : State) (x : Ctx) : (s.setMe x).agenda = s.agenda := rfl
@[simp] theorem State.setMe_arg (s : State) (x : Ctx) : (s.setMe x).arg = s.arg := rfl
@[simp] theorem State.setMe_cur (s : State) (x : Ctx) : (s.setMe x).cur = s.cur := rfl
@[simp] theorem State.setMe_curMt (s : State) (x : Ctx) : (s.setMe x).curMt = s.curMt := rfl
@[simp] theorem State.setMe_rr (s : State) (x : Ctx) : (s.setMe x).rr = s.rr := rfl
@[simp] theorem State.setMe_freeN (s : State) (x : Ctx) : (s.setMe x).freeN = s.freeN := rfl
@[simp] theorem State.setMe_now (s : State) (x : Ctx) : (s.setMe x).now = s.now := rfl
@[simp] theorem State.setMe_mts (s : State) (x : Ctx) : (s.setMe x).mts = s.mts := rfl
@[simp] theorem State.setMe_clusters (s : State) (x : Ctx) : (s.setMe x).clusters = s.clusters := rfl
@[simp] theorem State.setMe_lfsr (s : State) (x : Ctx) : (s.setMe x).lfsr = s.lfsr := rfl
@[simp] theorem State.setMe_icache (s : State) (x : Ctx) : (s.setMe x).icache = s.icache := rfl
@[simp] theorem State.setMe_fbuf (s : State) (x : Ctx) : (s.setMe x).fbuf = s.fbuf := rfl
@[simp] theorem State.setMe_tlb (s : State) (x : Ctx) : (s.setMe x).tlb = s.tlb := rfl
@[simp] theorem State.setMe_l1 (s : State) (x : Ctx) : (s.setMe x).l1 = s.l1 := rfl
@[simp] theorem State.setMe_l2 (s : State) (x : Ctx) : (s.setMe x).l2 = s.l2 := rfl
@[simp] theorem State.setMe_heldSectors (s : State) (x : Ctx) : (s.setMe x).heldSectors = s.heldSectors := rfl
@[simp] theorem State.setMe_mem (s : State) (x : Ctx) : (s.setMe x).mem = s.mem := rfl
@[simp] theorem State.setMe_synd (s : State) (x : Ctx) : (s.setMe x).synd = s.synd := rfl
@[simp] theorem State.setMe_hubSynd (s : State) (x : Ctx) : (s.setMe x).hubSynd = s.hubSynd := rfl
@[simp] theorem State.setMe_marks (s : State) (x : Ctx) : (s.setMe x).marks = s.marks := rfl
@[simp] theorem State.setMe_bad (s : State) (x : Ctx) : (s.setMe x).bad = s.bad := rfl
@[simp] theorem State.setMe_poison (s : State) (x : Ctx) : (s.setMe x).poison = s.poison := rfl
@[simp] theorem State.setMe_quar (s : State) (x : Ctx) : (s.setMe x).quar = s.quar := rfl
@[simp] theorem State.setMe_quarChan (s : State) (x : Ctx) : (s.setMe x).quarChan = s.quarChan := rfl
@[simp] theorem State.setMe_bulk (s : State) (x : Ctx) : (s.setMe x).bulk = s.bulk := rfl
@[simp] theorem State.setMe_wlog (s : State) (x : Ctx) : (s.setMe x).wlog = s.wlog := rfl
@[simp] theorem State.setMe_posted (s : State) (x : Ctx) : (s.setMe x).posted = s.posted := rfl
@[simp] theorem State.setMe_wbuf (s : State) (x : Ctx) : (s.setMe x).wbuf = s.wbuf := rfl
@[simp] theorem State.setMe_lateWords (s : State) (x : Ctx) : (s.setMe x).lateWords = s.lateWords := rfl
@[simp] theorem State.setMe_slotCur (s : State) (x : Ctx) : (s.setMe x).slotCur = s.slotCur := rfl
@[simp] theorem State.setMe_slotPrev (s : State) (x : Ctx) : (s.setMe x).slotPrev = s.slotPrev := rfl
@[simp] theorem State.setMe_mpn (s : State) (x : Ctx) : (s.setMe x).mpn = s.mpn := rfl
@[simp] theorem State.setMe_capg (s : State) (x : Ctx) : (s.setMe x).capg = s.capg := rfl
@[simp] theorem State.setMe_stackSt (s : State) (x : Ctx) : (s.setMe x).stackSt = s.stackSt := rfl
@[simp] theorem State.setMe_retire (s : State) (x : Ctx) : (s.setMe x).retire = s.retire := rfl
@[simp] theorem State.setMe_chanReqs (s : State) (x : Ctx) : (s.setMe x).chanReqs = s.chanReqs := rfl
@[simp] theorem State.setMe_scrubs (s : State) (x : Ctx) : (s.setMe x).scrubs = s.scrubs := rfl
@[simp] theorem State.setMe_fuller (s : State) (x : Ctx) : (s.setMe x).fuller = s.fuller := rfl
@[simp] theorem State.setMe_slotTab (s : State) (x : Ctx) : (s.setMe x).slotTab = s.slotTab := rfl
@[simp] theorem State.setMe_donated (s : State) (x : Ctx) : (s.setMe x).donated = s.donated := rfl
@[simp] theorem State.setMe_serving (s : State) (x : Ctx) : (s.setMe x).serving = s.serving := rfl
@[simp] theorem State.setMe_recs (s : State) (x : Ctx) : (s.setMe x).recs = s.recs := rfl
@[simp] theorem State.setMe_armCount (s : State) (x : Ctx) : (s.setMe x).armCount = s.armCount := rfl
@[simp] theorem State.setMe_boxes (s : State) (x : Ctx) : (s.setMe x).boxes = s.boxes := rfl
@[simp] theorem State.setMe_scriv (s : State) (x : Ctx) : (s.setMe x).scriv = s.scriv := rfl
@[simp] theorem State.setMe_scrivNext (s : State) (x : Ctx) : (s.setMe x).scrivNext = s.scrivNext := rfl
@[simp] theorem State.setMe_saveRegs (s : State) (x : Ctx) : (s.setMe x).saveRegs = s.saveRegs := rfl
@[simp] theorem State.setMe_snapRegs (s : State) (x : Ctx) : (s.setMe x).snapRegs = s.snapRegs := rfl
@[simp] theorem State.setMe_prqs (s : State) (x : Ctx) : (s.setMe x).prqs = s.prqs := rfl
@[simp] theorem State.setMe_members (s : State) (x : Ctx) : (s.setMe x).members = s.members := rfl
@[simp] theorem State.setMe_groups (s : State) (x : Ctx) : (s.setMe x).groups = s.groups := rfl
@[simp] theorem State.setMe_ports (s : State) (x : Ctx) : (s.setMe x).ports = s.ports := rfl
@[simp] theorem State.setMe_tdisp (s : State) (x : Ctx) : (s.setMe x).tdisp = s.tdisp := rfl
@[simp] theorem State.setMe_out (s : State) (x : Ctx) : (s.setMe x).out = s.out := rfl
@[simp] theorem State.setMe_img (s : State) (x : Ctx) : (s.setMe x).img = s.img := rfl
@[simp] theorem State.setMe_stored (s : State) (x : Ctx) : (s.setMe x).stored = s.stored := rfl
@[simp] theorem State.setMe_recovery (s : State) (x : Ctx) : (s.setMe x).recovery = s.recovery := rfl
@[simp] theorem State.setMe_modId (s : State) (x : Ctx) : (s.setMe x).modId = s.modId := rfl
@[simp] theorem State.setMe_memberId (s : State) (x : Ctx) : (s.setMe x).memberId = s.memberId := rfl
@[simp] theorem State.setMe_emuQ (s : State) (x : Ctx) : (s.setMe x).emuQ = s.emuQ := rfl
@[simp] theorem State.setMe_clocks (s : State) (x : Ctx) : (s.setMe x).clocks = s.clocks := rfl
@[simp] theorem State.setMe_clockBase (s : State) (x : Ctx) : (s.setMe x).clockBase = s.clockBase := rfl
@[simp] theorem State.setMe_power (s : State) (x : Ctx) : (s.setMe x).power = s.power := rfl
@[simp] theorem State.setMe_pressure (s : State) (x : Ctx) : (s.setMe x).pressure = s.pressure := rfl
@[simp] theorem State.setMe_hops (s : State) (x : Ctx) : (s.setMe x).hops = s.hops := rfl
@[simp] theorem State.setMe_aged (s : State) (x : Ctx) : (s.setMe x).aged = s.aged := rfl
@[simp] theorem State.setMe_asleep (s : State) (x : Ctx) : (s.setMe x).asleep = s.asleep := rfl
@[simp] theorem State.setMe_hostq (s : State) (x : Ctx) : (s.setMe x).hostq = s.hostq := rfl
@[simp] theorem State.setMe_rxq (s : State) (x : Ctx) : (s.setMe x).rxq = s.rxq := rfl
@[simp] theorem State.setMe_rxPart (s : State) (x : Ctx) : (s.setMe x).rxPart = s.rxPart := rfl
@[simp] theorem State.setMe_pend (s : State) (x : Ctx) : (s.setMe x).pend = s.pend := rfl
@[simp] theorem State.setMe_inbox (s : State) (x : Ctx) : (s.setMe x).inbox = s.inbox := rfl
@[simp] theorem State.setMe_mute (s : State) (x : Ctx) : (s.setMe x).mute = s.mute := rfl
@[simp] theorem State.setMe_bars (s : State) (x : Ctx) : (s.setMe x).bars = s.bars := rfl

/-! ### `setMt` -/

@[simp] theorem State.setMt_agenda (s : State) (c i : Nat) (m : Mt) : (s.setMt c i m).agenda = s.agenda := rfl
@[simp] theorem State.setMt_arg (s : State) (c i : Nat) (m : Mt) : (s.setMt c i m).arg = s.arg := rfl
@[simp] theorem State.setMt_cur (s : State) (c i : Nat) (m : Mt) : (s.setMt c i m).cur = s.cur := rfl
@[simp] theorem State.setMt_curMt (s : State) (c i : Nat) (m : Mt) : (s.setMt c i m).curMt = s.curMt := rfl
@[simp] theorem State.setMt_rr (s : State) (c i : Nat) (m : Mt) : (s.setMt c i m).rr = s.rr := rfl
@[simp] theorem State.setMt_freeN (s : State) (c i : Nat) (m : Mt) : (s.setMt c i m).freeN = s.freeN := rfl
@[simp] theorem State.setMt_now (s : State) (c i : Nat) (m : Mt) : (s.setMt c i m).now = s.now := rfl
@[simp] theorem State.setMt_ctxs (s : State) (c i : Nat) (m : Mt) : (s.setMt c i m).ctxs = s.ctxs := rfl
@[simp] theorem State.setMt_clusters (s : State) (c i : Nat) (m : Mt) : (s.setMt c i m).clusters = s.clusters := rfl
@[simp] theorem State.setMt_lfsr (s : State) (c i : Nat) (m : Mt) : (s.setMt c i m).lfsr = s.lfsr := rfl
@[simp] theorem State.setMt_icache (s : State) (c i : Nat) (m : Mt) : (s.setMt c i m).icache = s.icache := rfl
@[simp] theorem State.setMt_fbuf (s : State) (c i : Nat) (m : Mt) : (s.setMt c i m).fbuf = s.fbuf := rfl
@[simp] theorem State.setMt_tlb (s : State) (c i : Nat) (m : Mt) : (s.setMt c i m).tlb = s.tlb := rfl
@[simp] theorem State.setMt_l1 (s : State) (c i : Nat) (m : Mt) : (s.setMt c i m).l1 = s.l1 := rfl
@[simp] theorem State.setMt_l2 (s : State) (c i : Nat) (m : Mt) : (s.setMt c i m).l2 = s.l2 := rfl
@[simp] theorem State.setMt_heldSectors (s : State) (c i : Nat) (m : Mt) : (s.setMt c i m).heldSectors = s.heldSectors := rfl
@[simp] theorem State.setMt_mem (s : State) (c i : Nat) (m : Mt) : (s.setMt c i m).mem = s.mem := rfl
@[simp] theorem State.setMt_synd (s : State) (c i : Nat) (m : Mt) : (s.setMt c i m).synd = s.synd := rfl
@[simp] theorem State.setMt_hubSynd (s : State) (c i : Nat) (m : Mt) : (s.setMt c i m).hubSynd = s.hubSynd := rfl
@[simp] theorem State.setMt_marks (s : State) (c i : Nat) (m : Mt) : (s.setMt c i m).marks = s.marks := rfl
@[simp] theorem State.setMt_bad (s : State) (c i : Nat) (m : Mt) : (s.setMt c i m).bad = s.bad := rfl
@[simp] theorem State.setMt_poison (s : State) (c i : Nat) (m : Mt) : (s.setMt c i m).poison = s.poison := rfl
@[simp] theorem State.setMt_quar (s : State) (c i : Nat) (m : Mt) : (s.setMt c i m).quar = s.quar := rfl
@[simp] theorem State.setMt_quarChan (s : State) (c i : Nat) (m : Mt) : (s.setMt c i m).quarChan = s.quarChan := rfl
@[simp] theorem State.setMt_bulk (s : State) (c i : Nat) (m : Mt) : (s.setMt c i m).bulk = s.bulk := rfl
@[simp] theorem State.setMt_wlog (s : State) (c i : Nat) (m : Mt) : (s.setMt c i m).wlog = s.wlog := rfl
@[simp] theorem State.setMt_posted (s : State) (c i : Nat) (m : Mt) : (s.setMt c i m).posted = s.posted := rfl
@[simp] theorem State.setMt_wbuf (s : State) (c i : Nat) (m : Mt) : (s.setMt c i m).wbuf = s.wbuf := rfl
@[simp] theorem State.setMt_lateWords (s : State) (c i : Nat) (m : Mt) : (s.setMt c i m).lateWords = s.lateWords := rfl
@[simp] theorem State.setMt_slotCur (s : State) (c i : Nat) (m : Mt) : (s.setMt c i m).slotCur = s.slotCur := rfl
@[simp] theorem State.setMt_slotPrev (s : State) (c i : Nat) (m : Mt) : (s.setMt c i m).slotPrev = s.slotPrev := rfl
@[simp] theorem State.setMt_mpn (s : State) (c i : Nat) (m : Mt) : (s.setMt c i m).mpn = s.mpn := rfl
@[simp] theorem State.setMt_capg (s : State) (c i : Nat) (m : Mt) : (s.setMt c i m).capg = s.capg := rfl
@[simp] theorem State.setMt_stackSt (s : State) (c i : Nat) (m : Mt) : (s.setMt c i m).stackSt = s.stackSt := rfl
@[simp] theorem State.setMt_retire (s : State) (c i : Nat) (m : Mt) : (s.setMt c i m).retire = s.retire := rfl
@[simp] theorem State.setMt_chanReqs (s : State) (c i : Nat) (m : Mt) : (s.setMt c i m).chanReqs = s.chanReqs := rfl
@[simp] theorem State.setMt_scrubs (s : State) (c i : Nat) (m : Mt) : (s.setMt c i m).scrubs = s.scrubs := rfl
@[simp] theorem State.setMt_fuller (s : State) (c i : Nat) (m : Mt) : (s.setMt c i m).fuller = s.fuller := rfl
@[simp] theorem State.setMt_slotTab (s : State) (c i : Nat) (m : Mt) : (s.setMt c i m).slotTab = s.slotTab := rfl
@[simp] theorem State.setMt_donated (s : State) (c i : Nat) (m : Mt) : (s.setMt c i m).donated = s.donated := rfl
@[simp] theorem State.setMt_serving (s : State) (c i : Nat) (m : Mt) : (s.setMt c i m).serving = s.serving := rfl
@[simp] theorem State.setMt_recs (s : State) (c i : Nat) (m : Mt) : (s.setMt c i m).recs = s.recs := rfl
@[simp] theorem State.setMt_armCount (s : State) (c i : Nat) (m : Mt) : (s.setMt c i m).armCount = s.armCount := rfl
@[simp] theorem State.setMt_boxes (s : State) (c i : Nat) (m : Mt) : (s.setMt c i m).boxes = s.boxes := rfl
@[simp] theorem State.setMt_scriv (s : State) (c i : Nat) (m : Mt) : (s.setMt c i m).scriv = s.scriv := rfl
@[simp] theorem State.setMt_scrivNext (s : State) (c i : Nat) (m : Mt) : (s.setMt c i m).scrivNext = s.scrivNext := rfl
@[simp] theorem State.setMt_saveRegs (s : State) (c i : Nat) (m : Mt) : (s.setMt c i m).saveRegs = s.saveRegs := rfl
@[simp] theorem State.setMt_snapRegs (s : State) (c i : Nat) (m : Mt) : (s.setMt c i m).snapRegs = s.snapRegs := rfl
@[simp] theorem State.setMt_prqs (s : State) (c i : Nat) (m : Mt) : (s.setMt c i m).prqs = s.prqs := rfl
@[simp] theorem State.setMt_members (s : State) (c i : Nat) (m : Mt) : (s.setMt c i m).members = s.members := rfl
@[simp] theorem State.setMt_groups (s : State) (c i : Nat) (m : Mt) : (s.setMt c i m).groups = s.groups := rfl
@[simp] theorem State.setMt_ports (s : State) (c i : Nat) (m : Mt) : (s.setMt c i m).ports = s.ports := rfl
@[simp] theorem State.setMt_tdisp (s : State) (c i : Nat) (m : Mt) : (s.setMt c i m).tdisp = s.tdisp := rfl
@[simp] theorem State.setMt_out (s : State) (c i : Nat) (m : Mt) : (s.setMt c i m).out = s.out := rfl
@[simp] theorem State.setMt_img (s : State) (c i : Nat) (m : Mt) : (s.setMt c i m).img = s.img := rfl
@[simp] theorem State.setMt_stored (s : State) (c i : Nat) (m : Mt) : (s.setMt c i m).stored = s.stored := rfl
@[simp] theorem State.setMt_recovery (s : State) (c i : Nat) (m : Mt) : (s.setMt c i m).recovery = s.recovery := rfl
@[simp] theorem State.setMt_modId (s : State) (c i : Nat) (m : Mt) : (s.setMt c i m).modId = s.modId := rfl
@[simp] theorem State.setMt_memberId (s : State) (c i : Nat) (m : Mt) : (s.setMt c i m).memberId = s.memberId := rfl
@[simp] theorem State.setMt_emuQ (s : State) (c i : Nat) (m : Mt) : (s.setMt c i m).emuQ = s.emuQ := rfl
@[simp] theorem State.setMt_clocks (s : State) (c i : Nat) (m : Mt) : (s.setMt c i m).clocks = s.clocks := rfl
@[simp] theorem State.setMt_clockBase (s : State) (c i : Nat) (m : Mt) : (s.setMt c i m).clockBase = s.clockBase := rfl
@[simp] theorem State.setMt_power (s : State) (c i : Nat) (m : Mt) : (s.setMt c i m).power = s.power := rfl
@[simp] theorem State.setMt_pressure (s : State) (c i : Nat) (m : Mt) : (s.setMt c i m).pressure = s.pressure := rfl
@[simp] theorem State.setMt_hops (s : State) (c i : Nat) (m : Mt) : (s.setMt c i m).hops = s.hops := rfl
@[simp] theorem State.setMt_aged (s : State) (c i : Nat) (m : Mt) : (s.setMt c i m).aged = s.aged := rfl
@[simp] theorem State.setMt_asleep (s : State) (c i : Nat) (m : Mt) : (s.setMt c i m).asleep = s.asleep := rfl
@[simp] theorem State.setMt_hostq (s : State) (c i : Nat) (m : Mt) : (s.setMt c i m).hostq = s.hostq := rfl
@[simp] theorem State.setMt_rxq (s : State) (c i : Nat) (m : Mt) : (s.setMt c i m).rxq = s.rxq := rfl
@[simp] theorem State.setMt_rxPart (s : State) (c i : Nat) (m : Mt) : (s.setMt c i m).rxPart = s.rxPart := rfl
@[simp] theorem State.setMt_pend (s : State) (c i : Nat) (m : Mt) : (s.setMt c i m).pend = s.pend := rfl
@[simp] theorem State.setMt_inbox (s : State) (c i : Nat) (m : Mt) : (s.setMt c i m).inbox = s.inbox := rfl
@[simp] theorem State.setMt_mute (s : State) (c i : Nat) (m : Mt) : (s.setMt c i m).mute = s.mute := rfl
@[simp] theorem State.setMt_bars (s : State) (c i : Nat) (m : Mt) : (s.setMt c i m).bars = s.bars := rfl

/-! ### `setCluster` -/

@[simp] theorem State.setCluster_agenda (s : State) (k : Nat) (x : Cluster) : (s.setCluster k x).agenda = s.agenda := rfl
@[simp] theorem State.setCluster_arg (s : State) (k : Nat) (x : Cluster) : (s.setCluster k x).arg = s.arg := rfl
@[simp] theorem State.setCluster_cur (s : State) (k : Nat) (x : Cluster) : (s.setCluster k x).cur = s.cur := rfl
@[simp] theorem State.setCluster_curMt (s : State) (k : Nat) (x : Cluster) : (s.setCluster k x).curMt = s.curMt := rfl
@[simp] theorem State.setCluster_rr (s : State) (k : Nat) (x : Cluster) : (s.setCluster k x).rr = s.rr := rfl
@[simp] theorem State.setCluster_freeN (s : State) (k : Nat) (x : Cluster) : (s.setCluster k x).freeN = s.freeN := rfl
@[simp] theorem State.setCluster_now (s : State) (k : Nat) (x : Cluster) : (s.setCluster k x).now = s.now := rfl
@[simp] theorem State.setCluster_ctxs (s : State) (k : Nat) (x : Cluster) : (s.setCluster k x).ctxs = s.ctxs := rfl
@[simp] theorem State.setCluster_mts (s : State) (k : Nat) (x : Cluster) : (s.setCluster k x).mts = s.mts := rfl
@[simp] theorem State.setCluster_lfsr (s : State) (k : Nat) (x : Cluster) : (s.setCluster k x).lfsr = s.lfsr := rfl
@[simp] theorem State.setCluster_icache (s : State) (k : Nat) (x : Cluster) : (s.setCluster k x).icache = s.icache := rfl
@[simp] theorem State.setCluster_fbuf (s : State) (k : Nat) (x : Cluster) : (s.setCluster k x).fbuf = s.fbuf := rfl
@[simp] theorem State.setCluster_tlb (s : State) (k : Nat) (x : Cluster) : (s.setCluster k x).tlb = s.tlb := rfl
@[simp] theorem State.setCluster_l1 (s : State) (k : Nat) (x : Cluster) : (s.setCluster k x).l1 = s.l1 := rfl
@[simp] theorem State.setCluster_l2 (s : State) (k : Nat) (x : Cluster) : (s.setCluster k x).l2 = s.l2 := rfl
@[simp] theorem State.setCluster_heldSectors (s : State) (k : Nat) (x : Cluster) : (s.setCluster k x).heldSectors = s.heldSectors := rfl
@[simp] theorem State.setCluster_mem (s : State) (k : Nat) (x : Cluster) : (s.setCluster k x).mem = s.mem := rfl
@[simp] theorem State.setCluster_synd (s : State) (k : Nat) (x : Cluster) : (s.setCluster k x).synd = s.synd := rfl
@[simp] theorem State.setCluster_hubSynd (s : State) (k : Nat) (x : Cluster) : (s.setCluster k x).hubSynd = s.hubSynd := rfl
@[simp] theorem State.setCluster_marks (s : State) (k : Nat) (x : Cluster) : (s.setCluster k x).marks = s.marks := rfl
@[simp] theorem State.setCluster_bad (s : State) (k : Nat) (x : Cluster) : (s.setCluster k x).bad = s.bad := rfl
@[simp] theorem State.setCluster_poison (s : State) (k : Nat) (x : Cluster) : (s.setCluster k x).poison = s.poison := rfl
@[simp] theorem State.setCluster_quar (s : State) (k : Nat) (x : Cluster) : (s.setCluster k x).quar = s.quar := rfl
@[simp] theorem State.setCluster_quarChan (s : State) (k : Nat) (x : Cluster) : (s.setCluster k x).quarChan = s.quarChan := rfl
@[simp] theorem State.setCluster_bulk (s : State) (k : Nat) (x : Cluster) : (s.setCluster k x).bulk = s.bulk := rfl
@[simp] theorem State.setCluster_wlog (s : State) (k : Nat) (x : Cluster) : (s.setCluster k x).wlog = s.wlog := rfl
@[simp] theorem State.setCluster_posted (s : State) (k : Nat) (x : Cluster) : (s.setCluster k x).posted = s.posted := rfl
@[simp] theorem State.setCluster_wbuf (s : State) (k : Nat) (x : Cluster) : (s.setCluster k x).wbuf = s.wbuf := rfl
@[simp] theorem State.setCluster_lateWords (s : State) (k : Nat) (x : Cluster) : (s.setCluster k x).lateWords = s.lateWords := rfl
@[simp] theorem State.setCluster_slotCur (s : State) (k : Nat) (x : Cluster) : (s.setCluster k x).slotCur = s.slotCur := rfl
@[simp] theorem State.setCluster_slotPrev (s : State) (k : Nat) (x : Cluster) : (s.setCluster k x).slotPrev = s.slotPrev := rfl
@[simp] theorem State.setCluster_mpn (s : State) (k : Nat) (x : Cluster) : (s.setCluster k x).mpn = s.mpn := rfl
@[simp] theorem State.setCluster_capg (s : State) (k : Nat) (x : Cluster) : (s.setCluster k x).capg = s.capg := rfl
@[simp] theorem State.setCluster_stackSt (s : State) (k : Nat) (x : Cluster) : (s.setCluster k x).stackSt = s.stackSt := rfl
@[simp] theorem State.setCluster_retire (s : State) (k : Nat) (x : Cluster) : (s.setCluster k x).retire = s.retire := rfl
@[simp] theorem State.setCluster_chanReqs (s : State) (k : Nat) (x : Cluster) : (s.setCluster k x).chanReqs = s.chanReqs := rfl
@[simp] theorem State.setCluster_scrubs (s : State) (k : Nat) (x : Cluster) : (s.setCluster k x).scrubs = s.scrubs := rfl
@[simp] theorem State.setCluster_fuller (s : State) (k : Nat) (x : Cluster) : (s.setCluster k x).fuller = s.fuller := rfl
@[simp] theorem State.setCluster_slotTab (s : State) (k : Nat) (x : Cluster) : (s.setCluster k x).slotTab = s.slotTab := rfl
@[simp] theorem State.setCluster_donated (s : State) (k : Nat) (x : Cluster) : (s.setCluster k x).donated = s.donated := rfl
@[simp] theorem State.setCluster_serving (s : State) (k : Nat) (x : Cluster) : (s.setCluster k x).serving = s.serving := rfl
@[simp] theorem State.setCluster_recs (s : State) (k : Nat) (x : Cluster) : (s.setCluster k x).recs = s.recs := rfl
@[simp] theorem State.setCluster_armCount (s : State) (k : Nat) (x : Cluster) : (s.setCluster k x).armCount = s.armCount := rfl
@[simp] theorem State.setCluster_boxes (s : State) (k : Nat) (x : Cluster) : (s.setCluster k x).boxes = s.boxes := rfl
@[simp] theorem State.setCluster_scriv (s : State) (k : Nat) (x : Cluster) : (s.setCluster k x).scriv = s.scriv := rfl
@[simp] theorem State.setCluster_scrivNext (s : State) (k : Nat) (x : Cluster) : (s.setCluster k x).scrivNext = s.scrivNext := rfl
@[simp] theorem State.setCluster_saveRegs (s : State) (k : Nat) (x : Cluster) : (s.setCluster k x).saveRegs = s.saveRegs := rfl
@[simp] theorem State.setCluster_snapRegs (s : State) (k : Nat) (x : Cluster) : (s.setCluster k x).snapRegs = s.snapRegs := rfl
@[simp] theorem State.setCluster_prqs (s : State) (k : Nat) (x : Cluster) : (s.setCluster k x).prqs = s.prqs := rfl
@[simp] theorem State.setCluster_members (s : State) (k : Nat) (x : Cluster) : (s.setCluster k x).members = s.members := rfl
@[simp] theorem State.setCluster_groups (s : State) (k : Nat) (x : Cluster) : (s.setCluster k x).groups = s.groups := rfl
@[simp] theorem State.setCluster_ports (s : State) (k : Nat) (x : Cluster) : (s.setCluster k x).ports = s.ports := rfl
@[simp] theorem State.setCluster_tdisp (s : State) (k : Nat) (x : Cluster) : (s.setCluster k x).tdisp = s.tdisp := rfl
@[simp] theorem State.setCluster_out (s : State) (k : Nat) (x : Cluster) : (s.setCluster k x).out = s.out := rfl
@[simp] theorem State.setCluster_img (s : State) (k : Nat) (x : Cluster) : (s.setCluster k x).img = s.img := rfl
@[simp] theorem State.setCluster_stored (s : State) (k : Nat) (x : Cluster) : (s.setCluster k x).stored = s.stored := rfl
@[simp] theorem State.setCluster_recovery (s : State) (k : Nat) (x : Cluster) : (s.setCluster k x).recovery = s.recovery := rfl
@[simp] theorem State.setCluster_modId (s : State) (k : Nat) (x : Cluster) : (s.setCluster k x).modId = s.modId := rfl
@[simp] theorem State.setCluster_memberId (s : State) (k : Nat) (x : Cluster) : (s.setCluster k x).memberId = s.memberId := rfl
@[simp] theorem State.setCluster_emuQ (s : State) (k : Nat) (x : Cluster) : (s.setCluster k x).emuQ = s.emuQ := rfl
@[simp] theorem State.setCluster_clocks (s : State) (k : Nat) (x : Cluster) : (s.setCluster k x).clocks = s.clocks := rfl
@[simp] theorem State.setCluster_clockBase (s : State) (k : Nat) (x : Cluster) : (s.setCluster k x).clockBase = s.clockBase := rfl
@[simp] theorem State.setCluster_power (s : State) (k : Nat) (x : Cluster) : (s.setCluster k x).power = s.power := rfl
@[simp] theorem State.setCluster_pressure (s : State) (k : Nat) (x : Cluster) : (s.setCluster k x).pressure = s.pressure := rfl
@[simp] theorem State.setCluster_hops (s : State) (k : Nat) (x : Cluster) : (s.setCluster k x).hops = s.hops := rfl
@[simp] theorem State.setCluster_aged (s : State) (k : Nat) (x : Cluster) : (s.setCluster k x).aged = s.aged := rfl
@[simp] theorem State.setCluster_asleep (s : State) (k : Nat) (x : Cluster) : (s.setCluster k x).asleep = s.asleep := rfl
@[simp] theorem State.setCluster_hostq (s : State) (k : Nat) (x : Cluster) : (s.setCluster k x).hostq = s.hostq := rfl
@[simp] theorem State.setCluster_rxq (s : State) (k : Nat) (x : Cluster) : (s.setCluster k x).rxq = s.rxq := rfl
@[simp] theorem State.setCluster_rxPart (s : State) (k : Nat) (x : Cluster) : (s.setCluster k x).rxPart = s.rxPart := rfl
@[simp] theorem State.setCluster_pend (s : State) (k : Nat) (x : Cluster) : (s.setCluster k x).pend = s.pend := rfl
@[simp] theorem State.setCluster_inbox (s : State) (k : Nat) (x : Cluster) : (s.setCluster k x).inbox = s.inbox := rfl
@[simp] theorem State.setCluster_mute (s : State) (k : Nat) (x : Cluster) : (s.setCluster k x).mute = s.mute := rfl
@[simp] theorem State.setCluster_bars (s : State) (k : Nat) (x : Cluster) : (s.setCluster k x).bars = s.bars := rfl

/-! ### `setRec` -/

@[simp] theorem State.setRec_agenda (s : State) (r : Nat) (l : LRec) : (s.setRec r l).agenda = s.agenda := rfl
@[simp] theorem State.setRec_arg (s : State) (r : Nat) (l : LRec) : (s.setRec r l).arg = s.arg := rfl
@[simp] theorem State.setRec_cur (s : State) (r : Nat) (l : LRec) : (s.setRec r l).cur = s.cur := rfl
@[simp] theorem State.setRec_curMt (s : State) (r : Nat) (l : LRec) : (s.setRec r l).curMt = s.curMt := rfl
@[simp] theorem State.setRec_rr (s : State) (r : Nat) (l : LRec) : (s.setRec r l).rr = s.rr := rfl
@[simp] theorem State.setRec_freeN (s : State) (r : Nat) (l : LRec) : (s.setRec r l).freeN = s.freeN := rfl
@[simp] theorem State.setRec_now (s : State) (r : Nat) (l : LRec) : (s.setRec r l).now = s.now := rfl
@[simp] theorem State.setRec_ctxs (s : State) (r : Nat) (l : LRec) : (s.setRec r l).ctxs = s.ctxs := rfl
@[simp] theorem State.setRec_mts (s : State) (r : Nat) (l : LRec) : (s.setRec r l).mts = s.mts := rfl
@[simp] theorem State.setRec_clusters (s : State) (r : Nat) (l : LRec) : (s.setRec r l).clusters = s.clusters := rfl
@[simp] theorem State.setRec_lfsr (s : State) (r : Nat) (l : LRec) : (s.setRec r l).lfsr = s.lfsr := rfl
@[simp] theorem State.setRec_icache (s : State) (r : Nat) (l : LRec) : (s.setRec r l).icache = s.icache := rfl
@[simp] theorem State.setRec_fbuf (s : State) (r : Nat) (l : LRec) : (s.setRec r l).fbuf = s.fbuf := rfl
@[simp] theorem State.setRec_tlb (s : State) (r : Nat) (l : LRec) : (s.setRec r l).tlb = s.tlb := rfl
@[simp] theorem State.setRec_l1 (s : State) (r : Nat) (l : LRec) : (s.setRec r l).l1 = s.l1 := rfl
@[simp] theorem State.setRec_l2 (s : State) (r : Nat) (l : LRec) : (s.setRec r l).l2 = s.l2 := rfl
@[simp] theorem State.setRec_heldSectors (s : State) (r : Nat) (l : LRec) : (s.setRec r l).heldSectors = s.heldSectors := rfl
@[simp] theorem State.setRec_mem (s : State) (r : Nat) (l : LRec) : (s.setRec r l).mem = s.mem := rfl
@[simp] theorem State.setRec_synd (s : State) (r : Nat) (l : LRec) : (s.setRec r l).synd = s.synd := rfl
@[simp] theorem State.setRec_hubSynd (s : State) (r : Nat) (l : LRec) : (s.setRec r l).hubSynd = s.hubSynd := rfl
@[simp] theorem State.setRec_marks (s : State) (r : Nat) (l : LRec) : (s.setRec r l).marks = s.marks := rfl
@[simp] theorem State.setRec_bad (s : State) (r : Nat) (l : LRec) : (s.setRec r l).bad = s.bad := rfl
@[simp] theorem State.setRec_poison (s : State) (r : Nat) (l : LRec) : (s.setRec r l).poison = s.poison := rfl
@[simp] theorem State.setRec_quar (s : State) (r : Nat) (l : LRec) : (s.setRec r l).quar = s.quar := rfl
@[simp] theorem State.setRec_quarChan (s : State) (r : Nat) (l : LRec) : (s.setRec r l).quarChan = s.quarChan := rfl
@[simp] theorem State.setRec_bulk (s : State) (r : Nat) (l : LRec) : (s.setRec r l).bulk = s.bulk := rfl
@[simp] theorem State.setRec_wlog (s : State) (r : Nat) (l : LRec) : (s.setRec r l).wlog = s.wlog := rfl
@[simp] theorem State.setRec_posted (s : State) (r : Nat) (l : LRec) : (s.setRec r l).posted = s.posted := rfl
@[simp] theorem State.setRec_wbuf (s : State) (r : Nat) (l : LRec) : (s.setRec r l).wbuf = s.wbuf := rfl
@[simp] theorem State.setRec_lateWords (s : State) (r : Nat) (l : LRec) : (s.setRec r l).lateWords = s.lateWords := rfl
@[simp] theorem State.setRec_slotCur (s : State) (r : Nat) (l : LRec) : (s.setRec r l).slotCur = s.slotCur := rfl
@[simp] theorem State.setRec_slotPrev (s : State) (r : Nat) (l : LRec) : (s.setRec r l).slotPrev = s.slotPrev := rfl
@[simp] theorem State.setRec_mpn (s : State) (r : Nat) (l : LRec) : (s.setRec r l).mpn = s.mpn := rfl
@[simp] theorem State.setRec_capg (s : State) (r : Nat) (l : LRec) : (s.setRec r l).capg = s.capg := rfl
@[simp] theorem State.setRec_stackSt (s : State) (r : Nat) (l : LRec) : (s.setRec r l).stackSt = s.stackSt := rfl
@[simp] theorem State.setRec_retire (s : State) (r : Nat) (l : LRec) : (s.setRec r l).retire = s.retire := rfl
@[simp] theorem State.setRec_chanReqs (s : State) (r : Nat) (l : LRec) : (s.setRec r l).chanReqs = s.chanReqs := rfl
@[simp] theorem State.setRec_scrubs (s : State) (r : Nat) (l : LRec) : (s.setRec r l).scrubs = s.scrubs := rfl
@[simp] theorem State.setRec_fuller (s : State) (r : Nat) (l : LRec) : (s.setRec r l).fuller = s.fuller := rfl
@[simp] theorem State.setRec_slotTab (s : State) (r : Nat) (l : LRec) : (s.setRec r l).slotTab = s.slotTab := rfl
@[simp] theorem State.setRec_donated (s : State) (r : Nat) (l : LRec) : (s.setRec r l).donated = s.donated := rfl
@[simp] theorem State.setRec_serving (s : State) (r : Nat) (l : LRec) : (s.setRec r l).serving = s.serving := rfl
@[simp] theorem State.setRec_armCount (s : State) (r : Nat) (l : LRec) : (s.setRec r l).armCount = s.armCount := rfl
@[simp] theorem State.setRec_boxes (s : State) (r : Nat) (l : LRec) : (s.setRec r l).boxes = s.boxes := rfl
@[simp] theorem State.setRec_scriv (s : State) (r : Nat) (l : LRec) : (s.setRec r l).scriv = s.scriv := rfl
@[simp] theorem State.setRec_scrivNext (s : State) (r : Nat) (l : LRec) : (s.setRec r l).scrivNext = s.scrivNext := rfl
@[simp] theorem State.setRec_saveRegs (s : State) (r : Nat) (l : LRec) : (s.setRec r l).saveRegs = s.saveRegs := rfl
@[simp] theorem State.setRec_snapRegs (s : State) (r : Nat) (l : LRec) : (s.setRec r l).snapRegs = s.snapRegs := rfl
@[simp] theorem State.setRec_prqs (s : State) (r : Nat) (l : LRec) : (s.setRec r l).prqs = s.prqs := rfl
@[simp] theorem State.setRec_members (s : State) (r : Nat) (l : LRec) : (s.setRec r l).members = s.members := rfl
@[simp] theorem State.setRec_groups (s : State) (r : Nat) (l : LRec) : (s.setRec r l).groups = s.groups := rfl
@[simp] theorem State.setRec_ports (s : State) (r : Nat) (l : LRec) : (s.setRec r l).ports = s.ports := rfl
@[simp] theorem State.setRec_tdisp (s : State) (r : Nat) (l : LRec) : (s.setRec r l).tdisp = s.tdisp := rfl
@[simp] theorem State.setRec_out (s : State) (r : Nat) (l : LRec) : (s.setRec r l).out = s.out := rfl
@[simp] theorem State.setRec_img (s : State) (r : Nat) (l : LRec) : (s.setRec r l).img = s.img := rfl
@[simp] theorem State.setRec_stored (s : State) (r : Nat) (l : LRec) : (s.setRec r l).stored = s.stored := rfl
@[simp] theorem State.setRec_recovery (s : State) (r : Nat) (l : LRec) : (s.setRec r l).recovery = s.recovery := rfl
@[simp] theorem State.setRec_modId (s : State) (r : Nat) (l : LRec) : (s.setRec r l).modId = s.modId := rfl
@[simp] theorem State.setRec_memberId (s : State) (r : Nat) (l : LRec) : (s.setRec r l).memberId = s.memberId := rfl
@[simp] theorem State.setRec_emuQ (s : State) (r : Nat) (l : LRec) : (s.setRec r l).emuQ = s.emuQ := rfl
@[simp] theorem State.setRec_clocks (s : State) (r : Nat) (l : LRec) : (s.setRec r l).clocks = s.clocks := rfl
@[simp] theorem State.setRec_clockBase (s : State) (r : Nat) (l : LRec) : (s.setRec r l).clockBase = s.clockBase := rfl
@[simp] theorem State.setRec_power (s : State) (r : Nat) (l : LRec) : (s.setRec r l).power = s.power := rfl
@[simp] theorem State.setRec_pressure (s : State) (r : Nat) (l : LRec) : (s.setRec r l).pressure = s.pressure := rfl
@[simp] theorem State.setRec_hops (s : State) (r : Nat) (l : LRec) : (s.setRec r l).hops = s.hops := rfl
@[simp] theorem State.setRec_aged (s : State) (r : Nat) (l : LRec) : (s.setRec r l).aged = s.aged := rfl
@[simp] theorem State.setRec_asleep (s : State) (r : Nat) (l : LRec) : (s.setRec r l).asleep = s.asleep := rfl
@[simp] theorem State.setRec_hostq (s : State) (r : Nat) (l : LRec) : (s.setRec r l).hostq = s.hostq := rfl
@[simp] theorem State.setRec_rxq (s : State) (r : Nat) (l : LRec) : (s.setRec r l).rxq = s.rxq := rfl
@[simp] theorem State.setRec_rxPart (s : State) (r : Nat) (l : LRec) : (s.setRec r l).rxPart = s.rxPart := rfl
@[simp] theorem State.setRec_pend (s : State) (r : Nat) (l : LRec) : (s.setRec r l).pend = s.pend := rfl
@[simp] theorem State.setRec_inbox (s : State) (r : Nat) (l : LRec) : (s.setRec r l).inbox = s.inbox := rfl
@[simp] theorem State.setRec_mute (s : State) (r : Nat) (l : LRec) : (s.setRec r l).mute = s.mute := rfl
@[simp] theorem State.setRec_bars (s : State) (r : Nat) (l : LRec) : (s.setRec r l).bars = s.bars := rfl

/-! ### `setBox` -/

@[simp] theorem State.setBox_agenda (s : State) (m : Nat) (b : Mailbox) : (s.setBox m b).agenda = s.agenda := rfl
@[simp] theorem State.setBox_arg (s : State) (m : Nat) (b : Mailbox) : (s.setBox m b).arg = s.arg := rfl
@[simp] theorem State.setBox_cur (s : State) (m : Nat) (b : Mailbox) : (s.setBox m b).cur = s.cur := rfl
@[simp] theorem State.setBox_curMt (s : State) (m : Nat) (b : Mailbox) : (s.setBox m b).curMt = s.curMt := rfl
@[simp] theorem State.setBox_rr (s : State) (m : Nat) (b : Mailbox) : (s.setBox m b).rr = s.rr := rfl
@[simp] theorem State.setBox_freeN (s : State) (m : Nat) (b : Mailbox) : (s.setBox m b).freeN = s.freeN := rfl
@[simp] theorem State.setBox_now (s : State) (m : Nat) (b : Mailbox) : (s.setBox m b).now = s.now := rfl
@[simp] theorem State.setBox_ctxs (s : State) (m : Nat) (b : Mailbox) : (s.setBox m b).ctxs = s.ctxs := rfl
@[simp] theorem State.setBox_mts (s : State) (m : Nat) (b : Mailbox) : (s.setBox m b).mts = s.mts := rfl
@[simp] theorem State.setBox_clusters (s : State) (m : Nat) (b : Mailbox) : (s.setBox m b).clusters = s.clusters := rfl
@[simp] theorem State.setBox_lfsr (s : State) (m : Nat) (b : Mailbox) : (s.setBox m b).lfsr = s.lfsr := rfl
@[simp] theorem State.setBox_icache (s : State) (m : Nat) (b : Mailbox) : (s.setBox m b).icache = s.icache := rfl
@[simp] theorem State.setBox_fbuf (s : State) (m : Nat) (b : Mailbox) : (s.setBox m b).fbuf = s.fbuf := rfl
@[simp] theorem State.setBox_tlb (s : State) (m : Nat) (b : Mailbox) : (s.setBox m b).tlb = s.tlb := rfl
@[simp] theorem State.setBox_l1 (s : State) (m : Nat) (b : Mailbox) : (s.setBox m b).l1 = s.l1 := rfl
@[simp] theorem State.setBox_l2 (s : State) (m : Nat) (b : Mailbox) : (s.setBox m b).l2 = s.l2 := rfl
@[simp] theorem State.setBox_heldSectors (s : State) (m : Nat) (b : Mailbox) : (s.setBox m b).heldSectors = s.heldSectors := rfl
@[simp] theorem State.setBox_mem (s : State) (m : Nat) (b : Mailbox) : (s.setBox m b).mem = s.mem := rfl
@[simp] theorem State.setBox_synd (s : State) (m : Nat) (b : Mailbox) : (s.setBox m b).synd = s.synd := rfl
@[simp] theorem State.setBox_hubSynd (s : State) (m : Nat) (b : Mailbox) : (s.setBox m b).hubSynd = s.hubSynd := rfl
@[simp] theorem State.setBox_marks (s : State) (m : Nat) (b : Mailbox) : (s.setBox m b).marks = s.marks := rfl
@[simp] theorem State.setBox_bad (s : State) (m : Nat) (b : Mailbox) : (s.setBox m b).bad = s.bad := rfl
@[simp] theorem State.setBox_poison (s : State) (m : Nat) (b : Mailbox) : (s.setBox m b).poison = s.poison := rfl
@[simp] theorem State.setBox_quar (s : State) (m : Nat) (b : Mailbox) : (s.setBox m b).quar = s.quar := rfl
@[simp] theorem State.setBox_quarChan (s : State) (m : Nat) (b : Mailbox) : (s.setBox m b).quarChan = s.quarChan := rfl
@[simp] theorem State.setBox_bulk (s : State) (m : Nat) (b : Mailbox) : (s.setBox m b).bulk = s.bulk := rfl
@[simp] theorem State.setBox_wlog (s : State) (m : Nat) (b : Mailbox) : (s.setBox m b).wlog = s.wlog := rfl
@[simp] theorem State.setBox_posted (s : State) (m : Nat) (b : Mailbox) : (s.setBox m b).posted = s.posted := rfl
@[simp] theorem State.setBox_wbuf (s : State) (m : Nat) (b : Mailbox) : (s.setBox m b).wbuf = s.wbuf := rfl
@[simp] theorem State.setBox_lateWords (s : State) (m : Nat) (b : Mailbox) : (s.setBox m b).lateWords = s.lateWords := rfl
@[simp] theorem State.setBox_slotCur (s : State) (m : Nat) (b : Mailbox) : (s.setBox m b).slotCur = s.slotCur := rfl
@[simp] theorem State.setBox_slotPrev (s : State) (m : Nat) (b : Mailbox) : (s.setBox m b).slotPrev = s.slotPrev := rfl
@[simp] theorem State.setBox_mpn (s : State) (m : Nat) (b : Mailbox) : (s.setBox m b).mpn = s.mpn := rfl
@[simp] theorem State.setBox_capg (s : State) (m : Nat) (b : Mailbox) : (s.setBox m b).capg = s.capg := rfl
@[simp] theorem State.setBox_stackSt (s : State) (m : Nat) (b : Mailbox) : (s.setBox m b).stackSt = s.stackSt := rfl
@[simp] theorem State.setBox_retire (s : State) (m : Nat) (b : Mailbox) : (s.setBox m b).retire = s.retire := rfl
@[simp] theorem State.setBox_chanReqs (s : State) (m : Nat) (b : Mailbox) : (s.setBox m b).chanReqs = s.chanReqs := rfl
@[simp] theorem State.setBox_scrubs (s : State) (m : Nat) (b : Mailbox) : (s.setBox m b).scrubs = s.scrubs := rfl
@[simp] theorem State.setBox_fuller (s : State) (m : Nat) (b : Mailbox) : (s.setBox m b).fuller = s.fuller := rfl
@[simp] theorem State.setBox_slotTab (s : State) (m : Nat) (b : Mailbox) : (s.setBox m b).slotTab = s.slotTab := rfl
@[simp] theorem State.setBox_donated (s : State) (m : Nat) (b : Mailbox) : (s.setBox m b).donated = s.donated := rfl
@[simp] theorem State.setBox_serving (s : State) (m : Nat) (b : Mailbox) : (s.setBox m b).serving = s.serving := rfl
@[simp] theorem State.setBox_recs (s : State) (m : Nat) (b : Mailbox) : (s.setBox m b).recs = s.recs := rfl
@[simp] theorem State.setBox_armCount (s : State) (m : Nat) (b : Mailbox) : (s.setBox m b).armCount = s.armCount := rfl
@[simp] theorem State.setBox_scriv (s : State) (m : Nat) (b : Mailbox) : (s.setBox m b).scriv = s.scriv := rfl
@[simp] theorem State.setBox_scrivNext (s : State) (m : Nat) (b : Mailbox) : (s.setBox m b).scrivNext = s.scrivNext := rfl
@[simp] theorem State.setBox_saveRegs (s : State) (m : Nat) (b : Mailbox) : (s.setBox m b).saveRegs = s.saveRegs := rfl
@[simp] theorem State.setBox_snapRegs (s : State) (m : Nat) (b : Mailbox) : (s.setBox m b).snapRegs = s.snapRegs := rfl
@[simp] theorem State.setBox_prqs (s : State) (m : Nat) (b : Mailbox) : (s.setBox m b).prqs = s.prqs := rfl
@[simp] theorem State.setBox_members (s : State) (m : Nat) (b : Mailbox) : (s.setBox m b).members = s.members := rfl
@[simp] theorem State.setBox_groups (s : State) (m : Nat) (b : Mailbox) : (s.setBox m b).groups = s.groups := rfl
@[simp] theorem State.setBox_ports (s : State) (m : Nat) (b : Mailbox) : (s.setBox m b).ports = s.ports := rfl
@[simp] theorem State.setBox_tdisp (s : State) (m : Nat) (b : Mailbox) : (s.setBox m b).tdisp = s.tdisp := rfl
@[simp] theorem State.setBox_out (s : State) (m : Nat) (b : Mailbox) : (s.setBox m b).out = s.out := rfl
@[simp] theorem State.setBox_img (s : State) (m : Nat) (b : Mailbox) : (s.setBox m b).img = s.img := rfl
@[simp] theorem State.setBox_stored (s : State) (m : Nat) (b : Mailbox) : (s.setBox m b).stored = s.stored := rfl
@[simp] theorem State.setBox_recovery (s : State) (m : Nat) (b : Mailbox) : (s.setBox m b).recovery = s.recovery := rfl
@[simp] theorem State.setBox_modId (s : State) (m : Nat) (b : Mailbox) : (s.setBox m b).modId = s.modId := rfl
@[simp] theorem State.setBox_memberId (s : State) (m : Nat) (b : Mailbox) : (s.setBox m b).memberId = s.memberId := rfl
@[simp] theorem State.setBox_emuQ (s : State) (m : Nat) (b : Mailbox) : (s.setBox m b).emuQ = s.emuQ := rfl
@[simp] theorem State.setBox_clocks (s : State) (m : Nat) (b : Mailbox) : (s.setBox m b).clocks = s.clocks := rfl
@[simp] theorem State.setBox_clockBase (s : State) (m : Nat) (b : Mailbox) : (s.setBox m b).clockBase = s.clockBase := rfl
@[simp] theorem State.setBox_power (s : State) (m : Nat) (b : Mailbox) : (s.setBox m b).power = s.power := rfl
@[simp] theorem State.setBox_pressure (s : State) (m : Nat) (b : Mailbox) : (s.setBox m b).pressure = s.pressure := rfl
@[simp] theorem State.setBox_hops (s : State) (m : Nat) (b : Mailbox) : (s.setBox m b).hops = s.hops := rfl
@[simp] theorem State.setBox_aged (s : State) (m : Nat) (b : Mailbox) : (s.setBox m b).aged = s.aged := rfl
@[simp] theorem State.setBox_asleep (s : State) (m : Nat) (b : Mailbox) : (s.setBox m b).asleep = s.asleep := rfl
@[simp] theorem State.setBox_hostq (s : State) (m : Nat) (b : Mailbox) : (s.setBox m b).hostq = s.hostq := rfl
@[simp] theorem State.setBox_rxq (s : State) (m : Nat) (b : Mailbox) : (s.setBox m b).rxq = s.rxq := rfl
@[simp] theorem State.setBox_rxPart (s : State) (m : Nat) (b : Mailbox) : (s.setBox m b).rxPart = s.rxPart := rfl
@[simp] theorem State.setBox_pend (s : State) (m : Nat) (b : Mailbox) : (s.setBox m b).pend = s.pend := rfl
@[simp] theorem State.setBox_inbox (s : State) (m : Nat) (b : Mailbox) : (s.setBox m b).inbox = s.inbox := rfl
@[simp] theorem State.setBox_mute (s : State) (m : Nat) (b : Mailbox) : (s.setBox m b).mute = s.mute := rfl
@[simp] theorem State.setBox_bars (s : State) (m : Nat) (b : Mailbox) : (s.setBox m b).bars = s.bars := rfl

/-! ### Reads after those updates -/

@[simp] theorem State.ctx_setCtx_self (s : State) (c : Nat) (x : Ctx) : (s.setCtx c x).ctx c = x := look_put_self ..
@[simp] theorem State.ctx_setCtx_ne (s : State) {c d : Nat} (x : Ctx) (h : d ≠ c) : (s.setCtx c x).ctx d = s.ctx d :=
  look_put_ne _ _ _ h
@[simp] theorem State.me_setMe (s : State) (x : Ctx) : (s.setMe x).me = x := look_put_self ..
@[simp] theorem State.ctx_setMe_self (s : State) (x : Ctx) : (s.setMe x).ctx s.cur = x := look_put_self ..
@[simp] theorem State.ctx_setMe_ne (s : State) {c : Nat} (x : Ctx) (h : c ≠ s.cur) : (s.setMe x).ctx c = s.ctx c :=
  look_put_ne _ _ _ h
@[simp] theorem State.ctx_setMt (s : State) (c i : Nat) (m : Mt) (d : Nat) : (s.setMt c i m).ctx d = s.ctx d := rfl
@[simp] theorem State.me_setMt (s : State) (c i : Nat) (m : Mt) : (s.setMt c i m).me = s.me := rfl
@[simp] theorem State.mt_setMt_self (s : State) (c i : Nat) (m : Mt) : (s.setMt c i m).mt c i = m := look_put_self ..
@[simp] theorem State.mt_setCtx (s : State) (c : Nat) (x : Ctx) (d i : Nat) : (s.setCtx c x).mt d i = s.mt d i := rfl
@[simp] theorem State.mt_setMe (s : State) (x : Ctx) (d i : Nat) : (s.setMe x).mt d i = s.mt d i := rfl
@[simp] theorem State.cluster_setCluster_self (s : State) (k : Nat) (x : Cluster) : (s.setCluster k x).cluster k = x :=
  look_put_self ..
@[simp] theorem State.cluster_setCtx (s : State) (c : Nat) (x : Ctx) (k : Nat) : (s.setCtx c x).cluster k = s.cluster k := rfl
@[simp] theorem State.cluster_setMe (s : State) (x : Ctx) (k : Nat) : (s.setMe x).cluster k = s.cluster k := rfl
@[simp] theorem State.lrec_setRec_self (s : State) (r : Nat) (l : LRec) : (s.setRec r l).lrec r = l := look_put_self ..
@[simp] theorem State.lrec_setCtx (s : State) (c : Nat) (x : Ctx) (r : Nat) : (s.setCtx c x).lrec r = s.lrec r := rfl
@[simp] theorem State.lrec_setMe (s : State) (x : Ctx) (r : Nat) : (s.setMe x).lrec r = s.lrec r := rfl
@[simp] theorem State.box_setBox_self (s : State) (m : Nat) (b : Mailbox) : (s.setBox m b).box m = b := look_put_self ..

/-! ### Registers (R206) -/

/-- `x0` reads zero. -/
@[simp] theorem Ctx.rx_zero (x : Ctx) : x.rx 0 = 0 := rfl

/-- A write of `x0` is ignored. -/
@[simp] theorem Ctx.wx_zero (x : Ctx) (v : Word) : x.wx 0 v = x := rfl

/-- A register reads what was written to it. -/
@[simp] theorem Ctx.rx_wx_self (x : Ctx) (r : RegNo) (v : Word) (h : r ≠ 0) : (x.wx r v).rx r = v := by
  unfold Ctx.rx Ctx.wx
  rw [if_neg h, if_neg h]
  exact look_put_self ..

/-- Another register keeps its value. -/
@[simp] theorem Ctx.rx_wx_ne (x : Ctx) {r a : RegNo} (v : Word) (h : a ≠ r) : (x.wx r v).rx a = x.rx a := by
  unfold Ctx.rx Ctx.wx
  by_cases ha : a = 0
  · rw [if_pos ha, if_pos ha]
  · rw [if_neg ha, if_neg ha]
    by_cases hr : r = 0
    · rw [if_pos hr]
    · rw [if_neg hr]
      exact look_put_ne _ _ _ (fun e => h (BitVec.eq_of_toNat_eq e))

/-- Any register after a write. -/
theorem Ctx.rx_wx (x : Ctx) (r a : RegNo) (v : Word) :
    (x.wx r v).rx a = if a = r ∧ r ≠ 0 then v else x.rx a := by
  by_cases h : a = r
  · subst h
    by_cases hr : a = 0
    · subst hr; rfl
    · rw [if_pos ⟨rfl, hr⟩, Ctx.rx_wx_self _ _ _ hr]
  · rw [if_neg (fun e => h e.1), Ctx.rx_wx_ne _ _ h]

/-! ### A register write leaves every other field of a context -/

@[simp] theorem Ctx.wx_run (x : Ctx) (r : RegNo) (v : Word) : (x.wx r v).run = x.run := by
  unfold Ctx.wx; split <;> rfl
@[simp] theorem Ctx.wx_level (x : Ctx) (r : RegNo) (v : Word) : (x.wx r v).level = x.level := by
  unfold Ctx.wx; split <;> rfl
@[simp] theorem Ctx.wx_pc (x : Ctx) (r : RegNo) (v : Word) : (x.wx r v).pc = x.pc := by
  unfold Ctx.wx; split <;> rfl
@[simp] theorem Ctx.wx_fflags (x : Ctx) (r : RegNo) (v : Word) : (x.wx r v).fflags = x.fflags := by
  unfold Ctx.wx; split <;> rfl
@[simp] theorem Ctx.wx_crm (x : Ctx) (r : RegNo) (v : Word) : (x.wx r v).crm = x.crm := by
  unfold Ctx.wx; split <;> rfl
@[simp] theorem Ctx.wx_wrm (x : Ctx) (r : RegNo) (v : Word) : (x.wx r v).wrm = x.wrm := by
  unfold Ctx.wx; split <;> rfl
@[simp] theorem Ctx.wx_srnkey (x : Ctx) (r : RegNo) (v : Word) : (x.wx r v).srnkey = x.srnkey := by
  unfold Ctx.wx; split <;> rfl
@[simp] theorem Ctx.wx_bfmt (x : Ctx) (r : RegNo) (v : Word) : (x.wx r v).bfmt = x.bfmt := by
  unfold Ctx.wx; split <;> rfl
@[simp] theorem Ctx.wx_vlreq (x : Ctx) (r : RegNo) (v : Word) : (x.wx r v).vlreq = x.vlreq := by
  unfold Ctx.wx; split <;> rfl
@[simp] theorem Ctx.wx_vl (x : Ctx) (r : RegNo) (v : Word) : (x.wx r v).vl = x.vl := by
  unfold Ctx.wx; split <;> rfl
@[simp] theorem Ctx.wx_gstate (x : Ctx) (r : RegNo) (v : Word) : (x.wx r v).gstate = x.gstate := by
  unfold Ctx.wx; split <;> rfl
@[simp] theorem Ctx.wx_nofit (x : Ctx) (r : RegNo) (v : Word) : (x.wx r v).nofit = x.nofit := by
  unfold Ctx.wx; split <;> rfl
@[simp] theorem Ctx.wx_orow (x : Ctx) (r : RegNo) (v : Word) : (x.wx r v).orow = x.orow := by
  unfold Ctx.wx; split <;> rfl
@[simp] theorem Ctx.wx_ocol (x : Ctx) (r : RegNo) (v : Word) : (x.wx r v).ocol = x.ocol := by
  unfold Ctx.wx; split <;> rfl
@[simp] theorem Ctx.wx_gsq (x : Ctx) (r : RegNo) (v : Word) : (x.wx r v).gsq = x.gsq := by
  unfold Ctx.wx; split <;> rfl
@[simp] theorem Ctx.wx_slots (x : Ctx) (r : RegNo) (v : Word) : (x.wx r v).slots = x.slots := by
  unfold Ctx.wx; split <;> rfl
@[simp] theorem Ctx.wx_target (x : Ctx) (r : RegNo) (v : Word) : (x.wx r v).target = x.target := by
  unfold Ctx.wx; split <;> rfl
@[simp] theorem Ctx.wx_joining (x : Ctx) (r : RegNo) (v : Word) : (x.wx r v).joining = x.joining := by
  unfold Ctx.wx; split <;> rfl
@[simp] theorem Ctx.wx_here (x : Ctx) (r : RegNo) (v : Word) : (x.wx r v).here = x.here := by
  unfold Ctx.wx; split <;> rfl
@[simp] theorem Ctx.wx_asked (x : Ctx) (r : RegNo) (v : Word) : (x.wx r v).asked = x.asked := by
  unfold Ctx.wx; split <;> rfl
@[simp] theorem Ctx.wx_moves (x : Ctx) (r : RegNo) (v : Word) : (x.wx r v).moves = x.moves := by
  unfold Ctx.wx; split <;> rfl
@[simp] theorem Ctx.wx_alc (x : Ctx) (r : RegNo) (v : Word) : (x.wx r v).alc = x.alc := by
  unfold Ctx.wx; split <;> rfl
@[simp] theorem Ctx.wx_vsave (x : Ctx) (r : RegNo) (v : Word) : (x.wx r v).vsave = x.vsave := by
  unfold Ctx.wx; split <;> rfl
@[simp] theorem Ctx.wx_vstart (x : Ctx) (r : RegNo) (v : Word) : (x.wx r v).vstart = x.vstart := by
  unfold Ctx.wx; split <;> rfl
@[simp] theorem Ctx.wx_vbase (x : Ctx) (r : RegNo) (v : Word) : (x.wx r v).vbase = x.vbase := by
  unfold Ctx.wx; split <;> rfl
@[simp] theorem Ctx.wx_recIdx (x : Ctx) (r : RegNo) (v : Word) : (x.wx r v).recIdx = x.recIdx := by
  unfold Ctx.wx; split <;> rfl
@[simp] theorem Ctx.wx_xch (x : Ctx) (r : RegNo) (v : Word) : (x.wx r v).xch = x.xch := by
  unfold Ctx.wx; split <;> rfl
@[simp] theorem Ctx.wx_ssn (x : Ctx) (r : RegNo) (v : Word) : (x.wx r v).ssn = x.ssn := by
  unfold Ctx.wx; split <;> rfl
@[simp] theorem Ctx.wx_rect (x : Ctx) (r : RegNo) (v : Word) : (x.wx r v).rect = x.rect := by
  unfold Ctx.wx; split <;> rfl
@[simp] theorem Ctx.wx_upcallHandler (x : Ctx) (r : RegNo) (v : Word) : (x.wx r v).upcallHandler = x.upcallHandler := by
  unfold Ctx.wx; split <;> rfl
@[simp] theorem Ctx.wx_upcallEn (x : Ctx) (r : RegNo) (v : Word) : (x.wx r v).upcallEn = x.upcallEn := by
  unfold Ctx.wx; split <;> rfl
@[simp] theorem Ctx.wx_upepc (x : Ctx) (r : RegNo) (v : Word) : (x.wx r v).upepc = x.upepc := by
  unfold Ctx.wx; split <;> rfl
@[simp] theorem Ctx.wx_upaddr (x : Ctx) (r : RegNo) (v : Word) : (x.wx r v).upaddr = x.upaddr := by
  unfold Ctx.wx; split <;> rfl
@[simp] theorem Ctx.wx_upnote (x : Ctx) (r : RegNo) (v : Word) : (x.wx r v).upnote = x.upnote := by
  unfold Ctx.wx; split <;> rfl
@[simp] theorem Ctx.wx_fnbase (x : Ctx) (r : RegNo) (v : Word) : (x.wx r v).fnbase = x.fnbase := by
  unfold Ctx.wx; split <;> rfl
@[simp] theorem Ctx.wx_codebound (x : Ctx) (r : RegNo) (v : Word) : (x.wx r v).codebound = x.codebound := by
  unfold Ctx.wx; split <;> rfl
@[simp] theorem Ctx.wx_chgfill (x : Ctx) (r : RegNo) (v : Word) : (x.wx r v).chgfill = x.chgfill := by
  unfold Ctx.wx; split <;> rfl
@[simp] theorem Ctx.wx_chgwb (x : Ctx) (r : RegNo) (v : Word) : (x.wx r v).chgwb = x.chgwb := by
  unfold Ctx.wx; split <;> rfl
@[simp] theorem Ctx.wx_ptroot (x : Ctx) (r : RegNo) (v : Word) : (x.wx r v).ptroot = x.ptroot := by
  unfold Ctx.wx; split <;> rfl
@[simp] theorem Ctx.wx_vspace (x : Ctx) (r : RegNo) (v : Word) : (x.wx r v).vspace = x.vspace := by
  unfold Ctx.wx; split <;> rfl
@[simp] theorem Ctx.wx_st (x : Ctx) (r : RegNo) (v : Word) : (x.wx r v).st = x.st := by
  unfold Ctx.wx; split <;> rfl
@[simp] theorem Ctx.wx_ft (x : Ctx) (r : RegNo) (v : Word) : (x.wx r v).ft = x.ft := by
  unfold Ctx.wx; split <;> rfl
@[simp] theorem Ctx.wx_btmo (x : Ctx) (r : RegNo) (v : Word) : (x.wx r v).btmo = x.btmo := by
  unfold Ctx.wx; split <;> rfl
@[simp] theorem Ctx.wx_cs (x : Ctx) (r : RegNo) (v : Word) : (x.wx r v).cs = x.cs := by
  unfold Ctx.wx; split <;> rfl
@[simp] theorem Ctx.wx_loops (x : Ctx) (r : RegNo) (v : Word) : (x.wx r v).loops = x.loops := by
  unfold Ctx.wx; split <;> rfl
@[simp] theorem Ctx.wx_sg (x : Ctx) (r : RegNo) (v : Word) : (x.wx r v).sg = x.sg := by
  unfold Ctx.wx; split <;> rfl
@[simp] theorem Ctx.wx_gg (x : Ctx) (r : RegNo) (v : Word) : (x.wx r v).gg = x.gg := by
  unfold Ctx.wx; split <;> rfl
@[simp] theorem Ctx.wx_lg (x : Ctx) (r : RegNo) (v : Word) : (x.wx r v).lg = x.lg := by
  unfold Ctx.wx; split <;> rfl
@[simp] theorem Ctx.wx_lastJob (x : Ctx) (r : RegNo) (v : Word) : (x.wx r v).lastJob = x.lastJob := by
  unfold Ctx.wx; split <;> rfl
@[simp] theorem Ctx.wx_jobs (x : Ctx) (r : RegNo) (v : Word) : (x.wx r v).jobs = x.jobs := by
  unfold Ctx.wx; split <;> rfl
@[simp] theorem Ctx.wx_stops (x : Ctx) (r : RegNo) (v : Word) : (x.wx r v).stops = x.stops := by
  unfold Ctx.wx; split <;> rfl
@[simp] theorem Ctx.wx_loomq (x : Ctx) (r : RegNo) (v : Word) : (x.wx r v).loomq = x.loomq := by
  unfold Ctx.wx; split <;> rfl
@[simp] theorem Ctx.wx_loomRestart (x : Ctx) (r : RegNo) (v : Word) : (x.wx r v).loomRestart = x.loomRestart := by
  unfold Ctx.wx; split <;> rfl
@[simp] theorem Ctx.wx_claimed (x : Ctx) (r : RegNo) (v : Word) : (x.wx r v).claimed = x.claimed := by
  unfold Ctx.wx; split <;> rfl
@[simp] theorem Ctx.wx_acc0Int (x : Ctx) (r : RegNo) (v : Word) : (x.wx r v).acc0Int = x.acc0Int := by
  unfold Ctx.wx; split <;> rfl
@[simp] theorem Ctx.wx_acc1Int (x : Ctx) (r : RegNo) (v : Word) : (x.wx r v).acc1Int = x.acc1Int := by
  unfold Ctx.wx; split <;> rfl
@[simp] theorem Ctx.wx_sense (x : Ctx) (r : RegNo) (v : Word) : (x.wx r v).sense = x.sense := by
  unfold Ctx.wx; split <;> rfl
@[simp] theorem Ctx.wx_votes (x : Ctx) (r : RegNo) (v : Word) : (x.wx r v).votes = x.votes := by
  unfold Ctx.wx; split <;> rfl
@[simp] theorem Ctx.wx_abortSeen (x : Ctx) (r : RegNo) (v : Word) : (x.wx r v).abortSeen = x.abortSeen := by
  unfold Ctx.wx; split <;> rfl
@[simp] theorem Ctx.wx_abortEver (x : Ctx) (r : RegNo) (v : Word) : (x.wx r v).abortEver = x.abortEver := by
  unfold Ctx.wx; split <;> rfl
@[simp] theorem Ctx.wx_lbanks (x : Ctx) (r : RegNo) (v : Word) : (x.wx r v).lbanks = x.lbanks := by
  unfold Ctx.wx; split <;> rfl
@[simp] theorem Ctx.wx_seq (x : Ctx) (r : RegNo) (v : Word) : (x.wx r v).seq = x.seq := by
  unfold Ctx.wx; split <;> rfl
@[simp] theorem Ctx.wx_seqNext (x : Ctx) (r : RegNo) (v : Word) : (x.wx r v).seqNext = x.seqNext := by
  unfold Ctx.wx; split <;> rfl
@[simp] theorem Ctx.wx_revoked (x : Ctx) (r : RegNo) (v : Word) : (x.wx r v).revoked = x.revoked := by
  unfold Ctx.wx; split <;> rfl
@[simp] theorem Ctx.wx_saved (x : Ctx) (r : RegNo) (v : Word) : (x.wx r v).saved = x.saved := by
  unfold Ctx.wx; split <;> rfl
@[simp] theorem Ctx.wx_postFaults (x : Ctx) (r : RegNo) (v : Word) : (x.wx r v).postFaults = x.postFaults := by
  unfold Ctx.wx; split <;> rfl
@[simp] theorem Ctx.wx_prompt (x : Ctx) (r : RegNo) (v : Word) : (x.wx r v).prompt = x.prompt := by
  unfold Ctx.wx; split <;> rfl
@[simp] theorem Ctx.wx_promptBusy (x : Ctx) (r : RegNo) (v : Word) : (x.wx r v).promptBusy = x.promptBusy := by
  unfold Ctx.wx; split <;> rfl
@[simp] theorem Ctx.wx_trips (x : Ctx) (r : RegNo) (v : Word) : (x.wx r v).trips = x.trips := by
  unfold Ctx.wx; split <;> rfl
@[simp] theorem Ctx.wx_emuNos (x : Ctx) (r : RegNo) (v : Word) : (x.wx r v).emuNos = x.emuNos := by
  unfold Ctx.wx; split <;> rfl
@[simp] theorem Ctx.wx_emuAt (x : Ctx) (r : RegNo) (v : Word) : (x.wx r v).emuAt = x.emuAt := by
  unfold Ctx.wx; split <;> rfl
@[simp] theorem Ctx.wx_fwWait (x : Ctx) (r : RegNo) (v : Word) : (x.wx r v).fwWait = x.fwWait := by
  unfold Ctx.wx; split <;> rfl
@[simp] theorem Ctx.wx_fwVal (x : Ctx) (r : RegNo) (v : Word) : (x.wx r v).fwVal = x.fwVal := by
  unfold Ctx.wx; split <;> rfl
@[simp] theorem Ctx.wx_tripSeq (x : Ctx) (r : RegNo) (v : Word) : (x.wx r v).tripSeq = x.tripSeq := by
  unfold Ctx.wx; split <;> rfl
@[simp] theorem Ctx.wx_emu (x : Ctx) (r : RegNo) (v : Word) : (x.wx r v).emu = x.emu := by
  unfold Ctx.wx; split <;> rfl
@[simp] theorem Ctx.wx_loadRd (x : Ctx) (r : RegNo) (v : Word) : (x.wx r v).loadRd = x.loadRd := by
  unfold Ctx.wx; split <;> rfl
@[simp] theorem Ctx.wx_loadW (x : Ctx) (r : RegNo) (v : Word) : (x.wx r v).loadW = x.loadW := by
  unfold Ctx.wx; split <;> rfl
@[simp] theorem Ctx.wx_loadSigned (x : Ctx) (r : RegNo) (v : Word) : (x.wx r v).loadSigned = x.loadSigned := by
  unfold Ctx.wx; split <;> rfl
@[simp] theorem Ctx.wx_call (x : Ctx) (r : RegNo) (v : Word) : (x.wx r v).call = x.call := by
  unfold Ctx.wx; split <;> rfl
@[simp] theorem Ctx.wx_card (x : Ctx) (r : RegNo) (v : Word) : (x.wx r v).card = x.card := by
  unfold Ctx.wx; split <;> rfl
@[simp] theorem Ctx.wx_watching (x : Ctx) (r : RegNo) (v : Word) : (x.wx r v).watching = x.watching := by
  unfold Ctx.wx; split <;> rfl
@[simp] theorem Ctx.wx_winBack (x : Ctx) (r : RegNo) (v : Word) : (x.wx r v).winBack = x.winBack := by
  unfold Ctx.wx; split <;> rfl
@[simp] theorem Ctx.wx_elemCap (x : Ctx) (r : RegNo) (v : Word) : (x.wx r v).elemCap = x.elemCap := by
  unfold Ctx.wx; split <;> rfl

end Sys2Proof.Machine
end

