-- ==== Sys2Proof/Laws/Control.lean ====
section
/-!
SUPPORT. What the shared operations of a control thread's instruction do: the ends of an instruction, the taking of an
exception and the return from it, each said once in the terms of `Sys2Proof.Safety`.
-/

namespace Sys2Proof

/-- The later write of a key stands. -/
@[simp] theorem put_put {α : Type} (m : Table α) (k : Nat) (v w : α) : put (put m k v) k w = put m k w := by
  induction m with
  | nil => simp [put]
  | cons e m ih =>
    obtain ⟨j, u⟩ := e
    by_cases h1 : k < j
    · simp [put, h1]
    · by_cases h2 : j = k
      · simp [put, h2]
      · simp [put, h1, h2, ih]

end Sys2Proof

namespace Sys2Proof.Machine

@[simp] theorem State.setCtx_setCtx (s : State) (c : Nat) (x y : Ctx) : (s.setCtx c x).setCtx c y = s.setCtx c y := by
  simp only [State.setCtx, put_put]

@[simp] theorem State.setMe_setMe (s : State) (x y : Ctx) : (s.setMe x).setMe y = s.setMe y :=
  State.setCtx_setCtx s s.cur x y

/-- The context other than the current one. -/
theorem State.setMe_other (s : State) (x : Ctx) {d : Nat} (h : d ≠ s.cur) : (s.setMe x).ctx d = s.ctx d :=
  State.ctx_setMe_ne s x h

/-- Writing the current context changes nothing else. -/
theorem onlyCtx_setMe (s : State) (x : Ctx) : OnlyCtx s.cur s (s.setMe x) :=
  ⟨rfl, fun _ h => State.ctx_setMe_ne s x h⟩

/-- A write of `rd`. -/
theorem State.wx_eq (s : State) (rd : RegNo) (v : Word) : s.wx rd v = s.setMe (s.me.wx rd v) := rfl

/-- The end of an instruction with a result. -/
theorem State.done_eq (s : State) (rd : RegNo) (v : Word) :
    s.done rd v = .next (s.setMe { s.me.wx rd v with pc := s.me.pc + 4 }) := by
  simp only [State.done, State.next, State.wx_eq, State.me_setMe, State.setMe_setMe, Ctx.wx_pc]

/-- The end of an instruction with a result and flags. -/
theorem State.orFlags_done_eq (s : State) (f : BitVec 7) (rd : RegNo) (v : Word) :
    (s.orFlags f).done rd v =
      .next (s.setMe { ({ s.me with fflags := s.me.fflags ||| f } : Ctx).wx rd v with pc := s.me.pc + 4 }) := by
  simp only [State.done_eq, State.orFlags, State.me_setMe, State.setMe_setMe]

/-- A register write in the terms of `RegIs`. -/
theorem regIs_wx (s : State) (x : Ctx) (rd : RegNo) (v : Word) (h : x.x = s.me.x) (f : Ctx → Ctx)
    (hf : ∀ y : Ctx, (f y).x = y.x) : RegIs s (s.setMe (f (x.wx rd v))) rd v := by
  intro r
  have e : (f (x.wx rd v)).rx r = (x.wx rd v).rx r := by simp only [Ctx.rx, hf]
  have e2 : x.rx r = s.me.rx r := by simp only [Ctx.rx, h]
  simp only [State.rx, State.me_setMe, e, Ctx.rx_wx, e2]

/-- An instruction that ends with a result and flags. -/
theorem gives_orFlags_done {i : Instr} {s : State} {rd : RegNo} {v : Word} {f : BitVec 7}
    (h : exec i s = (s.orFlags f).done rd v) : Gives i s rd v f := by
  rw [State.orFlags_done_eq] at h
  refine ⟨_, h, onlyCtx_setMe s _, ?_, ?_⟩
  · exact regIs_wx s { s.me with fflags := s.me.fflags ||| f } rd v rfl (fun y => { y with pc := s.me.pc + 4 })
      (fun _ => rfl)
  · rw [State.me_setMe]; unfold Ctx.wx; split <;> rfl

/-- An instruction that ends with a result. -/
theorem gives_done {i : Instr} {s : State} {rd : RegNo} {v : Word} (h : exec i s = s.done rd v) : Gives i s rd v := by
  rw [State.done_eq] at h
  refine ⟨_, h, onlyCtx_setMe s _, ?_, ?_⟩
  · exact regIs_wx s s.me rd v rfl (fun y => { y with pc := s.me.pc + 4 }) (fun _ => rfl)
  · rw [State.me_setMe]
    have : s.me.fflags ||| (0 : BitVec 7) = s.me.fflags := by simp
    unfold Ctx.wx; split <;> simp only [this]

/-- An instruction that ends with a transfer. -/
theorem jumps_goto {i : Instr} {s : State} {rd : RegNo} {v pc : Word} (h : exec i s = (s.wx rd v).goto pc) :
    Jumps i s rd v pc := by
  simp only [State.goto, State.wx_eq, State.me_setMe, State.setMe_setMe] at h
  refine ⟨_, h, onlyCtx_setMe s _, ?_, ?_⟩
  · exact regIs_wx s s.me rd v rfl (fun y => { y with pc := pc }) (fun _ => rfl)
  · rw [State.me_setMe]; unfold Ctx.wx; split <;> rfl

/-- An instruction that changes its own context. -/
theorem becomes_setMe {i : Instr} {s : State} {f : Ctx → Ctx} (h : exec i s = .next (s.setMe (f s.me))) :
    Becomes i s f := ⟨_, h, onlyCtx_setMe s _, State.me_setMe ..⟩

/-- An instruction that parks. -/
theorem parks_park {i : Instr} {s : State} {w : Why} (h : exec i s = s.park w) : Parks i s w := becomes_setMe h

end Sys2Proof.Machine
end

