-- ==== Sys2Proof/Laws/Memory.lean ====
section
/-!
SUPPORT. Storage: a byte read after a write, and the canonical form that every operation on storage keeps.
-/

namespace Sys2Proof.Machine

open Host (Cell)

/-! ### One byte -/

/-- A byte just written. -/
@[simp] theorem readByte_writeByte_self (m : List Cell) (a : Nat) (b : Byte) (lo : Nat) (h : memFrom lo m = true) :
    readByte (writeByte m a b) a = b := by
  induction m generalizing lo with
  | nil =>
    by_cases hb : b = 0
    · simp only [writeByte, readByte, hb, if_true]
    · simp only [writeByte, readByte, hb, if_true, if_false]
  | cons e m ih =>
    obtain ⟨j, c⟩ := e
    simp only [memFrom, Bool.and_eq_true, decide_eq_true_eq] at h
    by_cases h1 : a < j
    · by_cases hb : b = 0
      · have aux : ∀ (l : List Cell) (q : Nat), a < q → memFrom q l = true → readByte l a = 0 := by
          intro l
          induction l with
          | nil => intros; rfl
          | cons f l ihl =>
            intro q hq hl
            simp only [memFrom, Bool.and_eq_true, decide_eq_true_eq] at hl
            simp only [readByte]
            rw [if_neg (by omega)]
            exact ihl (f.1 + 1) (by omega) hl.2
        simp only [writeByte, h1, hb, if_true, readByte]
        rw [if_neg (by omega)]
        exact aux m (j + 1) (by omega) h.2
      · simp only [writeByte, readByte, h1, hb, if_true, if_false]
    · by_cases h2 : a = j
      · subst h2
        by_cases hb : b = 0
        · have aux : ∀ (l : List Cell) (q : Nat), a < q → memFrom q l = true → readByte l a = 0 := by
            intro l
            induction l with
            | nil => intros; rfl
            | cons f l ihl =>
              intro q hq hl
              simp only [memFrom, Bool.and_eq_true, decide_eq_true_eq] at hl
              simp only [readByte]
              rw [if_neg (by omega)]
              exact ihl (f.1 + 1) (by omega) hl.2
          simp only [writeByte, lt_irrefl, if_false, hb, if_true]
          exact aux m (a + 1) (by omega) h.2
        · simp only [writeByte, readByte, lt_irrefl, hb, if_true, if_false]
      · simp only [writeByte, h1, h2, if_false, readByte]
        rw [if_neg (by omega)]
        exact ih (j + 1) h.2

/-- Another byte. -/
@[simp] theorem readByte_writeByte_ne (m : List Cell) {a x : Nat} (b : Byte) (h : x ≠ a) :
    readByte (writeByte m a b) x = readByte m x := by
  induction m with
  | nil => by_cases hb : b = 0 <;> simp only [writeByte, readByte, hb, if_true, if_false, Ne.symm h]
  | cons e m ih =>
    obtain ⟨j, c⟩ := e
    by_cases h1 : a < j
    · by_cases hb : b = 0
      · simp only [writeByte, h1, hb, if_true]
      · simp only [writeByte, readByte, h1, hb, if_true, if_false, Ne.symm h]
    · by_cases h2 : a = j
      · subst h2
        by_cases hb : b = 0 <;> simp only [writeByte, readByte, lt_irrefl, hb, if_true, if_false, Ne.symm h]
      · simp only [writeByte, h1, h2, if_false, readByte, ih]

/-! ### The canonical form -/

/-- A lower bound may be lowered. -/
theorem memFrom_mono {lo hi : Nat} (h : lo ≤ hi) : ∀ m : List Cell, memFrom hi m = true → memFrom lo m = true
  | [], _ => rfl
  | e :: m, hm => by
    simp only [memFrom, Bool.and_eq_true, decide_eq_true_eq] at hm ⊢
    exact ⟨⟨by omega, hm.1.2⟩, hm.2⟩

/-- A written byte keeps the form. -/
theorem memFrom_writeByte : ∀ (m : List Cell) (lo a : Nat) (b : Byte), lo ≤ a → memFrom lo m = true →
    memFrom lo (writeByte m a b) = true
  | [], lo, a, b, ha, _ => by
    by_cases hb : b = 0
    · simp only [writeByte, hb, if_true]; rfl
    · simp only [writeByte, hb, if_false, memFrom, Bool.and_eq_true, decide_eq_true_eq]
      exact ⟨⟨ha, bne_iff_ne.mpr hb⟩, trivial⟩
  | (j, c) :: m, lo, a, b, ha, h => by
    have hm := h
    simp only [memFrom, Bool.and_eq_true, decide_eq_true_eq] at hm
    by_cases h1 : a < j
    · by_cases hb : b = 0
      · simp only [writeByte, h1, hb, if_true]; exact h
      · simp only [writeByte, h1, hb, if_true, if_false, memFrom, Bool.and_eq_true, decide_eq_true_eq]
        exact ⟨⟨ha, bne_iff_ne.mpr hb⟩, ⟨by omega, hm.1.2⟩, hm.2⟩
    · by_cases h2 : a = j
      · subst h2
        by_cases hb : b = 0
        · simp only [writeByte, lt_irrefl, if_false, hb, if_true]
          exact memFrom_mono (by omega) m hm.2
        · simp only [writeByte, lt_irrefl, if_false, hb, if_true, memFrom, Bool.and_eq_true, decide_eq_true_eq]
          exact ⟨⟨hm.1.1, bne_iff_ne.mpr hb⟩, hm.2⟩
      · simp only [writeByte, h1, h2, if_false, memFrom, Bool.and_eq_true, decide_eq_true_eq]
        exact ⟨hm.1, memFrom_writeByte m (j + 1) a b (by omega) hm.2⟩

/-- A filter keeps the form. -/
theorem memFrom_filter (p : Cell → Bool) : ∀ (m : List Cell) (lo : Nat), memFrom lo m = true →
    memFrom lo (m.filter p) = true
  | [], _, _ => rfl
  | e :: m, lo, h => by
    simp only [memFrom, Bool.and_eq_true, decide_eq_true_eq] at h
    simp only [List.filter_cons]
    split
    · simp only [memFrom, Bool.and_eq_true, decide_eq_true_eq]
      exact ⟨h.1, memFrom_filter p m _ h.2⟩
    · exact memFrom_mono (by omega) _ (memFrom_filter p m _ h.2)

/-- Storage stays canonical under a write of one byte. -/
theorem Memory.wf_writeByte {m : List Cell} (a : Nat) (b : Byte) (h : Memory.wf m = true) :
    Memory.wf (writeByte m a b) = true := memFrom_writeByte m 0 a b (Nat.zero_le _) h

/-- Of several bytes. -/
theorem Memory.wf_writeBytes : ∀ (bs : List Byte) {m : List Cell} (a : Nat), Memory.wf m = true →
    Memory.wf (writeBytes m a bs) = true
  | [], _, _, h => h
  | _ :: bs, _, a, h => Memory.wf_writeBytes bs (a + 1) (Memory.wf_writeByte a _ h)

/-- Of a filter. -/
theorem Memory.wf_filter {m : List Cell} (p : Cell → Bool) (h : Memory.wf m = true) : Memory.wf (m.filter p) = true :=
  memFrom_filter p m 0 h

/-- Of a range that reads as zero. -/
theorem Memory.wf_zeroRange {m : List Cell} (a n : Nat) (h : Memory.wf m = true) : Memory.wf (zeroRange m a n) = true :=
  Memory.wf_filter _ h

/-- Of cells laid over it. -/
theorem Memory.wf_overlay : ∀ (cs : List Cell) {m : List Cell}, Memory.wf m = true → Memory.wf (overlay m cs) = true
  | [], _, h => h
  | _ :: cs, _, h => Memory.wf_overlay cs (Memory.wf_writeByte _ _ h)

/-- Of a range copied within it. -/
theorem Memory.wf_copyRange {m : List Cell} (a n b : Nat) (h : Memory.wf m = true) :
    Memory.wf (copyRange m a n b) = true := Memory.wf_overlay _ (Memory.wf_zeroRange b n h)

/-! ### Several bytes -/

/-- Bytes outside those written keep their value. -/
theorem readByte_writeBytes_ne : ∀ (bs : List Byte) (m : List Cell) (a x : Nat), (x < a ∨ a + bs.length ≤ x) →
    readByte (writeBytes m a bs) x = readByte m x
  | [], _, _, _, _ => rfl
  | b :: bs, m, a, x, h => by
    simp only [List.length_cons] at h
    rw [writeBytes, readByte_writeBytes_ne bs _ (a + 1) x (by omega), readByte_writeByte_ne _ _ (by omega)]

/-- Bytes just written. -/
theorem readBytes_writeBytes : ∀ (bs : List Byte) (m : List Cell) (a : Nat), Memory.wf m = true →
    readBytes (writeBytes m a bs) a bs.length = bs
  | [], _, _, _ => rfl
  | b :: bs, m, a, h => by
    simp only [List.length_cons, readBytes, writeBytes]
    rw [readByte_writeBytes_ne bs _ (a + 1) a (by omega), readByte_writeByte_self m a b 0 h,
      readBytes_writeBytes bs _ (a + 1) (Memory.wf_writeByte a b h)]

/-! ### The helpers that write storage (R143, R309-R311) -/

/-- What stores a producer's bytes. -/
theorem wf_putBytes {s : State} (k : Nat) (bs : List Byte) (h : Memory.wf s.mem = true) :
    Memory.wf (putBytes s k bs).mem = true := Memory.wf_writeBytes bs k h

/-- A number of bytes. -/
theorem wf_putNat {s : State} (k n v : Nat) (h : Memory.wf s.mem = true) : Memory.wf (putNat s k n v).mem = true :=
  wf_putBytes k _ h

/-- A doubleword. -/
theorem wf_putDw {s : State} (k : Nat) (v : Word) (h : Memory.wf s.mem = true) : Memory.wf (putDw s k v).mem = true :=
  wf_putNat k 8 _ h

/-- Several doublewords. -/
theorem wf_putDws : ∀ (vs : List Word) {s : State} (k : Nat), Memory.wf s.mem = true →
    Memory.wf (putDws s k vs).mem = true
  | [], _, _, h => h
  | v :: vs, _, k, h => wf_putDws vs (k + 8) (wf_putDw k v h)

/-- Doublewords carried with their checks. -/
theorem wf_carry {s : State} (src n dst : Nat) (h : Memory.wf s.mem = true) : Memory.wf (carry s src n dst).mem = true :=
  Memory.wf_copyRange src n dst h

/-- A cleared range. -/
theorem wf_clearRange {s : State} (k n : Nat) (h : Memory.wf s.mem = true) : Memory.wf (clearRange s k n).mem = true :=
  Memory.wf_zeroRange k n h

/-- A store to memory. -/
theorem wf_storeMem {s : State} (part core pa key : Nat) (bs : List Byte) (h : Memory.wf s.mem = true) :
    Memory.wf (storeMem s part core pa key bs).mem = true := by
  apply wf_putBytes
  exact h

end Sys2Proof.Machine
end

