-- ==== Sys2Proof/Laws/Micro.lean ====
section
/-!
SUPPORT. What the shared forms of a micro-thread's word do, in the terms of `Sys2Proof.Safety`: skipped without its guard,
held for the link, or completed.
-/

namespace Sys2Proof.Machine

/-- A word under its guard, on a block that runs. -/
theorem State.word_guard {s : State} {b : Blk} (hb : s.Runs b) (h : WHdr) (f : Blk → WRes) (hg : b.guard h = true) :
    s.word h f =
      match f b with
      | .go d t => .next (t.setBlk { d with pos := d.pos + 1, heldSince := none, stalled := false })
      | .hold t => .next t.noteHold
      | .wait t => .next t
      | .fault e t => .next (t.mtFault t.cur t.curMt t.myMt e) := by
  obtain ⟨h1, h2, h3⟩ := hb
  simp only [State.word, h1, h2, h3, hg, Option.isSome_none, Bool.or_self, Bool.false_eq_true, if_false, if_true]
  all_goals (cases f b <;> rfl)

/-- A word without its guard. -/
theorem State.word_skip {s : State} {b : Blk} (hb : s.Runs b) (h : WHdr) (f : Blk → WRes) (hg : b.guard h = false) :
    s.word h f = .next (s.setBlk { b with pos := b.pos + 1 }) := by
  obtain ⟨h1, h2, h3⟩ := hb
  simp only [State.word, h1, h2, h3, hg, Option.isSome_none, Bool.or_self, Bool.false_eq_true, if_false]

/-- Reading a source moves nothing of the block but the count of entries taken. -/
theorem Blk.src_pos {b c : Blk} {q : List Word} {r : RegNo} {x : Word} (h : b.src q r = some (x, c)) :
    c = { b with pops := c.pops } := by
  unfold Blk.src at h
  split at h
  · cases h; rfl
  · split at h
    · cases h; rfl
    · split at h
      · cases h; rfl
      · split at h
        · split at h
          · cases h; rfl
          · cases h
        · cases h; rfl

/-- Writing a destination leaves the position. -/
theorem Blk.dst_pos (b : Blk) (r : RegNo) (v : Word) : (b.dst r v).pos = b.pos := by
  unfold Blk.dst; split
  · rfl
  · split
    · rfl
    · split <;> rfl

/-- A word of no source. -/
theorem word0_of {i : Instr} {s : State} {h : WHdr} {r : Blk → Blk} (hr : ∀ b, (r b).pos = b.pos)
    (e : exec i s = s.word h (fun b => .go (r b) s)) : Word0 i s h r := by
  intro b hb
  refine ⟨fun hg => ?_, fun hg => ?_⟩
  · rw [WSkips, e, State.word_skip hb h _ hg]
  · rw [WGives, e, State.word_guard hb h _ hg]; simp only [hr]

/-- A word of one source. -/
theorem word1_of {i : Instr} {s : State} {h : WHdr} {wa : RegNo} {r : Blk → Blk → Word → Blk}
    (hr : ∀ b c x, (r b c x).pos = c.pos)
    (e : exec i s = s.word h (fun b =>
      match b.src s.myMt.linkq wa with
      | none => .hold s
      | some (x, b1) => .go (r b b1 x) s)) : Word1 i s h wa r := by
  intro b hb
  refine ⟨fun hg => ?_, fun hg => ⟨fun h1 => ?_, fun x b1 h1 => ?_⟩⟩
  · rw [WSkips, e, State.word_skip hb h _ hg]
  · rw [e, State.word_guard hb h _ hg]; simp only [h1]
  · have : b1.pos = b.pos := by rw [Blk.src_pos h1]
    rw [WGives, e, State.word_guard hb h _ hg]; simp only [h1, hr, this]

/-- A word of two sources. -/
theorem word2_of {i : Instr} {s : State} {h : WHdr} {wa wb : RegNo} {r : Blk → Blk → Word → Word → Blk}
    (hr : ∀ b c x y, (r b c x y).pos = c.pos)
    (e : exec i s = s.word h (fun b =>
      match b.src s.myMt.linkq wa with
      | none => .hold s
      | some (x, b1) =>
        match b1.src s.myMt.linkq wb with
        | none => .hold s
        | some (y, b2) => .go (r b b2 x y) s)) : Word2 i s h wa wb r := by
  intro b hb
  refine ⟨fun hg => ?_, fun hg => ⟨fun h1 => ?_, fun x b1 h1 => ⟨fun h2 => ?_, fun y b2 h2 => ?_⟩⟩⟩
  · rw [WSkips, e, State.word_skip hb h _ hg]
  · rw [e, State.word_guard hb h _ hg]; simp only [h1]
  · rw [e, State.word_guard hb h _ hg]; simp only [h1, h2]
  · have p1 : b1.pos = b.pos := by rw [Blk.src_pos h1]
    have p2 : b2.pos = b1.pos := by rw [Blk.src_pos h2]
    rw [WGives, e, State.word_guard hb h _ hg]; simp only [h1, h2, hr, p1, p2]

/-- The form of `wordF2`. -/
theorem word2_wordF2 {i : Instr} {s : State} {h : WHdr} {wd wa wb : RegNo} {f : Blk → Word → Word → Word × BitVec 7}
    (e : exec i s = s.wordF2 h wd wa wb f) :
    Word2 i s h wa wb (fun b c x y => (c.dst wd (f b x y).1).flag (f b x y).2) :=
  word2_of (fun _ c x y => by simp only [Blk.flag, Blk.dst_pos]) e

/-- The form of `wordF1`. -/
theorem word1_wordF1 {i : Instr} {s : State} {h : WHdr} {wd wa : RegNo} {f : Blk → Word → Word × BitVec 7}
    (e : exec i s = s.wordF1 h wd wa f) :
    Word1 i s h wa (fun b c x => (c.dst wd (f b x).1).flag (f b x).2) :=
  word1_of (fun _ c x => by simp only [Blk.flag, Blk.dst_pos]) e

/-- The form of `wordCmp`. -/
theorem word2_wordCmp {i : Instr} {s : State} {h : WHdr} {bank : BitVec 2} {pd wa wb : RegNo}
    {f : Word → Word → Bool × BitVec 7} (e : exec i s = s.wordCmp h bank pd wa wb f) :
    Word2 i s h wa wb (fun _ c x y => (c.setPred bank pd (f x y).1).flag (f x y).2) :=
  word2_of (fun _ _ _ _ => rfl) e

/-- No flag. -/
@[simp] theorem Blk.flag_zero (b : Blk) : b.flag 0 = b := by simp [Blk.flag]

end Sys2Proof.Machine
end

