-- ==== Sys2Proof/Laws/PerInstr.lean ====
section
/-!
SUPPORT. Statements made of every instruction as syntax, constructor by constructor.

`RoundTrip`: the word that the encoder gives a well-formed instruction decodes, in its own stream, to that instruction
with every operand; a step of another agent has no word.
-/

namespace Sys2Proof

/-- A field within the lower part of two parts put side by side. -/
theorem fld_lo {m n : Nat} (x : BitVec m) (y : BitVec n) (lo len : Nat) (h : lo + len ≤ n) :
    BitVec.extractLsb' lo len (cat x y) = y.extractLsb' lo len := by
  ext i hi
  simp [cat, BitVec.getElem_extractLsb', BitVec.getLsbD_append]
  omega

/-- A field within the higher part. -/
theorem fld_hi {m n : Nat} (x : BitVec m) (y : BitVec n) (lo len : Nat) (h : n ≤ lo) :
    BitVec.extractLsb' lo len (cat x y) = x.extractLsb' (lo - n) len := by
  ext i hi
  simp [cat, BitVec.getElem_extractLsb', BitVec.getLsbD_append]
  rw [if_neg (by omega)]
  congr 1; omega

namespace Laws.RoundTrip

/-- What is said of one instruction. -/
def Statement (i : Instr) : Prop :=
  i.wf = true →
    match i.streamOf with
    | .control => ∃ w, encode i = some w ∧ decodeC w = .ok i
    | .micro => ∃ w, encode i = some w ∧ decodeW w = .ok i
    | .event => encode i = none

theorem add (rd : RegNo) (ra : RegNo) (rb : RegNo) : Statement (.add rd ra rb) := by
  intro h
  refine ⟨_, rfl, ?_⟩
  simp (disch := decide) [decodeC, rawC, rawC1, fld, h, fld_lo, fld_hi]

theorem sub (rd : RegNo) (ra : RegNo) (rb : RegNo) : Statement (.sub rd ra rb) := by
  intro h
  refine ⟨_, rfl, ?_⟩
  simp (disch := decide) [decodeC, rawC, rawC1, fld, h, fld_lo, fld_hi]

theorem and_ (rd : RegNo) (ra : RegNo) (rb : RegNo) : Statement (.and_ rd ra rb) := by
  intro h
  refine ⟨_, rfl, ?_⟩
  simp (disch := decide) [decodeC, rawC, rawC1, fld, h, fld_lo, fld_hi]

theorem or_ (rd : RegNo) (ra : RegNo) (rb : RegNo) : Statement (.or_ rd ra rb) := by
  intro h
  refine ⟨_, rfl, ?_⟩
  simp (disch := decide) [decodeC, rawC, rawC1, fld, h, fld_lo, fld_hi]

theorem xor_ (rd : RegNo) (ra : RegNo) (rb : RegNo) : Statement (.xor_ rd ra rb) := by
  intro h
  refine ⟨_, rfl, ?_⟩
  simp (disch := decide) [decodeC, rawC, rawC1, fld, h, fld_lo, fld_hi]

theorem andn (rd : RegNo) (ra : RegNo) (rb : RegNo) : Statement (.andn rd ra rb) := by
  intro h
  refine ⟨_, rfl, ?_⟩
  simp (disch := decide) [decodeC, rawC, rawC1, fld, h, fld_lo, fld_hi]

theorem orn (rd : RegNo) (ra : RegNo) (rb : RegNo) : Statement (.orn rd ra rb) := by
  intro h
  refine ⟨_, rfl, ?_⟩
  simp (disch := decide) [decodeC, rawC, rawC1, fld, h, fld_lo, fld_hi]

theorem xnor (rd : RegNo) (ra : RegNo) (rb : RegNo) : Statement (.xnor rd ra rb) := by
  intro h
  refine ⟨_, rfl, ?_⟩
  simp (disch := decide) [decodeC, rawC, rawC1, fld, h, fld_lo, fld_hi]

theorem sll (rd : RegNo) (ra : RegNo) (rb : RegNo) : Statement (.sll rd ra rb) := by
  intro h
  refine ⟨_, rfl, ?_⟩
  simp (disch := decide) [decodeC, rawC, rawC1, fld, h, fld_lo, fld_hi]

theorem srl (rd : RegNo) (ra : RegNo) (rb : RegNo) : Statement (.srl rd ra rb) := by
  intro h
  refine ⟨_, rfl, ?_⟩
  simp (disch := decide) [decodeC, rawC, rawC1, fld, h, fld_lo, fld_hi]

theorem sra (rd : RegNo) (ra : RegNo) (rb : RegNo) : Statement (.sra rd ra rb) := by
  intro h
  refine ⟨_, rfl, ?_⟩
  simp (disch := decide) [decodeC, rawC, rawC1, fld, h, fld_lo, fld_hi]

theorem rol (rd : RegNo) (ra : RegNo) (rb : RegNo) : Statement (.rol rd ra rb) := by
  intro h
  refine ⟨_, rfl, ?_⟩
  simp (disch := decide) [decodeC, rawC, rawC1, fld, h, fld_lo, fld_hi]

theorem ror (rd : RegNo) (ra : RegNo) (rb : RegNo) : Statement (.ror rd ra rb) := by
  intro h
  refine ⟨_, rfl, ?_⟩
  simp (disch := decide) [decodeC, rawC, rawC1, fld, h, fld_lo, fld_hi]

theorem slt (rd : RegNo) (ra : RegNo) (rb : RegNo) : Statement (.slt rd ra rb) := by
  intro h
  refine ⟨_, rfl, ?_⟩
  simp (disch := decide) [decodeC, rawC, rawC1, fld, h, fld_lo, fld_hi]

theorem sltu (rd : RegNo) (ra : RegNo) (rb : RegNo) : Statement (.sltu rd ra rb) := by
  intro h
  refine ⟨_, rfl, ?_⟩
  simp (disch := decide) [decodeC, rawC, rawC1, fld, h, fld_lo, fld_hi]

theorem seq (rd : RegNo) (ra : RegNo) (rb : RegNo) : Statement (.seq rd ra rb) := by
  intro h
  refine ⟨_, rfl, ?_⟩
  simp (disch := decide) [decodeC, rawC, rawC1, fld, h, fld_lo, fld_hi]

theorem sne (rd : RegNo) (ra : RegNo) (rb : RegNo) : Statement (.sne rd ra rb) := by
  intro h
  refine ⟨_, rfl, ?_⟩
  simp (disch := decide) [decodeC, rawC, rawC1, fld, h, fld_lo, fld_hi]

theorem min_ (rd : RegNo) (ra : RegNo) (rb : RegNo) : Statement (.min_ rd ra rb) := by
  intro h
  refine ⟨_, rfl, ?_⟩
  simp (disch := decide) [decodeC, rawC, rawC1, fld, h, fld_lo, fld_hi]

theorem max_ (rd : RegNo) (ra : RegNo) (rb : RegNo) : Statement (.max_ rd ra rb) := by
  intro h
  refine ⟨_, rfl, ?_⟩
  simp (disch := decide) [decodeC, rawC, rawC1, fld, h, fld_lo, fld_hi]

theorem minu (rd : RegNo) (ra : RegNo) (rb : RegNo) : Statement (.minu rd ra rb) := by
  intro h
  refine ⟨_, rfl, ?_⟩
  simp (disch := decide) [decodeC, rawC, rawC1, fld, h, fld_lo, fld_hi]

theorem maxu (rd : RegNo) (ra : RegNo) (rb : RegNo) : Statement (.maxu rd ra rb) := by
  intro h
  refine ⟨_, rfl, ?_⟩
  simp (disch := decide) [decodeC, rawC, rawC1, fld, h, fld_lo, fld_hi]

theorem clz (rd : RegNo) (ra : RegNo) : Statement (.clz rd ra) := by
  intro h
  refine ⟨_, rfl, ?_⟩
  simp (disch := decide) [decodeC, rawC, rawC1, fld, h, fld_lo, fld_hi]

theorem ctz (rd : RegNo) (ra : RegNo) : Statement (.ctz rd ra) := by
  intro h
  refine ⟨_, rfl, ?_⟩
  simp (disch := decide) [decodeC, rawC, rawC1, fld, h, fld_lo, fld_hi]

theorem popc (rd : RegNo) (ra : RegNo) : Statement (.popc rd ra) := by
  intro h
  refine ⟨_, rfl, ?_⟩
  simp (disch := decide) [decodeC, rawC, rawC1, fld, h, fld_lo, fld_hi]

theorem sextb (rd : RegNo) (ra : RegNo) : Statement (.sextb rd ra) := by
  intro h
  refine ⟨_, rfl, ?_⟩
  simp (disch := decide) [decodeC, rawC, rawC1, fld, h, fld_lo, fld_hi]

theorem sexth (rd : RegNo) (ra : RegNo) : Statement (.sexth rd ra) := by
  intro h
  refine ⟨_, rfl, ?_⟩
  simp (disch := decide) [decodeC, rawC, rawC1, fld, h, fld_lo, fld_hi]

theorem sextw (rd : RegNo) (ra : RegNo) : Statement (.sextw rd ra) := by
  intro h
  refine ⟨_, rfl, ?_⟩
  simp (disch := decide) [decodeC, rawC, rawC1, fld, h, fld_lo, fld_hi]

theorem addi (rd : RegNo) (ra : RegNo) (imm : BitVec 12) : Statement (.addi rd ra imm) := by
  intro h
  refine ⟨_, rfl, ?_⟩
  simp (disch := decide) [decodeC, rawC, rawC2, fld, h, fld_lo, fld_hi]

theorem andi (rd : RegNo) (ra : RegNo) (imm : BitVec 12) : Statement (.andi rd ra imm) := by
  intro h
  refine ⟨_, rfl, ?_⟩
  simp (disch := decide) [decodeC, rawC, rawC2, fld, h, fld_lo, fld_hi]

theorem ori (rd : RegNo) (ra : RegNo) (imm : BitVec 12) : Statement (.ori rd ra imm) := by
  intro h
  refine ⟨_, rfl, ?_⟩
  simp (disch := decide) [decodeC, rawC, rawC2, fld, h, fld_lo, fld_hi]

theorem xori (rd : RegNo) (ra : RegNo) (imm : BitVec 12) : Statement (.xori rd ra imm) := by
  intro h
  refine ⟨_, rfl, ?_⟩
  simp (disch := decide) [decodeC, rawC, rawC2, fld, h, fld_lo, fld_hi]

theorem slli (rd : RegNo) (ra : RegNo) (sh : BitVec 6) : Statement (.slli rd ra sh) := by
  intro h
  refine ⟨_, rfl, ?_⟩
  simp (disch := decide) [decodeC, rawC, rawC2, fld, h, fld_lo, fld_hi]

theorem srli (rd : RegNo) (ra : RegNo) (sh : BitVec 6) : Statement (.srli rd ra sh) := by
  intro h
  refine ⟨_, rfl, ?_⟩
  simp (disch := decide) [decodeC, rawC, rawC2, fld, h, fld_lo, fld_hi]

theorem srai (rd : RegNo) (ra : RegNo) (sh : BitVec 6) : Statement (.srai rd ra sh) := by
  intro h
  refine ⟨_, rfl, ?_⟩
  simp (disch := decide) [decodeC, rawC, rawC2, fld, h, fld_lo, fld_hi]

theorem rori (rd : RegNo) (ra : RegNo) (sh : BitVec 6) : Statement (.rori rd ra sh) := by
  intro h
  refine ⟨_, rfl, ?_⟩
  simp (disch := decide) [decodeC, rawC, rawC2, fld, h, fld_lo, fld_hi]

theorem slti (rd : RegNo) (ra : RegNo) (imm : BitVec 12) : Statement (.slti rd ra imm) := by
  intro h
  refine ⟨_, rfl, ?_⟩
  simp (disch := decide) [decodeC, rawC, rawC2, fld, h, fld_lo, fld_hi]

theorem sltiu (rd : RegNo) (ra : RegNo) (imm : BitVec 12) : Statement (.sltiu rd ra imm) := by
  intro h
  refine ⟨_, rfl, ?_⟩
  simp (disch := decide) [decodeC, rawC, rawC2, fld, h, fld_lo, fld_hi]

theorem seqi (rd : RegNo) (ra : RegNo) (imm : BitVec 12) : Statement (.seqi rd ra imm) := by
  intro h
  refine ⟨_, rfl, ?_⟩
  simp (disch := decide) [decodeC, rawC, rawC2, fld, h, fld_lo, fld_hi]

theorem mul (rd : RegNo) (ra : RegNo) (rb : RegNo) : Statement (.mul rd ra rb) := by
  intro h
  refine ⟨_, rfl, ?_⟩
  simp (disch := decide) [decodeC, rawC, rawC3, fld, h, fld_lo, fld_hi]

theorem mulh (rd : RegNo) (ra : RegNo) (rb : RegNo) : Statement (.mulh rd ra rb) := by
  intro h
  refine ⟨_, rfl, ?_⟩
  simp (disch := decide) [decodeC, rawC, rawC3, fld, h, fld_lo, fld_hi]

theorem mulhu (rd : RegNo) (ra : RegNo) (rb : RegNo) : Statement (.mulhu rd ra rb) := by
  intro h
  refine ⟨_, rfl, ?_⟩
  simp (disch := decide) [decodeC, rawC, rawC3, fld, h, fld_lo, fld_hi]

theorem mulhsu (rd : RegNo) (ra : RegNo) (rb : RegNo) : Statement (.mulhsu rd ra rb) := by
  intro h
  refine ⟨_, rfl, ?_⟩
  simp (disch := decide) [decodeC, rawC, rawC3, fld, h, fld_lo, fld_hi]

theorem div (rd : RegNo) (ra : RegNo) (rb : RegNo) : Statement (.div rd ra rb) := by
  intro h
  refine ⟨_, rfl, ?_⟩
  simp (disch := decide) [decodeC, rawC, rawC3, fld, h, fld_lo, fld_hi]

theorem divu (rd : RegNo) (ra : RegNo) (rb : RegNo) : Statement (.divu rd ra rb) := by
  intro h
  refine ⟨_, rfl, ?_⟩
  simp (disch := decide) [decodeC, rawC, rawC3, fld, h, fld_lo, fld_hi]

theorem rem (rd : RegNo) (ra : RegNo) (rb : RegNo) : Statement (.rem rd ra rb) := by
  intro h
  refine ⟨_, rfl, ?_⟩
  simp (disch := decide) [decodeC, rawC, rawC3, fld, h, fld_lo, fld_hi]

theorem remu (rd : RegNo) (ra : RegNo) (rb : RegNo) : Statement (.remu rd ra rb) := by
  intro h
  refine ⟨_, rfl, ?_⟩
  simp (disch := decide) [decodeC, rawC, rawC3, fld, h, fld_lo, fld_hi]

theorem fadd (rd : RegNo) (ra : RegNo) (rb : RegNo) (p : BitVec 1) : Statement (.fadd rd ra rb p) := by
  intro h
  refine ⟨_, rfl, ?_⟩
  simp (disch := decide) [decodeC, rawC, rawC4, fld, h, fld_lo, fld_hi]

theorem fsub (rd : RegNo) (ra : RegNo) (rb : RegNo) (p : BitVec 1) : Statement (.fsub rd ra rb p) := by
  intro h
  refine ⟨_, rfl, ?_⟩
  simp (disch := decide) [decodeC, rawC, rawC4, fld, h, fld_lo, fld_hi]

theorem fmul (rd : RegNo) (ra : RegNo) (rb : RegNo) (p : BitVec 1) : Statement (.fmul rd ra rb p) := by
  intro h
  refine ⟨_, rfl, ?_⟩
  simp (disch := decide) [decodeC, rawC, rawC4, fld, h, fld_lo, fld_hi]

theorem fdiv (rd : RegNo) (ra : RegNo) (rb : RegNo) (p : BitVec 1) : Statement (.fdiv rd ra rb p) := by
  intro h
  refine ⟨_, rfl, ?_⟩
  simp (disch := decide) [decodeC, rawC, rawC4, fld, h, fld_lo, fld_hi]

theorem fsqrt (rd : RegNo) (ra : RegNo) (p : BitVec 1) : Statement (.fsqrt rd ra p) := by
  intro h
  refine ⟨_, rfl, ?_⟩
  simp (disch := decide) [decodeC, rawC, rawC4, fld, h, fld_lo, fld_hi]

theorem fmin (rd : RegNo) (ra : RegNo) (rb : RegNo) (p : BitVec 1) : Statement (.fmin rd ra rb p) := by
  intro h
  refine ⟨_, rfl, ?_⟩
  simp (disch := decide) [decodeC, rawC, rawC4, fld, h, fld_lo, fld_hi]

theorem fmax (rd : RegNo) (ra : RegNo) (rb : RegNo) (p : BitVec 1) : Statement (.fmax rd ra rb p) := by
  intro h
  refine ⟨_, rfl, ?_⟩
  simp (disch := decide) [decodeC, rawC, rawC4, fld, h, fld_lo, fld_hi]

theorem fabs (rd : RegNo) (ra : RegNo) (p : BitVec 1) : Statement (.fabs rd ra p) := by
  intro h
  refine ⟨_, rfl, ?_⟩
  simp (disch := decide) [decodeC, rawC, rawC4, fld, h, fld_lo, fld_hi]

theorem fneg (rd : RegNo) (ra : RegNo) (p : BitVec 1) : Statement (.fneg rd ra p) := by
  intro h
  refine ⟨_, rfl, ?_⟩
  simp (disch := decide) [decodeC, rawC, rawC4, fld, h, fld_lo, fld_hi]

theorem fmadd (rd : RegNo) (ra : RegNo) (rb : RegNo) (p : BitVec 1) : Statement (.fmadd rd ra rb p) := by
  intro h
  refine ⟨_, rfl, ?_⟩
  simp (disch := decide) [decodeC, rawC, rawC4, fld, h, fld_lo, fld_hi]

theorem fmsub (rd : RegNo) (ra : RegNo) (rb : RegNo) (p : BitVec 1) : Statement (.fmsub rd ra rb p) := by
  intro h
  refine ⟨_, rfl, ?_⟩
  simp (disch := decide) [decodeC, rawC, rawC4, fld, h, fld_lo, fld_hi]

theorem fnmadd (rd : RegNo) (ra : RegNo) (rb : RegNo) (p : BitVec 1) : Statement (.fnmadd rd ra rb p) := by
  intro h
  refine ⟨_, rfl, ?_⟩
  simp (disch := decide) [decodeC, rawC, rawC4, fld, h, fld_lo, fld_hi]

theorem fnmsub (rd : RegNo) (ra : RegNo) (rb : RegNo) (p : BitVec 1) : Statement (.fnmsub rd ra rb p) := by
  intro h
  refine ⟨_, rfl, ?_⟩
  simp (disch := decide) [decodeC, rawC, rawC4, fld, h, fld_lo, fld_hi]

theorem feq (rd : RegNo) (ra : RegNo) (rb : RegNo) (p : BitVec 1) : Statement (.feq rd ra rb p) := by
  intro h
  refine ⟨_, rfl, ?_⟩
  simp (disch := decide) [decodeC, rawC, rawC4, fld, h, fld_lo, fld_hi]

theorem flt (rd : RegNo) (ra : RegNo) (rb : RegNo) (p : BitVec 1) : Statement (.flt rd ra rb p) := by
  intro h
  refine ⟨_, rfl, ?_⟩
  simp (disch := decide) [decodeC, rawC, rawC4, fld, h, fld_lo, fld_hi]

theorem fle (rd : RegNo) (ra : RegNo) (rb : RegNo) (p : BitVec 1) : Statement (.fle rd ra rb p) := by
  intro h
  refine ⟨_, rfl, ?_⟩
  simp (disch := decide) [decodeC, rawC, rawC4, fld, h, fld_lo, fld_hi]

theorem fcvtL (rd : RegNo) (ra : RegNo) (p : BitVec 1) : Statement (.fcvtL rd ra p) := by
  intro h
  refine ⟨_, rfl, ?_⟩
  simp (disch := decide) [decodeC, rawC, rawC4, fld, h, fld_lo, fld_hi]

theorem fcvtLu (rd : RegNo) (ra : RegNo) (p : BitVec 1) : Statement (.fcvtLu rd ra p) := by
  intro h
  refine ⟨_, rfl, ?_⟩
  simp (disch := decide) [decodeC, rawC, rawC4, fld, h, fld_lo, fld_hi]

theorem fcvtFromL (rd : RegNo) (ra : RegNo) (p : BitVec 1) : Statement (.fcvtFromL rd ra p) := by
  intro h
  refine ⟨_, rfl, ?_⟩
  simp (disch := decide) [decodeC, rawC, rawC4, fld, h, fld_lo, fld_hi]

theorem fcvtFromLu (rd : RegNo) (ra : RegNo) (p : BitVec 1) : Statement (.fcvtFromLu rd ra p) := by
  intro h
  refine ⟨_, rfl, ?_⟩
  simp (disch := decide) [decodeC, rawC, rawC4, fld, h, fld_lo, fld_hi]

theorem fcvtW (rd : RegNo) (ra : RegNo) (p : BitVec 1) : Statement (.fcvtW rd ra p) := by
  intro h
  refine ⟨_, rfl, ?_⟩
  simp (disch := decide) [decodeC, rawC, rawC4, fld, h, fld_lo, fld_hi]

theorem fcvtWu (rd : RegNo) (ra : RegNo) (p : BitVec 1) : Statement (.fcvtWu rd ra p) := by
  intro h
  refine ⟨_, rfl, ?_⟩
  simp (disch := decide) [decodeC, rawC, rawC4, fld, h, fld_lo, fld_hi]

theorem fcvtFromW (rd : RegNo) (ra : RegNo) (p : BitVec 1) : Statement (.fcvtFromW rd ra p) := by
  intro h
  refine ⟨_, rfl, ?_⟩
  simp (disch := decide) [decodeC, rawC, rawC4, fld, h, fld_lo, fld_hi]

theorem fcvtFromWu (rd : RegNo) (ra : RegNo) (p : BitVec 1) : Statement (.fcvtFromWu rd ra p) := by
  intro h
  refine ⟨_, rfl, ?_⟩
  simp (disch := decide) [decodeC, rawC, rawC4, fld, h, fld_lo, fld_hi]

theorem fcvtDS (rd : RegNo) (ra : RegNo) : Statement (.fcvtDS rd ra) := by
  intro h
  refine ⟨_, rfl, ?_⟩
  simp (disch := decide) [decodeC, rawC, rawC4, fld, h, fld_lo, fld_hi]

theorem fcvtSD (rd : RegNo) (ra : RegNo) : Statement (.fcvtSD rd ra) := by
  intro h
  refine ⟨_, rfl, ?_⟩
  simp (disch := decide) [decodeC, rawC, rawC4, fld, h, fld_lo, fld_hi]

theorem fclass (rd : RegNo) (ra : RegNo) (p : BitVec 1) : Statement (.fclass rd ra p) := by
  intro h
  refine ⟨_, rfl, ?_⟩
  simp (disch := decide) [decodeC, rawC, rawC4, fld, h, fld_lo, fld_hi]

theorem lb (rd : RegNo) (ra : RegNo) (imm : BitVec 12) : Statement (.lb rd ra imm) := by
  intro h
  refine ⟨_, rfl, ?_⟩
  simp (disch := decide) [decodeC, rawC, rawC5, fld, h, fld_lo, fld_hi]

theorem lh (rd : RegNo) (ra : RegNo) (imm : BitVec 12) : Statement (.lh rd ra imm) := by
  intro h
  refine ⟨_, rfl, ?_⟩
  simp (disch := decide) [decodeC, rawC, rawC5, fld, h, fld_lo, fld_hi]

theorem lw (rd : RegNo) (ra : RegNo) (imm : BitVec 12) : Statement (.lw rd ra imm) := by
  intro h
  refine ⟨_, rfl, ?_⟩
  simp (disch := decide) [decodeC, rawC, rawC5, fld, h, fld_lo, fld_hi]

theorem ld (rd : RegNo) (ra : RegNo) (imm : BitVec 12) : Statement (.ld rd ra imm) := by
  intro h
  refine ⟨_, rfl, ?_⟩
  simp (disch := decide) [decodeC, rawC, rawC5, fld, h, fld_lo, fld_hi]

theorem lbu (rd : RegNo) (ra : RegNo) (imm : BitVec 12) : Statement (.lbu rd ra imm) := by
  intro h
  refine ⟨_, rfl, ?_⟩
  simp (disch := decide) [decodeC, rawC, rawC5, fld, h, fld_lo, fld_hi]

theorem lhu (rd : RegNo) (ra : RegNo) (imm : BitVec 12) : Statement (.lhu rd ra imm) := by
  intro h
  refine ⟨_, rfl, ?_⟩
  simp (disch := decide) [decodeC, rawC, rawC5, fld, h, fld_lo, fld_hi]

theorem lwu (rd : RegNo) (ra : RegNo) (imm : BitVec 12) : Statement (.lwu rd ra imm) := by
  intro h
  refine ⟨_, rfl, ?_⟩
  simp (disch := decide) [decodeC, rawC, rawC5, fld, h, fld_lo, fld_hi]

theorem sb (ra : RegNo) (rb : RegNo) (imm : BitVec 12) : Statement (.sb ra rb imm) := by
  intro h
  refine ⟨_, rfl, ?_⟩
  simp (disch := decide) [decodeC, rawC, rawC6, fld, h, fld_lo, fld_hi]

theorem sh (ra : RegNo) (rb : RegNo) (imm : BitVec 12) : Statement (.sh ra rb imm) := by
  intro h
  refine ⟨_, rfl, ?_⟩
  simp (disch := decide) [decodeC, rawC, rawC6, fld, h, fld_lo, fld_hi]

theorem sw (ra : RegNo) (rb : RegNo) (imm : BitVec 12) : Statement (.sw ra rb imm) := by
  intro h
  refine ⟨_, rfl, ?_⟩
  simp (disch := decide) [decodeC, rawC, rawC6, fld, h, fld_lo, fld_hi]

theorem sd (ra : RegNo) (rb : RegNo) (imm : BitVec 12) : Statement (.sd ra rb imm) := by
  intro h
  refine ⟨_, rfl, ?_⟩
  simp (disch := decide) [decodeC, rawC, rawC6, fld, h, fld_lo, fld_hi]

theorem amoadd (rd : RegNo) (ra : RegNo) (rb : RegNo) (d : BitVec 1) : Statement (.amoadd rd ra rb d) := by
  intro h
  refine ⟨_, rfl, ?_⟩
  simp (disch := decide) [decodeC, rawC, rawC7, fld, h, fld_lo, fld_hi]

theorem amoswap (rd : RegNo) (ra : RegNo) (rb : RegNo) (d : BitVec 1) : Statement (.amoswap rd ra rb d) := by
  intro h
  refine ⟨_, rfl, ?_⟩
  simp (disch := decide) [decodeC, rawC, rawC7, fld, h, fld_lo, fld_hi]

theorem amocas (rd : RegNo) (ra : RegNo) (rb : RegNo) (d : BitVec 1) : Statement (.amocas rd ra rb d) := by
  intro h
  refine ⟨_, rfl, ?_⟩
  simp (disch := decide) [decodeC, rawC, rawC7, fld, h, fld_lo, fld_hi]

theorem amomin (rd : RegNo) (ra : RegNo) (rb : RegNo) (d : BitVec 1) : Statement (.amomin rd ra rb d) := by
  intro h
  refine ⟨_, rfl, ?_⟩
  simp (disch := decide) [decodeC, rawC, rawC7, fld, h, fld_lo, fld_hi]

theorem amomax (rd : RegNo) (ra : RegNo) (rb : RegNo) (d : BitVec 1) : Statement (.amomax rd ra rb d) := by
  intro h
  refine ⟨_, rfl, ?_⟩
  simp (disch := decide) [decodeC, rawC, rawC7, fld, h, fld_lo, fld_hi]

theorem amominu (rd : RegNo) (ra : RegNo) (rb : RegNo) (d : BitVec 1) : Statement (.amominu rd ra rb d) := by
  intro h
  refine ⟨_, rfl, ?_⟩
  simp (disch := decide) [decodeC, rawC, rawC7, fld, h, fld_lo, fld_hi]

theorem amomaxu (rd : RegNo) (ra : RegNo) (rb : RegNo) (d : BitVec 1) : Statement (.amomaxu rd ra rb d) := by
  intro h
  refine ⟨_, rfl, ?_⟩
  simp (disch := decide) [decodeC, rawC, rawC7, fld, h, fld_lo, fld_hi]

theorem amoand (rd : RegNo) (ra : RegNo) (rb : RegNo) (d : BitVec 1) : Statement (.amoand rd ra rb d) := by
  intro h
  refine ⟨_, rfl, ?_⟩
  simp (disch := decide) [decodeC, rawC, rawC7, fld, h, fld_lo, fld_hi]

theorem amoor (rd : RegNo) (ra : RegNo) (rb : RegNo) (d : BitVec 1) : Statement (.amoor rd ra rb d) := by
  intro h
  refine ⟨_, rfl, ?_⟩
  simp (disch := decide) [decodeC, rawC, rawC7, fld, h, fld_lo, fld_hi]

theorem beq (ra : RegNo) (rb : RegNo) (imm : BitVec 12) : Statement (.beq ra rb imm) := by
  intro h
  refine ⟨_, rfl, ?_⟩
  simp (disch := decide) [decodeC, rawC, rawC8, fld, h, fld_lo, fld_hi]

theorem bne (ra : RegNo) (rb : RegNo) (imm : BitVec 12) : Statement (.bne ra rb imm) := by
  intro h
  refine ⟨_, rfl, ?_⟩
  simp (disch := decide) [decodeC, rawC, rawC8, fld, h, fld_lo, fld_hi]

theorem blt (ra : RegNo) (rb : RegNo) (imm : BitVec 12) : Statement (.blt ra rb imm) := by
  intro h
  refine ⟨_, rfl, ?_⟩
  simp (disch := decide) [decodeC, rawC, rawC8, fld, h, fld_lo, fld_hi]

theorem bge (ra : RegNo) (rb : RegNo) (imm : BitVec 12) : Statement (.bge ra rb imm) := by
  intro h
  refine ⟨_, rfl, ?_⟩
  simp (disch := decide) [decodeC, rawC, rawC8, fld, h, fld_lo, fld_hi]

theorem bltu (ra : RegNo) (rb : RegNo) (imm : BitVec 12) : Statement (.bltu ra rb imm) := by
  intro h
  refine ⟨_, rfl, ?_⟩
  simp (disch := decide) [decodeC, rawC, rawC8, fld, h, fld_lo, fld_hi]

theorem bgeu (ra : RegNo) (rb : RegNo) (imm : BitVec 12) : Statement (.bgeu ra rb imm) := by
  intro h
  refine ⟨_, rfl, ?_⟩
  simp (disch := decide) [decodeC, rawC, rawC8, fld, h, fld_lo, fld_hi]

theorem jal (rd : RegNo) (imm : BitVec 22) : Statement (.jal rd imm) := by
  intro h
  refine ⟨_, rfl, ?_⟩
  simp (disch := decide) [decodeC, rawC, rawC9, fld, h, fld_lo, fld_hi]

theorem lui (rd : RegNo) (imm : BitVec 22) : Statement (.lui rd imm) := by
  intro h
  refine ⟨_, rfl, ?_⟩
  simp (disch := decide) [decodeC, rawC, rawC10, fld, h, fld_lo, fld_hi]

theorem auipc (rd : RegNo) (imm : BitVec 22) : Statement (.auipc rd imm) := by
  intro h
  refine ⟨_, rfl, ?_⟩
  simp (disch := decide) [decodeC, rawC, rawC11, fld, h, fld_lo, fld_hi]

theorem jalr (rd : RegNo) (ra : RegNo) (imm : BitVec 12) : Statement (.jalr rd ra imm) := by
  intro h
  refine ⟨_, rfl, ?_⟩
  simp (disch := decide) [decodeC, rawC, rawC12, fld, h, fld_lo, fld_hi]

theorem callt (rd : RegNo) (ra : RegNo) (rb : RegNo) : Statement (.callt rd ra rb) := by
  intro h
  refine ⟨_, rfl, ?_⟩
  simp (disch := decide) [decodeC, rawC, rawC13, fld, h, fld_lo, fld_hi]

theorem loop_ (ra : RegNo) (imm : BitVec 12) : Statement (.loop_ ra imm) := by
  intro h
  refine ⟨_, rfl, ?_⟩
  simp (disch := decide) [decodeC, rawC, rawC14, fld, h, fld_lo, fld_hi]

theorem csrr (rd : RegNo) (idx : BitVec 12) : Statement (.csrr rd idx) := by
  intro h
  refine ⟨_, rfl, ?_⟩
  simp (disch := decide) [decodeC, rawC, rawC15, fld, h, fld_lo, fld_hi]

theorem csrw (ra : RegNo) (idx : BitVec 12) : Statement (.csrw ra idx) := by
  intro h
  refine ⟨_, rfl, ?_⟩
  simp (disch := decide) [decodeC, rawC, rawC15, fld, h, fld_lo, fld_hi]

theorem csrs (ra : RegNo) (idx : BitVec 12) : Statement (.csrs ra idx) := by
  intro h
  refine ⟨_, rfl, ?_⟩
  simp (disch := decide) [decodeC, rawC, rawC15, fld, h, fld_lo, fld_hi]

theorem csrc (ra : RegNo) (idx : BitVec 12) : Statement (.csrc ra idx) := by
  intro h
  refine ⟨_, rfl, ?_⟩
  simp (disch := decide) [decodeC, rawC, rawC15, fld, h, fld_lo, fld_hi]

theorem setvl (rd : RegNo) (ra : RegNo) : Statement (.setvl rd ra) := by
  intro h
  refine ⟨_, rfl, ?_⟩
  simp (disch := decide) [decodeC, rawC, rawC16, fld, h, fld_lo, fld_hi]

theorem vfetch (ra : RegNo) : Statement (.vfetch ra) := by
  intro h
  refine ⟨_, rfl, ?_⟩
  simp (disch := decide) [decodeC, rawC, rawC16, fld, h, fld_lo, fld_hi]

theorem vloop (ra : RegNo) (rb : RegNo) : Statement (.vloop ra rb) := by
  intro h
  refine ⟨_, rfl, ?_⟩
  simp (disch := decide) [decodeC, rawC, rawC16, fld, h, fld_lo, fld_hi]

theorem vsync (rd : RegNo) : Statement (.vsync rd) := by
  intro h
  refine ⟨_, rfl, ?_⟩
  simp (disch := decide) [decodeC, rawC, rawC16, fld, h, fld_lo, fld_hi]

theorem vget (rd : RegNo) (ra : RegNo) (item : BitVec 8) : Statement (.vget rd ra item) := by
  intro h
  refine ⟨_, rfl, ?_⟩
  simp (disch := decide) [decodeC, rawC, rawC16, fld, h, fld_lo, fld_hi]

theorem vput (ra : RegNo) (rb : RegNo) (item : BitVec 8) : Statement (.vput ra rb item) := by
  intro h
  refine ⟨_, rfl, ?_⟩
  simp (disch := decide) [decodeC, rawC, rawC16, fld, h, fld_lo, fld_hi]

theorem vsetc (ra : RegNo) (cn : BitVec 3) : Statement (.vsetc ra cn) := by
  intro h
  refine ⟨_, rfl, ?_⟩
  simp (disch := decide) [decodeC, rawC, rawC16, fld, h, fld_lo, fld_hi]

theorem vld (wd : RegNo) (ra : RegNo) (u : BitVec 1) (w : BitVec 2) : Statement (.vld wd ra u w) := by
  intro h
  refine ⟨_, rfl, ?_⟩
  simp (disch := decide) [decodeC, rawC, rawC17, fld, h, fld_lo, fld_hi]

theorem vst (wd : RegNo) (ra : RegNo) (w : BitVec 2) : Statement (.vst wd ra w) := by
  intro h
  refine ⟨_, rfl, ?_⟩
  simp (disch := decide) [decodeC, rawC, rawC17, fld, h, fld_lo, fld_hi]

theorem vlds (wd : RegNo) (ra : RegNo) (rb : RegNo) (u : BitVec 1) (w : BitVec 2) : Statement (.vlds wd ra rb u w) := by
  intro h
  refine ⟨_, rfl, ?_⟩
  simp (disch := decide) [decodeC, rawC, rawC17, fld, h, fld_lo, fld_hi]

theorem vsts (wd : RegNo) (ra : RegNo) (rb : RegNo) (w : BitVec 2) : Statement (.vsts wd ra rb w) := by
  intro h
  refine ⟨_, rfl, ?_⟩
  simp (disch := decide) [decodeC, rawC, rawC17, fld, h, fld_lo, fld_hi]

theorem vldx (wd : RegNo) (ra : RegNo) (wi : RegNo) (u : BitVec 1) (w : BitVec 2) : Statement (.vldx wd ra wi u w) := by
  intro h
  refine ⟨_, rfl, ?_⟩
  simp (disch := decide) [decodeC, rawC, rawC17, fld, h, fld_lo, fld_hi]

theorem vstx (wd : RegNo) (ra : RegNo) (wi : RegNo) (w : BitVec 2) : Statement (.vstx wd ra wi w) := by
  intro h
  refine ⟨_, rfl, ?_⟩
  simp (disch := decide) [decodeC, rawC, rawC17, fld, h, fld_lo, fld_hi]

theorem vldb (wd : RegNo) (ra : RegNo) : Statement (.vldb wd ra) := by
  intro h
  refine ⟨_, rfl, ?_⟩
  simp (disch := decide) [decodeC, rawC, rawC17, fld, h, fld_lo, fld_hi]

theorem ecfg (ra : RegNo) (eng : BitVec 3) (n : BitVec 4) : Statement (.ecfg ra eng n) := by
  intro h
  refine ⟨_, rfl, ?_⟩
  simp (disch := decide) [decodeC, rawC, rawC18, fld, h, fld_lo, fld_hi]

theorem erd (rd : RegNo) (eng : BitVec 3) (n : BitVec 4) : Statement (.erd rd eng n) := by
  intro h
  refine ⟨_, rfl, ?_⟩
  simp (disch := decide) [decodeC, rawC, rawC18, fld, h, fld_lo, fld_hi]

theorem ewait (ra : RegNo) : Statement (.ewait ra) := by
  intro h
  refine ⟨_, rfl, ?_⟩
  simp (disch := decide) [decodeC, rawC, rawC18, fld, h, fld_lo, fld_hi]

theorem stream (ra : RegNo) (rb : RegNo) : Statement (.stream ra rb) := by
  intro h
  refine ⟨_, rfl, ?_⟩
  simp (disch := decide) [decodeC, rawC, rawC18, fld, h, fld_lo, fld_hi]

theorem copyj (rd : RegNo) (ra : RegNo) (rb : RegNo) : Statement (.copyj rd ra rb) := by
  intro h
  refine ⟨_, rfl, ?_⟩
  simp (disch := decide) [decodeC, rawC, rawC18, fld, h, fld_lo, fld_hi]

theorem gleanj (rd : RegNo) (ra : RegNo) (rb : RegNo) : Statement (.gleanj rd ra rb) := by
  intro h
  refine ⟨_, rfl, ?_⟩
  simp (disch := decide) [decodeC, rawC, rawC18, fld, h, fld_lo, fld_hi]

theorem lclaim (rd : RegNo) (ra : RegNo) : Statement (.lclaim rd ra) := by
  intro h
  refine ⟨_, rfl, ?_⟩
  simp (disch := decide) [decodeC, rawC, rawC18, fld, h, fld_lo, fld_hi]

theorem lrelease (ra : RegNo) : Statement (.lrelease ra) := by
  intro h
  refine ⟨_, rfl, ?_⟩
  simp (disch := decide) [decodeC, rawC, rawC18, fld, h, fld_lo, fld_hi]

theorem lzero (ra : RegNo) : Statement (.lzero ra) := by
  intro h
  refine ⟨_, rfl, ?_⟩
  simp (disch := decide) [decodeC, rawC, rawC18, fld, h, fld_lo, fld_hi]

theorem lmmaO (ra : RegNo) (rb : RegNo) : Statement (.lmmaO ra rb) := by
  intro h
  refine ⟨_, rfl, ?_⟩
  simp (disch := decide) [decodeC, rawC, rawC18, fld, h, fld_lo, fld_hi]

theorem lmmaR (ra : RegNo) (rb : RegNo) : Statement (.lmmaR ra rb) := by
  intro h
  refine ⟨_, rfl, ?_⟩
  simp (disch := decide) [decodeC, rawC, rawC18, fld, h, fld_lo, fld_hi]

theorem ldrain (rd : RegNo) (ra : RegNo) : Statement (.ldrain rd ra) := by
  intro h
  refine ⟨_, rfl, ?_⟩
  simp (disch := decide) [decodeC, rawC, rawC18, fld, h, fld_lo, fld_hi]

theorem fence (ra : RegNo) : Statement (.fence ra) := by
  intro h
  refine ⟨_, rfl, ?_⟩
  simp (disch := decide) [decodeC, rawC, rawC19, fld, h, fld_lo, fld_hi]

theorem barr (ra : RegNo) : Statement (.barr ra) := by
  intro h
  refine ⟨_, rfl, ?_⟩
  simp (disch := decide) [decodeC, rawC, rawC19, fld, h, fld_lo, fld_hi]

theorem vote (rd : RegNo) (ra : RegNo) (comb : BitVec 3) : Statement (.vote rd ra comb) := by
  intro h
  refine ⟨_, rfl, ?_⟩
  simp (disch := decide) [decodeC, rawC, rawC19, fld, h, fld_lo, fld_hi]

theorem abortq (rd : RegNo) : Statement (.abortq rd) := by
  intro h
  refine ⟨_, rfl, ?_⟩
  simp (disch := decide) [decodeC, rawC, rawC19, fld, h, fld_lo, fld_hi]

theorem wait (ra : RegNo) (rb : RegNo) : Statement (.wait ra rb) := by
  intro h
  refine ⟨_, rfl, ?_⟩
  simp (disch := decide) [decodeC, rawC, rawC19, fld, h, fld_lo, fld_hi]

theorem wake (ra : RegNo) : Statement (.wake ra) := by
  intro h
  refine ⟨_, rfl, ?_⟩
  simp (disch := decide) [decodeC, rawC, rawC19, fld, h, fld_lo, fld_hi]

theorem lpatch (ra : RegNo) (rb : RegNo) (field : BitVec 3) : Statement (.lpatch ra rb field) := by
  intro h
  refine ⟨_, rfl, ?_⟩
  simp (disch := decide) [decodeC, rawC, rawC20, fld, h, fld_lo, fld_hi]

theorem larm (ra : RegNo) : Statement (.larm ra) := by
  intro h
  refine ⟨_, rfl, ?_⟩
  simp (disch := decide) [decodeC, rawC, rawC20, fld, h, fld_lo, fld_hi]

theorem halt (ra : RegNo) : Statement (.halt ra) := by
  intro h
  refine ⟨_, rfl, ?_⟩
  simp (disch := decide) [decodeC, rawC, rawC20, fld, h, fld_lo, fld_hi]

theorem trap (code : BitVec 8) : Statement (.trap code) := by
  intro h
  refine ⟨_, rfl, ?_⟩
  simp (disch := decide) [decodeC, rawC, rawC20, fld, h, fld_lo, fld_hi]

theorem discover (rd : RegNo) (ra : RegNo) : Statement (.discover rd ra) := by
  intro h
  refine ⟨_, rfl, ?_⟩
  simp (disch := decide) [decodeC, rawC, rawC20, fld, h, fld_lo, fld_hi]

theorem wAdd (hd : WHdr) (wd : RegNo) (wa : RegNo) (wb : RegNo) : Statement (.wAdd hd wd wa wb) := by
  intro h
  refine ⟨_, rfl, ?_⟩
  simp (disch := decide) [decodeW, rawW, rawW0, wHdr, fld, h, fld_lo, fld_hi]

theorem wSub (hd : WHdr) (wd : RegNo) (wa : RegNo) (wb : RegNo) : Statement (.wSub hd wd wa wb) := by
  intro h
  refine ⟨_, rfl, ?_⟩
  simp (disch := decide) [decodeW, rawW, rawW0, wHdr, fld, h, fld_lo, fld_hi]

theorem wMin (hd : WHdr) (wd : RegNo) (wa : RegNo) (wb : RegNo) : Statement (.wMin hd wd wa wb) := by
  intro h
  refine ⟨_, rfl, ?_⟩
  simp (disch := decide) [decodeW, rawW, rawW0, wHdr, fld, h, fld_lo, fld_hi]

theorem wMax (hd : WHdr) (wd : RegNo) (wa : RegNo) (wb : RegNo) : Statement (.wMax hd wd wa wb) := by
  intro h
  refine ⟨_, rfl, ?_⟩
  simp (disch := decide) [decodeW, rawW, rawW0, wHdr, fld, h, fld_lo, fld_hi]

theorem wAnd (hd : WHdr) (wd : RegNo) (wa : RegNo) (wb : RegNo) : Statement (.wAnd hd wd wa wb) := by
  intro h
  refine ⟨_, rfl, ?_⟩
  simp (disch := decide) [decodeW, rawW, rawW0, wHdr, fld, h, fld_lo, fld_hi]

theorem wOr (hd : WHdr) (wd : RegNo) (wa : RegNo) (wb : RegNo) : Statement (.wOr hd wd wa wb) := by
  intro h
  refine ⟨_, rfl, ?_⟩
  simp (disch := decide) [decodeW, rawW, rawW0, wHdr, fld, h, fld_lo, fld_hi]

theorem wXor (hd : WHdr) (wd : RegNo) (wa : RegNo) (wb : RegNo) : Statement (.wXor hd wd wa wb) := by
  intro h
  refine ⟨_, rfl, ?_⟩
  simp (disch := decide) [decodeW, rawW, rawW0, wHdr, fld, h, fld_lo, fld_hi]

theorem wAndn (hd : WHdr) (wd : RegNo) (wa : RegNo) (wb : RegNo) : Statement (.wAndn hd wd wa wb) := by
  intro h
  refine ⟨_, rfl, ?_⟩
  simp (disch := decide) [decodeW, rawW, rawW0, wHdr, fld, h, fld_lo, fld_hi]

theorem wSll (hd : WHdr) (wd : RegNo) (wa : RegNo) (wb : RegNo) : Statement (.wSll hd wd wa wb) := by
  intro h
  refine ⟨_, rfl, ?_⟩
  simp (disch := decide) [decodeW, rawW, rawW0, wHdr, fld, h, fld_lo, fld_hi]

theorem wSrl (hd : WHdr) (wd : RegNo) (wa : RegNo) (wb : RegNo) : Statement (.wSrl hd wd wa wb) := by
  intro h
  refine ⟨_, rfl, ?_⟩
  simp (disch := decide) [decodeW, rawW, rawW0, wHdr, fld, h, fld_lo, fld_hi]

theorem wSra (hd : WHdr) (wd : RegNo) (wa : RegNo) (wb : RegNo) : Statement (.wSra hd wd wa wb) := by
  intro h
  refine ⟨_, rfl, ?_⟩
  simp (disch := decide) [decodeW, rawW, rawW0, wHdr, fld, h, fld_lo, fld_hi]

theorem wRor (hd : WHdr) (wd : RegNo) (wa : RegNo) (wb : RegNo) : Statement (.wRor hd wd wa wb) := by
  intro h
  refine ⟨_, rfl, ?_⟩
  simp (disch := decide) [decodeW, rawW, rawW0, wHdr, fld, h, fld_lo, fld_hi]

theorem wMul (hd : WHdr) (wd : RegNo) (wa : RegNo) (wb : RegNo) : Statement (.wMul hd wd wa wb) := by
  intro h
  refine ⟨_, rfl, ?_⟩
  simp (disch := decide) [decodeW, rawW, rawW0, wHdr, fld, h, fld_lo, fld_hi]

theorem wMulh (hd : WHdr) (wd : RegNo) (wa : RegNo) (wb : RegNo) : Statement (.wMulh hd wd wa wb) := by
  intro h
  refine ⟨_, rfl, ?_⟩
  simp (disch := decide) [decodeW, rawW, rawW0, wHdr, fld, h, fld_lo, fld_hi]

theorem wMulhu (hd : WHdr) (wd : RegNo) (wa : RegNo) (wb : RegNo) : Statement (.wMulhu hd wd wa wb) := by
  intro h
  refine ⟨_, rfl, ?_⟩
  simp (disch := decide) [decodeW, rawW, rawW0, wHdr, fld, h, fld_lo, fld_hi]

theorem wMulhsu (hd : WHdr) (wd : RegNo) (wa : RegNo) (wb : RegNo) : Statement (.wMulhsu hd wd wa wb) := by
  intro h
  refine ⟨_, rfl, ?_⟩
  simp (disch := decide) [decodeW, rawW, rawW0, wHdr, fld, h, fld_lo, fld_hi]

theorem wDiv (hd : WHdr) (wd : RegNo) (wa : RegNo) (wb : RegNo) : Statement (.wDiv hd wd wa wb) := by
  intro h
  refine ⟨_, rfl, ?_⟩
  simp (disch := decide) [decodeW, rawW, rawW0, wHdr, fld, h, fld_lo, fld_hi]

theorem wDivu (hd : WHdr) (wd : RegNo) (wa : RegNo) (wb : RegNo) : Statement (.wDivu hd wd wa wb) := by
  intro h
  refine ⟨_, rfl, ?_⟩
  simp (disch := decide) [decodeW, rawW, rawW0, wHdr, fld, h, fld_lo, fld_hi]

theorem wRem (hd : WHdr) (wd : RegNo) (wa : RegNo) (wb : RegNo) : Statement (.wRem hd wd wa wb) := by
  intro h
  refine ⟨_, rfl, ?_⟩
  simp (disch := decide) [decodeW, rawW, rawW0, wHdr, fld, h, fld_lo, fld_hi]

theorem wRemu (hd : WHdr) (wd : RegNo) (wa : RegNo) (wb : RegNo) : Statement (.wRemu hd wd wa wb) := by
  intro h
  refine ⟨_, rfl, ?_⟩
  simp (disch := decide) [decodeW, rawW, rawW0, wHdr, fld, h, fld_lo, fld_hi]

theorem wMinu (hd : WHdr) (wd : RegNo) (wa : RegNo) (wb : RegNo) : Statement (.wMinu hd wd wa wb) := by
  intro h
  refine ⟨_, rfl, ?_⟩
  simp (disch := decide) [decodeW, rawW, rawW0, wHdr, fld, h, fld_lo, fld_hi]

theorem wMaxu (hd : WHdr) (wd : RegNo) (wa : RegNo) (wb : RegNo) : Statement (.wMaxu hd wd wa wb) := by
  intro h
  refine ⟨_, rfl, ?_⟩
  simp (disch := decide) [decodeW, rawW, rawW0, wHdr, fld, h, fld_lo, fld_hi]

theorem wAddi (hd : WHdr) (wd : RegNo) (wa : RegNo) (imm : BitVec 7) : Statement (.wAddi hd wd wa imm) := by
  intro h
  refine ⟨_, rfl, ?_⟩
  simp (disch := decide) [decodeW, rawW, rawW0, wHdr, fld, h, fld_lo, fld_hi]

theorem wSlli (hd : WHdr) (wd : RegNo) (wa : RegNo) (sh : BitVec 6) : Statement (.wSlli hd wd wa sh) := by
  intro h
  refine ⟨_, rfl, ?_⟩
  simp (disch := decide) [decodeW, rawW, rawW0, wHdr, fld, h, fld_lo, fld_hi]

theorem wSrli (hd : WHdr) (wd : RegNo) (wa : RegNo) (sh : BitVec 6) : Statement (.wSrli hd wd wa sh) := by
  intro h
  refine ⟨_, rfl, ?_⟩
  simp (disch := decide) [decodeW, rawW, rawW1, wHdr, fld, h, fld_lo, fld_hi]

theorem wSrai (hd : WHdr) (wd : RegNo) (wa : RegNo) (sh : BitVec 6) : Statement (.wSrai hd wd wa sh) := by
  intro h
  refine ⟨_, rfl, ?_⟩
  simp (disch := decide) [decodeW, rawW, rawW1, wHdr, fld, h, fld_lo, fld_hi]

theorem wMovi (hd : WHdr) (wd : RegNo) (imm : BitVec 12) : Statement (.wMovi hd wd imm) := by
  intro h
  refine ⟨_, rfl, ?_⟩
  simp (disch := decide) [decodeW, rawW, rawW1, wHdr, fld, h, fld_lo, fld_hi]

theorem wCeq (hd : WHdr) (pd : RegNo) (wa : RegNo) (wb : RegNo) (bank : BitVec 2) : Statement (.wCeq hd pd wa wb bank) := by
  intro h
  refine ⟨_, rfl, ?_⟩
  simp (disch := decide) [decodeW, rawW, rawW1, wHdr, fld, h, fld_lo, fld_hi]

theorem wClt (hd : WHdr) (pd : RegNo) (wa : RegNo) (wb : RegNo) (bank : BitVec 2) : Statement (.wClt hd pd wa wb bank) := by
  intro h
  refine ⟨_, rfl, ?_⟩
  simp (disch := decide) [decodeW, rawW, rawW1, wHdr, fld, h, fld_lo, fld_hi]

theorem wCltu (hd : WHdr) (pd : RegNo) (wa : RegNo) (wb : RegNo) (bank : BitVec 2) : Statement (.wCltu hd pd wa wb bank) := by
  intro h
  refine ⟨_, rfl, ?_⟩
  simp (disch := decide) [decodeW, rawW, rawW1, wHdr, fld, h, fld_lo, fld_hi]

theorem wFceqD (hd : WHdr) (pd : RegNo) (wa : RegNo) (wb : RegNo) (bank : BitVec 2) : Statement (.wFceqD hd pd wa wb bank) := by
  intro h
  refine ⟨_, rfl, ?_⟩
  simp (disch := decide) [decodeW, rawW, rawW1, wHdr, fld, h, fld_lo, fld_hi]

theorem wFcltD (hd : WHdr) (pd : RegNo) (wa : RegNo) (wb : RegNo) (bank : BitVec 2) : Statement (.wFcltD hd pd wa wb bank) := by
  intro h
  refine ⟨_, rfl, ?_⟩
  simp (disch := decide) [decodeW, rawW, rawW1, wHdr, fld, h, fld_lo, fld_hi]

theorem wFcleD (hd : WHdr) (pd : RegNo) (wa : RegNo) (wb : RegNo) (bank : BitVec 2) : Statement (.wFcleD hd pd wa wb bank) := by
  intro h
  refine ⟨_, rfl, ?_⟩
  simp (disch := decide) [decodeW, rawW, rawW2, wHdr, fld, h, fld_lo, fld_hi]

theorem wFceqS (hd : WHdr) (pd : RegNo) (wa : RegNo) (wb : RegNo) (bank : BitVec 2) : Statement (.wFceqS hd pd wa wb bank) := by
  intro h
  refine ⟨_, rfl, ?_⟩
  simp (disch := decide) [decodeW, rawW, rawW2, wHdr, fld, h, fld_lo, fld_hi]

theorem wFcltS (hd : WHdr) (pd : RegNo) (wa : RegNo) (wb : RegNo) (bank : BitVec 2) : Statement (.wFcltS hd pd wa wb bank) := by
  intro h
  refine ⟨_, rfl, ?_⟩
  simp (disch := decide) [decodeW, rawW, rawW2, wHdr, fld, h, fld_lo, fld_hi]

theorem wFcleS (hd : WHdr) (pd : RegNo) (wa : RegNo) (wb : RegNo) (bank : BitVec 2) : Statement (.wFcleS hd pd wa wb bank) := by
  intro h
  refine ⟨_, rfl, ?_⟩
  simp (disch := decide) [decodeW, rawW, rawW2, wHdr, fld, h, fld_lo, fld_hi]

theorem wFadd (hd : WHdr) (wd : RegNo) (wa : RegNo) (wb : RegNo) (fm : BitVec 2) : Statement (.wFadd hd wd wa wb fm) := by
  intro h
  refine ⟨_, rfl, ?_⟩
  simp (disch := decide) [decodeW, rawW, rawW2, wHdr, fld, h, fld_lo, fld_hi]

theorem wFsub (hd : WHdr) (wd : RegNo) (wa : RegNo) (wb : RegNo) (fm : BitVec 2) : Statement (.wFsub hd wd wa wb fm) := by
  intro h
  refine ⟨_, rfl, ?_⟩
  simp (disch := decide) [decodeW, rawW, rawW2, wHdr, fld, h, fld_lo, fld_hi]

theorem wFmul (hd : WHdr) (wd : RegNo) (wa : RegNo) (wb : RegNo) (fm : BitVec 2) : Statement (.wFmul hd wd wa wb fm) := by
  intro h
  refine ⟨_, rfl, ?_⟩
  simp (disch := decide) [decodeW, rawW, rawW2, wHdr, fld, h, fld_lo, fld_hi]

theorem wFma (hd : WHdr) (wd : RegNo) (wa : RegNo) (wb : RegNo) (fm : BitVec 2) : Statement (.wFma hd wd wa wb fm) := by
  intro h
  refine ⟨_, rfl, ?_⟩
  simp (disch := decide) [decodeW, rawW, rawW2, wHdr, fld, h, fld_lo, fld_hi]

theorem wFms (hd : WHdr) (wd : RegNo) (wa : RegNo) (wb : RegNo) (fm : BitVec 2) : Statement (.wFms hd wd wa wb fm) := by
  intro h
  refine ⟨_, rfl, ?_⟩
  simp (disch := decide) [decodeW, rawW, rawW3, wHdr, fld, h, fld_lo, fld_hi]

theorem wFnma (hd : WHdr) (wd : RegNo) (wa : RegNo) (wb : RegNo) (fm : BitVec 2) : Statement (.wFnma hd wd wa wb fm) := by
  intro h
  refine ⟨_, rfl, ?_⟩
  simp (disch := decide) [decodeW, rawW, rawW3, wHdr, fld, h, fld_lo, fld_hi]

theorem wFnms (hd : WHdr) (wd : RegNo) (wa : RegNo) (wb : RegNo) (fm : BitVec 2) : Statement (.wFnms hd wd wa wb fm) := by
  intro h
  refine ⟨_, rfl, ?_⟩
  simp (disch := decide) [decodeW, rawW, rawW3, wHdr, fld, h, fld_lo, fld_hi]

theorem wFdiv (hd : WHdr) (wd : RegNo) (wa : RegNo) (wb : RegNo) (fm : BitVec 2) : Statement (.wFdiv hd wd wa wb fm) := by
  intro h
  refine ⟨_, rfl, ?_⟩
  simp (disch := decide) [decodeW, rawW, rawW3, wHdr, fld, h, fld_lo, fld_hi]

theorem wFsqrt (hd : WHdr) (wd : RegNo) (wa : RegNo) (fm : BitVec 2) : Statement (.wFsqrt hd wd wa fm) := by
  intro h
  refine ⟨_, rfl, ?_⟩
  simp (disch := decide) [decodeW, rawW, rawW3, wHdr, fld, h, fld_lo, fld_hi]

theorem wFmin (hd : WHdr) (wd : RegNo) (wa : RegNo) (wb : RegNo) (fm : BitVec 2) : Statement (.wFmin hd wd wa wb fm) := by
  intro h
  refine ⟨_, rfl, ?_⟩
  simp (disch := decide) [decodeW, rawW, rawW3, wHdr, fld, h, fld_lo, fld_hi]

theorem wFmax (hd : WHdr) (wd : RegNo) (wa : RegNo) (wb : RegNo) (fm : BitVec 2) : Statement (.wFmax hd wd wa wb fm) := by
  intro h
  refine ⟨_, rfl, ?_⟩
  simp (disch := decide) [decodeW, rawW, rawW3, wHdr, fld, h, fld_lo, fld_hi]

theorem wFabs (hd : WHdr) (wd : RegNo) (wa : RegNo) (fm : BitVec 2) : Statement (.wFabs hd wd wa fm) := by
  intro h
  refine ⟨_, rfl, ?_⟩
  simp (disch := decide) [decodeW, rawW, rawW3, wHdr, fld, h, fld_lo, fld_hi]

theorem wFneg (hd : WHdr) (wd : RegNo) (wa : RegNo) (fm : BitVec 2) : Statement (.wFneg hd wd wa fm) := by
  intro h
  refine ⟨_, rfl, ?_⟩
  simp (disch := decide) [decodeW, rawW, rawW4, wHdr, fld, h, fld_lo, fld_hi]

theorem wExp2 (hd : WHdr) (wd : RegNo) (wa : RegNo) (fm : BitVec 2) : Statement (.wExp2 hd wd wa fm) := by
  intro h
  refine ⟨_, rfl, ?_⟩
  simp (disch := decide) [decodeW, rawW, rawW4, wHdr, fld, h, fld_lo, fld_hi]

theorem wLog2 (hd : WHdr) (wd : RegNo) (wa : RegNo) (fm : BitVec 2) : Statement (.wLog2 hd wd wa fm) := by
  intro h
  refine ⟨_, rfl, ?_⟩
  simp (disch := decide) [decodeW, rawW, rawW4, wHdr, fld, h, fld_lo, fld_hi]

theorem wRcp (hd : WHdr) (wd : RegNo) (wa : RegNo) (fm : BitVec 2) : Statement (.wRcp hd wd wa fm) := by
  intro h
  refine ⟨_, rfl, ?_⟩
  simp (disch := decide) [decodeW, rawW, rawW4, wHdr, fld, h, fld_lo, fld_hi]

theorem wRsqrt (hd : WHdr) (wd : RegNo) (wa : RegNo) (fm : BitVec 2) : Statement (.wRsqrt hd wd wa fm) := by
  intro h
  refine ⟨_, rfl, ?_⟩
  simp (disch := decide) [decodeW, rawW, rawW4, wHdr, fld, h, fld_lo, fld_hi]

theorem wCvthSD (hd : WHdr) (wd : RegNo) (wa : RegNo) (wb : RegNo) : Statement (.wCvthSD hd wd wa wb) := by
  intro h
  refine ⟨_, rfl, ?_⟩
  simp (disch := decide) [decodeW, rawW, rawW4, wHdr, fld, h, fld_lo, fld_hi]

theorem wCvthHS (hd : WHdr) (wd : RegNo) (wa : RegNo) (wb : RegNo) : Statement (.wCvthHS hd wd wa wb) := by
  intro h
  refine ⟨_, rfl, ?_⟩
  simp (disch := decide) [decodeW, rawW, rawW4, wHdr, fld, h, fld_lo, fld_hi]

theorem wCvthBS (hd : WHdr) (wd : RegNo) (wa : RegNo) (wb : RegNo) : Statement (.wCvthBS hd wd wa wb) := by
  intro h
  refine ⟨_, rfl, ?_⟩
  simp (disch := decide) [decodeW, rawW, rawW4, wHdr, fld, h, fld_lo, fld_hi]

theorem wCvthT8H (hd : WHdr) (wd : RegNo) (wa : RegNo) (wb : RegNo) : Statement (.wCvthT8H hd wd wa wb) := by
  intro h
  refine ⟨_, rfl, ?_⟩
  simp (disch := decide) [decodeW, rawW, rawW4, wHdr, fld, h, fld_lo, fld_hi]

theorem wCvthE4H (hd : WHdr) (wd : RegNo) (wa : RegNo) (wb : RegNo) : Statement (.wCvthE4H hd wd wa wb) := by
  intro h
  refine ⟨_, rfl, ?_⟩
  simp (disch := decide) [decodeW, rawW, rawW4, wHdr, fld, h, fld_lo, fld_hi]

theorem wCvthE5H (hd : WHdr) (wd : RegNo) (wa : RegNo) (wb : RegNo) : Statement (.wCvthE5H hd wd wa wb) := by
  intro h
  refine ⟨_, rfl, ?_⟩
  simp (disch := decide) [decodeW, rawW, rawW4, wHdr, fld, h, fld_lo, fld_hi]

theorem wCvthT6T8 (hd : WHdr) (wd : RegNo) (wa : RegNo) : Statement (.wCvthT6T8 hd wd wa) := by
  intro h
  refine ⟨_, rfl, ?_⟩
  simp (disch := decide) [decodeW, rawW, rawW4, wHdr, fld, h, fld_lo, fld_hi]

theorem wCvtdDS (hd : WHdr) (wd : RegNo) (wa : RegNo) (h : BitVec 1) : Statement (.wCvtdDS hd wd wa h) := by
  intro h
  refine ⟨_, rfl, ?_⟩
  simp (disch := decide) [decodeW, rawW, rawW4, wHdr, fld, h, fld_lo, fld_hi]

theorem wCvtdSH (hd : WHdr) (wd : RegNo) (wa : RegNo) (h : BitVec 1) : Statement (.wCvtdSH hd wd wa h) := by
  intro h
  refine ⟨_, rfl, ?_⟩
  simp (disch := decide) [decodeW, rawW, rawW4, wHdr, fld, h, fld_lo, fld_hi]

theorem wCvtdSB (hd : WHdr) (wd : RegNo) (wa : RegNo) (h : BitVec 1) : Statement (.wCvtdSB hd wd wa h) := by
  intro h
  refine ⟨_, rfl, ?_⟩
  simp (disch := decide) [decodeW, rawW, rawW4, wHdr, fld, h, fld_lo, fld_hi]

theorem wCvtdHT8 (hd : WHdr) (wd : RegNo) (wa : RegNo) (h : BitVec 1) : Statement (.wCvtdHT8 hd wd wa h) := by
  intro h
  refine ⟨_, rfl, ?_⟩
  simp (disch := decide) [decodeW, rawW, rawW4, wHdr, fld, h, fld_lo, fld_hi]

theorem wCvtdHE4 (hd : WHdr) (wd : RegNo) (wa : RegNo) (h : BitVec 1) : Statement (.wCvtdHE4 hd wd wa h) := by
  intro h
  refine ⟨_, rfl, ?_⟩
  simp (disch := decide) [decodeW, rawW, rawW5, wHdr, fld, h, fld_lo, fld_hi]

theorem wCvtdHE5 (hd : WHdr) (wd : RegNo) (wa : RegNo) (h : BitVec 1) : Statement (.wCvtdHE5 hd wd wa h) := by
  intro h
  refine ⟨_, rfl, ?_⟩
  simp (disch := decide) [decodeW, rawW, rawW5, wHdr, fld, h, fld_lo, fld_hi]

theorem wCvtdT8T6 (hd : WHdr) (wd : RegNo) (wa : RegNo) : Statement (.wCvtdT8T6 hd wd wa) := by
  intro h
  refine ⟨_, rfl, ?_⟩
  simp (disch := decide) [decodeW, rawW, rawW5, wHdr, fld, h, fld_lo, fld_hi]

theorem wCvtF4 (hd : WHdr) (wd : RegNo) (wa : RegNo) : Statement (.wCvtF4 hd wd wa) := by
  intro h
  refine ⟨_, rfl, ?_⟩
  simp (disch := decide) [decodeW, rawW, rawW5, wHdr, fld, h, fld_lo, fld_hi]

theorem wCvtfi (hd : WHdr) (wd : RegNo) (wa : RegNo) (s : BitVec 1) : Statement (.wCvtfi hd wd wa s) := by
  intro h
  refine ⟨_, rfl, ?_⟩
  simp (disch := decide) [decodeW, rawW, rawW5, wHdr, fld, h, fld_lo, fld_hi]

theorem wCvtfu (hd : WHdr) (wd : RegNo) (wa : RegNo) (s : BitVec 1) : Statement (.wCvtfu hd wd wa s) := by
  intro h
  refine ⟨_, rfl, ?_⟩
  simp (disch := decide) [decodeW, rawW, rawW5, wHdr, fld, h, fld_lo, fld_hi]

theorem wCvtif (hd : WHdr) (wd : RegNo) (wa : RegNo) (s : BitVec 1) : Statement (.wCvtif hd wd wa s) := by
  intro h
  refine ⟨_, rfl, ?_⟩
  simp (disch := decide) [decodeW, rawW, rawW5, wHdr, fld, h, fld_lo, fld_hi]

theorem wCvtuf (hd : WHdr) (wd : RegNo) (wa : RegNo) (s : BitVec 1) : Statement (.wCvtuf hd wd wa s) := by
  intro h
  refine ⟨_, rfl, ?_⟩
  simp (disch := decide) [decodeW, rawW, rawW5, wHdr, fld, h, fld_lo, fld_hi]

theorem wPand (hd : WHdr) (pd : RegNo) (pa : RegNo) (pb : RegNo) (bank : BitVec 2) : Statement (.wPand hd pd pa pb bank) := by
  intro h
  refine ⟨_, rfl, ?_⟩
  simp (disch := decide) [decodeW, rawW, rawW5, wHdr, fld, h, fld_lo, fld_hi]

theorem wPor (hd : WHdr) (pd : RegNo) (pa : RegNo) (pb : RegNo) (bank : BitVec 2) : Statement (.wPor hd pd pa pb bank) := by
  intro h
  refine ⟨_, rfl, ?_⟩
  simp (disch := decide) [decodeW, rawW, rawW5, wHdr, fld, h, fld_lo, fld_hi]

theorem wPxor (hd : WHdr) (pd : RegNo) (pa : RegNo) (pb : RegNo) (bank : BitVec 2) : Statement (.wPxor hd pd pa pb bank) := by
  intro h
  refine ⟨_, rfl, ?_⟩
  simp (disch := decide) [decodeW, rawW, rawW6, wHdr, fld, h, fld_lo, fld_hi]

theorem wPandn (hd : WHdr) (pd : RegNo) (pa : RegNo) (pb : RegNo) (bank : BitVec 2) : Statement (.wPandn hd pd pa pb bank) := by
  intro h
  refine ⟨_, rfl, ?_⟩
  simp (disch := decide) [decodeW, rawW, rawW6, wHdr, fld, h, fld_lo, fld_hi]

theorem wPmov (hd : WHdr) (pd : RegNo) (pa : RegNo) (sbank : BitVec 2) (bank : BitVec 2) : Statement (.wPmov hd pd pa sbank bank) := by
  intro h
  refine ⟨_, rfl, ?_⟩
  simp (disch := decide) [decodeW, rawW, rawW6, wHdr, fld, h, fld_lo, fld_hi]

theorem wLd (hd : WHdr) (wd : RegNo) (wa : RegNo) (wb : RegNo) (wid : BitVec 2) : Statement (.wLd hd wd wa wb wid) := by
  intro h
  refine ⟨_, rfl, ?_⟩
  simp (disch := decide) [decodeW, rawW, rawW6, wHdr, fld, h, fld_lo, fld_hi]

theorem wLds (hd : WHdr) (wd : RegNo) (wa : RegNo) (wb : RegNo) (wid : BitVec 2) : Statement (.wLds hd wd wa wb wid) := by
  intro h
  refine ⟨_, rfl, ?_⟩
  simp (disch := decide) [decodeW, rawW, rawW6, wHdr, fld, h, fld_lo, fld_hi]

theorem wSt (hd : WHdr) (wd : RegNo) (wa : RegNo) (wb : RegNo) (wid : BitVec 2) : Statement (.wSt hd wd wa wb wid) := by
  intro h
  refine ⟨_, rfl, ?_⟩
  simp (disch := decide) [decodeW, rawW, rawW6, wHdr, fld, h, fld_lo, fld_hi]

theorem wSpld (hd : WHdr) (wd : RegNo) (wa : RegNo) (wb : RegNo) : Statement (.wSpld hd wd wa wb) := by
  intro h
  refine ⟨_, rfl, ?_⟩
  simp (disch := decide) [decodeW, rawW, rawW6, wHdr, fld, h, fld_lo, fld_hi]

theorem wSpst (hd : WHdr) (wd : RegNo) (wa : RegNo) (wb : RegNo) : Statement (.wSpst hd wd wa wb) := by
  intro h
  refine ⟨_, rfl, ?_⟩
  simp (disch := decide) [decodeW, rawW, rawW6, wHdr, fld, h, fld_lo, fld_hi]

theorem wAadd (hd : WHdr) (wd : RegNo) (wa : RegNo) (wb : RegNo) : Statement (.wAadd hd wd wa wb) := by
  intro h
  refine ⟨_, rfl, ?_⟩
  simp (disch := decide) [decodeW, rawW, rawW7, wHdr, fld, h, fld_lo, fld_hi]

theorem wAswap (hd : WHdr) (wd : RegNo) (wa : RegNo) (wb : RegNo) : Statement (.wAswap hd wd wa wb) := by
  intro h
  refine ⟨_, rfl, ?_⟩
  simp (disch := decide) [decodeW, rawW, rawW7, wHdr, fld, h, fld_lo, fld_hi]

theorem wAcas (hd : WHdr) (wd : RegNo) (wa : RegNo) (wb : RegNo) : Statement (.wAcas hd wd wa wb) := by
  intro h
  refine ⟨_, rfl, ?_⟩
  simp (disch := decide) [decodeW, rawW, rawW7, wHdr, fld, h, fld_lo, fld_hi]

theorem wThfetch (hd : WHdr) (imm : BitVec 12) : Statement (.wThfetch hd imm) := by
  intro h
  refine ⟨_, rfl, ?_⟩
  simp (disch := decide) [decodeW, rawW, rawW7, wHdr, fld, h, fld_lo, fld_hi]

theorem wThfetchr (hd : WHdr) (wa : RegNo) : Statement (.wThfetchr hd wa) := by
  intro h
  refine ⟨_, rfl, ?_⟩
  simp (disch := decide) [decodeW, rawW, rawW7, wHdr, fld, h, fld_lo, fld_hi]

theorem wStop (hd : WHdr) : Statement (.wStop hd) := by
  intro h
  refine ⟨_, rfl, ?_⟩
  simp (disch := decide) [decodeW, rawW, rawW7, wHdr, fld, h, fld_lo, fld_hi]

theorem wIdx (hd : WHdr) (wd : RegNo) : Statement (.wIdx hd wd) := by
  intro h
  refine ⟨_, rfl, ?_⟩
  simp (disch := decide) [decodeW, rawW, rawW7, wHdr, fld, h, fld_lo, fld_hi]

theorem wSel (hd : WHdr) (wd : RegNo) (wa : RegNo) (wb : RegNo) : Statement (.wSel hd wd wa wb) := by
  intro h
  refine ⟨_, rfl, ?_⟩
  simp (disch := decide) [decodeW, rawW, rawW7, wHdr, fld, h, fld_lo, fld_hi]

theorem wRng (hd : WHdr) (wd : RegNo) (wa : RegNo) (wb : RegNo) : Statement (.wRng hd wd wa wb) := by
  intro h
  refine ⟨_, rfl, ?_⟩
  simp (disch := decide) [decodeW, rawW, rawW7, wHdr, fld, h, fld_lo, fld_hi]

theorem wFsinS2 (hd : WHdr) (wd : RegNo) (wa : RegNo) : Statement (.wFsinS2 hd wd wa) := by
  intro h
  refine ⟨_, rfl, ?_⟩
  simp (disch := decide) [decodeW, rawW, rawW7, wHdr, fld, h, fld_lo, fld_hi]

theorem wFcosS2 (hd : WHdr) (wd : RegNo) (wa : RegNo) : Statement (.wFcosS2 hd wd wa) := by
  intro h
  refine ⟨_, rfl, ?_⟩
  simp (disch := decide) [decodeW, rawW, rawW7, wHdr, fld, h, fld_lo, fld_hi]

theorem wPnot (hd : WHdr) (pd : RegNo) (pa : RegNo) (bank : BitVec 2) : Statement (.wPnot hd pd pa bank) := by
  intro h
  refine ⟨_, rfl, ?_⟩
  simp (disch := decide) [decodeW, rawW, rawW7, wHdr, fld, h, fld_lo, fld_hi]

theorem endloop : Statement .endloop := by
  intro h
  refine ⟨_, rfl, ?_⟩
  simp (disch := decide) [decodeC, rawC, rawC14, fld, h, fld_lo, fld_hi]

theorem gbar : Statement .gbar := by
  intro h
  refine ⟨_, rfl, ?_⟩
  simp (disch := decide) [decodeC, rawC, rawC19, fld, h, fld_lo, fld_hi]

theorem abort : Statement .abort := by
  intro h
  refine ⟨_, rfl, ?_⟩
  simp (disch := decide) [decodeC, rawC, rawC19, fld, h, fld_lo, fld_hi]

theorem eret : Statement .eret := by
  intro h
  refine ⟨_, rfl, ?_⟩
  simp (disch := decide) [decodeC, rawC, rawC20, fld, h, fld_lo, fld_hi]

theorem upret : Statement .upret := by
  intro h
  refine ⟨_, rfl, ?_⟩
  simp (disch := decide) [decodeC, rawC, rawC20, fld, h, fld_lo, fld_hi]

theorem irefresh : Statement .irefresh := by
  intro h
  refine ⟨_, rfl, ?_⟩
  simp (disch := decide) [decodeC, rawC, rawC20, fld, h, fld_lo, fld_hi]

theorem tlbinvWrite : Statement .tlbinvWrite := fun _ => rfl

theorem setvlGrantReturn : Statement .setvlGrantReturn := fun _ => rfl

theorem vsyncReturn : Statement .vsyncReturn := fun _ => rfl

theorem vectorAccessDone : Statement .vectorAccessDone := fun _ => rfl

theorem ewaitReturn : Statement .ewaitReturn := fun _ => rfl

theorem fenceReturn : Statement .fenceReturn := fun _ => rfl

theorem barrierComplete : Statement .barrierComplete := fun _ => rfl

theorem gbarComplete : Statement .gbarComplete := fun _ => rfl

theorem voteComplete : Statement .voteComplete := fun _ => rfl

theorem waitReturn : Statement .waitReturn := fun _ => rfl

theorem hubLpatchRequest : Statement .hubLpatchRequest := fun _ => rfl

theorem hubLarmRequest : Statement .hubLarmRequest := fun _ => rfl

theorem haltDrainEnd : Statement .haltDrainEnd := fun _ => rfl

theorem doneMessage : Statement .doneMessage := fun _ => rfl

theorem blockBegin : Statement .blockBegin := fun _ => rfl

theorem blockCommit : Statement .blockCommit := fun _ => rfl

theorem loadDataReturn : Statement .loadDataReturn := fun _ => rfl

theorem laneRotation : Statement .laneRotation := fun _ => rfl

theorem spillComplete : Statement .spillComplete := fun _ => rfl

theorem restoreComplete : Statement .restoreComplete := fun _ => rfl

theorem laneClearingDone : Statement .laneClearingDone := fun _ => rfl

theorem frameBoundary : Statement .frameBoundary := fun _ => rfl

theorem revocationDeadline : Statement .revocationDeadline := fun _ => rfl

theorem contextSave : Statement .contextSave := fun _ => rfl

theorem agingTick : Statement .agingTick := fun _ => rfl

theorem powerPressure : Statement .powerPressure := fun _ => rfl

theorem powerPressureEnd : Statement .powerPressureEnd := fun _ => rfl

theorem clockHop : Statement .clockHop := fun _ => rfl

theorem droopDuringHop : Statement .droopDuringHop := fun _ => rfl

theorem clockHopRetry : Statement .clockHopRetry := fun _ => rfl

theorem laneRetirement : Statement .laneRetirement := fun _ => rfl

theorem wayRetirement : Statement .wayRetirement := fun _ => rfl

theorem dispositionSet : Statement .dispositionSet := fun _ => rfl

theorem droverMove : Statement .droverMove := fun _ => rfl

theorem loomTokenWaitEnd : Statement .loomTokenWaitEnd := fun _ => rfl

theorem jobStart : Statement .jobStart := fun _ => rfl

theorem copyJobComplete : Statement .copyJobComplete := fun _ => rfl

theorem gleanerJobComplete : Statement .gleanerJobComplete := fun _ => rfl

theorem loomChunk : Statement .loomChunk := fun _ => rfl

theorem packetReport : Statement .packetReport := fun _ => rfl

theorem windowStoreArrival : Statement .windowStoreArrival := fun _ => rfl

theorem windowLoadArrival : Statement .windowLoadArrival := fun _ => rfl

theorem postedStoreFault : Statement .postedStoreFault := fun _ => rfl

theorem emulationTrip : Statement .emulationTrip := fun _ => rfl

theorem promptTrap : Statement .promptTrap := fun _ => rfl

theorem barrierTimeout : Statement .barrierTimeout := fun _ => rfl

theorem vsyncTimeout : Statement .vsyncTimeout := fun _ => rfl

theorem leaseLapse : Statement .leaseLapse := fun _ => rfl

theorem unitWakeUp : Statement .unitWakeUp := fun _ => rfl

theorem preemptionStop : Statement .preemptionStop := fun _ => rfl

theorem rollback : Statement .rollback := fun _ => rfl

theorem hostRequest : Statement .hostRequest := fun _ => rfl

theorem remoteRequest : Statement .remoteRequest := fun _ => rfl

theorem doorbell : Statement .doorbell := fun _ => rfl

theorem registerWrite : Statement .registerWrite := fun _ => rfl

theorem build : Statement .build := fun _ => rfl

theorem release : Statement .release := fun _ => rfl

theorem cfgstage : Statement .cfgstage := fun _ => rfl

theorem wlogrc : Statement .wlogrc := fun _ => rfl

theorem member : Statement .member := fun _ => rfl

theorem group : Statement .group := fun _ => rfl

theorem coll : Statement .coll := fun _ => rfl

theorem savereg : Statement .savereg := fun _ => rfl

theorem preempt : Statement .preempt := fun _ => rfl

theorem resume : Statement .resume := fun _ => rfl

theorem importImg : Statement .importImg := fun _ => rfl

theorem prq : Statement .prq := fun _ => rfl

theorem snapreg : Statement .snapreg := fun _ => rfl

theorem pclear : Statement .pclear := fun _ => rfl

theorem summary : Statement .summary := fun _ => rfl

theorem undefinedMailboxOpcode : Statement .undefinedMailboxOpcode := fun _ => rfl

theorem lockInterfaceRequest : Statement .lockInterfaceRequest := fun _ => rfl

theorem getDeviceInterfaceReport : Statement .getDeviceInterfaceReport := fun _ => rfl

theorem startInterfaceRequest : Statement .startInterfaceRequest := fun _ => rfl

theorem stopInterfaceRequest : Statement .stopInterfaceRequest := fun _ => rfl

theorem lockedBarWrite : Statement .lockedBarWrite := fun _ => rfl

theorem ideIntegrityFailure : Statement .ideIntegrityFailure := fun _ => rfl

theorem spdmMeasurement : Statement .spdmMeasurement := fun _ => rfl

theorem flitReceive : Statement .flitReceive := fun _ => rfl

theorem acknowledgement : Statement .acknowledgement := fun _ => rfl

theorem negativeAcknowledgement : Statement .negativeAcknowledgement := fun _ => rfl

theorem laneLost : Statement .laneLost := fun _ => rfl

theorem retrainDone : Statement .retrainDone := fun _ => rfl

theorem collectiveRoundDone : Statement .collectiveRoundDone := fun _ => rfl

theorem collectiveTimeout : Statement .collectiveTimeout := fun _ => rfl

theorem abortMessage : Statement .abortMessage := fun _ => rfl

theorem timeSlotStart : Statement .timeSlotStart := fun _ => rfl

theorem channelRequest : Statement .channelRequest := fun _ => rfl

theorem vectorRequestPacket : Statement .vectorRequestPacket := fun _ => rfl

theorem stackRetirementStart : Statement .stackRetirementStart := fun _ => rfl

theorem retirementEnd : Statement .retirementEnd := fun _ => rfl

theorem stackAnswerTimeout : Statement .stackAnswerTimeout := fun _ => rfl

theorem stackDead : Statement .stackDead := fun _ => rfl

theorem refreshBreak : Statement .refreshBreak := fun _ => rfl

theorem coldReset : Statement .coldReset := fun _ => rfl

theorem warmReset : Statement .warmReset := fun _ => rfl

theorem bounceReceived : Statement .bounceReceived := fun _ => rfl

theorem sysRevocation : Statement .sysRevocation := fun _ => rfl

theorem retentionRelease : Statement .retentionRelease := fun _ => rfl

end Laws.RoundTrip

end Sys2Proof
end

