-- ==== Sys2Proof/Tests/Slice0.lean ====
section
/-!
SUPPORT. Tests: terms that `Instr.wf` refuses, one word of each encoding, small steps whose results are worked out from
the rules, and for each statement with hypotheses a state and operands that meet them.
-/

namespace Sys2Proof.Machine

set_option Elab.async false

/-! ### Ill-formed terms, one for each check of `Instr.wf` -/

/-- A guard that holds always. -/
def hd : WHdr := { e := 0, n := 0, gp := 127 }

/-- R226, R259, R186, R187, R188, R291, R298: operands of control-thread words that make them reserved. -/
theorem test_wf_refuses_control_words :
    ∀ i ∈ [Instr.loop_ 10 0, .vsetc 5 6, .vget 3 4 0, .vget 3 4 24, .vget 3 4 31, .vput 3 4 130, .vld 0 4 0 1,
      .vld 24 4 0 1, .vld 5 4 1 3, .vst 0 4 1, .vlds 24 4 5 0 1, .vlds 5 4 6 1 3, .vsts 0 4 5 1, .vldx 0 4 6 0 1,
      .vldx 5 4 6 1 3, .vstx 24 4 6 1, .vldb 0 4, .ecfg 4 1 8, .ecfg 4 4 3, .erd 4 2 0, .vote 5 6 5, .lpatch 5 6 7],
      i.wf = false := by decide

/-- R191, R192, R194, R246: a guard that names no predicate, a destination `w24`-`w30`, a source `w31`, an accumulator
above `w23`, bank 3, and the formats, widths and registers that single words exclude. -/
theorem test_wf_refuses_micro_words :
    ∀ i ∈ [Instr.wStop { hd with gp := 96 }, .wStop { hd with gp := 126 }, .wAdd hd 24 1 2, .wAdd hd 30 1 2,
      .wAdd hd 3 31 2, .wAdd hd 3 1 31, .wFma hd 31 1 2 0, .wFma hd 24 1 2 0, .wCeq hd 3 1 2 3, .wPand hd 3 1 2 3,
      .wPmov hd 3 1 3 0, .wPmov hd 3 1 0 3, .wExp2 hd 3 1 0, .wExp2 hd 3 1 3, .wLds hd 3 1 2 3, .wCvtF4 hd 3 0,
      .wCvtF4 hd 3 17, .wAcas hd 0 1 2, .wAcas hd 23 1 2, .wAadd hd 31 1 2, .wRng hd 3 1 23, .wRng hd 3 1 30,
      .wSt hd 31 1 2 0, .wSpst hd 31 1 2, .wThfetchr hd 31, .wIdx hd 25], i.wf = false := by decide

/-- The bounds of those checks are well formed. -/
theorem test_wf_accepts_the_bounds :
    ∀ i ∈ [Instr.loop_ 10 1, .vsetc 5 5, .vget 3 4 1, .vget 3 4 23, .vget 3 4 32, .vput 3 4 129, .vld 1 4 0 3,
      .vld 23 4 1 2, .ecfg 4 1 7, .ecfg 4 3 15, .ecfg 4 4 15, .vote 5 6 4, .lpatch 5 6 6, .wStop { hd with gp := 95 },
      .wAdd hd 23 30 0, .wAdd hd 31 30 0, .wFma hd 23 1 2 0, .wCeq hd 3 1 2 2, .wExp2 hd 3 1 1, .wExp2 hd 3 1 2,
      .wLds hd 3 1 2 2, .wCvtF4 hd 3 1, .wCvtF4 hd 3 16, .wAcas hd 1 1 2, .wAcas hd 22 1 2, .wRng hd 3 1 24,
      .wRng hd 3 1 29, .wSt hd 30 1 2 0], i.wf = true := by decide

/-! ### Decoding: one word of each encoding, its operand fields set to distinct values -/

theorem test_decode_register_arithmetic_1 : ∀ p ∈ ([
    (0x08C85000, .add 3 4 5), (0x08C85001, .sub 3 4 5), (0x08C85002, .and_ 3 4 5), (0x08C85003, .or_ 3 4 5),
    (0x08C85004, .xor_ 3 4 5), (0x08C85005, .andn 3 4 5), (0x08C85006, .orn 3 4 5), (0x08C85007, .xnor 3 4 5),
    (0x08C85008, .sll 3 4 5), (0x08C85009, .srl 3 4 5), (0x08C8500A, .sra 3 4 5), (0x08C8500B, .rol 3 4 5),
    (0x08C8500C, .ror 3 4 5), (0x08C85010, .slt 3 4 5)] : List (IWord × Instr)),
    decodeC p.1 = .ok p.2 := by decide +kernel

theorem test_decode_register_arithmetic_2 : ∀ p ∈ ([
    (0x08C85011, .sltu 3 4 5), (0x08C85012, .seq 3 4 5), (0x08C85013, .sne 3 4 5), (0x08C85014, .min_ 3 4 5),
    (0x08C85015, .max_ 3 4 5), (0x08C85016, .minu 3 4 5), (0x08C85017, .maxu 3 4 5), (0x08C80018, .clz 3 4),
    (0x08C80019, .ctz 3 4), (0x08C8001A, .popc 3 4), (0x08C8001C, .sextb 3 4), (0x08C8001D, .sexth 3 4),
    (0x08C8001E, .sextw 3 4)] : List (IWord × Instr)),
    decodeC p.1 = .ok p.2 := by decide +kernel

theorem test_decode_immediate_arithmetic : ∀ p ∈ ([
    (0x10C8007D, .addi 3 4 125), (0x10C8107D, .andi 3 4 125), (0x10C8207D, .ori 3 4 125),
    (0x10C8307D, .xori 3 4 125), (0x10C84015, .slli 3 4 21), (0x10C85015, .srli 3 4 21),
    (0x10C86015, .srai 3 4 21), (0x10C87015, .rori 3 4 21), (0x10C8807D, .slti 3 4 125),
    (0x10C8907D, .sltiu 3 4 125), (0x10C8A07D, .seqi 3 4 125)] : List (IWord × Instr)),
    decodeC p.1 = .ok p.2 := by decide +kernel

theorem test_decode_multiply_divide : ∀ p ∈ ([
    (0x18C85000, .mul 3 4 5), (0x18C85001, .mulh 3 4 5), (0x18C85002, .mulhu 3 4 5), (0x18C85003, .mulhsu 3 4 5),
    (0x18C85004, .div 3 4 5), (0x18C85005, .divu 3 4 5), (0x18C85006, .rem 3 4 5), (0x18C85007, .remu 3 4 5)] : List (IWord × Instr)),
    decodeC p.1 = .ok p.2 := by decide +kernel

theorem test_decode_scalar_float_1 : ∀ p ∈ ([
    (0x20C85040, .fadd 3 4 5 1), (0x20C85041, .fsub 3 4 5 1), (0x20C85042, .fmul 3 4 5 1),
    (0x20C85043, .fdiv 3 4 5 1), (0x20C80044, .fsqrt 3 4 1), (0x20C85045, .fmin 3 4 5 1),
    (0x20C85046, .fmax 3 4 5 1), (0x20C80047, .fabs 3 4 1), (0x20C80048, .fneg 3 4 1),
    (0x20C85049, .fmadd 3 4 5 1), (0x20C8504A, .fmsub 3 4 5 1), (0x20C8504B, .fnmadd 3 4 5 1),
    (0x20C8504C, .fnmsub 3 4 5 1), (0x20C8504D, .feq 3 4 5 1)] : List (IWord × Instr)),
    decodeC p.1 = .ok p.2 := by decide +kernel

theorem test_decode_scalar_float_2 : ∀ p ∈ ([
    (0x20C8504E, .flt 3 4 5 1), (0x20C8504F, .fle 3 4 5 1), (0x20C80050, .fcvtL 3 4 1),
    (0x20C80051, .fcvtLu 3 4 1), (0x20C80052, .fcvtFromL 3 4 1), (0x20C80053, .fcvtFromLu 3 4 1),
    (0x20C80054, .fcvtW 3 4 1), (0x20C80055, .fcvtWu 3 4 1), (0x20C80056, .fcvtFromW 3 4 1),
    (0x20C80057, .fcvtFromWu 3 4 1), (0x20C80018, .fcvtDS 3 4), (0x20C80058, .fcvtSD 3 4),
    (0x20C80059, .fclass 3 4 1)] : List (IWord × Instr)),
    decodeC p.1 = .ok p.2 := by decide +kernel

theorem test_decode_loads : ∀ p ∈ ([
    (0x28C8007D, .lb 3 4 125), (0x28C8107D, .lh 3 4 125), (0x28C8207D, .lw 3 4 125), (0x28C8307D, .ld 3 4 125),
    (0x28C8407D, .lbu 3 4 125), (0x28C8507D, .lhu 3 4 125), (0x28C8607D, .lwu 3 4 125)] : List (IWord × Instr)),
    decodeC p.1 = .ok p.2 := by decide +kernel

theorem test_decode_stores : ∀ p ∈ ([
    (0x3008507D, .sb 4 5 125), (0x3048507D, .sh 4 5 125), (0x3088507D, .sw 4 5 125), (0x30C8507D, .sd 4 5 125)] : List (IWord × Instr)),
    decodeC p.1 = .ok p.2 := by decide +kernel

theorem test_decode_atomics : ∀ p ∈ ([
    (0x38C85003, .amoadd 3 4 5 1), (0x38C85007, .amoswap 3 4 5 1), (0x38C8500B, .amocas 3 4 5 1),
    (0x38C8500F, .amomin 3 4 5 1), (0x38C85013, .amomax 3 4 5 1), (0x38C85017, .amominu 3 4 5 1),
    (0x38C8501B, .amomaxu 3 4 5 1), (0x38C8501F, .amoand 3 4 5 1), (0x38C85023, .amoor 3 4 5 1)] : List (IWord × Instr)),
    decodeC p.1 = .ok p.2 := by decide +kernel

theorem test_decode_branches : ∀ p ∈ ([
    (0x4008507D, .beq 4 5 125), (0x4048507D, .bne 4 5 125), (0x4088507D, .blt 4 5 125),
    (0x40C8507D, .bge 4 5 125), (0x4108507D, .bltu 4 5 125), (0x4148507D, .bgeu 4 5 125)] : List (IWord × Instr)),
    decodeC p.1 = .ok p.2 := by decide +kernel

theorem test_decode_jal : ∀ p ∈ ([
    (0x48C12345, .jal 3 74565)] : List (IWord × Instr)),
    decodeC p.1 = .ok p.2 := by decide +kernel

theorem test_decode_lui : ∀ p ∈ ([
    (0x50C12345, .lui 3 74565)] : List (IWord × Instr)),
    decodeC p.1 = .ok p.2 := by decide +kernel

theorem test_decode_auipc : ∀ p ∈ ([
    (0x58C12345, .auipc 3 74565)] : List (IWord × Instr)),
    decodeC p.1 = .ok p.2 := by decide +kernel

theorem test_decode_jalr : ∀ p ∈ ([
    (0x60C8007D, .jalr 3 4 125)] : List (IWord × Instr)),
    decodeC p.1 = .ok p.2 := by decide +kernel

theorem test_decode_callt : ∀ p ∈ ([
    (0x68C85000, .callt 3 4 5)] : List (IWord × Instr)),
    decodeC p.1 = .ok p.2 := by decide +kernel

theorem test_decode_loops : ∀ p ∈ ([
    (0x7008007D, .loop_ 4 125), (0x70001000, .endloop)] : List (IWord × Instr)),
    decodeC p.1 = .ok p.2 := by decide +kernel

theorem test_decode_status_registers : ∀ p ∈ ([
    (0x78C0007D, .csrr 3 125), (0x7808107D, .csrw 4 125), (0x7808207D, .csrs 4 125), (0x7808307D, .csrc 4 125)] : List (IWord × Instr)),
    decodeC p.1 = .ok p.2 := by decide +kernel

theorem test_decode_crew_control : ∀ p ∈ ([
    (0x80C80000, .setvl 3 4), (0x80080001, .vfetch 4), (0x80085002, .vloop 4 5), (0x80C00003, .vsync 3),
    (0x80C80214, .vget 3 4 33), (0x80085215, .vput 4 5 33), (0x80080026, .vsetc 4 2)] : List (IWord × Instr)),
    decodeC p.1 = .ok p.2 := by decide +kernel

theorem test_decode_vector_memory : ∀ p ∈ ([
    (0x88C80001, .vld 3 4 0 1), (0x88C80011, .vst 3 4 1), (0x88C85005, .vlds 3 4 5 0 1),
    (0x88C85015, .vsts 3 4 5 1), (0x88C80A89, .vldx 3 4 21 0 1), (0x88C80A99, .vstx 3 4 21 1),
    (0x88C8000C, .vldb 3 4)] : List (IWord × Instr)),
    decodeC p.1 = .ok p.2 := by decide +kernel

theorem test_decode_engines : ∀ p ∈ ([
    (0x90080202, .ecfg 4 1 2), (0x90C00212, .erd 3 1 2), (0x90080020, .ewait 4), (0x90085220, .stream 4 5),
    (0x90C85420, .copyj 3 4 5), (0x90C85620, .gleanj 3 4 5), (0x90C80820, .lclaim 3 4),
    (0x90080830, .lrelease 4), (0x90080840, .lzero 4), (0x90085850, .lmmaO 4 5), (0x90085860, .lmmaR 4 5),
    (0x90C80870, .ldrain 3 4)] : List (IWord × Instr)),
    decodeC p.1 = .ok p.2 := by decide +kernel

theorem test_decode_synchronisation : ∀ p ∈ ([
    (0x98080000, .fence 4), (0x98080001, .barr 4), (0x98000002, .gbar), (0x98C80023, .vote 3 4 2),
    (0x98000004, .abort), (0x98C00005, .abortq 3), (0x98085006, .wait 4 5), (0x98080007, .wake 4)] : List (IWord × Instr)),
    decodeC p.1 = .ok p.2 := by decide +kernel

theorem test_decode_launch_and_system : ∀ p ∈ ([
    (0xA0085010, .lpatch 4 5 1), (0xA0080001, .larm 4), (0xA0080002, .halt 4), (0xA0000A53, .trap 165),
    (0xA0000004, .eret), (0xA0000005, .upret), (0xA0000006, .irefresh), (0xA0C80007, .discover 3 4)] : List (IWord × Instr)),
    decodeC p.1 = .ok p.2 := by decide +kernel

theorem test_decode_micro_thread_words_1 : ∀ p ∈ ([
    (0x83003214, .wAdd { e := 1, n := 0, gp := 6 } 3 4 5), (0x83003215, .wSub { e := 1, n := 0, gp := 6 } 3 4 5),
    (0x83003216, .wMin { e := 1, n := 0, gp := 6 } 3 4 5), (0x83003217, .wMax { e := 1, n := 0, gp := 6 } 3 4 5),
    (0x83023214, .wAnd { e := 1, n := 0, gp := 6 } 3 4 5), (0x83023215, .wOr { e := 1, n := 0, gp := 6 } 3 4 5),
    (0x83023216, .wXor { e := 1, n := 0, gp := 6 } 3 4 5),
    (0x83023217, .wAndn { e := 1, n := 0, gp := 6 } 3 4 5),
    (0x83043214, .wSll { e := 1, n := 0, gp := 6 } 3 4 5), (0x83043215, .wSrl { e := 1, n := 0, gp := 6 } 3 4 5),
    (0x83043216, .wSra { e := 1, n := 0, gp := 6 } 3 4 5), (0x83043217, .wRor { e := 1, n := 0, gp := 6 } 3 4 5),
    (0x83063214, .wMul { e := 1, n := 0, gp := 6 } 3 4 5),
    (0x83063215, .wMulh { e := 1, n := 0, gp := 6 } 3 4 5)] : List (IWord × Instr)),
    decodeW p.1 = .ok p.2 := by decide +kernel

theorem test_decode_micro_thread_words_2 : ∀ p ∈ ([
    (0x83063216, .wMulhu { e := 1, n := 0, gp := 6 } 3 4 5),
    (0x83063217, .wMulhsu { e := 1, n := 0, gp := 6 } 3 4 5),
    (0x83083214, .wDiv { e := 1, n := 0, gp := 6 } 3 4 5),
    (0x83083215, .wDivu { e := 1, n := 0, gp := 6 } 3 4 5),
    (0x83083216, .wRem { e := 1, n := 0, gp := 6 } 3 4 5),
    (0x83083217, .wRemu { e := 1, n := 0, gp := 6 } 3 4 5),
    (0x830A3214, .wMinu { e := 1, n := 0, gp := 6 } 3 4 5),
    (0x830A3215, .wMaxu { e := 1, n := 0, gp := 6 } 3 4 5),
    (0x830C3215, .wAddi { e := 1, n := 0, gp := 6 } 3 4 21),
    (0x830E3215, .wSlli { e := 1, n := 0, gp := 6 } 3 4 21),
    (0x83103215, .wSrli { e := 1, n := 0, gp := 6 } 3 4 21),
    (0x83123215, .wSrai { e := 1, n := 0, gp := 6 } 3 4 21),
    (0x8314307D, .wMovi { e := 1, n := 0, gp := 6 } 3 125),
    (0x83169215, .wCeq { e := 1, n := 0, gp := 6 } 9 4 5 1)] : List (IWord × Instr)),
    decodeW p.1 = .ok p.2 := by decide +kernel

theorem test_decode_micro_thread_words_3 : ∀ p ∈ ([
    (0x83189215, .wClt { e := 1, n := 0, gp := 6 } 9 4 5 1),
    (0x831A9215, .wCltu { e := 1, n := 0, gp := 6 } 9 4 5 1),
    (0x831C9215, .wFceqD { e := 1, n := 0, gp := 6 } 9 4 5 1),
    (0x831E9215, .wFcltD { e := 1, n := 0, gp := 6 } 9 4 5 1),
    (0x83209215, .wFcleD { e := 1, n := 0, gp := 6 } 9 4 5 1),
    (0x83229215, .wFceqS { e := 1, n := 0, gp := 6 } 9 4 5 1),
    (0x83249215, .wFcltS { e := 1, n := 0, gp := 6 } 9 4 5 1),
    (0x83269215, .wFcleS { e := 1, n := 0, gp := 6 } 9 4 5 1),
    (0x83283215, .wFadd { e := 1, n := 0, gp := 6 } 3 4 5 1),
    (0x832A3215, .wFsub { e := 1, n := 0, gp := 6 } 3 4 5 1),
    (0x832C3215, .wFmul { e := 1, n := 0, gp := 6 } 3 4 5 1),
    (0x832E3215, .wFma { e := 1, n := 0, gp := 6 } 3 4 5 1),
    (0x83303215, .wFms { e := 1, n := 0, gp := 6 } 3 4 5 1),
    (0x83323215, .wFnma { e := 1, n := 0, gp := 6 } 3 4 5 1)] : List (IWord × Instr)),
    decodeW p.1 = .ok p.2 := by decide +kernel

theorem test_decode_micro_thread_words_4 : ∀ p ∈ ([
    (0x83343215, .wFnms { e := 1, n := 0, gp := 6 } 3 4 5 1),
    (0x83363215, .wFdiv { e := 1, n := 0, gp := 6 } 3 4 5 1),
    (0x83383201, .wFsqrt { e := 1, n := 0, gp := 6 } 3 4 1),
    (0x833A3215, .wFmin { e := 1, n := 0, gp := 6 } 3 4 5 1),
    (0x833C3215, .wFmax { e := 1, n := 0, gp := 6 } 3 4 5 1),
    (0x833E3201, .wFabs { e := 1, n := 0, gp := 6 } 3 4 1),
    (0x83403201, .wFneg { e := 1, n := 0, gp := 6 } 3 4 1),
    (0x83423201, .wExp2 { e := 1, n := 0, gp := 6 } 3 4 1),
    (0x83443201, .wLog2 { e := 1, n := 0, gp := 6 } 3 4 1),
    (0x83463201, .wRcp { e := 1, n := 0, gp := 6 } 3 4 1),
    (0x83483201, .wRsqrt { e := 1, n := 0, gp := 6 } 3 4 1),
    (0x834A3214, .wCvthSD { e := 1, n := 0, gp := 6 } 3 4 5),
    (0x834A3215, .wCvthHS { e := 1, n := 0, gp := 6 } 3 4 5),
    (0x834A3216, .wCvthBS { e := 1, n := 0, gp := 6 } 3 4 5)] : List (IWord × Instr)),
    decodeW p.1 = .ok p.2 := by decide +kernel

theorem test_decode_micro_thread_words_5 : ∀ p ∈ ([
    (0x834A3217, .wCvthT8H { e := 1, n := 0, gp := 6 } 3 4 5),
    (0x834C3214, .wCvthE4H { e := 1, n := 0, gp := 6 } 3 4 5),
    (0x834C3215, .wCvthE5H { e := 1, n := 0, gp := 6 } 3 4 5),
    (0x834C3202, .wCvthT6T8 { e := 1, n := 0, gp := 6 } 3 4),
    (0x834E3204, .wCvtdDS { e := 1, n := 0, gp := 6 } 3 4 1),
    (0x834E3205, .wCvtdSH { e := 1, n := 0, gp := 6 } 3 4 1),
    (0x834E3206, .wCvtdSB { e := 1, n := 0, gp := 6 } 3 4 1),
    (0x834E3207, .wCvtdHT8 { e := 1, n := 0, gp := 6 } 3 4 1),
    (0x83503204, .wCvtdHE4 { e := 1, n := 0, gp := 6 } 3 4 1),
    (0x83503205, .wCvtdHE5 { e := 1, n := 0, gp := 6 } 3 4 1),
    (0x83503202, .wCvtdT8T6 { e := 1, n := 0, gp := 6 } 3 4),
    (0x83523200, .wCvtF4 { e := 1, n := 0, gp := 6 } 3 4),
    (0x83543201, .wCvtfi { e := 1, n := 0, gp := 6 } 3 4 1),
    (0x83563201, .wCvtfu { e := 1, n := 0, gp := 6 } 3 4 1)] : List (IWord × Instr)),
    decodeW p.1 = .ok p.2 := by decide +kernel

theorem test_decode_micro_thread_words_6 : ∀ p ∈ ([
    (0x83583201, .wCvtif { e := 1, n := 0, gp := 6 } 3 4 1),
    (0x835A3201, .wCvtuf { e := 1, n := 0, gp := 6 } 3 4 1),
    (0x835C93A1, .wPand { e := 1, n := 0, gp := 6 } 9 7 8 1),
    (0x835E93A1, .wPor { e := 1, n := 0, gp := 6 } 9 7 8 1),
    (0x836093A1, .wPxor { e := 1, n := 0, gp := 6 } 9 7 8 1),
    (0x836293A1, .wPandn { e := 1, n := 0, gp := 6 } 9 7 8 1),
    (0x83649389, .wPmov { e := 1, n := 0, gp := 6 } 9 7 2 1),
    (0x83663215, .wLd { e := 1, n := 0, gp := 6 } 3 4 5 1),
    (0x83683215, .wLds { e := 1, n := 0, gp := 6 } 3 4 5 1),
    (0x836A3215, .wSt { e := 1, n := 0, gp := 6 } 3 4 5 1),
    (0x836C3214, .wSpld { e := 1, n := 0, gp := 6 } 3 4 5),
    (0x836E3214, .wSpst { e := 1, n := 0, gp := 6 } 3 4 5),
    (0x83703214, .wAadd { e := 1, n := 0, gp := 6 } 3 4 5),
    (0x83703215, .wAswap { e := 1, n := 0, gp := 6 } 3 4 5)] : List (IWord × Instr)),
    decodeW p.1 = .ok p.2 := by decide +kernel

theorem test_decode_micro_thread_words_7 : ∀ p ∈ ([
    (0x83703216, .wAcas { e := 1, n := 0, gp := 6 } 3 4 5),
    (0x8372007D, .wThfetch { e := 1, n := 0, gp := 6 } 125),
    (0x83740200, .wThfetchr { e := 1, n := 0, gp := 6 } 4), (0x83760000, .wStop { e := 1, n := 0, gp := 6 }),
    (0x83763001, .wIdx { e := 1, n := 0, gp := 6 } 3), (0x83763216, .wSel { e := 1, n := 0, gp := 6 } 3 4 5),
    (0x83783264, .wRng { e := 1, n := 0, gp := 6 } 3 4 25),
    (0x837A3200, .wFsinS2 { e := 1, n := 0, gp := 6 } 3 4),
    (0x837A3201, .wFcosS2 { e := 1, n := 0, gp := 6 } 3 4),
    (0x837C9381, .wPnot { e := 1, n := 0, gp := 6 } 9 7 1)] : List (IWord × Instr)),
    decodeW p.1 = .ok p.2 := by decide +kernel

/-! ### One instruction on a small state, its result worked out by hand from the rule named -/

/-- Context 0 READY at 0x1000 with registers. -/
def ctl (l : Table Word) : State := State.reset.setCtx 0 { Ctx.reset with run := .active, pc := 0x1000, x := l }

/-- The register after an instruction that answers. -/
def regOf (i : Instr) (s : State) (r : RegNo) : Option Word :=
  match exec i s with
  | .next t => some (t.rx r)
  | _ => none

/-- The context after an instruction that answers. -/
def meOf (i : Instr) (s : State) : Option Ctx :=
  match exec i s with
  | .next t => some t.me
  | _ => none

/-- The state after an instruction or an event that answers, the state before it where it does not. -/
def stateOf (i : Instr) (s : State) : State :=
  match exec i s with
  | .next t => t
  | _ => s

/-- R210, class 1: a in x4, b in x5. -/
theorem test_class_1 : ∀ p ∈ ([(.add 3 4 5, 0xF000000000000048), (.sub 3 4 5, 0xEFFFFFFFFFFFFFBE), (.and_ 3 4 5, 0x1),
    (.or_ 3 4 5, 0xF000000000000047), (.xor_ 3 4 5, 0xF000000000000046), (.andn 3 4 5, 0xF000000000000002),
    (.orn 3 4 5, 0xFFFFFFFFFFFFFFBB), (.xnor 3 4 5, 0xFFFFFFFFFFFFFB9), (.sll 3 4 5, 0x60),
    (.srl 3 4 5, 0x780000000000000), (.sra 3 4 5, 0xFF80000000000000), (.rol 3 4 5, 0x7E),
    (.ror 3 4 5, 0x1F80000000000000), (.slt 3 4 5, 0x1), (.sltu 3 4 5, 0x0), (.seq 3 4 5, 0x0), (.sne 3 4 5, 0x1),
    (.min_ 3 4 5, 0xF000000000000003), (.max_ 3 4 5, 0x45), (.minu 3 4 5, 0x45), (.maxu 3 4 5, 0xF000000000000003),
    (.clz 3 4, 0x0), (.ctz 3 4, 0x0), (.popc 3 4, 0x6), (.sextb 3 4, 0x3), (.sexth 3 4, 0x3), (.sextw 3 4, 0x3)] : List (Instr × Word)),
    regOf p.1 (ctl [(4, 0xF000000000000003), (5, 0x45)]) 3 = some p.2 := by decide +kernel

/-- R210, class 1: corners of the comparisons, the counts and the sign extensions. -/
theorem test_class_1_corners : ∀ p ∈ ([(.clz 3 0, 64), (.ctz 3 0, 64), (.clz 3 6, 63), (.ctz 3 7, 63), (.popc 3 8, 64),
    (.add 3 8 6, 0), (.sub 3 0 6, 0xFFFFFFFFFFFFFFFF), (.slt 3 7 0, 1), (.sltu 3 7 0, 0), (.sextb 3 9, 0xFFFFFFFFFFFFFF80),
    (.sexth 3 9, 0xFFFFFFFFFFFF8180), (.sextw 3 9, 0x7F018180), (.add 0 6 6, 0)] : List (Instr × Word)),
    regOf p.1 (ctl [(6, 1), (7, 0x8000000000000000), (8, 0xFFFFFFFFFFFFFFFF), (9, 0x7F018180)])
      (match p.1 with
       | .add 0 _ _ => 0
       | _ => 3) = some p.2 := by decide +kernel

/-- R210, class 2: immediates are sign-extended, shift amounts are six bits. -/
theorem test_class_2 : ∀ p ∈ ([(.addi 3 4 0xFFD, 0xF000000000000000), (.andi 3 4 0xFFD, 0xF000000000000001),
    (.ori 3 4 0xFFD, 0xFFFFFFFFFFFFFFFF), (.xori 3 4 0xFFD, 0xFFFFFFFFFFFFFFE), (.slli 3 4 0x5, 0x60),
    (.srli 3 4 0x5, 0x780000000000000), (.srai 3 4 0x5, 0xFF80000000000000), (.rori 3 4 0x5, 0x1F80000000000000),
    (.slti 3 4 0xFFD, 0x1), (.sltiu 3 4 0xFFD, 0x1), (.seqi 3 4 0x3, 0x0)] : List (Instr × Word)),
    regOf p.1 (ctl [(4, 0xF000000000000003)]) 3 = some p.2 := by decide +kernel

/-- R212: the products and quotients of -7 and 3, and of the unsigned reading of -7. -/
theorem test_class_3 : ∀ p ∈ ([(.mul 3 4 5, 0xFFFFFFFFFFFFFFEB), (.mulh 3 4 5, 0xFFFFFFFFFFFFFFFF), (.mulhu 3 4 5, 0x2),
    (.mulhsu 3 4 5, 0xFFFFFFFFFFFFFFFF), (.div 3 4 5, 0xFFFFFFFFFFFFFFFE), (.divu 3 4 5, 0x5555555555555553),
    (.rem 3 4 5, 0xFFFFFFFFFFFFFFFF), (.remu 3 4 5, 0x0)] : List (Instr × Word)),
    regOf p.1 (ctl [(4, 0xFFFFFFFFFFFFFFF9), (5, 3)]) 3 = some p.2 := by decide +kernel

/-- R212: division by zero and the signed overflow give the values named and set IZ. -/
theorem test_class_3_corners : ∀ p ∈ ([(.div 3 4 0, 0xFFFFFFFFFFFFFFFF), (.divu 3 4 0, 0xFFFFFFFFFFFFFFFF), (.rem 3 4 0, 7),
    (.remu 3 4 0, 7), (.div 3 6 5, 0x8000000000000000), (.rem 3 6 5, 0)] : List (Instr × Word)),
    let s := ctl [(4, 7), (5, 0xFFFFFFFFFFFFFFFF), (6, 0x8000000000000000)]
    regOf p.1 s 3 = some p.2 ∧ (meOf p.1 s).map (·.fflags) = some 0x20 := by decide +kernel

/-- R214-R217, FP32: x4 is 1.5, x5 is 2.25, x3 is 4 before, x6 is -2.5, x7 is 9; values of IEEE 754 arithmetic. -/
theorem test_class_4_single : ∀ p ∈ ([(.fadd 3 4 5 0, 0x40700000), (.fsub 3 4 5 0, 0xBF400000), (.fmul 3 4 5 0, 0x40580000),
    (.fdiv 3 4 5 0, 0x3F2AAAAB), (.fsqrt 3 7 0, 0x40400000), (.fmin 3 4 6 0, 0xC0200000), (.fmax 3 4 6 0, 0x3FC00000),
    (.fabs 3 6 0, 0x40200000), (.fneg 3 4 0, 0xBFC00000), (.fmadd 3 4 5 0, 0x40EC0000), (.fmsub 3 4 5 0, 0xBF200000),
    (.fnmadd 3 4 5 0, 0x3F200000), (.fnmsub 3 4 5 0, 0xC0EC0000), (.feq 3 4 4 0, 1), (.flt 3 6 4 0, 1), (.fle 3 4 6 0, 0),
    (.fcvtL 3 6 0, 0xFFFFFFFFFFFFFFFE), (.fcvtLu 3 5 0, 2), (.fcvtW 3 6 0, 0xFFFFFFFFFFFFFFFE), (.fcvtWu 3 5 0, 2),
    (.fcvtFromL 3 8 0, 0xBF800000), (.fcvtFromLu 3 8 0, 0x5F800000), (.fcvtFromW 3 8 0, 0xBF800000),
    (.fcvtFromWu 3 8 0, 0x4F800000), (.fcvtDS 3 4, 0x3FF8000000000000), (.fclass 3 6 0, 2)] : List (Instr × Word)),
    regOf p.1 (ctl [(3, 0x40800000), (4, 0x3FC00000), (5, 0x40100000), (6, 0xC0200000), (7, 0x41100000),
      (8, 0xFFFFFFFFFFFFFFFF)]) 3 = some p.2 := by decide +kernel

/-- R214, R216, R217, FP64: 1/3, the square root of 2, and their flags; the narrowing of 1/3. -/
theorem test_class_4_double : ∀ p ∈ ([(.fdiv 3 4 5 1, 0x3FD5555555555555, 0x01), (.fsqrt 3 6 1, 0x3FF6A09E667F3BCD, 0x01),
    (.fdiv 3 4 0 1, 0x7FF0000000000000, 0x08), (.fcvtSD 3 7, 0x3EAAAAAB, 0x01), (.fmul 3 8 8 1, 0x7FF0000000000000, 0x05),
    (.fadd 3 9 4 1, 0x7FF8000000000000, 0x10), (.fcvtW 3 8 1, 0x7FFFFFFF, 0x10)] : List (Instr × Word × BitVec 7)),
    let s := ctl [(4, 0x3FF0000000000000), (5, 0x4008000000000000), (6, 0x4000000000000000), (7, 0x3FD5555555555555),
      (8, 0x7FE0000000000000), (9, 0x7FF0000000000001)]
    regOf p.1 s 3 = some p.2.1 ∧ (meOf p.1 s).map (·.fflags) = some p.2.2 := by decide +kernel

/-- A context at Sys at 0x60000000 whose pages at 0x60000000 (execute) and 0x70000000 (read and write) are mapped to the
physical addresses of the same number, with bytes placed at 0x70000000. -/
def dat (l : Table Word) (data : List Byte) : State :=
  let s := State.reset.setCtx 0 { Ctx.reset with run := .active, pc := 0x60000000, codebound := 0x60010000, x := l
                                                 vsave := 0x70001000 }
  let s := s.setCluster 0 { Cluster.reset with vtab := [(6, 0x6000001B), (7, 0x70000017)] }
  { s with mem := writeBytes [] (memKey 0 0x70000000) data }

/-- The bytes of `dat` after a step, from an address up. -/
def bytesOf (s : State) (pa n : Nat) : List Byte := readBytes s.mem (memKey 0 pa) n

/-- R219: the loads of the bytes 80 FF 01 00 00 00 00 90, sign- and zero-extended. -/
theorem test_loads : ∀ p ∈ ([(.lb 3 4 0, 0xFFFFFFFFFFFFFF80), (.lbu 3 4 0, 0x80), (.lh 3 4 0, 0xFFFFFFFFFFFFFF80),
    (.lhu 3 4 0, 0xFF80), (.lw 3 4 4, 0xFFFFFFFF90000000), (.lwu 3 4 4, 0x90000000), (.ld 3 4 0, 0x900000000001FF80),
    (.lb 3 4 1, 0xFFFFFFFFFFFFFFFF)] : List (Instr × Word)),
    regOf p.1 (dat [(4, 0x70000000)] [0x80, 0xFF, 1, 0, 0, 0, 0, 0x90]) 3 = some p.2 := by decide +kernel

/-- R220: the stores of 0x1122334455667788 change their own bytes only. -/
theorem test_stores : ∀ p ∈ ([(.sb 4 5 1, [9, 0x88, 9, 9, 9, 9, 9, 9]), (.sh 4 5 2, [9, 9, 0x88, 0x77, 9, 9, 9, 9]),
    (.sw 4 5 4, [9, 9, 9, 9, 0x88, 0x77, 0x66, 0x55]), (.sd 4 5 0, [0x88, 0x77, 0x66, 0x55, 0x44, 0x33, 0x22, 0x11])] :
    List (Instr × List Byte)),
    bytesOf (stateOf p.1 (dat [(4, 0x70000000), (5, 0x1122334455667788)] (List.replicate 8 9))) 0x70000000 8 = p.2 := by
  decide +kernel

/-- R222: each atomic of a word that holds -2, with x5 = 3 and x3 = -2: the new value, and the old one in x3. -/
theorem test_atomics : ∀ p ∈ ([(.amoadd 3 4 5 0, 1), (.amoswap 3 4 5 0, 3), (.amocas 3 4 5 0, 3), (.amomin 3 4 5 0, -2),
    (.amomax 3 4 5 0, 3), (.amominu 3 4 5 0, 3), (.amomaxu 3 4 5 0, -2), (.amoand 3 4 5 0, 2), (.amoor 3 4 5 0, -1)] :
    List (Instr × BitVec 32)),
    let s := dat [(3, 0xFFFFFFFFFFFFFFFE), (4, 0x70000000), (5, 3)] [0xFE, 0xFF, 0xFF, 0xFF]
    regOf p.1 s 3 = some 0xFFFFFFFFFFFFFFFE ∧
      leNat (bytesOf (stateOf p.1 s) 0x70000000 4) = p.2.toNat := by decide +kernel

/-- R222, R143: an `amocas` that fails leaves the bytes and sets the write log. -/
theorem test_amocas_fails :
    let t := stateOf (.amocas 3 4 5 1) (dat [(3, 7), (4, 0x70000000), (5, 3)] [6])
    t.rx 3 = 6 ∧ bytesOf t 0x70000000 8 = [6, 0, 0, 0, 0, 0, 0, 0] ∧ t.wlog ≠ [] := by decide +kernel

/-- R218, R371: the causes of an address that is not canonical, one that is not aligned, and a page that is not mapped. -/
theorem test_access_causes : ∀ p ∈ ([(.lb 3 4 0, 0x03), (.sd 5 3 1, 0x04), (.amoadd 3 6 5 1, 0x06), (.ld 3 6 0, 0x06),
    (.sb 7 3 0, 0x06)] : List (Instr × BitVec 8)),
    ((meOf p.1 (dat [(4, 0x100000000000000), (5, 0x70000000), (6, 0x80000000), (7, 0x60000000)] [])).map
      (fun x => (x.level, x.st.cause, x.st.epc))) = some (.sys, p.2, 0x60000000) := by decide +kernel

/-- R224: branches with x4 = -1 and x5 = 1, an offset of 3 words, and the jumps. -/
theorem test_branches : ∀ p ∈ ([(.beq 4 4 3, 0x100C), (.beq 4 5 3, 0x1004), (.bne 4 5 0xFFF, 0xFFC), (.blt 4 5 3, 0x100C),
    (.bge 4 5 3, 0x1004), (.bltu 4 5 3, 0x1004), (.bgeu 4 5 3, 0x100C), (.jal 1 0x3FFFFF, 0xFFC), (.jalr 5 5 10, 8)] :
    List (Instr × Word)),
    (meOf p.1 (ctl [(4, 0xFFFFFFFFFFFFFFFF), (5, 1)])).map (·.pc) = some p.2 := by decide +kernel

/-- R224, R206: `jalr` reads its source before it writes its destination. -/
theorem test_jalr_links : regOf (.jalr 5 5 0) (ctl [(5, 0x2000)]) 5 = some 0x1004 := by decide +kernel

/-- R211. -/
theorem test_upper_immediates : regOf (.lui 3 0x3FFFFF) (ctl []) 3 = some 0xFFFFFFFFFFFFF000 ∧
    regOf (.auipc 3 1) (ctl []) 3 = some 0x2000 := by decide +kernel

/-- R225, its example: entry 2 of a table of 3 lies 0x40 words from the table; with the wrong signature cause 0x0B. -/
theorem test_callt :
    let s := fun (sig : Word) =>
      let s := dat [(10, 2), (11, sig)] ([3, 0, 0, 0, 0, 0, 0, 0] ++ List.replicate 16 0 ++
        [0xE7, 0x93, 0x1C, 0x5A, 0x40, 0, 0, 0])
      s.setCtx 0 { s.me with fnbase := 0x70000000 }
    (meOf (.callt 1 10 11) (s 0x5A1C93E7)).map (fun x => (x.pc, x.rx 1)) = some (0x70000100, 0x60000004) ∧
    (meOf (.callt 1 10 11) (s 0x5A1C93E6)).map (fun x => (x.st.cause, x.st.val, x.rx 1)) = some (0x0B, 1, 0) := by
  decide +kernel

/-- R226: `loop` skips a count of zero, pushes another, and stops at six entries; `endloop` goes back or falls through. -/
theorem test_loops :
    (meOf (.loop_ 4 4) (ctl [])).map (·.pc) = some 0x1014 ∧
    (meOf (.loop_ 4 4) (ctl [(4, 3)])).map (fun x => (x.pc, x.loops)) =
      some (0x1004, [{ start := 0x1004, stop := 0x1010, count := 3 }]) ∧
    (let s := fun (n : Word) => (ctl []).setMe { (ctl []).me with
        loops := [{ start := 0x40, stop := 0x50, count := 9 }, { start := 0xF00, stop := 0x1000, count := n }] }
     (meOf .endloop (s 2)).map (fun x => (x.pc, x.loops)) = some (0xF00, [{ start := 0xF00, stop := 0x1000, count := 1 }]) ∧
     (meOf .endloop (s 1)).map (fun x => (x.pc, x.loops)) = some (0x1004, [])) ∧
    (meOf .endloop (ctl [])).map (fun x => x.st.cause) = some 0x0C := by decide +kernel

/-- R35, R228: `coreid` of core 3:17, context 1, and `csrs` and `csrc` of `fflags`. -/
theorem test_status_registers :
    (let s := { State.reset with cur := 4 * (3 * 32 + 17) + 1 }
     regOf (.csrr 5 0x020) s 5 = some 0x148011103) ∧
    (let s := (ctl [(4, 0x18)]).setMe { (ctl [(4, 0x18)]).me with fflags := 0x0A }
     (meOf (.csrs 4 1) s).map (·.fflags) = some 0x1A ∧ (meOf (.csrc 4 1) s).map (·.fflags) = some 0x02 ∧
     (meOf (.csrw 4 1) s).map (·.fflags) = some 0x18) := by decide +kernel

/-! ### One word of a micro-thread -/

/-- Micro-thread 0 of context 0 at the first word of a block of two, with registers; `vbase` 0x100, rounding mode SRN in
`wrm` code 4 where asked. -/
def mic (w : Table Word) (wrm : BitVec 3 := 0) (vb : Word := 0x100) : State :=
  let m : Mt := { Mt.fresh with w := w, p := 0x1, state := .running }
  let x : Ctx := { Ctx.reset with run := .active, vl := 1, gstate := .granted, slots := [0], vbase := vb, wrm := wrm }
  (State.reset.setCtx 0 x).setMt 0 0 { m with blk := some (m.start x.capture 0x1000 [0, 0] 0 false) }

/-- The block after a word that answers. -/
def blkOf (i : Instr) (s : State) : Option Blk :=
  match exec i s with
  | .next t => (t.mt 0 0).blk
  | _ => none

/-- A register and the flags after a word. -/
def wOf (i : Instr) (s : State) (r : Nat) : Option (Word × BitVec 7) := (blkOf i s).map (fun b => (look 0 b.w r, b.flags))

/-- R236, R250, R251: w1 is -7 and w2 is 3. -/
theorem test_micro_integer : ∀ p ∈ ([(.wAdd hd 3 1 2, 0xFFFFFFFFFFFFFFFC), (.wSub hd 3 1 2, 0xFFFFFFFFFFFFFFF6), (.wMin hd 3 1 2, 0xFFFFFFFFFFFFFFF9),
    (.wMax hd 3 1 2, 0x3), (.wAnd hd 3 1 2, 0x1), (.wOr hd 3 1 2, 0xFFFFFFFFFFFFFFFB),
    (.wXor hd 3 1 2, 0xFFFFFFFFFFFFFFFA), (.wAndn hd 3 1 2, 0xFFFFFFFFFFFFFFF8),
    (.wSll hd 3 1 2, 0xFFFFFFFFFFFFFFC8), (.wSrl hd 3 1 2, 0x1FFFFFFFFFFFFFFF), (.wSra hd 3 1 2, 0xFFFFFFFFFFFFFFFF),
    (.wRor hd 3 1 2, 0x3FFFFFFFFFFFFFFF), (.wMul hd 3 1 2, 0xFFFFFFFFFFFFFFEB),
    (.wMulh hd 3 1 2, 0xFFFFFFFFFFFFFFFF), (.wMulhu hd 3 1 2, 0x2), (.wMulhsu hd 3 1 2, 0xFFFFFFFFFFFFFFFF),
    (.wDiv hd 3 1 2, 0xFFFFFFFFFFFFFFFE), (.wDivu hd 3 1 2, 0x5555555555555553),
    (.wRem hd 3 1 2, 0xFFFFFFFFFFFFFFFF), (.wRemu hd 3 1 2, 0x0), (.wMinu hd 3 1 2, 0x3),
    (.wMaxu hd 3 1 2, 0xFFFFFFFFFFFFFFF9), (.wSel hd 3 1 2, 0xFFFFFFFFFFFFFFF9),
    (.wAddi hd 3 1 0x7F, 0xFFFFFFFFFFFFFFF8), (.wSlli hd 3 1 4, 0xFFFFFFFFFFFFFF90),
    (.wSrli hd 3 1 4, 0xFFFFFFFFFFFFFFF), (.wSrai hd 3 1 1, 0xFFFFFFFFFFFFFFFC),
    (.wMovi hd 3 0xFFB, 0xFFFFFFFFFFFFFFFB), (.wIdx hd 3, 0x100)] : List (Instr × Word)),
    wOf p.1 (mic [(1, 0xFFFFFFFFFFFFFFF9), (2, 3)]) 3 = some (p.2, 0) := by decide +kernel

/-- The table "Per-lane division" of the spec, rows 2 and 3, and `divu` by zero (R97, R236). -/
theorem test_micro_division : ∀ p ∈ ([(.wDiv hd 3 1 0, 0xFFFFFFFFFFFFFFFF), (.wRem hd 3 1 0, 5), (.wDivu hd 3 1 0, 0xFFFFFFFFFFFFFFFF),
    (.wDiv hd 3 4 5, 0x8000000000000000), (.wRem hd 3 4 5, 0)] : List (Instr × Word)),
    wOf p.1 (mic [(1, 5), (4, 0x8000000000000000), (5, 0xFFFFFFFFFFFFFFFF)]) 3 = some (p.2, 0x20) := by decide +kernel

/-- R237, R238: the predicate a word writes, with w1 = -1, w2 = 1 (also read as floats), p0 true and p1 false. -/
theorem test_micro_predicates : ∀ p ∈ ([(.wCeq hd 5 1 1 1, true), (.wClt hd 5 1 2 1, true), (.wCltu hd 5 1 2 1, false),
    (.wFceqD hd 5 2 2 1, true), (.wFcltD hd 5 0 2 1, true), (.wFcleD hd 5 1 2 1, false), (.wFceqS hd 5 2 0 1, false),
    (.wFcltS hd 5 0 2 1, true), (.wFcleS hd 5 2 0 1, false)] : List (Instr × Bool)),
    (blkOf p.1 (mic [(1, 0xFFFFFFFFFFFFFFFF), (2, 1)])).map (fun b => b.p.getLsbD 37) = some p.2 := by decide +kernel

/-- R238: with p0 true and p1 false. -/
theorem test_micro_logic : ∀ p ∈ ([(.wPand hd 5 0 1 0, false), (.wPor hd 5 0 1 0, true), (.wPxor hd 5 0 0 0, false),
    (.wPandn hd 5 0 1 0, true), (.wPnot hd 5 1 0, true), (.wPmov hd 5 0 0 0, true)] : List (Instr × Bool)),
    (blkOf p.1 (mic [])).map (fun b => b.p.getLsbD 5) = some p.2 := by decide +kernel

/-- R191, R251: a guard that does not hold skips the word, and `sel` takes its second source. -/
theorem test_micro_guard :
    wOf (.wMovi { hd with gp := 1 } 3 5) (mic [(3, 9)]) 3 = some (9, 0) ∧
    wOf (.wMovi { hd with gp := 1, n := 1 } 3 5) (mic [(3, 9)]) 3 = some (5, 0) ∧
    wOf (.wSel { hd with gp := 1 } 3 1 2) (mic [(1, 7), (2, 8)]) 3 = some (8, 0) := by decide +kernel

/-- R239, FP64 and FP32 pairs: 1.5 and 2.25, and the accumulator 4 in w3. -/
theorem test_micro_float_double : ∀ p ∈ ([(.wFadd hd 3 1 2 0, 0x400E000000000000), (.wFsub hd 3 1 2 0, 0xBFE8000000000000),
    (.wFmul hd 3 1 2 0, 0x400B000000000000), (.wFma hd 3 1 2 0, 0x401D800000000000), (.wFms hd 3 1 2 0, 0xBFE4000000000000),
    (.wFnma hd 3 1 2 0, 0x3FE4000000000000), (.wFnms hd 3 1 2 0, 0xC01D800000000000), (.wFmin hd 3 1 2 0, 0x3FF8000000000000),
    (.wFmax hd 3 1 2 0, 0x4002000000000000), (.wFabs hd 3 1 0, 0x3FF8000000000000), (.wFneg hd 3 1 0, 0xBFF8000000000000),
    (.wFsqrt hd 3 2 0, 0x3FF8000000000000), (.wFdiv hd 3 4 1 0, 0x4000000000000000)] : List (Instr × Word)),
    wOf p.1 (mic [(1, 0x3FF8000000000000), (2, 0x4002000000000000), (3, 0x4010000000000000), (4, 0x4008000000000000)]) 3 =
      some (p.2, 0) := by decide +kernel

/-- R239, R240: pairs of FP32, and four FP16 and BF16 elements. -/
theorem test_micro_float_packed : ∀ p ∈ ([(.wFadd hd 3 1 1 1, 0x4100000040800000), (.wFdiv hd 3 1 1 1, 0x3F8000003F800000),
    (.wFmul hd 3 2 2 2, 0x4400440044004400), (.wFsub hd 3 4 4 3, 0), (.wExp2 hd 3 5 1, 0x3F00000041000000),
    (.wLog2 hd 3 6 1, 0x0000000040400000), (.wRcp hd 3 7 1, 0xC00000003E800000), (.wRsqrt hd 3 8 1, 0x3E8000003F000000)] :
    List (Instr × Word)),
    wOf p.1 (mic [(1, 0x4080000040000000), (2, 0x4000400040004000), (4, 0x3F803F803F803F80), (5, 0xBF80000040400000),
      (6, 0x3F80000041000000), (7, 0xBF00000040800000), (8, 0x4180000040800000)]) 3 = some (p.2, 0) := by decide +kernel

/-- The example of R234: `fadd.s2` under SRN on the micro-thread of global index 1 gives 0x3F80_0000_3F80_0001 and NX. -/
theorem test_micro_stochastic_rounding :
    wOf (.wFadd hd 3 1 2 1) (mic [(1, 0x3F8000003F800000), (2, 0x3380000033800000)] 4 1) 3 =
      some (0x3F8000003F800001, 0x01) := by decide +kernel

/-- R241, the conversions to T8 of the example of R106, and the other halving converts of exact values. -/
theorem test_micro_halving : ∀ p ∈ ([(.wCvthT8H hd 3 1 0, 0x007F7E40, 0x07), (.wCvthSD hd 3 2 4, 0xC00000003FC00000, 0),
    (.wCvthHS hd 3 5 5, 0xC0003E00C0003E00, 0), (.wCvthBS hd 3 5 5, 0xC0003FC0C0003FC0, 0),
    (.wCvthE4H hd 3 6 0, 0x7E7EC038, 0x05), (.wCvthE5H hd 3 7 0, 0xBC00C03C, 0), (.wCvthT6T8 hd 3 8, 0x207D0, 0x05)] :
    List (Instr × Word × BitVec 7)),
    wOf p.1 (mic [(1, 0x08006CE267D03C20), (2, 0x3FF8000000000000), (4, 0xC000000000000000), (5, 0xC00000003FC00000),
      (6, 0x5FD05F00C0003C00), (7, 0xBC000000C0003C00), (8, 0x807F40)]) 3 = some p.2 := by decide +kernel

/-- R242, the codes of the examples of R93, and the other doubling converts. -/
theorem test_micro_doubling : ∀ p ∈ ([(.wCvtdHT8 hd 3 1 0, 0xC600368042803C00), (.wCvtdDS hd 3 2 1, 0xC004000000000000),
    (.wCvtdSH hd 3 4 0, 0xC00000003F800000), (.wCvtdSB hd 3 5 1, 0xC00000003F800000), (.wCvtdHE4 hd 3 6 0, 0x0000000040003C00),
    (.wCvtdHE5 hd 3 7 1, 0x00000000C0003C00)] : List (Instr × Word)),
    wOf p.1 (mic [(1, 0xE42A5A40), (2, 0xC020000000000000), (4, 0xC0003C00), (5, 0xC0003F8000000000), (6, 0x4038),
      (7, 0x0000C03C00000000)]) 3 = some (p.2, 0) := by decide +kernel

/-- R242: T6 1.0, 2.0, 0.5, 256, NaV and -1.5 become the same T8 values. -/
theorem test_micro_t6 :
    wOf (.wCvtdT8T6 hd 3 1) (mic [(1, 0x10 + 0x14 * 2 ^ 6 + 0xC * 2 ^ 12 + 0x1F * 2 ^ 18 + 0x20 * 2 ^ 24 + 0x32 * 2 ^ 30)]) 3 =
      some (0xC8807C305040, 0) := by decide +kernel

/-- The example of R243. -/
theorem test_micro_cvt_f4 :
    wOf (.wCvtF4 hd 20 1) (mic [(1, 0x3E8000003E99999A), (2, 0x3FA000003F400000), (3, 0x402000003FE00000),
      (4, 0x40A0000040600000), (5, 0xBE4CCCCD40E00000), (6, 0xC039999ABF800000),
      (7, 0x0000000041200000), (8, 0x7FC0000080000000)]) 20 =
      some (0x0807DA8766442201, 0x17) := by decide +kernel

/-- R244. -/
theorem test_micro_int_converts : ∀ p ∈ ([(.wCvtfi hd 3 1 1, 0x00000004FFFFFFFE, 0x01), (.wCvtfu hd 3 2 0, 3, 0),
    (.wCvtif hd 3 4 0, 0xC014000000000000, 0), (.wCvtuf hd 3 5 1, 0x4F8000003F800000, 0x01)] : List (Instr × Word × BitVec 7)),
    wOf p.1 (mic [(1, 0x40600000C0200000), (2, 0x4008000000000000), (4, 0xFFFFFFFFFFFFFFFB), (5, 0xFFFFFFFF00000001)]) 3 =
      some p.2 := by decide +kernel

/-- The table "Generator values" of R252, and `rng` on the micro-thread of global index 1 (R253). -/
theorem test_generator : mix64 0 0 = 0x7727E682DA88F2A1 ∧ mix64 0 1 = 0x9608EDD75756E5F5 ∧
    mix64 0x500000003 0 = 0xE92CE40ECCFD77AD ∧
    wOf (.wRng hd 3 0 26) (mic [] 0 1) 3 = some (0x9608EDD75756E5F5, 0) := by decide +kernel

/-- R248, R249: the next block named by `thfetch` (back 3 words of 4 bytes) and `thfetchr`, and the mark of `stop`. -/
theorem test_micro_chain :
    (blkOf (.wThfetch hd 0xFFD) (mic [])).map (·.next) = some (some 0xFF4) ∧
    (blkOf (.wThfetchr hd 1) (mic [(1, 0x2000)])).map (·.next) = some (some 0x2000) ∧
    (blkOf (.wStop hd) (mic [])).map (·.stop) = some true := by decide +kernel

/-- R392: the retired functions hold their block and request a trip. -/
theorem test_micro_retired : ∀ i ∈ [Instr.wFsinS2 hd 3 1, .wFcosS2 hd 3 1],
    (blkOf i (mic [])).map (fun b => (b.trip, b.pos)) = some (true, 0) := by decide +kernel

/-- Micro-thread 0 over the pages of `dat`. -/
def micMem (w : Table Word) (data : List Byte) : State :=
  let s := dat [] data
  let m : Mt := { Mt.fresh with w := w, p := 0x1, state := .running }
  let x : Ctx := { s.me with vl := 1, gstate := .granted, slots := [0] }
  (s.setCtx 0 x).setMt 0 0 { m with blk := some (m.start x.capture 0x60000000 [0, 0] 0 false) }

/-- R245: loads of every width and sign of the bytes 80 FF 01 00 00 00 00 90. -/
theorem test_micro_loads : ∀ p ∈ ([(.wLd hd 3 1 0 0, 0x80), (.wLd hd 3 1 0 1, 0xFF80), (.wLd hd 3 1 0 2, 0x1FF80),
    (.wLd hd 3 1 0 3, 0x900000000001FF80), (.wLds hd 3 1 0 0, 0xFFFFFFFFFFFFFF80), (.wLds hd 3 1 0 1, 0xFFFFFFFFFFFFFF80),
    (.wLds hd 3 1 2 2, 0xFFFFFFFF90000000)] : List (Instr × Word)),
    wOf p.1 (micMem [(1, 0x70000000), (2, 4)] [0x80, 0xFF, 1, 0, 0, 0, 0, 0x90]) 3 = some (p.2, 0) := by decide +kernel

/-- R245, R39: a store waits in its block, which later loads of the block see; nothing is written before the commit. -/
theorem test_micro_store :
    let s := micMem [(1, 0x70000000), (2, 0x1234)] [9, 9, 9]
    let t := stateOf (.wSt hd 2 1 0 1) s
    (blkOf (.wSt hd 2 1 0 1) s).map (fun b => b.stores.map (fun e => (e.kind, e.pa, e.width, e.data))) =
      some [(0, 0x70000000, 2, 0x1234)] ∧ bytesOf t 0x70000000 3 = [9, 9, 9] ∧
    wOf (.wLd hd 3 1 0 2) t 3 = some (0x91234, 0) := by decide +kernel

/-- R246: atomics wait in the block with their operands. -/
theorem test_micro_atomics : ∀ p ∈ ([(.wAadd hd 2 1 0, 2), (.wAswap hd 2 1 0, 3), (.wAcas hd 2 1 0, 4)] : List (Instr × Nat)),
    (blkOf p.1 (micMem [(1, 0x70000000), (2, 5), (3, 6)] [])).map (fun b => b.stores.map (fun e => (e.kind, e.data, e.data2))) =
      some [(p.2, 5, 6)] := by decide +kernel

/-- R247, R129: element 2 of an FP16 bank takes 1.5 and gives it back as FP32; of an INT8 bank, 300 saturates with IS. -/
theorem test_micro_scratchpad :
    let s := micMem [(1, 0x10002), (2, 0x3FC00000), (4, 0x20002), (5, 300)] []
    let s := s.setMt 0 0 { s.mt 0 0 with blk := (s.mt 0 0).blk.map (fun b => { b with cap := { b.cap with bfmt := 0x0A0300 } }) }
    (blkOf (.wSpst hd 2 1 0) s).map (fun b => b.stores.map (fun e => (e.width, e.data))) = some [(16, 0x3E00)] ∧
    wOf (.wSpld hd 3 1 0) (stateOf (.wSpst hd 2 1 0) s) 3 = some (0x3FC00000, 0) ∧
    wOf (.wSpld hd 3 4 0) (stateOf (.wSpst hd 5 4 0) s) 3 = some (127, 0x40) := by decide +kernel

/-- R232: an address that is not aligned faults the micro-thread with cause 0x04 and leaves no block. -/
theorem test_micro_fault :
    let t := stateOf (.wLd hd 3 1 0 1) (micMem [(1, 0x70000001)] [])
    (t.mt 0 0).state = .faulted ∧ (t.mt 0 0).cause = 0x04 ∧ (t.mt 0 0).faultAddr = 0x70000001 ∧
      (t.mt 0 0).blk = none := by decide +kernel

/-! ### For each statement with hypotheses, a state and operands that meet them -/

/-- The outcome is a next state. -/
def goes (o : Res') : Bool :=
  match o with
  | .next _ => true
  | _ => false

/-- The state after a step, the state before it where it does not answer. -/
def stepOf (s : State) : State :=
  match step s with
  | .next t => t
  | _ => s

/-- Context 0 about to issue `sub x3, x4, x5`. -/
def code : State := State.reset.withFetchWord 32 0x08C85001

/-- Premises of StorageStaysCanonical and EveryStepAnswers. -/
theorem witness_StorageStaysCanonical : code.Sound ∧ goes (step code) = true ∧ (stepOf code).mem ≠ [] := by decide +kernel

theorem witness_EveryStepAnswers : code.AgendaOk ∧ code.agenda ≠ [] ∧
    ({ code with agenda := [.event .warmReset .zero, .word 0 0, .ticks 5] } : State).AgendaOk := by
  refine ⟨?_, by decide +kernel, ?_⟩ <;> intro a h
  · have e : code.agenda = [.issue 0] := by decide +kernel
    rw [e] at h
    simp at h
    subst h
    trivial
  · simp at h
    rcases h with rfl | rfl | rfl <;> first | rfl | trivial

/-- Both ways in which a context comes to issue. -/
theorem witness_StepRunsTheDecodedWord :
    (∀ s0 ∈ [({ code with agenda := [] } : State), { code with agenda := [], now := 1, rr := 0 }],
      s0.tripReady 0 = false ∧ s0.postReady 0 = false ∧ s0.promptReady 0 = false ∧ s0.halted 0 = false ∧
      (s0.ctx 0).mayIssue = true ∧ s0.fetch 0 (s0.ctx 0).pc = (.ok 0x08C85001, (s0.fetch 0 (s0.ctx 0).pc).2)) ∧
    code.agenda = [.issue 0] ∧ ({ code with agenda := [], now := 1 } : State).nextCtx = some 0 ∧
    decodeC 0x08C85001 = .ok (.sub 3 4 5) := by decide +kernel

/-- Context 0 under a retirement of stack 2, whose first line, at 0x800, is Copying; its pages 6 and 7 map that region. -/
def moving : State :=
  let s := (dat [] []).startRetirement 2 .retiring
  { s.setCluster 0 { s.cluster 0 with vtab := [(6, 0x1B), (7, 0x17)] } with
    retire := some { stack := 2, pos := [], copying := [(0, 10000)], start := 0 } }

/-- A trip, a reported store and a Prompt trap that wait, a gang being stopped, a parked context, a pc past codebound and
a word that is not defined. -/
theorem witness_StepOtherwise :
    let s : State := { code with agenda := [] }
    let b := (mic []).mt 0 0
    let trip := (s.setCtx 0 { s.me with trips := [(0, 0x1000, 0)], vl := 1 }).setMt 0 0
      { b with blk := b.blk.map (fun d => { d with trip := true }) }
    let post := s.setCtx 0 { s.me with postFaults := [(.app, { cause := 0x07, val := 0 })] }
    let prompt := s.setCtx 0 { s.me with prompt := some 0 }
    let stopping := s.setRec 0 { s.lrec 0 with stopping := some (true, 0) }
    let parked := s.setCtx 0 { s.me with run := .parked .setvl }
    let past := s.setCtx 0 { s.me with pc := 0x60010000 }
    let copying := moving.setCtx 0 { moving.me with pc := 0x60000800 }
    let bad : State := { (State.reset.withFetchWord 32 0xF8000000) with agenda := [] }
    trip.tripReady 0 = true ∧ trip.postReady 0 = false ∧
    post.tripReady 0 = false ∧ post.postReady 0 = true ∧
    prompt.tripReady 0 = false ∧ prompt.postReady 0 = false ∧ prompt.promptReady 0 = true ∧
    stopping.halted 0 = true ∧ stopping.tripReady 0 = false ∧ stopping.postReady 0 = false ∧ stopping.promptReady 0 = false ∧
    (parked.ctx 0).mayIssue = false ∧
    past.fetch 0 (past.ctx 0).pc = (.error (some { cause := 0x0A, val := 0x60010000 }), past) ∧
    copying.halted 0 = false ∧ (copying.ctx 0).mayIssue = true ∧
    (match (copying.fetch 0 (copying.ctx 0).pc).1 with
     | .error none => true
     | _ => false) = true ∧
    bad.halted 0 = false ∧ bad.fetch 0 (bad.ctx 0).pc = (.ok 0xF8000000, (bad.fetch 0 (bad.ctx 0).pc).2) ∧
    (match decodeC 0xF8000000 with
     | .error _ => true
     | .ok _ => false) = true := by decide +kernel

/-- A pc at codebound, one that is not canonical, a page that is not mapped, and one that is. -/
theorem witness_FetchReadsStorage :
    let s : State := { code with agenda := [] }
    let wide := s.setCtx 0 { s.me with codebound := 0xFFFFFFFFFFFFFFFF }
    let t : Tr := { pa := 0x60000000, skew := 0, attr := 0, hcl := 0 }
    (s.ctx 0).codebound.toNat ≤ (0x60010000 : Word).toNat ∧
    (0x100000000000000 : Word).toNat < (wide.ctx 0).codebound.toNat ∧ canonical 0x100000000000000 = false ∧
    inVector 0x80000000 = true ∧ (0x80000000 : Word).toNat < (wide.ctx 0).codebound.toNat ∧
    wide.vecTr (clusterOf 0) (wide.ctx 0).vspace.toNat (wide.ctx 0).level 0x80000000 .x = none ∧
    (0x60000000 : Word).toNat < (s.ctx 0).codebound.toNat ∧ inVector 0x60000000 = true ∧
    s.vecTr (clusterOf (0 / 4)) (s.ctx 0).vspace.toNat (s.ctx 0).level 0x60000000 .x = some t ∧ t.attr ≠ 2 ∧
    t.pa < 0x25000000000 ∧ (∀ e ∈ s.icache, e.1 ≠ (0 / 4, sectorOf (memKey t.skew t.pa))) ∧
    s.memFault (s.who 0) { t with pa := t.pa / 4 * 4 } 0x60000000 false = none ∧
    checkFails s (memKey t.skew (t.pa / 4 * 4)) = false ∧
    s.numAt { t with pa := t.pa / 4 * 4 } 4 = 0x08C85001 := by decide +kernel

/-- A micro-thread with no block, one at a word and one at the end; an event and ticks. -/
theorem witness_StepRunsMicroWordsAndEvents :
    let s : State := { mic [] with agenda := [.word 0 0] }
    let add : IWord := 0x3F80311C
    let at_ := fun (n : Nat) => s.setMt 0 0 { s.mt 0 0 with blk := (s.mt 0 0).blk.map (fun b => { b with words := [add], pos := n }) }
    s.agenda = [.word 0 0] ∧ (s.mt 0 1).blk = none ∧
    ((at_ 0).mt 0 0).blk.bind (fun b => b.words[b.pos]?) = some add ∧ decodeW add = .ok (.wAdd hd 3 2 7) ∧
    ((at_ 1).mt 0 0).blk.isSome = true ∧ ((at_ 1).mt 0 0).blk.bind (fun b => b.words[b.pos]?) = none ∧
    (stepOf { s with agenda := [.event .warmReset .zero] }).ctxs = [] ∧ (stepOf { s with agenda := [.ticks 7] }).now = 7 := by
  decide +kernel

theorem witness_DecodeOfEncode : ∀ i ∈ [Instr.add 31 0 31, .vget 0 31 129, .loop_ 31 0xFFF, .wAcas { hd with e := 1 } 22 30 30, .warmReset],
    i.wf = true := by decide

theorem witness_EncodeOfDecode : decodeC 0xA0000004 = .ok .eret ∧ decodeW 0x3FF60000 = .ok (.wStop hd) := by decide +kernel

theorem witness_UpperImmediates : (-2 ^ 33 : Int) ≤ -2 ^ 33 ∧ (-2 ^ 33 : Int) < 2 ^ 33 - 2048 ∧
    (-2 ^ 33 : Int) ≤ 2 ^ 33 - 2049 ∧ (2 ^ 33 - 2049 : Int) < 2 ^ 33 - 2048 := by decide

/-- A divisor of zero, the signed corner, and next to both. -/
theorem witness_MultiplyDivideResults :
    let s := ctl [(4, 0x8000000000000000), (5, 0xFFFFFFFFFFFFFFFF), (6, 1)]
    s.emulated 3 = false ∧ s.rx 0 = 0 ∧ (s.rx 4).toInt = -2 ^ 63 ∧ (s.rx 5).toInt = -1 ∧ s.rx 5 ≠ 0 ∧
    s.rx 6 ≠ 0 ∧ ¬ ((s.rx 4).toInt = -2 ^ 63 ∧ (s.rx 6).toInt = -1) := by decide +kernel

/-- Classes 3 and 4 emulated, with the record of the core free and in use. -/
theorem witness_EmulatedClassesTrap :
    let s := { dat [(4, 7), (5, 2)] [1] with img := { CfgImage.plain with disposition := 0x18 } }
    let busy := s.setCtx 3 { s.ctx 3 with emu := some (0, 0x18C85000) }
    s.Sound ∧ s.firstTrip s.cur = true ∧ s.emulated 3 = true ∧ s.emulated 4 = true ∧ encode (.mul 3 4 5) = some 0x18C85000 ∧
    (encode (.fdiv 3 4 5 1)).isSome = true ∧ (encode (.fsqrt 3 4 0)).isSome = true ∧ s.emuFree (s.cur / 4) = true ∧
    busy.Sound ∧ busy.emulated 3 = true ∧ busy.emuFree (busy.cur / 4) = false ∧
    ((stateOf (.mul 3 4 5) s).me.level, (stateOf (.mul 3 4 5) s).me.ft.cause, (stateOf (.mul 3 4 5) s).emuWord 0 0) =
      (Level.fw, 0x13, 0x18C85000) := by decide +kernel

theorem witness_ScalarFloatResults : (ctl [(3, 0x40800000), (4, 0x3FC00000)]).emulated 4 = false := by decide +kernel

/-- Signalling and quiet NaN operands, infinities, zeros and a smallest subnormal of each format. -/
theorem witness_FloatLaws : ∀ f ∈ [f64, f32, f16, bf16], (f.decode (f.infCode + 1)).isSig = true ∧
    (f.decode f.nan).isNan = true ∧ f.decode f.infCode = .inf false ∧ f.decode 1 ≠ f.decode 0 := by decide +kernel

/-- A magnitude between two codes of FP32, one beyond the largest finite E4M3 value, and a magnitude between two codes of T8. -/
theorem witness_FloatLaws_rounding :
    f32.decode 0x3F800000 = .fin false 0x800000 (-23) ∧ (1 : Nat) < 2 ^ 2 ∧ 0x800000 * 2 ^ 2 + 1 ≠ 0 ∧
    e4m3.decode e4m3.maxCode = .fin false 14 5 ∧ e4m3.inf = false ∧ f32.bias < (Nat.log2 1 : Int) + 128 ∧
    (let mag := fun (k : Nat) => Mag.mk (taperedMag 7 k).1 (taperedMag 7 k).2 false
     (Mag.mk 32 (-5) false).cmp (mag 0x40) = 0 ∧ (Mag.mk 34 (-5) false).cmp (mag 0x41) = 0) ∧
    roundTapered 7 { mode := 0, draw := 0 } false { m := 33, e := -5, more := false } = (0x40, fNX) ∧
    f64.decode 5 = .fin false 5 (-1074) ∧ numCmp (f64.decode 5) (f64.decode 6) < 0 ∧ (f64.decode (2 ^ 63)) = .fin true 0 (-1074) := by
  decide +kernel

/-- Context 0 of `dat` with a five-level table at 0x1000 that maps the page at 2^40 to 0x70000000. -/
def paged (l : Table Word) : State :=
  let s := dat l [0x80, 0xFF, 1, 0, 0, 0, 0, 0x90]
  let e := fun (m : List Host.Cell) (a : Nat) (v : Nat) => writeBytes m (memKey 0 a) (toLe v 8)
  let m := e (e (e (e (e s.mem 0x1000 0x2001) 0x2010 0x3001) 0x3000 0x4001) 0x4000 0x5001) 0x5000 0x70000017
  { s.setCtx 0 { s.me with ptroot := 0x1000 } with mem := m }

/-- The translation of an access, and the state it leaves. -/
def reached (s : State) (va : Word) (n : Need) : Option (Tr × State) :=
  match s.translate (s.who s.cur) va n with
  | .ok t u => some (t, u)
  | _ => none

/-- In vector space and in scalar space, for a read (A) and for a write (A and D, R132). -/
theorem witness_TranslationLeaves :
    let s := paged []
    let va : Word := 0x10000000000
    s.Sound ∧ (reached s 0x70000000 .r).map (·.1) = some { pa := 0x70000000, skew := 0, attr := 0, hcl := 0 } ∧ inVector 0x70000000 = true ∧
    (reached s va .r).map (·.1) = some { pa := 0x70000000, skew := 0, attr := 0, hcl := 0 } ∧ inVector va = false ∧
    (reached s va .r).map (fun p => bytesOf p.2 0x5000 1) = some [0x57] ∧
    (reached s va .w).map (fun p => bytesOf p.2 0x5000 1) = some [0xD7] := by decide +kernel

/-- An access reaches memory after its translation, in a gang that issues atomics. -/
def reaches (s : State) (va : Word) (n : Need) (op : MemOp) : Bool :=
  match reached s va n with
  | some p => decide (s.Reaches p.2 va op p.1 ∧ p.2.noAtomic s.cur = false)
  | none => false

/-- An access reaches memory at a place. -/
def reachesAt (s : State) (va : Word) (n : Need) (op : MemOp) (t : Tr) : Bool :=
  match reached s va n with
  | some p => decide (s.Reaches p.2 va op t)
  | none => false

/-- A load, store or atomic of each width reaches memory, in both spaces and at the last address of the width in a page. -/
theorem witness_LoadResults : ∀ n ∈ [1, 2, 4, 8],
    reaches (paged []) 0x70000000 .r (.load n) = true ∧
    reaches (paged []) (0x10000001000 - BitVec.ofNat 64 n) .r (.load n) = true := by decide +kernel

theorem witness_StoreResults : (paged []).Sound ∧
    ∀ n ∈ [1, 2, 4, 8],
    reaches (paged []) 0x70000000 .w (.store n 5) = true ∧
    reaches (paged []) (0x10000001000 - BitVec.ofNat 64 n) .w (.store n 5) = true := by decide +kernel

theorem witness_AtomicResults : (paged []).Sound ∧ ∀ n ∈ [4, 8], ∀ k ∈ List.range 9,
    reaches (paged []) 0x70000000 .rw (.amo n k 5 6) = true := by decide +kernel

/-- Addresses at the bounds of each check, and a window for the narrow access and the atomic. -/
theorem witness_AccessFaults :
    let s := dat [] []
    let s := s.setCluster 0 { s.cluster 0 with vtab := put (s.cluster 0).vtab 8 0x800000000817 }
    canonical 0x100000000000000 = false ∧ canonical 0xFEFFFFFFFFFFFFFF = false ∧ canonical 0x7000000F = true ∧
    (0x70000001 : Word).toNat % 2 ≠ 0 ∧ canonical 0xFFFFFFFFF8 = true ∧ (0xFFFFFFFFF8 : Word).toNat % 8 = 0 ∧
    inVector 0xFFFFFFFFF8 = true ∧ s.vecTr (clusterOf (s.cur / 4)) s.me.vspace.toNat s.me.level 0xFFFFFFFFF8 .r = none ∧
    s.vecTr (clusterOf (s.cur / 4)) s.me.vspace.toNat s.me.level 0x60000000 .w = none ∧
    s.vecTr (clusterOf (s.cur / 4)) s.me.vspace.toNat s.me.level 0x80000008 .rw = some { pa := 0x800000000008, skew := 0, attr := 2, hcl := 0 } ∧
    placeOf 0x800000000008 = .window 0 8 ∧ (MemOp.load 4).width ≠ 8 ∧
    (meOf (.lw 3 4 0) (s.setMe { s.me with x := [(4, 0x80000008)] })).map (·.st.cause) = some 0x07 ∧
    (meOf (.amoadd 3 4 5 1) (s.setMe { s.me with x := [(4, 0x80000008)] })).map (·.st.cause) = some 0x07 := by decide +kernel

/-- The windows of cluster 0 at 0x80000000, of cluster 8 at 0x90000000. -/
def win (l : Table Word) : State :=
  let s := dat l []
  s.setCluster 0 { s.cluster 0 with vtab := put (put (s.cluster 0).vtab 8 0x800000000817) 9 0x800800000817 }

/-- Own local memory, another core's, a control block, an item closed to App; the example of R118 in the last clause. -/
theorem witness_WindowAccesses :
    let s := win [(4, 0x80000008), (5, 7), (6, 0x80100010), (7, 0x80040200), (8, 0x80080000)]
    let tr := fun (a : Word) (n : Need) => s.vecTr (clusterOf (s.cur / 4)) s.me.vspace.toNat s.me.level a n
    [(0x80000008 : Word), 0x80100010, 0x80040200, 0x80080000].all (fun a => canonical a && decide (a.toNat % 8 = 0) &&
      inVector a && (tr a .r).isSome && (tr a .w).isSome) = true ∧
    s.rx 4 = 0x80000008 ∧ (tr 0x80000008 .r).map (fun t => placeOf t.pa) = some (.window 0 8) ∧ winOf 0 8 = .local_ (s.cur / 4) 8 ∧
    s.unitAsleep (bankUnit (s.cur / 4) 8) = false ∧
    ({ s with asleep := [(bankUnit 1 0x10, none)] } : State).winAsleep (winOf 0 0x100010) = true ∧ checkFails s (localKey (s.cur / 4) 8) = false ∧
    winOf 0 0x100010 = .local_ 1 0x10 ∧ s.winAsleep (winOf 0 0x100010) = false ∧
    s.winState s.me.level (winOf 0 0x100010) ≠ .fault ∧
    s.winState s.me.level (winOf 0 0x80000) = .fault ∧
    (stateOf (.sd 6 5 0) s).posted.map (fun p => (p.va, p.pa, p.data)) = [(0x80100010, 0x800000100010, 7)] ∧
    (match winOf ((0x8008EA070100 - 0x800000000000) / 0x100000000) (0x8008EA070100 % 0x100000000) with
     | .scratch c slot off => decide (c = 4 * (3 * 32 + 17) + 1 ∧ slot = 7 ∧ off = 0x100)
     | _ => false) = true := by decide +kernel

/-- Each comparison of R224 holds for one pair of registers and fails for another; a pc at codebound. -/
theorem witness_BranchesAndJumps :
    let s := ctl [(4, 0xFFFFFFFFFFFFFFFF), (5, 1)]
    s.rx 4 = s.rx 4 ∧ s.rx 4 ≠ s.rx 5 ∧ (s.rx 4).toInt < (s.rx 5).toInt ∧ ¬ (s.rx 5).toInt < (s.rx 5).toInt ∧
    (s.rx 5).toInt ≥ (s.rx 5).toInt ∧ (s.rx 5).toNat < (s.rx 4).toNat ∧ ¬ (s.rx 4).toNat < (s.rx 4).toNat ∧
    (s.ctx 0).codebound.toNat ≤ (s.ctx 0).pc.toNat := by decide +kernel

/-- Both table reads of `callt` reach memory, with the index at and below the count and the signature right and wrong. -/
theorem witness_TypedCall :
    let s0 := dat [(10, 2), (11, 0x5A1C93E7), (12, 3)] ([3, 0, 0, 0, 0, 0, 0, 0] ++ List.replicate 16 0 ++
      [0xE7, 0x93, 0x1C, 0x5A, 0x40, 0, 0, 0])
    let s := s0.setCtx 0 { s0.me with fnbase := 0x70000000 }
    let base : Word := 0x70000000
    let t : Tr := { pa := 0x70000000, skew := 0, attr := 0, hcl := 0 }
    let e : Tr := { pa := 0x70000018, skew := 0, attr := 0, hcl := 0 }
    s.me.fnbase = base ∧ inVector base = true ∧ reachesAt s base .r (.load 8) t = true ∧ s.numAt t 8 = 3 ∧
    (match s.access base (.load 8) with
     | .value v u => decide (v = BitVec.ofNat 64 (s.numAt t 8)) && reachesAt u (base + 8 + (s.rx 10 <<< 3)) .r (.load 8) e
     | _ => false) = true ∧
    (s.rx 12).toNat = s.numAt t 8 % 2 ^ 32 ∧ (s.rx 10).toNat < s.numAt t 8 % 2 ^ 32 ∧
    s.numAt e 8 % 2 ^ 32 = (s.rx 11).toNat % 2 ^ 32 ∧ s.numAt e 8 % 2 ^ 32 ≠ (s.rx 12).toNat % 2 ^ 32 := by decide +kernel

/-- Counts of zero and more; loop stacks of five and six entries; an entry at the pc, with a count of 1 and of 0. -/
theorem witness_HardwareLoops :
    let e := fun (stop n : Word) => ({ start := 0x10, stop := stop, count := n } : LoopEnt)
    let s := fun (l : List LoopEnt) => (ctl [(4, 1)]).setMe { (ctl [(4, 1)]).me with loops := l }
    (s []).rx 0 = 0 ∧ (s []).rx 4 ≠ 0 ∧ 6 ≤ (s (List.replicate 6 (e 0 1))).me.loops.length ∧
    (s (List.replicate 5 (e 0 1))).me.loops.length < 6 ∧ (∀ d ∈ (s (List.replicate 5 (e 0 1))).me.loops, d.stop ≠ 0x1000) ∧
    (s [e 0x2000 1, e 0x1000 1]).me.loops = [e 0x2000 1] ++ e 0x1000 1 :: [] ∧ (s []).me.pc = 0x1000 ∧
    (s [e 0x1000 0]).me.loops = [] ++ e 0x1000 0 :: [] ∧ (e 0x1000 0).count ≠ 1 ∧
    (meOf .endloop (s [e 0x1000 0])).map (fun x => x.loops) = some [e 0x1000 0xFFFFFFFFFFFFFFFF] := by decide +kernel

/-- A level of each of the three opens its registers: `fflags` at App, `stvec` at Sys, `ftvec` at Fw. -/
theorem witness_StatusRegisterReads : csrFault .app 0x001 = none ∧ csrFault .app 0x062 = none ∧ csrFault .sys 0x110 = none ∧
    csrFault .fw 0x215 = none ∧ csrFault .app 0x100 = some 0x02 ∧ csrFault .sys 0x210 = some 0x02 ∧
    csrFault .fw 0x300 = some 0x01 := by decide

theorem witness_StatusRegisterWrites : csrFault Level.app 0x001 = none ∧ (ctl []).me.level = .app ∧
    ((ctl []).setMe { (ctl []).me with level := .fw }).me.level ≠ .app ∧ csrFault Level.fw 0x215 = none ∧
    (ctl []).wbuf = [] := by decide +kernel

theorem witness_BankFormatsAndTlbinv :
    let s := ctl [(4, 0x10_05_11_0A), (5, 0x60000003)]
    let f := s.setMe { s.me with level := .sys }
    let e : TlbEnt := { core := 1, page := 0x6000, bits := 16, vector := true, root := 0, leaf := 1, first := false }
    s.wbuf = [] ∧ f.me.level ≠ .app ∧
    (meOf (.csrw 4 4) s).map (·.bfmt) = some 0x1000000A ∧
    (stateOf (.csrw 5 0x101) { f with tlb := [e, { e with page := 0x6001 }, { e with core := 4 }] }).tlb =
      [{ e with page := 0x6001 }, { e with core := 4 }] := by decide +kernel

/-- Each access of the rule at a level that may not make it, with its word. -/
theorem witness_Privilege :
    let s := ctl []
    let y := s.setMe { s.me with level := .sys }
    (encode (.csrr 5 0x100)).isSome = true ∧ csrKnown 0x100 = true ∧ s.me.level = .app ∧ csrKnown 0x000 = false ∧
    csrKnown 0x062 = true ∧ csrKnown 0x063 = false ∧ csrKnown 0x210 = true ∧ y.me.level = .sys ∧ y.me.level ≠ .app ∧
    encode .upret = some 0xA0000005 ∧ (encode (.vput 4 5 129)).isSome = true ∧
    (meOf .eret s).map (·.st.cause) = some 0x02 ∧ (meOf .upret y).map (·.ft.cause) = some 0x02 := by decide +kernel

/-- A rollback trigger, a cause at App, the emulation cause, and a cause at Sys. -/
theorem witness_TrapEntry :
    let s := ctl []
    let g := s.setRec 0 { s.lrec 0 with rollback := true }
    let y := s.setMe { s.me with level := .sys }
    g.rollsBack 0 0x20 = true ∧ g.rollsBack 0 0x14 = false ∧ s.rollsBack 0 0x20 = false ∧ (s.ctx 0).level = .app ∧
    (y.ctx 0).level ≠ .app ∧ ((s.trapAt 0 0x1000 { cause := 0x13, val := 0 }).ctx 0).level = .fw := by decide +kernel

theorem witness_SoftwareTrap : (ctl []).me.level = .app ∧
    ((ctl []).setMe { (ctl []).me with level := .fw }).me.level ≠ .app ∧
    (meOf (.trap 0x7F) (ctl [])).map (fun x => (x.st.cause, x.st.epc, x.st.val)) = some (0x14, 0x1004, 0x7F) := by decide +kernel

/-- A return at Sys, and the end of a trip of each kind, with and without a fault number in the record. -/
theorem witness_ReturnFromException :
    let y := (ctl []).setMe { (ctl []).me with level := .sys, st := { TrapRegs.reset with epc := 0x2000, plev := 0 } }
    let trip := fun (k : Nat) (f : Word) =>
      let s := (mic []).setCtx 0 { (mic []).me with
        level := .fw, ft := { TrapRegs.reset with cause := 0x13, epc := 0x1000 }, emu := some (k, 0x20C85003) }
      let s := putDw s (emuKey 0 + 0x10) 1
      putDw (putDw s (emuKey 0 + 0x38) f) (emuKey 0 + 0x118) 0x8000
    y.me.level ≠ .app ∧ y.me.emu = none ∧ (meOf .eret y).map (fun x => (x.pc, x.level)) = some (0x2000, .app) ∧
    (∀ k ∈ [0, 1, 2], (trip k 0).me.emu = some (k, 0x20C85003) ∧ (trip k 0).me.level = .fw ∧ (trip k 0).me.ft.cause = 0x13 ∧
      (trip k 0).emuWord 0 0x38 = 0 ∧ (trip k 6).emuWord 0 0x38 = 6) ∧
    ((trip 1 6).mt 0 (((trip 1 6).emuField 0 0 3).toNat % 1024)).blk.isSome = true ∧
    ((trip 1 6).emuField 0 0 3).getLsbD 15 = true := by decide +kernel

theorem witness_TrapAndReturnInverse : (List.replicate 6 ({ start := 0, stop := 0, count := 1 } : LoopEnt)).length ≤ 6 := by decide

theorem witness_ReturnFromUpcall : (ctl []).me.level = .app ∧
    (meOf .upret ((ctl []).setMe { (ctl []).me with upepc := 0x3000 })).map (fun x => (x.pc, x.upcallEn)) =
      some (0x3000, true) := by decide +kernel

/-- A scope whose rows or columns are reversed, one outside the mesh, one that does not hold the core; crews that are
drained and not, with posted stores, and with a faulted micro-thread under trapmode 1. -/
theorem witness_SyncInstructions :
    let s := (ctl [(4, 0x1F0F0000)]).setMe { (ctl [(4, 0x1F0F0000)]).me with rect := 0x1F0F0000 }
    let p : Posted := { from_ := 0, level := .app, va := 0, pa := 0x800000100010, data := 0, width := 8, op := 0 }
    let busy : State := { s with posted := [p] }
    let runs := (mic []).setMt 0 0 { (mic []).mt 0 0 with state := .running }
    let bad := ((mic []).setMt 0 0 { (mic []).mt 0 0 with state := .faulted, blk := none }).setRec 0
      { LRec.reset with ctl := 0x40000 }
    let wf := fun (v : Word) => decide (v.toNat < 2 ^ 32 ∧ row0 v ≤ row1 v ∧ row1 v ≤ 15 ∧ col0 v ≤ col1 v ∧ col1 v ≤ 31)
    wf 0x1F0F0000 = true ∧ wf 0x100000000 = false ∧ wf 0x00000001 = false ∧ wf 0x00100000 = false ∧ wf 0x20000000 = false ∧
    inRect 0x1F0F0000 (0 / 4) = true ∧ rectIn 0x1F0F0000 s.me.rect = true ∧ inRect 0x01010001 (0 / 4) = false ∧
    wf 0x01010001 = true ∧ busy.fenceDone 0 0x1F0F0000 = false ∧ s.fenceDone 0 0x1F0F0000 = true ∧ s.wbuf = [] ∧
    runs.drained 0 = false ∧ s.drained 0 = true ∧ bad.drained 0 = true ∧ bad.syncTrap 0 = true ∧ s.syncTrap 0 = false ∧
    busy.drained 0 = true ∧ busy.syncTrap 0 = false ∧ busy.allDone 0 = false ∧ s.allDone 0 = true := by decide +kernel

theorem witness_AbortAndQuery : (meOf (.abortq 5) ((ctl []).setMe { (ctl []).me with abortSeen := true })).map (·.rx 5) = some 1 ∧
    (stateOf .abort (ctl [])).abortRaised 0 = true := by decide +kernel

/-- A doubleword equal to the value and one that differs, with the abort line down and up; a context parked on it. -/
theorem witness_WaitAndWake :
    let s := dat [(4, 0x70000000), (5, 7), (6, 8)] [7]
    let t : Tr := { pa := 0x70000000, skew := 0, attr := 0, hcl := 0 }
    let up := s.setCluster 0 { s.cluster 0 with abortLines := [0] }
    let k := memKey 0 0x70000000
    let w := s.setCtx 9 { Ctx.reset with run := .parked (.watch k 7 0x70000000), pc := 0x1000 }
    reachesAt s (s.rx 4) .r (.load 8) t = true ∧ BitVec.ofNat 64 (s.numAt t 8) = s.rx 5 ∧ BitVec.ofNat 64 (s.numAt t 8) ≠ s.rx 6 ∧
    s.abortRaised 0 = false ∧ up.abortRaised 0 = true ∧ reachesAt up (up.rx 4) .r (.load 8) t = true ∧
    (meOf (.wait 4 5) s).map (·.run) = some (.parked (.watch k 7 0x70000000)) ∧
    (meOf (.wait 4 6) s).map (·.run) = some .active ∧
    ((stateOf (.wake 4) w).ctx 9).run = .active ∧ ((stateOf (.wake 4) w).ctx 9).pc = 0x1004 := by decide +kernel

/-- A `rect` that is not well formed; a doubleword of the core's own local memory, one of another core's, a control block. -/
theorem witness_WaitAndWake_windows :
    let s := win [(4, 0x80000008), (6, 0x80100010), (7, 0x80080000)]
    let tr := fun (a : Word) => s.vecTr (clusterOf (s.cur / 4)) s.me.vspace.toNat s.me.level a .r
    let odd := s.setMe { s.me with rect := 1 }
    let w := s.setCtx 9 { Ctx.reset with run := .parked (.watch (localKey 0 8) 7 0x80000008), pc := 0x1000 }
    ([4, 6, 7] : List RegNo).all (fun r => canonical (s.rx r) && decide ((s.rx r).toNat % 8 = 0) && (tr (s.rx r)).isSome) = true ∧
    (tr (s.rx 4)).map (fun t => placeOf t.pa) = some (.window 0 8) ∧ winOf 0 8 = .local_ 0 8 ∧
    s.unitAsleep (bankUnit 0 8) = false ∧ checkFails s (localKey 0 8) = false ∧ s.marks = [] ∧
    (meOf (.wait 4 0) s).map (·.run) = some (.parked (.watch (localKey 0 8) 0 0x80000008)) ∧
    (meOf (.wait 6 0) s).map (·.st.cause) = some 0x07 ∧ ((stateOf (.wake 4) w).ctx 9).pc = 0x1004 ∧
    (meOf .gbar odd).map (fun x => (x.st.cause, x.st.val)) = some (0x0F, 1) ∧
    (meOf (.vote 5 6 0) odd).map (·.st.cause) = some 0x0F := by decide +kernel

/-- Record numbers 255 and 256; posted stores in flight and none; capability indexes in and out of the table. -/
theorem witness_LaunchAndSystem :
    let s := ctl [(4, 255), (5, 256), (6, 0x108)]
    let p : Posted := { from_ := 0, level := .app, va := 0, pa := 0x800000100010, data := 0, width := 8, op := 0 }
    let busy : State := { s with posted := [p] }
    255 < (s.rx 5).toNat ∧ (s.rx 4).toNat ≤ 255 ∧ s.fenceDone 0 0x1F0F0000 = true ∧ busy.fenceDone 0 0x1F0F0000 = false ∧
    busy.allDone 0 = false ∧ s.allDone 0 = true ∧ s.rx 6 = 0x108 ∧
    (s.rx 5).toNat ∉ [0, 1, 0x10, 0x20, 0x103, 0x104, 0x107, 0x108, 0x109, 0x10A] ∧
    regOf (.discover 3 6) s 3 = some 0x10090B3008 := by decide +kernel

/-- A crew that holds lane 5 in the ordinary shape with a save area, and the crews that wait. -/
theorem witness_SetvlForms :
    let g := dat [(4, 9), (5, 0), (6, 0x10000)] []
    let s := g.setCtx 0 { g.me with gstate := .granted, slots := [5], vl := 1 }
    let no := g.setCtx 0 { g.me with vsave := 0 }
    let shrink := s.setCtx 0 { s.me with gstate := .shrinking }
    let revoked := s.setCtx 0 { s.me with revoked := some 0 }
    no.me.vsave = 0 ∧ s.me.vsave ≠ 0 ∧ (s.rx 4).toNat % 1024 ≠ 0 ∧ (s.rx 5).toNat % 1024 = 0 ∧
    shrink.me.gstate = .shrinking ∧ revoked.me.revoked.isSome = true ∧ (mic []).drained 0 = false ∧
    s.me.gstate ≠ .shrinking ∧ s.me.revoked.isSome = false ∧ s.drained 0 = true ∧ s.me.holds = true ∧ s.me.gsq = 0 ∧
    g.me.holds = false ∧ g.drained 0 = true ∧ s.me.gsq ≠ (s.rx 6).extractLsb' 16 2 ∧
    (meOf (.setvl 3 4) s).map (fun x => (x.rx 3, x.vl)) = some (1, 1) ∧
    (meOf (.setvl 3 5) s).map (fun x => (x.rx 3, x.vl, x.slots)) = some (0, 0, []) ∧
    (meOf (.setvl 3 4) g).map (fun x => (x.run, x.vlreq)) = some (.parked .setvl, 9) := by decide +kernel

/-- A crew whose save area takes its records, saved when it asks for another shape; a spilled record whose check is wrong. -/
theorem witness_SetvlForms_saves :
    let g := dat [(4, 9), (6, 0x10000)] []
    let s := (g.setCtx 0 { g.me with gstate := .granted, slots := [5], vl := 1 }).setMt 0 0
      { Mt.fresh with w := [(3, 0x77)], dirty := 4, p := 9 }
    let spilled := s.setMt 0 0 { s.mt 0 0 with spillRec := some (5, 0) }
    let bad : State := { spilled with synd := [(spillKey 0 5 0 + 192, 1)] }
    let back : State := { bad with mts := (bad.setMt 0 0 { bad.mt 0 0 with spillRec := some (5, 0), res := .resident }).mts }
    s.Sound ∧ s.me.vsave = 0x70001000 ∧ s.drained 0 = true ∧ s.saveWaits 0 = false ∧ s.me.loomStopped = true ∧
    (List.range 32).all (fun k => let va := s.me.vsave + BitVec.ofNat 64 (8 * k)
      (s.saveRefused 0 va).isNone && (s.saveTr 0 va .w).map (fun t => memKey t.skew t.pa) == some (memKey 0 (0x70001000 + 8 * k))) = true ∧
    s.me.locals.any (s.spillBad 0) = false ∧ bad.me.locals.any (bad.spillBad 0) = true ∧
    (back.setVlReads 0 1).any (back.spillBad 0) = true ∧
    (meOf (.setvl 3 6) s).map (fun x => (x.saved, x.gstate, x.slots)) = some (some 0, .requested, []) ∧
    leNat (bytesOf (stateOf (.setvl 3 6) s) (0x70001000 + 16) 8) = 0x77 ∧
    (meOf (.setvl 3 6) bad).map (·.gstate) = some .revoked := by decide +kernel

/-- A block address that fails each check and one that passes, the abort line up and down, no micro-thread, a REVOKED crew,
and a sequencer of sixteen entries. -/
theorem witness_Broadcasts :
    let g := dat [(4, 0x60000000), (5, 0x60000002), (6, 0x70000000), (7, 0x60010000), (8, 0x100000000000000), (9, 2)] []
    let s := g.setCtx 0 { g.me with gstate := .granted, slots := [5], vl := 1 }
    let e := fun (n : Nat) => ({ id := n, addr := 0, count := 1, held := [], cap := Ctx.reset.capture, picks := [] } : SeqEntry)
    let full := s.setCtx 0 { s.me with seq := (List.range 16).map (fun n => e (n + 1)) }
    let some15 := s.setCtx 0 { s.me with seq := (List.range 15).map (fun n => e (n + 1)) }
    let up := s.setCluster 0 { s.cluster 0 with abortLines := [0] }
    let tr := fun (v : Word) => s.vecTr (clusterOfCtx 0) s.me.vspace.toNat s.me.level v .x
    canonical (s.rx 8) = false ∧ canonical (s.rx 5) = true ∧ (s.rx 5).toNat % 4 ≠ 0 ∧ tr (s.rx 6) = none ∧
    (tr (s.rx 7)).isSome = true ∧ s.me.codebound.toNat ≤ (s.rx 7).toNat ∧ (tr (s.rx 4)).isSome = true ∧
    (s.rx 4).toNat < s.me.codebound.toNat ∧ (s.rx 4).toNat % 4 = 0 ∧ up.abortRaised 0 = true ∧ s.abortRaised 0 = false ∧
    g.me.vl = 0 ∧ s.me.vl ≠ 0 ∧ (s.rx 0).toNat % 2 ^ 32 = 0 ∧ (s.rx 9).toNat % 2 ^ 32 ≠ 0 ∧ 16 ≤ full.seqUsed 0 ∧
    some15.seqUsed 0 < 16 ∧ s.me.gstate ≠ .revoked ∧
    (meOf (.vloop 4 9) s).map (fun x => x.seq.map (fun e => (e.addr, e.count))) = some [(0x60000000, 2)] ∧
    (meOf (.vsetc 9 5) s).map (fun x => look 0 x.cs 5) = some 2 := by decide +kernel

/-- An index at `vl`, a REVOKED crew, a micro-thread with a block to run, and one that is ready. -/
theorem witness_MicroThreadItems :
    let g := dat [(4, 1), (5, 0xABCD), (6, 2)] []
    let x := { g.me with gstate := .granted, slots := [5], vl := 2 }
    let s := (g.setCtx 0 x).setMt 0 1 { Mt.fresh with w := [(23, 99)], p := 5, flags := 3 }
    let busy := s.setMt 0 1 { s.mt 0 1 with state := .running }
    let gone := s.setCtx 0 { x with gstate := .revoked }
    s.me.vl ≤ (s.rx 6).toNat ∧ (encode (.vget 3 6 23)).isSome = true ∧ (encode (.vput 6 5 128)).isSome = true ∧
    (s.rx 4).toNat < s.me.vl ∧ gone.me.gstate = .revoked ∧ busy.quiet 0 1 = false ∧ s.me.gstate ≠ .revoked ∧
    s.quiet 0 1 = true ∧
    regOf (.vget 3 4 23) s 3 = some 99 ∧ regOf (.vget 3 4 34) s 3 = some 1 ∧ regOf (.vget 3 4 128) s 3 = some 3 ∧
    look 0 ((stateOf (.vput 4 5 23) s).mt 0 1).w 23 = 0xABCD ∧ ((stateOf (.vput 4 5 32) s).mt 0 1).p = 5 ∧
    ((stateOf (.vput 4 5 128) s).mt 0 1).flags = 0x4D := by decide +kernel

/-- `vstart` at `vl` and below it; a REVOKED crew; a busy micro-thread; an address whose second element leaves the page. -/
theorem witness_VectorAccesses :
    let g := dat [(4, 0x70000000), (5, 0x10000000)] [1, 2, 3, 4, 5, 6, 7, 8]
    let x := { g.me with gstate := .granted, slots := [5], vl := 2 }
    let s := g.setCtx 0 x
    let past := g.setCtx 0 { x with vstart := 2 }
    let gone := g.setCtx 0 { x with gstate := .revoked }
    let busy := s.setMt 0 1 { s.mt 0 1 with state := .running }
    let bad := fun (s : State) (i : Instr) (k : Nat) =>
      let s := s.setMe { s.me with elemCap := some (s.capElems s.cur i 0) }
      (s.tryElem 0 i 0x70000000 0x10000000 k).isSome
    gone.me.gstate = .revoked ∧ s.me.gstate ≠ .revoked ∧ past.me.vl ≤ past.me.vstart.toNat ∧ s.me.vstart.toNat < s.me.vl ∧
    busy.quiet 0 1 = false ∧ s.quiet 0 0 = true ∧ s.quiet 0 1 = true ∧
    bad s (.vld 5 4 0 2) 0 = false ∧ bad s (.vld 5 4 0 2) 1 = false ∧ bad s (.vst 5 4 2) 1 = false ∧
    bad s (.vlds 5 4 5 0 2) 0 = false ∧ bad s (.vlds 5 4 5 0 2) 1 = true ∧ bad s (.vsts 5 4 5 2) 1 = true ∧
    bad s (.vldx 5 4 6 0 2) 1 = false ∧ bad s (.vstx 5 4 6 2) 1 = false := by decide +kernel

/-- `vldb` in a REVOKED crew, with the record in use and free. -/
theorem witness_RetiredVectorLoad :
    let g := dat [(4, 0x70000000)] []
    let s := g.setCtx 0 { g.me with gstate := .granted, slots := [5], vl := 2, vstart := 1 }
    let gone := s.setCtx 0 { s.me with gstate := .revoked }
    let busy := s.setCtx 1 { Ctx.reset with emu := some (0, 0) }
    s.Sound ∧ (encode (.vldb 5 4)).isSome = true ∧ gone.me.gstate = .revoked ∧ s.me.gstate ≠ .revoked ∧
    s.quiet 0 1 = true ∧ busy.emuFree (busy.cur / 4) = false ∧ s.emuFree (s.cur / 4) = true ∧ s.me.vl ≤ 512 ∧
    (meOf (.vldb 5 4) s).map (fun x => (x.level, x.ft.cause)) = some (.fw, 0x13) ∧
    (stateOf (.vldb 5 4) s).emuWord 0 0x10 = 1 := by decide +kernel

/-- `stream` with an operation that is not allowed and one that is, in crews that are REVOKED, past `vl`, and ready. -/
theorem witness_EngineRegisters :
    let g := dat [(4, 8), (5, 1), (6, 0x70000000)] []
    let x := { g.me with gstate := .granted, slots := [5], vl := 2, sg := [(0, 0x70000000), (6, 0x020202)] }
    let s := g.setCtx 0 x
    let f6 := s.me.geo 1 6
    ¬ (s.rx 4).toNat < 8 ∧ (s.rx 5).toNat < 8 ∧
    streamOk 1 (f6.toNat % 32) (f6.toNat / 2 ^ 8 % 32) (f6.toNat / 2 ^ 16 % 32) = true ∧ (encode (.stream 4 6)).isSome = true ∧
    s.me.gstate ≠ .revoked ∧ s.me.vstart.toNat < s.me.vl * max 1 ((s.me.geo 1 7).toNat % 2 ^ 32) ∧ g.me.vl = 0 ∧
    (meOf (.ecfg 4 4 1) s).map (fun y => (y.geo 4 1, y.geo 4 0)) = some (8, 0) ∧
    (meOf (.ecfg 5 4 0) s).map (fun y => y.geo 4 0) = some 0 ∧ regOf (.erd 3 1 6) s 3 = some 0x020202 ∧
    (meOf (.stream 5 6) s).map (fun y => decide (y.run = .active)) = some false := by decide +kernel

/-- The doublewords of a copy card: one row of 8 bytes from 0x70000100 to 0x70000200, with a footprint of each kind. -/
def card : List Word :=
  [0x11000000, 0x70000100, 0x70000200, 0x100000008, 8, 8, 0, 0, 0x70000100, 8, 0, 0, 0, 0, 0, 0, 0x70000200, 8, 0, 0]

/-- The card in memory. -/
def carded (l : Table Word) : State := dat l (card.flatMap (fun w => toLe w.toNat 8))

/-- A card that is not aligned, completion addresses that are refused, a full queue, a card that is accepted and one that
is not, and Gleaner jobs of each kind. -/
theorem witness_JobSubmission :
    let s := carded [(4, 0x70000000), (5, 0x70000010), (6, 0x70000004), (7, 0xF), (8, 0x10000000000)]
    let j : Job := { num := 1, glean := false, card := card, count := 0, done := 0, reads := [], writes := [], flags := 0,
                     row := 0, byte := 0, started := false, level := .app, lg0 := 0, packets := 0, pages := none, fail := none, got := [], left := 0, marked := false }
    let full := s.setCtx 1 { Ctx.reset with jobs := List.replicate 64 j }
    let nofull := s.setCtx 1 { Ctx.reset with jobs := List.replicate 63 j }
    let read : State → Bool := fun u => match u.readCard 0x70000000 20 [] with
      | .card c t => decide (c = card ∧ t.cur = u.cur)
      | _ => false
    let raises : Word → Bool := fun a => match s.readCard a 20 [] with
      | .raises _ => true
      | _ => false
    let later : State → Word → Bool := fun u a => match u.readCard a 20 [] with
      | .later _ => true
      | _ => false
    (s.rx 5).toNat % 32 ≠ 0 ∧ (s.rx 4).toNat % 32 = 0 ∧ (s.rx 6).toNat % 8 ≠ 0 ∧ inVector (s.rx 8) = false ∧
    (encode (.copyj 3 4 0)).isSome = true ∧ 64 ≤ full.cards (clusterOfCtx 0) ∧ nofull.cards (clusterOfCtx 0) < 64 ∧
    read s = true ∧ raises 0x80000000 = true ∧ later moving 0x70000800 = true ∧ cardBad card = false ∧ cardBad (0x3 :: card.drop 1) = true ∧ nth 0 card 0 / 4 % 4 = 0 ∧
    1 ≤ (s.rx 7).toNat ∧ (s.rx 7).toNat < 2 ^ 32 ∧ (s.me.geo 3 1).toNat % 8 = 0 ∧ (s.me.geo 3 0).toNat = 0 ∧
    ¬ 1 ≤ (s.rx 0).toNat ∧ (encode (.gleanj 3 0 0)).isSome = true ∧
    (meOf (.copyj 3 4 0) s).map (fun x => (x.rx 3, x.jobs.length, x.lastJob)) = some (1, 1, 1) ∧
    (meOf (.gleanj 3 7 0) s).map (fun x => (x.rx 3, x.jobs.map (fun k => (k.glean, k.count)))) = some (1, [(true, 15)]) := by
  decide +kernel

/-- A context with a Loom of side 4, slots 0 to 3 of its cluster claimed and FP16 in `lg0`. -/
def loomed (l : Table Word) : State :=
  (ctl l).setMe { (ctl l).me with vlreq := 0x10000, gstate := .granted, gsq := 1, slots := List.range 16, vl := 16
                                  claimed := [0, 1, 2, 3], lg := [(0, 3), (1, 2)] }

/-- Claims that are refused, that succeed and that find no room; releases; Loom jobs accepted, refused and waiting. -/
theorem witness_LoomInstructions :
    let s := loomed [(4, 0x20000), (5, 0x40000), (6, 1), (7, 0x2000000), (8, 0x10004), (9, 0x10000), (10, 4), (11, 0x70000000)]
    let q : LoomJob := { num := 1, kind := 4, ra := 0, rb := 0, lg0 := 0, chunk := 0, started := false, tokens := 0, side := 4, parts := [] }
    let eight := s.setMe { s.me with loomq := List.replicate 8 q }
    let asked := s.setMe { s.me with gstate := .requested }
    let touched := s.setMe { s.me with loomq := [{ q with kind := 5, ra := 0x40000, rb := 0x40000 }] }
    s.rx 6 &&& ~~~0x3FF0000 ≠ 0 ∧ s.rx 4 &&& ~~~0x3FF0000 = 0 ∧ (s.rx 4).toNat / 2 ^ 16 % 1024 = 2 ∧
    s.slotFree 0 4 = true ∧ s.slotFree 0 3 = false ∧ regOf (.lclaim 3 4) s 3 = some 0x20004 ∧
    regOf (.lclaim 3 7) s 3 = some 0 ∧ (encode (.lclaim 3 6)).isSome = true ∧
    slotRange (s.rx 6) = none ∧ slotRange (s.rx 5) = some (0, 4) ∧ slotRange (s.rx 8) = some (4, 1) ∧ 4 ∉ s.me.claimed ∧
    (∀ k < 4, k ∈ s.me.claimed) ∧ s.jobList s.cur = [] ∧
    (touched.jobList touched.cur).any (fun j => rangesMeet j.2.1 (slotRanges 0 (0, 4))) = true ∧
    (ctl []).me.noLoom = true ∧ s.me.noLoom = false ∧ 4 ≤ (s.rx 10).toNat ∧ (s.rx 6).toNat < 4 ∧
    s.loomBad s.cur (s.rx 9) (s.rx 9) ((s.me.geo 4 0).setWidth 32) = false ∧
    s.loomBad s.cur (s.rx 8) (s.rx 9) ((s.me.geo 4 0).setWidth 32) = true ∧ 8 ≤ eight.me.loomq.length ∧
    s.me.loomq.length < 8 ∧ s.me.gstate ≠ .requested ∧ s.me.gstate ≠ .revoked ∧ asked.me.loomParks = true ∧
    (s.rx 6).toNat % 8 ≠ 0 ∧ (s.rx 11).toNat % 8 = 0 ∧ (s.me.geo 4 2).toNat % 8 = 0 ∧ touched.me.loomBusy = true ∧
    s.me.loomParks = false ∧ s.me.loomBusy = false ∧ drainOk s.me.acc0Int ((s.me.geo 4 1).toNat % 32) = true ∧
    drainOk true ((s.me.geo 4 1).toNat % 32) = false ∧ (encode (.ldrain 3 11)).isSome = true ∧
    (meOf (.lmmaO 9 9) s).map (fun x => x.loomq.map (fun j => (j.num, j.kind))) = some [(1, 5)] := by decide +kernel

/-- A guard of 127 and one of a predicate; registers at the bounds of each kind; link entries that came and that did not. -/
theorem witness_MicroOperands :
    let b : Blk := (Mt.fresh).start { Ctx.reset.capture with cs := [(5, 8)] } 0 [] 0 false
    hd.gp = 127 ∧ ({ hd with gp := 95 } : WHdr).gp ≠ 127 ∧ 1 ≤ (23 : RegNo).toNat ∧ (23 : RegNo).toNat ≤ 23 ∧
    24 ≤ (29 : RegNo).toNat ∧ (29 : RegNo).toNat ≤ 29 ∧ ([] : List Word).length ≤ b.pops ∧ ([7] : List Word)[b.pops]? = some 7 ∧
    b.src [7] 30 = some (7, { b with pops := 1 }) ∧ (b.src [] 29).map (·.1) = some 8 ∧ (2 : BitVec 2).toNat < 3 ∧
    (b.setPred 2 31 true).p.getLsbD 95 = true ∧ (b.dst 23 9).dirty = 0x400000 := by decide +kernel

/-- A block that runs, with a guard that holds and one that does not, and a source that has not come. -/
theorem witness_MicroIntegerAndPredicates :
    let s := mic [(1, 5)]
    s.emulated 0 = false ∧ (s.myMt.blk.elim False (fun b => s.Runs b ∧ b.guard hd = true ∧ b.guard { hd with n := 1 } = false ∧
      b.src s.myMt.linkq 30 = none ∧ (b.src s.myMt.linkq 1).map (·.1) = some 5)) := by
  refine ⟨by decide +kernel, ?_⟩
  show State.Runs _ _ ∧ _
  decide +kernel

theorem witness_MicroFloatAndConverts : (mic []).emulated 1 = false ∧ (mic []).emulated 2 = false ∧
    (match (mic []).myMt.blk with
     | some b => decide ((mic []).Runs b)
     | none => false) = true := by decide +kernel

/-- Addresses that fault and that lie in memory, atomics with the rollback attribute, scratchpad elements, and the classes
that are emulated. -/
theorem witness_MicroMemoryAndControl :
    let s := micMem [(1, 0x70000000), (2, 5), (4, 0x40000), (5, 0x70000001)] [1]
    let g := s.setRec 0 { LRec.reset with rollback := true }
    let em : State := { s with img := { CfgImage.plain with disposition := 7 } }
    (match s.myMt.blk with
     | some b => decide (s.Runs b) && b.guard hd && decide ((b.src [] 1).map (·.1) = some 0x70000000) &&
         decide (spPlace b.cap.bfmt 0x40000 = none) && decide (spPlace b.cap.bfmt 2 = some (128, 64, 0)) &&
         decide (s.spBad s.mySp 128 64 = none) && decide (b.stores = [])
     | none => false) = true ∧
    (match s.laneAt 0x70000001 8 .r with
     | .error e => decide (e = { cause := 0x04, val := 0x70000001 })
     | _ => false) = true ∧
    (match s.laneAt 0x70000000 8 .rw with
     | .ok (.here t) => decide (checkFails s (memKey t.skew t.pa) = false)
     | _ => false) = true ∧
    s.noAtomic 0 = false ∧ g.noAtomic 0 = true ∧ em.emulated 0 = true ∧ em.emulated 1 = true ∧ em.emulated 2 = true ∧
    (match exec (.wAadd hd 2 1 0) g with
     | .next t => decide ((t.mt 0 0).cause = 0x2A)
     | _ => false) = true := by decide +kernel

/-- The state after an event on a unit, with its arguments. -/
def ev (i : Instr) (s : State) (a : StepArg) : State := stateOf i { s with arg := a }

/-- Events on context 0: a trip with and without its block, a reported store, a Prompt trap, `vsync`, `ewait` and vector
accesses parked with each of the ends of the rules. -/
theorem witness_BoundaryEvents :
    let s := mic []
    let z := StepArg.zero
    let held := (s.setCtx 0 { s.me with trips := [(0, 0x1000, 0)] }).setMt 0 0
      { s.mt 0 0 with blk := (s.mt 0 0).blk.map (fun d => { d with trip := true, words := [0x3FFA3080] }) }
    let lost := (s.setMt 0 0 Mt.fresh).setCtx 0 { s.me with trips := [(0, 0x1000, 0)] }
    let post := s.setCtx 0 { s.me with postFaults := [(.app, { cause := 0x07, val := 8 })] }
    let prompt := s.setCtx 0 { s.me with prompt := some 0 }
    let parked := fun (w : Why) => (ctl []).setCtx 0 { (ctl []).me with run := .parked w, btmo := 4, loadRd := 5 }
    let j : Job := { num := 1, glean := false, card := [], count := 0, done := 0, reads := [], writes := [], flags := 0,
                     row := 0, byte := 0, started := false, level := .app, lg0 := 0, packets := 0, pages := none, fail := none, got := [], left := 0, marked := false }
    let ew := fun (jobs : List Job) (stops : List (Word × BitVec 8)) =>
      (ctl []).setCtx 0 { (ctl []).me with run := .parked (.ewait 3), jobs := jobs, stops := stops }
    let el := fun (l : List Nat) (f : Option (Nat × Exc)) => parked (.elems (.vld 5 4 0 2) 0x70000000 0 l [] f)
    held.tripReady 0 = true ∧ (held.mt 0 0).blk.isSome = true ∧ lost.tripReady 0 = true ∧ (lost.mt 0 0).blk.isNone = true ∧
    s.tripReady 0 = false ∧ post.postReady 0 = true ∧ s.postReady 0 = false ∧ prompt.promptReady 0 = true ∧
    s.promptReady 0 = false ∧
    ((ev .emulationTrip held z).ctx 0).ft.cause = 0x13 ∧ ((ev .emulationTrip held z).ctx 0).emu = some (1, 0x3FFA3080) ∧
    (((ev .postedStoreFault post z).ctx 0).st.cause, ((ev .postedStoreFault post z).ctx 0).st.val) = (0x07, 8) ∧
    (((ev .promptTrap prompt z).ctx 0).st.cause, ((ev .promptTrap prompt z).ctx 0).promptBusy) = (0x17, true) ∧
    ((ev .vsyncReturn (parked (.vsync 0)) z).ctx 0).pc = 0x1004 ∧
    ((ev .vsyncTimeout { parked (.vsync 0) with now := 4096 } z).ctx 0).st.cause = 0x16 ∧
    ((ev .vsyncTimeout { parked (.vsync 0) with now := 4095 } z).ctx 0).st.cause = 0 ∧
    ((ev .ewaitReturn (ew [] []) z).ctx 0).run = .active ∧ ((ev .ewaitReturn (ew [j] []) z).ctx 0).run = .parked (.ewait 3) ∧
    (((ev .ewaitReturn (ew [] [(3, 0x20), (2, 0x21)]) z).ctx 0).st.cause,
      ((ev .ewaitReturn (ew [] [(3, 0x20), (2, 0x21)]) z).ctx 0).st.val) = (0x0E, 2) ∧
    ((ev .vectorAccessDone (el [] none) z).ctx 0).pc = 0x1004 ∧ ((ev .vectorAccessDone (el [0] none) z).ctx 0).pc = 0x1000 ∧
    (((ev .vectorAccessDone (el [] (some (1, { cause := 0x06, val := 9 }))) z).ctx 0).vstart,
      ((ev .vectorAccessDone (el [] (some (1, { cause := 0x06, val := 9 }))) z).ctx 0).st.val) = (1, 9) := by decide +kernel

/-- Elements of a load and a store performed by a vector request packet. -/
theorem test_vector_request_packet :
    let g := dat [] [1, 2, 3, 4, 5, 6, 7, 8]
    let x := fun (i : Instr) => { g.me with gstate := .granted, slots := [5], vl := 2
                                            run := .parked (.elems i 0x70000000 0 [0, 1] [] none)
                                            elemCap := some (g.capElems 0 i 0) }
    let a := ev .vectorRequestPacket (g.setCtx 0 (x (.vld 5 4 1 2))) { StepArg.zero with list := [1, 0] }
    let t := ev .vectorAccessDone a StepArg.zero
    let m := (g.setMt 0 0 { Mt.fresh with w := [(5, 0x11)] }).setMt 0 1 { Mt.fresh with w := [(5, 0x22)] }
    let u := ev .vectorRequestPacket (m.setCtx 0 (x (.vst 5 4 0))) { StepArg.zero with list := [0] }
    look 0 (t.mt 0 0).w 5 = 0x04030201 ∧ look 0 (t.mt 0 1).w 5 = 0x08070605 ∧
    (a.ctx 0).run = .parked (.elems (.vld 5 4 1 2) 0x70000000 0 [] [] none) ∧ (t.ctx 0).pc = 0x60000004 ∧
    bytesOf u 0x70000000 8 = [0x11, 2, 3, 4, 5, 6, 7, 8] ∧
    (u.ctx 0).run = .parked (.elems (.vst 5 4 0) 0x70000000 0 [1] [] none) := by decide +kernel

/-- Context 0 of core 0 and context 4 of core 1 in a gang of record 3 over both cores, each parked. -/
def pair (w : Nat → Why) : State :=
  let x := fun (c : Nat) => { Ctx.reset with run := .parked (w c), pc := 0x1000, recIdx := 3, rect := 0x01000000, btmo := 4
                                             loadRd := 5, abortSeen := true, votes := 7, xch := true }
  ((State.reset.setCtx 0 (x 0)).setCtx 4 (x 4)).setRec 3 { LRec.reset with ctl := 3, placed := 0x01000000 }

/-- Arrivals at each kind of barrier, complete and not; combiners that agree and differ; fences; waits on a doubleword. -/
theorem witness_SynchronisationEvents :
    let z := StepArg.zero
    let bar := fun (kind : Nat) (comb : Nat → Nat) => pair (fun c => .barrier kind 0x01000000 false (comb c) (BitVec.ofNat 64 (c + 1)) 0)
    let b : Bar := { kind := 0, scope := 0x01000000, chan := 0, sense := false, votes := 0 }
    let half := (bar 0 (fun _ => 0)).setCtx 4 { (bar 0 (fun _ => 0)).ctx 4 with run := .active }
    let f := pair (fun _ => .fence 0x01000000)
    let k := memKey 0 0x70000000
    let d := dat [] [7]
    let w := fun (v : Word) => d.setCtx 0 { d.me with run := .parked (.watch k v 0x70000000) }
    (bar 0 (fun _ => 0)).barOf 0 = some b ∧ (bar 0 (fun _ => 0)).barDone 3 b = true ∧ half.barDone 3 b = false ∧
    half.barOf 4 = none ∧
    (let t := ev .barrierComplete (bar 0 (fun _ => 0)) z
     ((t.ctx 0).pc, (t.ctx 4).pc, (t.ctx 0).sense) = (0x1004, 0x1004, true)) ∧
    ((ev .barrierComplete half z).ctx 0).pc = 0x1000 ∧
    (let t := ev .gbarComplete (bar 1 (fun _ => 0)) z
     ((t.ctx 4).ssn, (t.ctx 4).xch, (t.ctx 4).votes, (t.ctx 4).abortSeen) = (1, false, 0, false)) ∧
    (let t := ev .voteComplete (bar 2 (fun _ => 4)) z
     (t.ctx 0).rx 5 = (t.ctx 4).rx 5 ∧ (t.ctx 0).votes = 8 ∧ (t.ctx 0).pc = 0x1004) ∧
    ((bar 2 id).voteOf 4).1 ≠ ((bar 2 id).voteOf 0).1 ∧ ((ev .voteComplete (bar 2 id) z).ctx 4).st.cause = 0x0F ∧
    ((ev .barrierTimeout { half with now := 4096 } z).ctx 0).st.cause = 0x15 ∧
    ((ev .barrierTimeout { bar 0 (fun _ => 0) with now := 4096 } z).ctx 4).st.cause = 0 ∧
    ((ev .fenceReturn f z).ctx 0).pc = 0x1004 ∧
    ((ev .waitReturn (w 7) z).ctx 0).pc = 0x60000000 ∧
    ((ev .waitReturn (w 8) z).ctx 0).pc = 0x60000004 ∧ (w 8).keyRead 0 k = some 7 ∧
    (w 8).abortRaised 0 = false ∧
    ((ev .waitReturn ((w 7).setCluster 0 { (w 7).cluster 0 with abortLines := [0] }) z).ctx 0).abortSeen = true := by
  decide +kernel

/-- A micro-thread that may begin a block of the code page (`idx w1`, `stop`, its last word), and its commit with a store and a link
entry. -/
theorem witness_BlockEvents :
    let g := dat [] []
    let ws : List Byte := toLe 0x3FF61001 4 ++ toLe 0xBFF60000 4
    let e : SeqEntry := { id := 1, addr := 0x60000000, count := 1, held := [], picks := [],
                          cap := { Ctx.reset.capture with vbase := 0x40 } }
    let x := { g.me with gstate := .granted, slots := [5], vl := 2, seq := [e], seqNext := 2 }
    let s := { g.setCtx 0 x with mem := writeBytes g.mem (memKey 0 0x60000000) ws }
    let t := ev .blockBegin s StepArg.zero
    let m : Mt := { Mt.fresh with state := .running, ent := 1 }
    let b : Blk := { m.start x.capture 0x60000000 [0] 0 false with
      pos := 1, w := [(1, 9)], dirty := 1, flags := 1, stop := true, pushes := [7]
      stores := [{ kind := 0, va := 0x70000000, key := memKey 0 0x70000000, pa := 0x70000000, skew := 0, attr := 0, hcl := 0, width := 2,
                   data := 0xABCD, data2 := 0, rd := 0 }] }
    let c := s.setMt 0 0 { m with blk := some b }
    let u := ev .blockCommit c StepArg.zero
    let room := (c.setMt 0 1 { Mt.fresh with linkq := [1, 2, 3, 4] })
    let bad := c.setMt 0 0 { m with blk := some { b with checked := true } }
    (x.nextBegin (s.mt 0 0)).isSome = true ∧ s.mayBegin 0 0 = true ∧ (x.nextBegin { Mt.fresh with ent := 1 }).isNone = true ∧
    ((t.mt 0 0).blk.map (fun d => (d.addr, d.words.length, d.pos, d.cap.vbase))) = some (0x60000000, 2, 0, 0x40) ∧
    (t.mt 0 0).state = .running ∧
    bytesOf u 0x70000000 3 = [0xCD, 0xAB, 0] ∧ look 0 (u.mt 0 0).w 1 = 9 ∧ (u.mt 0 0).flags = 1 ∧ (u.mt 0 0).state = .stopped ∧
    (u.mt 0 1).linkq = [7] ∧ (u.mt 0 0).blk = none ∧
    ((ev .blockCommit room StepArg.zero).mt 0 0).blk.map (·.heldSince) = some (some 0) ∧
    ((ev .blockCommit bad { StepArg.zero with flag := true }).mt 0 0).cause = 0x28 ∧ c.staleLoad b = false ∧
    (match c.commitStores 0 0 b.stores b.w b.dirty with
     | .ok _ _ _ => true
     | _ => false) = true ∧
    (s.blockFetch 0 0x60000000 [] |>.toOption.map List.length) = some 2 := by decide +kernel

/-- Grants settled and given up, lanes that rotate, spill, restore, clear and leave, the frame's decisions, revocation and
its deadline, pressure on a die and the hops of its clock. -/
theorem witness_GrantAndPowerEvents :
    let z := StepArg.zero
    let g := dat [] []
    let x := { g.me with gstate := .granted, slots := [5], vl := 1, vlreq := 1, run := .parked .setvl, loadRd := 3 }
    let s := g.setCtx 0 x
    let nofit := g.setCtx 0 { x with nofit := true, gstate := .requested, slots := [] }
    let four := fun (r : Nat → Res) => (List.range 5).foldl (fun t n => t.setMt 0 n
      { Mt.fresh with res := r n, slot := 0, since := n, state := .running, linkq := [1, 2, 3, 4]
                      blk := if n < 4 then some { (Mt.fresh.start Ctx.reset.capture 0 [] 0 false) with
                        heldSince := some n, pushes := [7] } else none })
      (g.setCtx 0 { x with gstate := .spilled, vl := 5, target := 1, run := .active })
    let rot := four (fun n => if n < 4 then .resident else .spilled)
    let clearing := g.setCluster 0 { g.cluster 0 with work := [{ lane := 7, clearing := true, since := 0, dest := none, retire := false }] }
    let hop : State := { g with hops := [(2, 3000, none)] }
    let back : State := { g with hops := [(2, 3000, some 0)], now := 3300000 }
    let die2 := { z with unit := 2 }
    ((ev .setvlGrantReturn s z).ctx 0).rx 3 = 1 ∧ ((ev .setvlGrantReturn s z).ctx 0).pc = 0x60000004 ∧
    (((ev .setvlGrantReturn nofit z).ctx 0).rx 3, ((ev .setvlGrantReturn nofit z).ctx 0).gstate) = (0, .idle) ∧
    (rot.spilledWaiting 0 0).isSome = true ∧ ((ev .laneRotation rot z).mt 0 0).res = .spilling ∧
    ((ev .laneRotation rot z).mt 0 4).res = .restoring ∧
    ((ev .spillComplete (four (fun n => if n = 4 then .spilling else .resident)) { z with index := 4 }).mt 0 4).res = .spilled ∧
    ((ev .restoreComplete (four (fun n => if n = 4 then .restoring else .spilled)) { z with index := 4 }).mt 0 4).res = .resident ∧
    ((ev .restoreComplete (four (fun n => if n = 4 then .restoring else .resident)) { z with index := 4 }).mt 0 4).res = .restoring ∧
    ((ev .laneClearingDone clearing { z with index := 7 }).cluster 0).work = [] ∧
    ((ev .frameBoundary { g with now := 2048 } z).cluster 0).frame = some 2048 ∧
    ((ev .frameBoundary { g with now := 2047 } z).cluster 0).frame = none ∧
    ((ev .sysRevocation s z).ctx 0).revoked ≠ none ∧
    ((ev .revocationDeadline { (rot.setCtx 0 { rot.me with revoked := some 0 }) with now := 4096 } z).mt 0 0).blk = none ∧
    ((ev .revocationDeadline { (rot.setCtx 0 { rot.me with revoked := some 0 }) with now := 4095 } z).mt 0 0).blk.isSome = true ∧
    ((ev .contextSave (ev .sysRevocation (s.setCtx 0 { x with run := .active }) z) z).ctx 0).slots = [] ∧
    ((ev .laneRetirement g { z with index := 511 }).cluster 0).spares = 31 ∧
    ((ev .laneRetirement g { z with index := 511 }).cluster 0).missing = [] ∧
    ((ev .laneRetirement (g.setCluster 0 { g.cluster 0 with spares := 0 }) { z with index := 511 }).cluster 0).missing = [511] ∧
    (ev .powerPressure g die2).hops = [(2, 3200, none)] ∧ (ev .powerPressure g die2).clock 2 = 3300 ∧
    (let t := ev .clockHop (ev .powerPressure g die2) die2
     t.clock 2 = 3200 ∧ (ev .clockHop (ev .powerPressureEnd t die2) die2).clock 2 = 3300) ∧
    (ev .powerPressure hop die2).hops = hop.hops ∧
    (ev .clockHop hop die2).clock 2 = 3000 ∧ (ev .clockHop hop die2).hops = [] ∧
    (ev .droopDuringHop hop die2).scriv.length = 1 ∧ (ev .droopDuringHop hop die2).hops.length = 1 ∧
    (ev .clockHopRetry back die2).hops = hop.hops ∧ (ev .clockHopRetry back die2).clock 2 = 3300 ∧ (ev .clockHopRetry { back with now := 3299999 } die2).hops.length = 1 ∧
    (ev .clockHop g { die2 with value := 3000, flag := true }).hops = [(2, 3000, none)] := by decide +kernel

/-- A crew whose lanes have joined and whose spilled record is wrong; a die whose abandoned hop is to be tried again. -/
theorem witness_GrantAndPowerEvents_bad :
    let z := StepArg.zero
    let g := dat [] []
    let s := g.setCtx 0 { g.me with gstate := .granted, slots := [5], vl := 1, vlreq := 1, run := .parked .setvl, loadRd := 3 }
    let s := s.setMt 0 0 { Mt.fresh with spillRec := some (5, 0) }
    let bad : State := { s with synd := [(spillKey 0 5 0 + 192, 1)] }
    let back : State := { g with hops := [(2, 3000, some 0)] }
    (s.settleReads 0).any (s.spillBad 0) = false ∧ (bad.settleReads 0).any (bad.spillBad 0) = true ∧
    ((ev .setvlGrantReturn bad z).ctx 0).run ≠ .parked .setvl ∧ back.hopping 2 = true ∧ g.hopping 2 = false ∧
    (ev .powerPressure back { z with unit := 2, value := 5 }).pressure = [(2, 0, 0, 5)] := by decide +kernel

/-- An IDLE record of one core at 0:0. -/
def rec1 : LRec :=
  { LRec.reset with ctl := 1, entry := 0x60000000, codebound := 0x60010000, fnbase := 0x70, arg := 0x99, power := 0x640000
                    done := 0x70000100 }

/-- Requests of a device to the hub, refused with each cause and accepted; the drains of `halt`; a tree of two ranks; aging;
stops of a gang, rolled back, pre-empted and moved. -/
theorem witness_GangEvents :
    let z := StepArg.zero
    let at4 := { z with unit := 4 }
    let g := (dat [] []).setCtx 0 Ctx.reset
    let req := fun (w : Why) (r : LRec) => (g.setCtx 4 { Ctx.reset with run := .parked w, pc := 0x1000 }).setRec 3 r
    let cause := fun (s : State) => ((s.ctx 4).st.cause, (s.ctx 4).st.val)
    let patch := fun (f : Nat) (v : Word) (r : LRec) => ev .hubLpatchRequest (req (.lpatch 3 f v) r) at4
    let arm := fun (r : LRec) => ev .hubLarmRequest (req (.larm 3) r) at4
    let placed := arm rec1
    let run0 := placed.setCtx 0 { placed.ctx 0 with level := .app }
    let done := run0.setCtx 0 { run0.ctx 0 with run := .parked (.halt 5), ssn := 7 }
    let end_ := ev .haltDrainEnd done z
    let fin := ev .doneMessage end_ { z with unit := 3 }
    let armed := g.setRec 3 { rec1 with ctl := 2 }
    (patch 0 0x55 { rec1 with ctl := 0x100001 } |> cause) = (0x11, 1) ∧ (patch 0 0x55 { rec1 with ctl := 2 } |> cause) = (0x11, 2) ∧
    patchOk 5 2 = false ∧ (patch 5 2 rec1 |> cause) = (0x11, 3) ∧ ((patch 0 0x55 rec1).lrec 3).arg = 0x55 ∧
    ((patch 0 0x55 rec1).ctx 4).pc = 0x1004 ∧
    (arm { rec1 with rect := 1 } |> cause) = (0x11, 3) ∧ (arm { rec1 with power := 0 } |> cause) = (0x11, 4) ∧
    (arm { rec1 with ctl := 3 } |> cause) = (0x11, 2) ∧ (arm { rec1 with ctl := 0x100001 } |> cause) = (0x11, 1) ∧
    (placed.lrec 3).state = 3 ∧ (placed.ctx 0).run = .active ∧ (placed.ctx 0).pc = 0x60000000 ∧ (placed.ctx 0).fnbase = 0x70 ∧
    (placed.ctx 0).recIdx = 3 ∧ (placed.ctx 4).pc = 0x1004 ∧
    done.drained 0 = true ∧ done.syncTrap 0 = false ∧ done.allDone 0 = true ∧ (done.ctx 0).revoked = none ∧
    (end_.ctx 0).run = .free ∧ look 0 (end_.lrec 3).own 0 = 0x0500000100000007 ∧
    (fin.lrec 3).state = 1 ∧ (fin.lrec 3).last = 0x0500000100000007 ∧ childRanks 0x01000000 0 = [1] ∧
    bytesOf fin 0x70000100 8 = toLe 0x0500000100000007 8 ∧
    ((ev .agingTick { armed with now := 65536 } z).lrec 3).fld 40 2 = 1 ∧ ((ev .agingTick { armed with now := 65535 } z).lrec 3).fld 40 2 = 0 ∧
    ((ev .retentionRelease (g.setCtx 0 { g.me with run := .retained 4 }) z).ctx 0).run = .free := by decide +kernel

/-- A gang that stops: its context is at a stop point, stops at once and is ready to be saved. -/
theorem witness_GangEvents_stops :
    let g := dat [] []
    let run := (g.setCtx 0 { g.me with recIdx := 3, rect := 0, pc := 0x60000008 }).setRec 3 { rec1 with ctl := 3, rollback := true }
    let s := run.setRec 3 { run.lrec 3 with stopping := some (true, 17) }
    let t := (s.atStop 0).revoke 0
    (run.lrec 3).stopping = none ∧ (s.lrec 3).stopping = some (true, 17) ∧ (s.liveRanks 3).map (·.2) = [0] ∧
    (s.ctx 0).canStop = true ∧ t.stopDone 0 = true ∧
    (let d := run.setRec 3 { run.lrec 3 with stopping := some (false, 18) }
     (d.ctx 0).stopPoint = true ∧ ((d.atStop 0).revoke 0).discardDone 0 = true ∧
     ((ev .preemptionStop d { StepArg.zero with unit := 3 }).lrec 3).state = 1) := by decide +kernel

/-- A gang that rolls back: with no snapshot to restore its one context fails; before the trigger nothing happens. -/
theorem witness_GangEvents_rolls_back :
    let z := { StepArg.zero with unit := 3 }
    let g := dat [] []
    let run := (g.setCtx 0 { g.me with recIdx := 3, rect := 0, pc := 0x60000008 }).setRec 3 { rec1 with ctl := 3, rollback := true }
    let s := run.setRec 3 { run.lrec 3 with trigger := true, rollback := true }
    (run.lrec 3).trigger = false ∧ (s.lrec 3).trigger = true ∧ (s.lrec 3).state = 3 ∧ (s.liveRanks 3).map (·.2) = [0] ∧
    (s.ctx 0).canStop = true ∧ s.posted = [] ∧ ((ev .rollback s z).lrec 3).attempts = 1 := by decide +kernel

/-- A gang moved. -/
theorem witness_GangEvents_moves :
    let z := { StepArg.zero with unit := 3 }
    let g := dat [] []
    let run := (g.setCtx 0 { g.me with recIdx := 3, rect := 0, pc := 0x60000008 }).setRec 3 { rec1 with ctl := 3, rollback := true }
    let float : LRec := { rec1 with ctl := 0x403, fresh := true }
    let moved := ev .droverMove (run.setRec 3 float) { z with value := 0x01000100 }
    (run.setRec 3 float).droverOk 3 0x01000100 = true ∧ (moved.lrec 3).placed = 0x01000100 ∧ (moved.ctx 0).run = .free ∧
    (moved.ctx 4).pc = 0x60000008 := by decide +kernel

/-- A reply, or an abort, from member slot 5: its first word, its address, the tag and kind of the request it answers, and data. -/
def reply (w : Word) (pa : Word) (tag kind : Nat) (d : List Datum) : RemoteReq :=
  { port := 0, source := 5, payload := [.of w, .of pa, .of (BitVec.ofNat 64 (tag * 2 ^ 32 + kind)), .of 0, .of 0, .of 0] ++ d }

/-- A copy job that starts, moves and completes; a Gleaner job; reports; Loom jobs that wait for tokens, clear and add a
chunk. -/
theorem witness_EngineEvents :
    let z := { StepArg.zero with value := 1 }
    let c := carded [(4, 0x70000000), (5, 0x70000300)]
    let c : State := { c with mem := writeBytes c.mem (memKey 0 0x70000100) [1, 2, 3, 4, 5, 6, 7, 8] }
    let s := stateOf (.copyj 3 4 5) c
    let started := ev .jobStart s z
    let done := ev .copyJobComplete started z
    let glean := stateOf (.gleanj 3 7 0) (c.setMe { c.me with
      x := [(7, 2)], gg := [(0, 0), (1, 0x70000500), (2, 0x70000000), (3, 0x70000600)] })
    let l := stateOf (.lmmaO 9 9) (loomed [(9, 0x10000)])
    let run := ev .jobStart l z
    let tok := ev .loomTokenWaitEnd run z
    let k := tok.cluster 0
    let full := run.setCluster 0 { run.cluster 0 with tokens := [(0, 16384)] }
    let zero := ev .jobStart (stateOf (.lzero 4) ((loomed [(4, 1)]).setMt 0 0 { Mt.fresh with acc0 := [(0, 9)] })) z
    (s.ctx 0).jobs.length = 1 ∧ (started.ctx 0).jobs.map (·.started) = [true] ∧
    bytesOf done 0x70000200 8 = [1, 2, 3, 4, 5, 6, 7, 8] ∧ (done.ctx 0).jobs = [] ∧ bytesOf done 0x70000300 8 = toLe 0x100000001 8 ∧
    (ev .packetReport { (s.setCtx 0 { s.ctx 0 with jobs := (s.ctx 0).jobs.map (fun j => { j with packets := 2 }) }) with
      inbox := [reply 6 0x8000000000000 (jobTag 0 1) 4 []] } z |>.ctx 0).jobs.map (·.packets) = [1] ∧
    (glean.ctx 0).jobs.map (·.glean) = [true] ∧ (ev .gleanerJobComplete (ev .jobStart glean z) z |>.ctx 0).jobs.length = 0 ∧
    (run.ctx 0).loomq.map (·.started) = [true] ∧ (tok.ctx 0).loomq.map (·.tokens) = [16] ∧ k.tokens ≠ [] ∧
    (zero.mt 0 0).acc0 = [] ∧ (zero.ctx 0).loomq = [] ∧ full.freeTokens 0 0 < 16 ∧
    ((ev .loomTokenWaitEnd full z).cluster 0).tokenQ = [0] ∧
    (ev .refreshBreak s z).mem = s.mem ∧ (s.ctx 0).jobs.all (fun j => !s.cutOff 0 j) = true := by
  decide +kernel

/-- A window store that is applied, waits, is buffered, and faults; window loads; data of another member for a load, a
block, an element and a store; a lease at its end; a bank that wakes. -/
theorem witness_AccessEvents :
    let z := StepArg.zero
    let s := win []
    let p := fun (pa : Nat) => ({ from_ := 0, level := .app, va := 0x80000000, pa := pa, data := 7, width := 8, op := 0 } : Posted)
    let fly := fun (l : List Posted) => ({ s with posted := l } : State)
    let park := fun (w : Why) => s.setCtx 0 { s.me with run := .parked w, loadRd := 5, loadW := 8 }
    let b : Blk := { (Mt.fresh.start Ctx.reset.capture 0 [0, 0] 0 false) with wait := some (3, 2, true, 0x8000000000000) }
    let m := s.setMt 0 0 { Mt.fresh with state := .running, blk := some b }
    let el := park (.elems (.vld 5 4 1 3) 0 0 [] [1] none)
    let el := el.setCtx 0 { el.me with elemCap := some { (el.capElems 0 (.vld 5 4 1 3) 0) with got := [(1, 0x8000000000000, 0)] } }
    let fw := s.setCtx 0 { s.me with fwWait := some 0x8000000000000 }
    let far : Word := 0x8000000000000
    let back := fun (t : State) (q : RemoteReq) (l : List Nat) =>
      ev .loadDataReturn { t with inbox := [q] } { z with list := l, index := if l = [2] then 1 else 0 }
    let copy := fun (core : Nat) => ({ core := core, sector := 7, way := 0, expiry := 330000, writable := false, since := [] } : L1Ent)
    let leased : State := { s with l1 := [copy 0, copy 1], now := 100 }
    let asleep : State := { s with asleep := [(8, some 0)] }
    placeOf 0x800000100010 = .window 0 0x100010 ∧ winOf 0 0x100010 = .local_ 1 0x10 ∧
    readDw (ev .windowStoreArrival (fly [p 0x800000100010]) z).mem (localKey 1 0x10) = 7 ∧
    (ev .windowStoreArrival (fly [p 0x800000100010]) z).posted = [] ∧
    (ev .windowStoreArrival (fly [p 0x800000100010, p 0x800000100018]) { z with index := 1 }).posted.length = 2 ∧
    (ev .windowStoreArrival (fly [p 0x800000080000]) z |>.ctx 0).postFaults.map (fun f => f.2.cause) = [0x07] ∧
    s.winState .app (winOf 0 0x80000) = .fault ∧ s.winState .app (winOf 0 0x100010) = .go ∧
    ((ev .windowLoadArrival ({ (park (.window 0x800000100010 0x80100010)) with mem := writeBytes [] (localKey 1 0x10) [9] }) z).ctx 0).rx 5 = 9 ∧
    ((ev .windowLoadArrival (park (.window 0x800000080000 0x80080000)) z).ctx 0).st.cause = 0x07 ∧
    (back (park (.remote far.toNat)) (reply 6 far (tagOf 0 0 0) 1 [.of 0x55]) [0]).me.rx 5 = 0x55 ∧
    (back (park (.remote far.toNat)) (reply 6 far (tagOf 0 1 0) 1 [.of 0x55]) [0]).me.run = .parked (.remote 0x8000000000000) ∧
    (back (park (.remote (far + 8).toNat)) (reply 6 (far + 8) (tagOf 0 0 0) 1 [{ v := 0, synd := 1, mark := false }]) [0]).me.st.val = far + 8 ∧
    (back (park (.remote (far + 8).toNat)) (reply 6 (far + 8) (tagOf 0 0 0) 1 [{ v := 0, synd := 0, mark := true }]) [0]).me.st.val = far ∧
    (back (park (.remote far.toNat)) (reply 0x1806 far (tagOf 0 0 0) 1 []) [0]).me.st.cause = 0x18 ∧
    ((back m (reply 6 far (tagOf 1 0 0) 1 [.of 0xF00FFFF]) [1]).mt 0 0).blk.map (fun b => (look 0 b.w 3, b.pos)) =
      some (0xFFFFFFFFFFFFFFFF, 1) ∧
    ((back m (reply 0x2106 far (tagOf 1 0 0) 1 []) [1]).mt 0 0).cause = 0x21 ∧
    (back el (reply 6 far (tagOf 2 0 1) 1 [.of 6]) [2]).me.run = .parked (.elems (.vld 5 4 1 3) 0 0 [] [] none) ∧
    (back (fly [p 0x8000000000000]) (reply 6 far (tagOf 3 0 0) 2 []) [3]).posted = [] ∧
    (back fw (reply 6 far (tagOf 4 0 0) 1 [.of 6]) [4]).me.fwWait = none ∧
    (ev .leaseLapse leased { z with index := 7 }).l1.map (·.expiry) = [0, 330000] ∧
    (ev .leaseLapse { leased with now := 99 } { z with index := 7 }).l1.map (·.expiry) = [330000, 330000] ∧
    (ev .unitWakeUp asleep { z with index := 8 }).asleep = [] ∧
    (ev .tlbinvWrite { s with tlb := [{ core := 0, page := 0x7000, bits := 16, vector := true, root := 0, leaf := 1, first := false }] } { z with value := 4 }).tlb.length = 1 := by
  decide +kernel

/-- A window load whose data, or whose exception, has come, and a waiting read and a waiting write of a register window; of those,
a wrong check. -/
theorem witness_AccessEvents_reads :
    let s := win []
    let z := StepArg.zero
    let p : Posted := { from_ := 0, level := .sys, va := 0x80000000, pa := 0x800000100010, data := 0, width := 8, op := 16 }
    let park := fun (b : Option (Word × Option Exc)) =>
      s.setCtx 0 { s.me with run := .parked (.window 0x800000100010 0x80100010), loadRd := 5, loadW := 8, winBack := b }
    let held := s.setCtx 0 { s.me with gstate := .revoked, saved := some 0, vl := 1 }
    let bad : State := { held with synd := (List.range 32).map (fun k => (memKey 0 (0x70001000 + 8 * k), 1)) }
    p.reads = true ∧ ({ p with op := 0 } : Posted).reads = false ∧ s.winBad p.win false = none ∧ s.winBad p.win true = none ∧
    held.winBad (.micro 0 0 8) false = none ∧ (bad.winBad (.micro 0 0 8) false).isSome = true ∧ s.me.watching = none ∧ s.me.card = none ∧ s.me.call = none ∧
    (ev .windowLoadArrival (park (some (6, none))) z).me.rx 5 = 6 ∧
    (ev .windowLoadArrival (park (some (6, some { cause := 0x21, val := 0 }))) z).me.st.cause = 0x21 := by decide +kernel

/-- A mailbox command: opcode, partition, then its bytes by their offsets. -/
def cmd (op part : Nat) (l : List (Nat × Nat)) : List Word :=
  let n := l.foldl (fun a p => a + p.2 * 2 ^ (8 * p.1)) (op + part * 2 ^ 16)
  [BitVec.ofNat 64 n, BitVec.ofNat 64 (n / 2 ^ 64), BitVec.ofNat 64 (n / 2 ^ 128), 0x70000800]

/-- Each command accepted with status 1 and its effect, and refused with status 2. -/
theorem witness_HubEvents :
    let z := { StepArg.zero with unit := 16 }
    let g := (dat [] []).setCtx 0 Ctx.reset
    let run := fun (i : Instr) (s : State) (q : List Word) => ev i (s.setBox 16 { Mailbox.reset with queue := [q] }) z
    let ok := fun (t : State) (n : Nat) => bytesOf t 0x70000800 8 == toLe n 8 && (t.box 16).queue.isEmpty
    let img : List Byte := toLe 1 8 ++ toLe 0x01000000 8 ++ toLe 0x60000000 8
    let s : State := { g with mem := writeBytes g.mem (memKey 0 0x70000200) img }
    let armed := s.setRec 3 { rec1 with ctl := 2, held := true, saved := true }
    let idle := s.setRec 3 rec1
    let live := s.setRec 3 { rec1 with ctl := 3 }
    let wl : State := { s with wlog := [5, 70, 200] }
    let tab : State := { s with mem := writeBytes g.mem (memKey 0 0x70000200) (toLe 2 8 ++ toLe 0 2 ++ toLe 5 2 ++ toLe 0 4) }
    let grp : State := { s with groups := [(1, { Group.reset with members := [0, 5] })] }
    let build := run .build s (cmd 0x10 0 [(4, 3), (8, 0x70000200)])
    let rel := run .release idle (cmd 0x11 0 [(4, 3)])
    let wlo := run .wlogrc wl (cmd 0x31 0 [(3, 0), (4, 1), (8, 1), (16, 0x70000900)])
    let mem := run .member s (cmd 0x40 0 [(4, 5), (8, 0x102)])
    let sav := run .savereg s (cmd 0x60 0 [(8, 0x100000), (16, 2), (20, 16)])
    let pre := run .preempt live (cmd 0x61 0 [(4, 3), (5, 1)])
    let prq := run .prq s (cmd 0x64 0 [(8, 0x70000400), (16, 4)])
    ok build 1 = true ∧ (build.lrec 3).entry = 0x60000000 ∧ (build.lrec 3).state = 1 ∧
    ok (run .build live (cmd 0x10 0 [(4, 3), (8, 0x70000200)])) 2 = true ∧
    ok rel 1 = true ∧ (rel.lrec 3).state = 0 ∧ ok (run .release live (cmd 0x11 0 [(4, 3)])) 2 = true ∧
    ok wlo 1 = true ∧ wlo.wlog = [5, 200] ∧ bytesOf wlo 0x70000900 1 = [0x40] ∧
    ok mem 1 = true ∧ look 0 mem.members 5 = 0x102 ∧ ok (run .member s (cmd 0x40 0 [(4, 1024)])) 2 = true ∧
    ok (run .group tab (cmd 0x41 0 [(4, 1), (8, 0x70000200)])) 1 = true ∧
    ((run .group tab (cmd 0x41 0 [(4, 1), (8, 0x70000200)])).group 1).members = [0, 5] ∧
    ok (run .group tab (cmd 0x41 0 [(4, 64), (8, 0x70000200)])) 2 = true ∧
    ok sav 1 = true ∧ (sav.saveReg 0).stride = 0x10000 ∧ ok (run .savereg s (cmd 0x60 0 [(8, 0x100001), (16, 2)])) 2 = true ∧
    ok (run .snapreg s (cmd 0x65 0 [(8, 0x100000), (16, 2), (20, 16)])) 1 = true ∧
    (pre.lrec 3).stopping = some (true, 16) ∧ ok (run .preempt idle (cmd 0x61 0 [(4, 3)])) 2 = true ∧
    ok (run .resume armed (cmd 0x62 0 [(4, 3)])) 1 = true ∧ ok (run .resume idle (cmd 0x62 0 [(4, 3)])) 2 = true ∧
    ok prq 1 = true ∧ (look { base := 0, q := 0, next := 0, seqn := 0 } prq.prqs 0).q = 4 ∧
    ok (run .pclear s (cmd 0x70 0 [(8, 0x10000), (16, 1)])) 1 = true ∧ ok (run .pclear s (cmd 0x70 0 [(8, 0x10000)])) 2 = true ∧
    ok (run .summary s (cmd 0x80 0 [(8, 0x70010000), (16, 37119)])) 2 = true ∧
    ok (run .importImg idle (cmd 0x63 0 [(4, 3)])) 2 = true ∧ ok (run .undefinedMailboxOpcode s (cmd 0x12 0 [])) 2 = true ∧
    ok (run .cfgstage s (cmd 0x20 0 [(8, 0x24FFFFFFFF8), (16, 16)])) 2 = true ∧ ok (run .coll grp (cmd 0x50 0 [(8, 0x70000200)])) 2 = true ∧
    (s.box 3).queue = [] ∧
    ((ev .doorbell (s.setBox 2 { Mailbox.reset with cmd := [1, 2, 3, 4] }) { z with unit := 2 }).box 2).queue = [[1, 2, 3, 4]] ∧
    ((ev .registerWrite s { z with unit := 0, index := 0x12008, value := 7 }).box 2).cmd.take 2 = [0, 7] ∧
    ((ev .registerWrite s { z with unit := 2, index := 0x12008, value := 7 }).box 2).cmd = [] := by decide +kernel

/-- A doorbell whose command has a wrong doubleword, one in the recovery state, a summary, and an image staged after a core and
a stack have left. -/
theorem witness_HubEvents_more :
    let s := dat [] []
    let full := s.setBox 2 { Mailbox.reset with cmd := [1, 2, 3, 4] }
    let bad := full.hubPut 0x12008 { v := 2, synd := 1, mark := false }
    let sum := cmd 0x80 0 [(8, 0x70010000), (16, 37120)]
    let out := (s.setCluster 1 { s.cluster 1 with missingCores := [9] })
    let out : State := { out with stored := { out.stored with retired := [2] } }
    let late : State := { full with recovery := true }
    bad.hubFails 0x12008 = true ∧ (bad.bell 2).boxes = bad.boxes ∧ full.hubFails 0x12008 = false ∧
    ((full.bell 2).box 2).queue = [[1, 2, 3, 4]] ∧ (late.bell 2).scriv.length = 1 ∧
    cmdOp sum = 0x80 ∧ s.cmdBarred 16 sum = false ∧ cmdField sum 8 8 % 64 = 0 ∧ cmdField sum 16 4 = 37120 ∧
    (out.withReplacements CfgImage.plain).retired = [2] ∧ (out.withReplacements CfgImage.plain).missingCores = [9] := by
  decide +kernel

/-- Requests of the host: one that may reach its memory and one that may not, one of each kind, one that waits for a Copying
line, and an empty queue. -/
theorem witness_HostAndFabricEvents_host :
    let s := dat [] [1, 2, 3]
    let q : HostReq := { fn := 1, write := false, pa := 0x70000000, mask := 0xFFFFFFFFFFFFFFFF, words := [9, 8, 7, 6, 5, 4, 3, 2] }
    let ask := fun (s : State) (q : HostReq) => ev .hostRequest (s.hostArrive q) { StepArg.zero with unit := serviceCore s q.pa }
    let put := ask s { q with write := true }
    let far : HostReq := { q with pa := 0xB400000000 }
    s.hostReaches 1 0x70000000 = true ∧ s.hostReaches 1 0xB400000000 = false ∧ look [] s.hostq 1 = [] ∧
    look [] (s.hostArrive q).hostq 1 = [q] ∧ (s.hostArrive { q with pa := 0x70000008 }).hostq = [] ∧
    bytesOf put 0x70000000 1 = [9] ∧ bytesOf put 0x70000038 1 = [2] ∧ put.out = [.hostDone 1] ∧ look [] put.hostq 1 = [] ∧
    bytesOf (ask s { q with write := true, mask := 0xFE }) 0x70000000 3 = [1, 0, 0] ∧
    (ask s q).out = [.hostData 1 false [0x030201, 0, 0, 0, 0, 0, 0, 0]] ∧
    (ask s far).out = [.hostData 1 true (List.replicate 8 0xFFFFFFFFFFFFFFFF)] ∧
    (ask s { far with write := true }).out = [.hostDone 1] ∧
    (ask moving { q with fn := 0, pa := 0x800 }).out = [] ∧ moving.stalls { pa := 0x800, skew := 0, attr := 0 } = true := by
  decide +kernel

/-- Requests of another module: each kind, one to no memory, one that waits, and payloads whose check is wrong or that are
marked. -/
theorem witness_HostAndFabricEvents_remote :
    let z := StepArg.zero
    let s := dat [] [1, 2, 3]
    let rem := fun (s : State) (l : List Datum) =>
      ev .remoteRequest { s with rxq := [{ port := 0, source := 7, payload := l }] } { z with index := 7 }
    let w := fun (l : List Word) => (List.range 6).map (fun k => Datum.of (nth 0 l k))
    let reply : State → List (Word × List Word) := fun t =>
      (t.dir 0 0).buf.map (fun e => ((nth (Datum.of 0) e.2 0).v, (e.2.drop 6).map (·.v)))
    let st := w [0x0202, 0x70000000, 0xABCD]
    let mark := fun (d : Datum) => st.take 2 ++ [d] ++ st.drop 3
    reply (rem s (w [0x0401, 0x70000000])) = [(6, [0x030201])] ∧ reply (rem s (w [0x0401, 0xC000000000])) = [(0x1806, [])] ∧
    bytesOf (rem s st) 0x70000000 3 = [0xCD, 0xAB, 3] ∧ (rem s st).rxq = [] ∧
    reply (rem s (w [0x0803, 0x70000000, 5])) = [(6, [0x030201])] ∧
    bytesOf (rem s (w [4, 0x70000000] ++ [.of 0x11, .of 0x22])) 0x70000000 9 = [0x11, 0, 0, 0, 0, 0, 0, 0, 0x22] ∧
    reply (rem s (mark { v := 0, synd := 0, mark := true })) = [(0x2106, [])] ∧
    reply (rem s (mark { v := 0, synd := 1, mark := false })) = [(0x2006, [])] ∧
    (rem moving (w [0x0401, 0x800])).rxq.length = 1 ∧ (rem moving st).rxq = [] ∧ s.rxq = [] := by decide +kernel

/-- Interfaces in each state; flits, acknowledgements, lanes and retraining; a collective round that completes, aborts and
runs out of time. -/
theorem witness_HostAndFabricEvents :
    let z := StepArg.zero
    let s := dat [] [1, 2, 3]
    let td := fun (v : Tdisp) => { s with tdisp := [(1, v)] }
    let u1 := { z with unit := 1 }
    let live := (td .run).setRec 3 { rec1 with ctl := 0x100003 }
    let flit := fun (n : Nat) (g : Bool) => (ev .flitReceive s { z with index := n, flag := g }).out
    let whole := ev .flitReceive s { z with flag := true, data := [.of 1, .of 0x70000000, .of 0, .of 0, .of 9, .of 0] }
    let lost := fun (t : State) (n : Nat) => ev .laneLost t { z with index := n }
    let down := lost (lost s 3) 5
    let sent := s.sendVia 0 [1] 0 []
    let desc : List Word := [0x100100001, 0x0000000500000008, 0x70000000, 0x70000100, 0x70000200, 0, 0, 0]
    let grp : State := { s with groups := [(1, { Group.reset with members := [0, 5], running := some { desc := desc, since := 0, own := none } })] }
    let own : State := { s with groups := [(1, { Group.reset with members := [0], running := some { desc := desc, since := 0, own := none } })] }
    let bar : State := { s with groups := [(1, { Group.reset with members := [0, 5], running := some { desc := 3 :: desc.tail, since := 0, own := none } })] }
    let part := fun (g r : Nat) (d : List Datum) => reply (BitVec.ofNat 64 (8 + g * 256 + 2 ^ 32)) (BitVec.ofNat 64 r) 0 0 d
    let run5 := fun (t : State) (d : List Datum) => ev .collectiveRoundDone { ev .collectiveRoundDone t u1 with inbox := [part 1 0 d] } u1
    let from5 := fun (d : Datum) => run5 grp [d]
    let abort := fun (r : Word) => (ev .abortMessage { grp with inbox := [reply (7 + 0x100 + 0x150000) r 0 0 []] } u1).group 1
    let idle : State := { s with groups := [] }
    (ev .lockInterfaceRequest s u1).tdispOf 1 = .locked ∧ (ev .startInterfaceRequest (td .locked) u1).tdispOf 1 = .run ∧
    (ev .startInterfaceRequest s u1).out = [.reply 1 []] ∧ (ev .stopInterfaceRequest (td .run) u1).tdispOf 1 = .unlocked ∧
    live.recsIn 1 3 = [3] ∧ ((ev .stopInterfaceRequest live u1).lrec 3).stopping = some (true, 17) ∧
    (ev .stopInterfaceRequest live u1).tdispOf 1 = .run ∧
    (ev .lockedBarWrite (td .run) u1).tdispOf 1 = .error ∧ (ev .lockedBarWrite s { u1 with value := 9 }).bar 1 0 = 9 ∧
    (ev .ideIntegrityFailure s u1).tdispOf 1 = .unlocked ∧
    (ev .getDeviceInterfaceReport (td .locked) u1).out.length = 1 ∧ (ev .spdmMeasurement s { z with index := 99 }).out = [.reply 1 []] ∧
    flit 0 true = [.ack 0 1] ∧ flit 1 true = [.nak 0 0] ∧ flit 0 false = [.nak 0 0] ∧ whole.rxq.map (·.source) = [9] ∧
    (sent.dir 0 0).buf.length = 1 ∧ ((ev .acknowledgement sent { z with index := 1 }).dir 0 0).buf = [] ∧
    ((ev .negativeAcknowledgement sent z).dir 0 0).replays = 1 ∧ ((lost s 3).dir 0 0).st = .retrain 16 ∧
    (down.dir 0 0).st = .retrain 8 ∧ ((lost (lost (lost s 3) 5) 12).dir 0 0).st = .down ∧
    ((ev .retrainDone (lost s 3) { z with flag := true }).dir 0 0).st = .up16 ∧
    ((ev .retrainDone (lost s 3) z).dir 0 0).fails = 1 ∧
    (idle.group 1).running = none ∧ (bar.group 1).running.isSome = true ∧
    (grp.group 1).running.bind (·.own) = none ∧ ((ev .collectiveRoundDone grp u1).group 1).running.isSome = true ∧
    ((run5 bar []).group 1).running = none ∧
    bytesOf (from5 (.of 0)) 0x70000200 2 = [1, 0] ∧ bytesOf (from5 { v := 0, synd := 1, mark := false }) 0x70000200 3 = [3, 0, 0x20] ∧
    bytesOf (from5 { v := 0, synd := 0, mark := true }) 0x70000200 3 = [3, 0, 0x21] ∧
    ((ev .collectiveTimeout grp u1).group 1).running = none ∧
    ((ev .collectiveTimeout { own with now := 16500 } u1).group 1).running = none ∧
    ((ev .collectiveTimeout { own with now := 16499 } u1).group 1).running.isSome = true ∧
    (abort 0).running = none ∧ (abort 1).running.isSome = true := by decide +kernel

/-- Packets of each kind; requests that a port's fall ends; a root, and a member alone; an interface that falls with a gang running
and one armed. -/
theorem witness_HostAndFabricEvents_packets :
    let s := dat [] [1, 2, 3]
    let z := StepArg.zero
    let w : Word := 0x0401
    let p : Pend := { port := 3, back := none, words := [w, 0x8000000000000], route := 0 }
    let far := { p with back := some 4 }
    let back := (reply 6 0x8000000000000 0 0x0401 []).payload
    let wait : State := { s with pend := [p, far] }
    let own : State := { s with groups := [(1, { Group.reset with members := [0], round := 2 })] }
    let msg := fun (r : Word) => (reply (7 + 0x100) r 0 0 []).payload
    let d : List Word := [0x100100002, 5, 0x70000000, 0x70000100, 0x70000200, 0, 0, 0]
    let td := (({ s with tdisp := [(1, .run)] } : State).setRec 3 { rec1 with ctl := 0x100003 }).setRec 4 { rec1 with ctl := 0x100002 }
    let e := ev .ideIntegrityFailure td { z with unit := 1 }
    p.answered (reply 6 0x8000000000000 0 0x0401 []) = true ∧
    (s.packetIn 3 back).inbox = [] ∧ (wait.packetIn 3 back).inbox.length = 1 ∧ (wait.packetIn 3 back).pend = [far] ∧
    (s.packetIn 3 ((reply 1 0 0 0 []).payload)).rxq.length = 1 ∧
    (own.packetIn 3 (msg 2)).inbox = [] ∧ (own.packetIn 3 (msg 3)).inbox.length = 1 ∧
    (let t := wait.goDown 3 0 (wait.dir 3 0)
     t.pend = [] ∧ t.inbox.map (·.cause) = [0x18] ∧ (t.dir 4 0).buf.length = 1) ∧
    collKind d = 2 ∧ (own.group 1).members.all (fun m => m == s.memberId.toNat) = true ∧
    e.tdispOf 1 = .error ∧ (e.lrec 3).stopping = some (false, 18) ∧ (e.lrec 4).state = 1 := by decide +kernel

/-- Requests at a channel in each fate, time slots of each kind, and a request that is not answered. -/
theorem witness_MemoryAndResetEvents_channel :
    let z := StepArg.zero
    let s := dat [] [1, 2, 3]
    let q : ChanReq := { pa := 0x70000000, skew := 0, oldPhase := false, write := some 0x55, part := 0, bounced := false, since := 0 }
    let ask := { z with addr := 0x70000000, words := [0x99] }
    let wait := ev .channelRequest s ask
    let at1 : State := { wait with now := 32 }
    let slot := fun (t : State) => ev .timeSlotStart t { z with index := 29 }
    let b : State := { s with chanReqs := [{ q with bounced := true }] }
    let back := ev .bounceReceived b { z with list := [0] }
    s.chanOfReq q = 29 ∧ wait.chanReqs.length = 1 ∧ wait.mem = s.mem ∧
    (ev .channelRequest s { ask with list := [0] }).chanReqs.length = 1 ∧
    (wait.waitsForSlot 29 (nth q wait.chanReqs 0)) = true ∧ at1.slotServes 29 0x10 = some 0 ∧ at1.slotServes 29 0x13 = some 0 ∧
    at1.slotServes 29 3 = none ∧
    bytesOf (slot at1) 0x70000000 1 = [0x99] ∧ (slot at1).chanReqs = [] ∧
    bytesOf (ev .channelRequest (slot { at1 with chanReqs := [q] }) ask) 0x70000000 1 = [0x99] ∧
    bytesOf (slot (slot { at1 with chanReqs := [q] })) 0x70000000 1 = [0x55] ∧
    s.fateOf q = .served ∧ moving.fateOf { q with pa := 0x800 } = .stalled ∧
    (slot { s with now := 512 }).fuller ≠ s.fuller ∧
    ((ev .timeSlotStart { moving with retire := moving.retire.map (fun r => { r with copying := [] }), now := 512 }
      { z with unit := 2 }).retire.map (·.copying)) = some [(0, 1568)] ∧
    back.chanReqs = [q] ∧ b.chanReqs[1]? = none ∧
    (ev .stackAnswerTimeout { b with now := 20000 } z).chanReqs = [] ∧
    (ev .stackAnswerTimeout { b with now := 19999 } z).chanReqs.length = 1 ∧
    (ev .channelRequest s { ask with list := [0] }).mute = [0] ∧ (ev .channelRequest s ask).mute = [] := by decide +kernel

/-- A partition's handler addresses after a reset; a stack that answers no more. -/
theorem witness_MemoryAndResetEvents_handlers :
    let z := StepArg.zero
    let d : PartDef := { part := 1, cores := 0, pgrant := 0, fcap := 0, boost := false, stvec := 0x1003, ftvec := 0x2000, grants := [],
                         slots := [], groups := [] }
    let s : State := { dat [] [] with stored := { CfgImage.plain with parts := [d] }, mute := [2] }
    let cold := ev .coldReset s z
    (cold.ctx 0).st.vec = 0x1000 ∧ (cold.ctx 0).ft.vec = 0x2000 ∧ cold.ctx 4 = Ctx.reset ∧ cold.mute = [] ∧
    inRect d.cores 0 = true ∧ inRect d.cores 1 = false ∧ (ev .timeSlotStart s { z with unit := 2 }).serving = [] ∧
    (ev .stackDead s { z with unit := 2 }).mute = [] := by decide +kernel

/-- Retirements, deaths, ways and dispositions; both resets. -/
theorem witness_MemoryAndResetEvents :
    let z := StepArg.zero
    let s := dat [] [1, 2, 3]
    let r : Retire := { stack := 2, pos := [], copying := [], start := 0 }
    let ret := ev .stackRetirementStart s { z with unit := 2 }
    let two := ev .stackRetirementStart ret { z with unit := 3 }
    let dead := ev .stackDead s { z with unit := 2 }
    let e : L2Ent := { home := 10, sector := 7, way := 3, dirty := false }
    let way := ev .wayRetirement { s with l2 := [e, { e with sector := 8, way := 4 }] }
      { z with unit := 1, index := 2, addr := 3, flag := true }
    let disp := ev .dispositionSet s { z with unit := 0, index := 1, addr := 9 }
    let core := ev .dispositionSet s { z with unit := 3, index := 4 }
    let cold := ev .coldReset { s with now := 5 } z
    let rec_ := ev .coldReset s { z with flag := true }
    let warm := ev .warmReset { s with now := 5, modId := 6, mem := writeBytes s.mem (localKey 0 0) [7] } z
    s.mayRetire 2 = true ∧ ret.mpn = 1 ∧ stackState ret 2 = .retiring ∧ ret.retire.isSome = true ∧ ret.mem = s.mem ∧
    ret.mayRetire 3 = false ∧ stackState two 3 = .failing ∧ s.settleLines = s ∧
    (ev .retirementEnd ret { z with unit := 2 }).retire.isSome = true ∧
    stackState (ev .retirementEnd { ret with retire := some { r with pos := (List.range 32).map (fun c => (c, 0x1000000)) } } z) 2 = .retired ∧
    stackState dead 2 = .dead ∧ dead.scriv.length = 2 ∧
    way.l2.map (·.sector) = [8] ∧ (way.cluster 1).l2Spares = 4 ∧ disp.stored.disposition = 2 ∧
    core.stored.disposition = 0x10 ∧
    cold.now = 0 ∧ cold.mem = [] ∧ cold.ctx 0 = Ctx.reset ∧ rec_.recovery = true ∧ rec_.mem = s.mem ∧
    warm.now = 5 ∧ warm.modId = 6 ∧ bytesOf warm 0x70000000 3 = [1, 2, 3] ∧ readByte warm.mem (localKey 0 0) = 0 ∧
    warm.ctx 0 = Ctx.reset := by
  decide +kernel

/-! ### The clauses that the theorems above leave over -/

/-- A trip that waits for another member's data; one whose micro-threads wait in it, some of them with the fault bit, and
one whose micro-thread has left. -/
theorem witness_ReturnFromException_trips :
    let asked := fun (k : Nat) (f : Word) (no : Nat) =>
      let s := (mic []).setCtx 0 { (mic []).me with
        level := .fw, ft := { TrapRegs.reset with cause := 0x13, epc := 0x1000 }, emu := some (k, 0x20C85003), emuNos := [(0, 5)] }
      let s := s.setMt 0 0 { s.mt 0 0 with blk := (s.mt 0 0).blk.map (fun b => { b with trip := true, tripNo := no }) }
      let s := putDw s (emuKey 0 + 0x10) 1
      putDw (putDw s (emuKey 0 + 0x38) f) (emuKey 0 + 0x118) 0x8000
    let waits := (asked 2 0 5).setMe { (asked 2 0 5).me with fwWait := some 0xC000000000 }
    let free : Blk → Bool := fun b => !b.trip && b.pos == 1
    waits.me.fwWait ≠ none ∧ meOf .eret waits = some waits.me ∧ (asked 1 0 5).me.fwWait = none ∧
    (asked 1 0 5).inTrip 0 0 0 = true ∧ (asked 1 0 4).inTrip 0 0 0 = false ∧
    ((stateOf .eret (asked 1 0 5)).mt 0 0).blk.map free = some true ∧
    ((stateOf .eret (asked 1 0 4)).mt 0 0).blk.map free = some false ∧
    ((stateOf .eret (asked 1 6 5)).mt 0 0).cause = 6 ∧ ((stateOf .eret (asked 1 6 4)).mt 0 0).cause = 0 := by decide +kernel

/-- `lpatch`, `larm` and `halt` of a context whose record, lanes, stores and jobs let them complete; a gang that never
fits. -/
theorem witness_LaunchAndSystem_completes :
    let s := (dat [(4, 3), (5, 0x55)] []).setRec 3 rec1
    let hub := fun (i j : Instr) (s : State) => ev j (stateOf i s) { (stateOf i s).arg with unit := s.cur }
    let never := s.setRec 3 { rec1 with ctl := 1 + 2 ^ 24 }
    (s.lrec 3).part = s.partOf 0 ∧ (s.lrec 3).state = 1 ∧ patchOk 0 (s.rx 5) = true ∧ s.fenceDone 0 0x1F0F0000 = true ∧
    rectOk (s.lrec 3).rect = true ∧ (s.lrec 3).fld 12 1 = 0 ∧ s.powerRefuses 3 = false ∧ s.neverFits 3 = false ∧
    ((hub (.lpatch 4 5 0) .hubLpatchRequest s).lrec 3).arg = 0x55 ∧ (hub (.lpatch 4 5 0) .hubLpatchRequest s).me.pc = 0x60000004 ∧
    ((hub (.larm 4) .hubLarmRequest s).lrec 3).state ≠ 1 ∧ (hub (.larm 4) .hubLarmRequest s).me.run = .active ∧
    s.drained 0 = true ∧ s.syncTrap 0 = false ∧ s.allDone 0 = true ∧ s.me.revoked = none ∧
    (hub (.halt 4) .haltDrainEnd s).me.run = .free ∧ (never.lrec 3).state = 1 := by decide +kernel

/-- A stream and a drain all of whose elements pass their trial, and one with a failing element. -/
theorem witness_EngineRegisters_elements :
    let g := dat [(5, 1)] []
    let s := g.setCtx 0 { g.me with
      gstate := .granted, slots := [5], vl := 2, sg := [(0, 0x70000000), (1, 8), (2, 0x70000100), (3, 8), (4, 0x70000200), (5, 8), (6, 0x020202)] }
    let far := s.setMe { s.me with sg := put s.me.sg 0 0x70000FFFFF0 }
    let l := loomed [(11, 0x70000000)]
    let l := l.setCluster 0 { l.cluster 0 with vtab := [(7, 0x70000017)] }
    let try_ := fun (s : State) (i : Instr) (ra : Word) (k : Nat) =>
      ({ s with ctxs := (s.setMe { s.me with elemCap := some (s.capElems s.cur i 0) }).ctxs } : State).tryElem 0 i ra 0 k |>.isSome
    try_ s (.stream 5 6) 1 0 = false ∧ try_ s (.stream 5 6) 1 1 = false ∧ try_ far (.stream 5 6) 1 0 = true ∧
    (List.range 4).all (fun k => !try_ l (.ldrain 3 11) 0x70000000 k) = true ∧ try_ l (.ldrain 3 11) 0x10000000000 0 = true := by
  decide +kernel

/-- A vector access whose crew is being revoked, and one of whose elements a packet holds some. -/
theorem witness_BoundaryEvents_packets :
    let g := dat [] []
    let s := g.setCtx 0 { g.me with
      gstate := .granted, slots := [5], vl := 2, run := .parked (.elems (.vld 5 4 0 2) 0x70000000 0 [0, 1] [] none) }
    let s := s.setCtx 0 { s.me with elemCap := some (s.capElems 0 (.vld 5 4 0 2) 0) }
    let t := s.setCluster 0 { s.cluster 0 with vtab := put (s.cluster 0).vtab 7 0x70000417 }
    let t := t.setCtx 0 { t.me with elemCap := some (t.capElems 0 (.vld 5 4 0 2) 0) }
    let z := StepArg.zero
    (s.setCtx 0 { s.ctx 0 with gstate := .revoked }).me.gstate = .revoked ∧
    (s.vpacket 0 (.vld 5 4 0 2) 0x70000000 0 0 0 false).map (fun p => (p.base, p.count, p.tag0)) = none ∧
    (t.vpacket 0 (.vld 5 4 0 2) 0x70000000 0 0 0 false).map (fun p => (p.base, p.count, p.tag0)) = some (0x70000000, 2, 0) ∧
    (ev .vectorRequestPacket t { z with flag := true, addr := 28 }).me.run = t.me.run ∧
    (ev .vectorRequestPacket t z).me.run = t.me.run ∧
    (ev .vectorRequestPacket t { z with flag := true, addr := 29 }).me.run = .parked (.elems (.vld 5 4 0 2) 0x70000000 0 [] [] none) := by decide +kernel

/-- A gated scratchpad bank, words that take three sources and words whose trip waits for an operand. -/
theorem witness_MicroMemoryAndControl_units :
    let s := micMem [(1, 0x70000000), (2, 5)] [1]
    let off : State := { s with asleep := [(s.mySpUnit 128, none)] }
    let z : State := { s with arg := { StepArg.zero with unit := 0 } }
    off.unitAsleep (off.mySpUnit 128) = true ∧ s.unitAsleep (s.mySpUnit 128) = false ∧
    (off.wakeUnit (off.mySpUnit 128)).asleep = [(s.mySpUnit 128, some 0)] ∧
    (match s.myMt.blk with
     | some b => (b.srcs [] [1, 2, 3]).isSome && (b.srcs [] [30]).isNone && (b.srcs [7] [30]).isSome
     | none => false) = true ∧
    (match s.laneAt 0x70000000 8 .w with
     | .ok (.here t) => !s.stalls t
     | _ => false) = true ∧
    (match exec (.wFsinS2 hd 3 1) z with
     | .next t => decide (t.me.trips.length = 1)
     | _ => false) = true := by decide +kernel

/-- A block that a word broadcasts alone, a fetch that waits for a Copying line, a narrow store on a wrong check and an
atomic of another member. -/
theorem witness_BlockEvents_waits :
    let g := moving
    let ws : List Byte := toLe 0x3FF61001 4 ++ toLe 0xBFF60000 4
    let b0 : Begin := { addr := 0x60000000, chain := false, bare := true, ent := 0, left := 0 }
    let x := { g.me with gstate := .granted, slots := [5], vl := 2 }
    let s : State := { g.setCtx 0 x with mem := writeBytes g.mem (memKey 0 0) ws }
    let m : Mt := { Mt.fresh with state := .running }
    let st : BlkStore := { kind := 0, va := 0x70000000, key := memKey 0 0x70000000, pa := 0x70000000, skew := 0, attr := 0, hcl := 0, width := 2,
                           data := 0xABCD, data2 := 0, rd := 0 }
    let b : Blk := { m.start x.capture 0x60000000 [0] 0 false with pos := 1, stores := [st] }
    let bad : State := { s with synd := [(memKey 0 0x70000000, 1)] }
    let far := { st with kind := 2, pa := 0x8020070000000, width := 8 }
    s.beginWaits 0 { b0 with addr := 0x60000800 } [] = true ∧ s.beginWaits 0 b0 [] = false ∧
    (s.narrowBad 0 0 b).isNone = true ∧ b.remoteAtomic.isNone = true ∧
    ({ b with stores := [far] } : Blk).remoteAtomic = some far ∧
    (let t := (s.silentError 0 0).silentError 0 0
     (s.silentError 0 0).clusters.all (fun k => k.2.retiring.isEmpty) ∧ (t.cluster 0).retiring = [s.laneOf 0 0]) ∧
    (bad.narrowBad 0 0 b).map (·.1.cause) = some 0x20 := by decide +kernel

/-- A job that another member's death cuts off, one that a packet stopped, and a chunk whose operand has a wrong check. -/
theorem witness_EngineEvents_stops :
    let z := { StepArg.zero with value := 1 }
    let s := stateOf (.copyj 3 4 5) (carded [(4, 0x70000000), (5, 0x70000300)])
    let j := nth { num := 1, glean := false, card := [], count := 0, done := 0, reads := [], writes := [], flags := 0,
                   row := 0, byte := 0, started := false, level := .app, lg0 := 0, packets := 0, pages := none, fail := none, got := [], left := 0, marked := false } (s.ctx 0).jobs 0
    let l := stateOf (.lmmaO 9 9) (loomed [(9, 0x10000)])
    let tok := ev .loomTokenWaitEnd (ev .jobStart l z) z
    let q : LoomJob := { num := 9, kind := 4, ra := 0, rb := 0, lg0 := 0, chunk := 0, started := false, tokens := 0, side := 4, parts := [] }
    let bad : State := { tok with synd := [(tileKey 0 0, 1)] }
    let small := tok.setCtx 0 { tok.ctx 0 with loomq := (tok.ctx 0).loomq.map (fun q => { q with side := 1 }) }
    j.num = 1 ∧ s.cutOff 0 j = false ∧
    ((ev .copyJobComplete (s.setJob 0 { j with started := true, fail := some 0x20 }) z).ctx 0).stops = [(1, 0x20)] ∧
    ((ev .packetReport { (s.setJob 0 { j with started := true, packets := 1 }) with
      inbox := [reply 0x2006 0x8000000000000 (jobTag 0 1) 5 []] } z).ctx 0).stops.length = 1 ∧
    (bad.loomBadKey 0 (nth q (tok.ctx 0).loomq 0) 64).isSome = true ∧
    ((ev .loomChunk bad z).ctx 0).stops = [(1, 0x20)] ∧
    ((ev .loomChunk small { z with flag := true }).ctx 0).stops = [(1, 0x29)] ∧
    (let e := (s.setJob 0 { j with started := true, done := 0x60000000 }).endJob 0 { j with done := 0x60000000 } 0
     (e.ctx 0).stops = [(1, 0x06)] ∧ e.scriv.length = 1) ∧
    (let e := (s.setJob 0 { j with started := true }).setCluster 0 { s.cluster 0 with vtab := moving.cluster 0 |>.vtab }
     let u : State := { e with retire := moving.retire, slotCur := moving.slotCur, slotPrev := moving.slotPrev, mpn := moving.mpn, stackSt := moving.stackSt }
     (match u.putWord 0 0 0 (u.jobTr 0 { j with pages := none } 0x70000800 .w) 0x70000800 5 .sys with
      | .stall _ => true
      | _ => false) = true) := by decide +kernel

/-- The hub range read through BAR0 by the physical function and by a virtual one. -/
theorem witness_HubEvents_reads :
    let s := dat [] []
    let kind := fun (t : State) => t.out.map (fun o => match o with
      | .hostData f p _ => (f, p)
      | _ => (99, false))
    (s.hubRead 16 true 0x12000).isSome = true ∧ kind (s.barRead 0 0x12000) = [(0, false)] ∧
    kind (s.barRead 2 0x11000) = [(2, false)] ∧ kind (s.barRead 2 0x12000) = [(2, true)] ∧ kind (s.barRead 0 0x12004) = [(0, true)] := by
  decide +kernel

end Sys2Proof.Machine
end

section
/-!
PROOFS. The events of the job engines and of the Loom (R16, R160-R163, R269, R275, R276, R280, R331, R404, R424, R425, R443).
-/

namespace Sys2Proof.Machine

/-! ### The steps of the engines -/

theorem exec_jobStart (s : State) : exec .jobStart s = execJobStart s := rfl

theorem exec_copyJobComplete (s : State) : exec .copyJobComplete s = execCopyJobComplete s := rfl

theorem exec_gleanerJobComplete (s : State) : exec .gleanerJobComplete s = execGleanerJobComplete s := rfl

theorem exec_packetReport (s : State) : exec .packetReport s = execPacketReport s := rfl

theorem exec_refreshBreak (s : State) : exec .refreshBreak s = .next s := rfl

theorem exec_loomTokenWaitEnd (s : State) : exec .loomTokenWaitEnd s = execLoomTokenWaitEnd s := rfl

theorem exec_loomChunk (s : State) : exec .loomChunk s = execLoomChunk s := rfl

/-! ### The job that a step names -/

/-- The copy or Gleaner job of the step's context that has the number the step names. -/
def State.argJob (s : State) : Option Job := (s.ctx s.arg.unit).jobs.find? (fun j => j.num == s.arg.value)

theorem State.jobNamed_of_argJob {s : State} {j : Job} (h : s.argJob = some j) (g : Bool) :
    s.jobNamed g = if j.started = true ∧ j.glean = g then some j else none := by
  have e : s.jobNamed g = s.argJob.filter (fun j => j.glean == g && j.started) := rfl
  simp [e, h, Option.filter, and_comm]

theorem State.jobNamed_of_no_argJob {s : State} (h : s.argJob = none) (g : Bool) : s.jobNamed g = none := by
  have e : s.jobNamed g = s.argJob.filter (fun j => j.glean == g && j.started) := rfl
  rw [e, h, Option.filter_none]

/-- R16, R160, R162: a job that has started moves; one that has not starts when its edges and an engine are free. -/
theorem exec_jobStart_of_argJob {s : State} {j : Job} (h : s.argJob = some j) :
    exec .jobStart s = .next (if j.started then s.runJob s.arg.unit j s.arg.index false
      else if s.edgesFree s.arg.unit j.num j.reads j.writes = true ∧
          (j.glean = true ∨ s.copying (clusterOfCtx s.arg.unit) < 4) then
        s.setJob s.arg.unit { j with started := true, pages := some (j.pages.getD (s.spaceTable s.arg.unit)) }
      else s) := by
  rw [exec_jobStart, execJobStart, ← State.argJob, h]
  by_cases hs : j.started = true
  · simp only [hs, if_true]
  · simp only [hs, if_false, Bool.and_eq_true, Bool.or_eq_true, decide_eq_true_eq, Bool.false_eq_true]
    split <;> rfl

theorem exec_copyJobComplete_of_argJob {s : State} {j : Job} (h : s.argJob = some j) :
    exec .copyJobComplete s =
      .next (if j.started = true ∧ j.glean = false then s.runJob s.arg.unit j j.fuel true else s) := by
  rw [exec_copyJobComplete, execCopyJobComplete, State.jobNamed_of_argJob h]
  split_ifs <;> rfl

theorem exec_gleanerJobComplete_of_argJob {s : State} {j : Job} (h : s.argJob = some j) :
    exec .gleanerJobComplete s =
      .next (if j.started = true ∧ j.glean = true then s.runJob s.arg.unit j j.fuel true else s) := by
  rw [exec_gleanerJobComplete, execGleanerJobComplete, State.jobNamed_of_argJob h]
  split_ifs <;> rfl

/-- The oldest report that has come in for a packet of a job (R443). -/
def State.packetReply (s : State) (c : Nat) (j : Job) : Option (RemoteReq × State) :=
  s.takeReply (jobTag c j.num) (fun q => decide (4 ≤ bits (q.word 2) 0 8))

theorem exec_packetReport_of_no_reply {s : State} {j : Job} (h : s.argJob = some j)
    (hr : s.packetReply s.arg.unit j = none) : exec .packetReport s = .next s := by
  rw [State.packetReply] at hr
  rw [exec_packetReport, execPacketReport, ← State.argJob, h]
  simp only [hr]

theorem exec_packetReport_of_reply {s t : State} {j : Job} {q : RemoteReq} (h : s.argJob = some j)
    (hr : s.packetReply s.arg.unit j = some (q, t)) :
    let c := s.arg.unit
    let k := { j with packets := j.packets - 1 }
    exec .packetReport s = .next
      (if q.cause ≠ 0 then (t.setJob c k).stopJob c k (backCause q.cause) else (t.setJob c k).runJob c k 0 true) := by
  rw [State.packetReply] at hr
  rw [exec_packetReport, execPacketReport, ← State.argJob, h]
  simp only [hr]

/-- No completion and no report comes to a job that is not there. -/
theorem exec_job_events_of_no_argJob {s : State} (h : s.argJob = none) :
    exec .copyJobComplete s = .next s ∧ exec .gleanerJobComplete s = .next s ∧ exec .packetReport s = .next s := by
  refine ⟨?_, ?_, ?_⟩
  · rw [exec_copyJobComplete, execCopyJobComplete, State.jobNamed_of_no_argJob h]
  · rw [exec_gleanerJobComplete, execGleanerJobComplete, State.jobNamed_of_no_argJob h]
  · rw [exec_packetReport, execPacketReport, ← State.argJob, h]

/-! ### A job that advances -/

/-- R49, R162, R267, R443: when a job ends. -/
theorem State.jobDone_iff {s : State} {c : Nat} {j : Job} :
    s.jobDone c j = true ↔ j.moved = true ∧ j.packets = 0 ∧ (∀ p ∈ s.wbuf, p.ofJob c j.num = false) ∧
      s.endReady c j = true := by
  simp [State.jobDone, and_assoc]

theorem State.runJob_of_cutOff {s : State} {c : Nat} {j : Job} (h : s.cutOff c j = true) (n : Nat) (b : Bool) :
    s.runJob c j n b = s.stopJob c j 0x18 := by
  simp only [State.runJob, h, if_true]

theorem State.runJob_of_fail {s : State} {c : Nat} {j : Job} {k : BitVec 8} (h : s.cutOff c j = false)
    (hf : j.fail = some k) (n : Nat) (b : Bool) : s.runJob c j n b = s.stopJob c j k := by
  simp only [State.runJob, h, hf, Bool.false_eq_true, if_false]

section Live
variable {s : State} {c : Nat} {j : Job} (h : s.cutOff c j = false) (hf : j.fail = none) (n : Nat) (b : Bool)
include h hf

theorem State.runJob_of_advance_fault {k : BitVec 8} {t : State} (ha : s.advance c j n = .error (some k, t)) :
    s.runJob c j n b = t.stopJob c (((t.ctx c).jobs.find? (fun i => i.num == j.num)).getD j) k := by
  simp only [State.runJob, h, hf, ha, Bool.false_eq_true, if_false]

theorem State.runJob_of_advance_wait {t : State} (ha : s.advance c j n = .error (none, t)) : s.runJob c j n b = t := by
  simp only [State.runJob, h, hf, ha, Bool.false_eq_true, if_false]

theorem State.runJob_of_advance {k : Job} {t : State} (ha : s.advance c j n = .ok (k, t)) :
    s.runJob c j n b = if b = true ∧ k.moved = true ∧ k.packets = 0 ∧ (∀ p ∈ t.wbuf, p.ofJob c k.num = false) ∧
      t.endReady c k = true then t.endJob c k 0 else t := by
  simp only [State.runJob, h, hf, ha, Bool.false_eq_true, if_false, Bool.and_eq_true, State.jobDone_iff]

end Live

/-! ### The completion word (R269) -/

/-- The write of a job's completion word. -/
def State.putDone (s : State) (c : Nat) (j : Job) (k : BitVec 8) : Ans :=
  s.putWord (c / 4) c (s.partOf (c / 4)) (s.jobTr c j j.done .w) j.done (jobWord j.num k j.flags) j.level

theorem State.endJob_of_no_done {s : State} {c : Nat} {j : Job} (h : j.done = 0) (k : BitVec 8) :
    s.endJob c j k = s.jobOut c j k := by
  simp only [State.endJob, h, if_true]

section Done
variable {s u : State} {c : Nat} {j : Job} {k : BitVec 8} (h : j.done ≠ 0)
include h

theorem State.endJob_of_written {v : Word} (hw : s.putDone c j k = .value v u) : s.endJob c j k = u.jobOut c j k := by
  rw [State.putDone] at hw
  simp only [State.endJob, h, hw, if_false]

theorem State.endJob_of_fault {e : Exc} (hw : s.putDone c j k = .exc e u) :
    s.endJob c j k = (scrivener u 0x62 (s.partOf (c / 4)) 0 (((s.jobTr c j j.done .w).map (·.pa)).getD 0)
      [j.num.toNat]).jobOut c j 0x06 := by
  rw [State.putDone] at hw
  simp only [State.endJob, h, hw, if_false]

theorem State.endJob_of_wait (hw : s.putDone c j 0 = .stall u) : s.endJob c j 0 = u := by
  rw [State.putDone] at hw
  simp only [State.endJob, h, hw, if_false, if_true]

end Done

/-! ### The Loom starts a job and takes tokens -/

section EmptyQueue
variable {s : State} (h : (s.ctx s.arg.unit).loomq = [])
include h

theorem exec_jobStart_of_no_job (hn : s.argJob = none) : exec .jobStart s = .next s := by
  rw [exec_jobStart, execJobStart, ← State.argJob, hn]
  simp only [h]

theorem exec_loomTokenWaitEnd_of_no_job : exec .loomTokenWaitEnd s = .next s := by
  simp only [exec_loomTokenWaitEnd, execLoomTokenWaitEnd, h]

theorem exec_loomChunk_of_no_job : exec .loomChunk s = .next s := by
  simp only [exec_loomChunk, execLoomChunk, h]

end EmptyQueue

section Queue
variable {s : State} {j : LoomJob} {l : List LoomJob} (h : (s.ctx s.arg.unit).loomq = j :: l)
include h

/-- R160, R163, R280: the first Loom job starts, after its gated slots; `lzero` is performed at once. -/
theorem exec_jobStart_of_loom (hn : s.argJob = none) :
    let c := s.arg.unit
    exec .jobStart s = .next
      (if j.num = s.arg.value ∧ j.started = false ∧ s.loomLive c j = true ∧ s.loomReady c j = true then
        (if s.slotsAwake c j = false then s.wakeSlots c j
         else if j.kind = 4 then (s.zeroBanks c j.ra).endLoom c j 0 else s.setLoom c { j with started := true })
       else s) := by
  rw [exec_jobStart, execJobStart, ← State.argJob, hn]
  simp only [h, Bool.not_eq_true']
  split_ifs <;> rfl

/-- R331: the Loom takes its tokens when it is first of its gang and enough are free, and else it waits. -/
theorem exec_loomTokenWaitEnd_of_loom :
    let c := s.arg.unit
    let cl := clusterOfCtx c
    let r := (s.ctx c).recIdx.toNat
    let k := s.cluster cl
    let free := s.freeTokens r cl
    let first := (k.tokenQ.filter (fun d => (s.ctx d).recIdx == (s.ctx c).recIdx)).head?
    let n := min (j.side * j.side) free
    exec .loomTokenWaitEnd s = .next (if j.started = true ∧ j.tokens = 0 ∧ s.loomLive c j = true then
      (if 16 ≤ free ∧ (first = none ∨ first = some c) then
        ((s.setCluster cl { k with tokenQ := k.tokenQ.filter (· != c) }).useTokens r cl n 0).setLoom c { j with tokens := n }
       else s.setCluster cl { k with tokenQ := if c ∈ k.tokenQ then k.tokenQ else k.tokenQ ++ [c] })
      else s) := by
  simp only [exec_loomTokenWaitEnd, execLoomTokenWaitEnd, h, List.contains_iff_mem]
  split_ifs <;> rfl

theorem exec_loomChunk_of_no_tokens (ht : j.tokens = 0) : exec .loomChunk s = .next s := by
  simp only [exec_loomChunk, execLoomChunk, h, ht, if_true]

end Queue

/-! ### A chunk of the Loom -/

/-- R404, R405: a mark in a doubleword on chip is cause 0x21, a wrong check 0x20. -/
theorem chipCause_eq (s : State) (k : Nat) : chipCause s k = if k / 8 * 8 ∈ s.marks then 0x21 else 0x20 := by
  simp only [chipCause, List.contains_iff_mem]

/-- The first Loom job stops with a cause, or its gang begins to roll back (R268, R389, R427). -/
def State.stopLoom (s : State) (c : Nat) (j : LoomJob) (k : BitVec 8) : State :=
  if s.rollsBack c k then (s.setLoom c j).noteTrigger c k else (s.noteTrigger c k).endLoom c j k

/-- The state once the first Loom job has given its tokens back at the end of a chunk (R331). -/
def State.chunkEnds (s : State) (j : LoomJob) : State :=
  s.useTokens (s.ctx s.arg.unit).recIdx.toNat (clusterOfCtx s.arg.unit) 0 j.tokens

/-- A checksum event of a chunk: found in its sums, or, where a tile can be verified, as the step's flag says (R424,
R425). -/
def State.chunkEvent (s : State) (c : Nat) (j : LoomJob) : Prop :=
  let found := s.checkTiles c j j.side (s.chunkSums c j (16 * j.side))
  found.2 = true ∨ s.arg.flag = true ∧ found.1 < j.side * j.side

/-- A chunk in whose tiles a checksum event is found: its offset is kept, a record is written and the job stops (R424). -/
def State.chunkStops (s : State) (c : Nat) (j : LoomJob) : State :=
  let v := s.setCtx c { s.ctx c with loomRestart := some (j.num, j.chunk) }
  (scrivener v 0x11 (v.partOf (c / 4)) (c / 4 / 32 + c / 4 % 32 * 0x100 + clusterOfCtx c * 0x10000) 0
    [j.num.toNat]).stopLoom c { j with tokens := 0 } 0x29

/-- A chunk added to the accumulators, with its unverifiable tiles counted (R110, R425). -/
def State.chunkAdds (s : State) (c : Nat) (j : LoomJob) : State :=
  let cl := clusterOfCtx c
  let sums := s.chunkSums c j (16 * j.side)
  let p := s.addChunk c { j with tokens := 0 } j.side sums
  let d : LoomJob := { p.2.1 with chunk := p.2.1.chunk + 1 }
  let v : State := p.1.setCluster cl
    { p.1.cluster cl with unverif := (p.1.cluster cl).unverif + BitVec.ofNat 64 (s.checkTiles c j j.side sums).1 }
  let y : Ctx := v.ctx c
  let v : State := v.setCtx c { y with
    lg := put y.lg 15 (y.geo 4 15 ||| p.2.2.setWidth 64)
    acc0Int := if d.bank = 0 then d.fmt == 10 else y.acc0Int
    acc1Int := if d.bank = 1 then d.fmt == 10 else y.acc1Int }
  if d.chunks ≤ d.chunk then v.endLoom c d 0 else v.setLoom c d

section Chunk
variable {s : State} {j : LoomJob} {l : List LoomJob} (h : (s.ctx s.arg.unit).loomq = j :: l) (ht : j.tokens ≠ 0)
include h ht

/-- R404, R405: an operand that cannot be consumed. -/
theorem exec_loomChunk_of_bad {k : Nat}
    (hb : (s.chunkEnds j).loomBadKey (clusterOfCtx s.arg.unit) j (16 * j.side) = some k) :
    let c := s.arg.unit
    let u := s.chunkEnds j
    let e := chipCause u k
    exec .loomChunk s = .next
      ((if e = 0x20 then u.mismatch 3 (u.partOf (c / 4)) (c / 4) k else u).stopLoom c { j with tokens := 0 } e) := by
  rw [State.chunkEnds] at hb ⊢
  simp only [exec_loomChunk, execLoomChunk, h, ht, hb, if_false, State.stopLoom]
  split_ifs <;> rfl

theorem exec_loomChunk_of_event
    (hb : (s.chunkEnds j).loomBadKey (clusterOfCtx s.arg.unit) j (16 * j.side) = none)
    (he : (s.chunkEnds j).chunkEvent s.arg.unit j) :
    exec .loomChunk s = .next ((s.chunkEnds j).chunkStops s.arg.unit j) := by
  simp only [State.chunkEnds, State.chunkEvent] at hb he ⊢
  simp only [exec_loomChunk, execLoomChunk, h, ht, hb, he, if_false, if_true, State.chunkStops, State.stopLoom]
  split_ifs <;> rfl

theorem exec_loomChunk_of_sums
    (hb : (s.chunkEnds j).loomBadKey (clusterOfCtx s.arg.unit) j (16 * j.side) = none)
    (he : ¬ (s.chunkEnds j).chunkEvent s.arg.unit j) :
    exec .loomChunk s = .next ((s.chunkEnds j).chunkAdds s.arg.unit j) := by
  simp only [State.chunkEnds, State.chunkEvent] at hb he ⊢
  simp only [exec_loomChunk, execLoomChunk, h, ht, hb, he, if_false, ← apply_ite Host.Outcome.next]
  rfl

end Chunk

/-- Settles O56, from what each step of the engines does to the job that it names and to the first job of the Loom's
queue. -/
theorem engineEvents : Obligations.EngineEvents := by
  intro s c x cl r named
  refine ⟨exec_refreshBreak s, ?job, exec_job_events_of_no_argJob, ?cutOff, ?failed, ?live, ?noDone, ?done,
    ?emptyQueue, ?queue⟩
  case job =>
    exact fun j hj => ⟨exec_jobStart_of_argJob hj, exec_copyJobComplete_of_argJob hj, exec_gleanerJobComplete_of_argJob hj,
      exec_packetReport_of_no_reply hj, fun _ _ => exec_packetReport_of_reply hj⟩
  case cutOff => exact fun j n b h => State.runJob_of_cutOff h n b
  case failed => exact fun j n b k h hf => State.runJob_of_fail h hf n b
  case live =>
    exact fun j n b h hf => ⟨fun _ _ => State.runJob_of_advance_fault h hf n b,
      fun _ => State.runJob_of_advance_wait h hf n b, fun _ _ => State.runJob_of_advance h hf n b⟩
  case noDone => exact fun j k h => State.endJob_of_no_done h k
  case done =>
    refine fun j k h => ⟨fun _ _ => State.endJob_of_written h, fun _ _ => State.endJob_of_fault h, fun u hw hk => ?_⟩
    subst hk
    exact State.endJob_of_wait h hw
  case emptyQueue =>
    exact fun h => ⟨exec_loomTokenWaitEnd_of_no_job h, exec_loomChunk_of_no_job h, exec_jobStart_of_no_job h⟩
  case queue =>
    refine fun j l h => ⟨exec_jobStart_of_loom h, exec_loomTokenWaitEnd_of_loom h, exec_loomChunk_of_no_tokens h,
      fun ht => ⟨fun k hb => ?_, exec_loomChunk_of_event h ht, exec_loomChunk_of_sums h ht⟩⟩
    have stops := exec_loomChunk_of_bad h ht hb
    simp only [chipCause_eq] at stops
    exact stops

end Sys2Proof.Machine
end

section
/-!
PROOFS. A step is the instruction that the fetched word decodes to, the word or the commit of a micro-thread's block, or
the row of an event (R30, R38, R40, R387, R396).
-/

namespace Sys2Proof.Machine

/-! ### The next entry of the agenda -/

theorem step_of_entry {s : State} {a : Action} {l : List Action} (h : s.agenda = a :: l) :
    step s = State.take ({ s with agenda := l }.turn a) := by
  simp only [step, h]

theorem step_of_empty {s : State} (h : s.agenda = []) : step s = State.take s.idleTurn := by
  simp only [step, h]

theorem State.idleTurn_of_nextCtx {s : State} {c : Nat} (h : ({ s with now := s.now + 1 } : State).nextCtx = some c) :
    s.idleTurn = ({ s with now := s.now + 1, rr := c } : State).issueTurn c := by
  simp only [State.idleTurn, h]

/-! ### A context that issues -/

/-- R387: no event is pending at the context, it may issue, and its gang is not being stopped. -/
structure State.ReadyToIssue (s : State) (c : Nat) : Prop where
  trip : s.tripReady c = false
  post : s.postReady c = false
  prompt : s.promptReady c = false
  running : s.halted c = false
  ready : (s.ctx c).mayIssue = true

theorem State.issueTurn_of_readyToIssue {s : State} {c : Nat} (h : s.ReadyToIssue c) : s.issueTurn c = s.issueWord c := by
  obtain ⟨trip, post, prompt, running, ready⟩ := h
  simp only [State.issueTurn, trip, post, prompt, running, ready, Bool.not_true, Bool.or_self, Bool.false_eq_true,
    if_false]

/-- R87: the gang of a context is no longer at the point where the Drover moves it. -/
def State.leavesStart (t : State) (c : Nat) : State :=
  if (t.gang c).fresh then t.setRec (t.ctx c).recIdx.toNat { t.gang c with fresh := false } else t

/-- R396: the state in which a context runs the word that its fetch gave. -/
def State.issues (t : State) (c : Nat) : State :=
  { (t.leavesStart c).setCtx c { (t.leavesStart c).ctx c with run := .active } with cur := c }

theorem State.issueWord_of_fetch {s t : State} {c : Nat} {w : IWord} {i : Instr}
    (hf : s.fetch c (s.ctx c).pc = (.ok w, t)) (hd : decodeC w = .ok i) : s.issueWord c = .run i (t.issues c) := by
  simp only [State.issueWord, hf, hd]
  rfl

theorem State.leavesStart_of_fresh {t : State} {c : Nat} (h : (t.gang c).fresh = true) :
    t.leavesStart c = t.setRec (t.ctx c).recIdx.toNat { t.gang c with fresh := false } := if_pos h

theorem State.leavesStart_of_not_fresh {t : State} {c : Nat} (h : ¬ (t.gang c).fresh = true) : t.leavesStart c = t :=
  if_neg h

theorem State.leavesStart_eq (t : State) (c : Nat) : t.leavesStart c = { t with recs := (t.leavesStart c).recs } := by
  by_cases h : (t.gang c).fresh = true
  · rw [State.leavesStart_of_fresh h]; rfl
  · rw [State.leavesStart_of_not_fresh h]

theorem State.ctx_leavesStart (t : State) (c d : Nat) : (t.leavesStart c).ctx d = t.ctx d := by
  rw [State.leavesStart_eq]
  rfl

theorem State.lrec_leavesStart (t : State) (c r : Nat) :
    (t.leavesStart c).lrec r =
      if r = (t.ctx c).recIdx.toNat then { t.lrec r with fresh := false } else t.lrec r := by
  by_cases h : (t.gang c).fresh = true
  · rw [State.leavesStart_of_fresh h, State.lrec, State.setRec, look_put]
    split
    · next hr => rw [hr]; rfl
    · rfl
  · rw [State.leavesStart_of_not_fresh h]
    split
    · next hr => rw [hr, ← Bool.eq_false_iff.mpr h]; rfl
    · rfl

theorem State.issues_eq (t : State) (c : Nat) :
    t.issues c = { t with ctxs := (t.issues c).ctxs, recs := (t.issues c).recs, cur := c } := by
  simp only [State.issues]
  rw [State.leavesStart_eq]
  rfl

theorem State.me_issues (t : State) (c : Nat) : (t.issues c).me = { t.ctx c with run := .active } := by
  rw [← State.ctx_leavesStart t c c]
  exact State.ctx_setCtx_self ..

theorem State.ctx_issues_ne (t : State) {c d : Nat} (h : d ≠ c) : (t.issues c).ctx d = t.ctx d := by
  rw [← State.ctx_leavesStart t c d]
  exact State.ctx_setCtx_ne _ _ h

theorem State.lrec_issues (t : State) (c r : Nat) : (t.issues c).lrec r = (t.leavesStart c).lrec r := rfl

/-- Both ways to issue come to the context's turn on one state: an entry of the agenda that names it, and its turn with
nothing on the agenda (log 1). -/
theorem step_eq_issueTurn {s s0 : State} {c : Nat}
    (h : s.agenda = .issue c :: s0.agenda ∧ s0 = { s with agenda := s0.agenda } ∨
      s.agenda = [] ∧ s0 = { s with now := s.now + 1, rr := c } ∧
        ({ s with now := s.now + 1 } : State).nextCtx = some c) :
    step s = State.take (s0.issueTurn c) := by
  rcases h with ⟨ha, hs⟩ | ⟨ha, hs, hn⟩
  · rw [step_of_entry ha, ← hs]
    rfl
  · rw [step_of_empty ha, State.idleTurn_of_nextCtx hn, ← hs]

/-- Settles O4: the context's turn is its fetched word, run on the state that `State.issues` describes. -/
theorem stepRunsTheDecodedWord : Obligations.StepRunsTheDecodedWord := by
  intro s s0 t c w i hs trip post prompt running ready hf hd
  have turn : s0.issueTurn c = .run i (t.issues c) := by
    rw [State.issueTurn_of_readyToIssue ⟨trip, post, prompt, running, ready⟩, State.issueWord_of_fetch hf hd]
  refine ⟨t.issues c, ?_, t.issues_eq c, t.me_issues c, fun d hd => t.ctx_issues_ne hd, fun r => ?_⟩
  · rw [step_eq_issueTurn hs, turn]
    rfl
  · rw [State.lrec_issues, State.lrec_leavesStart]

/-! ### A micro-thread's turn, events and ticks -/

section Word
variable {s : State} {c i : Nat}

theorem State.wordTurn_of_no_block (h : (s.mt c i).blk = none) : s.wordTurn c i = .done s := by
  simp only [State.wordTurn, h]

theorem State.wordTurn_of_end {b : Blk} (h : (s.mt c i).blk = some b) (hw : b.words[b.pos]? = none) :
    s.wordTurn c i = .run .blockCommit { s with arg := { StepArg.zero with unit := c, index := i } } := by
  simp only [State.wordTurn, h, hw]

theorem State.wordTurn_of_word {b : Blk} {w : IWord} {j : Instr} (h : (s.mt c i).blk = some b)
    (hw : b.words[b.pos]? = some w) (hd : decodeW w = .ok j) :
    s.wordTurn c i = .run j { s with cur := c, curMt := i } := by
  simp only [State.wordTurn, h, hw, hd]

end Word

/-- Settles O7, by the kind of the agenda's next entry and the place of the micro-thread in its block. -/
theorem stepRunsMicroWordsAndEvents : Obligations.StepRunsMicroWordsAndEvents := by
  refine ⟨fun s s0 c i b w j ha hs => ?_, fun s l => ⟨fun i g ha => ?event, fun n ha => ?ticks⟩⟩
  · have turn : step s = State.take (s0.wordTurn c i) := by
      rw [step_of_entry ha, ← hs]
      rfl
    have mt : s.mt c i = s0.mt c i := by
      rw [hs]
      rfl
    rw [turn, mt]
    refine ⟨fun hb => ?_, fun hb hw => ?_, fun hb hw hd => ?_⟩
    · rw [State.wordTurn_of_no_block hb]; rfl
    · rw [State.wordTurn_of_end hb hw]; rfl
    · rw [State.wordTurn_of_word hb hw hd]; rfl
  case event =>
    rw [step_of_entry ha]
    rfl
  case ticks =>
    rw [step_of_entry ha]
    rfl

end Sys2Proof.Machine
end

section
/-!
PROOFS. `abort` and `abortq` (R52, R292, R293).
-/

namespace Sys2Proof

theorem mem_setIns (l : List Nat) (k r : Nat) : r ∈ setIns l k ↔ r ∈ l ∨ r = k := by
  induction l with
  | nil => simp [setIns]
  | cons j l ih =>
    unfold setIns
    by_cases h1 : k < j
    · simp [h1, or_comm]
    · by_cases h2 : j = k
      · subst h2
        simp +contextual [or_iff_left_of_imp]
      · simp [h1, h2, ih, or_assoc]

end Sys2Proof

namespace Sys2Proof.Machine

@[simp] theorem State.cluster_setCluster_ne (s : State) {k l : Nat} (x : Cluster) (h : l ≠ k) :
    (s.setCluster k x).cluster l = s.cluster l :=
  look_put_ne _ _ _ h

@[simp] theorem State.me_setCluster (s : State) (k : Nat) (x : Cluster) : (s.setCluster k x).me = s.me := rfl

/-- R52, R292: the clusters and the context after `abort`. -/
def State.raisesAbort (s : State) : State :=
  let cl := clusterOfCtx s.cur
  (s.setCluster cl
    { s.cluster cl with abortLines := setIns (s.cluster cl).abortLines s.me.recIdx.toNat }).setMe
    { s.me with abortSeen := true, abortEver := true, pc := s.me.pc + 4 }

theorem exec_abort (s : State) : exec .abort s = .next s.raisesAbort := by
  have e : exec .abort s = execAbort s := rfl
  simp only [e, execAbort, State.next, State.me_setMe, State.setMe_setMe, State.raisesAbort, State.me_setCluster]

theorem exec_abortq (s : State) (rd : RegNo) :
    exec (.abortq rd) s = s.done rd (if s.me.abortSeen then 1 else 0) := rfl

theorem State.cluster_raisesAbort (s : State) (cl : Nat) :
    ∃ l, s.raisesAbort.cluster cl = { s.cluster cl with abortLines := l } ∧
      ∀ r, r ∈ l ↔ r ∈ (s.cluster cl).abortLines ∨ cl = clusterOfCtx s.cur ∧ r = s.me.recIdx.toNat := by
  by_cases h : cl = clusterOfCtx s.cur
  · subst h
    refine ⟨_, State.cluster_setCluster_self .., fun r => ?_⟩
    simp only [mem_setIns, true_and]
  · refine ⟨(s.cluster cl).abortLines, State.cluster_setCluster_ne _ _ h, fun r => ?_⟩
    simp only [h, false_and, or_false]

theorem State.me_raisesAbort (s : State) :
    s.raisesAbort.me = { s.me with abortSeen := true, abortEver := true, pc := s.me.pc + 4 } :=
  State.me_setMe ..

theorem State.abortRaised_raisesAbort (s : State) : s.raisesAbort.abortRaised s.cur = true := by
  obtain ⟨l, hl, mem⟩ := s.cluster_raisesAbort (clusterOfCtx s.cur)
  have me : s.raisesAbort.ctx s.cur = s.raisesAbort.me := rfl
  rw [State.abortRaised, me, s.me_raisesAbort, hl, List.contains_iff_mem]
  exact (mem _).mpr (Or.inr ⟨rfl, rfl⟩)

/-- Settles O36, from the state that `abort` leaves and the register that `abortq` writes. -/
theorem abortAndQuery : Obligations.AbortAndQuery := by
  intro s rd
  refine ⟨gives_done ?_, s.raisesAbort, exec_abort s, rfl, fun d hd => State.ctx_setMe_ne _ _ hd, s.me_raisesAbort,
    s.abortRaised_raisesAbort, s.cluster_raisesAbort⟩
  rw [exec_abortq]
  split <;> rfl

end Sys2Proof.Machine
end

section
/-!
PROOFS. What the fills for a context's code leave: the caches, and what the context is charged for them (R124, R146, R173,
R406, R407, R410).
-/

namespace Sys2Proof.Machine

/-- Nothing differs but what caches hold, open scrub entries, and what context `c` is charged for its fills (R146). -/
structure State.Fills (s t : State) (c : Nat) : Prop where
  rest : t = { s with ctxs := t.ctxs, clusters := t.clusters, l1 := t.l1, l2 := t.l2, freeN := t.freeN, bad := t.bad,
                      scrubs := t.scrubs }
  others : ∀ d, d ≠ c → t.ctx d = s.ctx d
  charged : Ctx.Charged (s.ctx c) (t.ctx c)
  blocks : ∀ cl, t.cluster cl = { s.cluster cl with bcache := (t.cluster cl).bcache }

theorem Ctx.Charged.refl (x : Ctx) : Ctx.Charged x x := ⟨rfl, List.prefix_rfl⟩

theorem Ctx.Charged.trans {x y z : Ctx} (h : Ctx.Charged x y) (k : Ctx.Charged y z) : Ctx.Charged x z := by
  obtain ⟨hy, hp⟩ := h
  obtain ⟨hz, hq⟩ := k
  refine ⟨?_, hp.trans hq⟩
  rw [hy] at hz
  exact hz

namespace State.Fills
variable {s t u : State} {c : Nat}

theorem refl (s : State) (c : Nat) : s.Fills s c := ⟨rfl, fun _ _ => rfl, Ctx.Charged.refl _, fun _ => rfl⟩

theorem trans (h : s.Fills t c) (k : t.Fills u c) : s.Fills u c := by
  refine ⟨?_, fun d hd => (k.others d hd).trans (h.others d hd), h.charged.trans k.charged, fun cl => ?_⟩
  · have hu := k.rest
    rw [h.rest] at hu
    exact hu
  · have hu := k.blocks cl
    rw [h.blocks cl] at hu
    exact hu

/-- A change of the caches and scrub entries alone. -/
theorem of_caches (h : t = { s with l1 := t.l1, l2 := t.l2, freeN := t.freeN, bad := t.bad, scrubs := t.scrubs }) :
    s.Fills t c := by
  have hx : ∀ d, t.ctx d = s.ctx d := fun d => by rw [h]; rfl
  have hk : ∀ cl, t.cluster cl = s.cluster cl := fun cl => by rw [h]; rfl
  refine ⟨by rw [h], fun d _ => hx d, ?_, fun cl => by rw [hk]⟩
  rw [hx]
  exact Ctx.Charged.refl _

/-- A charge to the context. -/
theorem of_setCtx {x : Ctx} (h : Ctx.Charged (s.ctx c) x) : s.Fills (s.setCtx c x) c := by
  refine ⟨rfl, fun d hd => State.ctx_setCtx_ne _ _ hd, ?_, fun _ => rfl⟩
  rw [State.ctx_setCtx_self]
  exact h

/-- Lines of a block cache. -/
theorem of_setCluster (s : State) (c cl : Nat) (b : Table (List IWord)) :
    s.Fills (s.setCluster cl { s.cluster cl with bcache := b }) c := by
  refine ⟨rfl, fun _ _ => rfl, Ctx.Charged.refl _, fun d => ?_⟩
  by_cases h : d = cl
  · rw [h, State.cluster_setCluster_self]
  · rw [State.cluster_setCluster_ne _ _ h]

end State.Fills

/-! ### The caches of memory -/

theorem State.fills_charge (s : State) (c n : Nat) : s.Fills (s.charge c n) c := by
  unfold State.charge
  split
  · exact .of_setCtx ⟨rfl, List.prefix_rfl⟩
  · exact .refl s c

/-- R146, R407: a write-back is charged to the context, and reported to it where poison refuses it. -/
theorem State.fills_evictSector (s : State) (c : Nat) (e : L2Ent) : s.Fills (s.evictSector c e) c := by
  unfold State.evictSector
  extract_lets pa t refuse marked u x
  have gone : s.Fills t c := .of_caches rfl
  split
  · have back : s.Fills u c := gone.trans (by
      unfold u
      split
      · exact .refl t c
      · exact .of_caches rfl)
    split
    · refine back.trans (.of_setCtx ⟨rfl, ?_⟩)
      change x.postFaults <+: _
      clear_value refuse
      cases refuse with
      | none => exact List.prefix_rfl
      | some k => exact List.prefix_append ..
    · exact back
  · exact gone

theorem State.fills_evictSectors (l : List L2Ent) (s : State) (c : Nat) :
    s.Fills (l.foldl (fun t e => t.evictSector c e) s) c := by
  induction l generalizing s with
  | nil => exact .refl s c
  | cons e l ih => exact (s.fills_evictSector c e).trans (ih _)

/-- R124, R146: a sector at its home slice. -/
theorem State.fills_touch (s : State) (c home sector : Nat) (dirty : Bool) :
    s.Fills (s.touch c home sector dirty) c := by
  unfold State.touch
  extract_lets line set enter ways w used
  have enters : ∀ (t : State) (w : Nat), t.Fills (enter t w) c := fun t w =>
    (State.Fills.of_caches rfl).trans (State.fills_charge _ c 256)
  split
  · split
    · exact .of_caches rfl
    · exact .refl s c
  · split
    · exact enters s _
    · split
      · exact enters s _
      · split
        · exact s.fills_charge c 256
        · have free : s.Fills used c := .of_caches rfl
          exact (free.trans (State.fills_evictSectors _ _ c)).trans (enters _ w)

/-- A load that goes through no L1 (R124, R173). -/
theorem State.fills_served_load (s : State) {w : Who} (hw : w.l1 = false) (t : Tr) (sector n : Nat) :
    s.Fills (s.served w t sector (.load n)) w.c := by
  simp only [State.served, hw, Bool.false_eq_true, if_false]
  split
  · exact (s.fills_touch ..).trans (.of_caches rfl)
  · exact s.fills_charge ..

/-! ### The block cache -/

theorem State.fills_takeB (s : State) (c cl : Nat) (w : Who) (t : Tr) (va : Word) : s.Fills (s.takeB cl w t va) c := by
  unfold State.takeB
  split
  · exact .refl s c
  · extract_lets
    split
    · exact .of_setCluster ..
    · have used : s.Fills { s with freeN := s.freeN + 1 } c := .of_caches rfl
      exact used.trans (.of_setCluster ..)

theorem State.fills_blockFill (s : State) (c : Nat) (va : Word) (n held : Nat) :
    s.Fills (s.blockFill c va n held) c := by
  unfold State.blockFill
  induction wordsFrom n held generalizing s with
  | nil => exact .refl s c
  | cons k l ih =>
    refine .trans ?_ (ih _)
    dsimp only
    split
    · exact .refl s c
    · exact (State.fills_served_load s rfl ..).trans (State.fills_takeB ..)

end Sys2Proof.Machine
end

section
/-!
PROOFS. Broadcasts of a crew and its crew-shared registers (R41, R44, R52, R256, R257, R259).
-/

namespace Sys2Proof.Machine

/-! ### The checks of a block's address (R256) -/

section BlockFault
variable {s : State} {v : Word}

/-- The translation of a block's address for the context that broadcasts it. -/
abbrev State.blockTr (s : State) (v : Word) : Option Tr :=
  s.vecTr (clusterOfCtx s.cur) s.me.vspace.toNat s.me.level v .x

theorem State.blockFault_of_not_canonical (hc : canonical v = false) : s.blockFault v = some 0x03 := by
  simp only [State.blockFault, hc, Bool.not_false, if_true]

theorem State.blockFault_of_misaligned (hc : canonical v = true) (ha : v.toNat % 4 ≠ 0) :
    s.blockFault v = some 0x04 := by
  simp only [State.blockFault, hc, Bool.not_true, Bool.false_eq_true, if_false, ha, ne_eq, not_false_eq_true, if_true]

theorem State.blockFault_of_untranslated (hc : canonical v = true) (ha : v.toNat % 4 = 0) (ht : s.blockTr v = none) :
    s.blockFault v = some 0x06 := by
  simp only [State.blockFault, hc, Bool.not_true, Bool.false_eq_true, if_false, ha, ne_eq, not_true_eq_false, ht,
    Option.isNone_none, if_true]

theorem State.blockFault_of_translated (hc : canonical v = true) (ha : v.toNat % 4 = 0)
    (ht : (s.blockTr v).isSome = true) :
    s.blockFault v = if s.me.codebound.toNat ≤ v.toNat then some 0x0A else none := by
  simp only [State.blockFault, hc, Bool.not_true, Bool.false_eq_true, if_false, ha, ne_eq, not_true_eq_false,
    Option.isNone_eq_false_iff.mpr ht]

end BlockFault

/-! ### The abort line sampled (R52) -/

/-- The current context after it samples the abort line. -/
def State.sampled (s : State) : Ctx :=
  { s.me with
    abortSeen := if s.abortRaised s.cur then true else s.me.abortSeen
    abortEver := if s.abortRaised s.cur then true else s.me.abortEver }

theorem State.sampleAbort_of_not_raised {s : State} {c : Nat} (h : s.abortRaised c = false) : s.sampleAbort c = s := by
  simp only [State.sampleAbort, h, Bool.false_eq_true, if_false]

theorem State.me_sampleAbort (s : State) : (s.sampleAbort s.cur).me = s.sampled := by
  unfold State.sampleAbort State.sampled
  split
  · exact State.ctx_setCtx_self ..
  · rfl

theorem State.setMe_sampleAbort (s : State) (x : Ctx) : (s.sampleAbort s.cur).setMe x = s.setMe x := by
  unfold State.sampleAbort
  split
  · exact State.setCtx_setCtx ..
  · rfl

/-! ### A block broadcast -/

/-- What stays in the current context's sequencer when freed entries that no chain runs from leave it (R41, R378). -/
def State.keptSeq (s : State) : List SeqEntry :=
  s.me.seq.filter (fun e => !s.entryFreed s.cur e ||
    s.me.locals.any (fun i => (s.mt s.cur i).ent == e.id && (s.mt s.cur i).state == .running))

theorem State.sweepSeq_cur (s : State) : s.sweepSeq s.cur = s.setMe { s.me with seq := s.keptSeq } := rfl

theorem State.mem_seq_of_mem_keptSeq {s : State} {e : SeqEntry} (h : e ∈ s.keptSeq) : e ∈ s.me.seq :=
  (List.mem_filter.mp h).1

theorem State.mem_keptSeq_of_not_freed {s : State} {e : SeqEntry} (h : e ∈ s.me.seq)
    (hf : s.entryFreed s.cur e = false) : e ∈ s.keptSeq :=
  List.mem_filter.mpr ⟨h, by simp only [hf, Bool.not_false, Bool.true_or]⟩

/-- The current context with a block entered last in its sequencer (R41, R44). -/
def State.entered (s : State) (v : Word) (n : Nat) (held : List IWord) : Ctx :=
  { s.me with
    seq := s.keptSeq ++ [{ id := s.me.seqNext, addr := v, count := n, cap := s.me.capture, picks := [], held := held }]
    seqNext := s.me.seqNext + 1 }

section Broadcast
variable {s : State} {v : Word} {n : Nat}

theorem State.broadcast_of_fault {k : BitVec 8} (h : s.blockFault v = some k) : s.broadcast v n = raise s k v := by
  simp only [State.broadcast, h]

/-- R52, R256: with the abort line raised, no micro-thread or a count of zero nothing is broadcast. -/
theorem State.broadcast_of_nothing (hf : s.blockFault v = none)
    (h : s.abortRaised s.cur = true ∨ s.me.vl = 0 ∨ n = 0) :
    s.broadcast v n = .next (s.setMe { s.sampled with pc := s.me.pc + 4 }) := by
  have next : (s.sampleAbort s.cur).next = s.setMe { s.sampled with pc := s.me.pc + 4 } := by
    rw [State.next, State.setMe_sampleAbort, State.me_sampleAbort]
    rfl
  have vl : (s.sampleAbort s.cur).me.vl = s.me.vl := by
    rw [State.me_sampleAbort]
    rfl
  simp only [State.broadcast, hf, next, vl]
  by_cases hs : s.abortRaised s.cur = true
  · rw [if_pos hs]
  · rw [if_neg hs, if_pos (h.resolve_left hs)]

section Live
variable (hf : s.blockFault v = none) (hs : s.abortRaised s.cur = false) (hv : s.me.vl ≠ 0) (hn : n ≠ 0)
include hf hs hv hn

theorem State.broadcast_of_wait (h : s.me.gstate = .revoked ∨ 16 ≤ s.seqUsed s.cur) :
    s.broadcast v n = s.park .again := by
  simp only [State.broadcast, hf, hs, State.sampleAbort_of_not_raised hs, hv, hn, Bool.false_eq_true, or_self, if_false, h,
    if_true]

theorem State.broadcast_of_room (hg : s.me.gstate ≠ .revoked) (hq : s.seqUsed s.cur < 16) :
    ∃ held, s.broadcast v n =
      .next ((s.setMe (s.entered v n held)).blockFill s.cur v held.length 0).next := by
  have room : ¬ (s.me.gstate = .revoked ∨ 16 ≤ s.seqUsed s.cur) := by
    rintro (h | h)
    · exact hg h
    · omega
  simp only [State.broadcast, hf, hs, State.sampleAbort_of_not_raised hs, hv, hn, Bool.false_eq_true, or_self, if_false,
    room, State.sweepSeq_cur, State.me_setMe, State.setMe_setMe]
  exact ⟨_, rfl⟩

end Live
end Broadcast

/-! ### The instructions -/

theorem exec_vfetch (s : State) (ra : RegNo) : exec (.vfetch ra) s = s.broadcast (s.rx ra) 1 := rfl

/-- R256: the count of a `vloop` is the lower half of its register. -/
theorem exec_vloop (s : State) (ra rb : RegNo) :
    exec (.vloop ra rb) s = s.broadcast (s.rx ra) ((s.rx rb).toNat % 2 ^ 32) := by
  have count : bits (s.rx rb) 0 32 = (s.rx rb).toNat % 2 ^ 32 := by simp [bits]
  rw [← count]
  rfl

theorem exec_vsync (s : State) (rd : RegNo) :
    exec (.vsync rd) s = .next (s.setMe { s.sampled with loadRd := rd, run := .parked (.vsync s.now) }) := by
  have e : exec (.vsync rd) s = execVsync rd s := rfl
  simp only [e, execVsync, State.park, State.me_setMe, State.setMe_setMe, State.me_sampleAbort, State.setMe_sampleAbort]

theorem exec_vsetc (s : State) (ra : RegNo) (cn : BitVec 3) :
    exec (.vsetc ra cn) s =
      .next (s.setMe { s.me with cs := put s.me.cs cn.toNat (s.rx ra), pc := s.me.pc + 4 }) := by
  have e : exec (.vsetc ra cn) s = execVsetc ra cn s := rfl
  simp only [e, execVsetc, State.next, State.me_setMe, State.setMe_setMe]

/-! ### What a broadcast leaves -/

/-- The pc moves on after a charge. -/
theorem Ctx.Charged.next {x y : Ctx} (h : Ctx.Charged x y) :
    Ctx.Charged { x with pc := x.pc + 4 } { y with pc := y.pc + 4 } := by
  obtain ⟨hy, hp⟩ := h
  refine ⟨?_, hp⟩
  rw [hy]

/-- The current context written, fills at its charge, and its pc moved on: what differs from the state before. -/
theorem State.Fills.next_setMe {s t : State} {x : Ctx} (h : (s.setMe x).Fills t s.cur) :
    t.next = { s with ctxs := t.next.ctxs, clusters := t.next.clusters, l1 := t.next.l1, l2 := t.next.l2,
                      freeN := t.next.freeN, bad := t.next.bad, scrubs := t.next.scrubs } ∧
    (∀ d, d ≠ s.cur → t.next.ctx d = s.ctx d) ∧
    (∀ cl, t.next.cluster cl = { s.cluster cl with bcache := (t.next.cluster cl).bcache }) ∧
    Ctx.Charged { x with pc := x.pc + 4 } t.next.me := by
  obtain ⟨rest, others, charged, blocks⟩ := h
  have cur : t.cur = s.cur := by rw [rest]; rfl
  refine ⟨congrArg (fun v : State => { v with ctxs := t.next.ctxs }) rest, fun d hd => ?_, blocks, ?_⟩
  · have hd' : d ≠ t.cur := by rwa [cur]
    rw [State.next, State.setMe_other t _ hd', others d hd, State.setMe_other s x hd]
  · rw [State.ctx_setMe_self, ← cur] at charged
    rw [State.next, State.me_setMe]
    exact charged.next

/-- Settles O40: the checks of the block's address in their order, then what stops a broadcast, what delays it, and the
entry that it takes. -/
theorem broadcasts : Obligations.Broadcasts := by
  intro s rd ra rb cn v me seen flags ok B
  have fault {i : Instr} {n : Nat} {k : BitVec 8} (he : exec i s = s.broadcast v n) (hk : s.blockFault v = some k) :
      Raises i s k v := he.trans (State.broadcast_of_fault hk)
  have passes (h : ok) : s.blockFault v = none := by
    obtain ⟨hc, ha, ht, hb⟩ := h
    rw [State.blockFault_of_translated hc ha ht, if_neg (by omega)]
  have block (i : Instr) (n : Nat) (he : exec i s = s.broadcast v n) : B i n := by
    refine ⟨fun hc => fault he (State.blockFault_of_not_canonical hc),
      fun hc ha => fault he (State.blockFault_of_misaligned hc ha),
      fun hc ha ht => fault he (State.blockFault_of_untranslated hc ha ht), fun hc ha ht hb => fault he ?past,
      fun h stop => ?nothing, fun h hs hv hn wait => ?waits, fun h hs hv hn hg hq => ?taken⟩
    case past => rw [State.blockFault_of_translated hc ha ht, if_pos hb]
    case nothing => exact becomes_setMe (he.trans (State.broadcast_of_nothing (passes h) stop))
    case waits => exact parks_park (he.trans (State.broadcast_of_wait (passes h) hs hv hn wait))
    case taken =>
      obtain ⟨held, taken⟩ := State.broadcast_of_room (passes h) hs hv hn hg hq
      obtain ⟨rest, others, blocks, charged⟩ :=
        ((s.setMe (s.entered v n held)).fills_blockFill s.cur v held.length 0).next_setMe
      exact ⟨_, s.keptSeq, held, he.trans taken, rest, others, blocks, fun e => State.mem_seq_of_mem_keptSeq,
        fun e => State.mem_keptSeq_of_not_freed, charged⟩
  exact ⟨block _ _ (exec_vfetch s ra), block _ _ (exec_vloop s ra rb), becomes_setMe (exec_vsync s rd),
    becomes_setMe (exec_vsetc s ra cn)⟩

end Sys2Proof.Machine
end

section
/-!
PROOFS. A block begins on a micro-thread (R42, R43, R390, R397, R421).
-/

namespace Sys2Proof.Machine

/-! ### What the begin of a block can change -/

/-- Nothing differs but contexts, micro-threads, launch records, checkers, the Scrivener, caches with their scrub entries,
and held sectors. -/
abbrev State.BeginOnly (s t : State) : Prop :=
  t = { s with ctxs := t.ctxs, mts := t.mts, recs := t.recs, lfsr := t.lfsr, scriv := t.scriv,
               scrivNext := t.scrivNext, clusters := t.clusters, l1 := t.l1, l2 := t.l2, freeN := t.freeN,
               bad := t.bad, scrubs := t.scrubs, heldSectors := t.heldSectors }

theorem State.BeginOnly.trans {s t u : State} (h : s.BeginOnly t) (k : t.BeginOnly u) : s.BeginOnly u := by
  unfold State.BeginOnly at h k ⊢
  rw [h] at k
  exact k

theorem State.beginOnly_setCtx (s : State) (c : Nat) (x : Ctx) : s.BeginOnly (s.setCtx c x) := rfl

theorem State.beginOnly_setMt (s : State) (c i : Nat) (m : Mt) : s.BeginOnly (s.setMt c i m) := rfl

theorem State.beginOnly_letGo (s : State) (c i : Nat) : s.BeginOnly (s.letGo c i) := rfl

theorem State.Fills.beginOnly {s t : State} {c : Nat} (h : s.Fills t c) : s.BeginOnly t := by
  have rest := h.rest
  unfold State.BeginOnly
  rw [rest]

theorem State.Fills.mt {s t : State} {c : Nat} (h : s.Fills t c) (d i : Nat) : t.mt d i = s.mt d i := by
  rw [h.rest]
  rfl

/-! ### A fault of a micro-thread (R374, R427) -/

theorem State.noteTrigger_eq (s : State) (c : Nat) (k : BitVec 8) :
    s.noteTrigger c k = { s with recs := (s.noteTrigger c k).recs } := by
  unfold State.noteTrigger
  extract_lets g r
  split
  · split <;> rfl
  · rfl

/-- A fault that triggers a rollback leaves the block where it is. -/
theorem State.mtFault_of_rollsBack {s : State} {c : Nat} {e : Exc} (h : s.rollsBack c e.cause = true) (i : Nat) (m : Mt) :
    s.mtFault c i m e = s.noteTrigger c e.cause := by
  simp only [State.mtFault, h, if_true]

theorem State.mtFault_of_not_rollsBack {s : State} {c : Nat} {e : Exc} (h : ¬ s.rollsBack c e.cause = true) (i : Nat)
    (m : Mt) : ∃ x, s.mtFault c i m e = (((s.noteTrigger c e.cause).letGo c i).setMt c i
      { m with state := .faulted, cause := e.cause, faultAddr := e.val, blk := none }).setCtx c x := by
  unfold State.mtFault
  rw [if_neg h]
  extract_lets t u x due
  have : due = u ∨ ∃ y, due = u.setCtx c y := by
    unfold due
    split
    · exact .inr ⟨_, rfl⟩
    · exact .inl rfl
  rcases this with h | ⟨y, h⟩
  · rw [h]
    exact ⟨_, rfl⟩
  · rw [h]
    exact ⟨_, State.setCtx_setCtx ..⟩

theorem State.beginOnly_mtFault (s : State) (c i : Nat) (m : Mt) (e : Exc) : s.BeginOnly (s.mtFault c i m e) := by
  have note : s.BeginOnly (s.noteTrigger c e.cause) := by
    unfold State.BeginOnly
    rw [State.noteTrigger_eq]
  by_cases h : s.rollsBack c e.cause = true
  · rw [State.mtFault_of_rollsBack h]
    exact note
  · obtain ⟨x, hx⟩ := State.mtFault_of_not_rollsBack h i m
    rw [hx]
    exact ((note.trans (State.beginOnly_letGo ..)).trans (State.beginOnly_setMt ..)).trans (State.beginOnly_setCtx ..)

theorem State.blk_mtFault {s : State} {c i : Nat} (m : Mt) (e : Exc) (hb : (s.mt c i).blk = none) :
    ((s.mtFault c i m e).mt c i).blk = none := by
  by_cases h : s.rollsBack c e.cause = true
  · rw [State.mtFault_of_rollsBack h, State.noteTrigger_eq]
    exact hb
  · obtain ⟨x, hx⟩ := State.mtFault_of_not_rollsBack h i m
    rw [hx, State.mt_setCtx, State.mt_setMt_self]

/-! ### The checker's choice (R421) -/

/-- The choice is recorded in the entry when the first micro-thread begins its broadcast. -/
theorem State.pick_cases (s : State) (c : Nat) (e : SeqEntry) (k : Nat) :
    s.pick c e k = s ∨ ∃ p l, s.pick c e k = { s.setEntry c { e with picks := p } with lfsr := l } := by
  unfold State.pick
  split
  · exact .inl rfl
  · exact .inr ⟨_, _, rfl⟩

/-- Only the sequencer of the context changes, and checkers. -/
theorem State.pick_eq (s : State) (c : Nat) (e : SeqEntry) (k : Nat) :
    s.pick c e k = { s with ctxs := (s.pick c e k).ctxs, lfsr := (s.pick c e k).lfsr } := by
  rcases s.pick_cases c e k with h | ⟨p, l, h⟩
  · rw [h]
  · rw [h]
    rfl

theorem State.beginOnly_pick (s : State) (c : Nat) (e : SeqEntry) (k : Nat) : s.BeginOnly (s.pick c e k) := by
  unfold State.BeginOnly
  rw [State.pick_eq]

theorem State.mt_pick (s : State) (c : Nat) (e : SeqEntry) (k d i : Nat) : (s.pick c e k).mt d i = s.mt d i := by
  rw [State.pick_eq]
  rfl

theorem State.ctx_setEntry (s : State) (c : Nat) (e : SeqEntry) : (s.setEntry c e).ctx c =
    { s.ctx c with seq := (s.ctx c).seq.map (fun f => if f.id = e.id then e else f) } :=
  State.ctx_setCtx_self ..

theorem State.ctx_pick (s : State) (c : Nat) (e : SeqEntry) (k : Nat) :
    (s.pick c e k).ctx c = { s.ctx c with seq := ((s.pick c e k).ctx c).seq } := by
  rcases s.pick_cases c e k with h | ⟨p, l, h⟩
  · rw [h]
  · have ctx : (s.pick c e k).ctx c = (s.setEntry c { e with picks := p }).ctx c := by rw [h]; rfl
    rw [ctx, State.ctx_setEntry]

/-- The entry of a number, after the entry of that number is replaced. -/
theorem find_map_setEntry {l : List SeqEntry} {e f : SeqEntry} (hf : f.id = e.id)
    (he : l.find? (fun d => d.id == e.id) = some e) :
    (l.map (fun d => if d.id = f.id then f else d)).find? (fun d => d.id == e.id) = some f := by
  have same : ((fun d : SeqEntry => d.id == e.id) ∘ fun d => if d.id = f.id then f else d) = fun d => d.id == e.id := by
    funext d
    simp only [Function.comp]
    split
    · next h => rw [h]
    · rfl
  rw [List.find?_map, same, he, Option.map_some, if_pos hf.symm]

/-- The entry that carries the broadcast differs after the choice only in the choices that it records. -/
theorem State.find_pick {s : State} {c : Nat} {e : SeqEntry} (k : Nat)
    (he : (s.ctx c).seq.find? (fun f => f.id == e.id) = some e) :
    ∃ p, ((s.pick c e k).ctx c).seq.find? (fun f => f.id == e.id) = some { e with picks := p } := by
  rcases s.pick_cases c e k with h | ⟨p, l, h⟩
  · exact ⟨e.picks, by rw [h]; exact he⟩
  · have ctx : (s.pick c e k).ctx c = (s.setEntry c { e with picks := p }).ctx c := by rw [h]; rfl
    refine ⟨p, ?_⟩
    rw [ctx, State.ctx_setEntry]
    exact find_map_setEntry (f := { e with picks := p }) rfl he

/-! ### The words of a block do not depend on the checker's choice -/

section Pick
variable (s : State) (c : Nat) (e : SeqEntry) (k : Nat)

theorem State.codePlace_pick (va : Word) : (s.pick c e k).codePlace c va = s.codePlace c va := by
  have vspace : ((s.pick c e k).ctx c).vspace = (s.ctx c).vspace := by rw [State.ctx_pick]
  have tr (cl space : Nat) : (s.pick c e k).vecTr cl space .app va .x = s.vecTr cl space .app va .x := by
    rw [State.pick_eq]
    rfl
  simp only [State.codePlace, vspace, tr]

theorem State.codeWord_pick (t : Tr) (va : Word) : (s.pick c e k).codeWord c t va = s.codeWord c t va := by
  rw [State.pick_eq]
  rfl

theorem State.blockWords_pick (n : Nat) (va : Word) (held : List IWord) :
    (s.pick c e k).blockWords c n va held = s.blockWords c n va held := by
  have bound : ((s.pick c e k).ctx c).codebound = (s.ctx c).codebound := by rw [State.ctx_pick]
  induction n generalizing va held with
  | zero => rfl
  | succ n ih => simp only [State.blockWords, bound, State.codePlace_pick, State.codeWord_pick, ih]

theorem State.blockFetch_pick (va : Word) (held : List IWord) :
    (s.pick c e k).blockFetch c va held = s.blockFetch c va held := by
  simp only [State.blockFetch, State.blockWords_pick]

end Pick

/-! ### A block fetched and begun -/

/-- The micro-thread on which a block begins (R42, R43). -/
def Mt.begun (m : Mt) (g : Begin) (b : Blk) : Mt :=
  { m with state := .running, block := g.addr, chain := g.chain, bare := g.bare, ent := g.ent, left := g.left,
           blk := some b }

section Begin
variable {s : State} {c i : Nat} {g : Begin} {cap : Captured} {held : List IWord} {k : Nat} {checked : Bool}

theorem State.beginBlock_of_ok {ws : List IWord} (ha : g.addr.toNat % 4 = 0) (hf : s.blockFetch c g.addr held = .ok ws)
    (ho : offender ws = none) :
    s.beginBlock c i g cap held k checked = (s.blockFill c g.addr ws.length held.length).setMt c i
      ((s.mt c i).begun g ((s.mt c i).start cap g.addr ws k checked)) := by
  simp only [State.beginBlock, ha, ne_eq, not_true_eq_false, if_false, hf, ho]
  rfl

/-- The micro-thread begins the block, or faults: a block that stands then has no offending word (R390, R397). -/
theorem State.beginBlock_cases :
    s.BeginOnly (s.beginBlock c i g cap held k checked) ∧
      ((s.mt c i).blk = none → ∀ b, ((s.beginBlock c i g cap held k checked).mt c i).blk = some b →
        ∃ ws, offender ws = none ∧ b = (s.mt c i).start cap g.addr ws k checked) := by
  unfold State.beginBlock
  extract_lets m past
  split
  · next cause _ =>
    extract_lets t
    have record : s.BeginOnly t ∧ t.mt c i = s.mt c i := by
      unfold t
      split
      · exact ⟨rfl, rfl⟩
      · exact ⟨rfl, rfl⟩
    refine ⟨record.1.trans (State.beginOnly_mtFault ..), fun hb b h => ?_⟩
    rw [State.blk_mtFault _ _ (by rw [record.2]; exact hb)] at h
    cases h
  · next ws _ =>
    extract_lets t
    have fills : s.Fills t c := s.fills_blockFill c g.addr ws.length held.length
    split
    · refine ⟨fills.beginOnly.trans (State.beginOnly_mtFault ..), fun hb b h => ?_⟩
      rw [State.blk_mtFault _ _ (by rw [fills.mt]; exact hb)] at h
      cases h
    · next ho =>
      refine ⟨fills.beginOnly.trans (State.beginOnly_setMt ..), fun _ b h => ⟨ws, ho, ?_⟩⟩
      rw [State.mt_setMt_self] at h
      exact (Option.some.inj h).symm

end Begin

end Sys2Proof.Machine
end

section
/-!
PROOFS. The steps that begin and commit a block (R39, R42, R43, R46, R47, R151, R246, R314, R423, R436).
-/

namespace Sys2Proof.Machine

/-! ### BLOCK_BEGIN -/

theorem exec_blockBegin (s : State) : exec .blockBegin s = execBlockBegin s := rfl

/-- The words of a block that its entry holds for the micro-thread: those of a chained block are fetched (R173). -/
def SeqEntry.heldFor (e : SeqEntry) (g : Begin) : List IWord := if g.chain || g.addr != e.addr then [] else e.held

theorem SeqEntry.heldFor_eq (e : SeqEntry) (g : Begin) :
    e.heldFor g = if g.chain = true ∨ g.addr ≠ e.addr then [] else e.held := by
  simp only [SeqEntry.heldFor, Bool.or_eq_true, bne_iff_ne]

/-- The entry from which a micro-thread begins, if it has one (R42, R375). -/
def State.beginEntry (s : State) (c : Nat) (g : Begin) : Option SeqEntry :=
  if g.bare then none else (s.ctx c).seq.find? (fun f => f.id == g.ent)

section Begin
variable {s : State} {g : Begin}

theorem exec_blockBegin_of_nothing
    (h : (s.ctx s.arg.unit).nextBegin (s.mt s.arg.unit s.arg.index) = none ∨ s.mayBegin s.arg.unit s.arg.index = false) :
    exec .blockBegin s = .next s := by
  rw [exec_blockBegin, execBlockBegin]
  rcases h with h | h
  · simp only [h]
  · simp only [h, Bool.false_eq_true, if_false]
    split <;> rfl

variable (hg : (s.ctx s.arg.unit).nextBegin (s.mt s.arg.unit s.arg.index) = some g)
  (hm : s.mayBegin s.arg.unit s.arg.index = true)
include hg hm

/-- A micro-thread that runs without an entry captures the registers as they stand (R375). -/
theorem exec_blockBegin_of_no_entry (he : s.beginEntry s.arg.unit g = none) :
    exec .blockBegin s = .next (if s.beginWaits s.arg.unit g [] then s else
      (s.beginBlock s.arg.unit s.arg.index g (s.ctx s.arg.unit).capture [] 0 false).sweepSeq s.arg.unit) := by
  rw [State.beginEntry] at he
  rw [exec_blockBegin, execBlockBegin]
  simp only [hg, hm, he, if_true]
  split <;> rfl

variable {e : SeqEntry} (he : s.beginEntry s.arg.unit g = some e)
include he

theorem exec_blockBegin_of_wait (hw : s.beginWaits s.arg.unit g (e.heldFor g) = true) :
    exec .blockBegin s = .next s := by
  rw [State.beginEntry] at he
  rw [SeqEntry.heldFor] at hw
  rw [exec_blockBegin, execBlockBegin]
  simp only [hg, hm, he, hw, if_true]

/-- R42, R44, R421: the block begins after the checker's choice with what its entry captured; of the state that leaves
only the context changes further. -/
theorem exec_blockBegin_of_entry (hw : s.beginWaits s.arg.unit g (e.heldFor g) = false) :
    ∃ (t : State) (checked : Bool), exec .blockBegin s = .next t ∧
      t = { (s.pick s.arg.unit e (e.count - 1 - g.left)).beginBlock s.arg.unit s.arg.index g e.cap (e.heldFor g)
              (e.count - 1 - g.left) checked with ctxs := t.ctxs } := by
  have hid : (s.ctx s.arg.unit).seq.find? (fun f => f.id == e.id) = some e := by
    rw [State.beginEntry] at he
    split at he
    · cases he
    · have hn : e.id = g.ent := by simpa using List.find?_some he
      rw [hn]
      exact he
  obtain ⟨p, found⟩ := State.find_pick (e.count - 1 - g.left) hid
  rw [State.beginEntry] at he
  rw [SeqEntry.heldFor] at hw ⊢
  rw [exec_blockBegin, execBlockBegin]
  simp only [hg, hm, he, hw, found, if_true, Bool.false_eq_true, if_false, Option.getD_some]
  refine ⟨_, look 512 p (e.count - 1 - g.left) == s.arg.index, rfl, ?_⟩
  generalize State.beginBlock _ _ _ _ _ _ _ _ = u
  split
  · split <;> rfl
  · rfl

end Begin

/-- A micro-thread that may begin runs no block. -/
theorem State.blk_of_mayBegin {s : State} {c i : Nat} (h : s.mayBegin c i = true) : (s.mt c i).blk = none := by
  simp only [State.mayBegin, Bool.and_eq_true, Option.isNone_iff_eq_none] at h
  exact h.1.2

/-- R42, R44, R390: what a begin can change, and of the block that then stands the address, the registers and the words;
with an entry, what it captured and the number of the repetition. -/
theorem exec_blockBegin_frame {s : State} {g : Begin}
    (hg : (s.ctx s.arg.unit).nextBegin (s.mt s.arg.unit s.arg.index) = some g)
    (hm : s.mayBegin s.arg.unit s.arg.index = true) :
    ∃ t, exec .blockBegin s = .next t ∧ s.BeginOnly t ∧
      ∀ b, (t.mt s.arg.unit s.arg.index).blk = some b → ∃ cap ws k checked, offender ws = none ∧
        b = (s.mt s.arg.unit s.arg.index).start cap g.addr ws k checked ∧
        ∀ e, s.beginEntry s.arg.unit g = some e → cap = e.cap ∧ k = e.count - 1 - g.left := by
  have idle := State.blk_of_mayBegin hm
  cases he : s.beginEntry s.arg.unit g with
  | none =>
    refine ⟨_, exec_blockBegin_of_no_entry hg hm he, ?_⟩
    split
    · exact ⟨rfl, fun b h => by rw [idle] at h; cases h⟩
    · obtain ⟨frame, stands⟩ := State.beginBlock_cases (s := s) (c := s.arg.unit) (i := s.arg.index) (g := g)
        (cap := (s.ctx s.arg.unit).capture) (held := []) (k := 0) (checked := false)
      refine ⟨frame.trans (State.beginOnly_setCtx ..), fun b h => ?_⟩
      obtain ⟨ws, ho, hb⟩ := stands idle b h
      exact ⟨_, ws, _, _, ho, hb, fun e h => by cases h⟩
  | some e =>
    by_cases hw : s.beginWaits s.arg.unit g (e.heldFor g) = true
    · exact ⟨s, exec_blockBegin_of_wait hg hm he hw, rfl, fun b h => by rw [idle] at h; cases h⟩
    · obtain ⟨t, checked, step, ht⟩ := exec_blockBegin_of_entry hg hm he (Bool.eq_false_iff.mpr hw)
      obtain ⟨frame, stands⟩ := State.beginBlock_cases (s := s.pick s.arg.unit e (e.count - 1 - g.left))
        (c := s.arg.unit) (i := s.arg.index) (g := g) (cap := e.cap) (held := e.heldFor g) (k := e.count - 1 - g.left)
        (checked := checked)
      rw [State.mt_pick] at stands
      refine ⟨t, step, ?_, fun b h => ?_⟩
      · rw [ht]
        exact ((State.beginOnly_pick ..).trans frame).trans rfl
      · rw [ht] at h
        obtain ⟨ws, ho, hb⟩ := stands idle b h
        exact ⟨_, ws, _, _, ho, hb, fun f hf => by cases hf; exact ⟨rfl, rfl⟩⟩

/-- R42, R44: a block that can be fetched and holds no offending word begins on a micro-thread without an entry. -/
theorem exec_blockBegin_bare {s : State} {g : Begin} {ws : List IWord}
    (hg : (s.ctx s.arg.unit).nextBegin (s.mt s.arg.unit s.arg.index) = some g)
    (hm : s.mayBegin s.arg.unit s.arg.index = true) (he : s.beginEntry s.arg.unit g = none)
    (ha : g.addr.toNat % 4 = 0) (hw : s.beginWaits s.arg.unit g [] = false)
    (hf : s.blockFetch s.arg.unit g.addr [] = .ok ws) (ho : offender ws = none) :
    ∃ t, exec .blockBegin s = .next t ∧ t.mt s.arg.unit s.arg.index = (s.mt s.arg.unit s.arg.index).begun g
      ((s.mt s.arg.unit s.arg.index).start (s.ctx s.arg.unit).capture g.addr ws 0 false) := by
  refine ⟨_, exec_blockBegin_of_no_entry hg hm he, ?_⟩
  rw [hw, if_neg Bool.false_ne_true, State.beginBlock_of_ok ha hf ho]
  exact State.mt_setMt_self ..

/-- The same under an entry, with what it captured. -/
theorem exec_blockBegin_entry {s : State} {g : Begin} {e : SeqEntry} {ws : List IWord}
    (hg : (s.ctx s.arg.unit).nextBegin (s.mt s.arg.unit s.arg.index) = some g)
    (hm : s.mayBegin s.arg.unit s.arg.index = true) (he : s.beginEntry s.arg.unit g = some e)
    (ha : g.addr.toNat % 4 = 0) (hw : s.beginWaits s.arg.unit g (e.heldFor g) = false)
    (hf : s.blockFetch s.arg.unit g.addr (e.heldFor g) = .ok ws) (ho : offender ws = none) :
    ∃ (t : State) (checked : Bool), exec .blockBegin s = .next t ∧
      t.mt s.arg.unit s.arg.index = (s.mt s.arg.unit s.arg.index).begun g
        ((s.mt s.arg.unit s.arg.index).start e.cap g.addr ws (e.count - 1 - g.left) checked) := by
  obtain ⟨t, checked, step, ht⟩ := exec_blockBegin_of_entry hg hm he hw
  rw [← State.blockFetch_pick s s.arg.unit e (e.count - 1 - g.left)] at hf
  rw [State.beginBlock_of_ok ha hf ho, State.mt_pick] at ht
  refine ⟨t, checked, step, ?_⟩
  rw [ht]
  exact State.mt_setMt_self ..

/-! ### BLOCK_COMMIT -/

theorem exec_blockCommit (s : State) : exec .blockCommit s = execBlockCommit s := rfl

/-- The block stands past its last word, and nothing that it has asked for is on its way (R38). -/
abbrev Blk.Ended (b : Blk) : Prop := b.words.length ≤ b.pos ∧ b.trip = false ∧ b.wait = none

/-- The next micro-thread's link-in queue has room for what the block pushes (R46, R47). -/
abbrev State.Room (s : State) (c i : Nat) (b : Blk) : Prop :=
  let j := (i + 1) % max 1 (s.ctx c).vl
  let queue := if j = i then (s.mt c i).linkq.drop b.pops else (s.mt c j).linkq
  b.pushes = [] ∨ queue.length + b.pushes.length ≤ 4

theorem State.noRoom_eq_false_iff {s : State} {c i : Nat} {b : Blk} : s.noRoom c i b = false ↔ s.Room c i b := by
  simp only [State.noRoom, State.Room, Bool.and_eq_false_iff, decide_eq_false_iff_not, not_lt, Bool.not_eq_false',
    List.isEmpty_iff]
  exact or_comm

/-- No byte that the block has read has changed, or the block may not run again (R151). -/
abbrev State.Fresh (s : State) (b : Blk) : Prop := b.runs < 2 → b.decided = false → s.staleLoad b = false

/-- The checker has found no mismatch (R421, R423). -/
abbrev State.Matches (s : State) (b : Blk) : Prop := ¬ (b.checked = true ∧ s.arg.flag = true ∧ b.decided = false)

/-- What narrow stores merge with is right, or the commit has been decided (R39, R314). -/
abbrev State.Merges (s : State) (c i : Nat) (b : Blk) : Prop := b.decided = true ∨ s.narrowBad c i b = none

/-- The micro-thread's registers after its block (R39). -/
def Mt.committed (m : Mt) (b : Blk) (w : Table Word) (d : BitVec 23) : Mt :=
  { m with w := w, p := b.p, flags := m.flags ||| b.flags, dirty := m.dirty ||| d, blk := none
           linkq := m.linkq.drop b.pops }

/-- The block's registers and link entries take effect, after its stores (R39, R43, R46). -/
def State.commits (t : State) (c i j : Nat) (m : Mt) (b : Blk) : State :=
  let u := (t.afterCommit c m b).1.setMt c i (t.afterCommit c m b).2
  let u := u.putMt c j { u.mt c j with linkq := (u.mt c j).linkq ++ b.pushes }
  ((u.letGo c i).rotate c i).sweepSeq c

/-! The conditions of the step, as it evaluates them. -/

theorem Blk.ended_iff {b : Blk} : b.Ended ↔ (decide (b.pos < b.words.length) || b.trip || b.wait.isSome) = false := by
  simp only [Blk.Ended, Bool.or_eq_false_iff, decide_eq_false_iff_not, not_lt, Option.isSome_eq_false_iff,
    Option.isNone_iff_eq_none, and_assoc]

theorem State.fresh_iff {s : State} {b : Blk} :
    s.Fresh b ↔ (decide (b.runs < 2) && !b.decided && s.staleLoad b) = false := by
  simp only [State.Fresh, Bool.and_eq_false_iff, decide_eq_false_iff_not, Bool.not_eq_false']
  grind

theorem State.matches_iff {s : State} {b : Blk} : s.Matches b ↔ (b.checked && s.arg.flag && !b.decided) = false := by
  simp only [State.Matches, ← Bool.not_eq_true, Bool.and_eq_true, Bool.not_eq_eq_eq_not, Bool.not_true, and_assoc]

/-- A block that nothing stops before its accesses are tried. -/
theorem State.commit_guards {s : State} {c i : Nat} {b : Blk} (ended : b.Ended) (room : s.Room c i b) (fresh : s.Fresh b)
    (good : s.Matches b) :
    (decide (b.pos < b.words.length) || b.trip || b.wait.isSome) = false ∧ s.noRoom c i b = false ∧
      (decide (b.runs < 2) && !b.decided && s.staleLoad b) = false ∧
      (b.checked && s.arg.flag && !b.decided) = false :=
  ⟨Blk.ended_iff.mp ended, State.noRoom_eq_false_iff.mpr room, State.fresh_iff.mp fresh, State.matches_iff.mp good⟩

theorem State.Merges.narrow {s : State} {c i : Nat} {b : Blk} (h : s.Merges c i b) :
    (if b.decided = true then none else s.narrowBad c i b) = none := by
  split
  · rfl
  · next hd => exact h.resolve_left hd

theorem exec_blockCommit_of_no_block {s : State} (h : (s.mt s.arg.unit s.arg.index).blk = none) :
    exec .blockCommit s = .next s := by
  rw [exec_blockCommit, execBlockCommit]
  simp only [h]

section Commit
variable {s : State} {b : Blk} (hb : (s.mt s.arg.unit s.arg.index).blk = some b)
include hb

theorem exec_blockCommit_of_not_ended (h : ¬ b.Ended) : exec .blockCommit s = .next s := by
  rw [Blk.ended_iff, Bool.not_eq_false] at h
  rw [exec_blockCommit, execBlockCommit]
  simp only [hb, h, if_true]

variable (ended : b.Ended)
include ended

/-- R46, R47: a block holds at commit while the next micro-thread's queue has no room. -/
theorem exec_blockCommit_of_no_room (h : ¬ s.Room s.arg.unit s.arg.index b) :
    exec .blockCommit s = .next (s.setMt s.arg.unit s.arg.index { s.mt s.arg.unit s.arg.index with
      blk := some { b with heldSince := some (b.heldSince.getD s.now) } }) := by
  rw [← State.noRoom_eq_false_iff, Bool.not_eq_false] at h
  rw [exec_blockCommit, execBlockCommit]
  simp only [hb, Blk.ended_iff.mp ended, h, Bool.false_eq_true, if_false, if_true]

variable (room : s.Room s.arg.unit s.arg.index b)
include room

/-- R151: a block that has read a byte which has changed runs again. -/
theorem exec_blockCommit_of_stale (h : ¬ s.Fresh b) :
    exec .blockCommit s = .next (s.reRun s.arg.unit s.arg.index (s.mt s.arg.unit s.arg.index) b) := by
  rw [State.fresh_iff, Bool.not_eq_false] at h
  rw [exec_blockCommit, execBlockCommit]
  simp only [hb, Blk.ended_iff.mp ended, State.noRoom_eq_false_iff.mpr room, h, Bool.false_eq_true, if_false, if_true]

variable (fresh : s.Fresh b)
include fresh

/-- R423: a mismatch of the checker is a silent error. -/
theorem exec_blockCommit_of_mismatch (h : ¬ s.Matches b) :
    exec .blockCommit s = .next ((s.silentError s.arg.unit s.arg.index).mtFault s.arg.unit s.arg.index
      (s.mt s.arg.unit s.arg.index) { cause := 0x28, val := BitVec.ofNat 64 s.arg.index }) := by
  rw [State.matches_iff, Bool.not_eq_false] at h
  rw [exec_blockCommit, execBlockCommit]
  simp only [hb, Blk.ended_iff.mp ended, State.noRoom_eq_false_iff.mpr room, State.fresh_iff.mp fresh, h,
    Bool.false_eq_true, if_false, if_true]

variable (good : s.Matches b)
include good

/-- R39, R314: a narrow store that would merge with a wrong doubleword faults the micro-thread. -/
theorem exec_blockCommit_of_narrowBad {e : Exc} {t : State} (hd : b.decided = false)
    (h : s.narrowBad s.arg.unit s.arg.index b = some (e, t)) :
    exec .blockCommit s = .next (t.mtFault s.arg.unit s.arg.index (s.mt s.arg.unit s.arg.index) e) := by
  have narrow : (if b.decided = true then none else s.narrowBad s.arg.unit s.arg.index b) = some (e, t) := by
    rw [hd, if_neg Bool.false_ne_true, h]
  rw [exec_blockCommit, execBlockCommit]
  simp only [hb, State.commit_guards ended room fresh good, Bool.false_eq_true, if_false, narrow]

variable (merges : s.Merges s.arg.unit s.arg.index b)
include merges

theorem exec_blockCommit_of_wait
    (h : s.commitStores s.arg.unit s.arg.index b.localStores b.w b.dirty = .wait) :
    exec .blockCommit s = .next (s.waitCommit s.arg.unit s.arg.index (s.mt s.arg.unit s.arg.index) b) := by
  rw [exec_blockCommit, execBlockCommit]
  simp only [hb, State.commit_guards ended room fresh good, Bool.false_eq_true, if_false, merges.narrow, h]

/-- R39: where an access fails none of the block's takes place; only the record of a mismatch stays. -/
theorem exec_blockCommit_of_fault {e : Exc} {t : State}
    (h : s.commitStores s.arg.unit s.arg.index b.localStores b.w b.dirty = .fault e t) :
    exec .blockCommit s = .next ({ s with scriv := t.scriv, scrivNext := t.scrivNext }.mtFault s.arg.unit s.arg.index
      (s.mt s.arg.unit s.arg.index) e) := by
  rw [exec_blockCommit, execBlockCommit]
  simp only [hb, State.commit_guards ended room fresh good, Bool.false_eq_true, if_false, merges.narrow, h]

variable {w : Table Word} {d : BitVec 23} {t : State}
  (made : s.commitStores s.arg.unit s.arg.index b.localStores b.w b.dirty = .ok w d t)
include made

theorem exec_blockCommit_of_remoteAtomic {e : BlkStore} (h : b.remoteAtomic = some e) :
    exec .blockCommit s = .next (s.sendAtomic s.arg.unit s.arg.index (s.mt s.arg.unit s.arg.index) b e) := by
  rw [exec_blockCommit, execBlockCommit]
  simp only [hb, State.commit_guards ended room fresh good, Bool.false_eq_true, if_false, merges.narrow, made, h]

theorem exec_blockCommit_of_made (h : b.remoteAtomic = none) :
    exec .blockCommit s = .next (t.commits s.arg.unit s.arg.index
      ((s.arg.index + 1) % max 1 (s.ctx s.arg.unit).vl) ((s.mt s.arg.unit s.arg.index).committed b w d) b) := by
  rw [exec_blockCommit, execBlockCommit]
  simp only [hb, State.commit_guards ended room fresh good, Bool.false_eq_true, if_false, merges.narrow, made, h]
  rfl

end Commit

theorem State.mt_sendAtomic (s : State) (c i : Nat) (m : Mt) (b : Blk) (e : BlkStore) :
    (s.sendAtomic c i m b e).mt c i =
      { m with blk := some { b with decided := true, wait := some (e.rd, 8, false, e.pa) } } :=
  State.mt_setMt_self ..

/-- R423, R436: the record of a mismatch, and the lane's count of them. -/
theorem State.silentError_eq (s : State) (c i : Nat) :
    let cl := clusterOfCtx c
    let lane := s.laneOf c i
    let k := s.cluster cl
    s.silentError c i = (s.laneRecord 0x10 (s.partOf (c / 4)) cl lane (c / 4) i).setCluster cl
      (if lane ∈ k.silent then { k with retiring := setIns k.retiring lane }
       else { k with silent := setIns k.silent lane }) := by
  intro cl lane k
  have cluster : (s.laneRecord 0x10 (s.partOf (c / 4)) cl lane (c / 4) i).cluster cl = k := rfl
  rw [State.silentError]
  simp only [cl, lane, k, List.contains_iff_mem] at cluster ⊢
  rw [cluster]
  split <;> rfl

/-- A block with no access commits its registers alone. -/
theorem commit_of_no_stores (s : State) (c i : Nat) {b : Blk} (h : b.stores = []) :
    s.commitStores c i b.localStores b.w b.dirty = .ok b.w b.dirty s ∧ s.narrowBad c i b = none ∧
      b.remoteAtomic = none := by
  refine ⟨?_, ?_, ?_⟩
  · rw [Blk.localStores, h, List.map_nil, State.commitStores]
  · rw [State.narrowBad, h, List.findSome?_nil]
  · rw [Blk.remoteAtomic, h, List.find?_nil]

/-- Settles O53: a begin by whether the micro-thread has an entry, a commit by the first condition that stops it. -/
theorem blockEvents : Obligations.BlockEvents := by
  intro s c i x m j
  refine ⟨exec_blockBegin_of_nothing, fun g hg hm => ?begin, exec_blockCommit_of_no_block, fun b hb => ?commit⟩
  case begin =>
    intro begun found
    have entry (hbare : g.bare = false) : s.beginEntry c g = found := by
      rw [State.beginEntry, hbare]
      rfl
    refine ⟨?frame, fun ws hbare ha hw hf ho => ?bare, fun e ws hbare he ha => ?entry⟩
    case frame =>
      obtain ⟨t, step, frame, stands⟩ := exec_blockBegin_frame hg hm
      refine ⟨t, step, frame, fun b h => ?_⟩
      obtain ⟨cap, ws, k, checked, ho, rfl, hcap⟩ := stands b h
      exact ⟨rfl, rfl, rfl, rfl, ho, fun e hbare he => hcap e ((entry hbare).trans he)⟩
    case bare => exact exec_blockBegin_bare hg hm (by rw [State.beginEntry, hbare]; rfl) ha hw hf ho
    case entry =>
      intro held
      have he' : s.beginEntry c g = some e := (entry hbare).trans he
      have hheld : e.heldFor g = held := e.heldFor_eq g
      rw [← hheld]
      exact ⟨exec_blockBegin_of_wait hg hm he', fun hw hf ho => exec_blockBegin_entry hg hm he' ha hw hf ho⟩
  case commit =>
    intro queue ended room fresh good merges made
    refine ⟨exec_blockCommit_of_not_ended hb, exec_blockCommit_of_no_room hb, exec_blockCommit_of_stale hb,
      exec_blockCommit_of_mismatch hb, s.silentError_eq c i,
      fun e t he hr hf hg hd hn => exec_blockCommit_of_narrowBad hb he hr hf hg hd hn,
      fun he hr hf hg hm => ⟨exec_blockCommit_of_wait hb he hr hf hg hm,
        fun _ _ => exec_blockCommit_of_fault hb he hr hf hg hm, fun w d t hmade => ⟨fun e ha => ⟨?sends, ?sent⟩, ?takes⟩⟩,
      commit_of_no_stores s c i⟩
    case sends => exact exec_blockCommit_of_remoteAtomic hb he hr hf hg hm hmade ha
    case sent => exact s.mt_sendAtomic c i m b e
    case takes => exact exec_blockCommit_of_made hb he hr hf hg hm hmade

end Sys2Proof.Machine
end

section
/-!
PROOFS. The events of the Ostler and of lanes: a grant that returns, rotation, spills and restores, lanes that are cleared,
the frame, and revocation (R70, R73, R77-R83, R86, R310).
-/

namespace Sys2Proof.Machine

/-! ### A grant that a `setvl` waits for (R70) -/

theorem exec_setvlGrantReturn (s : State) : exec .setvlGrantReturn s = execSetvlGrantReturn s := rfl

theorem State.spillFails_of_bad {s : State} {c : Nat} {l : List Nat} (h : ∃ n ∈ l, s.spillBad c n = true) :
    s.spillFails c l = some ((s.mismatch 9 (s.partOf (c / 4)) (c / 4) 0).failContext c) := by
  rw [State.spillFails, if_pos (List.any_eq_true.mpr h)]

theorem State.spillFails_of_good {s : State} {c : Nat} {l : List Nat} (h : ∀ n ∈ l, s.spillBad c n = false) :
    s.spillFails c l = none := by
  rw [State.spillFails, if_neg (by simpa using h)]

theorem exec_setvlGrantReturn_of_not_parked {s : State} (h : (s.ctx s.arg.unit).run ≠ .parked .setvl) :
    exec .setvlGrantReturn s = .next s := by
  rw [exec_setvlGrantReturn, execSetvlGrantReturn]
  split
  · exact absurd ‹_› h
  · rfl

section Parked
variable {s : State} (parked : (s.ctx s.arg.unit).run = .parked .setvl)
include parked

/-- A request that can never be placed. -/
theorem exec_setvlGrantReturn_of_nofit (h : (s.ctx s.arg.unit).nofit = true) :
    exec .setvlGrantReturn s = .next ((s.dropGrant s.arg.unit).setCtx s.arg.unit
      (((s.dropGrant s.arg.unit).ctx s.arg.unit).wx (s.ctx s.arg.unit).loadRd 0).resume) := by
  simp only [exec_setvlGrantReturn, execSetvlGrantReturn, parked, h, if_true]

variable (fits : (s.ctx s.arg.unit).nofit = false)
include fits

theorem exec_setvlGrantReturn_of_waiting
    (h : ¬ (((s.ctx s.arg.unit).gstate = .granted ∨ (s.ctx s.arg.unit).gstate = .spilled) ∧
      (s.ctx s.arg.unit).joining = [])) : exec .setvlGrantReturn s = .next s := by
  simp only [exec_setvlGrantReturn, execSetvlGrantReturn, parked, fits, List.isEmpty_iff, h, if_false, Bool.false_eq_true]

variable (given : (s.ctx s.arg.unit).gstate = .granted ∨ (s.ctx s.arg.unit).gstate = .spilled)
  (whole : (s.ctx s.arg.unit).joining = [])
include given whole

/-- A spilled record that the settling reads is wrong (R310, R404). -/
theorem exec_setvlGrantReturn_of_bad (h : ∃ n ∈ s.settleReads s.arg.unit, s.spillBad s.arg.unit n = true) :
    exec .setvlGrantReturn s =
      .next ((s.mismatch 9 (s.partOf (s.arg.unit / 4)) (s.arg.unit / 4) 0).failContext s.arg.unit) := by
  simp only [exec_setvlGrantReturn, execSetvlGrantReturn, parked, fits, given, whole, List.isEmpty_nil, and_self, if_true,
    Bool.false_eq_true, if_false, State.spillFails_of_bad h]

theorem exec_setvlGrantReturn_of_good (h : ∀ n ∈ s.settleReads s.arg.unit, s.spillBad s.arg.unit n = false) :
    let c := s.arg.unit
    let y := (s.settle c).ctx c
    exec .setvlGrantReturn s = .next ((s.settle c).setCtx c
      (({ y with gstate := y.fitState } : Ctx).wx (s.ctx c).loadRd (BitVec.ofNat 64 y.vl)).resume) := by
  simp only [exec_setvlGrantReturn, execSetvlGrantReturn, parked, fits, given, whole, List.isEmpty_nil, and_self, if_true,
    Bool.false_eq_true, if_false, State.spillFails_of_good h]

end Parked

/-! ### Rotation and moves (R78-R80) -/

theorem exec_laneRotation (s : State) : exec .laneRotation s = execLaneRotation s := rfl

/-- The resident contexts of the lane that the step names. -/
def State.residents (s : State) (c slot : Nat) : List Nat :=
  (s.ctx c).locals.filter (fun n => (s.mt c n).slot == slot && decide ((s.mt c n).res = .resident))

/-- R80: the crew keeps the lane of a slot. -/
def Ctx.keeps (x : Ctx) (slot : Nat) : Prop := x.holds = true ∧ slot < x.spread ∧ ∀ e ∈ x.moves, e.1 ≠ slot

theorem State.heldLongest_nil (s : State) (c : Nat) : s.heldLongest c [] = none := rfl

theorem rotates_iff {s : State} {c slot : Nat} :
    ((s.residents c slot).all (s.isHeld c) = true ∧ (s.ctx c).holds = true ∧ slot < (s.ctx c).spread ∧
      (!(s.ctx c).moves.any (fun e => e.1 == slot)) = true) ↔
    (∀ n ∈ s.residents c slot, s.isHeld c n = true) ∧ (s.ctx c).keeps slot := by
  simp [Ctx.keeps]

theorem exec_laneRotation_of_held {s : State} {a b : Nat}
    (held : ∀ n ∈ s.residents s.arg.unit s.arg.index, s.isHeld s.arg.unit n = true)
    (keeps : (s.ctx s.arg.unit).keeps s.arg.index) (hb : s.spilledWaiting s.arg.unit s.arg.index = some b)
    (ha : s.heldLongest s.arg.unit (s.residents s.arg.unit s.arg.index) = some a) :
    let c := s.arg.unit
    let t := (s.abandon c a).setMt c a { (s.abandon c a).mt c a with res := .spilling }
    exec .laneRotation s = .next (t.setMt c b { t.mt c b with res := .restoring }) := by
  rw [State.residents] at ha
  rw [exec_laneRotation, execLaneRotation]
  simp only [hb, ha]
  exact if_pos (rotates_iff.mpr ⟨held, keeps⟩)

theorem exec_laneRotation_of_none {s : State}
    (h : (∃ n ∈ s.residents s.arg.unit s.arg.index, s.isHeld s.arg.unit n = false) ∨
      ¬ (s.ctx s.arg.unit).keeps s.arg.index ∨ s.spilledWaiting s.arg.unit s.arg.index = none ∨
      s.residents s.arg.unit s.arg.index = []) : exec .laneRotation s = .next s := by
  rw [exec_laneRotation, execLaneRotation]
  dsimp only
  split
  next rot =>
    obtain ⟨held, keeps⟩ := rotates_iff.mp rot
    split
    next hb ha =>
      rw [← State.residents] at ha
      obtain ⟨n, hn, free⟩ | left | none_ | empty := h
      · exact absurd (held n hn) (by simp [free])
      · exact absurd keeps left
      · simp [none_] at hb
      · simp [empty, State.heldLongest_nil] at ha
    next => rfl
  next => rfl

theorem exec_spillComplete (s : State) : exec .spillComplete s = execSpillComplete s := rfl

theorem Ctx.placedIn_iff {x : Ctx} {i : Nat} :
    x.placedIn i = true ↔ x.residentFor i = true ∧ ∀ e ∈ x.moves, e.1 ≠ x.slotFor i := by
  simp [Ctx.placedIn]

/-- The contexts of a crew that stay on the slot where another is placed, or come back to it. -/
def State.staying (s : State) (c i : Nat) : List Nat :=
  (s.ctx c).locals.filter (fun n => n != i && (s.ctx c).slotFor n == (s.ctx c).slotFor i &&
    (s.mt c n).slot == (s.ctx c).slotFor i &&
    (decide ((s.mt c n).res = .resident) || decide ((s.mt c n).res = .restoring)))

/-- R78-R80: a context that has left its lane can come back where the crew's lanes now put it. -/
abbrev State.ComesBack (s : State) (c i : Nat) : Prop :=
  (s.ctx c).residentFor i = true ∧ (∀ e ∈ (s.ctx c).moves, e.1 ≠ (s.ctx c).slotFor i) ∧
    ((s.mt c i).slot ≠ (s.ctx c).slotFor i ∨ (s.staying c i).length < 4)

theorem State.comesBack_iff {s : State} {c i : Nat} :
    ((s.ctx c).placedIn i && ((s.mt c i).slot != (s.ctx c).slotFor i || decide ((s.staying c i).length < 4))) = true ↔
      s.ComesBack c i := by
  rw [Bool.and_eq_true, Ctx.placedIn_iff, State.ComesBack, and_assoc]
  simp

/-- The context `i` off its lane, to be `r` there. -/
def State.leaves (s : State) (c i : Nat) (r : Res) : State :=
  (s.setMt c i { s.mt c i with slot := (s.ctx c).slotFor i, res := r, since := s.now }).poolStep (clusterOfCtx c)

theorem exec_spillComplete_eq (s : State) :
    let c := s.arg.unit
    let i := s.arg.index
    exec .spillComplete s = .next (if (s.mt c i).res = .spilling ∧ (s.mt c i).blk = none ∧ (s.ctx c).holds = true then
      s.leaves c i (if s.ComesBack c i then .restoring else .spilled) else s) := by
  intro c i
  have form : exec .spillComplete s =
      if (s.mt c i).res = .spilling ∧ (s.mt c i).blk.isNone ∧ (s.ctx c).holds then
        .next (s.leaves c i (if (s.ctx c).placedIn i && ((s.mt c i).slot != (s.ctx c).slotFor i ||
          decide ((s.staying c i).length < 4)) then .restoring else .spilled))
      else .next s := rfl
  simp only [form, State.comesBack_iff, Option.isNone_iff_eq_none]
  split <;> rfl

theorem exec_restoreComplete (s : State) : exec .restoreComplete s = execRestoreComplete s := rfl

theorem State.spillFails_one (s : State) (c i : Nat) : s.spillFails c [i] =
    if s.spillBad c i then some ((s.mismatch 9 (s.partOf (c / 4)) (c / 4) 0).failContext c) else none := by
  rw [State.spillFails, List.any_cons, List.any_nil, Bool.or_false]

/-- A context that would come back is resident unless its record is wrong. -/
theorem exec_restoreComplete_eq (s : State) :
    let c := s.arg.unit
    let i := s.arg.index
    let m := s.mt c i
    exec .restoreComplete s = .next (if m.res = .restoring ∧ ((s.ctx c).locals.filter (fun n => (s.mt c n).slot == m.slot &&
        (decide ((s.mt c n).res = .resident) || decide ((s.mt c n).res = .spilling)))).length < 4 ∧
          (s.ctx c).holds = true then
      (if s.spillBad c i then (s.mismatch 9 (s.partOf (c / 4)) (c / 4) 0).failContext c
       else (s.setMt c i { m with res := .resident, since := s.now }).poolStep (clusterOfCtx c)) else s) := by
  intro c i m
  rw [exec_restoreComplete, execRestoreComplete, State.spillFails_one]
  by_cases bad : s.spillBad c i = true
  · rw [if_pos bad, if_pos bad]
    split <;> rfl
  · rw [if_neg bad, if_neg bad]
    split <;> rfl

/-! ### Lanes -/

theorem exec_laneClearingDone (s : State) : exec .laneClearingDone s = execLaneClearingDone s := rfl

theorem exec_laneClearingDone_of_no_work {s : State}
    (h : ∀ w ∈ (s.cluster s.arg.unit).work, w.lane = s.arg.index → w.clearing = false) :
    exec .laneClearingDone s = .next s := by
  have none_ : (s.cluster s.arg.unit).work.find? (fun w => w.lane == s.arg.index && w.clearing) = none := by
    simpa using h
  simp only [exec_laneClearingDone, execLaneClearingDone, none_]

theorem exec_laneClearingDone_of_work {s : State} {w : LaneWork}
    (h : (s.cluster s.arg.unit).work.find? (fun w => w.lane == s.arg.index && w.clearing) = some w) :
    let c := s.arg.unit
    let i := s.arg.index
    let k := s.cluster c
    let t := (clearRange s (scratchKey c i) 0xF000).setCluster c { k with work := k.work.filter (fun v => v.lane != i) }
    exec .laneClearingDone s = .next ((if w.retire then (t.takeOut c i).dropSquare c i else match w.dest with
      | some d => t.joinLane d i
      | none => t).poolStep c) := by
  have lane : w.lane = s.arg.index := by
    have := List.find?_some h
    simp_all
  rw [exec_laneClearingDone, execLaneClearingDone]
  simp only [h, lane] <;> rfl

theorem exec_frameBoundary (s : State) : exec .frameBoundary s = .next
    (if s.now % 2048 = 0 ∧ s.arg.unit < 32 ∧ (s.cluster s.arg.unit).frame ≠ some s.now then
      (s.setCluster s.arg.unit { s.cluster s.arg.unit with frame := some s.now }).frame s.arg.unit else s) := by
  have e : exec .frameBoundary s = execFrameBoundary s := rfl
  rw [e, execFrameBoundary]
  split <;> rfl

theorem exec_laneRetirement (s : State) :
    let c := s.arg.unit
    let k := s.cluster c
    exec .laneRetirement s = .next (if c < 32 ∧ s.arg.index < 512 ∧ s.arg.index ∉ k.missing then
      (s.setCluster c { k with retiring := setIns k.retiring s.arg.index }).poolStep c else s) := by
  have e : exec .laneRetirement s = execLaneRetirement s := rfl
  simp only [e, execLaneRetirement, Bool.not_eq_true', List.contains_eq_mem, decide_eq_false_iff_not]
  split <;> rfl

/-! ### Revocation (R77, R82, R83) -/

theorem State.blkWaits_iff {s : State} {c n : Nat} {b : Blk} : s.blkWaits c n b = true ↔ b.decided = false ∧
    (b.trip = true ∨ b.wait ≠ none ∨ b.stalled = true ∨ s.blkHolds c n b = true) := by
  simp [State.blkWaits, or_assoc, Option.isSome_iff_ne_none]

theorem State.canSave_iff {s : State} {c : Nat} : s.canSave c = true ↔
    (s.ctx c).revoked ≠ none ∧ s.discarding c = false ∧ (s.ctx c).elemsSettled = true ∧ (s.ctx c).inVldb = false ∧
      (s.ctx c).loomStopped = true ∧ (∀ n ∈ (s.ctx c).locals, (s.mt c n).blk = none) ∧ s.saveWaits c = false := by
  simp [State.canSave, and_assoc, Option.isSome_iff_ne_none]

theorem exec_contextSave (s : State) :
    exec .contextSave s = .next (if s.canSave s.arg.unit then s.contextSave s.arg.unit else s) := by
  have e : exec .contextSave s = execContextSave s := rfl
  rw [e, execContextSave]
  split <;> rfl

end Sys2Proof.Machine
end

section
/-!
PROOFS. The events of the power controller (R85, R329, R330, R438), and all steps of the Ostler, of lanes and of the power
controller.
-/

namespace Sys2Proof.Machine

/-! ### Power (R85, R329, R330) -/

theorem foldl_max_le_iff (l : List Nat) (a n : Nat) : l.foldl max a ≤ n ↔ a ≤ n ∧ ∀ k ∈ l, k ≤ n := by
  induction l generalizing a with
  | nil => simp
  | cons k l ih => simp [ih, and_assoc]

theorem State.clockFloor_le_iff {s : State} {c mhz : Nat} :
    s.clockFloor c ≤ mhz ↔ 1200 ≤ mhz ∧ ∀ r ∈ s.gangsOn c, (s.lrec r).fmin ≤ mhz := by
  simp [State.clockFloor, foldl_max_le_iff]

/-- R329: the clocks that firmware may set. -/
theorem State.clockOk_iff {s : State} {c mhz w : Nat} : s.clockOk c mhz w = true ↔
    mhz % 100 = 0 ∧ 1200 ≤ mhz ∧ mhz ≤ 3600 ∧ (∀ r ∈ s.gangsOn c, (s.lrec r).fmin ≤ mhz) ∧
      (mhz ≤ 3300 ∨ (∀ r ∈ s.gangsOn c, (s.lrec r).fld 13 1 = 1) ∧ w < look 450 s.power c) := by
  rw [← State.share]
  simp only [State.clockOk, State.clockFloor_le_iff, State.boostDie, Bool.and_eq_true, Bool.or_eq_true,
    decide_eq_true_eq, beq_iff_eq, List.all_eq_true]
  tauto

theorem State.tryClock_eq (s : State) (c mhz w : Nat) : s.tryClock c mhz w =
    if s.clockOk c mhz w = true ∨ mhz % 100 = 0 ∧ s.clockFloor c ≤ mhz ∧ mhz < s.clock c then s.setClock c mhz else s := by
  simp [State.tryClock, and_assoc]

theorem State.clock_setClock (s : State) (c mhz : Nat) : (s.setClock c mhz).clock c = mhz := look_put_self ..

/-- R4, R329: the cycles that have gone by stay counted. -/
theorem State.cycles_setClock (s : State) (c mhz : Nat) : (s.setClock c mhz).cycles c = s.cycles c := by
  have base : look (0, 0) (s.setClock c mhz).clockBase c = (s.now, s.cycles c) := look_put_self ..
  have now : (s.setClock c mhz).now = s.now := rfl
  rw [State.cycles, base, now, Nat.sub_self, Nat.zero_mul, Nat.add_zero]

theorem State.stepAlc_single {s : State} {c n : Nat} {low : Bool} (h : s.alcCrews c low = [n]) :
    let y := s.ctx n
    s.stepAlc c low = ((s.setCtx n { y with
      alc := if low then max y.floorLanes (y.alc - 2) else min y.target (y.alc + 2) }).respread n).settleMoves n := by
  rw [State.stepAlc, h, List.foldl_cons, List.foldl_nil]

theorem State.endAlc_single {s : State} {c n : Nat} (h : s.alcCrews c false = [n]) :
    s.endAlc c = ((s.setCtx n { s.ctx n with alc := (s.ctx n).target }).respread n).settleMoves n := by
  rw [State.endAlc, h, List.foldl_cons, List.foldl_nil]

/-! ### Pressure on a die -/

/-- A hop of the die's clock is in progress (R438). -/
def State.Hops (s : State) (c : Nat) : Prop := ∃ h ∈ s.hops, h.1 = c ∧ h.2.2 = none

theorem State.hops_iff {s : State} {c : Nat} : s.hops.any (fun h => h.1 == c && h.2.2.isNone) = true ↔ s.Hops c := by
  simp [State.Hops]

theorem State.hopping_iff {s : State} {c : Nat} : s.hopping c = true ↔ ∃ h ∈ s.hops, h.1 = c := by
  simp [State.hopping]

theorem State.Hops.hopping {s : State} {c : Nat} (h : s.Hops c) : s.hopping c = true := by
  obtain ⟨g, mem, die, -⟩ := h
  exact State.hopping_iff.mpr ⟨g, mem, die⟩

/-- The steps taken on a die's clock, on its lanes and on its Loom tokens. -/
def State.steps (s : State) (c : Nat) : Nat × Nat × Nat := look (0, 0, 0) s.pressure c

theorem exec_powerPressure (s : State) : exec .powerPressure s = execPowerPressure s := rfl

theorem exec_powerPressure_of_hop {s : State} (h : s.Hops s.arg.unit) : exec .powerPressure s = .next s := by
  rw [exec_powerPressure, execPowerPressure]
  exact if_pos (State.hops_iff.mpr h)

theorem exec_powerPressure_of_clock {s : State} (h : ¬ s.hopping s.arg.unit = true)
    (room : s.clockFloor s.arg.unit + 100 ≤ s.clock s.arg.unit) :
    let c := s.arg.unit
    exec .powerPressure s = .next { s.startHop c (max ((s.clockFloor c + 99) / 100 * 100) (min 3300 (s.clock c - 100))) with
      pressure := put s.pressure c ((s.steps c).1 + 1, (s.steps c).2) } := by
  have free : ¬ s.Hops s.arg.unit := fun k => h k.hopping
  rw [← State.hops_iff] at free
  rw [exec_powerPressure, execPowerPressure]
  exact (if_neg free).trans (if_pos ⟨room, by simp [h]⟩)

theorem exec_powerPressure_of_lanes {s : State} (h : ¬ s.Hops s.arg.unit)
    (low : s.hopping s.arg.unit = true ∨ s.clock s.arg.unit < s.clockFloor s.arg.unit + 100) :
    let c := s.arg.unit
    let p := s.steps c
    exec .powerPressure s = .next (if s.alcCrews c true ≠ [] then
        State.stepAlc { s with pressure := put s.pressure c (p.1, p.2.1 + 1, p.2.2) } c true
      else { s with pressure := put s.pressure c (p.1, p.2.1, p.2.2 + s.arg.value.toNat) }) := by
  have no : ¬ (s.clockFloor s.arg.unit + 100 ≤ s.clock s.arg.unit ∧ (!s.hopping s.arg.unit) = true) := by
    rintro ⟨room, free⟩
    obtain hop | low := low
    · simp [hop] at free
    · omega
  rw [← State.hops_iff] at h
  rw [exec_powerPressure, execPowerPressure]
  refine (if_neg h).trans ((if_neg no).trans ?_)
  simp only [Bool.not_eq_true', List.isEmpty_eq_false_iff]
  split <;> rfl

theorem exec_powerPressureEnd (s : State) : exec .powerPressureEnd s = execPowerPressureEnd s := rfl

theorem exec_powerPressureEnd_of_tokens {s : State} (h : 0 < (s.steps s.arg.unit).2.2) :
    let p := s.steps s.arg.unit
    exec .powerPressureEnd s = .next { s with pressure := put s.pressure s.arg.unit (p.1, p.2.1, 0) } := by
  rw [exec_powerPressureEnd, execPowerPressureEnd]
  exact if_pos h

theorem exec_powerPressureEnd_of_lanes {s : State} (none_ : (s.steps s.arg.unit).2.2 = 0)
    (h : 0 < (s.steps s.arg.unit).2.1) :
    let c := s.arg.unit
    let p := s.steps c
    let t := { s with pressure := put s.pressure c (p.1, p.2.1 - 1, 0) }
    exec .powerPressureEnd s = .next (if p.2.1 = 1 then t.endAlc c else t.stepAlc c false) := by
  rw [exec_powerPressureEnd, execPowerPressureEnd]
  exact (if_neg (Nat.not_lt.mpr none_.le)).trans (if_pos h)

theorem exec_powerPressureEnd_of_clock {s : State} (none_ : (s.steps s.arg.unit).2.2 = 0)
    (lanes : (s.steps s.arg.unit).2.1 = 0) :
    let c := s.arg.unit
    let p := s.steps c
    let t := if s.clockOk c (s.clock c + 100) s.arg.addr then s.startHop c (s.clock c + 100) else s
    exec .powerPressureEnd s = .next
      (if 0 < p.1 ∧ (!s.hopping c) = true then { t with pressure := put s.pressure c (p.1 - 1, 0, 0) } else s) := by
  rw [exec_powerPressureEnd, execPowerPressureEnd]
  refine (if_neg (Nat.not_lt.mpr none_.le)).trans ((if_neg (Nat.not_lt.mpr lanes.le)).trans ?_)
  dsimp only
  rw [State.steps]
  split <;> rfl

/-! ### The hops of a die's clock (R329, R438) -/

theorem exec_clockHop (s : State) : exec .clockHop s = execClockHop s := rfl

theorem exec_clockHopRetry (s : State) : exec .clockHopRetry s = execClockHopRetry s := rfl

theorem exec_droopDuringHop (s : State) : exec .droopDuringHop s = execDroopDuringHop s := rfl

/-- The hop of a die's clock, in progress or abandoned. -/
def State.hopOf (s : State) (c : Nat) : Option (Nat × Nat × Option Nat) := s.hops.find? (fun h => h.1 == c)

section Hop
variable {s : State} {n : Nat}

theorem clock_events_of_hop (h : s.hopOf s.arg.unit = some (s.arg.unit, n, none)) :
    let c := s.arg.unit
    exec .clockHop s = .next (State.tryClock { s with hops := s.hops.filter (fun g => g.1 != c) } c n s.arg.addr) ∧
      exec .clockHopRetry s = .next s := by
  rw [State.hopOf] at h
  refine ⟨?_, ?_⟩
  · simp only [exec_clockHop, execClockHop, h, Option.isNone_none, if_true]
  · simp only [exec_clockHopRetry, execClockHopRetry, h]

theorem clock_events_of_abandoned {t : Nat} (h : s.hopOf s.arg.unit = some (s.arg.unit, n, some t)) :
    exec .clockHop s = .next s ∧
      exec .clockHopRetry s = .next (if t + 3300000 ≤ s.now then s.startHop s.arg.unit n else s) := by
  rw [State.hopOf] at h
  refine ⟨?_, ?_⟩
  · simp only [exec_clockHop, execClockHop, h, Option.isNone_some, if_false, Bool.false_eq_true]
  · simp only [exec_clockHopRetry, execClockHopRetry, h]
    split <;> rfl

theorem clock_events_of_no_hop (h : ∀ g ∈ s.hops, g.1 ≠ s.arg.unit) :
    let c := s.arg.unit
    let mhz := s.arg.value.toNat
    exec .clockHopRetry s = .next s ∧ exec .droopDuringHop s = .next s ∧
      exec .clockHop s = .next (if c < 8 ∧ s.clockOk c mhz s.arg.addr = true then
        (if s.arg.flag then s.startHop c mhz else s.setClock c mhz) else s) := by
  have hop : s.hops.find? (fun h => h.1 == s.arg.unit) = none := by simpa using h
  have going : s.hops.find? (fun h => h.1 == s.arg.unit && h.2.2.isNone) = none := by
    simp only [List.find?_eq_none, Bool.and_eq_true, beq_iff_eq, not_and]
    exact fun g hg e => absurd e (h g hg)
  refine ⟨?_, ?_, ?_⟩
  · simp only [exec_clockHopRetry, execClockHopRetry, hop]
  · simp only [exec_droopDuringHop, execDroopDuringHop, going]
  · simp only [exec_clockHop, execClockHop, hop, Bool.and_eq_true, decide_eq_true_eq]
    split_ifs <;> rfl

theorem exec_droopDuringHop_of_no_hop (h : ∀ g ∈ s.hops, g.1 = s.arg.unit → g.2.2 ≠ none) :
    exec .droopDuringHop s = .next s := by
  have going : s.hops.find? (fun h => h.1 == s.arg.unit && h.2.2.isNone) = none := by simpa using h
  simp only [exec_droopDuringHop, execDroopDuringHop, going]

/-- R438, R439: the hop is abandoned, and noted. -/
theorem exec_droopDuringHop_of_hop
    (h : s.hops.find? (fun h => h.1 == s.arg.unit && h.2.2.isNone) = some (s.arg.unit, n, none)) :
    let c := s.arg.unit
    let p := s.steps c
    let down := s.alcCrews c true ≠ []
    let t := { s with hops := s.hops.map (fun g => if g.1 = c then (c, n, some s.now) else g)
                      pressure := if down then put s.pressure c (p.1, p.2.1 + 1, p.2.2) else s.pressure }
    exec .droopDuringHop s = .next (scrivener (if down then t.stepAlc c true else t) 0x50 0xFF 0 0 [c, n]) := by
  simp only [exec_droopDuringHop, execDroopDuringHop, h, Bool.not_eq_true', List.isEmpty_eq_false_iff]
  rfl

end Hop

/-- Settles O54: each step by its own law; the steps on a die's power by what has been taken of its clock, its lanes and its
Loom tokens. -/
theorem grantAndPowerEvents : Obligations.GrantAndPowerEvents := by
  intro s c i x m k p late
  refine ⟨exec_setvlGrantReturn_of_not_parked, fun parked => ⟨exec_setvlGrantReturn_of_nofit parked,
      fun fits given whole => exec_setvlGrantReturn_of_bad parked fits given whole,
      fun fits given whole => exec_setvlGrantReturn_of_good parked fits given whole,
      fun fits => exec_setvlGrantReturn_of_waiting parked fits⟩,
    ⟨fun held keeps a b hb ha => exec_laneRotation_of_held held keeps hb ha, exec_laneRotation_of_none⟩,
    exec_spillComplete_eq s, exec_restoreComplete_eq s, exec_laneClearingDone_of_no_work,
    fun w hw => exec_laneClearingDone_of_work hw, exec_frameBoundary s, rfl, fun n b => State.blkWaits_iff, ?save, rfl,
    exec_laneRetirement s, ?pressure, fun _ => rfl, fun low n h => State.stepAlc_single h, fun n h => State.endAlc_single h,
    fun mhz w => State.clockOk_iff, fun mhz => ⟨s.clock_setClock c mhz, s.cycles_setClock c mhz⟩,
    fun mhz w => s.tryClock_eq c mhz w,
    ⟨fun n h => clock_events_of_hop h, fun n t h => clock_events_of_abandoned h, fun h => clock_events_of_no_hop h⟩,
    exec_droopDuringHop_of_no_hop, fun n h => exec_droopDuringHop_of_hop h⟩
  case save => simp only [exec_contextSave, State.canSave_iff, c, x]
  case pressure =>
    refine ⟨exec_powerPressure_of_hop, fun hops room => exec_powerPressure_of_clock (mt State.hopping_iff.mp hops) room,
      fun busy low => exec_powerPressure_of_lanes busy (low.imp_left State.hopping_iff.mpr), exec_powerPressureEnd_of_tokens,
      exec_powerPressureEnd_of_lanes, fun tokens lanes => ?_⟩
    simp only [exec_powerPressureEnd_of_clock tokens lanes, Bool.not_eq_true', ← Bool.not_eq_true, State.hopping_iff]
    rfl

end Sys2Proof.Machine
end

section
/-!
PROOFS. The storage that a producer's bytes leave: what a doubleword reads after a write to it, to another place, and after a
range is copied (R5, R309, R311).
-/

namespace Sys2Proof.Machine

open Host (Cell)

/-! ### Little-endian numbers (R5) -/

theorem length_toLe (v n : Nat) : (toLe v n).length = n := by
  induction n generalizing v with
  | zero => rfl
  | succ n ih => rw [toLe, List.length_cons, ih]

theorem leNat_toLe (v n : Nat) : leNat (toLe v n) = v % 256 ^ n := by
  induction n generalizing v with
  | zero => rw [toLe, leNat, Nat.pow_zero, Nat.mod_one]
  | succ n ih => rw [toLe, leNat, ih, BitVec.toNat_ofNat, pow_succ' 256 n, Nat.mod_mul]

/-! ### Doublewords -/

theorem readBytes_congr {m m' : List Cell} {a n : Nat} (h : ∀ b, a ≤ b → b < a + n → readByte m b = readByte m' b) :
    readBytes m a n = readBytes m' a n := by
  induction n generalizing a with
  | zero => rfl
  | succ n ih =>
    rw [readBytes, readBytes, h a (by omega) (by omega), ih fun b lo hi => h b (by omega) (by omega)]

theorem readDw_congr {m m' : List Cell} {a : Nat} (h : ∀ b, a ≤ b → b < a + 8 → readByte m b = readByte m' b) :
    readDw m a = readDw m' a := by
  rw [readDw, readDw, readBytes_congr h]

theorem readDw_writeBytes {m : List Cell} (hm : Memory.wf m = true) (a : Nat) (v : Word) :
    readDw (writeBytes m a (toLe v.toNat 8)) a = v := by
  have bytes := readBytes_writeBytes (toLe v.toNat 8) m a hm
  rw [length_toLe] at bytes
  rw [readDw, bytes, leNat_toLe, Nat.mod_eq_of_lt (by exact v.isLt), BitVec.ofNat_toNat, BitVec.setWidth_eq]

/-! ### A range copied (R311) -/

theorem readByte_filter {p : Cell → Bool} {k : Nat} (h : ∀ b, p (k, b) = true) (m : List Cell) :
    readByte (m.filter p) k = readByte m k := by
  induction m with
  | nil => rfl
  | cons e m ih =>
    obtain ⟨j, b⟩ := e
    by_cases hj : j = k
    · rw [List.filter_cons_of_pos (hj ▸ h b), readByte, readByte, if_pos hj, if_pos hj]
    · rw [readByte, if_neg hj, ← ih, List.filter_cons]
      split
      · rw [readByte, if_neg hj]
      · rfl

theorem readByte_overlay_ne {k : Nat} (cs : List Cell) (m : List Cell) (h : ∀ e ∈ cs, e.1 ≠ k) :
    readByte (overlay m cs) k = readByte m k := by
  induction cs generalizing m with
  | nil => rfl
  | cons e cs ih =>
    rw [overlay, ih _ fun f hf => h f (List.mem_cons_of_mem _ hf),
      readByte_writeByte_ne _ _ (h e List.mem_cons_self).symm]

theorem readByte_copyRange_ne {m : List Cell} {a n b k : Nat} (h : k < b ∨ b + n ≤ k) :
    readByte (copyRange m a n b) k = readByte m k := by
  rw [copyRange, readByte_overlay_ne, zeroRange, readByte_filter]
  · simpa using h
  · intro e he
    simp only [sliceAt, List.mem_map, List.mem_filter, Bool.and_eq_true, decide_eq_true_eq] at he
    obtain ⟨f, ⟨-, lo, hi⟩, rfl⟩ := he
    dsimp only
    omega

end Sys2Proof.Machine
end

section
/-!
PROOFS. Contexts placed on the lanes of their crew, with their records in the spill areas (R79, R80), and a change of `vl` (R70).
-/

namespace Sys2Proof.Machine

/-! ### What a placement can change -/

@[simp] theorem State.setMt_setMt (s : State) (c i : Nat) (m n : Mt) : (s.setMt c i m).setMt c i n = s.setMt c i n := by
  simp only [State.setMt, put_put]

theorem KeepsStorage.trans {s t u : State} (h : KeepsStorage s t) (k : KeepsStorage t u) : KeepsStorage s u :=
  fun b hb => (k b hb).trans (h b hb)

/-- Nothing differs but the places of the micro-threads of context `c`, and the records of the spill areas (R79, R80). -/
structure State.Places (s t : State) (c : Nat) : Prop where
  rest : t = { s with mts := t.mts, mem := t.mem, synd := t.synd, marks := t.marks }
  mts : ∀ i, ∃ m : Mt, t.mt c i =
    { s.mt c i with slot := m.slot, res := m.res, since := m.since, spillRec := m.spillRec }
  storage : KeepsStorage s t

namespace State.Places
variable {s t u : State} {c : Nat}

theorem refl (s : State) (c : Nat) : s.Places s c := ⟨rfl, fun i => ⟨s.mt c i, rfl⟩, fun _ _ => rfl⟩

theorem trans (h : s.Places t c) (k : t.Places u c) : s.Places u c := by
  refine ⟨?_, fun i => ?_, h.storage.trans k.storage⟩
  · have hu := k.rest
    rw [h.rest] at hu
    exact hu
  · obtain ⟨m, hm⟩ := h.mts i
    obtain ⟨n, hn⟩ := k.mts i
    rw [hm] at hn
    exact ⟨n, hn⟩

/-- Steps that each place, one after the other. -/
theorem foldl {f : State → Nat → State} (h : ∀ (s : State) i, s.Places (f s i) c) (l : List Nat) (s : State) :
    s.Places (l.foldl f s) c := by
  induction l generalizing s with
  | nil => exact refl s c
  | cons i l ih => exact (h s i).trans (ih _)

theorem of_setMt (s : State) (c i : Nat) (m : Mt) :
    s.Places (s.setMt c i { s.mt c i with slot := m.slot, res := m.res, since := m.since, spillRec := m.spillRec }) c := by
  refine ⟨rfl, fun j => ?_, fun _ _ => rfl⟩
  by_cases h : j = i
  · subst h
    exact ⟨m, State.mt_setMt_self ..⟩
  · exact ⟨s.mt c j, look_put_ne _ _ _ (by omega)⟩

/-- A change of storage alone, within spill areas. -/
theorem of_storage (rest : t = { s with mem := t.mem, synd := t.synd, marks := t.marks }) (h : KeepsStorage s t) :
    s.Places t c := by
  refine ⟨rest ▸ rfl, fun i => ⟨s.mt c i, ?_⟩, h⟩
  rw [rest]
  rfl

end State.Places

/-! ### Records of the spill areas (R79) -/

theorem State.freeSpill_lt (s : State) (c lane : Nat) : s.freeSpill c lane < 16 := by
  rw [State.freeSpill]
  cases h : (List.range 16).find? _ with
  | none => exact by decide
  | some r => exact List.mem_range.mp (List.mem_of_find?_eq_some h)

theorem lt_of_mem_recordWords {x : Ctx} {m : Mt} {e : Nat × Word} (h : e ∈ x.recordWords m false) : e.1 < 32 := by
  obtain ⟨k, hk, rfl⟩ := List.mem_map.mp h
  exact List.mem_range.mp (List.mem_filter.mp hk).1

theorem State.places_putDw {s : State} {c cl lane r k : Nat} (hr : r < 16) (hk : k < 32) (v : Word) :
    s.Places (putDw s (spillKey cl lane r + 8 * k) v) c := by
  refine .of_storage rfl fun b hb => ?_
  have out := hb cl lane r hr
  exact readByte_writeBytes_ne _ _ _ _ (by rw [length_toLe]; omega)

theorem State.places_writeSpill {s : State} {c i lane r : Nat} (h : (s.mt c i).spillRec = some (lane, r)) (hr : r < 16) :
    s.Places (s.writeSpill c i) c := by
  simp only [State.writeSpill, h]
  have words : ∀ e ∈ (s.ctx c).recordWords (s.mt c i) false, e.1 < 32 := fun e => lt_of_mem_recordWords
  revert words
  generalize (s.ctx c).recordWords (s.mt c i) false = l
  clear h
  intro words
  induction l generalizing s with
  | nil => exact .refl s c
  | cons e l ih =>
    exact (State.places_putDw hr (words e List.mem_cons_self) e.2).trans (ih fun f hf => words f (List.mem_cons_of_mem _ hf))

theorem State.places_carry {s : State} {c cl lane r : Nat} (hr : r < 16) (src : Nat) :
    s.Places (carry s src 256 (spillKey cl lane r)) c :=
  .of_storage rfl fun _ hb => readByte_copyRange_ne (hb cl lane r hr)

theorem State.places_syncSpill (s : State) (c : Nat) : s.Places (s.syncSpill c) c := by
  refine .foldl ?_ _ s
  intro s i
  dsimp only
  have moved : ∀ (t : State) (p : Option (Nat × Nat)), t.Places (t.setMt c i { t.mt c i with spillRec := p }) c :=
    fun t p => .of_setMt t c i { t.mt c i with spillRec := p }
  split
  · split
    · exact .refl s c
    · exact moved s none
  · split
    · split
      · exact .refl s c
      · rw [State.setMt_setMt]
        exact (moved s _).trans (State.places_carry (State.freeSpill_lt ..) _)
    · exact (moved s _).trans (State.places_writeSpill (by rw [State.mt_setMt_self]) (s.freeSpill_lt ..))

theorem State.places_mapMts (s : State) (c : Nat) {f : Nat → Mt → Mt}
    (h : ∀ i m, ∃ n : Mt, f i m = { m with slot := n.slot, res := n.res, since := n.since, spillRec := n.spillRec }) :
    s.Places (s.mapMts c f) c := by
  refine .foldl ?_ _ s
  intro s i
  obtain ⟨n, hn⟩ := h i (s.mt c i)
  rw [hn]
  exact .of_setMt s c i n

/-- R80: every context placed at once. -/
theorem State.places_placeMts (s : State) (c : Nat) : s.Places (s.placeMts c) c :=
  (s.places_mapMts c fun i m => ⟨{ m with
    slot := (s.ctx c).slotFor i, res := if (s.ctx c).placedIn i then .resident else .spilled, since := s.now }, rfl⟩).trans
    (State.places_syncSpill _ c)

/-! ### A change of `vl` (R70) -/

/-- The context whose `vl` becomes `n` (R70, R85). -/
def Ctx.withVl (x : Ctx) (n : Nat) : Ctx :=
  { x with vl := n, target := x.slots.length, alc := ({ x with vl := n } : Ctx).alcFor x.slots.length }

theorem State.mt_discard {s : State} {c n i : Nat} (h : i < n) : (s.discard c n).mt c i = s.mt c i := by
  simp only [State.discard, State.mt]
  generalize s.mts = l
  induction l with
  | nil => rfl
  | cons e l ih =>
    by_cases he : e.1 = 512 * c + i
    · rw [List.filter_cons_of_pos (by simp; omega), look, look, if_pos he, if_pos he]
    · rw [List.filter_cons, look, if_neg he]
      split
      · rw [look, if_neg he, ih]
      · exact ih

/-- Micro-threads `old` up to `old + n` created, and no other changed. -/
def State.creates (s : State) (c old n : Nat) : State :=
  (List.range n).foldl (fun s k => s.setMt c (old + k) ((s.ctx c).newMt (old + k) s.now)) s

theorem State.creates_succ (s : State) (c old n : Nat) : s.creates c old (n + 1) =
    (s.creates c old n).setMt c (old + n)
      (((s.creates c old n).ctx c).newMt (old + n) (s.creates c old n).now) := by
  rw [State.creates, State.creates, List.range_succ, List.foldl_append]
  rfl

theorem State.creates_eq (s : State) (c old n : Nat) : s.creates c old n = { s with mts := (s.creates c old n).mts } := by
  induction n with
  | zero => rfl
  | succ n ih =>
    rw [State.creates_succ, ih]
    rfl

theorem State.mt_creates (s : State) (c old n i : Nat) : (s.creates c old n).mt c i =
    if old ≤ i ∧ i < old + n then (s.ctx c).newMt i s.now else s.mt c i := by
  induction n with
  | zero => rw [if_neg (by omega)]; rfl
  | succ n ih =>
    have ctx : (s.creates c old n).ctx c = s.ctx c := by rw [s.creates_eq c old n]; rfl
    have now : (s.creates c old n).now = s.now := by rw [s.creates_eq c old n]
    rw [State.creates_succ, ctx, now]
    by_cases h : i = old + n
    · rw [h, State.mt_setMt_self, if_pos (by omega)]
    · have other : ∀ (t : State) (m : Mt), (t.setMt c (old + n) m).mt c i = t.mt c i :=
        fun t m => look_put_ne _ _ _ (by omega)
      rw [other, ih]
      exact if_congr (by omega) rfl rfl

/-- The state in which `setVl` places the micro-threads: those above `n` gone and new ones created. -/
def State.resizes (s : State) (c n : Nat) : State :=
  ((s.discard c n).setCtx c ((s.ctx c).withVl n)).creates c (s.ctx c).vl (n - (s.ctx c).vl)

theorem State.setVl_eq (s : State) (c n : Nat) : s.setVl c n = (s.resizes c n).placeMts c := rfl

theorem State.mt_resizes {s : State} {c n i : Nat} (h : i < n) : (s.resizes c n).mt c i =
    if i < (s.ctx c).vl then s.mt c i else ((s.ctx c).withVl n).newMt i s.now := by
  rw [State.resizes, State.mt_creates, State.ctx_setCtx_self, State.mt_setCtx, State.mt_discard h]
  by_cases hi : i < (s.ctx c).vl
  · rw [if_neg (by omega), if_pos hi]
  · rw [if_pos (by omega), if_neg hi]
    rfl

/-- R70, R79, R80: what a change of `vl` changes. -/
theorem State.setVl_spec (s : State) (c n : Nat) :
    s.setVl c n = { s with ctxs := (s.setVl c n).ctxs, mts := (s.setVl c n).mts, mem := (s.setVl c n).mem,
                           synd := (s.setVl c n).synd, marks := (s.setVl c n).marks } ∧
    (s.setVl c n).ctxs = put s.ctxs c ((s.ctx c).withVl n) ∧ KeepsStorage s (s.setVl c n) := by
  have resizes : s.resizes c n = { (s.discard c n).setCtx c ((s.ctx c).withVl n) with mts := (s.resizes c n).mts } :=
    State.creates_eq ..
  obtain ⟨rest, -, storage⟩ := (s.resizes c n).places_placeMts c
  rw [← State.setVl_eq] at rest storage
  refine ⟨?_, ?_, fun b hb => (storage b hb).trans ?_⟩
  · rw [resizes] at rest
    rw [rest]
    rfl
  · rw [rest, resizes]
    rfl
  · rw [resizes]
    rfl

theorem State.ctx_setVl (s : State) (c n : Nat) : (s.setVl c n).ctx c = (s.ctx c).withVl n := by
  rw [State.ctx, (s.setVl_spec c n).2.1, look_put_self]

theorem State.ctx_setVl_ne (s : State) {c d : Nat} (h : d ≠ c) (n : Nat) : (s.setVl c n).ctx d = s.ctx d := by
  rw [State.ctx, (s.setVl_spec c n).2.1, look_put_ne _ _ _ h]
  rfl

/-- R70: a micro-thread below the old `vl` keeps its state and may be placed elsewhere. -/
theorem State.mt_setVl_kept {s : State} {c n i : Nat} (hn : i < n) (h : i < (s.ctx c).vl) : ∃ m : Mt,
    (s.setVl c n).mt c i = { s.mt c i with slot := m.slot, res := m.res, since := m.since, spillRec := m.spillRec } := by
  have kept := ((s.resizes c n).places_placeMts c).mts i
  rwa [State.mt_resizes hn, if_pos h] at kept

/-- R41, R70: a micro-thread that a change of `vl` creates. -/
theorem State.mt_setVl_new {s : State} {c n i : Nat} (hn : i < n) (h : (s.ctx c).vl ≤ i) : ∃ m : Mt,
    (s.setVl c n).mt c i = { Mt.fresh with
      ent := (s.ctx c).seqNext - 1, slot := m.slot, res := m.res, since := m.since, spillRec := m.spillRec } := by
  have made := ((s.resizes c n).places_placeMts c).mts i
  rwa [State.mt_resizes hn, if_neg (by omega)] at made

end Sys2Proof.Machine
end

section
/-!
PROOFS. The lane save area: where a save writes the records of a crew's micro-threads and what they then read (R69, R83, R379).
-/

namespace Sys2Proof.Machine

/-! ### Doublewords written in the lane save area -/

/-- Nothing differs but storage, and what a store to memory notes of it (R143, R155, R309, R410). -/
def State.StoresOnly (s t : State) : Prop :=
  t = { s with mem := t.mem, synd := t.synd, wlog := t.wlog, l1 := t.l1, scrubs := t.scrubs }

theorem State.StoresOnly.trans {s t u : State} (h : s.StoresOnly t) (k : t.StoresOnly u) : s.StoresOnly u := by
  unfold State.StoresOnly at *
  rw [h] at k
  exact k

/-- A save reaches the doubleword of an address and writes it at key `k` (R69, R406). -/
def State.SavesAt (s : State) (c : Nat) (va : Word) (k : Nat) : Prop :=
  s.saveRefused c va = none ∧ ∃ tr, s.saveTr c va .w = some tr ∧ k = memKey tr.skew tr.pa

theorem State.StoresOnly.savesAt {s t : State} (h : s.StoresOnly t) {c : Nat} {va : Word} {k : Nat}
    (r : s.SavesAt c va k) : t.SavesAt c va k := by
  rw [h]
  exact r

theorem State.storesOnly_storeMem (s : State) (part core pa key : Nat) (bs : List Byte) :
    s.StoresOnly (storeMem s part core pa key bs) := by
  have logged : s.StoresOnly (logWrite s part pa) := rfl
  have recalled : ∀ t : State, t.StoresOnly (recallLease t (sectorOf key) core) := fun _ => rfl
  have noted : ∀ t : State, t.StoresOnly (noteStore t (key / 8 * 8) core) := fun _ => rfl
  have marked : ∀ t : State, t.StoresOnly (markScrubs t (sectorOf key)) := fun _ => rfl
  have put_ : ∀ t : State, t.StoresOnly (putBytes t key bs) := fun _ => rfl
  exact (((logged.trans (recalled _)).trans (noted _)).trans (marked _)).trans (put_ _)

theorem State.storesOnly_saveWrite (s : State) (c : Nat) (va v : Word) : s.StoresOnly (s.saveWrite c va v) := by
  simp only [State.saveWrite, if_true]
  split
  · split
    · exact rfl
    · exact s.storesOnly_storeMem ..
  · exact rfl

theorem State.SavesAt.mem_saveWrite {s : State} {c : Nat} {va : Word} {k : Nat} (h : s.SavesAt c va k) (v : Word) :
    (s.saveWrite c va v).mem = writeBytes s.mem k (toLe v.toNat 8) := by
  obtain ⟨refused, tr, found, rfl⟩ := h
  simp only [State.saveWrite, found, refused, Option.isSome_none, Bool.false_eq_true, if_false, if_true]
  rfl

/-- Doublewords of the lane save area written in order: the entry `e` at `va e`, with the value `val e`. -/
def State.saveAll {ι : Type} (s : State) (c : Nat) (va val : ι → Word) (l : List ι) : State :=
  l.foldl (fun s e => s.saveWrite c (va e) (val e)) s

section SaveAll
variable {ι : Type} {c : Nat} {va val : ι → Word} {key : ι → Nat}

theorem State.saveAll_cons (s : State) (e : ι) (l : List ι) :
    s.saveAll c va val (e :: l) = (s.saveWrite c (va e) (val e)).saveAll c va val l := rfl

theorem State.saveAll_append (s : State) (l l' : List ι) :
    s.saveAll c va val (l ++ l') = (s.saveAll c va val l).saveAll c va val l' := List.foldl_append

theorem State.storesOnly_saveAll (s : State) (l : List ι) : s.StoresOnly (s.saveAll c va val l) := by
  induction l generalizing s with
  | nil => rfl
  | cons e l ih => exact (s.storesOnly_saveWrite ..).trans (ih _)

theorem State.readByte_saveAll {s : State} {l : List ι} (at_ : ∀ e ∈ l, s.SavesAt c (va e) (key e)) {b : Nat}
    (out : ∀ e ∈ l, b < key e ∨ key e + 8 ≤ b) :
    readByte (s.saveAll c va val l).mem b = readByte s.mem b := by
  induction l generalizing s with
  | nil => rfl
  | cons e l ih =>
    rw [State.saveAll_cons,
      ih (fun f hf => (s.storesOnly_saveWrite ..).savesAt (at_ f (List.mem_cons_of_mem _ hf)))
        (fun f hf => out f (List.mem_cons_of_mem _ hf)), (at_ e List.mem_cons_self).mem_saveWrite]
    exact readByte_writeBytes_ne _ _ _ _ (by rw [length_toLe]; exact out e List.mem_cons_self)

/-- R69: each entry stands at its place, where no two share a byte. -/
theorem State.readDw_saveAll {s : State} {l : List ι} (h : Memory.wf s.mem = true)
    (at_ : ∀ e ∈ l, s.SavesAt c (va e) (key e))
    (apart : l.Pairwise (fun e f => key e + 8 ≤ key f ∨ key f + 8 ≤ key e)) {e : ι} (he : e ∈ l) :
    readDw (s.saveAll c va val l).mem (key e) = val e := by
  induction l generalizing s with
  | nil => exact absurd he List.not_mem_nil
  | cons f l ih =>
    obtain ⟨first, rest⟩ := List.pairwise_cons.mp apart
    have here := at_ f List.mem_cons_self
    have later : ∀ g ∈ l, (s.saveWrite c (va f) (val f)).SavesAt c (va g) (key g) := fun g hg =>
      (s.storesOnly_saveWrite ..).savesAt (at_ g (List.mem_cons_of_mem _ hg))
    rw [State.saveAll_cons]
    by_cases mem : e ∈ l
    · refine ih ?_ later rest mem
      rw [here.mem_saveWrite]
      exact Memory.wf_writeBytes _ _ h
    · obtain rfl : e = f := (List.mem_cons.mp he).resolve_right mem
      rw [readDw_congr fun b lo hi => State.readByte_saveAll later fun g hg => ?_, here.mem_saveWrite,
        readDw_writeBytes h]
      have := first g hg
      omega

end SaveAll

/-! ### The records of a crew -/

/-- The positions of a record that a save writes (R379). -/
def Ctx.savedPlaces (x : Ctx) (m : Mt) : List Nat :=
  (List.range (recWords x.recSide)).filter (fun k => k ≥ 23 || m.dirty.getLsbD k)

theorem Ctx.recordWords_eq (x : Ctx) (m : Mt) :
    x.recordWords m (x.recSide != 0) = (x.savedPlaces m).map (fun k => (k, x.mtRead m k)) := by
  have size : recWords x.recSide = if (x.recSide != 0) = true then 288 else 32 := by
    rw [recWords]
    split <;> simp_all
  rw [Ctx.recordWords, Ctx.savedPlaces, size]

/-- The doublewords of the records of micro-threads `l` that a save writes, by micro-thread and position. -/
def State.savedWords (s : State) (c : Nat) (x : Ctx) (l : List Nat) : List (Nat × Nat) :=
  l.flatMap (fun i => (x.savedPlaces (s.mt c i)).map (fun k => (i, k)))

theorem State.mem_savedWords {s : State} {c : Nat} {x : Ctx} {e : Nat × Nat} : e ∈ s.savedWords c x x.locals ↔
    e.1 < x.vl ∧ e.2 < recWords x.recSide ∧ (23 ≤ e.2 ∨ (s.mt c e.1).dirty.getLsbD e.2 = true) := by
  obtain ⟨i, k⟩ := e
  simp [State.savedWords, Ctx.savedPlaces, Ctx.locals]

theorem State.nodup_savedWords (s : State) (c : Nat) (x : Ctx) : (s.savedWords c x x.locals).Nodup := by
  refine List.nodup_flatMap.mpr ⟨fun i _ => ?_, List.nodup_range.pairwise_of_forall_ne fun i _ j _ hij => ?_⟩
  · exact (List.nodup_range.filter _).map fun a b h => (Prod.mk.inj h).2
  · intro e he hf
    obtain ⟨k, -, rfl⟩ := List.mem_map.mp he
    obtain ⟨l, -, h⟩ := List.mem_map.mp hf
    exact hij (Prod.mk.inj h).1.symm

/-- Where doubleword `e.2` of the record of micro-thread `e.1` lies (R69). -/
def Ctx.wordVa (x : Ctx) (e : Nat × Nat) : Word := x.recordVa e.1 + BitVec.ofNat 64 (8 * e.2)

/-- What a save writes there. -/
def State.wordVal (s : State) (c : Nat) (x : Ctx) (e : Nat × Nat) : Word := x.mtRead (s.mt c e.1) e.2

/-- The records written one after the other are one list of doublewords. -/
theorem State.saveRecords_fold {s t : State} {c : Nat} (x : Ctx) (l : List Nat) (ht : ∀ i, t.mt c i = s.mt c i) :
    l.foldl (fun t i => (x.recordWords (t.mt c i) (x.recSide != 0)).foldl
      (fun t e => t.saveWrite c (x.recordVa i + BitVec.ofNat 64 (8 * e.1)) e.2) t) t =
    t.saveAll c x.wordVa (s.wordVal c x) (s.savedWords c x l) := by
  induction l generalizing t with
  | nil => rfl
  | cons i l ih =>
    have first : (x.recordWords (t.mt c i) (x.recSide != 0)).foldl
        (fun t e => t.saveWrite c (x.recordVa i + BitVec.ofNat 64 (8 * e.1)) e.2) t =
        t.saveAll c x.wordVa (s.wordVal c x) ((x.savedPlaces (s.mt c i)).map (fun k => (i, k))) := by
      rw [ht, Ctx.recordWords_eq, List.foldl_map, State.saveAll, List.foldl_map]
      rfl
    rw [List.foldl_cons, first, State.savedWords, List.flatMap_cons, State.saveAll_append]
    refine ih fun j => ?_
    rw [State.storesOnly_saveAll]
    exact ht j

/-- The context whose records are in its save area, in the size of the grant held (R69). -/
def Ctx.saving (x : Ctx) : Ctx := { x with saved := some (sideOf x.gsq) }

theorem Ctx.mtRead_saving (x : Ctx) (m : Mt) (k : Nat) : x.saving.mtRead m k = x.mtRead m k := rfl

theorem State.saveRecords_eq (s : State) (c : Nat) : s.saveRecords c =
    (s.setCtx c (s.ctx c).saving).saveAll c (s.ctx c).saving.wordVa
      (s.wordVal c (s.ctx c).saving) (s.savedWords c (s.ctx c).saving (s.ctx c).saving.locals) := by
  simp only [State.saveRecords, State.ctx_setCtx_self]
  exact State.saveRecords_fold (s.ctx c).saving (s.ctx c).locals fun _ => rfl

theorem State.storesOnly_saveRecords (s : State) (c : Nat) :
    (s.setCtx c (s.ctx c).saving).StoresOnly (s.saveRecords c) := by
  rw [State.saveRecords_eq]
  exact State.storesOnly_saveAll ..

theorem State.SavesAt.setCtx {s : State} {c k : Nat} {va : Word} (h : s.SavesAt c va k) {x : Ctx}
    (hx : x.vspace = (s.ctx c).vspace) : (s.setCtx c x).SavesAt c va k := by
  have tr : (s.setCtx c x).saveTr c va .w = s.saveTr c va .w := by
    rw [State.saveTr, State.saveTr, State.ctx_setCtx_self, hx]
    rfl
  have refused : (s.setCtx c x).saveRefused c va = s.saveRefused c va := by
    rw [State.saveRefused, State.saveRefused, tr]
    rfl
  rwa [State.SavesAt, tr, refused]

section Records
variable {s : State} {c : Nat} {key : Nat × Nat → Nat}
  (at_ : ∀ e : Nat × Nat, e.1 < (s.ctx c).vl → e.2 < recWords (sideOf (s.ctx c).gsq) →
    s.SavesAt c ((s.ctx c).saving.wordVa e) (key e))
include at_

theorem State.savesAt_savedWords : ∀ e ∈ s.savedWords c (s.ctx c).saving (s.ctx c).saving.locals,
    (s.setCtx c (s.ctx c).saving).SavesAt c ((s.ctx c).saving.wordVa e) (key e) := by
  intro e he
  obtain ⟨hi, hk, -⟩ := State.mem_savedWords.mp he
  exact (at_ e hi hk).setCtx rfl

theorem State.readByte_saveRecords {b : Nat} (out : ∀ e : Nat × Nat, e.1 < (s.ctx c).vl →
    e.2 < recWords (sideOf (s.ctx c).gsq) → b < key e ∨ key e + 8 ≤ b) :
    readByte (s.saveRecords c).mem b = readByte s.mem b := by
  rw [State.saveRecords_eq]
  refine State.readByte_saveAll (State.savesAt_savedWords at_) fun e he => ?_
  obtain ⟨hi, hk, -⟩ := State.mem_savedWords.mp he
  exact out e hi hk

/-- R69, R379: what the record of a micro-thread holds after a save. -/
theorem State.readDw_saveRecords (wf : Memory.wf s.mem = true)
    (apart : ∀ e f : Nat × Nat, e.1 < (s.ctx c).vl → f.1 < (s.ctx c).vl → e.2 < recWords (sideOf (s.ctx c).gsq) →
      f.2 < recWords (sideOf (s.ctx c).gsq) → e ≠ f → key e + 8 ≤ key f ∨ key f + 8 ≤ key e)
    {e : Nat × Nat} (hi : e.1 < (s.ctx c).vl) (hk : e.2 < recWords (sideOf (s.ctx c).gsq))
    (kept : 23 ≤ e.2 ∨ (s.mt c e.1).dirty.getLsbD e.2 = true) :
    readDw (s.saveRecords c).mem (key e) = (s.ctx c).mtRead (s.mt c e.1) e.2 := by
  rw [State.saveRecords_eq, ← Ctx.mtRead_saving, ← State.wordVal]
  have mem : e ∈ s.savedWords c (s.ctx c).saving (s.ctx c).saving.locals := State.mem_savedWords.mpr ⟨hi, hk, kept⟩
  refine State.readDw_saveAll (s := s.setCtx c (s.ctx c).saving) wf (State.savesAt_savedWords at_) ?_ mem
  refine (s.nodup_savedWords c (s.ctx c).saving).pairwise_of_forall_ne fun f hf g hg => ?_
  obtain ⟨hfi, hfk, -⟩ := State.mem_savedWords.mp hf
  obtain ⟨hgi, hgk, -⟩ := State.mem_savedWords.mp hg
  exact apart f g hfi hgi hfk hgk

end Records

/-! ### Lanes returned (R70, R77) -/

/-- The context that holds no lane. -/
def Ctx.laneless (x : Ctx) : Ctx :=
  { x with slots := [], joining := [], here := [], moves := [], alc := 0, gsq := 0, orow := 0, ocol := 0, target := 0 }

theorem State.returnLanes_eq (s : State) (c : Nat) : s.returnLanes c =
    { s with ctxs := put s.ctxs c (s.ctx c).laneless, clusters := (s.returnLanes c).clusters } := rfl

@[simp] theorem State.cur_returnLanes (s : State) (c : Nat) : (s.returnLanes c).cur = s.cur := rfl

@[simp] theorem State.mem_returnLanes (s : State) (c : Nat) : (s.returnLanes c).mem = s.mem := rfl

theorem State.ctx_returnLanes (s : State) (c : Nat) : (s.returnLanes c).ctx c = (s.ctx c).laneless :=
  look_put_self ..

theorem State.ctx_returnLanes_ne (s : State) {c d : Nat} (h : d ≠ c) : (s.returnLanes c).ctx d = s.ctx d :=
  look_put_ne _ _ _ h

/-- R81: a lane that the crew gives up is in work. -/
theorem State.work_returnLanes {s : State} {c l : Nat} (h : l ∈ (s.ctx c).slots) (real : l < 512) :
    ∃ w ∈ ((s.returnLanes c).cluster (clusterOfCtx c)).work, w.lane = l := by
  have work : ((s.returnLanes c).cluster (clusterOfCtx c)).work =
      (s.cluster (clusterOfCtx c)).work.map (fun w => if w.dest = some c then { w with dest := none } else w) ++
        (((s.ctx c).slots ++ (s.ctx c).here).filter (fun l => l < 512 &&
          !((s.cluster (clusterOfCtx c)).work.map (·.lane)).contains l)).map (fun l =>
            { lane := l, clearing := true, since := s.now, dest := none,
              retire := (s.cluster (clusterOfCtx c)).retiring.contains l }) := by
    simp only [State.returnLanes, State.giveUp, State.cluster_setCtx, State.cluster_setCluster_self]
    rfl
  rw [work]
  by_cases busy : ∃ w ∈ (s.cluster (clusterOfCtx c)).work, w.lane = l
  · obtain ⟨w, hw, rfl⟩ := busy
    refine ⟨_, List.mem_append_left _ (List.mem_map_of_mem hw), ?_⟩
    split <;> rfl
  · refine ⟨_, List.mem_append_right _ (List.mem_map_of_mem (List.mem_filter.mpr ⟨List.mem_append_left _ h, ?_⟩)), rfl⟩
    simpa [real] using busy

theorem State.dropGrant_eq (s : State) (c : Nat) : s.dropGrant c =
    ((s.returnLanes c).discard c 0).setCtx c { (s.ctx c).laneless with
      gstate := .idle, vl := 0, saved := none, revoked := none, seq := [] } := by
  have x : ((s.returnLanes c).discard c 0).ctx c = (s.ctx c).laneless := s.ctx_returnLanes c
  rw [State.dropGrant, x]

end Sys2Proof.Machine
end

section
/-!
PROOFS. `setvl` (R69-R71, R77, R79, R82, R379).
-/

namespace Sys2Proof.Machine

/-! ### The request (R70) -/

/-- The shape that a `setvl` operand asks for. -/
def askedSq (v : Word) : BitVec 2 := v.extractLsb' 16 2

/-- The lanes that a `setvl` operand asks for. -/
def askedLen (v : Word) : Nat :=
  if askedSq v = 0 then min (v.toNat % 1024) 512 else sideOf (askedSq v) * sideOf (askedSq v)

theorem askedLen_le (v : Word) : askedLen v ≤ 512 := by
  have side : ∀ q : BitVec 2, sideOf q * sideOf q ≤ 512 := by decide
  rw [askedLen]
  split
  · exact Nat.min_le_right ..
  · exact side _

theorem askedLen_eq (v : Word) : askedLen v = if askedSq v = 0 then min (v.toNat % 1024) 512
    else (if askedSq v = 1 then 4 else if askedSq v = 2 then 8 else 16) *
      (if askedSq v = 1 then 4 else if askedSq v = 2 then 8 else 16) := by
  rw [askedLen, sideOf]
  split <;> rfl

theorem requestOf_eq (v : Word) : requestOf v = BitVec.ofNat 64 (askedLen v + 2 ^ 16 * (askedSq v).toNat) := by
  have len : bits v 0 10 = v.toNat % 1024 := by simp [bits]
  simp only [requestOf, len, Nat.mul_comm]
  rfl

theorem bits_requestOf (v : Word) : bits (requestOf v) 0 10 = askedLen v := by
  have := askedLen_le v
  have := (askedSq v).isLt
  rw [requestOf_eq, bits, BitVec.extractLsb'_toNat, BitVec.toNat_ofNat]
  omega

theorem extractLsb'_requestOf (v : Word) : (requestOf v).extractLsb' 16 2 = askedSq v := by
  have := askedLen_le v
  have := (askedSq v).isLt
  refine BitVec.eq_of_toNat_eq ?_
  rw [requestOf_eq, BitVec.extractLsb'_toNat, BitVec.toNat_ofNat, Nat.shiftRight_eq_div_pow]
  omega

/-! ### The cases of the instruction -/

/-- R70, R71, R77, R82: the crew's work, or its save area, has to be waited for. -/
def State.SetvlWaits (s : State) (sq : BitVec 2) : Prop :=
  s.me.gstate = .shrinking ∨ s.me.revoked.isSome = true ∨ s.drained s.cur = false ∨
    s.me.holds = true ∧ s.me.gsq ≠ sq ∧ (s.me.loomStopped = false ∨ s.saveWaits s.cur = true)

theorem State.setvlWaits_iff {s : State} {sq : BitVec 2} : s.SetvlWaits sq ↔
    (s.me.gstate = .shrinking ∨ s.me.revoked.isSome = true ∨ (!s.drained s.cur) = true) ∨
      (s.me.holds && s.me.gsq != sq && (!s.me.loomStopped || s.saveWaits s.cur)) = true := by
  simp [State.SetvlWaits, or_assoc, and_assoc]

/-- The context with the request of a `setvl` taken. -/
def Ctx.asks (x : Ctx) (v : Word) : Ctx := { x with vlreq := requestOf v, nofit := false }

/-- The state with that request taken. -/
def State.asks (s : State) (v : Word) : State := s.setMe (s.me.asks v)

theorem State.me_asks (s : State) (v : Word) : (s.asks v).me = s.me.asks v := State.me_setMe ..

theorem State.ctx_asks (s : State) (v : Word) : (s.asks v).ctx s.cur = s.me.asks v := State.ctx_setMe_self ..

/-- The lanes that a crew of the asked shape takes. -/
def State.taken (s : State) (v : Word) : Nat := min (askedLen v) s.me.slots.length

/-- A spilled record that the change of `vl` would read is wrong (R310). -/
def State.setvlBad (s : State) (v : Word) : Bool :=
  ((s.asks v).setVlReads s.cur (s.taken v)).any ((s.asks v).spillBad s.cur)

/-- The crew's lanes given up for another request, its contexts saved where it holds lanes (R70, R77, R84). -/
def State.givesBack (s : State) (v : Word) : State :=
  if s.me.holds then ((s.asks v).saveRecords s.cur).returnLanes s.cur
  else if s.me.slots.isEmpty && s.me.joining.isEmpty && s.me.here.isEmpty then s.asks v
  else (s.asks v).returnLanes s.cur

/-- The context that asks the Ostler for lanes. -/
def Ctx.requests (y : Ctx) (g : GState) (now : Nat) (rd : RegNo) : Ctx :=
  { y with gstate := if g = .revoked then .revoked else .requested, asked := now, loadRd := rd }

section Setvl
variable {s : State} {rd ra : RegNo}

theorem exec_setvl : exec (.setvl rd ra) s = execSetvl rd ra s := rfl

theorem exec_setvl_of_no_area (len : askedLen (s.rx ra) ≠ 0) (area : s.me.vsave = 0) :
    exec (.setvl rd ra) s = raise s 0x12 0 := by
  rw [exec_setvl, execSetvl, bits_requestOf]
  exact if_pos ⟨len, area⟩

variable (area : askedLen (s.rx ra) = 0 ∨ s.me.vsave ≠ 0)
include area

theorem exec_setvl_of_waits (h : s.SetvlWaits (askedSq (s.rx ra))) : exec (.setvl rd ra) s = s.park .again := by
  rw [exec_setvl, execSetvl, bits_requestOf, extractLsb'_requestOf]
  refine (if_neg (by tauto)).trans ?_
  by_cases crew : s.me.gstate = .shrinking ∨ s.me.revoked.isSome = true ∨ (!s.drained s.cur) = true
  · exact if_pos crew
  · exact (if_neg crew).trans (if_pos ((State.setvlWaits_iff.mp h).resolve_left crew))

variable (ready : ¬ s.SetvlWaits (askedSq (s.rx ra)))
include ready

theorem exec_setvl_of_ready : exec (.setvl rd ra) s =
    if askedLen (s.rx ra) = 0 then ((s.asks (s.rx ra)).dropGrant s.cur).done rd 0
    else if s.me.holds && decide (s.me.gsq = askedSq (s.rx ra)) && s.setvlBad (s.rx ra) then
      ((s.asks (s.rx ra)).setMe { (s.asks (s.rx ra)).me with loadRd := rd }).park .setvl
    else if s.me.holds && !decide (s.me.gsq = askedSq (s.rx ra)) && s.me.locals.any (s.spillBad s.cur) then
      (s.setMe { s.me with gstate := .revoked, revoked := some s.now }).park .again
    else if s.me.holds && decide (s.me.gsq = askedSq (s.rx ra)) then
      let u := (s.asks (s.rx ra)).setVl s.cur (s.taken (s.rx ra))
      let u := u.setMe { u.me with gstate := u.me.fitState }
      u.done rd (BitVec.ofNat 64 u.me.vl)
    else
      let u := s.givesBack (s.rx ra)
      (u.setMe (u.me.requests s.me.gstate u.now rd)).park .setvl := by
  rw [exec_setvl, execSetvl, bits_requestOf, extractLsb'_requestOf]
  rw [State.setvlWaits_iff, not_or] at ready
  obtain ⟨crew, other⟩ := ready
  refine (if_neg (by tauto)).trans ((if_neg crew).trans ((if_neg other).trans ?_))
  rfl

theorem exec_setvl_of_zero (len : askedLen (s.rx ra) = 0) :
    exec (.setvl rd ra) s = ((s.asks (s.rx ra)).dropGrant s.cur).done rd 0 := by
  rw [exec_setvl_of_ready area ready, if_pos len]

variable (len : askedLen (s.rx ra) ≠ 0)
include len

theorem exec_setvl_of_restore (holds : s.me.holds = true) (same : s.me.gsq = askedSq (s.rx ra))
    (bad : s.setvlBad (s.rx ra) = true) : exec (.setvl rd ra) s = .next (s.setMe
      { s.me.asks (s.rx ra) with loadRd := rd, run := .parked .setvl }) := by
  rw [exec_setvl_of_ready area ready, if_neg len, if_pos (by simp [holds, same, bad])]
  simp only [State.asks, State.park, State.me_setMe, State.setMe_setMe]

theorem exec_setvl_of_resize (holds : s.me.holds = true) (same : s.me.gsq = askedSq (s.rx ra))
    (good : s.setvlBad (s.rx ra) = false) :
    let u := (s.asks (s.rx ra)).setVl s.cur (s.taken (s.rx ra))
    let u := u.setMe { u.me with gstate := u.me.fitState }
    exec (.setvl rd ra) s = u.done rd (BitVec.ofNat 64 u.me.vl) := by
  rw [exec_setvl_of_ready area ready, if_neg len, if_neg (by simp [good]), if_neg (by simp [same]),
    if_pos (by simp [holds, same])]

theorem exec_setvl_of_revoke (holds : s.me.holds = true) (other : s.me.gsq ≠ askedSq (s.rx ra))
    (bad : s.me.locals.any (s.spillBad s.cur) = true) : exec (.setvl rd ra) s = .next (s.setMe
      { s.me with gstate := .revoked, revoked := some s.now, run := .parked .again }) := by
  rw [exec_setvl_of_ready area ready, if_neg len, if_neg (by simp [other]), if_pos (by simp only [holds, other, bad]; decide)]
  simp only [State.park, State.me_setMe, State.setMe_setMe]

theorem exec_setvl_of_request
    (h : s.me.holds = false ∨ s.me.gsq ≠ askedSq (s.rx ra) ∧ s.me.locals.any (s.spillBad s.cur) = false) :
    let u := s.givesBack (s.rx ra)
    exec (.setvl rd ra) s = (u.setMe (u.me.requests s.me.gstate u.now rd)).park .setvl := by
  have stays : (s.me.holds && decide (s.me.gsq = askedSq (s.rx ra))) = false := by
    obtain h | ⟨h, -⟩ := h <;> simp [h]
  have good : (s.me.holds && !decide (s.me.gsq = askedSq (s.rx ra)) && s.me.locals.any (s.spillBad s.cur)) = false := by
    obtain h | ⟨-, h⟩ := h <;> simp only [h, Bool.false_and, Bool.and_false]
  rw [exec_setvl_of_ready area ready, if_neg len, stays, good, Bool.false_and, if_neg Bool.false_ne_true,
    if_neg Bool.false_ne_true, if_neg Bool.false_ne_true]

end Setvl

/-! ### What the cases leave -/

theorem State.me_setCtx (s : State) {c : Nat} (h : s.cur = c) (x : Ctx) : (s.setCtx c x).me = x := by
  subst h
  exact State.ctx_setCtx_self ..

/-- The end of an instruction with a result, in the terms of `RegIs`. -/
theorem State.done_spec {u : State} {c : Nat} (cur : u.cur = c) (rd : RegNo) (v : Word) : ∃ t, u.done rd v = .next t ∧
    RegIs u t rd v ∧ OnlyCtx c u t ∧ t.me = { u.me with x := t.me.x, pc := u.me.pc + 4 } := by
  subst cur
  refine ⟨_, u.done_eq rd v, regIs_wx u u.me rd v rfl (fun y => { y with pc := u.me.pc + 4 }) fun _ => rfl,
    onlyCtx_setMe u _, ?_⟩
  rw [State.me_setMe, Ctx.wx]
  split <;> rfl

theorem RegIs.of_x {s u t : State} {rd : RegNo} {v : Word} (h : RegIs u t rd v) (x : u.me.x = s.me.x) :
    RegIs s t rd v := by
  intro r
  have old : u.rx r = s.rx r := by rw [State.rx, State.rx, Ctx.rx, Ctx.rx, x]
  rw [h r, old]

theorem State.me_returnLanes {t : State} {c : Nat} (h : t.cur = c) : (t.returnLanes c).me = (t.ctx c).laneless := by
  subst h
  exact t.ctx_returnLanes t.cur

/-- R70: the grant dropped. -/
theorem State.me_dropGrant (s : State) : (s.dropGrant s.cur).me =
    { s.me.laneless with gstate := .idle, vl := 0, saved := none, revoked := none, seq := [] } := by
  have cur : ((s.returnLanes s.cur).discard s.cur 0).cur = s.cur := rfl
  rw [State.dropGrant_eq, State.me_setCtx _ cur]
  rfl

theorem OnlyCtx.mt {s t : State} {c : Nat} (h : OnlyCtx c s t) (d i : Nat) : t.mt d i = s.mt d i := by
  rw [h.1]
  rfl

theorem OnlyCtx.mem {s t : State} {c : Nat} (h : OnlyCtx c s t) : t.mem = s.mem := by rw [h.1]

theorem OnlyCtx.cluster {s t : State} {c : Nat} (h : OnlyCtx c s t) (cl : Nat) : t.cluster cl = s.cluster cl := by
  rw [h.1]
  rfl

theorem OnlyCtx.rest_of_setVl {s t u : State} {c : Nat} (h : OnlyCtx c u t)
    (rest : u = { s with ctxs := u.ctxs, mts := u.mts, mem := u.mem, synd := u.synd, marks := u.marks }) :
    t = { s with ctxs := t.ctxs, mts := t.mts, mem := t.mem, synd := t.synd, marks := t.marks } := by
  have only := h.1
  rw [rest] at only
  rw [only]

theorem State.rest_asks {s u : State} {v : Word}
    (h : u = { s.asks v with ctxs := u.ctxs, mts := u.mts, mem := u.mem, synd := u.synd, marks := u.marks }) :
    u = { s with ctxs := u.ctxs, mts := u.mts, mem := u.mem, synd := u.synd, marks := u.marks } := h

/-- A grant that fits (R77), and the end of a `setvl` with `vl`. -/
theorem State.done_fit_spec {u : State} {c : Nat} (cur : u.cur = c) (rd : RegNo) : ∃ t,
    (let w := u.setMe { u.me with gstate := u.me.fitState }
     w.done rd (BitVec.ofNat 64 w.me.vl)) = .next t ∧ RegIs u t rd (BitVec.ofNat 64 u.me.vl) ∧ OnlyCtx c u t ∧
      t.me = { u.me with gstate := u.me.fitState, x := t.me.x, pc := u.me.pc + 4 } := by
  subst cur
  obtain ⟨t, done, reg, ⟨rest, others⟩, me⟩ :=
    State.done_spec (u := u.setMe { u.me with gstate := u.me.fitState }) rfl rd (BitVec.ofNat 64 u.me.vl)
  rw [State.me_setMe] at me
  refine ⟨t, ?_, reg.of_x (by rw [State.me_setMe]),
    ⟨rest, fun d hd => (others d hd).trans (State.ctx_setMe_ne _ _ hd)⟩, me⟩
  simp only [State.me_setMe]
  exact done

theorem State.cur_dropGrant (s : State) (c : Nat) : (s.dropGrant c).cur = s.cur := rfl

theorem State.mem_dropGrant (s : State) (c : Nat) : (s.dropGrant c).mem = s.mem := rfl

theorem State.cluster_dropGrant (s : State) (c cl : Nat) : (s.dropGrant c).cluster cl = (s.returnLanes c).cluster cl := rfl

theorem State.ctx_dropGrant_ne (s : State) {c d : Nat} (h : d ≠ c) : (s.dropGrant c).ctx d = s.ctx d := by
  rw [State.dropGrant_eq, State.ctx_setCtx_ne _ _ h]
  exact s.ctx_returnLanes_ne h

theorem State.ctx_asks_ne (s : State) (v : Word) {d : Nat} (h : d ≠ s.cur) : (s.asks v).ctx d = s.ctx d :=
  State.ctx_setMe_ne s _ h

theorem State.cur_setVl (s : State) (c n : Nat) : (s.setVl c n).cur = s.cur := by
  rw [(s.setVl_spec c n).1]

theorem State.me_setVl (s : State) (n : Nat) : (s.setVl s.cur n).me = s.me.withVl n := by
  rw [State.me, State.cur_setVl, State.ctx_setVl]
  rfl

/-! ### Lanes given back for another request -/

/-- What stays of a context that gives its lanes back, and what goes with them. -/
structure Ctx.Returned (x y : Ctx) : Prop where
  pc : y.pc = x.pc
  regs : y.x = x.x
  request : y.vlreq = x.vlreq
  nofit : y.nofit = x.nofit
  lanes : x.slots ≠ [] ∨ x.joining ≠ [] → y.slots = [] ∧ y.joining = []
  saved : x.holds = true → y.slots = [] ∧ y.saved = some (sideOf x.gsq)

theorem Ctx.returned_saving (x : Ctx) : x.Returned x.saving.laneless :=
  ⟨rfl, rfl, rfl, rfl, fun _ => ⟨rfl, rfl⟩, fun _ => ⟨rfl, rfl⟩⟩

theorem Ctx.returned_laneless {x : Ctx} (h : x.holds = false) : x.Returned x.laneless :=
  ⟨rfl, rfl, rfl, rfl, fun _ => ⟨rfl, rfl⟩, by simp [h]⟩

theorem Ctx.returned_self {x : Ctx} (h : x.holds = false) (slots : x.slots = []) (joining : x.joining = []) :
    x.Returned x := ⟨rfl, rfl, rfl, rfl, fun _ => ⟨slots, joining⟩, by simp [h]⟩

section GivesBack
variable {s : State} {v : Word}

theorem State.givesBack_of_holds (h : s.me.holds = true) :
    s.givesBack v = ((s.asks v).saveRecords s.cur).returnLanes s.cur := if_pos h

theorem State.givesBack_of_no_lanes (h : s.me.holds = false) :
    s.me.slots = [] ∧ s.me.joining = [] ∧ s.givesBack v = s.asks v ∨ s.givesBack v = (s.asks v).returnLanes s.cur := by
  rw [State.givesBack, if_neg (by simp [h])]
  split
  next none_ =>
    simp only [Bool.and_eq_true, List.isEmpty_iff] at none_
    obtain ⟨⟨slots, joining⟩, -⟩ := none_
    exact .inl ⟨slots, joining, rfl⟩
  next => exact .inr rfl

theorem State.ctx_saveRecords_asks : ((s.asks v).saveRecords s.cur).ctx s.cur = (s.me.asks v).saving := by
  rw [State.storesOnly_saveRecords, State.ctx_asks]
  exact State.ctx_setCtx_self ..

/-- R69, R70, R77: storage as a save leaves it where lanes were held, and as it was elsewhere. -/
theorem State.givesBack_spec : (s.givesBack v).cur = s.cur ∧ (∀ d, d ≠ s.cur → (s.givesBack v).ctx d = s.ctx d) ∧
    (s.me.holds = false → (s.givesBack v).mem = s.mem) ∧
    (s.me.holds = true → (s.givesBack v).mem = ((s.asks v).saveRecords s.cur).mem) ∧
    (s.me.asks v).Returned (s.givesBack v).me := by
  have asked : ∀ d, d ≠ s.cur → (s.asks v).ctx d = s.ctx d := fun d hd => s.ctx_asks_ne v hd
  cases h : s.me.holds with
  | true =>
    have only := (s.asks v).storesOnly_saveRecords s.cur
    have cur : ((s.asks v).saveRecords s.cur).cur = s.cur := by rw [only]; rfl
    have others : ∀ d, d ≠ s.cur → ((s.asks v).saveRecords s.cur).ctx d = s.ctx d := fun d hd => by
      rw [only]
      exact (State.ctx_setCtx_ne _ _ hd).trans (asked d hd)
    rw [State.givesBack_of_holds h]
    refine ⟨(State.cur_returnLanes ..).trans cur, fun d hd => ?_, nofun, fun _ => State.mem_returnLanes .., ?_⟩
    · rw [State.ctx_returnLanes_ne _ hd, others d hd]
    · rw [State.me_returnLanes cur, State.ctx_saveRecords_asks]
      exact Ctx.returned_saving _
  | false =>
    obtain ⟨slots, joining, e⟩ | e := State.givesBack_of_no_lanes (v := v) h
    · rw [e]
      refine ⟨rfl, asked, fun _ => rfl, nofun, ?_⟩
      rw [s.me_asks v]
      exact Ctx.returned_self h slots joining
    · have cur : (s.asks v).cur = s.cur := rfl
      have mem : (s.asks v).mem = s.mem := rfl
      rw [e]
      refine ⟨(State.cur_returnLanes ..).trans cur, fun d hd => ?_, fun _ => (State.mem_returnLanes ..).trans mem, nofun, ?_⟩
      · rw [State.ctx_returnLanes_ne _ hd, asked d hd]
      · rw [State.me_returnLanes cur, State.ctx_asks]
        exact Ctx.returned_laneless h

end GivesBack

/-! ### `setvl`, case by case -/

section Cases
variable {s : State} {rd ra : RegNo} (area : askedLen (s.rx ra) = 0 ∨ s.me.vsave ≠ 0)
  (ready : ¬ s.SetvlWaits (askedSq (s.rx ra)))
include area ready

/-- R70: a request of length zero. -/
theorem setvl_zero (len : askedLen (s.rx ra) = 0) : ∃ t, exec (.setvl rd ra) s = .next t ∧ RegIs s t rd 0 ∧
    t.me.gstate = .idle ∧ t.me.vl = 0 ∧ t.me.vlreq = requestOf (s.rx ra) ∧ t.me.slots = [] ∧ t.me.pc = s.me.pc + 4 ∧
    (∀ d, d ≠ s.cur → t.ctx d = s.ctx d) ∧
    (∀ l ∈ s.me.slots, l < 512 → ∃ w ∈ (t.cluster (clusterOfCtx s.cur)).work, w.lane = l) ∧ t.mem = s.mem := by
  have dropped : ((s.asks (s.rx ra)).dropGrant s.cur).me = _ := (s.asks (s.rx ra)).me_dropGrant
  rw [State.me_asks] at dropped
  have cur : ((s.asks (s.rx ra)).dropGrant s.cur).cur = s.cur := State.cur_dropGrant ..
  have mem : ((s.asks (s.rx ra)).dropGrant s.cur).mem = s.mem := State.mem_dropGrant ..
  obtain ⟨t, done, reg, only, me⟩ := State.done_spec cur rd 0
  refine ⟨t, (exec_setvl_of_zero area ready len).trans done, reg.of_x (by rw [dropped]; rfl), ?_⟩
  rw [me, dropped]
  refine ⟨rfl, rfl, rfl, rfl, rfl, fun d hd => ?_, fun l hl real => ?_, only.mem.trans mem⟩
  · rw [only.2 d hd, State.ctx_dropGrant_ne _ hd, s.ctx_asks_ne _ hd]
  · have slots : l ∈ ((s.asks (s.rx ra)).ctx s.cur).slots := by
      rw [State.ctx_asks]
      exact hl
    rw [only.cluster, State.cluster_dropGrant]
    exact State.work_returnLanes slots real

variable (len : askedLen (s.rx ra) ≠ 0)
include len

/-- R70, R77, R79: a crew that holds lanes in the shape asked. -/
theorem setvl_resize (holds : s.me.holds = true) (same : s.me.gsq = askedSq (s.rx ra))
    (good : s.setvlBad (s.rx ra) = false) :
    let n := s.taken (s.rx ra)
    ∃ t, exec (.setvl rd ra) s = .next t ∧ RegIs s t rd (BitVec.ofNat 64 n) ∧ t.me.vl = n ∧
      t.me.vlreq = requestOf (s.rx ra) ∧ t.me.nofit = false ∧ t.me.gstate = t.me.fitState ∧ t.me.slots = s.me.slots ∧
      t.me.pc = s.me.pc + 4 ∧
      (∀ i, i < n → i < s.me.vl → ∃ m : Mt, t.mt s.cur i =
        { s.mt s.cur i with slot := m.slot, res := m.res, since := m.since, spillRec := m.spillRec }) ∧
      (∀ i, i < n → s.me.vl ≤ i → let m := t.mt s.cur i
        m.w = [] ∧ m.p = 0 ∧ m.flags = 0 ∧ m.state = .idle ∧ m.cause = 0 ∧ m.dirty = 0 ∧ m.linkq = [] ∧ m.acc0 = [] ∧
          m.acc1 = [] ∧ m.left = 0 ∧ m.blk = none ∧ m.ent = s.me.seqNext - 1) ∧
      t = { s with ctxs := t.ctxs, mts := t.mts, mem := t.mem, synd := t.synd, marks := t.marks } ∧
      (s.Sound → KeepsStorage s t) ∧ ∀ d, d ≠ s.cur → t.ctx d = s.ctx d := by
  intro n
  have run := exec_setvl_of_resize (rd := rd) area ready len holds same good
  obtain ⟨rest, -, storage⟩ := (s.asks (s.rx ra)).setVl_spec s.cur n
  have cur : ((s.asks (s.rx ra)).setVl s.cur n).cur = s.cur := State.cur_setVl ..
  have resized : ((s.asks (s.rx ra)).setVl s.cur n).me = (s.me.asks (s.rx ra)).withVl n := by
    rw [← s.me_asks, ← State.me_setVl]
    rfl
  have x : (s.asks (s.rx ra)).ctx s.cur = s.me.asks (s.rx ra) := s.ctx_asks _
  have kept {i : Nat} (hn : i < n) := State.mt_setVl_kept (s := s.asks (s.rx ra)) (c := s.cur) hn
  have new {i : Nat} (hn : i < n) := State.mt_setVl_new (s := s.asks (s.rx ra)) (c := s.cur) hn
  rw [x] at kept new
  obtain ⟨t, done, reg, only, me⟩ := State.done_fit_spec cur rd
  rw [resized] at reg me
  have fit : t.me.fitState = ((s.me.asks (s.rx ra)).withVl n).fitState := by rw [me]; rfl
  refine ⟨t, run.trans done, reg.of_x (by rw [resized]; rfl), by rw [me]; rfl, by rw [me]; rfl, by rw [me]; rfl,
    by rw [fit, me], by rw [me]; rfl, by rw [me]; rfl, fun i hn hi => ?_, fun i hn hi => ?_, ?_, fun _ b hb => ?_,
    fun d hd => ?_⟩
  · rw [only.mt]
    exact kept hn hi
  · obtain ⟨m, made⟩ := new hn hi
    rw [only.mt, made]
    exact ⟨rfl, rfl, rfl, rfl, rfl, rfl, rfl, rfl, rfl, rfl, rfl, rfl⟩
  · exact only.rest_of_setVl (State.rest_asks rest)
  · rw [only.mem, storage b hb]
    rfl
  · rw [only.2 d hd, State.ctx_setVl_ne _ hd, s.ctx_asks_ne _ hd]

/-- R70, R77, R84: a request that the Ostler has to serve. -/
theorem setvl_request
    (h : s.me.holds = false ∨ s.me.gsq ≠ askedSq (s.rx ra) ∧ s.me.locals.any (s.spillBad s.cur) = false) :
    ∃ t, exec (.setvl rd ra) s = .next t ∧ t.me.run = .parked .setvl ∧ t.me.vlreq = requestOf (s.rx ra) ∧
      t.me.nofit = false ∧ t.me.loadRd = rd ∧ t.me.pc = s.me.pc ∧ t.me.x = s.me.x ∧
      t.me.gstate = (if s.me.gstate = .revoked then .revoked else .requested) ∧
      (s.me.slots ≠ [] ∨ s.me.joining ≠ [] → t.me.slots = [] ∧ t.me.joining = []) ∧
      (s.me.holds = true → t.me.slots = [] ∧ t.me.saved = some (sideOf s.me.gsq)) ∧
      (s.me.holds = false → t.mem = s.mem) ∧ (∀ d, d ≠ s.cur → t.ctx d = s.ctx d) ∧
      (s.me.holds = true → t.mem = ((s.asks (s.rx ra)).saveRecords s.cur).mem) := by
  obtain ⟨cur, others, kept, written, pc, regs, request, nofit, lanes, saved⟩ :=
    State.givesBack_spec (s := s) (v := s.rx ra)
  have run := exec_setvl_of_request (rd := rd) area ready len h
  simp only [State.park, State.me_setMe, State.setMe_setMe] at run
  refine ⟨_, run, ?_⟩
  rw [State.me_setMe, State.setMe_mem]
  refine ⟨rfl, request, nofit, rfl, pc, regs, rfl, lanes, saved, kept, fun d hd => ?_, written⟩
  rw [State.ctx_setMe_ne _ _ (by rwa [cur]), others d hd]

end Cases

/-! ### The records of a crew whose contexts are saved (R69, R379) -/

theorem recWords_sideOf (q : BitVec 2) : recWords (sideOf q) = if q = 0 then 32 else 288 := by
  revert q
  decide

theorem Ctx.wordVa_saving (x : Ctx) (i k : Nat) : x.saving.wordVa (i, k) =
    x.vsave + BitVec.ofNat 64 (i * (8 * if x.gsq = 0 then 32 else 288)) + BitVec.ofNat 64 (8 * k) := by
  have size : (if x.saving.recSide = 0 then 256 else 2304) = 8 * recWords (sideOf x.gsq) := by
    rw [recWords, mul_ite]
    rfl
  rw [Ctx.wordVa, Ctx.recordVa, size, recWords_sideOf]
  rfl

/-- R69, R379: what storage holds after the save, at the records' places and outside them. -/
theorem saveRecords_asks {s : State} {v : Word} (sound : s.Sound) {key : Nat → Nat → Nat} {words : Nat}
    (hwords : words = if s.me.gsq = 0 then 32 else 288)
    (reaches : ∀ i k, i < s.me.vl → k < words → s.SavesAt s.cur
      (s.me.vsave + BitVec.ofNat 64 (i * (8 * words)) + BitVec.ofNat 64 (8 * k)) (key i k))
    (apart : ∀ i j k l, i < s.me.vl → j < s.me.vl → k < words → l < words → (i, k) ≠ (j, l) →
      key i k + 8 ≤ key j l ∨ key j l + 8 ≤ key i k) {i : Nat} (hi : i < s.me.vl) :
    let m := ((s.asks v).saveRecords s.cur).mem
    (∀ k, k < words → 23 ≤ k ∨ (s.mt s.cur i).dirty.getLsbD k = true →
      readDw m (key i k) = s.me.mtRead (s.mt s.cur i) k) ∧
      ∀ b, (∀ j k, j < s.me.vl → k < words → b < key j k ∨ key j k + 8 ≤ b) → readByte m b = readByte s.mem b := by
  have x : (s.asks v).ctx s.cur = s.me.asks v := s.ctx_asks v
  have size : recWords (sideOf (s.me.asks v).gsq) = words := (recWords_sideOf _).trans hwords.symm
  have at_ : ∀ e : Nat × Nat, e.1 < ((s.asks v).ctx s.cur).vl → e.2 < recWords (sideOf ((s.asks v).ctx s.cur).gsq) →
      (s.asks v).SavesAt s.cur (((s.asks v).ctx s.cur).saving.wordVa e) (key e.1 e.2) := by
    rw [x]
    rintro ⟨j, k⟩ hj hk
    have va : (s.me.asks v).saving.wordVa (j, k) =
        s.me.vsave + BitVec.ofNat 64 (j * (8 * words)) + BitVec.ofNat 64 (8 * k) := by
      rw [Ctx.wordVa_saving, hwords]
      rfl
    rw [va]
    exact (reaches j k hj (by rwa [size] at hk)).setCtx rfl
  have apart' : ∀ e f : Nat × Nat, e.1 < s.me.vl → f.1 < s.me.vl → e.2 < words → f.2 < words → e ≠ f →
      key e.1 e.2 + 8 ≤ key f.1 f.2 ∨ key f.1 f.2 + 8 ≤ key e.1 e.2 := fun e f => apart e.1 f.1 e.2 f.2
  have word := State.readDw_saveRecords at_ sound
  have byte {b : Nat} := State.readByte_saveRecords (b := b) at_
  rw [x] at word byte
  rw [size] at word byte
  refine ⟨fun k hk kept => word apart' (e := (i, k)) hi hk kept, fun b out => byte fun e hj hk => out e.1 e.2 hj hk⟩

/-- Settles O39: by what is asked and what the crew holds, with the records of a save read back from storage. -/
theorem setvlForms : Obligations.SetvlForms := by
  intro s rd ra v sq side len req x waits n u bad
  have hlen : len = askedLen v := (askedLen_eq v).symm
  have hreq : req = requestOf v := by
    rw [requestOf_eq, ← hlen]
    rfl
  have hn : n = s.taken v := by rw [State.taken, ← hlen]
  have hbad : bad = s.setvlBad v := by
    rw [State.setvlBad, ← hn, State.asks, Ctx.asks, ← hreq]
  clear_value bad n u req len
  refine ⟨fun l save => exec_setvl_of_no_area (hlen ▸ l) save, fun save w => parks_park (exec_setvl_of_waits (hlen ▸ save) w),
    fun l ready => ?zero, fun l save ready holds same wrong => ?restore, fun l save ready holds same good => ?resize,
    fun l save ready holds other wrong =>
      becomes_setMe (exec_setvl_of_revoke (.inr save) ready (hlen ▸ l) holds other wrong),
    fun l save ready h => ?request⟩
  case zero =>
    rw [hlen] at l
    rw [hreq]
    exact setvl_zero (.inl l) ready l
  case restore =>
    rw [hreq]
    exact becomes_setMe (exec_setvl_of_restore (.inr save) ready (hlen ▸ l) holds same (hbad ▸ wrong))
  case resize =>
    rw [hreq, hn]
    exact setvl_resize (.inr save) ready (hlen ▸ l) holds same (hbad ▸ good)
  case request =>
    obtain ⟨t, run, parked, asked, nofit, load, pc, regs, state, lanes, saved, kept, others, mem⟩ :=
      setvl_request (rd := rd) (.inr save) ready (hlen ▸ l) h
    rw [hreq]
    refine ⟨t, run, parked, asked, nofit, load, pc, regs, state, lanes, saved, kept, others, ?_⟩
    intro holds sound key words va reaches apart i hi
    rw [mem holds]
    exact saveRecords_asks sound rfl reaches apart hi

end Sys2Proof.Machine
end

section
/-!
PROOFS. What the accesses that wait at register windows leave of a context, and the end of a context (R49, R64, R121, R301).
-/

namespace Sys2Proof.Machine

/-! ### Steps that start, stop and free no context -/

/-- Every context is as runnable as before, and every launch record is as before. -/
structure State.SameRuns (s t : State) : Prop where
  run : ∀ c, (t.ctx c).run = (s.ctx c).run
  recs : t.recs = s.recs

namespace State.SameRuns
variable {s t u : State}

theorem refl (s : State) : s.SameRuns s := ⟨fun _ => rfl, rfl⟩

theorem trans (h : s.SameRuns t) (k : t.SameRuns u) : s.SameRuns u :=
  ⟨fun c => (k.run c).trans (h.run c), k.recs.trans h.recs⟩

theorem foldl {ι : Type} {f : State → ι → State} (h : ∀ (s : State) i, s.SameRuns (f s i)) (l : List ι) (s : State) :
    s.SameRuns (l.foldl f s) := by
  induction l generalizing s with
  | nil => exact refl s
  | cons i l ih => exact (h s i).trans (ih _)

theorem of_ctxs (ctxs : t.ctxs = s.ctxs) (recs : t.recs = s.recs) : s.SameRuns t :=
  ⟨fun c => by rw [State.ctx, ctxs]; rfl, recs⟩

theorem of_setCtx {c : Nat} {x : Ctx} (h : x.run = (s.ctx c).run) : s.SameRuns (s.setCtx c x) := by
  refine ⟨fun d => ?_, rfl⟩
  by_cases hd : d = c
  · rw [hd, State.ctx_setCtx_self, h]
  · rw [State.ctx_setCtx_ne _ _ hd]

theorem ite {p : Prop} [Decidable p] (h : s.SameRuns t) (k : s.SameRuns u) : s.SameRuns (if p then t else u) := by
  split
  · exact h
  · exact k

end State.SameRuns

/-! ### Accesses that wait at register windows (R49, R121) -/

theorem Ctx.run_csrWrite (x : Ctx) (sys : Bool) (i : Nat) (v : Word) : (x.csrWrite sys i v).run = x.run := by
  unfold Ctx.csrWrite
  split <;> simp only [apply_ite Ctx.run, ite_self]

theorem Ctx.run_geoWrite (x : Ctx) (b i : Nat) (v : Word) : (x.geoWrite b i v).run = x.run := by
  simp only [Ctx.geoWrite, apply_ite Ctx.run, ite_self]

/-- R121: a write of a context's image does not say whether it runs. -/
theorem Ctx.run_ctlWrite (x : Ctx) (n : Nat) (v : Word) : (x.ctlWrite n v).run = x.run := by
  simp only [Ctx.ctlWrite, apply_ite Ctx.run, Ctx.wx_run, Ctx.run_csrWrite, Ctx.run_geoWrite, ite_self]

theorem State.StoresOnly.sameRuns {s t : State} (h : s.StoresOnly t) : s.SameRuns t := by
  rw [h]
  exact .of_ctxs rfl rfl

theorem State.sameRuns_saveWrite (s : State) (c : Nat) (va v : Word) (log : Bool) :
    s.SameRuns (s.saveWrite c va v log) := by
  have unlogged : ∀ u : State, u.SameRuns { u with wlog := s.wlog } := fun _ => .of_ctxs rfl rfl
  simp only [State.saveWrite]
  split
  · split
    · exact .refl s
    · split
      · exact (s.storesOnly_storeMem ..).sameRuns
      · exact (s.storesOnly_storeMem ..).sameRuns.trans (unlogged _)
  · exact .refl s

theorem State.sameRuns_putDw (s : State) (k : Nat) (v : Word) : s.SameRuns (putDw s k v) := .of_ctxs rfl rfl

theorem State.sameRuns_writeSpill (s : State) (c i : Nat) : s.SameRuns (s.writeSpill c i) := by
  simp only [State.writeSpill]
  split
  · exact .refl s
  · exact .foldl (fun t (e : Nat × Word) => t.sameRuns_putDw _ e.2) _ s

theorem State.sameRuns_putMt (s : State) (c i : Nat) (m : Mt) : s.SameRuns (s.putMt c i m) :=
  (State.SameRuns.of_ctxs (s := s) (t := s.setMt c i m) rfl rfl).trans (State.sameRuns_writeSpill _ c i)

theorem State.sameRuns_winWrite (s : State) (l : Level) (w : Win) (v : Word) : s.SameRuns (s.winWrite l w v) := by
  cases w
  case control c off => exact .of_setCtx (Ctx.run_ctlWrite ..)
  case vtab => exact .of_ctxs rfl rfl
  case micro c i off =>
    simp only [State.winWrite]
    refine .ite ?_ (s.sameRuns_putMt ..)
    have stored : ∀ (p : Prop) [Decidable p] (va v : Word), s.SameRuns (if p then s else s.saveWrite c va v false) :=
      fun _ _ _ _ => .ite (.refl s) (s.sameRuns_saveWrite ..)
    exact .ite ((stored ..).trans (State.sameRuns_saveWrite ..)) (stored ..)
  all_goals
    simp only [State.winWrite]
    split
    · exact .of_ctxs rfl rfl
    · exact .refl s

theorem State.sameRuns_reportPost (s : State) (p : Posted) (e : Exc) : s.SameRuns (s.reportPost p e) := by
  rw [State.reportPost]
  exact .ite (.of_setCtx rfl) (.of_setCtx rfl)

theorem State.sameRuns_readBack (s : State) (p : Posted) (v : Word) (e : Option Exc) : s.SameRuns (s.readBack p v e) := by
  simp only [State.readBack]
  split
  · split
    · exact s.sameRuns_reportPost ..
    · exact .of_setCtx rfl
  · split
    · exact .of_setCtx rfl
    · exact .refl s

theorem State.sameRuns_mismatch (s : State) (kind part core addr : Nat) : s.SameRuns (s.mismatch kind part core addr) :=
  .of_ctxs rfl rfl

theorem State.sameRuns_failWaiting (s : State) (p : Posted) : s.SameRuns (s.failWaiting p) := by
  rw [State.failWaiting]
  exact .ite (s.sameRuns_readBack ..) (s.sameRuns_reportPost ..)

theorem State.sameRuns_applyWaiting (s : State) (p : Posted) : s.SameRuns (s.applyWaiting p) := by
  rw [State.applyWaiting]
  have noted : ∀ (k : BitVec 8) (kind part core pa : Nat),
      s.SameRuns (if k = 0x20 then s.mismatch kind part core pa else s) :=
    fun _ _ _ _ _ => .ite (s.sameRuns_mismatch ..) (.refl s)
  split
  · split
    · exact (noted ..).trans (State.sameRuns_readBack ..)
    · exact s.sameRuns_readBack ..
  · rw [State.winPut]
    cases s.winBad p.win true with
    | none => exact s.sameRuns_winWrite ..
    | some e => exact (noted ..).trans (State.sameRuns_reportPost ..)

/-- R49: what waits at the register windows starts and frees no context. -/
theorem State.sameRuns_drainWaiting (l : List Posted) (s : State) (back : List Nat) :
    s.SameRuns (s.drainWaiting l back) := by
  have keeps : ∀ (t : State) (p : Posted), t.SameRuns { t with wbuf := t.wbuf ++ [p] } := fun _ _ => .of_ctxs rfl rfl
  induction l generalizing s back with
  | nil => exact .refl s
  | cons p l ih =>
    rw [State.drainWaiting]
    split
    · exact (keeps s p).trans (ih ..)
    · split
      · exact (s.sameRuns_applyWaiting p).trans (ih ..)
      · exact (s.sameRuns_failWaiting p).trans (ih ..)
      · exact (keeps s p).trans (ih ..)

theorem State.sameRuns_drainBuf (s : State) : s.SameRuns s.drainBuf :=
  (State.SameRuns.of_ctxs (s := s) (t := { s with wbuf := [] }) rfl rfl).trans (State.sameRuns_drainWaiting ..)

/-! ### The end of a context (R64, R301) -/

theorem State.sameRuns_releaseSlots (s : State) (c : Nat) (l : List Nat) : s.SameRuns (s.releaseSlots c l) := by
  have cleared : ∀ (s : State) (n : Nat),
      s.SameRuns (clearRange (clearRange s (tileKey (clusterOfCtx c) n) 0x6000) (planeKey (clusterOfCtx c) n) 0x100) :=
    fun _ _ => .of_ctxs rfl rfl
  exact (State.SameRuns.foldl cleared l s).trans (.of_setCtx rfl)

theorem State.recs_dropGrant (s : State) (c : Nat) : (s.dropGrant c).recs = s.recs := rfl

theorem State.recs_endContext (s : State) (c : Nat) : (s.endContext c).recs = s.recs := by
  simp only [State.endContext, (State.sameRuns_drainBuf _).recs, State.setCtx_recs, State.dropAsked, State.dropReplies,
    State.leaveTripQ, State.recs_dropGrant, State.setCluster_recs, (s.sameRuns_releaseSlots c _).recs]

/-- R301: a context that has ended is FREE, whatever waited at its register windows. -/
theorem State.run_endContext (s : State) (c : Nat) : ((s.endContext c).ctx c).run = .free := by
  rw [State.endContext, (State.sameRuns_drainBuf _).run, State.ctx_setCtx_self]

end Sys2Proof.Machine
end

section
/-!
PROOFS. `lpatch`, `larm`, `halt`, `irefresh` and `discover`, with the hub's replies and the end of the drains (R113, R174,
R298, R299, R301, R305, R306).
-/

namespace Sys2Proof.Machine

/-! ### Requests to the hub (R297-R299) -/

section Request
variable {s : State} {ra rb : RegNo} {field : BitVec 3}

theorem exec_lpatch_of_out_of_range (h : 255 < (s.rx ra).toNat) :
    exec (.lpatch ra rb field) s = raise s 0x10 (s.rx ra) := if_pos h

theorem exec_lpatch_of_in_range (h : (s.rx ra).toNat ≤ 255) :
    exec (.lpatch ra rb field) s = s.park (.lpatch (s.rx ra).toNat field.toNat (s.rx rb)) := if_neg (by omega)

theorem exec_larm_of_out_of_range (h : 255 < (s.rx ra).toNat) : exec (.larm ra) s = raise s 0x10 (s.rx ra) := if_pos h

theorem exec_larm_of_in_range (h : (s.rx ra).toNat ≤ 255) : exec (.larm ra) s =
    s.park (if s.fenceDone s.cur 0x1F0F0000 = true then .larm (s.rx ra).toNat else .again) := by
  have form : exec (.larm ra) s = execLarm ra s := rfl
  rw [form, execLarm, if_neg (by omega), wholeMesh]
  cases s.fenceDone s.cur 0x1F0F0000 <;> rfl

end Request

/-- The state with the current context parked, in which the hub answers it. -/
def State.asksHub (s : State) (w : Why) : State :=
  { s.setMe { s.me with run := .parked w } with arg := { s.arg with unit := s.cur } }

theorem State.ctx_asksHub (s : State) (w : Why) : (s.asksHub w).ctx s.cur = { s.me with run := .parked w } :=
  s.ctx_setMe_self _

theorem State.resume_asksHub (s : State) (w : Why) :
    ((s.asksHub w).ctx s.cur).resume = { s.me with run := .active, pc := s.me.pc + 4 } := by
  rw [State.ctx_asksHub]
  rfl

theorem State.ctx_setCtx_asksHub (s : State) (w : Why) (y : Ctx) (d : Nat) :
    ((s.asksHub w).setCtx s.cur y).ctx d = (s.setMe y).ctx d :=
  congrArg (fun l => look Ctx.reset l d) (put_put s.ctxs s.cur _ y)

section Idle
variable {s : State} {r : Nat} (part : (s.lrec r).part = s.partOf (s.arg.unit / 4)) (idle : (s.lrec r).state = 1)
include part idle

/-- R298: the hub takes a value that is accepted for the field. -/
theorem exec_hubLpatchRequest_of_idle {f : Nat} {v : Word} (run : (s.ctx s.arg.unit).run = .parked (.lpatch r f v))
    (ok : patchOk f v = true) : exec .hubLpatchRequest s =
      .next ((s.setRec r ((s.lrec r).patch f v)).setCtx s.arg.unit (s.ctx s.arg.unit).resume) := by
  have form : exec .hubLpatchRequest s = execHubLpatchRequest s := rfl
  simp only [form, execHubLpatchRequest, run, part, idle, ok, ne_eq, not_true_eq_false, Bool.not_true, Bool.false_eq_true,
    if_false]

/-- R299, R402: the hub arms a record that it does not refuse, or finds that it never fits. -/
theorem exec_hubLarmRequest_of_idle (run : (s.ctx s.arg.unit).run = .parked (.larm r))
    (rect : rectOk (s.lrec r).rect = true) (snap : (s.lrec r).fld 12 1 = 1 → (s.snapReg (s.lrec r).part).len ≠ 0)
    (power : s.powerRefuses r = false) :
    let t := s.setCtx s.arg.unit (s.ctx s.arg.unit).resume
    exec .hubLarmRequest s = .next (if t.neverFits r = true then t.completion r 0x4000000000000 else t.arm r) := by
  intro t
  have form : exec .hubLarmRequest s = execHubLarmRequest s := rfl
  have region : ((s.lrec r).fld 12 1 == 1 && (s.snapReg (s.partOf (s.arg.unit / 4))).len == 0) = false := by
    simpa [part] using snap
  have word : gangWord 0 false false true false false 0 0 = 0x4000000000000 := by decide
  simp only [form, execHubLarmRequest, run, rect, region, power, idle, word, Bool.not_true, Bool.or_self, Bool.false_eq_true,
    if_false, part, ne_eq, not_true_eq_false]
  exact (apply_ite Host.Outcome.next ..).symm

end Idle

/-- R298: with a record that takes the value, `lpatch` completes and writes the field. -/
theorem lpatch_completes {s : State} {ra rb : RegNo} {field : BitVec 3} (range : (s.rx ra).toNat ≤ 255)
    (part : (s.lrec (s.rx ra).toNat).part = s.partOf (s.cur / 4)) (idle : (s.lrec (s.rx ra).toNat).state = 1)
    (ok : patchOk field.toNat (s.rx rb) = true) :
    ∃ t u : State, exec (.lpatch ra rb field) s = .next t ∧
      exec .hubLpatchRequest { t with arg := { t.arg with unit := s.cur } } = .next u ∧
      u = { s with arg := u.arg, ctxs := u.ctxs, recs := u.recs } ∧ (∀ d, d ≠ s.cur → u.ctx d = s.ctx d) ∧
      u.me = { s.me with run := .active, pc := s.me.pc + 4 } ∧
      ∀ k, u.lrec k = if k = (s.rx ra).toNat then (s.lrec (s.rx ra).toNat).patch field.toNat (s.rx rb) else s.lrec k := by
  refine ⟨_, _, exec_lpatch_of_in_range range, exec_hubLpatchRequest_of_idle (s := s.asksHub _) part idle
    (congrArg Ctx.run (s.ctx_asksHub _)) ok, rfl, fun d hd => ?_, ?_, fun k => ?_⟩
  · exact (State.ctx_setCtx_ne _ _ hd).trans (s.ctx_setMe_ne _ hd)
  · exact (State.ctx_setCtx_self ..).trans (s.resume_asksHub _)
  · exact look_put ..

/-- R299: with a record that it does not refuse, the hub lets the context of a `larm` go on. -/
theorem larm_completes {s : State} {ra : RegNo} (range : (s.rx ra).toNat ≤ 255)
    (part : (s.lrec (s.rx ra).toNat).part = s.partOf (s.cur / 4)) (idle : (s.lrec (s.rx ra).toNat).state = 1)
    (fenced : s.fenceDone s.cur 0x1F0F0000 = true) (rect : rectOk (s.lrec (s.rx ra).toNat).rect = true)
    (snap : (s.lrec (s.rx ra).toNat).fld 12 1 = 1 → (s.snapReg (s.lrec (s.rx ra).toNat).part).len ≠ 0)
    (power : s.powerRefuses (s.rx ra).toNat = false) :
    let r := (s.rx ra).toNat
    let on := s.setMe { s.me with run := .active, pc := s.me.pc + 4 }
    ∃ t u : State, exec (.larm ra) s = .next t ∧ exec .hubLarmRequest { t with arg := { t.arg with unit := s.cur } } = .next u ∧
      ∃ w : State, w = { on with arg := w.arg, ctxs := w.ctxs } ∧ (∀ d, w.ctx d = on.ctx d) ∧
        u = if on.neverFits r = true then w.completion r 0x4000000000000 else w.arm r := by
  intro r on
  have parked : exec (.larm ra) s = s.park (.larm r) := by rw [exec_larm_of_in_range range, if_pos fenced]
  have reply := exec_hubLarmRequest_of_idle (s := s.asksHub (.larm r)) part idle (congrArg Ctx.run (s.ctx_asksHub _)) rect
    snap power
  have unit : (s.asksHub (.larm r)).arg.unit = s.cur := rfl
  rw [unit, State.resume_asksHub] at reply
  exact ⟨_, _, parked, reply, _, rfl, s.ctx_setCtx_asksHub _ _, rfl⟩

/-! ### The end of `halt` (R64, R301) -/

/-- R301: the state after the end of a halted context, before what waits at its windows and in its cluster's pool. -/
def State.haltEnds (s : State) (c : Nat) (app : BitVec 8) : State :=
  let g := s.gang c
  let t := (s.setRec (s.ctx c).recIdx.toNat { g with
    own := put g.own (rankIn g.placed (c / 4)) (s.ownWord c app (decide ((s.ctx c).level ≠ .app))) }).endContext c
  if g.fld 11 1 = 1 then t.setCtx c { t.ctx c with run := .retained (g.fld 32 8) }
  else (t.powerDown c).setCtx c { t.ctx c with lbanks := 0 }

theorem State.run_haltEnds (s : State) (c : Nat) (app : BitVec 8) : ((s.haltEnds c app).ctx c).run =
    if (s.gang c).fld 11 1 = 1 then .retained ((s.gang c).fld 32 8) else .free := by
  rw [State.haltEnds]
  split
  · rw [State.ctx_setCtx_self]
  · rw [State.ctx_setCtx_self]
    exact State.run_endContext ..

theorem State.own_haltEnds (s : State) (c : Nat) (app : BitVec 8) :
    ((s.haltEnds c app).lrec (s.ctx c).recIdx.toNat).own = put (s.gang c).own (rankIn (s.gang c).placed (c / 4))
      (s.ownWord c app (decide ((s.ctx c).level ≠ .app))) := by
  have recs : (s.haltEnds c app).recs = put s.recs (s.ctx c).recIdx.toNat { s.gang c with
      own := put (s.gang c).own (rankIn (s.gang c).placed (c / 4)) (s.ownWord c app (decide ((s.ctx c).level ≠ .app))) } := by
    rw [State.haltEnds]
    split <;> exact State.recs_endContext ..
  rw [State.lrec, recs, look_put_self]

theorem exec_haltDrainEnd_of_done {s : State} {app : BitVec 8} (run : (s.ctx s.arg.unit).run = .parked (.halt app))
    (drained : s.drained s.arg.unit = true) (trap : s.syncTrap s.arg.unit = false) (done : s.allDone s.arg.unit = true)
    (crew : (s.ctx s.arg.unit).revoked = none) :
    exec .haltDrainEnd s = .next ((s.haltEnds s.arg.unit app).drainBuf.poolStep (clusterOfCtx s.arg.unit)) := by
  have form : exec .haltDrainEnd s = execHaltDrainEnd s := rfl
  simp only [form, execHaltDrainEnd, run, drained, trap, done, crew, Bool.not_true, Bool.false_eq_true, if_false,
    Option.isSome_none, Bool.or_self]
  rfl

section AsksHub
variable (s : State) (w : Why)

theorem State.gang_asksHub : (s.asksHub w).gang s.cur = s.gang s.cur := by
  simp only [State.gang, State.ctx_asksHub]
  rfl

theorem State.drained_asksHub : (s.asksHub w).drained s.cur = s.drained s.cur := by
  simp only [State.drained, State.seqUsed, State.entryFreed, State.ctx_asksHub]
  rfl

theorem State.syncTrap_asksHub : (s.asksHub w).syncTrap s.cur = s.syncTrap s.cur := by
  simp only [State.syncTrap, State.trapmode, State.gang_asksHub, State.summary, State.ctx_asksHub]
  rfl

theorem State.allDone_asksHub : (s.asksHub w).allDone s.cur = s.allDone s.cur := by
  simp only [State.allDone, State.jobList, State.ctx_asksHub]
  rfl

theorem State.ownWord_asksHub (app : BitVec 8) (trapped : Bool) : (s.asksHub w).ownWord s.cur app trapped =
    gangWord app.toNat false (s.gang s.cur).rbFailed false s.me.abortEver trapped 1 s.me.ssn.toNat := by
  simp only [State.ownWord, State.gang_asksHub, State.ctx_asksHub]

end AsksHub

/-- R301: the end of a `halt` whose drains are done. -/
theorem halt_completes {s : State} {ra : RegNo} (drained : s.drained s.cur = true) (trap : s.syncTrap s.cur = false)
    (done : s.allDone s.cur = true) (crew : s.me.revoked = none) :
    ∃ t u w : State, exec (.halt ra) s = .next t ∧
      exec .haltDrainEnd { t with arg := { t.arg with unit := s.cur } } = .next u ∧
      u = w.drainBuf.poolStep (clusterOfCtx s.cur) ∧
      (w.ctx s.cur).run = (if (s.gang s.cur).fld 11 1 = 1 then .retained ((s.gang s.cur).fld 32 8) else .free) ∧
      (w.lrec s.me.recIdx.toNat).own = put (s.gang s.cur).own (rankIn (s.gang s.cur).placed (s.cur / 4))
        (gangWord ((s.rx ra).toNat % 256) false (s.gang s.cur).rbFailed false s.me.abortEver (decide (s.me.level ≠ .app)) 1
          s.me.ssn.toNat) := by
  have x := s.ctx_asksHub (.halt ((s.rx ra).setWidth 8))
  refine ⟨_, _, (s.asksHub (.halt ((s.rx ra).setWidth 8))).haltEnds s.cur ((s.rx ra).setWidth 8), rfl,
    exec_haltDrainEnd_of_done (s := s.asksHub _) (congrArg Ctx.run x) ?_ ?_ ?_ ?_, rfl, ?_, ?_⟩
  · exact (s.drained_asksHub _).trans drained
  · exact (s.syncTrap_asksHub _).trans trap
  · exact (s.allDone_asksHub _).trans done
  · exact (congrArg Ctx.revoked x).trans crew
  · rw [State.run_haltEnds, State.gang_asksHub]
  · have own := (s.asksHub (.halt ((s.rx ra).setWidth 8))).own_haltEnds s.cur ((s.rx ra).setWidth 8)
    rwa [State.gang_asksHub, State.ownWord_asksHub, x, BitVec.toNat_setWidth] at own

/-! ### `irefresh` (R174, R305) -/

theorem exec_irefresh_of_waits {s : State} (h : s.allDone s.cur = false) : exec .irefresh s = s.park .again := by
  have form : exec .irefresh s = execIrefresh s := rfl
  rw [form, execIrefresh, h]
  rfl

/-- R174, log 37: what `irefresh` leaves. -/
theorem irefresh_completes {s : State} (done : s.allDone s.cur = true) : ∃ t, exec .irefresh s = .next t ∧
    t = { s with ctxs := t.ctxs, icache := t.icache, fbuf := t.fbuf, clusters := t.clusters } ∧
    (∀ d, d ≠ s.cur → t.ctx d = s.ctx d) ∧ t.me = { s.me with pc := s.me.pc + 4 } ∧
    (∀ e, e ∈ t.icache ↔ e ∈ s.icache ∧ e.1.1 ≠ s.cur / 4) ∧ (∀ e, e ∈ t.fbuf ↔ e ∈ s.fbuf ∧ e.1.1 / 4 ≠ s.cur / 4) ∧
    ∀ cl, t.cluster cl = if cl = clusterOfCtx s.cur then { s.cluster cl with bcache := [] } else s.cluster cl := by
  have form : exec .irefresh s = execIrefresh s := rfl
  rw [form, execIrefresh, done]
  refine ⟨_, rfl, rfl, fun d hd => ?_, ?_, fun e => ?_, fun e => ?_, fun cl => ?_⟩
  · exact State.ctx_setMe_ne _ _ hd
  · exact State.me_setMe ..
  · exact List.mem_filter.trans (and_congr_right' bne_iff_ne)
  · exact List.mem_filter.trans (and_congr_right' bne_iff_ne)
  · refine (look_put ..).trans ?_
    split
    · next h =>
      subst h
      rfl
    · rfl

/-! ### `discover` (R113, R306) -/

theorem exec_discover (s : State) (rd ra : RegNo) :
    exec (.discover rd ra) s = s.done rd (s.capability (s.rx ra).toNat) := rfl

/-- R114: a format with no numeric behaviour record. -/
theorem numericRecord_eq_zero {f : Nat} (h : f ∉ [3, 4, 7, 8, 9, 10]) : numericRecord f = 0 := by
  have none_ : numericFields f = none := by
    unfold numericFields
    split
    case h_7 => rfl
    all_goals exact absurd (by decide) h
  rw [numericRecord, none_]

theorem State.capability_zero (s : State) :
    s.capability 0 = BitVec.ofNat 64 (0x5347 * 2 ^ 48 + 8 * 2 ^ 32 + s.img.stepping.toNat * 2 ^ 24) :=
  congrArg (BitVec.ofNat 64) (by simp only [packBits]; omega)

/-- R306: an index that no record has. -/
theorem State.capability_eq_zero (s : State) {n : Nat}
    (h : n ∉ [0, 1, 0x10, 0x20, 0x103, 0x104, 0x107, 0x108, 0x109, 0x10A]) : s.capability n = 0 := by
  simp only [List.mem_cons, List.not_mem_nil, or_false, not_or] at h
  obtain ⟨h0, h1, h10, h20, h3, h4, h7, h8, h9, hA⟩ := h
  simp only [State.capability, h0, h1, h10, h20, if_false]
  split
  · refine numericRecord_eq_zero ?_
    simp only [List.mem_cons, List.not_mem_nil, or_false]
    omega
  · rfl

/-- Settles O38, from what each instruction does and what the hub's reply or the end of its drains then does. -/
theorem launchAndSystem : Obligations.LaunchAndSystem := by
  intro s rd ra rb field v me r g on hub
  refine ⟨fun out => ⟨exec_lpatch_of_out_of_range out, exec_larm_of_out_of_range out⟩,
    fun range => ⟨parks_park (exec_lpatch_of_in_range range), fun waits => ?_, fun fenced => ?_⟩,
    fun range part idle => ⟨lpatch_completes range part idle, larm_completes range part idle⟩, parks_park rfl,
    halt_completes, fun waits => parks_park (exec_irefresh_of_waits waits), irefresh_completes,
    s.capability r, gives_done (exec_discover s rd ra), ?_⟩
  · exact parks_park (by rw [exec_larm_of_in_range range, if_neg (by rw [waits]; decide)])
  · exact parks_park (by rw [exec_larm_of_in_range range, if_pos fenced])
  · refine ⟨?_, ?_, ?_, ?_, ?_, ?_, ?_, ?_, ?_, ?_, s.capability_eq_zero⟩
    all_goals
      intro h
      rw [h]
    · exact s.capability_zero
    all_goals rfl

end Sys2Proof.Machine
end

section
/-!
PROOFS. The order of values and the minimum and maximum of a value and a NaN (R215).
-/

namespace Sys2Proof.Machine

/-- The order that `fmin` and `fmax` look at only between numbers puts -∞ below a NaN too. -/
theorem numCmp_negInf_nan (signalling neg : Bool) : numCmp (.inf true) (.nan signalling neg) = -1 := rfl

/-- R215: of a number and a NaN, minimum and maximum are the number. -/
theorem fpMinMax_of_right_nan {f : Fmt} {x y : Nat} (hx : (f.decode x).isNan = false) (hy : (f.decode y).isNan = true)
    (wantMax : Bool) :
    fpMinMax f wantMax x y = (x, if (f.decode x).isSig || (f.decode y).isSig then fNV else 0) := by
  simp only [fpMinMax, hx, hy, Bool.false_and, Bool.false_eq_true, if_false, if_true]

/-- Refutes O16: its clause for operands with `numCmp a b < 0` does not exclude NaNs.  Of -∞ and the canonical NaN of FP64 it
wants `fmax` to be the NaN, where R215, and the clause for one NaN operand, give -∞. -/
theorem not_floatLaws : ¬ Obligations.FloatLaws := by
  intro laws
  obtain ⟨-, -, arithmetic, -⟩ := laws
  obtain ⟨-, -, -, -, -, -, -, -, -, -, minMax, -⟩ := arithmetic f64 { mode := 0, draw := 0 } (.inl rfl)
  obtain ⟨-, -, -, less, -⟩ := minMax 0xFFF0000000000000 0x7FF8000000000000
  have left : f64.decode 0xFFF0000000000000 = .inf true := by decide
  have right : f64.decode 0x7FF8000000000000 = .nan false false := by decide
  have below : numCmp (f64.decode 0xFFF0000000000000) (f64.decode 0x7FF8000000000000) < 0 := by
    rw [left, right, numCmp_negInf_nan]
    decide
  obtain ⟨-, max, -⟩ := less below
  rw [fpMinMax_of_right_nan (by rw [left]; rfl) (by rw [right]; rfl)] at max
  exact absurd (congrArg Prod.fst max) (by decide)

end Sys2Proof.Machine
end

section
/-!
PROOFS. Translation: what it leaves of the state, and the entries on which its walk ends (R131-R135, R146, R413).
-/

namespace Sys2Proof.Machine

/-! ### What a translation can change -/

/-- Nothing differs but the TLBs, what caches hold, scrub entries, storage with its checks and write log, and what context `c`
is charged for its fills (R132, R133, R146). -/
structure State.TranslatesOnly (s t : State) (c : Nat) : Prop where
  rest : t = { s with ctxs := t.ctxs, mem := t.mem, synd := t.synd, tlb := t.tlb, l1 := t.l1, l2 := t.l2, freeN := t.freeN,
                      bad := t.bad, scrubs := t.scrubs, wlog := t.wlog }
  others : ∀ d, d ≠ c → t.ctx d = s.ctx d
  charged : Ctx.Charged (s.ctx c) (t.ctx c)

namespace State.TranslatesOnly
variable {s t u : State} {c : Nat}

theorem refl (s : State) (c : Nat) : s.TranslatesOnly s c := ⟨rfl, fun _ _ => rfl, Ctx.Charged.refl _⟩

theorem trans (h : s.TranslatesOnly t c) (k : t.TranslatesOnly u c) : s.TranslatesOnly u c := by
  refine ⟨?_, fun d hd => (k.others d hd).trans (h.others d hd), h.charged.trans k.charged⟩
  have hu := k.rest
  rw [h.rest] at hu
  exact hu

/-- A change that leaves the contexts. -/
theorem of_ctxs (h : t = { s with mem := t.mem, synd := t.synd, tlb := t.tlb, l1 := t.l1, l2 := t.l2, freeN := t.freeN,
                                  bad := t.bad, scrubs := t.scrubs, wlog := t.wlog }) : s.TranslatesOnly t c := by
  have hx : ∀ d, t.ctx d = s.ctx d := fun d => by rw [h]; rfl
  refine ⟨by rw [h], fun d _ => hx d, ?_⟩
  rw [hx]
  exact Ctx.Charged.refl _

theorem of_fills (h : s.Fills t c) (clusters : t.clusters = s.clusters) : s.TranslatesOnly t c := by
  refine ⟨?_, h.others, h.charged⟩
  have rest := h.rest
  rw [clusters] at rest
  rw [rest]

theorem of_stores (h : s.StoresOnly t) : s.TranslatesOnly t c := .of_ctxs (by rw [h])

theorem charges (h : s.TranslatesOnly t c) (d : Nat) : Ctx.Charged (s.ctx d) (t.ctx d) := by
  by_cases hd : d = c
  · exact hd ▸ h.charged
  · exact h.others d hd ▸ Ctx.Charged.refl _

theorem cur (h : s.TranslatesOnly t c) : t.cur = s.cur := by rw [h.rest]

theorem level (h : s.TranslatesOnly t c) : (t.ctx c).level = (s.ctx c).level := by rw [h.charged.1]

theorem pc (h : s.TranslatesOnly t c) : (t.ctx c).pc = (s.ctx c).pc := by rw [h.charged.1]

/-- The context makes its accesses as before. -/
theorem who (h : s.TranslatesOnly t c) : t.who c = s.who c := by
  have part : t.partOf (c / 4) = s.partOf (c / 4) := by
    rw [h.rest]
    rfl
  simp only [State.who, h.level, part]

end State.TranslatesOnly

/-! ### Fills leave the clusters and storage -/

theorem State.clusters_charge (s : State) (c n : Nat) : (s.charge c n).clusters = s.clusters := by
  unfold State.charge
  split <;> rfl

theorem State.clusters_evictSector (s : State) (c : Nat) (e : L2Ent) : (s.evictSector c e).clusters = s.clusters := by
  unfold State.evictSector
  extract_lets pa t refuse marked u x
  split
  · have back : u.clusters = s.clusters := by
      unfold u
      split <;> rfl
    split
    · exact back
    · exact back
  · rfl

theorem State.clusters_evictSectors (l : List L2Ent) (s : State) (c : Nat) :
    (l.foldl (fun t e => t.evictSector c e) s).clusters = s.clusters := by
  induction l generalizing s with
  | nil => rfl
  | cons e l ih => exact (ih _).trans (s.clusters_evictSector c e)

theorem State.clusters_touch (s : State) (c home sector : Nat) (dirty : Bool) :
    (s.touch c home sector dirty).clusters = s.clusters := by
  unfold State.touch
  extract_lets line set enter ways w used
  have enters : ∀ (t : State) (w : Nat), (enter t w).clusters = t.clusters := fun t w => State.clusters_charge _ c 256
  split
  · split <;> rfl
  · split
    · exact enters s _
    · split
      · exact enters s _
      · split
        · exact s.clusters_charge c 256
        · exact (enters _ w).trans (State.clusters_evictSectors _ used c)

theorem State.translatesOnly_touch (s : State) (c home sector : Nat) (dirty : Bool) :
    s.TranslatesOnly (s.touch c home sector dirty) c := .of_fills (s.fills_touch ..) (s.clusters_touch ..)

@[simp] theorem State.mem_touch (s : State) (c home sector : Nat) (dirty : Bool) :
    (s.touch c home sector dirty).mem = s.mem := by rw [(s.fills_touch c home sector dirty).rest]

/-- The fills for the entries that a walk has read (R133, R138). -/
def State.touchEntries (s : State) (c : Nat) (seen : List Nat) : State :=
  seen.foldl (fun s pa => s.touch c (homeOf s 32 0 pa) (sectorOf (memKey 0 pa)) false) s

theorem State.touchEntries_spec (seen : List Nat) (s : State) (c : Nat) :
    s.TranslatesOnly (s.touchEntries c seen) c ∧ (s.touchEntries c seen).mem = s.mem := by
  unfold State.touchEntries
  induction seen generalizing s with
  | nil => exact ⟨.refl s c, rfl⟩
  | cons pa seen ih =>
    obtain ⟨only, mem⟩ := ih (s.touch c (homeOf s 32 0 pa) (sectorOf (memKey 0 pa)) false)
    exact ⟨(s.translatesOnly_touch ..).trans only, mem.trans (s.mem_touch ..)⟩

/-! ### TLBs (R133) -/

theorem State.enterTlb_rest (s : State) (e : TlbEnt) :
    s.enterTlb e = { s with tlb := (s.enterTlb e).tlb, freeN := (s.enterTlb e).freeN } := by
  unfold State.enterTlb
  extract_lets same kept own victim room near further first
  have keeps : room = { s with tlb := room.tlb, freeN := room.freeN } := by
    unfold room
    split <;> rfl
  have demotes : first = { room with tlb := first.tlb, freeN := first.freeN } := by
    unfold first
    split <;> rfl
  clear_value first room
  rw [demotes, keeps]

theorem State.translatesOnly_enterTlb (s : State) (e : TlbEnt) (c : Nat) : s.TranslatesOnly (s.enterTlb e) c :=
  .of_ctxs (by rw [s.enterTlb_rest e])

/-- A walk reads no TLB (R131). -/
theorem State.walkFrom_tlb (s : State) (l : List TlbEnt) (w : Who) (va : Word) (bs : List Nat) (table : Nat)
    (seen : List Nat) : State.walkFrom { s with tlb := l } w va bs table seen = s.walkFrom w va bs table seen := by
  have reads : ∀ pa, State.walkRead { s with tlb := l } w pa = s.walkRead w pa := fun _ => rfl
  induction bs generalizing table seen with
  | nil => rfl
  | cons b bs ih => simp only [State.walkFrom, reads, ih]

theorem State.walk_tlb (s : State) (l : List TlbEnt) (w : Who) (va : Word) :
    State.walk { s with tlb := l } w va = s.walk w va := s.walkFrom_tlb ..

/-! ### A and D (R132) -/

theorem memKey_zero (pa : Nat) : memKey 0 pa = pa := by
  unfold memKey hbmKey slotOf qOf
  split
  · rw [if_neg (by omega), Nat.add_sub_cancel_left, Nat.mod_self]
    omega
  · rfl

theorem mem_storeMem (s : State) (part core pa key : Nat) (bs : List Byte) :
    (storeMem s part core pa key bs).mem = writeBytes s.mem key bs := rfl

/-- The bits that an access sets in the entries of its page: A, and D where it writes. -/
def adBits (d : Bool) : Word := if d then 0xC0 else 0x40

/-- The walker's atomic at one entry. -/
def State.markEntry (s : State) (w : Who) (d : Bool) (pa : Nat) : State :=
  let e := readDw s.mem (memKey 0 pa)
  if e ||| adBits d = e then s
  else storeMem (s.touch w.c (homeOf s 32 0 pa) (sectorOf (memKey 0 pa)) true) w.part 4096 pa (memKey 0 pa)
    (toLe (e ||| adBits d).toNat 8)

theorem State.setAD_cons (s : State) (w : Who) (d : Bool) (pa : Nat) (pas : List Nat) :
    s.setAD w d (pa :: pas) = (s.markEntry w d pa).setAD w d pas := rfl

section MarkEntry
variable (s : State) (w : Who) (d : Bool) (pa : Nat)

theorem State.translatesOnly_markEntry : s.TranslatesOnly (s.markEntry w d pa) w.c := by
  unfold State.markEntry
  extract_lets e
  split
  · exact .refl s w.c
  · exact (s.translatesOnly_touch ..).trans (.of_stores (State.storesOnly_storeMem ..))

theorem State.mem_markEntry : (s.markEntry w d pa).mem =
    if readDw s.mem pa ||| adBits d = readDw s.mem pa then s.mem
    else writeBytes s.mem pa (toLe (readDw s.mem pa ||| adBits d).toNat 8) := by
  unfold State.markEntry
  rw [memKey_zero]
  dsimp only
  split
  · rfl
  · exact (mem_storeMem ..).trans (by rw [s.mem_touch])

variable {s}

theorem State.sound_markEntry (h : s.Sound) : (s.markEntry w d pa).Sound := by
  rw [State.Sound, s.mem_markEntry]
  split
  · exact h
  · exact Memory.wf_writeBytes _ _ h

theorem State.readDw_markEntry (h : s.Sound) :
    readDw (s.markEntry w d pa).mem pa = readDw s.mem pa ||| adBits d := by
  rw [s.mem_markEntry]
  split
  · next same => exact same.symm
  · exact readDw_writeBytes h pa _

theorem State.readByte_markEntry_ne {k : Nat} (h : k < pa ∨ pa + 8 ≤ k) :
    readByte (s.markEntry w d pa).mem k = readByte s.mem k := by
  rw [s.mem_markEntry]
  split
  · rfl
  · exact readByte_writeBytes_ne _ _ _ _ (by rwa [length_toLe])

end MarkEntry

section SetAD
variable (w : Who) (d : Bool)

theorem State.translatesOnly_setAD (pas : List Nat) (s : State) : s.TranslatesOnly (s.setAD w d pas) w.c := by
  induction pas generalizing s with
  | nil => exact .refl s w.c
  | cons pa pas ih => exact (s.translatesOnly_markEntry w d pa).trans (ih _)

theorem State.readByte_setAD_ne {k : Nat} {pas : List Nat} (h : ∀ p ∈ pas, k < p ∨ p + 8 ≤ k) (s : State) :
    readByte (s.setAD w d pas).mem k = readByte s.mem k := by
  induction pas generalizing s with
  | nil => rfl
  | cons pa pas ih =>
    obtain ⟨first, others⟩ := List.forall_mem_cons.mp h
    rw [State.setAD_cons, ih others, State.readByte_markEntry_ne w d pa first]

theorem State.readDw_setAD {pas : List Nat} (apart : pas.Pairwise (· + 8 ≤ ·)) {s : State} (sound : s.Sound) :
    ∀ p ∈ pas, readDw (s.setAD w d pas).mem p = readDw s.mem p ||| adBits d := by
  induction pas generalizing s with
  | nil => nofun
  | cons pa pas ih =>
    obtain ⟨first, others⟩ := List.pairwise_cons.mp apart
    intro p hp
    rw [State.setAD_cons]
    obtain rfl | hp := List.mem_cons.mp hp
    · rw [← State.readDw_markEntry w d p sound]
      exact readDw_congr fun b _ hi => State.readByte_setAD_ne w d (fun q hq => .inl (by have := first q hq; omega)) _
    · have lower := first p hp
      have kept : readDw (s.markEntry w d pa).mem p = readDw s.mem p :=
        readDw_congr fun b lo _ => State.readByte_markEntry_ne w d pa (.inr (by omega))
      rw [ih others (State.sound_markEntry w d pa sound) p hp, kept]

end SetAD

theorem State.pageEntries_apart (s : State) (va e : Word) (at_ : Nat) :
    (s.pageEntries va e at_).Pairwise (· + 8 ≤ ·) := by
  unfold State.pageEntries
  extract_lets first as e0 rest
  clear_value first
  split
  · refine List.pairwise_map.mpr (List.pairwise_lt_range.imp fun h => ?_)
    omega
  · exact List.pairwise_singleton ..

theorem State.pageEntries_congr {s t : State} (h : t.mem = s.mem) (va e : Word) (at_ : Nat) :
    t.pageEntries va e at_ = s.pageEntries va e at_ := by
  unfold State.pageEntries
  rw [h]

/-! ### The two ways in which a translation succeeds -/

/-- The access writes, as its translation sees it. -/
def Need.writes (n : Need) : Bool := n == .w || n == .rw

theorem State.noPage_ne_ok (s : State) (w : Who) (va : Word) (n : Need) (invalid : Bool) (t : Tr) (u : State) :
    s.noPage w va n invalid ≠ .ok t u := by
  unfold State.noPage
  split <;> nofun

/-- R131-R133, R413: a scalar translation that succeeds is that of a TLB entry which serves the access, or that of a leaf
which permits it, at a state `v` from which A and D are set and the leaf enters the TLBs. -/
theorem State.scalarTr_ok {s u : State} {w : Who} {va : Word} {n : Need} {t : Tr} (h : s.scalarTr w va n = .ok t u) :
    (∃ e, s.tlbHit w va = some e ∧ tlbServes e w.level n = true ∧ t = leafTr e.leaf va (e.bits == 16) ∧ u = s) ∨
    ∃ e at_ v ent, (s.walk w va).1 = .leaf e at_ ∧ permits e w.level n = true ∧ s.TranslatesOnly v w.c ∧ v.mem = s.mem ∧
      t = leafTr e va ((v.pageEntries va e at_).length == 16) ∧
      u = (v.setAD w n.writes (v.pageEntries va e at_)).enterTlb ent := by
  unfold State.scalarTr at h
  extract_lets hit s1 d at h
  have looked : hit = s.tlbHit w va := rfl
  clear_value hit
  split at h
  · next e served =>
    obtain ⟨found, serves⟩ := Option.filter_eq_some_iff.mp served
    cases h
    exact .inl ⟨e, looked ▸ found, serves, rfl, rfl⟩
  · right
    have dropped : s1 = { s with tlb := s1.tlb } := by
      unfold s1
      split
      · split <;> rfl
      · rfl
    clear_value s1
    obtain ⟨l, rfl⟩ : ∃ l, s1 = { s with tlb := l } := ⟨_, dropped⟩
    rw [s.walk_tlb l w va] at h
    generalize hw : s.walk w va = walked at h
    obtain ⟨r, seen⟩ := walked
    dsimp only at h
    split at h
    · cases h
    · generalize hv : List.foldl _ _ seen = v at h
      obtain ⟨only, mem⟩ := State.touchEntries_spec seen { s with tlb := l } w.c
      rw [State.touchEntries, hv] at only mem
      have from_ : s.TranslatesOnly { s with tlb := l } w.c := .of_ctxs rfl
      split at h
      · exact absurd h (State.noPage_ne_ok _ _ _ _ _ _ _)
      · exact absurd h (State.noPage_ne_ok _ _ _ _ _ _ _)
      · cases h
      · next e at_ =>
        split at h
        · exact absurd h (State.noPage_ne_ok _ _ _ _ _ _ _)
        · next permitted =>
          split at h
          · cases h
          · split at h
            · cases h
            · split at h
              · cases h
              · cases h
                exact ⟨e, at_, v, _, rfl, by simpa using permitted, from_.trans only, mem, rfl, rfl⟩

/-- R133, R135: a translation in vector space that succeeds is that of the resident table. -/
theorem State.translate_vector {s u : State} {w : Who} {va : Word} {n : Need} {t : Tr} (vector : inVector va = true)
    (h : s.translate w va n = .ok t u) : u = { s with tlb := u.tlb, freeN := u.freeN } ∧
      s.vecTr (clusterOf w.core) (s.ctx w.c).vspace.toNat w.level va n = some t := by
  unfold State.translate at h
  rw [if_pos vector] at h
  split at h
  · next found =>
    cases h
    refine ⟨?_, found⟩
    split
    · rfl
    · exact s.enterTlb_rest _
  · cases h

theorem State.translate_scalar {va : Word} (scalar : inVector va = false) (s : State) (w : Who) (n : Need) :
    s.translate w va n = s.scalarTr w va n := if_neg (by simp [scalar])

/-- R131-R135, R146: whatever serves a translation, it changes the TLBs, the caches and the charges, and A and D. -/
theorem State.translatesOnly_translate {s u : State} {w : Who} {va : Word} {n : Need} {t : Tr}
    (h : s.translate w va n = .ok t u) : s.TranslatesOnly u w.c := by
  cases vector : inVector va with
  | true =>
    obtain ⟨rest, -⟩ := State.translate_vector vector h
    exact .of_ctxs (by rw [rest])
  | false =>
    rw [State.translate_scalar vector] at h
    obtain ⟨e, -, -, -, rfl⟩ | ⟨e, at_, v, ent, -, -, only, -, -, rfl⟩ := State.scalarTr_ok h
    · exact .refl _ w.c
    · exact (only.trans (State.translatesOnly_setAD w n.writes _ v)).trans (State.translatesOnly_enterTlb ..)

/-- R132, R133: the storage that a walk leaves behind it. -/
theorem State.storage_enterTlb_setAD {s v : State} (sound : s.Sound) (mem : v.mem = s.mem) (w : Who) (d : Bool)
    (va e : Word) (at_ : Nat) (ent : TlbEnt) :
    let pas := s.pageEntries va e at_
    let u := (v.setAD w d pas).enterTlb ent
    (∀ p ∈ pas, readDw u.mem (memKey 0 p) = readDw s.mem (memKey 0 p) ||| adBits d) ∧
      ∀ k, (∀ p ∈ pas, k < memKey 0 p ∨ memKey 0 p + 8 ≤ k) → readByte u.mem k = readByte s.mem k := by
  intro pas u
  have same : u.mem = (v.setAD w d pas).mem := by
    unfold u
    rw [State.enterTlb_rest]
  simp only [memKey_zero, same, ← mem]
  have canonical : v.Sound := by rw [State.Sound, mem]; exact sound
  exact ⟨State.readDw_setAD w d (s.pageEntries_apart va e at_) canonical, fun k h => State.readByte_setAD_ne w d h v⟩

theorem adBits_writes (n : Need) : adBits n.writes = if n = .w ∨ n = .rw then 0xC0 else 0x40 := by
  cases n <;> rfl

/-- Settles O17: a translation in vector space reads the resident table, one in scalar space is a TLB entry's or that of the
leaf that ends a walk. -/
theorem translationLeaves : Obligations.TranslationLeaves := by
  intro s u w va n t sound h
  have only := State.translatesOnly_translate h
  refine ⟨fun vector => State.translate_vector vector h, only.rest, only.charges, fun scalar => ?_⟩
  rw [State.translate_scalar scalar] at h
  obtain ⟨e, hit, serves, leaf, same⟩ | ⟨e, at_, v, ent, walked, permitted, -, mem, leaf, left_⟩ := State.scalarTr_ok h
  · have matched := List.find?_some hit
    simp only [Bool.and_eq_true, beq_iff_eq, Bool.not_eq_true'] at matched
    obtain ⟨⟨⟨core, space⟩, root⟩, page⟩ := matched
    exact .inl ⟨e, List.mem_of_find?_eq_some hit, core, space, root, page, serves, leaf, same⟩
  · rw [State.pageEntries_congr mem] at leaf left_
    obtain ⟨marked, kept⟩ := State.storage_enterTlb_setAD sound mem w n.writes va e at_ ent
    rw [adBits_writes, ← left_] at marked
    rw [← left_] at kept
    exact .inr ⟨e, at_, walked, permitted, leaf, marked, kept⟩

end Sys2Proof.Machine
end

section
/-!
PROOFS. Doubleword accesses of windows by a control thread (R120-R122, R145, R148, R156, R157, R221).
-/

namespace Sys2Proof.Machine

/-! ### From an access to its window item -/

theorem State.access_of_translates {s u : State} {va : Word} {op : MemOp} {t : Tr} (form : canonical va = true)
    (aligned : va.toNat % op.width = 0) (h : s.Translates u va op.need t) (keeps : Bool) :
    s.access va op keeps = u.place (s.who s.cur) t va op keeps := by
  have only : s.TranslatesOnly u s.cur := State.translatesOnly_translate h
  have access : s.access va op keeps = u.place (u.who u.cur) t va op keeps := by
    simp only [State.access, form, Bool.not_true, Bool.false_eq_true, if_false, aligned, ne_eq, not_true_eq_false, h]
  rw [access, only.cur, only.who]

theorem State.place_of_window {t : Tr} {cl off : Nat} (place : placeOf t.pa = .window cl off) {op : MemOp}
    (form : op.windowForm = true) (u : State) (w : Who) (va : Word) (keeps : Bool) :
    u.place w t va op keeps = u.winAccess w (winOf cl off) t.pa va op := by
  simp only [State.place, place, form, if_true]

/-! ### The rule of each case of a window access -/

section WinAccess
variable {u : State} {w : Who} {win : Win} {pa : Nat} {va : Word} {op : MemOp}

theorem State.winAccess_of_shut (shut : u.winState w.level win = .fault) :
    u.winAccess w win pa va op = .exc { cause := 0x07, val := va } u := by
  simp only [State.winAccess, shut]

/-- R145: an access that reaches a gated unit begins its wake-up. -/
theorem State.winAccess_of_asleep (opened : u.winState w.level win ≠ .fault) (asleep : u.winAsleep win = true) :
    u.winAccess w win pa va op = .stall (u.winWake win) := by
  unfold State.winAccess
  split
  · next shut => exact absurd shut opened
  · rw [if_pos asleep]

/-- R157: a load of an item that is neither in the core's local memory nor its emulation record. -/
theorem State.winAccess_load_of_away (opened : u.winState w.level win ≠ .fault) (awake : u.winAsleep win = false)
    (away : ∀ o, win ≠ .local_ w.core o ∧ win ≠ .emu w.core o) (n : Nat) :
    u.winAccess w win pa va (.load n) = .waits (.window pa va) u := by
  unfold State.winAccess
  split
  · next shut => exact absurd shut opened
  · rw [if_neg (by simp [awake])]
    dsimp only
    split
    · next k o _ => exact if_neg fun same : k = w.core => (away o).1 (same ▸ rfl)
    · next k o _ => exact if_neg fun same : k = w.core => (away o).2 (same ▸ rfl)
    · rfl

/-- R148: a load of the core's own local memory. -/
theorem State.winAccess_load_of_local {o : Nat} (awake : u.winAsleep (.local_ w.core o) = false) (n : Nat) :
    u.winAccess w (.local_ w.core o) pa va (.load n) = u.winLoad w (.local_ w.core o) pa va := by
  unfold State.winAccess
  split
  · next shut => cases shut
  · rw [if_neg (by simp [awake])]
    exact if_pos rfl

theorem State.winLoad_of_local {o : Nat} (unmarked : u.marks.contains (localKey w.core o / 8 * 8) = false)
    (right : checkFails u (localKey w.core o) = false) :
    u.winLoad w (.local_ w.core o) pa va =
      .value (readDw u.mem (localKey w.core o)) (u.useBank w.c (.local_ w.core o)) := by
  simp only [State.winLoad, State.winKey, State.badChip, unmarked, State.badCheck, right, Bool.false_eq_true, if_false]

/-- R148: a store to another core's local memory is posted. -/
theorem State.winAccess_store_of_local {k o : Nat} (other : k ≠ w.core) (awake : u.winAsleep (.local_ k o) = false)
    (n : Nat) (v : Word) :
    u.winAccess w (.local_ k o) pa va (.store n v) = .value 0 { u with
      posted := u.posted ++ [{ from_ := w.c, level := w.level, va := va, pa := pa, data := v, width := 8, op := 0 }] } := by
  have sent : Win.posted (.local_ k o) w.core = true := bne_iff_ne.mpr other
  unfold State.winAccess
  split
  · next shut => cases shut
  · rw [if_neg (by simp [awake])]
    exact if_pos sent

end WinAccess

/-! ### The instructions -/

section LoadStore
variable {s u : State} {n : Nat} {va : Word}

theorem State.load_of_exc {e : Exc} (h : s.access va (.load n) = .exc e u) (signed : Bool) (rd : RegNo) :
    s.load n signed rd va = .next (u.trapAt u.cur u.me.pc e) := by
  simp only [State.load, h, Ans.other]

theorem State.load_of_stall (h : s.access va (.load n) = .stall u) (signed : Bool) (rd : RegNo) :
    s.load n signed rd va = .next u := by
  simp only [State.load, h, Ans.other]

theorem State.load_of_value {v : Word} (h : s.access va (.load n) = .value v u) (signed : Bool) (rd : RegNo) :
    s.load n signed rd va = u.done rd (extend n signed v) := by
  simp only [State.load, h]

theorem State.load_of_waits {why : Why} (h : s.access va (.load n) = .waits why u) (signed : Bool) (rd : RegNo) :
    s.load n signed rd va =
      .next (u.setMe { u.me with run := .parked why, loadRd := rd, loadW := n, loadSigned := signed }) := by
  simp only [State.load, h, State.park, State.me_setMe, State.setMe_setMe]

theorem State.store_of_exc {e : Exc} {v : Word} (h : s.access va (.store n v) = .exc e u) :
    s.store n va v = .next (u.trapAt u.cur u.me.pc e) := by
  simp only [State.store, h, Ans.other]

theorem State.store_of_stall {v : Word} (h : s.access va (.store n v) = .stall u) : s.store n va v = .next u := by
  simp only [State.store, h, Ans.other]

theorem State.store_of_value {v x : Word} (h : s.access va (.store n v) = .value x u) :
    s.store n va v = .next u.next := by
  simp only [State.store, h]

end LoadStore

theorem exec_ld (s : State) (rd ra : RegNo) (imm : BitVec 12) :
    exec (.ld rd ra imm) s = s.load 8 true rd (s.rx ra + imm.signExtend 64) := rfl

theorem exec_sd (s : State) (ra rb : RegNo) (imm : BitVec 12) :
    exec (.sd ra rb imm) s = s.store 8 (s.rx ra + imm.signExtend 64) (s.rx rb) := rfl

/-- The end of an instruction with a result, on a context that it has changed. -/
theorem State.done_setMe {u : State} {c : Nat} (cur : u.cur = c) {y : Ctx} (regs : y.x = u.me.x) (rd : RegNo) (v : Word) :
    ∃ w, (u.setMe y).done rd v = .next w ∧ OnlyCtx c u w ∧ RegIs u w rd v ∧
      w.me = { y with x := w.me.x, pc := y.pc + 4 } := by
  obtain ⟨w, done, reg, ⟨rest, others⟩, me⟩ := State.done_spec (u := u.setMe y) cur rd v
  rw [State.me_setMe] at me
  refine ⟨w, done, ⟨rest, fun d hd => ?_⟩, reg.of_x ?_, me⟩
  · rw [others d hd, State.ctx_setMe_ne _ _ (cur ▸ hd)]
  · rw [State.me_setMe, regs]

/-- R148, R378: the end of a load of the core's own local memory, whose bank is then in use. -/
theorem State.done_useBank {u : State} {c : Nat} (cur : u.cur = c) (rd : RegNo) (v : Word) (o : Nat) :
    ∃ w, (u.useBank c (.local_ (c / 4) o)).done rd v = .next w ∧ OnlyCtx c u w ∧ RegIs u w rd v ∧
      w.me = { u.me with x := w.me.x, pc := u.me.pc + 4, lbanks := u.me.lbanks ||| (1 <<< (o / 0x8000)) } := by
  have used : u.useBank c (.local_ (c / 4) o) = u.setMe { u.me with lbanks := u.me.lbanks ||| (1 <<< (o / 0x8000)) } := by
    subst cur
    exact if_pos rfl
  rw [used]
  refine State.done_setMe cur ?_ rd v
  rfl

/-- Settles O22, from what each case of a window access answers on the state that the translation leaves. -/
theorem windowAccesses : Obligations.WindowAccesses := by
  intro s u rd ra rb imm t cl off k o a v form aligned place reads writes item shut core
  have frame : ∀ {n : Need}, s.Translates u a n t → u.cur = s.cur ∧ u.me.pc = s.me.pc := fun h => by
    have only := State.translatesOnly_translate h
    exact ⟨only.cur, by rw [State.me, only.cur]; exact only.pc⟩
  have loads (h : reads) : s.access a (.load 8) = u.winAccess (s.who s.cur) item t.pa a (.load 8) :=
    (State.access_of_translates (op := .load 8) form aligned h true).trans (State.place_of_window place rfl ..)
  have stores (h : writes) : s.access a (.store 8 v) = u.winAccess (s.who s.cur) item t.pa a (.store 8 v) :=
    (State.access_of_translates (op := .store 8 v) form aligned h true).trans (State.place_of_window place rfl ..)
  refine ⟨fun closed => ⟨fun h => ?_, fun h => ?_⟩, fun opened asleep => ⟨fun h => ?_, fun h => ?_⟩,
    fun h mine awake right unmarked => ?_, fun h opened awake away => ?_, fun h theirs other awake => ?_⟩
  · exact State.load_of_exc ((loads h).trans (State.winAccess_of_shut closed)) true rd
  · exact State.store_of_exc ((stores h).trans (State.winAccess_of_shut closed))
  · exact State.load_of_stall ((loads h).trans (State.winAccess_of_asleep opened asleep)) true rd
  · exact State.store_of_stall ((stores h).trans (State.winAccess_of_asleep opened asleep))
  · have answer := loads h
    rw [mine] at answer
    have own := answer.trans (State.winAccess_load_of_local (w := s.who s.cur) awake 8)
    have answer := own.trans (State.winLoad_of_local (w := s.who s.cur) unmarked right)
    obtain ⟨cur, pc⟩ := frame h
    rw [exec_ld, State.load_of_value answer, ← pc]
    exact State.done_useBank cur rd _ o
  · obtain ⟨cur, -⟩ := frame h
    refine ⟨_, State.load_of_waits ((loads h).trans (State.winAccess_load_of_away opened awake away 8)) true rd,
      cur ▸ onlyCtx_setMe u _, State.me_setMe ..⟩
  · have answer := stores h
    rw [theirs] at answer awake
    have answer := answer.trans (State.winAccess_store_of_local (w := s.who s.cur) other awake 8 v)
    obtain ⟨cur, pc⟩ := frame h
    rw [exec_sd, State.store_of_value answer, ← pc]
    exact ⟨_, rfl, State.me_setMe .., fun d hd => State.ctx_setMe_ne _ _ (cur ▸ hd), rfl⟩

end Sys2Proof.Machine
end

section
/-!
PROOFS. A status register written while an access waits in the window-write buffers (R49, R129, R228).
-/

namespace Sys2Proof.Machine

theorem State.winState_of_open_control {s : State} {l : Level} {c off : Nat} (level : l ≠ .app)
    (opened : (s.ctx c).open_ = true) : s.winState l (.control c off) = .go := by
  simp only [State.winState, if_neg level, opened, if_true]

theorem State.applyWaiting_of_control {s : State} {p : Posted} {c off : Nat} (writes : p.reads = false)
    (item : p.win = .control c off) : s.applyWaiting p = s.setCtx c ((s.ctx c).ctlWrite (off / 8) p.data) := by
  simp only [State.applyWaiting, writes, Bool.false_eq_true, if_false, State.winPut, item, State.winBad, State.winWrite]

/-- A posted store to a control block that waits as the only access of the window-write buffers is applied, once its owning
context has opened, as a store to the context (R49, R121). -/
theorem State.drainBuf_of_control {s : State} {p : Posted} {c off : Nat} (waits : s.wbuf = [p]) (writes : p.reads = false)
    (item : p.win = .control c off) (level : p.level ≠ .app) (opened : (s.ctx c).open_ = true) :
    s.drainBuf = { s with wbuf := [] }.setCtx c ((s.ctx c).ctlWrite (off / 8) p.data) := by
  have go : State.winState { s with wbuf := [] } p.level p.win = .go := item ▸ State.winState_of_open_control level opened
  rw [State.drainBuf, waits, State.drainWaiting, List.contains_nil, if_neg Bool.false_ne_true, go]
  exact State.applyWaiting_of_control writes item

/-- A store of the value 1 to the `bfmt` doubleword of the control block of context 0. -/
def bankFormatStore : Posted :=
  { from_ := 0, level := .sys, va := 0x80040218, pa := 0x800000040218, data := 1, width := 8, op := 0 }

/-- Context 0 in its exchange phase, with a store to its own `bfmt` waiting. -/
def bankFormatWaits : State :=
  { State.reset.setMe { State.reset.me with run := .active, xch := true } with wbuf := [bankFormatStore] }

theorem win_bankFormatStore : bankFormatStore.win = .control 0 0x218 := by decide

theorem State.csrGuard_of_open {s : State} {idx : BitVec 12} (opened : csrFault s.me.level idx.toNat = none) (i : Instr)
    (ok : Res') : s.csrGuard i idx ok = ok := by
  unfold State.csrGuard
  split
  · next closed => exact absurd (opened.symm.trans closed) nofun
  · rfl

theorem State.csrPut_of_ne_tlbinv (s : State) {i : Nat} (other : i ≠ 0x101) (v : Word) :
    s.csrPut i v = (s.setMe (s.me.csrWrite (s.me.level != .app) i v)).drainBuf := if_neg other

/-- R228: a write of a status register that is open to the level. -/
theorem exec_csrw_of_open {s : State} {ra : RegNo} {idx : BitVec 12} (opened : csrFault s.me.level idx.toNat = none) :
    exec (.csrw ra idx) s = .next (s.csrPut idx.toNat (s.rx ra)).next :=
  State.csrGuard_of_open opened (.csrw ra idx) _

/-- Refutes O28: its clause on the bank formats asks nothing of the window-write buffers, and `csrw` applies, after its own
write, what waits there for the context (R49): here a store of another format to `bfmt` itself. -/
theorem not_bankFormatsAndTlbinv : ¬ Obligations.BankFormatsAndTlbinv := by
  intro holds
  obtain ⟨formats, -⟩ := holds bankFormatWaits 0 0 (.csrw 0 0x004) 0
  obtain ⟨t, ran, field, -⟩ := formats (by decide) (.head _)
  rw [exec_csrw_of_open (by decide +kernel), State.csrPut_of_ne_tlbinv _ (by decide),
    State.drainBuf_of_control rfl rfl win_bankFormatStore (by decide) (by decide +kernel)] at ran
  cases ran
  exact absurd field (by decide +kernel)

end Sys2Proof.Machine
end

section
/-!
PROOFS. Copy and Gleaner jobs submitted: the checks of `copyj` and `gleanj`, the full queue, and the job that enters (R267,
R269, R271-R275, R283).
-/

namespace Sys2Proof.Machine

/-! ### The checks -/

/-- The follow-on field of a card's control word (R271). -/
theorem bits_follow (ctl : Word) : bits ctl 2 2 = ctl.toNat / 4 % 4 := by
  rw [bits, BitVec.extractLsb'_toNat, Nat.shiftRight_eq_div_pow]

theorem State.badOperand_eq {i : Instr} {w : IWord} (h : encode i = some w) (s : State) :
    s.badOperand i = .next (s.trapAt s.cur s.me.pc { cause := 0x0D, val := w.setWidth 64 }) := by
  rw [State.badOperand, h]
  rfl

theorem badCompletion_iff (v : Word) :
    badCompletion v = true ↔ v ≠ 0 ∧ (inVector v = false ∨ v.toNat % 8 ≠ 0) := by
  simp [badCompletion]

/-- R271, R269: the operands of a `copyj` are refused. -/
def State.copyRefused (s : State) (ra rb : RegNo) : Bool := (s.rx ra).toNat % 32 != 0 || badCompletion (s.rx rb)

theorem State.copyRefused_iff (s : State) (ra rb : RegNo) : s.copyRefused ra rb = true ↔
    (s.rx ra).toNat % 32 ≠ 0 ∨ s.rx rb ≠ 0 ∧ (inVector (s.rx rb) = false ∨ (s.rx rb).toNat % 8 ≠ 0) := by
  rw [State.copyRefused, Bool.or_eq_true, badCompletion_iff, bne_iff_ne]

/-- R274, R269: the Gleaner registers or the operands of a `gleanj` are refused. -/
def State.gleanRefused (s : State) (ra rb : RegNo) : Bool :=
  let n := (s.rx ra).toNat
  let g0 := s.me.geo 3 0
  n == 0 || n ≥ 2 ^ 32 || (s.me.geo 3 1).toNat % 8 != 0 || (s.me.geo 3 2).toNat % 8 != 0 ||
    (s.me.geo 3 3).toNat % 8 != 0 || bits g0 32 3 > 4 || bits g0 36 2 == 3 || badCompletion (s.rx rb)

theorem State.gleanRefused_eq_false_iff (s : State) (ra rb : RegNo) : s.gleanRefused ra rb = false ↔
    (1 ≤ (s.rx ra).toNat ∧ (s.rx ra).toNat < 2 ^ 32 ∧ (s.me.geo 3 1).toNat % 8 = 0 ∧ (s.me.geo 3 2).toNat % 8 = 0 ∧
      (s.me.geo 3 3).toNat % 8 = 0 ∧ ((s.me.geo 3 0).extractLsb' 32 3).toNat ≤ 4 ∧
      ((s.me.geo 3 0).extractLsb' 36 2).toNat ≠ 3) ∧
    ¬ (s.rx rb ≠ 0 ∧ (inVector (s.rx rb) = false ∨ (s.rx rb).toNat % 8 ≠ 0)) := by
  simp only [State.gleanRefused, Bool.or_eq_false_iff, beq_eq_false_iff_ne, decide_eq_false_iff_not, bne_eq_false_iff_eq,
    ← badCompletion_iff, Bool.not_eq_true, bits, ne_eq, ge_iff_le, gt_iff_lt, not_le, not_lt, Nat.one_le_iff_ne_zero,
    and_assoc]

/-- R267: the cluster's job queue is full. -/
abbrev State.queueFull (s : State) : Prop := 64 ≤ s.cards (clusterOfCtx s.cur)

/-! ### The job that enters -/

/-- The job of a card or of the Gleaner registers, with nothing of it done (R267, R273). -/
def State.submitted (s : State) (glean : Bool) (card : List Word) (count : Nat) (done : Word)
    (reads writes : List (Nat × Nat)) : Job :=
  { num := s.me.lastJob + 1, glean := glean, card := card, count := count, done := done, reads := reads, writes := writes,
    flags := 0, row := 0, byte := 0, started := false, level := s.me.level, lg0 := (s.me.geo 4 0).setWidth 32, packets := 0,
    pages := some (s.spaceTable s.cur), fail := none, got := [], left := 0, marked := false }

/-- An instruction enters a job last in its context's list, from the state `o` that its loads leave (R267): the job's number
goes to `rd`, and `more` numbers after it are taken. -/
def EntersJob (i : Instr) (s o : State) (rd : RegNo) (j : Job) (more : Nat) : Prop :=
  ∃ u : State, exec i s = .next u ∧ OnlyCtx s.cur o u ∧ RegIs o u rd j.num ∧
    u.me = { o.me with x := u.me.x, pc := o.me.pc + 4, jobs := o.me.jobs ++ [j],
                       lastJob := j.num + BitVec.ofNat 64 more, card := none }

theorem entersJob_of_submitCard {i : Instr} {s o : State} {rd : RegNo} {glean : Bool} {card : List Word} {count : Nat}
    {done : Word} {reads writes : List (Nat × Nat)} (cur : o.cur = s.cur)
    (run : exec i s = o.submitCard rd glean card count done reads writes) :
    let j := o.submitted glean card count done reads writes
    EntersJob i s o rd j (if j.follow = 0 then 0 else 1) := by
  intro j
  have last : (if j.follow = 0 then j.num else j.num + 1) = j.num + BitVec.ofNat 64 (if j.follow = 0 then 0 else 1) := by
    split
    · exact (BitVec.add_zero _).symm
    · rfl
  rw [EntersJob, ← last, run]
  refine State.done_setMe cur ?_ rd _
  rfl

/-! ### `copyj` (R271-R273) -/

/-- The card of a `copyj` read, after the doublewords of it that are kept (R271). -/
def State.cardRead (s : State) (ra : RegNo) : CardRead :=
  s.readCard (s.rx ra) (20 - (s.me.card.getD []).length) (s.me.card.getD [])

section Copyj
variable {s t : State} {rd ra rb : RegNo} {card : List Word} {o : Res'}

theorem exec_copyj_of_raises (h : s.cardRead ra = .raises o) : exec (.copyj rd ra rb) s = o := by
  have e : exec (.copyj rd ra rb) s = execCopyj rd ra rb s := rfl
  rw [e, execCopyj, ← State.cardRead, h]

theorem exec_copyj_of_full (h : ∀ o, s.cardRead ra ≠ .raises o) (good : s.copyRefused ra rb = false) (full : s.queueFull) :
    exec (.copyj rd ra rb) s = s.park .again := by
  have e : exec (.copyj rd ra rb) s = execCopyj rd ra rb s := rfl
  have parks : (!s.copyRefused ra rb && decide (s.cards (clusterOfCtx s.cur) ≥ 64)) = true := by
    rw [good, Bool.not_false, Bool.true_and]
    exact decide_eq_true full
  rw [e, execCopyj, ← State.cardRead]
  split
  · next o raised => exact absurd raised (h o)
  · exact if_pos parks

theorem exec_copyj_of_later (h : s.cardRead ra = .later o) (room : s.copyRefused ra rb = true ∨ ¬ s.queueFull) :
    exec (.copyj rd ra rb) s = o := by
  have e : exec (.copyj rd ra rb) s = execCopyj rd ra rb s := rfl
  have enters : ¬ (!s.copyRefused ra rb && decide (s.cards (clusterOfCtx s.cur) ≥ 64)) = true := by
    simpa [Bool.not_eq_true] using fun good => room.resolve_left (by simp [good])
  rw [e, execCopyj, ← State.cardRead, h]
  exact if_neg enters

theorem exec_copyj_of_card (h : s.cardRead ra = .card card t) (room : s.copyRefused ra rb = true ∨ ¬ s.queueFull) :
    exec (.copyj rd ra rb) s = if s.copyRefused ra rb then t.badOperand (.copyj rd ra rb)
      else t.copyCard (.copyj rd ra rb) rd (s.rx rb) card := by
  have e : exec (.copyj rd ra rb) s = execCopyj rd ra rb s := rfl
  have enters : ¬ (!s.copyRefused ra rb && decide (s.cards (clusterOfCtx s.cur) ≥ 64)) = true := by
    simpa [Bool.not_eq_true] using fun good => room.resolve_left (by simp [good])
  rw [e, execCopyj, ← State.cardRead, h]
  exact if_neg enters

end Copyj

/-- R271-R273, R283: the card, or the `lmma` that is to follow its copy, is refused. -/
def State.cardRefused (s : State) (card : List Word) : Bool :=
  cardBad card || (bits (nth 0 card 0) 2 2 != 0 &&
    s.loomBad s.cur (nth 0 card 6) (nth 0 card 7) ((s.me.geo 4 0).setWidth 32))

theorem State.cardRefused_iff (s : State) (card : List Word) : s.cardRefused card = true ↔
    cardBad card = true ∨ (nth 0 card 0).toNat / 4 % 4 ≠ 0 ∧
      s.loomBad s.cur (nth 0 card 6) (nth 0 card 7) ((s.me.geo 4 0).setWidth 32) = true := by
  rw [State.cardRefused, Bool.or_eq_true, Bool.and_eq_true, bne_iff_ne, bits_follow]

/-! ### `gleanj` (R274, R275) -/

section Gleanj
variable {s : State} {rd ra rb : RegNo}

theorem exec_gleanj (s : State) (rd ra rb : RegNo) : exec (.gleanj rd ra rb) s =
    if s.gleanRefused ra rb then s.badOperand (.gleanj rd ra rb)
    else if s.queueFull then s.park .again
    else
      let card := (List.range 16).map (s.me.geo 3)
      s.submitCard rd true card (s.rx ra).toNat (s.rx rb) (s.footprints card 4 (bits (nth 0 card 0) 32 3))
        (s.footprints card 12 (bits (nth 0 card 0) 36 2)) := rfl

theorem exec_gleanj_of_refused (h : s.gleanRefused ra rb = true) :
    exec (.gleanj rd ra rb) s = s.badOperand (.gleanj rd ra rb) := by
  rw [exec_gleanj, if_pos h]

theorem exec_gleanj_of_full (h : s.gleanRefused ra rb = false) (full : s.queueFull) :
    exec (.gleanj rd ra rb) s = s.park .again := by
  rw [exec_gleanj, if_neg (by simp [h]), if_pos full]

theorem exec_gleanj_of_room (h : s.gleanRefused ra rb = false) (room : ¬ s.queueFull) :
    let card := (List.range 16).map (s.me.geo 3)
    exec (.gleanj rd ra rb) s = s.submitCard rd true card (s.rx ra).toNat (s.rx rb)
      (s.footprints card 4 (bits (nth 0 card 0) 32 3)) (s.footprints card 12 (bits (nth 0 card 0) 36 2)) := by
  rw [exec_gleanj, if_neg (by simp [h]), if_neg room]

end Gleanj

/-- Settles O45: by how the reading of the card ends, whether the operands are refused, and whether the queue is full. -/
theorem jobSubmission : Obligations.JobSubmission := by
  intro s t rd ra rb w card o a b bad full held read gg ggOk enters wrong
  have refuses : s.copyRefused ra rb = true ↔ wrong := s.copyRefused_iff ra rb
  have accepts (h : ¬ wrong) : s.copyRefused ra rb = false := Bool.eq_false_iff.mpr (mt refuses.mp h)
  have gleans : s.gleanRefused ra rb = false ↔ ggOk ∧ ¬ bad := s.gleanRefused_eq_false_iff ra rb
  have submits {i : Instr} {o : State} {glean : Bool} {l : List Word} {count more : Nat} {reads writes : List (Nat × Nat)}
      (h : EntersJob i s o rd (o.submitted glean l count b reads writes) more) :
      enters i o glean l count more reads writes := by
    obtain ⟨u, run, only, reg, me⟩ := h
    exact ⟨_, u, run, only, reg, me, rfl, rfl, rfl, rfl, rfl, rfl, rfl, rfl, rfl, rfl, rfl, rfl, rfl, rfl, rfl, rfl, rfl, rfl,
      rfl⟩
  refine ⟨exec_copyj_of_raises, fun h room => exec_copyj_of_later h (room.imp_left refuses.mpr),
    fun h good queue => parks_park (exec_copyj_of_full h (accepts good) queue), fun h refused word => ?_,
    fun good room h => ⟨fun refused word => ?_, fun accepted cur => submits ?_⟩, fun refused word => ?_,
    fun ok good queue => parks_park (exec_gleanj_of_full (gleans.mpr ⟨ok, good⟩) queue),
    fun ok good room => submits (entersJob_of_submitCard rfl (exec_gleanj_of_room (gleans.mpr ⟨ok, good⟩) room))⟩
  · rw [exec_copyj_of_card h (.inl (refuses.mpr refused)), if_pos (refuses.mpr refused), State.badOperand_eq word]
  · rw [exec_copyj_of_card h (.inr room), accepts good, ← State.badOperand_eq word]
    exact if_pos (t.cardRefused_iff card |>.mpr refused)
  · have number : (if bits (nth 0 card 0) 2 2 = 0 then 0 else 1) = if (nth 0 card 0).toNat / 4 % 4 = 0 then 0 else 1 := by
      rw [bits_follow]
    have run : exec (.copyj rd ra rb) s = t.copyCard (.copyj rd ra rb) rd b card := by
      rw [exec_copyj_of_card h (.inr room), accepts good, if_neg Bool.false_ne_true]
    exact number ▸ entersJob_of_submitCard cur (run.trans (if_neg (mt (t.cardRefused_iff card).mp accepted)))
  · have found : s.gleanRefused ra rb = true :=
      Bool.not_eq_false _ ▸ fun h => (gleans.mp h).elim fun ok good => refused.elim (· ok) good
    rw [Raises, exec_gleanj_of_refused found, State.badOperand_eq word]

end Sys2Proof.Machine
end

section
/-!
PROOFS. Lists as the replies of other members and a block's stores are kept in (R246, R339).
-/

namespace Sys2Proof.Machine

section First
variable {α : Type} {f : α → Bool} {l r : List α} {a : α}

theorem findIdx_of_first (before : ∀ b ∈ l, f b = false) (here : f a = true) :
    (l ++ a :: r).findIdx f = l.length := by
  induction l with
  | nil => rw [List.nil_append, List.findIdx_cons, here, cond_true, List.length_nil]
  | cons b l ih =>
    obtain ⟨first, rest⟩ := List.forall_mem_cons.mp before
    rw [List.cons_append, List.findIdx_cons, first, cond_false, ih rest, List.length_cons]

theorem find?_of_first (before : ∀ b ∈ l, f b = false) (here : f a = true) : (l ++ a :: r).find? f = some a := by
  rw [List.find?_append, List.find?_eq_none.mpr (fun b hb => by simp [before b hb]), List.find?_cons_of_pos here,
    Option.none_or]

theorem dropFirst_of_first (before : ∀ b ∈ l, f b = false) (here : f a = true) : dropFirst f (l ++ a :: r) = l ++ r := by
  rw [dropFirst, findIdx_of_first before here, List.take_left, ← List.singleton_append, ← List.append_assoc,
    List.drop_left' (by rw [List.length_append, List.length_singleton])]

end First

/-- One position of a list replaced, as a list of pieces. -/
theorem flatten_pieces {α : Type} {l r : List α} {a b : α} {piece : Nat → List α}
    (here : piece l.length = [b]) (others : ∀ j x, j ≠ l.length → (l ++ a :: r)[j]? = some x → piece j = [x]) :
    ((List.range (l ++ a :: r).length).map piece).flatten = l ++ b :: r := by
  have pieces : (List.range (l ++ a :: r).length).map piece = (l ++ b :: r).map (fun x => [x]) := by
    refine List.ext_getElem? fun j => ?_
    by_cases same : j = l.length
    · subst same
      simp [here]
    · by_cases inside : j < (l ++ a :: r).length
      · have old := List.getElem?_eq_getElem inside
        have new : (l ++ b :: r)[j]? = (l ++ a :: r)[j]? := by
          rw [List.getElem?_append, List.getElem?_append, List.getElem?_cons, List.getElem?_cons]
          split
          · rfl
          · rw [if_neg (by omega), if_neg (by omega)]
        rw [List.getElem?_map, List.getElem?_map, List.getElem?_range inside, new, old, Option.map_some, Option.map_some,
          others j _ same old]
      · rw [List.getElem?_eq_none (by simpa using inside), List.getElem?_eq_none (by simpa using inside)]
  rw [pieces, ← List.flatMap_def, List.flatMap_singleton']

theorem map_nth_range {α : Type} (d : α) (l : List α) : (List.range l.length).map (nth d l) = l := by
  induction l with
  | nil => rfl
  | cons a l ih => rw [List.length_cons, List.range_succ_eq_map, List.map_cons, List.map_map]; exact congrArg (a :: ·) ih

/-- A block that has stored nothing reads memory as it is (R151). -/
theorem overlayOwn_nil (key : Nat) (bs : List Byte) : overlayOwn [] key bs = bs := map_nth_range 0 bs

end Sys2Proof.Machine
end

section
/-!
PROOFS. Window accesses that arrive, leases that lapse, units that wake and translations that are invalidated (R49, R121,
R133, R145, R155-R158).
-/

namespace Sys2Proof.Machine

theorem exec_tlbinvWrite (s : State) : exec .tlbinvWrite s =
    .next (if (s.ctx s.arg.unit).level = .app then s else s.tlbInvalidate (s.arg.unit / 4) s.arg.value) := by
  have e : exec .tlbinvWrite s = execTlbinvWrite s := rfl
  rw [e, execTlbinvWrite, apply_ite Host.Outcome.next]

/-! ### Posted stores (R49, R121, R158) -/

/-- How a posted store stands at its target: behind what waits there for the same owner, or by the rules of R120-R122. -/
def State.arrivalSt (s : State) (p : Posted) : WinSt :=
  if s.ownerWaits p.win && s.winState p.level p.win != .fault then .buffer else s.winState p.level p.win

section ArrivalSt
variable {s : State} {p : Posted}

theorem State.arrivalSt_of_fault (st : s.winState p.level p.win = .fault) : s.arrivalSt p = .fault := by
  rw [State.arrivalSt, st, bne_self_eq_false, Bool.and_false, if_neg Bool.false_ne_true]

theorem State.arrivalSt_of_first (first : s.ownerWaits p.win = false) : s.arrivalSt p = s.winState p.level p.win := by
  rw [State.arrivalSt, first, Bool.false_and, if_neg Bool.false_ne_true]

theorem State.arrivalSt_of_buffer (opened : s.winState p.level p.win ≠ .fault)
    (waits : s.winState p.level p.win = .buffer ∨ s.ownerWaits p.win = true) : s.arrivalSt p = .buffer := by
  unfold State.arrivalSt
  split
  · rfl
  · next first =>
    refine waits.resolve_right fun behind => first ?_
    rw [behind, Bool.true_and, bne_iff_ne]
    exact opened

end ArrivalSt

theorem exec_windowStoreArrival_of_none {s : State} (h : s.posted[s.arg.index]? = none) :
    exec .windowStoreArrival s = .next s.drainBuf := by
  have e : exec .windowStoreArrival s = execWindowStoreArrival s := rfl
  simp only [e, execWindowStoreArrival, h]

section StoreArrival
variable {s : State} {p : Posted} (sent : s.posted[s.arg.index]? = some p)
include sent

theorem exec_windowStoreArrival_of_elsewhere (h : ∀ cl off, placeOf p.pa ≠ .window cl off) :
    exec .windowStoreArrival s = .next s := by
  have e : exec .windowStoreArrival s = execWindowStoreArrival s := rfl
  rw [e]
  unfold execWindowStoreArrival
  dsimp only
  rw [sent]
  dsimp only
  split
  · next cl off place => exact absurd place (h cl off)
  · rfl

variable {cl off : Nat} (place : placeOf p.pa = .window cl off)
include place

theorem exec_windowStoreArrival_of_keptBack (h : s.keptBack s.arg.index p = true) :
    exec .windowStoreArrival s = .next s := by
  have e : exec .windowStoreArrival s = execWindowStoreArrival s := rfl
  simp only [e, execWindowStoreArrival, sent, place, h, if_true]

variable (front : s.keptBack s.arg.index p = false)
include front

theorem exec_windowStoreArrival_of_asleep (h : s.winAsleep p.win = true) :
    exec .windowStoreArrival s = .next (s.winWake p.win) := by
  have e : exec .windowStoreArrival s = execWindowStoreArrival s := rfl
  simp only [e, execWindowStoreArrival, sent, place, front, h, Bool.false_eq_true, if_false, if_true]

variable (awake : s.winAsleep p.win = false)
include awake

theorem exec_windowStoreArrival_of_go (h : s.arrivalSt p = .go) :
    exec .windowStoreArrival s = .next ((s.takePosted s.arg.index).applyWaiting p).drainBuf := by
  have e : exec .windowStoreArrival s = execWindowStoreArrival s := rfl
  rw [State.arrivalSt] at h
  simp only [e, execWindowStoreArrival, sent, place, front, awake, Bool.false_eq_true, if_false, h]

theorem exec_windowStoreArrival_of_fault (h : s.arrivalSt p = .fault) :
    exec .windowStoreArrival s =
      .next ((s.takePosted s.arg.index).reportPost p { cause := 0x07, val := p.va }) := by
  have e : exec .windowStoreArrival s = execWindowStoreArrival s := rfl
  rw [State.arrivalSt] at h
  simp only [e, execWindowStoreArrival, sent, place, front, awake, Bool.false_eq_true, if_false, h]

theorem exec_windowStoreArrival_of_buffer (h : s.arrivalSt p = .buffer) :
    exec .windowStoreArrival s = .next (if s.bufUse p.win.bufCore < 32 then
      { s.takePosted s.arg.index with wbuf := (s.takePosted s.arg.index).wbuf ++ [p] } else s) := by
  have e : exec .windowStoreArrival s = execWindowStoreArrival s := rfl
  rw [State.arrivalSt] at h
  simp only [e, execWindowStoreArrival, sent, place, front, awake, Bool.false_eq_true, if_false, h,
    apply_ite Host.Outcome.next]

theorem exec_windowStoreArrival_of_poll (h : s.arrivalSt p = .poll) :
    exec .windowStoreArrival s = .next (if p.win.owner ≠ none ∧ s.bufUse p.win.bufCore < 32 then
      { s.takePosted s.arg.index with wbuf := (s.takePosted s.arg.index).wbuf ++ [p] } else s) := by
  have e : exec .windowStoreArrival s = execWindowStoreArrival s := rfl
  rw [State.arrivalSt] at h
  simp only [e, execWindowStoreArrival, sent, place, front, awake, Bool.false_eq_true, if_false, h,
    apply_ite Host.Outcome.next, Option.isSome_iff_ne_none]

end StoreArrival

/-! ### A waiting access applied (R121, R310) -/

section ApplyWaiting
variable {s : State} {p : Posted}

theorem State.applyWaiting_of_write (writes : p.reads = false) (good : s.winBad p.win true = none) :
    s.applyWaiting p = s.winWrite p.level p.win p.data := by
  simp only [State.applyWaiting, writes, Bool.false_eq_true, if_false, State.winPut, good]

theorem State.applyWaiting_of_bad_write (writes : p.reads = false) {k : BitVec 8} {pa : Nat}
    (bad : s.winBad p.win true = some (k, pa)) : s.applyWaiting p =
      (if k = 0x20 then s.mismatch 1 (s.partOf (p.from_ / 4)) (p.from_ / 4) pa else s).reportPost p
        { cause := k, val := causeVal k p.va } := by
  simp only [State.applyWaiting, writes, Bool.false_eq_true, if_false, State.winPut, bad]

theorem State.applyWaiting_of_read (reads : p.reads = true) (good : s.winBad p.win false = none) :
    s.applyWaiting p = s.readBack p (s.winRead p.win) none := by
  simp only [State.applyWaiting, reads, if_true, good]

end ApplyWaiting

/-! ### Window loads (R49, R121, R157, R158) -/

theorem exec_windowLoadArrival_of_idle {s : State}
    (h : ∀ pa va, (s.ctx s.arg.unit).run ≠ .parked (.window pa va)) : exec .windowLoadArrival s = .next s := by
  have e : exec .windowLoadArrival s = execWindowLoadArrival s := rfl
  rw [e]
  unfold execWindowLoadArrival
  split
  · next pa va run => exact absurd run (h pa va)
  · rfl

theorem exec_windowLoadArrival_of_parked {s : State} {pa : Nat} {va : Word}
    (h : (s.ctx s.arg.unit).run = .parked (.window pa va)) :
    exec .windowLoadArrival s = State.windowLoad { s with cur := s.arg.unit } pa va := by
  have e : exec .windowLoadArrival s = execWindowLoadArrival s := rfl
  simp only [e, execWindowLoadArrival, h]

/-- A window load that nothing keeps back: the item is read once it may be and its unit is awake (R145, R310). -/
def State.loadHere (s : State) (w : Win) (pa : Nat) (va : Word) : Res' :=
  if s.winState s.me.level w != .go then .next s
  else if s.winAsleep w then .next (s.winWake w)
  else
    match s.winLoad (s.who s.cur) w pa va with
    | .value v t => t.arrived v
    | .exc e t => .next (t.trapAt t.cur t.me.pc e)
    | _ => .next s

section WindowLoad
variable {s : State} {pa : Nat} {va : Word}

theorem State.windowLoad_of_cause {v : Word} {e : Exc} (h : s.me.winBack = some (v, some e)) :
    s.windowLoad pa va = .next ((s.setMe { s.me with winBack := none }).trapAt s.cur s.me.pc e) := by
  simp only [State.windowLoad, h]

theorem State.windowLoad_of_value {v : Word} (h : s.me.winBack = some (v, none)) :
    s.windowLoad pa va = (s.setMe { s.me with winBack := none }).arrived v := by
  simp only [State.windowLoad, h]

theorem State.windowLoad_of_elsewhere (back : s.me.winBack = none) (h : ∀ cl off, placeOf pa ≠ .window cl off) :
    s.windowLoad pa va = .next s := by
  unfold State.windowLoad
  split
  · next e => exact nomatch back.symm.trans e
  · next e => exact nomatch back.symm.trans e
  · next cl off _ place => exact absurd place (h cl off)
  · rfl

/-- An earlier store of the current context to the load's target is on its way (R158). -/
def State.Behind (s : State) (w : Win) : Prop :=
  ∃ p ∈ s.posted, p.from_ = s.cur ∧ w.target ≠ none ∧ p.win.target = w.target

theorem State.behind_iff (s : State) (w : Win) : s.Behind w ↔
    (s.posted.any fun p => p.from_ == s.cur && w.target.isSome && p.win.target == w.target) = true := by
  simp only [State.Behind, List.any_eq_true, Bool.and_eq_true, beq_iff_eq, Option.isSome_iff_ne_none, and_assoc, ne_eq]

theorem State.not_behind {s : State} {w : Win} (h : ¬ s.Behind w) :
    (s.posted.any fun p => p.from_ == s.cur && w.target.isSome && p.win.target == w.target) = false :=
  Bool.eq_false_iff.mpr fun any => h ((s.behind_iff w).mpr any)

/-- The load takes its place among what waits for the owner of a register window (R49, R121). -/
def State.Queues (s : State) (w : Win) : Prop :=
  w.owner ≠ none ∧ (s.winState s.me.level w ≠ .go ∨ s.ownerWaits w = true)

theorem State.queues_iff (s : State) (w : Win) :
    s.Queues w ↔ (w.owner.isSome && (s.winState s.me.level w != .go || s.ownerWaits w)) = true := by
  simp only [State.Queues, Bool.and_eq_true, Bool.or_eq_true, bne_iff_ne, Option.isSome_iff_ne_none, ne_eq]

theorem State.not_queues {s : State} {w : Win} (h : ¬ s.Queues w) :
    (w.owner.isSome && (s.winState s.me.level w != .go || s.ownerWaits w)) = false :=
  Bool.eq_false_iff.mpr fun all => h ((s.queues_iff w).mpr all)

variable {cl off : Nat} (back : s.me.winBack = none) (place : placeOf pa = .window cl off)
include back place

theorem State.windowLoad_of_fault (shut : s.winState s.me.level (winOf cl off) = .fault) :
    s.windowLoad pa va = .next (s.trapAt s.cur s.me.pc { cause := 0x07, val := va }) := by
  simp only [State.windowLoad, back, place, shut, if_true]

variable (opened : s.winState s.me.level (winOf cl off) ≠ .fault)
include opened

theorem State.windowLoad_of_behind (h : s.Behind (winOf cl off)) : s.windowLoad pa va = .next s := by
  simp only [State.windowLoad, back, place, if_neg opened, (s.behind_iff _).mp h, if_true]

variable (first : ¬ s.Behind (winOf cl off))
include first

theorem State.windowLoad_of_queues (h : s.Queues (winOf cl off)) : s.windowLoad pa va =
    .next (if s.readWaits s.cur = true ∨ 32 ≤ s.bufUse (winOf cl off).bufCore then s else
      { s with wbuf := s.wbuf ++
          [{ from_ := s.cur, level := s.me.level, va := va, pa := pa, data := 0, width := 8, op := 16 }] }) := by
  simp only [State.windowLoad, back, place, if_neg opened, State.not_behind first,
    (s.queues_iff _).mp h, Bool.false_eq_true, if_false, if_true, apply_ite Host.Outcome.next, Bool.or_eq_true, decide_eq_true_eq]

variable (alone : ¬ s.Queues (winOf cl off))
include alone

theorem State.windowLoad_of_alone : s.windowLoad pa va = s.loadHere (winOf cl off) pa va := by
  simp only [State.windowLoad, back, place, if_neg opened, State.not_behind first, State.not_queues alone,
    Bool.false_eq_true, if_false]
  rfl

end WindowLoad

section LoadHere
variable {s : State} {w : Win} {pa : Nat} {va : Word}

theorem State.loadHere_of_closed (h : s.winState s.me.level w ≠ .go) : s.loadHere w pa va = .next s :=
  if_pos (bne_iff_ne.mpr h)

variable (go : s.winState s.me.level w = .go)
include go

theorem State.loadHere_of_asleep (h : s.winAsleep w = true) : s.loadHere w pa va = .next (s.winWake w) := by
  simp only [State.loadHere, go, bne_self_eq_false, Bool.false_eq_true, if_false, h, if_true]

variable (awake : s.winAsleep w = false)
include awake

theorem State.loadHere_of_bad {e : Exc} {t : State} (h : s.winLoad (s.who s.cur) w pa va = .exc e t) :
    s.loadHere w pa va = .next (t.trapAt t.cur t.me.pc e) := by
  simp only [State.loadHere, go, bne_self_eq_false, Bool.false_eq_true, if_false, awake, h]

theorem State.loadHere_of_good {v : Word} {t : State} (h : s.winLoad (s.who s.cur) w pa va = .value v t) :
    s.loadHere w pa va = t.arrived v := by
  simp only [State.loadHere, go, bne_self_eq_false, Bool.false_eq_true, if_false, awake, h]

end LoadHere

/-! ### Leases and units (R145, R155) -/

theorem exec_leaseLapse (s : State) : exec .leaseLapse s = .next { s with l1 := s.l1.map (fun e =>
    if e.core = s.arg.unit ∧ e.sector = s.arg.index ∧ e.expiry ≤ s.cycles (dieOf s.arg.unit) then e.lapsed else e) } := rfl

theorem exec_unitWakeUp_of_waking {s : State} {v : Nat} (h : look none s.asleep s.arg.index = some v) :
    exec .unitWakeUp s = .next { s with asleep := s.asleep.filter (fun e => e.1 != s.arg.index) } := by
  have e : exec .unitWakeUp s = execUnitWakeUp s := rfl
  simp only [e, execUnitWakeUp, h]

theorem exec_unitWakeUp_of_not_waking {s : State} (h : look none s.asleep s.arg.index = none) :
    exec .unitWakeUp s = .next s := by
  have e : exec .unitWakeUp s = execUnitWakeUp s := rfl
  simp only [e, execUnitWakeUp, h]

end Sys2Proof.Machine
end

section
/-!
PROOFS. Data and completions that come back from other members (R28, R246, R310, R339, R432).
-/

namespace Sys2Proof.Machine

/-! ### Replies and their data -/

/-- A packet is the reply that one with a tag, and with what else `f` asks of it, waits for. -/
def RemoteReq.Answers (q : RemoteReq) (tag : Nat) (f : RemoteReq → Bool) : Prop := q.kind = 6 ∧ q.tag = tag ∧ f q = true

theorem RemoteReq.answers_iff (q : RemoteReq) (tag : Nat) (f : RemoteReq → Bool) :
    q.Answers tag f ↔ (q.kind == 6 && q.tag == tag && f q) = true := by
  simp only [RemoteReq.Answers, Bool.and_eq_true, beq_iff_eq, and_assoc]

theorem State.takeReply_eq_none_iff (s : State) (tag : Nat) (f : RemoteReq → Bool) :
    s.takeReply tag f = none ↔ ∀ q ∈ s.inbox, ¬ q.Answers tag f := by
  simp only [State.takeReply, Option.map_eq_none_iff, List.find?_eq_none, RemoteReq.answers_iff]

theorem State.takeReply_of_first {s : State} {tag : Nat} {f : RemoteReq → Bool} {l r : List RemoteReq} {q : RemoteReq}
    (inbox : s.inbox = l ++ q :: r) (before : ∀ p ∈ l, ¬ p.Answers tag f) (here : q.Answers tag f) :
    s.takeReply tag f = some (q, { s with inbox := l ++ r }) := by
  have others : ∀ p ∈ l, (p.kind == 6 && p.tag == tag && f p) = false := fun p hp =>
    Bool.eq_false_iff.mpr fun all => before p hp ((p.answers_iff tag f).mpr all)
  have mine := (q.answers_iff tag f).mp here
  simp only [State.takeReply, inbox]
  rw [find?_of_first others mine, dropFirst_of_first others mine, Option.map_some]

theorem backCause_eq (k : Nat) :
    backCause k = if k ∈ [0x20, 0x21, 0x22, 0x23] then BitVec.ofNat 8 k else 0x18 := by
  simp only [backCause, List.mem_cons, List.not_mem_nil, or_false]

section TakeDatum
variable {d : Datum} (s : State) (kind part core pa n : Nat)

theorem State.takeDatum_of_mark (mark : d.mark = true) : s.takeDatum kind part core pa n d =
    .error ({ cause := 0x21, val := BitVec.ofNat 64 pa &&& ~~~0xFF }, s) := by
  rw [State.takeDatum, if_pos mark]
  rfl

theorem State.takeDatum_of_synd (mark : d.mark = false) (synd : d.synd ≠ 0) : s.takeDatum kind part core pa n d =
    .error ({ cause := 0x20, val := BitVec.ofNat 64 pa &&& ~~~7 }, s.mismatch kind part core (pa / 8 * 8)) := by
  rw [State.takeDatum, if_neg (by simp [mark]), if_pos synd]
  rfl

theorem State.takeDatum_of_right (mark : d.mark = false) (synd : d.synd = 0) : s.takeDatum kind part core pa n d =
    .ok (BitVec.ofNat 64 (d.v.toNat / 2 ^ (8 * (pa % 8)) % 2 ^ (8 * n)), s) := by
  rw [State.takeDatum, if_neg (by simp [mark]), if_neg (by simp [synd])]

end TakeDatum

/-! ### The load of a context (R157, R339) -/

theorem Ctx.wx_wakes (x : Ctx) (r : RegNo) (v : Word) :
    ({ x with run := .active } : Ctx).wx r v = { x.wx r v with run := .active } := by
  unfold Ctx.wx
  split <;> rfl

/-- R157: the data of a load end it. -/
theorem State.arrived_of_load {t : State} (watching : t.me.watching = none) (card : t.me.card = none)
    (call : t.me.call = none) (v : Word) : t.arrived v = .next (t.setMe
      { t.me.wx t.me.loadRd (extend t.me.loadW t.me.loadSigned v) with run := .active, pc := t.me.pc + 4 }) := by
  have loaded : t.arrived v = t.loaded v := by
    unfold State.arrived
    split
    · next e _ => exact nomatch watching.symm.trans e
    · rfl
  have ends : t.loaded v =
      (t.setMe { t.me with run := .active, call := none }).done t.me.loadRd (extend t.me.loadW t.me.loadSigned v) := by
    simp only [State.loaded, card, call]
  have woken := t.me.wx_wakes t.me.loadRd (extend t.me.loadW t.me.loadSigned v)
  rw [loaded, ends, State.done_eq, State.me_setMe, State.setMe_setMe, ← call]
  exact congrArg (fun x : Ctx => Host.Outcome.next (t.setMe { x with pc := t.me.pc + 4 })) woken

section DataForCtx
variable {s t : State} {c pa : Nat} {q : RemoteReq}

theorem State.dataForCtx_of_idle (h : ∀ pa, (s.ctx c).run ≠ .parked (.remote pa)) : s.dataForCtx c = .next s := by
  unfold State.dataForCtx
  dsimp only
  split
  · next pa run => exact absurd run (h pa)
  · rfl

variable (run : (s.ctx c).run = .parked (.remote pa))
include run

theorem State.dataForCtx_of_no_reply (h : s.takeReply (tagOf 0 c 0) (·.from_ pa) = none) : s.dataForCtx c = .next s := by
  simp only [State.dataForCtx, run, h]

variable (reply : s.takeReply (tagOf 0 c 0) (·.from_ pa) = some (q, t))
include reply

theorem State.dataForCtx_of_cause (h : q.cause ≠ 0) :
    s.dataForCtx c = .next (t.trapAt c (s.ctx c).pc (backExc q.cause pa)) := by
  simp only [State.dataForCtx, run, reply, if_pos h]

variable (good : q.cause = 0)
include good

theorem State.dataForCtx_of_ok {v : Word} {u : State}
    (h : t.takeDatum 1 (t.partOf (c / 4)) (c / 4) pa (s.ctx c).awaits (q.datum 0) = .ok (v, u)) :
    s.dataForCtx c = State.arrived { u with cur := c } v := by
  simp only [State.dataForCtx, run, reply, good, ne_eq, not_true_eq_false, if_false, h]

theorem State.dataForCtx_of_error {e : Exc} {u : State}
    (h : t.takeDatum 1 (t.partOf (c / 4)) (c / 4) pa (s.ctx c).awaits (q.datum 0) = .error (e, u)) :
    s.dataForCtx c = .next (u.trapAt c (s.ctx c).pc e) := by
  simp only [State.dataForCtx, run, reply, good, ne_eq, not_true_eq_false, if_false, h]

end DataForCtx

/-! ### A load or an atomic of a block (R246, R339) -/

section DataForMt
variable {s t : State} {c i w pa : Nat} {b : Blk} {rd : RegNo} {g : Bool} {q : RemoteReq}

theorem State.dataForMt_of_no_block (h : (s.mt c i).blk = none) : s.dataForMt c i = s := by
  simp only [State.dataForMt, h]

variable (blk : (s.mt c i).blk = some b)
include blk

theorem State.dataForMt_of_no_wait (h : b.wait = none) : s.dataForMt c i = s := by
  simp only [State.dataForMt, blk, h]

variable (wait : b.wait = some (rd, w, g, pa))
include wait

theorem State.dataForMt_of_no_reply (h : s.takeReply (tagOf 1 c i) (·.from_ pa) = none) : s.dataForMt c i = s := by
  simp only [State.dataForMt, blk, wait, h]

variable (reply : s.takeReply (tagOf 1 c i) (·.from_ pa) = some (q, t))
include reply

theorem State.dataForMt_of_cause (h : q.cause ≠ 0) :
    s.dataForMt c i = t.mtFault c i (s.mt c i) (backExc q.cause pa) := by
  simp only [State.dataForMt, blk, wait, reply, if_pos h]

variable (good : q.cause = 0) {u : State}
include good

theorem State.dataForMt_of_error {e : Exc}
    (h : t.takeDatum 2 (t.partOf (c / 4)) (c / 4) pa w (q.datum 0) = .error (e, u)) :
    s.dataForMt c i = u.mtFault c i (s.mt c i) e := by
  simp only [State.dataForMt, blk, wait, reply, good, ne_eq, not_true_eq_false, if_false, h]

variable {v : Word} (datum : t.takeDatum 2 (t.partOf (c / 4)) (c / 4) pa w (q.datum 0) = .ok (v, u))
include datum

theorem State.dataForMt_of_load (within : b.pos < b.words.length) (stores : b.stores = []) :
    s.dataForMt c i = u.setMt c i { s.mt c i with
      blk := some { b.dst rd (extend w g (BitVec.ofNat 64 (leNat (toLe v.toNat w)))) with
        wait := none, pos := b.pos + 1, heldSince := none, stalled := false } } := by
  simp only [State.dataForMt, blk, wait, reply, good, ne_eq, not_true_eq_false, if_false, datum, if_pos within, stores,
    overlayOwn_nil]

theorem State.dataForMt_of_atomic (ended : b.words.length ≤ b.pos) {l r : List BlkStore} {e : BlkStore}
    (stores : b.stores = l ++ e :: r) (first : e ∉ l) (atomic : b.remoteAtomic = some e) :
    s.dataForMt c i = u.setMt c i { s.mt c i with
      blk := some { b with wait := none, stores := l ++ { e with kind := 5, data := v } :: r } } := by
  have place : (l ++ e :: r).findIdx (fun d => some d == some e) = l.length :=
    findIdx_of_first (fun d hd => beq_eq_false_iff_ne.mpr fun same => first (Option.some.inj same ▸ hd)) (beq_self_eq_true _)
  simp only [State.dataForMt, blk, wait, reply, good, ne_eq, not_true_eq_false, if_false, datum, if_neg (Nat.not_lt.mpr ended),
    stores, atomic, place]
  rw [flatten_pieces (b := { e with kind := 5, data := v })]
  · simp
  · intro j d other found
    simp only [found, if_neg other]

end DataForMt

/-! ### An element (R261, R339) -/

section DataForElem
variable {s t : State} {c k : Nat} {i : Instr} {ra rb : Word} {left sent : List Nat} {stop : Option (Nat × Exc)}
  {q : RemoteReq}

theorem State.dataForElem_of_idle
    (h : ∀ i ra rb left sent stop, (s.ctx c).run ≠ .parked (.elems i ra rb left sent stop)) : s.dataForElem c k = s := by
  unfold State.dataForElem
  split
  · next i ra rb left sent stop run => exact absurd run (h i ra rb left sent stop)
  · rfl

variable (run : (s.ctx c).run = .parked (.elems i ra rb left sent stop))
include run

theorem State.dataForElem_of_not_sent (h : k ∉ sent) : s.dataForElem c k = s := by
  simp only [State.dataForElem, run, List.contains_eq_mem, decide_eq_false h, Bool.not_false, if_true]

/-- The address that an element waits for. -/
def State.elemPa (s : State) (c k : Nat) : Nat := (look (0, 0) (s.ctx c).cap.got k).1.toNat

variable (mine : k ∈ sent) (load : ∀ f d, i ≠ .stream f d)
include mine load

theorem State.dataForElem_of_no_reply (h : s.takeReply (tagOf 2 c k) (·.from_ (s.elemPa c k)) = none) :
    s.dataForElem c k = s := by
  unfold State.elemPa at h
  simp only [State.dataForElem, run, List.contains_eq_mem, decide_eq_true mine, Bool.not_true, Bool.false_eq_true, if_false, h]

variable (reply : s.takeReply (tagOf 2 c k) (·.from_ (s.elemPa c k)) = some (q, t))
include reply

theorem State.dataForElem_of_cause (h : q.cause ≠ 0) :
    s.dataForElem c k = t.failElem c i ra rb left sent k (backExc q.cause (s.elemPa c k)) := by
  unfold State.elemPa at *
  simp only [State.dataForElem, run, List.contains_eq_mem, decide_eq_true mine, Bool.not_true, Bool.false_eq_true, if_false,
    reply, if_pos h]

variable (good : q.cause = 0) {u : State}
include good

theorem State.dataForElem_of_error {e : Exc}
    (h : t.takeDatum 2 (t.partOf (c / 4)) (c / 4) (s.elemPa c k) (elemForm i).1 (q.datum 0) = .error (e, u)) :
    s.dataForElem c k = u.failElem c i ra rb left sent k e := by
  unfold State.elemPa at *
  simp only [State.dataForElem, run, List.contains_eq_mem, decide_eq_true mine, Bool.not_true, Bool.false_eq_true, if_false,
    reply, good, ne_eq, not_true_eq_false, h]

theorem State.dataForElem_of_ok {v : Word}
    (h : t.takeDatum 2 (t.partOf (c / 4)) (c / 4) (s.elemPa c k) (elemForm i).1 (q.datum 0) = .ok (v, u)) :
    s.dataForElem c k = (u.keepElem c k (extend (elemForm i).1 (elemForm i).2 v) 0).setElems c
      (.elems i ra rb left (sent.filter (· != k)) stop) := by
  unfold State.elemPa at *
  simp only [State.dataForElem, run, List.contains_eq_mem, decide_eq_true mine, Bool.not_true, Bool.false_eq_true, if_false,
    reply, good, ne_eq, not_true_eq_false, h]

end DataForElem

/-! ### A posted store (R339, R432) -/

section PostDone
variable {s t : State} {n m a : Nat} {p : Posted} {q : RemoteReq}

theorem State.postDone_of_none (h : s.posted[n]? = none) : s.postDone n = s := by
  simp only [State.postDone, h]

variable (sent : s.posted[n]? = some p)
include sent

theorem State.postDone_of_elsewhere (h : ∀ m a, placeOf p.pa ≠ .domain m a) : s.postDone n = s := by
  unfold State.postDone
  rw [sent]
  dsimp only
  split
  · next m a place => exact absurd place (h m a)
  · rfl

variable (place : placeOf p.pa = .domain m a)
include place

theorem State.postDone_of_no_reply (h : s.takeReply (tagOf 3 p.from_ 0) (·.from_ p.pa) = none) : s.postDone n = s := by
  simp only [State.postDone, sent, place, h]

theorem State.postDone_of_reply (h : s.takeReply (tagOf 3 p.from_ 0) (·.from_ p.pa) = some (q, t)) :
    s.postDone n = if q.cause ≠ 0 then (t.takePosted n).reportPost p (backExc q.cause p.pa) else t.takePosted n := by
  simp only [State.postDone, sent, place, h]

end PostDone

/-! ### The read of firmware (R198, R393) -/

section DataForFw
variable {s t : State} {c pa : Nat} {q : RemoteReq}

/-- Firmware waits no more for the element of a `vldb` on the context's core. -/
def State.fwBack (s : State) (c : Nat) : State := s.setCtx c { s.ctx c with fwWait := none }

theorem State.dataForFw_of_idle (h : (s.ctx c).fwWait = none) : s.dataForFw c = s := by
  simp only [State.dataForFw, h]

variable (waits : (s.ctx c).fwWait = some pa)
include waits

theorem State.dataForFw_of_no_reply (h : s.takeReply (tagOf 4 c 0) (·.from_ pa) = none) : s.dataForFw c = s := by
  simp only [State.dataForFw, waits, h]

variable (reply : s.takeReply (tagOf 4 c 0) (·.from_ pa) = some (q, t))
include reply

theorem State.dataForFw_of_cause (h : q.cause ≠ 0) :
    s.dataForFw c = (t.vldbResult c (.error (backExc q.cause pa))).fwBack c := by
  simp only [State.dataForFw, waits, reply, if_pos h, State.fwBack]

variable (good : q.cause = 0) {u : State}
include good

theorem State.dataForFw_of_ok {v : Word}
    (h : t.takeDatum 2 (t.partOf (c / 4)) (c / 4) pa 8 (q.datum 0) = .ok (v, u)) :
    s.dataForFw c = (u.vldbResult c (.ok v)).fwBack c := by
  simp only [State.dataForFw, waits, reply, good, ne_eq, not_true_eq_false, if_false, h, State.fwBack]

theorem State.dataForFw_of_error {e : Exc}
    (h : t.takeDatum 2 (t.partOf (c / 4)) (c / 4) pa 8 (q.datum 0) = .error (e, u)) :
    s.dataForFw c = (u.vldbResult c (.error e)).fwBack c := by
  simp only [State.dataForFw, waits, reply, good, ne_eq, not_true_eq_false, if_false, h, State.fwBack]

end DataForFw

/-! ### To whom the data come -/

section LoadDataReturn
variable {s : State}

theorem exec_loadDataReturn_of_ctx (h : nth 0 s.arg.list 0 = 0) :
    exec .loadDataReturn s = s.dataForCtx s.arg.unit := by
  have e : exec .loadDataReturn s = execLoadDataReturn s := rfl
  simp only [e, execLoadDataReturn, h]

theorem exec_loadDataReturn_of_mt (h : nth 0 s.arg.list 0 = 1) :
    exec .loadDataReturn s = .next (s.dataForMt s.arg.unit s.arg.index) := by
  have e : exec .loadDataReturn s = execLoadDataReturn s := rfl
  simp only [e, execLoadDataReturn, h]

theorem exec_loadDataReturn_of_elem (h : nth 0 s.arg.list 0 = 2) :
    exec .loadDataReturn s = .next (s.dataForElem s.arg.unit s.arg.index) := by
  have e : exec .loadDataReturn s = execLoadDataReturn s := rfl
  simp only [e, execLoadDataReturn, h]

theorem exec_loadDataReturn_of_post (h : nth 0 s.arg.list 0 = 3) :
    exec .loadDataReturn s = .next (s.postDone s.arg.index) := by
  have e : exec .loadDataReturn s = execLoadDataReturn s := rfl
  simp only [e, execLoadDataReturn, h]

theorem exec_loadDataReturn_of_fw (h : 4 ≤ nth 0 s.arg.list 0) :
    exec .loadDataReturn s = .next (s.dataForFw s.arg.unit) := by
  have e : exec .loadDataReturn s = execLoadDataReturn s := rfl
  obtain ⟨k, hk⟩ := Nat.exists_eq_add_of_le' h
  simp only [e, execLoadDataReturn, hk]

end LoadDataReturn

end Sys2Proof.Machine
end

section
/-!
PROOFS. Accesses in flight, leases and banks: what each step that ends one does (R121, R133, R145, R155-R158, R339).
-/

namespace Sys2Proof.Machine

/-- Settles O57: each step by how its access stands, and data that come back by whom they come to and what the reply holds. -/
theorem accessEvents : Obligations.AccessEvents := by
  intro s c x n part
  refine ⟨exec_tlbinvWrite s, exec_windowStoreArrival_of_none, fun p sent => ?_, fun p writes => ?_, fun p => State.applyWaiting_of_read,
    exec_windowLoadArrival_of_idle, fun pa va run => ?_, fun t v watching card call => State.arrived_of_load watching card call v,
    ?_, ⟨_, exec_leaseLapse s, rfl, rfl⟩, ?_⟩
  · intro w t room st
    refine ⟨fun h => ?_, fun cl off place front => ⟨exec_windowStoreArrival_of_asleep sent place front, fun awake =>
      ⟨fun shut => ?_, fun go first => ?_, fun opened waits => ?_, fun poll first => ?_⟩⟩⟩
    · by_cases window : ∃ cl off, placeOf p.pa = .window cl off
      · obtain ⟨cl, off, place⟩ := window
        exact exec_windowStoreArrival_of_keptBack sent place (h.resolve_left fun out => out cl off place)
      · exact exec_windowStoreArrival_of_elsewhere sent fun cl off place => window ⟨cl, off, place⟩
    · exact exec_windowStoreArrival_of_fault sent place front awake (State.arrivalSt_of_fault shut)
    · exact exec_windowStoreArrival_of_go sent place front awake ((State.arrivalSt_of_first first).trans go)
    · exact exec_windowStoreArrival_of_buffer sent place front awake (State.arrivalSt_of_buffer opened waits)
    · exact exec_windowStoreArrival_of_poll sent place front awake ((State.arrivalSt_of_first first).trans poll)
  · exact ⟨State.applyWaiting_of_write writes, fun k pa => State.applyWaiting_of_bad_write writes⟩
  · intro u taken
    rw [exec_windowLoadArrival_of_parked run]
    refine ⟨fun v e => State.windowLoad_of_cause (s := u), fun v => State.windowLoad_of_value (s := u),
      fun back => State.windowLoad_of_elsewhere (s := u) back, fun cl off back place => ?_⟩
    intro w st behind queues
    refine ⟨State.windowLoad_of_fault (s := u) back place, State.windowLoad_of_behind (s := u) back place,
      State.windowLoad_of_queues (s := u) back place, fun opened first alone => ?_⟩
    rw [State.windowLoad_of_alone (s := u) back place opened first alone]
    exact ⟨State.loadHere_of_closed (s := u), State.loadHere_of_asleep (s := u), fun go awake =>
      ⟨fun e t => State.loadHere_of_bad (s := u) go awake, fun v t => State.loadHere_of_good (s := u) go awake⟩⟩
  · intro k exc bytes
    have back (k pa : Nat) : exc k pa = backExc k pa := by
      rw [backExc, backCause_eq]
    simp only [back]
    refine ⟨fun kind core pa w d => ⟨s.takeDatum_of_mark kind part core pa w,
      s.takeDatum_of_synd kind part core pa w, s.takeDatum_of_right kind part core pa w⟩,
      fun tag f => ⟨s.takeReply_eq_none_iff tag f, fun l q r => State.takeReply_of_first⟩, fun to_ => ?_, fun to_ => ?_,
      fun to_ => ?_, fun to_ => ?_, fun to_ => ?_⟩
    · rw [exec_loadDataReturn_of_ctx to_]
      exact ⟨State.dataForCtx_of_idle, fun pa run => ⟨State.dataForCtx_of_no_reply run, fun q t reply =>
        ⟨State.dataForCtx_of_cause run reply, fun good => ⟨fun v u => State.dataForCtx_of_ok run reply good,
          fun e u => State.dataForCtx_of_error run reply good⟩⟩⟩⟩
    · rw [exec_loadDataReturn_of_mt to_]
      simp only [Host.Outcome.next.injEq]
      exact ⟨State.dataForMt_of_no_block, fun b blk => ⟨State.dataForMt_of_no_wait blk, fun rd w g pa wait =>
        ⟨State.dataForMt_of_no_reply blk wait, fun q t reply => ⟨State.dataForMt_of_cause blk wait reply, fun good =>
          ⟨fun e u => State.dataForMt_of_error blk wait reply good, fun v u datum =>
            ⟨State.dataForMt_of_load blk wait reply good datum, fun ended l e r =>
              State.dataForMt_of_atomic blk wait reply good datum ended⟩⟩⟩⟩⟩⟩
    · rw [exec_loadDataReturn_of_elem to_]
      simp only [Host.Outcome.next.injEq]
      exact ⟨State.dataForElem_of_idle, fun i ra rb left sent stop run => ⟨State.dataForElem_of_not_sent run, fun mine load =>
        ⟨State.dataForElem_of_no_reply run mine load, fun q t reply =>
          ⟨State.dataForElem_of_cause run mine load reply, fun good =>
            ⟨fun e u => State.dataForElem_of_error run mine load reply good,
              fun v u => State.dataForElem_of_ok run mine load reply good⟩⟩⟩, fun f d _ => rfl⟩⟩
    · rw [exec_loadDataReturn_of_post to_]
      simp only [Host.Outcome.next.injEq]
      exact ⟨State.postDone_of_none, fun p sent => ⟨State.postDone_of_elsewhere sent, fun m a place =>
        ⟨State.postDone_of_no_reply sent place, fun q t reply => State.postDone_of_reply sent place reply⟩⟩⟩
    · rw [exec_loadDataReturn_of_fw to_]
      simp only [Host.Outcome.next.injEq]
      exact ⟨State.dataForFw_of_idle, fun pa waits => ⟨State.dataForFw_of_no_reply waits, fun q t reply =>
        ⟨State.dataForFw_of_cause waits reply, fun good => ⟨fun v u => State.dataForFw_of_ok waits reply good,
          fun e u => State.dataForFw_of_error waits reply good⟩⟩⟩⟩
  · split
    · next v waking => exact exec_unitWakeUp_of_waking waking
    · next asleep => exact exec_unitWakeUp_of_not_waking asleep

end Sys2Proof.Machine
end

section
/-!
PROOFS. `fence`, `barr`, `gbar` and `vote`: scopes, drains and arrivals (R52, R165, R166, R285-R291, R374, R400).
-/

namespace Sys2Proof.Machine

/-! ### Scopes (R285) -/

theorem rectOk_iff (v : Word) : rectOk v = true ↔
    v.toNat < 2 ^ 32 ∧ row0 v ≤ row1 v ∧ row1 v ≤ 15 ∧ col0 v ≤ col1 v ∧ col1 v ≤ 31 := by
  have reserved : v.extractLsb' 32 32 = 0#32 ↔ v.toNat < 2 ^ 32 := by
    have word := v.isLt
    rw [← BitVec.toNat_inj, BitVec.extractLsb'_toNat, Nat.shiftRight_eq_div_pow, BitVec.toNat_ofNat]
    omega
  simp only [rectOk, row0, row1, col0, col1, Bool.and_eq_true, beq_iff_eq, BitVec.ofNat_eq_ofNat, reserved,
    decide_eq_true_eq, and_assoc]

/-! ### Arrivals (R52, R287) -/

/-- An arrival on a barrier channel, which samples the abort line. -/
theorem State.sampleAbort_arrive (s : State) (kind : Nat) (scope : Word) :
    (s.sampleAbort s.cur).arrive kind scope 0 0 =
      .next (s.setMe { s.sampled with run := .parked (.barrier kind scope s.me.sense 0 0 s.now) }) := by
  have now : (s.sampleAbort s.cur).now = s.now := by
    unfold State.sampleAbort
    split <;> rfl
  rw [State.arrive, State.park, State.setMe_sampleAbort, State.me_sampleAbort, now]
  rfl

/-! ### `fence`, `barr` and `vote` -/

section Scope
variable {s : State} {rd ra : RegNo} {comb : BitVec 3}

theorem exec_fence_of_bad_scope (bad : ¬ rectOk (s.rx ra) = true) : exec (.fence ra) s = raise s 0x0F (s.rx ra) :=
  if_pos (by simpa using bad)

theorem exec_fence_of_scope (ok : rectOk (s.rx ra) = true) : exec (.fence ra) s = s.park (.fence (s.rx ra)) :=
  if_neg (by simpa using ok)

theorem exec_vote_of_bad_rect (bad : ¬ rectOk s.me.rect = true) : exec (.vote rd ra comb) s = raise s 0x0F s.me.rect :=
  if_pos (by simpa using bad)

theorem exec_vote_of_rect (ok : rectOk s.me.rect = true) : exec (.vote rd ra comb) s = .next (s.setMe { s.me with
    loadRd := rd, run := .parked (.barrier 2 s.me.rect s.me.sense comb.toNat (s.rx ra) s.now) }) := by
  have form : exec (.vote rd ra comb) s = execVote rd ra comb s := rfl
  simp only [form, execVote, ok, Bool.not_true, Bool.false_eq_true, if_false, State.arrive, State.park, State.me_setMe,
    State.setMe_setMe, State.setMe_now]

theorem exec_barr_of_bad_scope
    (bad : ¬ (rectOk (s.rx ra) = true ∧ inRect (s.rx ra) (s.cur / 4) = true ∧ rectIn (s.rx ra) s.me.rect = true)) :
    exec (.barr ra) s = raise s 0x0F (s.rx ra) :=
  if_pos (by
    simp only [not_and_or, Bool.not_eq_true] at bad
    simpa [or_assoc] using bad)

variable (ok : rectOk (s.rx ra) = true) (holds : inRect (s.rx ra) (s.cur / 4) = true)
  (within : rectIn (s.rx ra) s.me.rect = true)
include ok holds within

theorem exec_barr_of_waits (waits : s.fenceDone s.cur (s.rx ra) = false) : exec (.barr ra) s = s.park .again := by
  have form : exec (.barr ra) s = execBarr ra s := rfl
  simp only [form, execBarr, ok, holds, within, waits, Bool.not_true, Bool.or_self, Bool.false_eq_true, if_false,
    Bool.not_false, if_true]

theorem exec_barr_of_fenced (fenced : s.fenceDone s.cur (s.rx ra) = true) :
    exec (.barr ra) s = (s.sampleAbort s.cur).arrive 0 (s.rx ra) 0 0 := by
  have form : exec (.barr ra) s = execBarr ra s := rfl
  simp only [form, execBarr, ok, holds, within, fenced, Bool.not_true, Bool.or_self, Bool.false_eq_true, if_false]

end Scope

/-! ### `gbar` (R290) -/

/-- The current context in its exchange phase, where no access waits at a register window for it. -/
def State.exchanging (s : State) : State :=
  { s with ctxs := if s.me.xch then s.ctxs else (s.setMe { s.me with xch := true }).ctxs }

section Exchange
variable (s : State)

theorem State.me_exchanging : s.exchanging.me = { s.me with xch := true } := by
  unfold State.exchanging
  split
  · next open_ =>
    rw [← open_]
  · exact s.me_setMe _

theorem State.ctx_exchanging : s.exchanging.ctx s.cur = { s.me with xch := true } := s.me_exchanging

theorem State.setMe_exchanging (x : Ctx) : s.exchanging.setMe x = s.setMe x := by
  unfold State.exchanging
  split
  · rfl
  · exact s.setMe_setMe _ x

theorem State.onlyCtx_exchanging : OnlyCtx s.cur s s.exchanging := by
  refine ⟨rfl, fun d hd => ?_⟩
  unfold State.exchanging
  split
  · rfl
  · exact s.ctx_setMe_ne _ hd

theorem State.gang_exchanging : s.exchanging.gang s.cur = s.gang s.cur := by
  simp only [State.gang, s.ctx_exchanging]
  rfl

theorem State.summary_exchanging : s.exchanging.summary s.cur = s.summary s.cur := by
  simp only [State.summary, s.ctx_exchanging]
  rfl

theorem State.drained_exchanging : s.exchanging.drained s.cur = s.drained s.cur := by
  simp only [State.drained, State.seqUsed, State.entryFreed, s.ctx_exchanging]
  rfl

theorem State.syncTrap_exchanging : s.exchanging.syncTrap s.cur = s.syncTrap s.cur := by
  simp only [State.syncTrap, State.trapmode, s.gang_exchanging, s.summary_exchanging]

theorem State.allDone_exchanging : s.exchanging.allDone s.cur = s.allDone s.cur := by
  simp only [State.allDone, State.jobList, s.ctx_exchanging]
  rfl

theorem State.sampled_exchanging : s.exchanging.sampled = { s.sampled with xch := true } := by
  have line : s.exchanging.abortRaised s.exchanging.cur = s.abortRaised s.cur := by
    change s.exchanging.abortRaised s.cur = _
    simp only [State.abortRaised, s.ctx_exchanging]
    rfl
  simp only [State.sampled, line, s.me_exchanging]

end Exchange

theorem exec_gbar_of_bad_rect {s : State} (bad : ¬ rectOk s.me.rect = true) : exec .gbar s = raise s 0x0F s.me.rect :=
  if_pos (by simpa using bad)

section Gbar
variable {s : State} (ok : rectOk s.me.rect = true) (calm : s.wbuf = [] ∨ s.me.xch = true)
include ok calm

/-- The exchange phase begins, then the drains, the trap and the arrival in their order. -/
theorem exec_gbar_of_rect : exec .gbar s =
    if !s.drained s.cur then .next (s.setMe { s.me with xch := true, run := .parked .again })
    else if s.syncTrap s.cur then raise s.exchanging 0x17 (s.summary s.cur)
    else if !s.allDone s.cur then .next (s.setMe { s.me with xch := true, run := .parked .again })
    else .next (s.setMe { s.sampled with
      xch := true, run := .parked (.barrier 1 s.me.rect s.me.sense 0 0 s.now) }) := by
  have opens : (if s.me.xch then s else (s.setMe { s.me with xch := true }).drainBuf) = s.exchanging := by
    by_cases open_ : s.me.xch = true
    · simp only [State.exchanging, open_, if_true]
    · have nothing : (s.setMe { s.me with xch := true }).wbuf = [] := calm.resolve_right open_
      have still : (s.setMe { s.me with xch := true }).drainBuf = s.setMe { s.me with xch := true } := by
        rw [State.drainBuf, nothing, State.drainWaiting, ← nothing]
      simp only [still, State.exchanging, open_, Bool.false_eq_true, if_false]
      rfl
  have again : s.exchanging.park .again = .next (s.setMe { s.me with xch := true, run := .parked .again }) := by
    rw [State.park, s.me_exchanging, s.setMe_exchanging]
  have arrives : (s.exchanging.sampleAbort s.cur).arrive 1 s.me.rect 0 0 = .next (s.setMe { s.sampled with
      xch := true, run := .parked (.barrier 1 s.me.rect s.me.sense 0 0 s.now) }) := by
    refine (s.exchanging.sampleAbort_arrive 1 s.me.rect).trans ?_
    rw [s.setMe_exchanging, s.sampled_exchanging, s.me_exchanging]
    rfl
  have cur : s.exchanging.cur = s.cur := rfl
  have form : exec .gbar s = execGbar s := rfl
  simp only [form, execGbar, ok, Bool.not_true, Bool.false_eq_true, if_false, opens, cur, s.drained_exchanging,
    s.syncTrap_exchanging, s.summary_exchanging, s.allDone_exchanging, again, s.me_exchanging, arrives]

variable (drained : s.drained s.cur = true)

theorem exec_gbar_of_runs (runs : s.drained s.cur = false) :
    exec .gbar s = .next (s.setMe { s.me with xch := true, run := .parked .again }) := by
  rw [exec_gbar_of_rect ok calm, runs]
  rfl

include drained

theorem exec_gbar_of_faulted (faulted : s.syncTrap s.cur = true) :
    exec .gbar s = raise s.exchanging 0x17 (s.summary s.cur) := by
  rw [exec_gbar_of_rect ok calm, drained, faulted]
  rfl

variable (sound : s.syncTrap s.cur = false)
include sound

theorem exec_gbar_of_work (work : s.allDone s.cur = false) :
    exec .gbar s = .next (s.setMe { s.me with xch := true, run := .parked .again }) := by
  rw [exec_gbar_of_rect ok calm, drained, sound, work]
  rfl

theorem exec_gbar_of_done (done : s.allDone s.cur = true) : exec .gbar s = .next (s.setMe { s.sampled with
    xch := true, run := .parked (.barrier 1 s.me.rect s.me.sense 0 0 s.now) }) := by
  rw [exec_gbar_of_rect ok calm, drained, sound, done]
  rfl

end Gbar

/-- Settles O35: each instruction by its checks, its drains, and the arrival. -/
theorem syncInstructions : Obligations.SyncInstructions := by
  intro s rd ra comb v me wfOf wf mine seen arrive
  have scope (w : Word) : rectOk w = true ↔ wfOf w := rectOk_iff w
  refine ⟨fun bad => ?_, fun ok => ?_, fun bad => ?_, fun ok inside waits => ?_, fun ok inside fenced => ?_,
    fun bad => ?_, fun ok calm => ?_, fun ok => ?_⟩
  · exact exec_fence_of_bad_scope fun ok => bad ((scope v).mp ok)
  · exact parks_park (exec_fence_of_scope ((scope v).mpr ok))
  · exact exec_barr_of_bad_scope fun ⟨ok, inside⟩ => bad ⟨(scope v).mp ok, inside⟩
  · exact parks_park (exec_barr_of_waits ((scope v).mpr ok) inside.1 inside.2 waits)
  · exact becomes_setMe ((exec_barr_of_fenced ((scope v).mpr ok) inside.1 inside.2 fenced).trans
      (s.sampleAbort_arrive 0 v))
  · have out : ¬ rectOk s.me.rect = true := fun ok => bad ((scope _).mp ok)
    exact ⟨exec_gbar_of_bad_rect out, exec_vote_of_bad_rect out⟩
  · have rect := (scope _).mpr ok
    refine ⟨fun runs => becomes_setMe (exec_gbar_of_runs rect calm runs), fun drained faulted => ?_,
      fun drained sound work => becomes_setMe (exec_gbar_of_work rect calm drained sound work),
      fun drained sound done => becomes_setMe (exec_gbar_of_done rect calm drained sound done)⟩
    refine ⟨s.exchanging, s.me_exchanging, s.onlyCtx_exchanging, ?_⟩
    rw [exec_gbar_of_faulted rect calm drained faulted, raise, s.me_exchanging]
    rfl
  · exact becomes_setMe (exec_vote_of_rect ((scope _).mpr ok))

end Sys2Proof.Machine
end

section
/-!
PROOFS. Memory and scratchpad words of a micro-thread under their guard, with their sources read (R145, R151, R232, R245-R247).
-/

namespace Sys2Proof.Machine

/-! ### Bytes as numbers (R5, R219) -/

theorem leNat_lt (l : List Byte) : leNat l < 2 ^ (8 * l.length) := by
  induction l with
  | nil => exact Nat.one_pos
  | cons b l ih =>
    have byte : b.toNat < 256 := b.isLt
    rw [leNat, List.length_cons, Nat.mul_succ, pow_add]
    omega

theorem length_readBytes (m : List Host.Cell) (a n : Nat) : (readBytes m a n).length = n := by
  induction n generalizing a with
  | zero => rfl
  | succ n ih => rw [readBytes, List.length_cons, ih]

theorem length_overlayOwn (l : List BlkStore) (key : Nat) (bs : List Byte) : (overlayOwn l key bs).length = bs.length := by
  rw [overlayOwn, List.length_map, List.length_range]

theorem signExtend_setWidth_ofNat {w m : Nat} (wide : w ≤ 64) (fits : m < 2 ^ w) :
    ((BitVec.ofNat 64 m).setWidth w).signExtend 64 =
      BitVec.ofInt 64 (if 2 * (m % 2 ^ w) < 2 ^ w then (m : Int) else (m : Int) - 2 ^ w) := by
  have large : m < 2 ^ 64 := fits.trans_le (Nat.pow_le_pow_right Nat.two_pos wide)
  rw [BitVec.signExtend, BitVec.toInt, BitVec.toNat_setWidth, BitVec.toNat_ofNat, Nat.mod_eq_of_lt large,
    Nat.mod_eq_of_lt fits]
  norm_cast

/-- A signed load of `2^wid` bytes, fewer than eight. -/
theorem extend_signed {wid : BitVec 2} {m : Nat} (narrow : 2 ^ wid.toNat < 8) (fits : m < 2 ^ (8 * 2 ^ wid.toNat)) :
    extend (2 ^ wid.toNat) true (BitVec.ofNat 64 m) = BitVec.ofInt 64
      (if 2 * (m % 2 ^ (8 * 2 ^ wid.toNat)) < 2 ^ (8 * 2 ^ wid.toNat) then (m : Int)
       else (m : Int) - 2 ^ (8 * 2 ^ wid.toNat)) := by
  have width : wid.toNat = 0 ∨ wid.toNat = 1 ∨ wid.toNat = 2 := by
    have := (Nat.pow_lt_pow_iff_right (a := 2) (m := 3) (by decide)).mp narrow
    omega
  rcases width with w | w | w <;> rw [w] at fits ⊢ <;> exact signExtend_setWidth_ofNat (by decide) fits

/-! ### A block's sources and destination (R192) -/

theorem Blk.pos_of_src {b c : Blk} {q : List Word} {r : RegNo} {x : Word} (h : b.src q r = some (x, c)) : c.pos = b.pos := by
  rw [Blk.src_pos h]

theorem Blk.runs_of_src {b c : Blk} {q : List Word} {r : RegNo} {x : Word} (h : b.src q r = some (x, c)) :
    c.runs = b.runs := by
  rw [Blk.src_pos h]

theorem Blk.dst_with_loads (b : Blk) (l : List (Nat × List Byte)) (k : Nat) (r : RegNo) (v : Word) :
    ({ b with loads := l, runs := k } : Blk).dst r v = { b.dst r v with loads := l, runs := k } := by
  unfold Blk.dst
  split
  · rfl
  · split
    · rfl
    · split <;> rfl

theorem State.myMt_setBlk (s : State) (b : Blk) : (s.setBlk b).myMt = { s.myMt with blk := some b } :=
  State.mt_setMt_self ..

/-! ### The bytes a load has read (R151) -/

/-- A load's bytes stay with its block, and sectors are held or let go. -/
theorem State.noteLoad_spec (s : State) (b : Blk) (key : Nat) (bs : List Byte) : ∃ k held, k ≤ b.runs ∧
    s.noteLoad b key bs = ({ b with loads := b.loads ++ [(key, bs)], runs := k }, { s with heldSectors := held }) := by
  unfold State.noteLoad
  extract_lets l hold
  cases hold with
  | true => exact ⟨b.runs, _, le_rfl, rfl⟩
  | false => exact ⟨min b.runs 1, _, min_le_left .., rfl⟩

/-- The end of a word that writes the value of a load. -/
theorem State.setBlk_noteLoad (s : State) (b : Blk) (key : Nat) (bs : List Byte) (wd : RegNo) (v : Word) :
    ∃ k held, k ≤ b.runs ∧
      (let r := s.noteLoad b key bs
       let d := r.1.dst wd v
       r.2.setBlk { d with pos := d.pos + 1, heldSince := none, stalled := false }) =
      State.setBlk { s with heldSectors := held } { b.dst wd v with
        pos := b.pos + 1, heldSince := none, stalled := false, runs := k, loads := b.loads ++ [(key, bs)] } := by
  obtain ⟨k, held, fewer, noted⟩ := s.noteLoad_spec b key bs
  refine ⟨k, held, fewer, ?_⟩
  rw [noted]
  simp only [Blk.dst_with_loads, Blk.dst_pos]

/-! ### The caches under a lane's load (R124, R126) -/

theorem State.clusters_served_load (s : State) {w : Who} (lane : w.l1 = false) (t : Tr) (sector n : Nat) :
    (s.served w t sector (.load n)).clusters = s.clusters := by
  simp only [State.served, lane, Bool.false_eq_true, if_false]
  split
  · exact s.clusters_touch ..
  · exact s.clusters_charge ..

theorem State.onlyCaches_served_load (s : State) {w : Who} (lane : w.l1 = false) (t : Tr) (sector n : Nat) :
    OnlyCaches s (s.served w t sector (.load n)) := by
  have rest := (s.fills_served_load lane t sector n).rest
  rw [s.clusters_served_load lane] at rest
  exact rest

/-- A lane's load is charged to its context alone. -/
theorem State.charged_served_load (s : State) {w : Who} (lane : w.l1 = false) (t : Tr) (sector n d : Nat) :
    Ctx.Charged (s.ctx d) ((s.served w t sector (.load n)).ctx d) :=
  (State.TranslatesOnly.of_fills (s.fills_served_load lane t sector n) (s.clusters_served_load lane ..)).charges d

/-- The data of a load whose check is right and whose line is not Copying. -/
theorem State.laneLoad_of_right {s : State} {t : Tr} (right : checkFails s (memKey t.skew t.pa) = false)
    (still : s.stalls t = false) (b : Blk) (va : Word) (n : Nat) (signed : Bool) (wd : RegNo) :
    s.laneLoad b t va n signed wd =
      let key := memKey t.skew t.pa
      let bs := readBytes s.mem key n
      let r := (s.served s.laneWho t (sectorOf key) (.load n)).noteLoad b key bs
      .go (r.1.dst wd (extend n signed (BitVec.ofNat 64 (leNat (overlayOwn b.stores key bs))))) r.2 := by
  simp only [State.laneLoad, still, Bool.false_and, Bool.false_eq_true, if_false, State.badCheck, right, ite_self]

/-! ### Words of two sources -/

section Two
variable {s : State} {h : WHdr} {wd wa wb : RegNo} {wid : BitVec 2} {b b1 b2 : Blk} {x y : Word} {t : Tr} {e : Exc}
  (run : s.Runs b) (guard : b.guard h = true) (srcA : b.src s.myMt.linkq wa = some (x, b1))
  (srcB : b1.src s.myMt.linkq wb = some (y, b2))
include run guard srcA srcB

theorem State.wordLoad_of_fault (bad : s.laneAt (x + y) (2 ^ wid.toNat) .r = .error e) (signed : Bool) :
    s.wordLoad h wd wa wb wid signed = .next (s.mtFault s.cur s.curMt s.myMt e) := by
  simp only [State.wordLoad, State.word_guard run h _ guard, srcA, srcB, bad]

/-- R151, R245: a load of this module's memory. -/
theorem State.wordLoad_of_here (here : s.laneAt (x + y) (2 ^ wid.toNat) .r = .ok (.here t))
    (right : checkFails s (memKey t.skew t.pa) = false) (still : s.stalls t = false) (signed : Bool) :
    let key := memKey t.skew t.pa
    let bs := readBytes s.mem key (2 ^ wid.toNat)
    let r := extend (2 ^ wid.toNat) signed (BitVec.ofNat 64 (leNat (overlayOwn b2.stores key bs)))
    ∃ (u : State) (k : Nat), k ≤ b.runs ∧ s.wordLoad h wd wa wb wid signed = .next u ∧
      u = { s with ctxs := u.ctxs, mts := u.mts, l1 := u.l1, l2 := u.l2, freeN := u.freeN, bad := u.bad,
                   scrubs := u.scrubs, heldSectors := u.heldSectors } ∧
      u.myMt = { s.myMt with blk := some { b2.dst wd r with pos := b.pos + 1, heldSince := none, stalled := false, runs := k,
                                                            loads := b2.loads ++ [(key, bs)] } } ∧
      ∀ d, Ctx.Charged (s.ctx d) (u.ctx d) := by
  intro key bs r
  have lane : s.laneWho.l1 = false := rfl
  have caches := s.onlyCaches_served_load lane t (sectorOf key) (2 ^ wid.toNat)
  have charged := s.charged_served_load lane t (sectorOf key) (2 ^ wid.toNat)
  obtain ⟨c, served⟩ : ∃ c, s.served s.laneWho t (sectorOf key) (.load (2 ^ wid.toNat)) = c := ⟨_, rfl⟩
  rw [served] at caches charged
  obtain ⟨k, held, fewer, ends⟩ := c.setBlk_noteLoad b2 key bs wd r
  rw [Blk.runs_of_src srcB, Blk.runs_of_src srcA] at fewer
  rw [Blk.pos_of_src srcB, Blk.pos_of_src srcA] at ends
  refine ⟨_, k, fewer, Eq.trans ?_ (congrArg Host.Outcome.next ends), ?_, ?_, charged⟩
  · simp only [State.wordLoad, State.word_guard run h _ guard, srcA, srcB, here, State.laneLoad_of_right right still]
    rw [served]
  · rw [caches]
    rfl
  · rw [State.myMt_setBlk, caches]
    rfl

end Two

end Sys2Proof.Machine
end

section
/-!
PROOFS. Words that wait in the block, scratchpad words, and words that request a trip (R145, R151, R199, R232, R245-R247, R392).
-/

namespace Sys2Proof.Machine

/-! ### Stores and atomics (R245, R246) -/

theorem exec_wSt (h : WHdr) (wd wa wb : RegNo) (wid : BitVec 2) (s : State) :
    exec (.wSt h wd wa wb wid) s = execWSt h wd wa wb wid s := rfl

theorem exec_wSpld (h : WHdr) (wd wa wb : RegNo) (s : State) : exec (.wSpld h wd wa wb) s = execWSpld h wd wa wb s := rfl

theorem exec_wSpst (h : WHdr) (wd wa wb : RegNo) (s : State) : exec (.wSpst h wd wa wb) s = execWSpst h wd wa wb s := rfl

section Words
variable {s : State} {h : WHdr} {wd wa wb : RegNo} {wid : BitVec 2} {b b1 b2 b3 : Blk} {x y v : Word} {t : Tr} {e : Exc}
  {kind first w code : Nat}
  (run : s.Runs b) (guard : b.guard h = true) (srcA : b.src s.myMt.linkq wa = some (x, b1))
  (srcB : b1.src s.myMt.linkq wb = some (y, b2))
include run guard srcA srcB

theorem State.wordAtomic_of_fault (bad : s.laneAt (x + y) 8 .rw = .error e) :
    s.wordAtomic h wd wa wb kind = .next (s.mtFault s.cur s.curMt s.myMt e) := by
  simp only [State.wordAtomic, State.word_guard run h _ guard, srcA, srcB, bad]

theorem State.wordAtomic_of_barred (here : s.laneAt (x + y) 8 .rw = .ok (.here t)) (barred : s.noAtomic s.cur = true) :
    s.wordAtomic h wd wa wb kind = .next (s.mtFault s.cur s.curMt s.myMt { cause := 0x2A, val := x + y }) := by
  simp only [State.wordAtomic, State.word_guard run h _ guard, srcA, srcB, here, barred, if_true]

theorem State.wordAtomic_of_here (here : s.laneAt (x + y) 8 .rw = .ok (.here t)) (free : s.noAtomic s.cur = false) :
    s.wordAtomic h wd wa wb kind = .next (s.setBlk { b2 with
      stores := b2.stores ++ [(LaneAt.here t).held kind (x + y) 8 (look 0 b.w wd.toNat) (look 0 b.w (wd.toNat + 1)) wd]
      pos := b.pos + 1, heldSince := none, stalled := false }) := by
  have pos : b2.pos = b.pos := (Blk.pos_of_src srcB).trans (Blk.pos_of_src srcA)
  simp only [State.wordAtomic, State.word_guard run h _ guard, srcA, srcB, here, free, Bool.false_eq_true, if_false, pos]

/-! ### Scratchpad loads (R247) -/

theorem exec_wSpld_of_out_of_range (out : spPlace b.cap.bfmt (x + y) = none) :
    exec (.wSpld h wd wa wb) s = .next (s.mtFault s.cur s.curMt s.myMt { cause := 0x08, val := 0 }) := by
  simp only [exec_wSpld, execWSpld, State.word_guard run h _ guard, srcA, srcB, out]

section Place
variable (place : spPlace b.cap.bfmt (x + y) = some (first, w, code))
include place

theorem exec_wSpld_of_asleep (asleep : s.unitAsleep (s.mySpUnit first) = true) :
    exec (.wSpld h wd wa wb) s = .next (s.wakeUnit (s.mySpUnit first)).noteStall := by
  simp only [exec_wSpld, execWSpld, State.word_guard run h _ guard, srcA, srcB, place, asleep, if_true]

variable (awake : s.unitAsleep (s.mySpUnit first) = false)
include awake

/-- The block's last store to the element gives its value. -/
theorem exec_wSpld_of_own {l r : List BlkStore} {e : BlkStore} (stores : b.stores = l ++ e :: r) (pad : e.kind = 1)
    (same : e.pa = first) (last : ∀ f ∈ r, ¬ (f.kind = 1 ∧ f.pa = first)) :
    WGives (.wSpld h wd wa wb) s b (b2.dst wd (spValue code e.data.toNat)) := by
  have found : b.stores.reverse.find? (fun e => e.kind == 1 && e.pa == first) = some e := by
    rw [stores, List.reverse_append, List.reverse_cons, List.append_assoc, List.singleton_append]
    refine find?_of_first (fun f hf => ?_) (by simp [pad, same])
    simpa using last f (List.mem_reverse.mp hf)
  have pos : b2.pos = b.pos := (Blk.pos_of_src srcB).trans (Blk.pos_of_src srcA)
  simp only [WGives, exec_wSpld, execWSpld, State.word_guard run h _ guard, srcA, srcB, place, awake, found,
    Bool.false_eq_true, if_false, Blk.dst_pos, pos]

/-- What the lane's scratchpad holds, where the block has not stored the element and nothing keeps it from being consumed. -/
theorem exec_wSpld_of_committed (none_ : ∀ e ∈ b.stores, ¬ (e.kind = 1 ∧ e.pa = first))
    (right : s.spBad s.mySp first w = none) :
    let key := s.mySp + first / 8
    let r := spValue code (readBits s.mem s.mySp first w)
    ∃ (u : State) (k : Nat), k ≤ b.runs ∧ exec (.wSpld h wd wa wb) s = .next u ∧
      u = { s with mts := u.mts, heldSectors := u.heldSectors } ∧
      u.myMt = { s.myMt with blk := some { b2.dst wd r with
        pos := b.pos + 1, heldSince := none, stalled := false, runs := k
        loads := b2.loads ++ [(key, readBytes s.mem key ((first % 8 + w + 7) / 8))] } } := by
  intro key r
  have found : b.stores.reverse.find? (fun e => e.kind == 1 && e.pa == first) = none := by
    refine List.find?_eq_none.mpr fun e he => ?_
    simpa using none_ e (List.mem_reverse.mp he)
  obtain ⟨k, held, fewer, ends⟩ :=
    s.setBlk_noteLoad b2 key (readBytes s.mem key ((first % 8 + w + 7) / 8)) wd r
  rw [Blk.runs_of_src srcB, Blk.runs_of_src srcA] at fewer
  rw [Blk.pos_of_src srcB, Blk.pos_of_src srcA] at ends
  refine ⟨_, k, fewer, Eq.trans ?_ (congrArg Host.Outcome.next ends), rfl, State.myMt_setBlk ..⟩
  simp only [exec_wSpld, execWSpld, State.word_guard run h _ guard, srcA, srcB, place, awake, found, right,
    Bool.false_eq_true, if_false]
  rfl

end Place

/-! ### Words with a third source, which is stored -/

section Three
variable (srcD : b2.src s.myMt.linkq wd = some (v, b3))
include srcD

theorem exec_wSt_of_fault (bad : s.laneAt (x + y) (2 ^ wid.toNat) .w = .error e) :
    exec (.wSt h wd wa wb wid) s = .next (s.mtFault s.cur s.curMt s.myMt e) := by
  simp only [exec_wSt, execWSt, State.word_guard run h _ guard, srcA, srcB, srcD, bad]

theorem exec_wSt_of_here (here : s.laneAt (x + y) (2 ^ wid.toNat) .w = .ok (.here t)) :
    WGives (.wSt h wd wa wb wid) s b
      { b3 with stores := b3.stores ++ [(LaneAt.here t).held 0 (x + y) (2 ^ wid.toNat) v 0 0] } := by
  have pos : b3.pos = b.pos := (Blk.pos_of_src srcD).trans ((Blk.pos_of_src srcB).trans (Blk.pos_of_src srcA))
  simp only [WGives, exec_wSt, execWSt, State.word_guard run h _ guard, srcA, srcB, srcD, here, pos]

theorem exec_wSpst_of_out_of_range (out : spPlace b.cap.bfmt (x + y) = none) :
    exec (.wSpst h wd wa wb) s = .next (s.mtFault s.cur s.curMt s.myMt { cause := 0x08, val := 0 }) := by
  simp only [exec_wSpst, execWSpst, State.word_guard run h _ guard, srcA, srcB, srcD, out]

variable (place : spPlace b.cap.bfmt (x + y) = some (first, w, code))
include place

theorem exec_wSpst_of_asleep (asleep : s.unitAsleep (s.mySpUnit first) = true) :
    exec (.wSpst h wd wa wb) s = .next (s.wakeUnit (s.mySpUnit first)) := by
  simp only [exec_wSpst, execWSpst, State.word_guard run h _ guard, srcA, srcB, srcD, place, asleep, if_true]

theorem exec_wSpst_of_awake (awake : s.unitAsleep (s.mySpUnit first) = false) :
    WGives (.wSpst h wd wa wb) s b { b3.flag (spStored code (b.rnd s.curMt 0) v).2 with
      stores := b3.stores ++ [{ kind := 1, va := 0, key := s.mySp, pa := first, skew := 0, attr := 0, hcl := 32, width := w,
                                data := BitVec.ofNat 64 (spStored code (b.rnd s.curMt 0) v).1, data2 := 0, rd := 0 }] } := by
  have pos : b3.pos = b.pos := (Blk.pos_of_src srcD).trans ((Blk.pos_of_src srcB).trans (Blk.pos_of_src srcA))
  simp only [WGives, exec_wSpst, execWSpst, State.word_guard run h _ guard, srcA, srcB, srcD, place, awake,
    Bool.false_eq_true, if_false, Blk.flag, pos]

end Three
end Words

/-! ### Trips (R199, R392) -/

theorem State.unitWord_of_emulated {s : State} {bit : Nat} (emulated : s.emulated bit = true) (h : WHdr) (rs : List RegNo)
    (native : Res') : s.unitWord bit h rs native = s.askTrip h rs := if_pos emulated

/-- The state in which the current block holds and its context queues for its core's record. -/
def State.asksTrip (s : State) (b : Blk) : State :=
  ((s.setBlk { b with trip := true, tripNo := s.me.tripSeq, heldSince := none }).setMe
    { s.me with trips := s.me.trips ++ [(s.curMt, b.addr, b.pos)], tripSeq := s.me.tripSeq + 1 }).queueTrip s.cur
    (s.me.tripSeq + 1)

section Trip
variable {s : State} {h : WHdr} {rs : List RegNo} {b : Blk} (run : s.Runs b)
include run

theorem State.askTrip_of_empty (guard : b.guard h = true) (empty : b.srcs s.myMt.linkq rs = none) :
    s.askTrip h rs = .next s.noteHold := by
  obtain ⟨blk, trip, wait⟩ := run
  simp only [State.askTrip, blk, trip, wait, guard, empty, Option.isSome_none, Option.isNone_none, Bool.or_self,
    Bool.and_self, Bool.false_eq_true, if_false, if_true]

theorem State.askTrip_of_ready (ready : b.guard h = false ∨ (b.srcs s.myMt.linkq rs).isSome = true) :
    ∃ u : State, s.askTrip h rs = .next u ∧ u = { s with ctxs := u.ctxs, mts := u.mts, emuQ := u.emuQ } ∧
      (∀ d, d ≠ s.cur → u.ctx d = s.ctx d) ∧
      u.me = { s.me with trips := s.me.trips ++ [(s.curMt, b.addr, b.pos)], tripSeq := s.me.tripSeq + 1 } ∧
      u.myMt = { s.myMt with blk := some { b with trip := true, tripNo := s.me.tripSeq, heldSince := none } } ∧
      (s.cur, s.me.tripSeq + 1) ∈ look [] u.emuQ (s.cur / 4) := by
  obtain ⟨blk, trip, wait⟩ := run
  have goes : (b.guard h && (b.srcs s.myMt.linkq rs).isNone) = false := by
    rcases ready with skipped | read
    · rw [skipped, Bool.false_and]
    · rw [Option.isNone_eq_false_iff.mpr read, Bool.and_false]
  refine ⟨s.asksTrip b, ?_, rfl, fun d hd => State.ctx_setMe_ne _ _ hd, State.me_setMe .., State.myMt_setBlk .., ?_⟩
  · have free : (b.trip || b.wait.isSome) = false := by rw [trip, wait]; rfl
    simp only [State.askTrip, blk, free, goes, Bool.false_eq_true, if_false]
    rfl
  · rw [State.asksTrip, State.queueTrip, look_put_self]
    exact List.mem_append_right _ List.mem_cons_self

end Trip

end Sys2Proof.Machine
end

section
/-!
PROOFS. The memory, scratchpad, atomic and control words of micro-threads, and words that firmware performs (R151, R232,
R245-R253, R392).
-/

namespace Sys2Proof.Machine

/-! ### Control words (R248-R253) -/

/-- R248: the distance of `thfetch` counts words. -/
theorem sext_shiftLeft_two (imm : BitVec 12) : sext imm <<< 2 = BitVec.ofInt 64 (4 * imm.toInt) := by
  have shift : sext imm <<< 2 = sext imm * 4#64 := by
    rw [BitVec.shiftLeft_eq_mul_twoPow]
    rfl
  rw [shift, BitVec.ofInt_mul, mul_comm, sext, BitVec.signExtend]
  rfl

theorem word0_wThfetch (s : State) (h : WHdr) (imm : BitVec 12) : Word0 (.wThfetch h imm) s h (fun b => { b with
    next := some (b.addr + BitVec.ofNat 64 (4 * b.pos) + BitVec.ofInt 64 (4 * imm.toInt)) }) :=
  word0_of (fun _ => rfl) (by rw [← sext_shiftLeft_two]; rfl)

theorem word1_wThfetchr (s : State) (h : WHdr) (wa : RegNo) :
    Word1 (.wThfetchr h wa) s h wa (fun _ b x => { b with next := some x }) := word1_of (fun _ _ _ => rfl) rfl

theorem word0_wStop (s : State) (h : WHdr) : Word0 (.wStop h) s h (fun b => { b with stop := true }) :=
  word0_of (fun _ => rfl) rfl

theorem word0_wIdx (s : State) (h : WHdr) (wd : RegNo) :
    Word0 (.wIdx h wd) s h (fun b => b.dst wd (b.cap.vbase + BitVec.ofNat 64 s.curMt)) :=
  word0_of (fun b => b.dst_pos ..) rfl

/-- R251: `sel` runs whatever its guard, which picks the operand. -/
theorem word2_wSel (s : State) (h : WHdr) (wd wa wb : RegNo) : Word2 (.wSel h wd wa wb) s { h with n := 0, gp := 127 } wa wb
    (fun a b x y => b.dst wd (if a.guard h then x else y)) := by
  have flagged := word2_wordF2 (i := .wSel h wd wa wb) (s := s) (f := fun b x y => (if b.guard h then x else y, 0)) rfl
  simpa only [Blk.flag_zero] using flagged

theorem word1_wRng (s : State) (h : WHdr) (wd wa wb : RegNo) : Word1 (.wRng h wd wa wb) s h wa (fun a b x =>
    b.dst wd (mix64 (look 0 a.cap.cs (wb.toNat - 24)) (x + a.cap.vbase + BitVec.ofNat 64 s.curMt))) := by
  have flagged := word1_wordF1 (i := .wRng h wd wa wb) (s := s) (f := fun b x =>
    (mix64 (look 0 b.cap.cs (wb.toNat - 24)) (x + b.gidx s.curMt), 0)) rfl
  simpa only [Blk.flag_zero, Blk.gidx, ← BitVec.add_assoc] using flagged

/-- Settles O50: each word by its checks, by where its element lies, and by what its block has stored. -/
theorem microMemoryAndControl : Obligations.MicroMemoryAndControl := by
  intro s h wd wa wb wid imm fm b b1 b2 b3 x y v t run q n me key two three faults held bytes bits loads spLoads trips
  have trip {i : Instr} {rs : List RegNo} (form : exec i s = s.askTrip h rs) : trips i rs := by
    refine ⟨fun guard empty => form.trans (State.askTrip_of_empty run guard empty), fun ready => ?_⟩
    rw [form]
    exact State.askTrip_of_ready run ready
  have emulated {i : Instr} {bit : Nat} {rs : List RegNo} {native : Res'} (form : exec i s = s.unitWord bit h rs native)
      (byFirmware : s.emulated bit = true) : trips i rs :=
    trip (form.trans (State.unitWord_of_emulated byFirmware h rs native))
  refine ⟨?_, ?_, ?_, ?_, ?_, ?_, ?_, ?_, word0_wThfetch s h imm, word1_wThfetchr s h wa, word0_wStop s h, word0_wIdx s h wd,
    word2_wSel s h wd wa wb, word1_wRng s h wd wa wb, trip rfl, trip rfl,
    fun e => ⟨emulated rfl e, emulated rfl e, emulated rfl e, emulated rfl e⟩, fun e => ⟨emulated rfl e, emulated rfl e⟩,
    fun e => ⟨emulated rfl e, emulated rfl e, emulated rfl e, emulated rfl e⟩⟩
  · rintro e ⟨guard, srcA, srcB⟩ bad
    exact ⟨State.wordLoad_of_fault run guard srcA srcB bad false, State.wordLoad_of_fault run guard srcA srcB bad true⟩
  · rintro ⟨guard, srcA, srcB⟩ here right still
    refine ⟨State.wordLoad_of_here run guard srcA srcB here right still false, fun narrow => ?_⟩
    have fits : bits < 2 ^ (8 * n) := by
      have lt := leNat_lt bytes
      rwa [length_overlayOwn, length_readBytes] at lt
    have value : extend n true (BitVec.ofNat 64 bits) = _ := extend_signed narrow fits
    rw [← value]
    exact State.wordLoad_of_here run guard srcA srcB here right still true
  · rintro ⟨⟨guard, srcA, srcB⟩, srcD⟩
    exact ⟨fun e bad => exec_wSt_of_fault run guard srcA srcB srcD bad,
      fun here => exec_wSt_of_here run guard srcA srcB srcD here⟩
  · rintro ⟨guard, srcA, srcB⟩ i k word
    have form : exec i s = s.wordAtomic h wd wa wb k := by
      rcases word with ⟨rfl, rfl⟩ | ⟨rfl, rfl⟩ | ⟨rfl, rfl⟩ <;> rfl
    exact ⟨fun e bad => form.trans (State.wordAtomic_of_fault run guard srcA srcB bad),
      fun here barred => form.trans (State.wordAtomic_of_barred run guard srcA srcB here barred),
      fun here free => form.trans (State.wordAtomic_of_here run guard srcA srcB here free)⟩
  · rintro ⟨guard, srcA, srcB⟩ out
    exact exec_wSpld_of_out_of_range run guard srcA srcB out
  · rintro ⟨⟨guard, srcA, srcB⟩, srcD⟩ out
    exact exec_wSpst_of_out_of_range run guard srcA srcB srcD out
  · intro first w code place asleep
    exact ⟨fun ⟨guard, srcA, srcB⟩ => exec_wSpld_of_asleep run guard srcA srcB place asleep,
      fun ⟨⟨guard, srcA, srcB⟩, srcD⟩ => exec_wSpst_of_asleep run guard srcA srcB srcD place asleep⟩
  · intro first w code place awake
    exact ⟨fun ⟨guard, srcA, srcB⟩ none_ right => exec_wSpld_of_committed run guard srcA srcB place awake none_ right,
      fun ⟨guard, srcA, srcB⟩ l e r stores pad same last =>
        exec_wSpld_of_own run guard srcA srcB place awake stores pad same last,
      fun ⟨⟨guard, srcA, srcB⟩, srcD⟩ => exec_wSpst_of_awake run guard srcA srcB srcD place awake⟩

end Sys2Proof.Machine
end

section
/-!
PROOFS. Every word that decodes is the encoding of what it decodes to (07_encoding.md R177, R190, R195): each arm of the decoder
checks the fields that the encoder writes.
-/

namespace Sys2Proof

/-! ### A word, field by field -/

/-- The bits of a word from bit `lo` up are `x`. -/
def FldIs (w : IWord) (lo : Nat) {len : Nat} (x : BitVec len) : Prop := fld w lo len = x

@[simp] theorem fldIs_fld (w : IWord) (lo len : Nat) : FldIs w lo (fld w lo len) := rfl

@[simp] theorem fldIs_ofNat (w : IWord) (lo len k : Nat) : FldIs w lo (BitVec.ofNat len k) ↔ fld w lo len = BitVec.ofNat len k := .rfl

/-- Two parts side by side stand in a word when each stands in its place. -/
@[simp] theorem fldIs_cat (w : IWord) (lo : Nat) {m n : Nat} (x : BitVec m) (y : BitVec n) :
    FldIs w lo (cat x y) ↔ FldIs w (lo + n) x ∧ FldIs w lo y := by
  unfold FldIs fld
  constructor
  · intro whole
    have high := fld_hi x y n m le_rfl
    have low := fld_lo x y 0 n (by omega)
    rw [← whole] at high low
    constructor <;> ext i hi
    · simpa [← add_assoc, hi, BitVec.getLsbD_eq_getElem hi, show n + i < m + n by omega] using congrArg (BitVec.getLsbD · i) high
    · simpa [hi, show i < m + n by omega] using congrArg (BitVec.getLsbD · i) low
  · rintro ⟨rfl, rfl⟩
    ext i hi
    simp [cat, BitVec.getElem_append]
    intro le
    congr 1; omega

theorem FldIs.eq {w v : IWord} (h : FldIs w 0 v) : v = w := by
  rw [← h]
  simp [fld]

/-! ### The decoder, arm by arm -/

/-- What the decoder of a stream answers of a word is no instruction, or one of that stream whose word it is. -/
def Inverts (st : Stream) (w : IWord) (r : Except DecodeErr Instr) : Prop :=
  ∀ i, r = .ok i → i.streamOf = st ∧ encode i = some w

theorem Inverts.error {st : Stream} {w : IWord} {e : DecodeErr} : Inverts st w (.error e) := nofun

theorem Inverts.ok {st : Stream} {w v : IWord} {i : Instr} (stream : i.streamOf = st) (word : encode i = some v)
    (fields : FldIs w 0 v) : Inverts st w (.ok i) := by
  rintro _ ⟨⟩
  exact ⟨stream, word.trans (congrArg some fields.eq)⟩

theorem Inverts.arm {st : Stream} {w v : IWord} {p : Prop} [Decidable p] {i : Instr} {r : Except DecodeErr Instr}
    (rest : Inverts st w r) (stream : i.streamOf = st) (word : encode i = some v) (fields : p → FldIs w 0 v) : 
    Inverts st w (if p then .ok i else r) := by
  split
  · exact .ok stream word (fields ‹p›)
  · exact rest

theorem Inverts.ite {st : Stream} {w : IWord} {p : Prop} [Decidable p] {a b : Except DecodeErr Instr}
    (no : Inverts st w b) (yes : p → Inverts st w a) : Inverts st w (if p then a else b) := by
  split
  · exact yes ‹p›
  · exact no

theorem rawC_inverts (w : IWord) : Inverts .control w (rawC w) := by
  unfold rawC
  repeat refine Inverts.ite ?_ fun c => ?_
  · exact Inverts.error
  all_goals
    simp only [rawC1, rawC2, rawC3, rawC4, rawC5, rawC6, rawC7, rawC8, rawC9, rawC10, rawC11, rawC12, rawC13, rawC14, rawC15,
      rawC16, rawC17, rawC18, rawC19, rawC20]
    repeat refine Inverts.arm ?_ rfl rfl fun h => ?_
  any_goals exact Inverts.error
  any_goals refine Inverts.ok rfl rfl ?_
  all_goals simp [*]

theorem rawW_inverts (w : IWord) : Inverts .micro w (rawW w) := by
  unfold rawW
  iterate 7 refine Inverts.ite ?_ fun _ => ?_
  all_goals
    simp only [rawW0, rawW1, rawW2, rawW3, rawW4, rawW5, rawW6, rawW7]
    repeat refine Inverts.arm ?_ rfl rfl fun h => ?_
  any_goals exact Inverts.error
  all_goals simp [wHdr, *]

theorem decodeC_ok {w : IWord} {i : Instr} (h : decodeC w = .ok i) : rawC w = .ok i ∧ i.wf = true := by
  unfold decodeC at h
  split at h
  · split at h <;> cases h
    exact ⟨‹_›, ‹_›⟩
  · cases h

theorem decodeW_ok {w : IWord} {i : Instr} (h : decodeW w = .ok i) : rawW w = .ok i ∧ i.wf = true := by
  unfold decodeW at h
  split at h
  · split at h <;> cases h
    exact ⟨‹_›, ‹_›⟩
  · cases h

/-- Settles O9: each arm of the decoder has checked, field by field, the word that the encoder gives its instruction. -/
theorem encodeOfDecode : Obligations.EncodeOfDecode := by
  intro w i
  refine ⟨fun h => ?_, fun h => ?_⟩
  · obtain ⟨read, wf⟩ := decodeC_ok h
    exact ⟨wf, rawC_inverts w i read⟩
  · obtain ⟨read, wf⟩ := decodeW_ok h
    exact ⟨wf, rawW_inverts w i read⟩

/-- Settles O10, by evaluating the decoder on each word. -/
theorem decodeOfWordsOfTheSpec : Obligations.DecodeOfWordsOfTheSpec := by
  unfold Obligations.DecodeOfWordsOfTheSpec
  decide +kernel

end Sys2Proof
end

section
/-!
PROOFS. The operands of a micro-thread's word (R191, R192, R230, R379).
-/

namespace Sys2Proof.Machine

/-! ### Operands (R191, R192, R230, R379) -/

/-- R191: guard 127 reads no predicate. -/
theorem Blk.guard_of_always (b : Blk) {h : WHdr} (always : h.gp = 127) : b.guard h = true ↔ h.n = 0 := by
  rw [Blk.guard, if_pos always, beq_iff_eq]

/-- R191: any other guard reads its predicate, and N inverts it. -/
theorem Blk.guard_of_pred (b : Blk) {h : WHdr} (pred : h.gp ≠ 127) :
    b.guard h = true ↔ (b.p.getLsbD h.gp.toNat = true ↔ h.n = 0) := by
  rw [Blk.guard, if_neg pred, Blk.pred]
  have bit : h.n = 0 ∨ h.n = 1 := by
    have := h.n.isLt
    rcases (by omega : h.n.toNat = 0 ∨ h.n.toNat = 1) with n | n
    · exact .inl (BitVec.eq_of_toNat_eq n)
    · exact .inr (BitVec.eq_of_toNat_eq n)
  rcases bit with n | n <;> simp [n]

section Field
variable (b : Blk) (q : List Word) {r : RegNo}

theorem Blk.src_of_register (low : 1 ≤ r.toNat) (high : r.toNat ≤ 23) : b.src q r = some (look 0 b.w r.toNat, b) := by
  have pos : r ≠ 0 := by rintro rfl; exact absurd low (by decide)
  rw [Blk.src, if_neg pos, if_pos high]

theorem Blk.src_of_captured (low : 24 ≤ r.toNat) (high : r.toNat ≤ 29) :
    b.src q r = some (look 0 b.cap.cs (r.toNat - 24), b) := by
  have pos : r ≠ 0 := by rintro rfl; exact absurd low (by decide)
  rw [Blk.src, if_neg pos, if_neg (by omega), if_pos high]

theorem Blk.src_link : b.src q 30 = if b.pops < q.length then some (nth 0 q b.pops, { b with pops := b.pops + 1 }) else none :=
  rfl

theorem nth_of_getElem? {α : Type} {d x : α} {l : List α} {n : Nat} (h : l[n]? = some x) : nth d l n = x := by
  induction l generalizing n with
  | nil => cases h
  | cons a l ih =>
    cases n with
    | zero => exact Option.some.inj h
    | succ n => exact ih (by simpa using h)

theorem Blk.dst_of_register (low : 1 ≤ r.toNat) (high : r.toNat ≤ 23) (v : Word) :
    b.dst r v = { b with w := put b.w r.toNat v, dirty := b.dirty ||| (1 <<< (r.toNat - 1)) } := by
  have pos : r ≠ 0 := by rintro rfl; exact absurd low (by decide)
  rw [Blk.dst, if_neg pos, if_pos high]

end Field

theorem getLsbD_one_shiftLeft {w n : Nat} (inside : n < w) (i : Nat) : ((1 : BitVec w) <<< n).getLsbD i = decide (i = n) := by
  have bit := BitVec.getLsbD_twoPow (w := w) n i
  rw [BitVec.twoPow_eq] at bit
  exact bit.trans (by simp [inside, eq_comm])

theorem getLsbD_putBit {w k : Nat} (inside : k < w) (p : BitVec w) (v : Bool) (j : Nat) :
    (if v then p ||| ((1 : BitVec w) <<< k) else p &&& ~~~((1 : BitVec w) <<< k)).getLsbD j =
      if j = k then v else p.getLsbD j := by
  have bit := getLsbD_one_shiftLeft inside j
  cases v
  · rw [if_neg Bool.false_ne_true, BitVec.getLsbD_and, BitVec.getLsbD_not, bit]
    split
    · simp [*]
    · cases held : p.getLsbD j with
      | false => rfl
      | true => simp [BitVec.lt_of_getLsbD held, *]
  · rw [if_pos rfl, BitVec.getLsbD_or, bit]
    split <;> simp [*]

/-- R192: a predicate write changes that predicate only. -/
theorem Blk.setPred_getLsbD (b : Blk) {bank : BitVec 2} (r : RegNo) (v : Bool) (n : Nat) (real : bank.toNat < 3) :
    (b.setPred bank r v).p.getLsbD n = if n = 32 * bank.toNat + r.toNat then v else b.p.getLsbD n := by
  have field := r.isLt
  exact getLsbD_putBit (by omega) b.p v n

/-- R379: the dirty bit of a register. -/
theorem getLsbD_dirtyBit {n : Nat} (inside : n < 23) (j : Nat) :
    (((1 <<< n : Nat) : BitVec 23)).getLsbD j = decide (j = n) := by
  rw [BitVec.natCast_eq_ofNat, BitVec.getLsbD_ofNat, Nat.one_shiftLeft, Nat.testBit_two_pow]
  by_cases here : j = n
  · simp [here, inside]
  · simp [here, Ne.symm here]

/-- Settles O47, field by field. -/
theorem microOperands : Obligations.MicroOperands := by
  intro b q r v h bank p n k
  refine ⟨b.guard_of_always, b.guard_of_pred, rfl, b.src_of_register q, b.src_of_captured q, fun all => ?_, fun x here => ?_,
    rfl, rfl, fun low high => ?_, fun real => ⟨rfl, b.setPred_getLsbD r p n real⟩⟩
  · rw [Blk.src_link, if_neg (by omega)]
  · rw [Blk.src_link, if_pos (List.getElem?_eq_some_iff.mp here).1, nth_of_getElem? here]
  · rw [b.dst_of_register low high]
    refine ⟨rfl, fun j => look_put .., fun j => ?_⟩
    rw [BitVec.getLsbD_or, getLsbD_dirtyBit (by omega), Bool.or_eq_true, decide_eq_true_iff]

end Sys2Proof.Machine
end

section
/-!
PROOFS. Integer words, compares and predicate logic of micro-threads (R191, R194, R199, R236-R238).
-/

namespace Sys2Proof.Machine

/-! ### Values (R210, R212, R236) -/

theorem ofInt_min_toInt (x y : Word) : BitVec.ofInt 64 (min x.toInt y.toInt) = smin x y := by
  rw [smin, min_def]
  split <;> exact BitVec.ofInt_toInt

theorem ofInt_max_toInt (x y : Word) : BitVec.ofInt 64 (max x.toInt y.toInt) = smax x y := by
  rw [smax, max_def]
  split <;> exact BitVec.ofInt_toInt

theorem ofNat_min_toNat (x y : Word) : BitVec.ofNat 64 (min x.toNat y.toNat) = umin x y := by
  rw [umin, min_def]
  split <;> rw [BitVec.ofNat_toNat, BitVec.setWidth_eq]

theorem ofNat_max_toNat (x y : Word) : BitVec.ofNat 64 (max x.toNat y.toNat) = umax x y := by
  rw [umax, max_def]
  split <;> rw [BitVec.ofNat_toNat, BitVec.setWidth_eq]

/-- An arithmetic shift divides, and rounds down. -/
theorem ofInt_toInt_div_two_pow (x : Word) (n : Nat) : BitVec.ofInt 64 (x.toInt / 2 ^ n) = x.sshiftRight n := by
  rw [BitVec.sshiftRight, Int.shiftRight_eq_div_pow]
  norm_cast

theorem mulDiv_mulhu (x y : Word) : BitVec.ofNat 64 (x.toNat * y.toNat / 2 ^ 64) = (mulDiv 2 x y).1 := by
  rw [mulDiv, hiProduct]
  norm_cast

theorem mulDiv_rem (x y : Word) : mulDiv 6 x y =
    if y = 0 then (x, 0x20) else if x.toInt = -2 ^ 63 ∧ y.toInt = -1 then (0, 0x20)
      else (BitVec.ofInt 64 (x.toInt.tmod y.toInt), 0) := by
  rw [Int.tmod_def]
  rfl

/-! ### Words by their shared forms -/

/-- A word that firmware does not perform runs as its native form (R199). -/
theorem State.unitWord_of_native {s : State} {h : WHdr} {bit : Nat} (native : s.emulated bit = false) (rs : List RegNo) (form : Res') :
    s.unitWord bit h rs form = form := by
  rw [State.unitWord, native, if_neg Bool.false_ne_true]

section Forms
variable {i : Instr} {s : State} {h : WHdr} {wd wa wb : RegNo} {bank : BitVec 2}

theorem word2_of_word2 {f g : Word → Word → Word} (form : exec i s = s.word2 h wd wa wb f) (value : ∀ x y, g x y = f x y) :
    Word2 i s h wa wb (fun _ b x y => b.dst wd (g x y)) := by
  have flagged := word2_wordF2 form
  simpa only [Blk.flag_zero, value] using flagged

theorem word1_of_word1 {f g : Word → Word} (form : exec i s = s.wordF1 h wd wa (fun _ x => (f x, 0)))
    (value : ∀ x, g x = f x) : Word1 i s h wa (fun _ b x => b.dst wd (g x)) := by
  have flagged := word1_wordF1 form
  simpa only [Blk.flag_zero, value] using flagged

theorem word0_of_pred {f : Blk → Bool} (form : exec i s = s.wordPred h bank wd f) :
    Word0 i s h (fun b => b.setPred bank wd (f b)) := word0_of (fun _ => rfl) form

/-- A word of a unit class that is not emulated runs here (R199). -/
theorem word2_of_native {bit : Nat} {rs : List RegNo} {f g : Word → Word → Word × BitVec 7} (native : s.emulated bit = false)
    (form : exec i s = s.unitWord bit h rs (s.wordF2 h wd wa wb (fun _ => f))) (value : ∀ x y, g x y = f x y) :
    Word2 i s h wa wb (fun _ b x y => (b.dst wd (g x y).1).flag (g x y).2) := by
  rw [State.unitWord_of_native native] at form
  simpa only [value] using word2_wordF2 form

end Forms

/-- Settles O48: each word by its shared form, and by its value where the statement writes it in integers. -/
theorem microIntegerAndPredicates : Obligations.MicroIntegerAndPredicates := by
  intro s h wd wa wb imm7 sh imm bank sb W D C P lo
  have w {i : Instr} {f : Word → Word → Word} (form : exec i s = s.word2 h wd wa wb f) : W i f :=
    word2_of_word2 form fun _ _ => rfl
  have c {i : Instr} {f : Word → Word → Bool × BitVec 7} (form : exec i s = s.wordCmp h bank wd wa wb f) : C i f :=
    word2_wordCmp form
  have one {i : Instr} {f : Word → Word} (form : exec i s = s.wordF1 h wd wa (fun _ x => (f x, 0))) :
      Word1 i s h wa (fun _ b x => b.dst wd (f x)) := word1_of_word1 form fun _ => rfl
  exact ⟨w rfl, w rfl, w rfl, w rfl, w rfl, w rfl, word2_of_word2 rfl ofInt_min_toInt, word2_of_word2 rfl ofInt_max_toInt,
    word2_of_word2 rfl ofNat_min_toNat, word2_of_word2 rfl ofNat_max_toNat, w rfl, w rfl,
    word2_of_word2 rfl fun x y => ofInt_toInt_div_two_pow x (y.toNat % 64), w rfl, w rfl, w rfl, word2_of_word2 rfl mulDiv_mulhu,
    w rfl,
    fun native => ⟨word2_of_native native rfl fun _ _ => rfl, word2_of_native native rfl fun x y => (mulDiv_rem x y).symm,
      word2_of_native native rfl fun _ _ => rfl, word2_of_native native rfl fun _ _ => rfl⟩,
    one rfl, one rfl, one rfl, word1_of_word1 rfl fun x => ofInt_toInt_div_two_pow x sh.toNat,
    word0_of (fun b => b.dst_pos ..) rfl, c rfl, c rfl, c rfl, c rfl, c rfl, c rfl, c rfl, c rfl, c rfl,
    word0_of_pred rfl, word0_of_pred rfl, word0_of_pred rfl, word0_of_pred rfl, word0_of_pred rfl, word0_of_pred rfl⟩

end Sys2Proof.Machine
end

section
/-!
PROOFS. Packed floating words and converts of micro-threads, element by element (R104, R193, R199, R234, R239-R244).
-/

namespace Sys2Proof.Machine

/-! ### Packed results (R193, R234) -/

theorem packElems_lt (w : Nat) (l : List (Nat × BitVec 7)) : (packElems w l).1 < 2 ^ (w * l.length) := by
  induction l with
  | nil => exact Nat.one_pos
  | cons e l ih =>
    obtain ⟨v, f⟩ := e
    have low : v % 2 ^ w < 2 ^ w := Nat.mod_lt _ (Nat.two_pow_pos w)
    rw [packElems, List.length_cons, Nat.mul_succ, Nat.add_comm, pow_add]
    calc v % 2 ^ w + 2 ^ w * (packElems w l).1 < 2 ^ w * ((packElems w l).1 + 1) := by rw [Nat.mul_succ]; omega
      _ ≤ 2 ^ w * 2 ^ (w * l.length) := Nat.mul_le_mul_left _ ih

theorem packElems_elem (w : Nat) (l : List (Nat × BitVec 7)) (j : Nat) (inside : j < l.length) :
    (packElems w l).1 / 2 ^ (w * j) % 2 ^ w = l[j].1 % 2 ^ w := by
  induction l generalizing j with
  | nil => exact absurd inside (Nat.not_lt_zero j)
  | cons e l ih =>
    obtain ⟨v, f⟩ := e
    have low : v % 2 ^ w < 2 ^ w := Nat.mod_lt _ (Nat.two_pow_pos w)
    cases j with
    | zero => simp [packElems]
    | succ j =>
      have rest : (v % 2 ^ w + 2 ^ w * (packElems w l).1) / 2 ^ w = (packElems w l).1 := by
        rw [Nat.add_mul_div_left _ _ (Nat.two_pow_pos w), Nat.div_eq_of_lt low, Nat.zero_add]
      rw [packElems, Nat.mul_succ, Nat.add_comm, pow_add, ← Nat.div_div_eq_div_mul]
      simpa only [rest, List.getElem_cons_succ] using ih j (Nat.lt_of_succ_lt_succ inside)

theorem packElems_flags (w : Nat) (l : List (Nat × BitVec 7)) (a : BitVec 7) :
    l.foldl (fun a e => a ||| e.2) a = a ||| (packElems w l).2 := by
  induction l generalizing a with
  | nil => simp [packElems]
  | cons e l ih => rw [List.foldl_cons, ih, packElems, BitVec.or_assoc]

/-- R234: `mapElems` packs its elements, where they fit in a register. -/
theorem packs_mapElems {w n : Nat} (fits : w * n ≤ 64) (f : Nat → Nat × BitVec 7) :
    Packs w n f (mapElems w n f).1 (mapElems w n f).2 := by
  have small := packElems_lt w ((List.range n).map f)
  rw [List.length_map, List.length_range] at small
  have whole : (mapElems w n f).1.toNat = (packElems w ((List.range n).map f)).1 :=
    BitVec.toNat_ofNat .. |>.trans (Nat.mod_eq_of_lt (small.trans_le (Nat.pow_le_pow_right Nat.two_pos fits)))
  refine ⟨whole ▸ small, fun j inside => ?_, ?_⟩
  · rw [elem, whole, packElems_elem w _ j (by simpa using inside)]
    simp
  · have flags := packElems_flags w ((List.range n).map f) 0
    rw [List.foldl_map] at flags
    exact (flags.trans BitVec.zero_or).symm

theorem Packs.congr {w n : Nat} {f g : Nat → Nat × BitVec 7} {v : Word} {fl : BitVec 7} (same : ∀ j, j < n → f j = g j)
    (p : Packs w n f v fl) : Packs w n g v fl := by
  obtain ⟨small, elems, flags⟩ := p
  refine ⟨small, fun j inside => same j inside ▸ elems j inside, flags.trans ?_⟩
  exact List.foldl_ext _ _ _ fun a j inside => by rw [same j (List.mem_range.mp inside)]

/-- R106: a convert packs its elements. -/
theorem packs_convertList {sf df n : Nat} {l : List Nat} {e : Nat → Nat} (count : l.length = n) (fits : fmtBits df * n ≤ 64)
    (elems : ∀ j, j < n → nth 0 l j = e j) (rd : Nat → Rnd) :
    Packs (fmtBits df) n (fun j => convertElem sf df (rd j) (e j)) (convertList rd sf df l).1 (convertList rd sf df l).2 := by
  subst count
  exact (packs_mapElems fits fun j => convertElem sf df (rd j) (nth 0 l j)).congr fun j inside => by rw [elems j inside]

theorem length_elemsFrom (w first n : Nat) (x : Word) : (elemsFrom w first n x).length = n := by simp [elemsFrom]

theorem nth_eq_getD {α : Type} (d : α) (l : List α) (n : Nat) : nth d l n = l.getD n d := by
  induction l generalizing n with
  | nil => rfl
  | cons a l ih =>
    cases n with
    | zero => rfl
    | succ n => exact (ih n).trans rfl

theorem nth_elemsFrom {w first n j : Nat} (x : Word) (inside : j < n) : nth 0 (elemsFrom w first n x) j = elem w x (first + j) := by
  simp [nth_eq_getD, elemsFrom, inside]

/-- The elements of two registers, one after the other. -/
theorem nth_elemsFrom_append {w n j : Nat} (x y : Word) (inside : j < n + n) :
    nth 0 (elemsFrom w 0 n x ++ elemsFrom w 0 n y) j = elem w (if j / n = 0 then x else y) (j % n) := by
  rw [nth_eq_getD]
  by_cases low : j < n
  · rw [List.getD_append _ _ _ _ (by rwa [length_elemsFrom]), ← nth_eq_getD, nth_elemsFrom x low, Nat.div_eq_of_lt low,
      Nat.mod_eq_of_lt low, if_pos rfl, Nat.zero_add]
  · have pos : 0 < n := by omega
    have high : j / n = 1 := Nat.div_eq_of_lt_le (by omega) (by omega)
    have rest : j % n = j - n := by
      have := Nat.div_add_mod j n
      rw [high] at this
      omega
    rw [List.getD_append_right _ _ _ _ (by rw [length_elemsFrom]; omega), length_elemsFrom, ← nth_eq_getD,
      nth_elemsFrom y (by omega), high, if_neg Nat.one_ne_zero, rest, Nat.zero_add]

/-! ### Words whose result is packed -/

/-- A block that takes a packed result and its flags, as each of these words leaves it. -/
def Blk.TakesPacked (b : Blk) (wd : RegNo) (w n : Nat) (f : Nat → Nat × BitVec 7) (d : Blk) : Prop :=
  ∃ v fl, Packs w n f v fl ∧ d = (b.dst wd v).flag fl

/-- A word of two sources gives a packed result. -/
def Packs2 (i : Instr) (s : State) (h : WHdr) (wd wa wb : RegNo) (w n : Nat) (f : Blk → Word → Word → Nat → Nat × BitVec 7) : Prop :=
  ∃ r, Word2 i s h wa wb r ∧ ∀ (a b : Blk) x y, b.TakesPacked wd w n (f a x y) (r a b x y)

/-- A word of one source gives a packed result. -/
def Packs1 (i : Instr) (s : State) (h : WHdr) (wd wa : RegNo) (w n : Nat) (f : Blk → Word → Nat → Nat × BitVec 7) : Prop :=
  ∃ r : Blk → Blk → Word → Word → Blk, Word1 i s h wa (fun a b x => r a b x 0) ∧
    ∀ (a b : Blk) x y, b.TakesPacked wd w n (f a x) (r a b x y)

section Forms
variable {i : Instr} {s : State} {h : WHdr} {wd wa wb : RegNo} {w n : Nat}

theorem packs2_of_wordF2 {g : Blk → Word → Word → Word × BitVec 7} {f : Blk → Word → Word → Nat → Nat × BitVec 7}
    (form : exec i s = s.wordF2 h wd wa wb g) (packs : ∀ a x y, Packs w n (f a x y) (g a x y).1 (g a x y).2) :
    Packs2 i s h wd wa wb w n f :=
  ⟨_, word2_wordF2 form, fun a _ x y => ⟨_, _, packs a x y, rfl⟩⟩

theorem packs1_of_wordF1 {g : Blk → Word → Word × BitVec 7} {f : Blk → Word → Nat → Nat × BitVec 7}
    (form : exec i s = s.wordF1 h wd wa g) (packs : ∀ a x, Packs w n (f a x) (g a x).1 (g a x).2) :
    Packs1 i s h wd wa w n f :=
  ⟨fun a b x _ => (b.dst wd (g a x).1).flag (g a x).2, word1_wordF1 form, fun a _ x _ => ⟨_, _, packs a x, rfl⟩⟩

/-- The elements of a format fit in a register. -/
theorem width_mul_div_le (k : Nat) : k * (64 / k) ≤ 64 := Nat.mul_div_le 64 k

theorem packs2_of_wordElems2 {fm : BitVec 2} {f : Fmt → Rnd → Nat → Nat → Nat × BitVec 7}
    (form : exec i s = s.wordElems2 h wd wa wb fm f) :
    let t := fmtOf fm
    Packs2 i s h wd wa wb t.width (64 / t.width)
      (fun a x y j => f t (a.rnd s.curMt j) (elem t.width x j) (elem t.width y j)) :=
  packs2_of_wordF2 form fun _ _ _ => packs_mapElems (width_mul_div_le _) _

theorem packs2_of_wordElems3 {fm : BitVec 2} {f : Fmt → Rnd → Nat → Nat → Nat → Nat × BitVec 7}
    (form : exec i s = s.wordElems3 h wd wa wb fm f) :
    let t := fmtOf fm
    Packs2 i s h wd wa wb t.width (64 / t.width) (fun a x y j =>
      f t (a.rnd s.curMt j) (elem t.width x j) (elem t.width y j) (elem t.width (look 0 a.w wd.toNat) j)) :=
  packs2_of_wordF2 form fun _ _ _ => packs_mapElems (width_mul_div_le _) _

theorem packs1_of_wordElems1 {fm : BitVec 2} {f : Fmt → Rnd → Nat → Nat × BitVec 7}
    (form : exec i s = s.wordElems1 h wd wa fm f) :
    let t := fmtOf fm
    Packs1 i s h wd wa t.width (64 / t.width) (fun a x j => f t (a.rnd s.curMt j) (elem t.width x j)) :=
  packs1_of_wordF1 form fun _ _ => packs_mapElems (width_mul_div_le _) _

/-- R241: a halving convert takes the elements of both registers, those of the first below. -/
theorem packs2_of_halve {sf df : Nat} (form : exec i s = s.halve h wd wa wb sf df)
    (double : 128 / fmtBits sf = 64 / fmtBits sf + 64 / fmtBits sf) (fits : fmtBits df * (128 / fmtBits sf) ≤ 64) :
    Packs2 i s h wd wa wb (fmtBits df) (128 / fmtBits sf) (fun a x y j => convertElem sf df (a.rnd s.curMt j)
      (elem (fmtBits sf) (if j / (64 / fmtBits sf) = 0 then x else y) (j % (64 / fmtBits sf)))) := by
  refine packs2_of_wordF2 form fun a x y => packs_convertList ?_ fits (fun j inside => ?_) _
  · rw [List.length_append, length_elemsFrom, length_elemsFrom, double]
  · exact nth_elemsFrom_append x y (double ▸ inside)

/-- A convert of consecutive elements of one register. -/
theorem packs1_of_elemsFrom {sf df first k : Nat}
    (form : exec i s = s.wordF1 h wd wa (fun b x => convertList (b.rnd s.curMt) sf df (elemsFrom (fmtBits sf) first k x)))
    (fits : fmtBits df * k ≤ 64) :
    Packs1 i s h wd wa (fmtBits df) k
      (fun a x j => convertElem sf df (a.rnd s.curMt j) (elem (fmtBits sf) x (first + j))) :=
  packs1_of_wordF1 form fun _ x => packs_convertList (length_elemsFrom ..) fits (fun _ inside => nth_elemsFrom x inside) _

/-- R244: a convert of the one element of a register. -/
theorem packs1_of_whole {sf df : Nat}
    (form : exec i s = s.wordF1 h wd wa (fun b x => convertList (b.rnd s.curMt) sf df [x.toNat]))
    (source : fmtBits sf = 64) (fits : fmtBits df * 1 ≤ 64) :
    Packs1 i s h wd wa (fmtBits df) 1 (fun a x j => convertElem sf df (a.rnd s.curMt j) (elem (fmtBits sf) x (0 + j))) := by
  refine packs1_of_wordF1 form fun _ x => packs_convertList (n := 1) rfl fits (fun j inside => ?_) _
  obtain rfl : j = 0 := by omega
  have small : x.toNat < 2 ^ 64 := x.isLt
  rw [source, elem]
  simpa [nth] using (Nat.mod_eq_of_lt small).symm

end Forms

/-- Settles O49: each word by its shared form, whose result `packElems` packs. -/
theorem microFloatAndConverts : Obligations.MicroFloatAndConverts := by
  intro s h wd wa wb fm p hf t n done R E2 E1 E3 H L G S
  have elems2 {i : Instr} {f : Fmt → Rnd → Nat → Nat → Nat × BitVec 7} (form : exec i s = s.wordElems2 h wd wa wb fm f) : E2 i f :=
    packs2_of_wordElems2 form
  have elems1 {i : Instr} {f : Fmt → Rnd → Nat → Nat × BitVec 7} (form : exec i s = s.wordElems1 h wd wa fm f) : E1 i f :=
    packs1_of_wordElems1 form
  have elems3 {i : Instr} {np nc : Bool} (form : exec i s = s.wordElems3 h wd wa wb fm (fun t rd x y z =>
      fpFma t rd np nc (t.decode x) (t.decode y) (t.decode z))) : E3 i np nc :=
    packs2_of_wordElems3 form
  have halves {i : Instr} {sf df : Nat} (form : exec i s = s.halve h wd wa wb sf df)
      (double : 128 / fmtBits sf = 64 / fmtBits sf + 64 / fmtBits sf) (fits : fmtBits df * (128 / fmtBits sf) ≤ 64) : H i sf df :=
    packs2_of_halve form double fits
  have doubles {i : Instr} {sf df : Nat} (form : exec i s = s.double h wd wa hf sf df) : G i sf df :=
    packs1_of_elemsFrom form (width_mul_div_le _)
  have consecutive {i : Instr} {sf df first k : Nat}
      (form : exec i s = s.wordF1 h wd wa (fun b x => convertList (b.rnd s.curMt) sf df (elemsFrom (fmtBits sf) first k x)))
      (fits : fmtBits df * k ≤ 64) : L i sf df k first :=
    packs1_of_elemsFrom form fits
  have sameWidth {i : Instr} {sd dd ss ds : Nat} (form : exec i s = s.convertSame h wd wa p sd dd ss ds) (whole : fmtBits sd = 64)
      (one : fmtBits dd * 1 ≤ 64) (half : fmtBits ss = 32) (two : fmtBits ds * 2 ≤ 64) : S i sd dd ss ds := by
    by_cases single : p = 0
    · simp only [State.convertSame, single, if_true] at form
      simp only [S, single, if_true]
      exact packs1_of_whole form whole one
    · simp only [State.convertSame, single, if_false, ← half] at form
      simp only [S, single, if_false]
      exact packs1_of_elemsFrom form two
  have unit {i : Instr} {bit : Nat} {rs : List RegNo} {native : Res'} (here : s.emulated bit = false)
      (form : exec i s = s.unitWord bit h rs native) : exec i s = native := form.trans (State.unitWord_of_native here ..)
  have sixteen (b : Blk) (j : Nat) (inside : j < 16) :
      nth 0 ((List.range 8).flatMap (fun r => elemsFrom 32 0 2 (look 0 b.w (wa.toNat + r)))) j =
        elem 32 (look 0 b.w (wa.toNat + j / 2)) (j % 2) := by
    interval_cases j <;> rfl
  have f4 : ∃ r, Word0 (.wCvtF4 h wd wa) s h r ∧ ∀ b, done b 4 16 (fun j =>
      convertElem 2 7 (b.rnd s.curMt j) (elem 32 (look 0 b.w (wa.toNat + j / 2)) (j % 2))) (r b) :=
    ⟨_, word0_of (fun b => by simp only [Blk.flag, Blk.dst_pos]) rfl,
      fun b => ⟨_, _, packs_convertList (sf := 2) (df := 7) (n := 16) rfl (by decide) (sixteen b) _, rfl⟩⟩
  clear_value S G L H E3 E1 E2
  exact ⟨elems2 rfl, elems2 rfl, elems2 rfl, elems3 rfl, elems3 rfl, elems3 rfl, elems3 rfl, elems2 rfl, elems2 rfl,
    elems1 rfl, elems1 rfl,
    fun native => ⟨elems2 (unit native rfl), elems1 (unit native rfl)⟩,
    fun native => ⟨elems1 (unit native rfl), elems1 (unit native rfl), elems1 (unit native rfl), elems1 (unit native rfl)⟩,
    halves rfl rfl (by decide), halves rfl rfl (by decide), halves rfl rfl (by decide), halves rfl rfl (by decide),
    halves rfl rfl (by decide), halves rfl rfl (by decide), consecutive rfl (by decide), doubles rfl, doubles rfl, doubles rfl,
    doubles rfl, doubles rfl, doubles rfl, consecutive rfl (by decide), sameWidth rfl rfl (by decide) rfl (by decide),
    sameWidth rfl rfl (by decide) rfl (by decide), sameWidth rfl rfl (by decide) rfl (by decide),
    sameWidth rfl rfl (by decide) rfl (by decide), f4⟩

end Sys2Proof.Machine
end

section
/-!
PROOFS. Where an instruction is closed to its level (R185, R228, R258, R284, R303, R304).
-/

namespace Sys2Proof.Machine

/-- The value of a cause that names the word (R371). -/
theorem raises_word {i : Instr} {s : State} {k : BitVec 8} {w : IWord} (word : encode i = some w)
    (form : exec i s = raise s k (wordVal (encode i))) : Raises i s k (w.setWidth 64) := by
  rw [Raises, form, word]
  rfl

/-! ### Status register accesses (R185) -/

theorem csrFault_of_unknown {l : Level} {n : Nat} (unknown : csrKnown n = false) : csrFault l n = some 0x01 := by
  rw [csrFault, unknown]
  rfl

theorem csrFault_of_closed {l : Level} {n : Nat} (known : csrKnown n = true)
    (closed : l = .app ∧ 0x100 ≤ n ∨ l = .sys ∧ 0x200 ≤ n) : csrFault l n = some 0x02 := by
  unfold csrFault
  rcases closed with ⟨rfl, high⟩ | ⟨rfl, high⟩ <;> simp [known, high]

/-- An access whose check fails raises its cause before any effect. -/
theorem csrGuard_of_fault {s : State} {k : BitVec 8} {idx : BitVec 12} (fault : csrFault s.me.level idx.toNat = some k)
    (i : Instr) (ok : Res') : s.csrGuard i idx ok = raise s k (wordVal (encode i)) := by
  unfold State.csrGuard
  rw [fault]

/-- Settles O29: an access to a status register by its check, the other instructions by the level they test first. -/
theorem privilege : Obligations.Privilege := by
  intro s rd ra rb idx w i
  refine ⟨fun access word => ?_, fun app => ?_, fun up u word => ?_, fun app word => ?_⟩
  · have guarded : ∃ ok, exec i s = s.csrGuard i idx ok := by
      rcases access with rfl | rfl | rfl | rfl <;> exact ⟨_, rfl⟩
    obtain ⟨ok, form⟩ := guarded
    have faults {k : BitVec 8} (fault : csrFault s.me.level idx.toNat = some k) : Raises i s k (w.setWidth 64) :=
      raises_word word (form.trans (csrGuard_of_fault fault ..))
    exact ⟨fun unknown => faults (csrFault_of_unknown unknown), fun known closed => faults (csrFault_of_closed known closed)⟩
  · exact if_pos app
  · exact raises_word word (if_pos up)
  · exact raises_word word (if_pos ⟨rfl, app⟩)

end Sys2Proof.Machine
end

section
/-!
PROOFS. `vget` and `vput`, and the issue of class 17 (R79, R83, R175, R186, R187, R255, R258, R260-R262, R379).
-/

namespace Sys2Proof.Machine

/-! ### The access of one micro-thread (R175, R258) -/

section Single
variable {s : State} {j : Instr} {ra : RegNo} {f : Nat → Mt → Res'}

theorem single_of_past (past : s.me.vl ≤ (s.rx ra).toNat) : s.single j ra f = raise s 0x0D (wordVal (encode j)) := if_pos past

variable (inside : (s.rx ra).toNat < s.me.vl)
include inside

theorem single_of_revoked (revoked : s.me.gstate = .revoked) : s.single j ra f = s.park .again :=
  (if_neg (by omega)).trans (if_pos revoked)

variable (held : s.me.gstate ≠ .revoked)
include held

theorem single_of_busy (busy : s.quiet s.cur (s.rx ra).toNat = false) : s.single j ra f = .next s :=
  (if_neg (by omega)).trans <| (if_neg held).trans <| if_pos (by rw [busy]; rfl)

theorem single_of_quiet (quiet : s.quiet s.cur (s.rx ra).toNat = true) :
    s.single j ra f = f (s.rx ra).toNat (s.mt s.cur (s.rx ra).toNat) :=
  (if_neg (by omega)).trans <| (if_neg held).trans <| if_neg (by rw [quiet]; decide)

end Single

/-! ### The record of a micro-thread that is spilled (R79, R80) -/

theorem putDws_fold_frame (l : List (Nat × Word)) (key : Nat) (s : State) :
    let t := l.foldl (fun s e => putDw s (key + 8 * e.1) e.2) s
    t = { s with mem := t.mem, synd := t.synd } := by
  induction l generalizing s with
  | nil => rfl
  | cons e l ih => exact (ih _).trans rfl

theorem readByte_putDws_fold_ne (l : List (Nat × Word)) {key n a : Nat} (within : ∀ e ∈ l, 8 * e.1 + 8 ≤ n)
    (out : a < key ∨ key + n ≤ a) (s : State) :
    readByte (l.foldl (fun s e => putDw s (key + 8 * e.1) e.2) s).mem a = readByte s.mem a := by
  induction l generalizing s with
  | nil => rfl
  | cons e l ih =>
    have here := within e List.mem_cons_self
    refine (ih (fun e' he => within e' (List.mem_cons_of_mem _ he)) _).trans ?_
    exact readByte_writeBytes_ne _ _ _ _ (by rw [length_toLe]; omega)

theorem State.writeSpill_of_resident {s : State} {c i : Nat} (resident : (s.mt c i).spillRec = none) : s.writeSpill c i = s := by
  simp only [State.writeSpill, resident]

/-- A record is written into storage alone. -/
theorem State.writeSpill_frame (s : State) (c i : Nat) :
    s.writeSpill c i = { s with mem := (s.writeSpill c i).mem, synd := (s.writeSpill c i).synd } := by
  unfold State.writeSpill
  split
  · rfl
  · exact putDws_fold_frame ..

/-- Nothing outside the record of 256 bytes changes. -/
theorem State.readByte_writeSpill_ne {s : State} {c i l r a : Nat} (spilled : (s.mt c i).spillRec = some (l, r))
    (out : a < spillKey (clusterOfCtx c) l r ∨ spillKey (clusterOfCtx c) l r + 256 ≤ a) :
    readByte (s.writeSpill c i).mem a = readByte s.mem a := by
  simp only [State.writeSpill, spilled]
  refine readByte_putDws_fold_ne _ (fun e he => ?_) out s
  have := lt_of_mem_recordWords he
  omega

/-! ### Items (R186, R258) -/

/-- An item leaves the place of its micro-thread's record. -/
theorem Ctx.spillRec_putItem (x : Ctx) (m : Mt) (n : Nat) (v : Word) : (x.putItem m n v).spillRec = m.spillRec := by
  unfold Ctx.putItem
  split
  · rfl
  · split
    · rfl
    · split <;> rfl

section Item
variable (x : Ctx) (m : Mt) {n : Nat} (v : Word)

theorem Ctx.item_of_register (high : n ≤ 23) : x.item m n = look 0 m.w n := if_pos high

theorem Ctx.item_of_pred (low : 32 ≤ n) (high : n ≤ 127) : x.item m n = if m.p.getLsbD (n - 32) then 1 else 0 :=
  (if_neg (by omega)).trans (if_pos high)

theorem Ctx.item_flags : x.item m 128 = m.flags.setWidth 64 := rfl

theorem Ctx.item_status : x.item m 129 = x.mtStatus m := rfl

theorem Ctx.putItem_of_register (high : n ≤ 23) :
    x.putItem m n v = { m with w := put m.w n v, dirty := m.dirty ||| (1 <<< (n - 1)) } := if_pos high

theorem Ctx.putItem_of_pred (low : 32 ≤ n) (high : n ≤ 127) : x.putItem m n v =
    { m with p := if v.getLsbD 0 then m.p ||| ((1 : BitVec 96) <<< (n - 32)) else m.p &&& ~~~((1 : BitVec 96) <<< (n - 32)) } :=
  (if_neg (by omega)).trans (if_pos high)

theorem Ctx.putItem_flags : x.putItem m 128 v = { m with flags := v.setWidth 7 } := rfl

theorem Ctx.putItem_status : x.putItem m 129 v = x.putStatus m v := rfl

end Item

/-- The state after an item of micro-thread `i` of the current context is written. -/
def State.puts (s : State) (i n : Nat) (v : Word) : State := (s.putMt s.cur i (s.me.putItem (s.mt s.cur i) n v)).next

section Puts
variable (s : State) (i n : Nat) (v : Word)

theorem State.puts_frame : s.puts i n v = { s with
    ctxs := (s.puts i n v).ctxs, mts := (s.puts i n v).mts, mem := (s.puts i n v).mem, synd := (s.puts i n v).synd } := by
  rw [State.puts, State.next, State.putMt, State.writeSpill_frame]
  rfl

theorem State.mts_puts : (s.puts i n v).mts = put s.mts (512 * s.cur + i) (s.me.putItem (s.mt s.cur i) n v) := by
  rw [State.puts, State.next, State.putMt, State.writeSpill_frame]
  rfl

theorem State.mt_puts_self : (s.puts i n v).mt s.cur i = s.me.putItem (s.mt s.cur i) n v := by
  rw [State.mt, State.mts_puts, look_put_self]

theorem State.mt_puts_ne {c j : Nat} (other : 512 * c + j ≠ 512 * s.cur + i) : (s.puts i n v).mt c j = s.mt c j := by
  rw [State.mt, State.mts_puts, look_put_ne _ _ _ other]
  rfl

theorem State.ctxs_puts : (s.puts i n v).ctxs = put s.ctxs s.cur { s.me with pc := s.me.pc + 4 } := by
  rw [State.puts, State.next, State.putMt, State.writeSpill_frame]
  rfl

theorem State.me_puts : (s.puts i n v).me = { s.me with pc := s.me.pc + 4 } := by
  have cur : (s.puts i n v).cur = s.cur := by rw [State.puts_frame]
  rw [State.me, State.ctx, cur, State.ctxs_puts, look_put_self]

theorem State.ctx_puts_ne {d : Nat} (other : d ≠ s.cur) : (s.puts i n v).ctx d = s.ctx d := by
  rw [State.ctx, State.ctxs_puts, look_put_ne _ _ _ other]
  rfl

theorem State.storage_puts_of_resident (resident : (s.mt s.cur i).spillRec = none) :
    (s.puts i n v).mem = s.mem ∧ (s.puts i n v).synd = s.synd := by
  have still : ((s.setMt s.cur i (s.me.putItem (s.mt s.cur i) n v)).mt s.cur i).spillRec = none := by
    rw [State.mt_setMt_self, Ctx.spillRec_putItem, resident]
  rw [State.puts, State.putMt, State.writeSpill_of_resident still]
  exact ⟨rfl, rfl⟩

theorem State.readByte_puts_ne {l r a : Nat} (spilled : (s.mt s.cur i).spillRec = some (l, r))
    (out : a < spillKey (clusterOfCtx s.cur) l r ∨ spillKey (clusterOfCtx s.cur) l r + 256 ≤ a) :
    readByte (s.puts i n v).mem a = readByte s.mem a := by
  have still : ((s.setMt s.cur i (s.me.putItem (s.mt s.cur i) n v)).mt s.cur i).spillRec = some (l, r) := by
    rw [State.mt_setMt_self, Ctx.spillRec_putItem, spilled]
  exact State.readByte_writeSpill_ne still out

end Puts

theorem exec_vget (rd ra : RegNo) (item : BitVec 8) (s : State) :
    exec (.vget rd ra item) s = s.single (.vget rd ra item) ra (fun _ m => s.done rd (s.me.item m item.toNat)) := rfl

/-- `vput` above App, or of an item other than the status (R258). -/
theorem exec_vput_of_open {s : State} {item : BitVec 8} (allowed : item ≠ 129 ∨ s.me.level ≠ .app) (ra rb : RegNo) :
    exec (.vput ra rb item) s = s.single (.vput ra rb item) ra (fun i _ => .next (s.puts i item.toNat (s.rx rb))) :=
  if_neg fun closed => allowed.elim (· closed.1) (· closed.2)

/-- Settles O41: by the checks of `single`, and by the item. -/
theorem microThreadItems : Obligations.MicroThreadItems := by
  intro s rd ra rb item w i m n v ready
  have vget := exec_vget rd ra item s
  have vput (allowed : item ≠ 129 ∨ s.me.level ≠ .app) := exec_vput_of_open allowed ra rb
  refine ⟨fun past word => raises_word word (vget.trans (single_of_past past)),
    fun past other word => raises_word word ((vput (.inl other)).trans (single_of_past past)),
    fun inside revoked => ⟨parks_park (vget.trans (single_of_revoked inside revoked)),
      fun other => parks_park ((vput (.inl other)).trans (single_of_revoked inside revoked))⟩,
    fun inside held busy => ⟨vget.trans (single_of_busy inside held busy),
      fun other => (vput (.inl other)).trans (single_of_busy inside held busy)⟩, ?_, ?_⟩
  · rintro ⟨inside, held, quiet⟩
    have gives {r : Word} (value : s.me.item m n = r) : Gives (.vget rd ra item) s rd r :=
      value ▸ gives_done (vget.trans (single_of_quiet inside held quiet))
    refine ⟨fun ⟨_, high⟩ => gives (s.me.item_of_register m high), fun ⟨low, high⟩ => gives (s.me.item_of_pred m low high),
      fun flags => gives (flags ▸ s.me.item_flags m), fun status => gives (status ▸ s.me.item_status m), fun u runs allowed => ?_⟩
    obtain rfl : s.puts i n v = u :=
      Host.Outcome.next.inj (((vput allowed).trans (single_of_quiet inside held quiet)).symm.trans runs)
    have item_ : (s.puts i n v).mt s.cur i = s.me.putItem m n v := s.mt_puts_self i n v
    refine ⟨s.puts_frame i n v, s.storage_puts_of_resident i n v, fun l r spilled k => s.readByte_puts_ne i n v spilled,
      s.me_puts i n v, fun d => s.ctx_puts_ne i n v, fun c j => s.mt_puts_ne i n v,
      fun ⟨_, high⟩ => item_.trans (s.me.putItem_of_register m v high), fun flags => item_.trans (flags ▸ s.me.putItem_flags m v),
      fun status => item_.trans (status ▸ s.me.putItem_status m v), fun ⟨low, high⟩ => ?_⟩
    rw [item_, s.me.putItem_of_pred m v low high]
    exact ⟨getLsbD_putBit (by omega) m.p (v.getLsbD 0), rfl⟩
  · rintro ⟨inside, held, quiet⟩ allowed
    refine ⟨_, (vput allowed).trans (single_of_quiet inside held quiet), ?_⟩
    rw [State.me_puts]

end Sys2Proof.Machine
end

section
/-!
PROOFS. Class 17: the issue of a vector load or store (R83, R187, R255, R261, R262).
-/

namespace Sys2Proof.Machine

/-! ### The wait for earlier blocks (R255) -/

/-- No micro-thread from `vstart` up has a block still to run. -/
def State.VectorReady (s : State) : Prop := ∀ k, s.me.vstart.toNat ≤ k → k < s.me.vl → s.quiet s.cur k = true

theorem State.vectorReady_iff (s : State) : s.VectorReady ↔
    ((List.range s.me.vl).all (fun k => k < s.me.vstart.toNat || s.quiet s.cur k)) = true := by
  simp only [State.VectorReady, List.all_eq_true, List.mem_range, Bool.or_eq_true, decide_eq_true_eq]
  exact ⟨fun h k inside => (Nat.lt_or_ge k s.me.vstart.toNat).imp_right fun from_ => h k from_ inside,
    fun h k from_ inside => (h k inside).resolve_left (Nat.not_lt.mpr from_)⟩

theorem State.vectorReady_not {s : State} (waits : ¬ s.VectorReady) :
    (!((List.range s.me.vl).all (fun k => k < s.me.vstart.toNat || s.quiet s.cur k))) = true := by
  rw [s.vectorReady_iff, Bool.not_eq_true] at waits
  rw [waits]
  rfl

theorem State.VectorReady.passes {s : State} (ready : s.VectorReady) :
    ¬ (!((List.range s.me.vl).all (fun k => k < s.me.vstart.toNat || s.quiet s.cur k))) = true := by
  rw [s.vectorReady_iff.mp ready]
  decide

/-! ### Trials (R261) -/

section Trials
variable {s : State} {c : Nat} {i : Instr} {ra rb : Word} {ks : List Nat}

theorem firstBad_of_none (good : ∀ k ∈ ks, s.tryElem c i ra rb k = none) : s.firstBad c i ra rb ks = none := by
  induction ks with
  | nil => rfl
  | cons k ks ih =>
    simp only [State.firstBad, good k List.mem_cons_self]
    exact ih fun j hj => good j (List.mem_cons_of_mem _ hj)

theorem firstBad_of_lowest {f : Nat} {e : Exc} {w : State} (sorted : ks.Pairwise (· < ·)) (mem : f ∈ ks)
    (below : ∀ k ∈ ks, k < f → s.tryElem c i ra rb k = none) (bad : s.tryElem c i ra rb f = some (e, w)) :
    s.firstBad c i ra rb ks = some (f, e, w) := by
  induction ks with
  | nil => exact absurd mem List.not_mem_nil
  | cons k ks ih =>
    obtain ⟨first, rest⟩ := List.pairwise_cons.mp sorted
    rcases List.mem_cons.mp mem with rfl | later
    · simp only [State.firstBad, bad]
    · simp only [State.firstBad, below k List.mem_cons_self (first f later)]
      exact ih rest later fun j hj => below j (List.mem_cons_of_mem _ hj)

end Trials

/-- The elements of an instruction rise. -/
theorem pairwise_elements (first n : Nat) : ((List.range (n - first)).map (first + ·)).Pairwise (· < ·) := by
  rw [List.pairwise_map]
  exact List.pairwise_lt_range.imp fun lt => Nat.add_lt_add_left lt first

/-- The state in which the current context holds what an instruction captures at issue (R261). -/
def State.captures (s : State) (i : Instr) (first : Nat) : State :=
  s.setMe { s.me with elemCap := some (s.capElems s.cur i first) }

section Issue
variable {s : State} {i : Instr} {ra rb : Word} {first n : Nat}

theorem State.captures_eq (s : State) (i : Instr) (first : Nat) :
    s.setMe { s.me with elemCap := some (s.capElems s.cur i first) } = s.captures i first := rfl

theorem State.captures_cur (s : State) (i : Instr) (first : Nat) : (s.captures i first).cur = s.cur := rfl

theorem issueElems_of_none
    (trial : (s.captures i first).firstBad s.cur i ra rb ((List.range (n - first)).map (first + ·)) = none) :
    s.issueElems i ra rb first n =
      (s.captures i first).park (.elems i ra rb ((List.range (n - first)).map (first + ·)) [] none) := by
  simp only [State.issueElems, State.captures_eq, State.captures_cur, trial]

theorem issueElems_of_some {f : Nat} {e : Exc} {w : State}
    (trial : (s.captures i first).firstBad s.cur i ra rb ((List.range (n - first)).map (first + ·)) = some (f, e, w)) :
    s.issueElems i ra rb first n =
      State.park { s.captures i first with scriv := w.scriv, scrivNext := w.scrivNext }
        (.elems i ra rb (((List.range (n - first)).map (first + ·)).filter (· < f)) [] (some (f, e))) := by
  simp only [State.issueElems, State.captures_eq, State.captures_cur, trial]

/-- R261, R262: what `issueElems` leaves. -/
theorem issues_of_issueElems (form : exec i s = s.issueElems i ra rb first n) : Issues i s ra rb first n := by
  unfold Issues
  intro u ks parks
  refine ⟨fun good => ?_, fun f e w mem below bad => ?_⟩
  · refine becomes_setMe (form.trans ((issueElems_of_none (firstBad_of_none good)).trans ?_))
    simp only [State.park, State.captures, State.me_setMe, State.setMe_setMe]
    rfl
  · have trial := firstBad_of_lowest (pairwise_elements first n) mem below bad
    refine ⟨_, form.trans (issueElems_of_some trial), rfl, fun d other => ?_, ?_⟩
    · exact (State.ctx_setMe_ne
        ({ s.captures i first with scriv := w.scriv, scrivNext := w.scrivNext } : State) _ other).trans
        (State.ctx_setMe_ne s _ other)
    · have mine : ({ u with scriv := w.scriv, scrivNext := w.scrivNext } : State).me =
          { s.me with elemCap := some (s.capElems s.cur i first) } := State.me_setMe s _
      exact (State.me_setMe ..).trans (congrArg (fun x : Ctx =>
        { x with run := .parked (.elems i ra rb (ks.filter (· < f)) [] (some (f, e))) }) mine)

end Issue

/-- A class 17 instruction's form. -/
theorem exec_vector {s : State} {wd ra rb wi : RegNo} {u : BitVec 1} {w : BitVec 2} {i : Instr} {y : Word}
    (form : i = .vld wd ra u w ∧ y = 0 ∨ i = .vst wd ra w ∧ y = 0 ∨ i = .vlds wd ra rb u w ∧ y = s.rx rb ∨
      i = .vsts wd ra rb w ∧ y = s.rx rb ∨ i = .vldx wd ra wi u w ∧ y = 0 ∨ i = .vstx wd ra wi w ∧ y = 0) :
    exec i s = s.vector i (s.rx ra) y := by
  rcases form with ⟨rfl, rfl⟩ | ⟨rfl, rfl⟩ | ⟨rfl, rfl⟩ | ⟨rfl, rfl⟩ | ⟨rfl, rfl⟩ | ⟨rfl, rfl⟩ <;> rfl

/-- Settles O42: by the checks of `vector` in their order, and by the trials of its elements. -/
theorem vectorAccesses : Obligations.VectorAccesses := by
  intro s wd ra rb wi u w i y which first ready
  have form := exec_vector which
  unfold State.vector at form
  refine ⟨fun revoked => ?_, fun held none_ => ?_, fun held some_ waits => ?_, fun held some_ go => ?_⟩
  · exact parks_park (form.trans (if_pos revoked))
  · refine becomes_setMe (form.trans ((if_neg held).trans ((if_pos none_).trans ?_)))
    simp only [State.next, State.me_setMe, State.setMe_setMe]
  · exact parks_park (form.trans ((if_neg held).trans ((if_neg (Nat.not_le.mpr some_)).trans
      (if_pos (State.vectorReady_not waits)))))
  · exact issues_of_issueElems (form.trans ((if_neg held).trans ((if_neg (Nat.not_le.mpr some_)).trans
      (if_neg (State.VectorReady.passes go)))))

end Sys2Proof.Machine
end

section
/-!
PROOFS. The trap of the retired `vldb` with its emulation record (R198, R391-R393).
-/

namespace Sys2Proof.Machine

/-! ### Doublewords written in order -/

theorem putDws_rest (vs : List Word) (s : State) (k : Nat) :
    putDws s k vs = { s with mem := (putDws s k vs).mem, synd := (putDws s k vs).synd } := by
  induction vs generalizing s k with
  | nil => rfl
  | cons v vs ih => exact ih (putDw s k v) (k + 8)

theorem readByte_putDws_ne {vs : List Word} {s : State} {k a : Nat} (out : a < k ∨ k + 8 * vs.length ≤ a) :
    readByte (putDws s k vs).mem a = readByte s.mem a := by
  induction vs generalizing s k with
  | nil => rfl
  | cons v vs ih =>
    rw [List.length_cons] at out
    exact (ih (by omega)).trans (readByte_writeBytes_ne _ _ _ _ (by rw [length_toLe]; omega))

/-- The doubleword of each place. -/
theorem readDw_putDws {vs : List Word} {s : State} {k j : Nat} {v : Word} (wf : Memory.wf s.mem = true)
    (at_ : vs[j]? = some v) : readDw (putDws s k vs).mem (k + 8 * j) = v := by
  induction vs generalizing s k j with
  | nil => exact nomatch at_
  | cons v' vs ih =>
    cases j with
    | zero =>
      obtain rfl : v' = v := Option.some.inj at_
      have first : readDw (putDw s k v').mem k = v' := readDw_writeBytes wf k v'
      have later : ∀ b, k ≤ b → b < k + 8 →
          readByte (putDws (putDw s k v') (k + 8) vs).mem b = readByte (putDw s k v').mem b :=
        fun b _ inside => readByte_putDws_ne (.inl inside)
      exact (readDw_congr later).trans first
    | succ j =>
      rw [show k + 8 * (j + 1) = k + 8 + 8 * j by omega]
      exact ih (wf_putDw k v' wf) at_

/-! ### The emulation record (R393) -/

/-- Entries of four doublewords each. -/
theorem length_flatten_entries {l : List (List Word)} (each : ∀ e ∈ l, e.length = 4) : l.flatten.length = 4 * l.length := by
  rw [List.length_flatten, List.map_congr_left each, List.map_const', List.sum_replicate, smul_eq_mul, Nat.mul_comm]

/-- The record of `vldb`: an entry for each element. -/
def vldbRecord (s : State) (ra : RegNo) (word : IWord) : List Word :=
  emuRecord word 2 s.me.pc (s.me.vl - s.me.vstart.toNat) (s.me.crm.setWidth 64) 0 (s.rx ra)
    (BitVec.ofNat 64 (packBits [(s.me.vstart.toNat, 32), (s.me.vl, 0)]))
    ((List.range (s.me.vl - s.me.vstart.toNat)).map (fun k => emuEntry 0 0 (s.me.vstart.toNat + k) true))

theorem length_vldbRecord (s : State) (ra : RegNo) (word : IWord) :
    (vldbRecord s ra word).length = 32 + 4 * (s.me.vl - s.me.vstart.toNat) := by
  rw [vldbRecord, emuRecord, List.length_append, List.length_append, List.length_replicate, length_flatten_entries,
    List.length_map, List.length_range]
  · rfl
  · intro e mem
    obtain ⟨k, -, rfl⟩ := List.mem_map.mp mem
    rfl

/-! ### The trap to Fw and the queue for the record (R392) -/

/-- A handler's address, without its two low bits. -/
theorem aligned_vec (v : Word) : v >>> 2 <<< 2 = v &&& ~~~3 := by
  rw [BitVec.shiftLeft_ushiftRight]
  rfl

theorem execVldb_of_ready {s : State} {wd ra : RegNo} {w : IWord} (enc : encode (.vldb wd ra) = some w)
    (held : s.me.gstate ≠ .revoked) (ready : s.VectorReady) :
    exec (.vldb wd ra) s = s.tripHere 2 w (vldbRecord s ra w) := by
  have word : (encode (.vldb wd ra)).getD 0 = w := by rw [enc]; rfl
  refine (if_neg held).trans ((if_neg ready.passes).trans ?_)
  simp only [word]
  rfl

theorem tripHere_of_free {s : State} {kind : Nat} {word : IWord} {rec : List Word}
    (free : s.emuFree (s.cur / 4) = true) (first : s.firstTrip s.cur = true) :
    s.tripHere kind word rec =
      .next (((s.leaveTripQ s.cur (· == 0)).setMe { s.me with emuAt := none }).trip s.cur kind word rec) :=
  if_pos (by rw [free, first]; rfl)

/-- A request stands in its core's queue. -/
theorem mem_queueTrip (s : State) (c n : Nat) : (c, n) ∈ look [] (s.queueTrip c n).emuQ (c / 4) := by
  rw [State.queueTrip, look_put_self]
  exact List.mem_append_right _ List.mem_cons_self

theorem tripHere_of_taken {s : State} {kind : Nat} {word : IWord} {rec : List Word}
    (taken : ¬ (s.emuFree (s.cur / 4) = true ∧ s.firstTrip s.cur = true)) :
    ∃ t, s.tripHere kind word rec = .next t ∧ t = { s with ctxs := t.ctxs, emuQ := t.emuQ } ∧
      (∀ d, d ≠ s.cur → t.ctx d = s.ctx d) ∧ t.me = { s.me with emuAt := some s.me.pc } ∧
      (s.me.emuAt = some s.me.pc → t.emuQ = s.emuQ) ∧
      (s.me.emuAt ≠ some s.me.pc → (s.cur, 0) ∈ look [] t.emuQ (s.cur / 4)) := by
  refine ⟨_, if_neg (by rwa [Bool.and_eq_true]), ?_⟩
  by_cases waiting : s.me.emuAt = some s.me.pc
  · rw [if_pos waiting]
    exact ⟨rfl, fun d other => State.ctx_setMe_ne s _ other, State.me_setMe s _, fun _ => rfl,
      fun fresh => absurd waiting fresh⟩
  · rw [if_neg waiting]
    exact ⟨rfl, fun d other => State.ctx_setMe_ne ((s.leaveTripQ s.cur (· == 0)).queueTrip s.cur 0) _ other,
      State.me_setMe ((s.leaveTripQ s.cur (· == 0)).queueTrip s.cur 0) _, fun again => absurd again waiting,
      fun _ => mem_queueTrip (s.leaveTripQ s.cur (· == 0)) s.cur 0⟩

/-- A trip writes its record and traps to Fw. -/
theorem trip_eq (s : State) (kind : Nat) (word : IWord) (rec : List Word) :
    ∃ synd marks, s.trip s.cur kind word rec =
      ({ s with mem := (putDws s (emuKey (s.cur / 4)) rec).mem, synd := synd, marks := marks } : State).setMe
        { s.me.trap s.me.pc { cause := 0x13, val := wordVal (some word) } with emu := some (kind, word) } := by
  have rest := putDws_rest rec s (emuKey (s.cur / 4))
  unfold State.trip
  revert rest
  generalize putDws s (emuKey (s.cur / 4)) rec = p
  intro rest
  generalize p.mem = mem, p.synd = synd at rest
  subst rest
  exact ⟨_, _, rfl⟩

/-- A trap with the cause of a trip goes to Fw, whatever the level. -/
theorem trap_of_trip (x : Ctx) (epc v : Word) :
    x.trap epc { cause := 0x13, val := v } =
      { x with
        run := .active, level := .fw, pc := x.ft.vec >>> 2 <<< 2, call := none, card := none, watching := none
        ft := { x.ft with cause := 0x13, epc := epc, val := v, plev := x.level.code,
                          ldepth := BitVec.ofNat 3 x.loops.length } } := rfl

/-- Settles O43: by the checks of `execVldb` in their order; the words of the record are read where `putDws` put them. -/
theorem retiredVectorLoad : Obligations.RetiredVectorLoad := by
  intro s wd ra w sound enc first ready core mine
  refine ⟨fun waits => ?_, fun held go taken => ?_, fun held go free few => ?_⟩
  · by_cases revoked : s.me.gstate = .revoked
    · exact parks_park (if_pos revoked)
    · exact parks_park ((if_neg revoked).trans (if_pos (State.vectorReady_not (waits.resolve_left revoked))))
  · exact execVldb_of_ready enc held go ▸ tripHere_of_taken taken
  · have form := (execVldb_of_ready enc held go).trans (tripHere_of_free free.1 free.2)
    let q := (s.leaveTripQ s.cur (· == 0)).setMe { s.me with emuAt := none }
    have me : q.me = { s.me with emuAt := none } := State.me_setMe _ _
    have others : ∀ d, d ≠ s.cur → q.ctx d = s.ctx d := fun d other => State.ctx_setMe_ne _ _ other
    have words : ∀ {j : Nat} {v : Word}, (vldbRecord s ra w)[j]? = some v →
        readDw (putDws q (emuKey core) (vldbRecord s ra w)).mem (emuKey core + 8 * j) = v := readDw_putDws sound
    have long : (vldbRecord s ra w).length ≤ 0x5000 / 8 := by rw [length_vldbRecord]; omega
    obtain ⟨synd, marks, trip⟩ := trip_eq q 2 w (vldbRecord s ra w)
    rw [me, trap_of_trip, aligned_vec] at trip
    refine ⟨_, form.trans (congrArg _ trip), rfl, fun d other => (State.ctx_setMe_ne
      ({ q with mem := (putDws q (emuKey core) (vldbRecord s ra w)).mem, synd := synd, marks := marks } : State)
      _ other).trans (others d other), ?_⟩
    rw [State.me_setMe]
    refine ⟨rfl, rfl, rfl, rfl, rfl, rfl, rfl, rfl, words (j := 0) rfl, words (j := 1) rfl, words (j := 2) rfl,
      words (j := 5) rfl, fun a out =>
        readByte_putDws_ne (s := q) (out.imp_right fun past => (Nat.add_le_add_left (by omega) _).trans past)⟩

end Sys2Proof.Machine
end

section
/-!
PROOFS. What storage, the hub and the accesses leave on the agenda: every state that they answer with has the agenda of the
state they began in (R119-R176, R309-R311).  The equations are proved `by rfl`, so that simp takes each as a
proof, with which it can discharge the premise of `foldl_agenda`.
-/

namespace Sys2Proof.Machine

/-! ### What an answer leaves on the agenda -/

/-- The agenda that an outcome leaves; a fault or a refusal leaves none. -/
def agendaAfter : Res' → Option (List Action)
  | .next t => some t.agenda
  | _ => none

@[simp] theorem agendaAfter_next (t : State) : agendaAfter (.next t) = some t.agenda := by rfl

/-- Every state that a translation may answer with has this agenda. -/
@[simp] def Tran.Keeps (l : List Action) : Tran → Prop
  | .ok _ t | .exc _ t | .upcall t | .wait t => t.agenda = l

/-- Every state that an access may answer with has this agenda. -/
@[simp] def Ans.Keeps (l : List Action) : Ans → Prop
  | .value _ t | .exc _ t | .upcall _ t | .waits _ t | .stall t => t.agenda = l

/-- Every state that a word of a block may answer with has this agenda. -/
@[simp] def WRes.Keeps (l : List Action) : WRes → Prop
  | .go _ t | .hold t | .wait t | .fault _ t => t.agenda = l

/-- Every state that the read of an element may answer with has this agenda. -/
@[simp] def ElemRead.Keeps (l : List Action) : ElemRead → Prop
  | .got _ _ t | .sent _ _ t | .exc _ t | .later t => t.agenda = l

/-- Every state that the read of a card may answer with has this agenda. -/
@[simp] def CardRead.Keeps (l : List Action) : CardRead → Prop
  | .card _ t => t.agenda = l
  | .later r | .raises r => agendaAfter r = some l

/-- Every state that a commit may answer with has this agenda. -/
@[simp] def Commit.Keeps (l : List Action) : Commit → Prop
  | .ok _ _ t | .fault _ t => t.agenda = l
  | .wait => True

/-- The state of a turn has this agenda. -/
@[simp] def Turn.Keeps (l : List Action) : Turn → Prop
  | .done t | .run _ t => t.agenda = l

/-- What holds of a failure and what of a success. -/
@[simp] def ExceptAll {ε α : Type} (p : ε → Prop) (q : α → Prop) : Except ε α → Prop
  | .error e => p e
  | .ok a => q a

@[simp] theorem ite_agenda (c : Prop) [Decidable c] (s t : State) :
    (if c then s else t).agenda = if c then s.agenda else t.agenda := apply_ite ..

@[simp] theorem ite_agendaAfter (c : Prop) [Decidable c] (o p : Res') :
    agendaAfter (if c then o else p) = if c then agendaAfter o else agendaAfter p := apply_ite ..

@[simp] theorem foldl_agenda {α : Type} {f : State → α → State} (h : ∀ s a, (f s a).agenda = s.agenda) (l : List α)
    (s : State) : (l.foldl f s).agenda = s.agenda := by
  induction l generalizing s with
  | nil => rfl
  | cons a l ih => rw [List.foldl_cons, ih, h]

/-- Every state of a step that may fail has this agenda. -/
@[simp] def TryKeeps {ε α : Type} (l : List Action) : Except (ε × State) (α × State) → Prop
  | .error p => p.2.agenda = l
  | .ok p => p.2.agenda = l

theorem TryKeeps.of_ok {ε α : Type} {l : List Action} {o : Except (ε × State) (α × State)} {p : α × State}
    (h : TryKeeps l o) (e : o = .ok p) : p.2.agenda = l := by
  subst e
  exact h

theorem TryKeeps.of_error {ε α : Type} {l : List Action} {o : Except (ε × State) (α × State)} {p : ε × State}
    (h : TryKeeps l o) (e : o = .error p) : p.2.agenda = l := by
  subst e
  exact h

theorem Ans.Keeps.of_value {l : List Action} {a : Ans} {v : Word} {t : State} (h : a.Keeps l) (e : a = .value v t) :
    t.agenda = l := by
  subst e
  exact h

theorem Ans.Keeps.of_exc {l : List Action} {a : Ans} {x : Exc} {t : State} (h : a.Keeps l) (e : a = .exc x t) :
    t.agenda = l := by
  subst e
  exact h

theorem Ans.Keeps.of_waits {l : List Action} {a : Ans} {w : Why} {t : State} (h : a.Keeps l) (e : a = .waits w t) :
    t.agenda = l := by
  subst e
  exact h

theorem Ans.Keeps.of_stall {l : List Action} {a : Ans} {t : State} (h : a.Keeps l) (e : a = .stall t) : t.agenda = l := by
  subst e
  exact h

theorem Tran.Keeps.of_ok {l : List Action} {a : Tran} {x : Tr} {t : State} (h : a.Keeps l) (e : a = .ok x t) :
    t.agenda = l := by
  subst e
  exact h

theorem Tran.Keeps.of_exc {l : List Action} {a : Tran} {x : Exc} {t : State} (h : a.Keeps l) (e : a = .exc x t) :
    t.agenda = l := by
  subst e
  exact h

theorem Tran.Keeps.of_upcall {l : List Action} {a : Tran} {t : State} (h : a.Keeps l) (e : a = .upcall t) :
    t.agenda = l := by
  subst e
  exact h

theorem Tran.Keeps.of_wait {l : List Action} {a : Tran} {t : State} (h : a.Keeps l) (e : a = .wait t) : t.agenda = l := by
  subst e
  exact h

/-- The state of an answer that may be none has this agenda. -/
@[simp] def OptKeeps (l : List Action) : Option State → Prop
  | none => True
  | some t => t.agenda = l

/-- The state that a remote request may answer with has this agenda. -/
@[simp] def RemoteKeeps (l : List Action) : RemoteEnd → Prop
  | none => True
  | some p => p.1.agenda = l

/-- A command refused under a condition. -/
theorem optKeeps_guard {l : List Action} (c : Prop) [Decidable c] {o : Option State} (h : OptKeeps l o) :
    OptKeeps l (if c then none else o) := by
  split
  · trivial
  · exact h

/-! ### Storage as producers write it (R309-R311) -/

@[simp] theorem putDw_agenda (s : State) (k : Nat) (v : Word) : (putDw s k v).agenda = s.agenda := by rfl

@[simp] theorem putDws_agenda (vs : List Word) (s : State) (k : Nat) : (putDws s k vs).agenda = s.agenda := by
  induction vs generalizing s k with
  | nil => rfl
  | cons v vs ih => exact ih (putDw s k v) (k + 8)

@[simp] theorem carry_agenda (s : State) (src n dst : Nat) : (carry s src n dst).agenda = s.agenda := by rfl
@[simp] theorem clearRange_agenda (s : State) (k n : Nat) : (clearRange s k n).agenda = s.agenda := by rfl
@[simp] theorem putChip_agenda (s : State) (k : Nat) (v : Word) : (putChip s k v).agenda = s.agenda := by rfl
@[simp] theorem logWrite_agenda (s : State) (part pa : Nat) : (logWrite s part pa).agenda = s.agenda := by rfl
@[simp] theorem State.setClock_agenda (s : State) (die mhz : Nat) : (s.setClock die mhz).agenda = s.agenda := by rfl

@[simp] theorem State.wakeUnit_agenda (s : State) (u : Nat) : (s.wakeUnit u).agenda = s.agenda := by
  unfold State.wakeUnit
  split <;> simp

@[simp] theorem recallLease_agenda (s : State) (sector except : Nat) :
    (recallLease s sector except).agenda = s.agenda := by rfl

@[simp] theorem recallOwner_agenda (s : State) (sector core : Nat) :
    (recallOwner s sector core).agenda = s.agenda := by rfl

@[simp] theorem l1Fill_agenda (s : State) (core sector : Nat) (own : Bool) :
    (l1Fill s core sector own).agenda = s.agenda := by
  simp only [l1Fill]
  split
  · rfl
  · split
    · rfl
    · simp

@[simp] theorem lapse_agenda (s : State) (core : Nat) : (lapse s core).agenda = s.agenda := by rfl
@[simp] theorem noteStore_agenda (s : State) (dw core : Nat) : (noteStore s dw core).agenda = s.agenda := by rfl
@[simp] theorem sawValue_agenda (s : State) (core dw : Nat) : (sawValue s core dw).agenda = s.agenda := by rfl
@[simp] theorem sawOwn_agenda (s : State) (core sector : Nat) : (sawOwn s core sector).agenda = s.agenda := by rfl
@[simp] theorem markScrubs_agenda (s : State) (sector : Nat) : (markScrubs s sector).agenda = s.agenda := by rfl

@[simp] theorem storeMem_agenda (s : State) (part core pa key : Nat) (bs : List Byte) :
    (storeMem s part core pa key bs).agenda = s.agenda := by rfl

@[simp] theorem scrivener_agenda (s : State) (code part unit addr : Nat) (detail : List Nat) :
    (scrivener s code part unit addr detail).agenda = s.agenda := by rfl

@[simp] theorem State.setStack_agenda (s : State) (x : Nat) (st : StackState) :
    (s.setStack x st).agenda = s.agenda := by rfl

@[simp] theorem State.startRetirement_agenda (s : State) (x : Nat) (st : StackState) :
    (s.startRetirement x st).agenda = s.agenda := by rfl

@[simp] theorem State.retireStack_agenda (s : State) (x : Nat) : (s.retireStack x).agenda = s.agenda := by
  simp [State.retireStack]

@[simp] theorem enterPoison_agenda (s : State) (c key unit ch : Nat) :
    (enterPoison s c key unit ch).agenda = s.agenda := by
  simp [enterPoison]

@[simp] theorem poisonSector_agenda (s : State) (source skew pa : Nat) :
    (poisonSector s source skew pa).agenda = s.agenda := by
  simp [poisonSector]

@[simp] theorem renewSector_agenda (s : State) (skew pa : Nat) : (renewSector s skew pa).agenda = s.agenda := by rfl
@[simp] theorem free_agenda (s : State) : (free s).2.agenda = s.agenda := by rfl

/-! ### The end of an instruction, parks and traps -/

@[simp] theorem State.mapMts_agenda (s : State) (c : Nat) (f : Nat → Mt → Mt) :
    (s.mapMts c f).agenda = s.agenda := foldl_agenda (fun _ _ => by simp) _ s

@[simp] theorem State.wx_agenda (s : State) (r : RegNo) (v : Word) : (s.wx r v).agenda = s.agenda := by rfl
@[simp] theorem State.next_agenda (s : State) : s.next.agenda = s.agenda := by rfl
@[simp] theorem agendaAfter_done (s : State) (rd : RegNo) (v : Word) : agendaAfter (s.done rd v) = some s.agenda := by rfl
@[simp] theorem agendaAfter_goto (s : State) (pc : Word) : agendaAfter (s.goto pc) = some s.agenda := by rfl
@[simp] theorem State.orFlags_agenda (s : State) (f : BitVec 7) : (s.orFlags f).agenda = s.agenda := by rfl
@[simp] theorem agendaAfter_park (s : State) (w : Why) : agendaAfter (s.park w) = some s.agenda := by rfl

@[simp] theorem State.noteTrigger_agenda (s : State) (c : Nat) (k : BitVec 8) :
    (s.noteTrigger c k).agenda = s.agenda := by
  simp [State.noteTrigger]

@[simp] theorem State.mismatch_agenda (s : State) (kind part core addr : Nat) :
    (s.mismatch kind part core addr).agenda = s.agenda := by rfl

@[simp] theorem State.trapAt_agenda (s : State) (c : Nat) (epc : Word) (e : Exc) :
    (s.trapAt c epc e).agenda = s.agenda := by
  simp [State.trapAt]

@[simp] theorem agendaAfter_raise (s : State) (k : BitVec 8) (v : Word) :
    agendaAfter (raise s k v) = some s.agenda := by
  simp [raise]

@[simp] theorem State.letGo_agenda (s : State) (c i : Nat) : (s.letGo c i).agenda = s.agenda := by rfl
@[simp] theorem State.sweepSeq_agenda (s : State) (c : Nat) : (s.sweepSeq c).agenda = s.agenda := by rfl

@[simp] theorem State.mtFault_agenda (s : State) (c i : Nat) (m : Mt) (e : Exc) :
    (s.mtFault c i m e).agenda = s.agenda := by
  simp [State.mtFault]

@[simp] theorem State.sampleAbort_agenda (s : State) (c : Nat) : (s.sampleAbort c).agenda = s.agenda := by
  simp [State.sampleAbort]

/-! ### Status registers -/

@[simp] theorem State.tlbInvalidate_agenda (s : State) (core : Nat) (v : Word) :
    (s.tlbInvalidate core v).agenda = s.agenda := by rfl

/-! ### Images and spilled records -/

@[simp] theorem State.writeSpill_agenda (s : State) (c i : Nat) : (s.writeSpill c i).agenda = s.agenda := by
  unfold State.writeSpill
  split <;> simp

@[simp] theorem State.putMt_agenda (s : State) (c i : Nat) (m : Mt) : (s.putMt c i m).agenda = s.agenda := by
  simp [State.putMt]

@[simp] theorem State.syncSpill_agenda (s : State) (c : Nat) : (s.syncSpill c).agenda = s.agenda := by
  refine foldl_agenda (fun t i => ?_) _ s
  dsimp only
  split
  · simp
  · split <;> simp

/-! ### The hub, its boxes and the links -/

@[simp] theorem State.ringBell_agenda (s : State) (m : Nat) : (s.ringBell m).agenda = s.agenda := by
  unfold State.ringBell
  split <;> simp

@[simp] theorem State.hubPut_agenda (s : State) (off : Nat) (d : Datum) : (s.hubPut off d).agenda = s.agenda := by
  simp [State.hubPut]

@[simp] theorem State.hubWrite_agenda (s : State) (part : Nat) (fw : Bool) (off : Nat) (d : Datum) :
    (s.hubWrite part fw off d).agenda = s.agenda := by
  simp [State.hubWrite]

@[simp] theorem State.physWrite_agenda (vs : List Word) (s : State) (pa : Nat) :
    (s.physWrite pa vs).agenda = s.agenda := by
  induction vs generalizing s pa with
  | nil => rfl
  | cons v vs ih => simp [State.physWrite, ih]

@[simp] theorem State.physWriteFor_agenda (s : State) (part pa : Nat) (vs : List Word) :
    (s.physWriteFor part pa vs).agenda = s.agenda := by
  simp [State.physWriteFor]

@[simp] theorem State.answer_agenda (s : State) (m : Nat) (v : Word) : (s.answer m v).agenda = s.agenda := by
  unfold State.answer
  split <;> simp

@[simp] theorem State.setDir_agenda (s : State) (port d : Nat) (l : LinkDir) :
    (s.setDir port d l).agenda = s.agenda := by rfl

@[simp] theorem State.pump_agenda (s : State) (port : Nat) : (s.pump port).agenda = s.agenda := by
  simp [State.pump]

@[simp] theorem State.sendData_agenda (s : State) (port : Nat) (header data : List Datum) :
    (s.sendData port header data).agenda = s.agenda := by
  simp [State.sendData]

theorem keeps_takeDatum {l : List Action} {s : State} (h : s.agenda = l) (kind part core pa n : Nat) (d : Datum) :
    TryKeeps l (s.takeDatum kind part core pa n d) := by
  unfold State.takeDatum
  split
  · exact h
  · split <;> simp [h]

@[simp] theorem State.sendVia_agenda (s : State) (port : Nat) (words : List Word) (route : Word) (data : List Datum) :
    (s.sendVia port words route data).agenda = s.agenda := by
  simp [State.sendVia]

@[simp] theorem State.sendTo_agenda (s : State) (slot : Nat) (words : List Word) (data : List Datum) :
    (s.sendTo slot words data).agenda = s.agenda := by
  simp [State.sendTo]

@[simp] theorem State.sendReq_agenda (s : State) (slot tag : Nat) (words : List Word) (data : List Datum) :
    (s.sendReq slot tag words data).agenda = s.agenda := by
  simp [State.sendReq]

theorem takeReply_agenda {s : State} {tag : Nat} {f : RemoteReq → Bool} {p : RemoteReq × State}
    (h : s.takeReply tag f = some p) : p.2.agenda = s.agenda := by
  obtain ⟨q, -, rfl⟩ := Option.map_eq_some_iff.mp h
  rfl

@[simp] theorem State.dropReplies_agenda (s : State) (f : Nat → Bool) : (s.dropReplies f).agenda = s.agenda := by rfl
@[simp] theorem State.dropAsked_agenda (s : State) (c : Nat) : (s.dropAsked c).agenda = s.agenda := by rfl

/-! ### Translation, the caches and the accesses (R119-R176) -/

@[simp] theorem State.charge_agenda (s : State) (c n : Nat) : (s.charge c n).agenda = s.agenda := by
  simp [State.charge]

@[simp] theorem State.evictSector_agenda (s : State) (c : Nat) (e : L2Ent) : (s.evictSector c e).agenda = s.agenda := by
  simp [State.evictSector]

@[simp] theorem State.touch_agenda (s : State) (c home sector : Nat) (dirty : Bool) :
    (s.touch c home sector dirty).agenda = s.agenda := by
  simp only [State.touch]
  split
  · simp
  · split
    · simp
    · split <;> simp

@[simp] theorem badCheck_agenda {s : State} {w : Who} {key pa : Nat} {va : Word} {p : Exc × State}
    (h : s.badCheck w key pa va = some p) : p.2.agenda = s.agenda := by
  unfold State.badCheck at h
  split at h
  · simp [← Option.some.inj h]
  · exact nomatch h

@[simp] theorem State.served_agenda (s : State) (w : Who) (t : Tr) (sector : Nat) (op : MemOp)
    (wrote : optParam Bool true) :
    (s.served w t sector op wrote).agenda = s.agenda := by
  simp only [State.served]
  split
  · split
    · simp
    · split
      · split <;> simp
      · split
        · simp
        · rfl
        · simp
  · split
    · split <;> simp
    · split
      · simp
      · rfl
      · simp

@[simp] theorem State.noteAtomic_agenda (s : State) (c : Nat) : (s.noteAtomic c).agenda = s.agenda := by
  simp [State.noteAtomic]

theorem keeps_memAccess {l : List Action} {s : State} (h : s.agenda = l) (w : Who) (t : Tr) (va : Word) (op : MemOp) :
    (s.memAccess w t va op).Keeps l := by
  unfold State.memAccess
  extract_lets key sector
  split
  · exact h
  · split
    · exact h
    · split
      · split
        next bad => exact (badCheck_agenda bad).trans h
        next => simp [h]
      · split
        · exact h
        · split
          next bad =>
            split at bad
            · exact (badCheck_agenda bad).trans h
            · exact nomatch bad
          next => simp [h]
      · split
        · exact h
        · split
          · exact h
          · split
            next bad => exact (badCheck_agenda bad).trans h
            next =>
              extract_lets old u
              split <;> simp [u, h]

@[simp] theorem State.setAD_agenda (w : Who) (d : Bool) (l : List Nat) (s : State) :
    (s.setAD w d l).agenda = s.agenda := by
  induction l generalizing s with
  | nil => rfl
  | cons pa l ih => rw [State.setAD, ih]; split <;> simp

@[simp] theorem State.enterTlb_agenda (s : State) (n : TlbEnt) : (s.enterTlb n).agenda = s.agenda := by
  simp [State.enterTlb]

@[simp] theorem keeps_noPage {l : List Action} {s : State} (h : s.agenda = l) (w : Who) (va : Word) (n : Need)
    (invalid : Bool) : (s.noPage w va n invalid).Keeps l := by
  unfold State.noPage
  split <;> exact h

theorem keeps_scalarTr {l : List Action} {s : State} (h : s.agenda = l) (w : Who) (va : Word) (n : Need) :
    (s.scalarTr w va n).Keeps l := by
  unfold State.scalarTr
  extract_lets hit
  clear_value hit
  split
  · exact h
  · rename_i t _ _ _
    have ht : t.agenda = l := by
      simp only [t]
      split
      · simp [h]
      · exact h
    clear_value t
    split
    extract_lets u
    split
    · exact ht
    · have hu : u.agenda = l := by simp [u, ht]
      clear_value u
      split
      · exact keeps_noPage hu ..
      · exact keeps_noPage hu ..
      · simp [hu]
      · split
        · exact keeps_noPage hu ..
        · split
          · simp [hu]
          · extract_lets d pas
            split
            · simp [hu]
            · split
              · exact hu
              · simp +zetaDelta [hu]

theorem keeps_translate {l : List Action} {s : State} (h : s.agenda = l) (w : Who) (va : Word) (n : Need) :
    (s.translate w va n).Keeps l := by
  unfold State.translate
  split
  · split
    · simp [h]
    · exact h
  · exact keeps_scalarTr h w va n

@[simp] theorem State.saveWrite_agenda (s : State) (c : Nat) (va v : Word) (log : optParam Bool true) :
    (s.saveWrite c va v log).agenda = s.agenda := by
  unfold State.saveWrite
  split <;> simp

@[simp] theorem State.winWake_agenda (s : State) (w : Win) : (s.winWake w).agenda = s.agenda := by
  unfold State.winWake
  split <;> simp

@[simp] theorem State.winWrite_agenda (s : State) (l : Level) (w : Win) (v : Word) :
    (s.winWrite l w v).agenda = s.agenda := by
  simp only [State.winWrite]
  split
  · rfl
  · rfl
  · simp
  · split <;> rfl

@[simp] theorem State.reportPost_agenda (s : State) (p : Posted) (e : Exc) : (s.reportPost p e).agenda = s.agenda := by
  simp [State.reportPost]

theorem keeps_winPut {l : List Action} {s : State} (h : s.agenda = l) (part core : Nat) (lv : Level) (w : Win) (v : Word) :
    ExceptAll (fun p => p.2.agenda = l) (fun t => t.agenda = l) (s.winPut part core lv w v) := by
  unfold State.winPut
  split <;> simp [h]

@[simp] theorem State.readBack_agenda (s : State) (p : Posted) (v : Word) (e : Option Exc) :
    (s.readBack p v e).agenda = s.agenda := by
  simp only [State.readBack]
  split
  · split
    · simp
    · rfl
  · split <;> rfl

@[simp] theorem State.applyWaiting_agenda (s : State) (p : Posted) : (s.applyWaiting p).agenda = s.agenda := by
  unfold State.applyWaiting
  split
  · split <;> simp
  · have put := keeps_winPut (s := s) rfl (s.partOf (p.from_ / 4)) (p.from_ / 4) p.level p.win p.data
    split <;> simp_all

@[simp] theorem State.failWaiting_agenda (s : State) (p : Posted) : (s.failWaiting p).agenda = s.agenda := by
  simp [State.failWaiting]

@[simp] theorem State.drainWaiting_agenda (l : List Posted) (s : State) (back : List Nat) :
    (s.drainWaiting l back).agenda = s.agenda := by
  induction l generalizing s back with
  | nil => rfl
  | cons p l ih =>
    rw [State.drainWaiting]
    split
    · rw [ih]
    · split <;> simp [ih]

@[simp] theorem State.drainBuf_agenda (s : State) : s.drainBuf.agenda = s.agenda := by
  simp [State.drainBuf]

@[simp] theorem State.useBank_agenda (s : State) (c : Nat) (w : Win) : (s.useBank c w).agenda = s.agenda := by
  unfold State.useBank
  split <;> simp

@[simp] theorem badChip_agenda {s : State} {w : Who} {key pa : Nat} {va : Word} {p : Exc × State}
    (h : s.badChip w key pa va = some p) : p.2.agenda = s.agenda := by
  unfold State.badChip at h
  split at h
  · simp [← Option.some.inj h]
  · exact badCheck_agenda h

theorem keeps_winLoad {l : List Action} {s : State} (h : s.agenda = l) (w : Who) (win : Win) (pa : Nat) (va : Word) :
    (s.winLoad w win pa va).Keeps l := by
  unfold State.winLoad
  split
  · split
    next bad => exact (badChip_agenda bad).trans h
    next => simp [h]
  · split <;> simp [h]

theorem keeps_winAccess {l : List Action} {s : State} (h : s.agenda = l) (w : Who) (win : Win) (pa : Nat) (va : Word)
    (op : MemOp) : (s.winAccess w win pa va op).Keeps l := by
  unfold State.winAccess
  split
  · exact h
  · split
    · simp [h]
    · split
      · split
        · split
          · exact keeps_winLoad h ..
          · exact h
        · split
          · exact keeps_winLoad h ..
          · exact h
        · exact h
      next v =>
        extract_lets p
        split
        · simp [h]
        · split
          · have put := keeps_winPut (s := s.useBank w.c win) (l := l) (by simp [h]) w.part (w.core % 512) w.level win
            split
            next e => have := put v; simpa [e] using this
            next e => have := put v; simpa [e] using this
          · split <;> exact h
          · exact h
      · exact h

theorem keeps_domainAccess {l : List Action} {s : State} (h : s.agenda = l) (w : Who) (slot pa : Nat) (va : Word)
    (op : MemOp) (keeps : Bool) :
    (s.domainAccess w slot pa va op keeps).Keeps l := by
  simp only [State.domainAccess]
  split
  · simp_all
  · split
    · simp_all
    · simp_all
    · split
      · simp_all
      · split <;> simp_all

theorem keeps_place {l : List Action} {s : State} (h : s.agenda = l) (w : Who) (t : Tr) (va : Word) (op : MemOp)
    (keeps : Bool) : (s.place w t va op keeps).Keeps l := by
  unfold State.place
  split
  · split
    · exact keeps_winAccess h ..
    · exact h
  · split
    · exact h
    · split
      · split
        · exact h
        · split
          · exact h
          · split
            · exact h
            · split <;> simp [h]
          · simp [h]
          · exact h
      · split
        · split
          · exact keeps_memAccess h ..
          · exact h
        · exact keeps_domainAccess h ..
      · exact h
      · exact keeps_memAccess h ..

theorem keeps_access {l : List Action} {s : State} (h : s.agenda = l) (va : Word) (op : MemOp) (keeps : Bool) :
    (s.access va op keeps).Keeps l := by
  unfold State.access
  split
  · exact h
  · split
    · exact h
    · have tr := keeps_translate h (s.who s.cur) va op.need
      split
      next e => rw [e] at tr; exact tr
      next e => rw [e] at tr; exact tr
      next e => rw [e] at tr; exact tr
      next e => rw [e] at tr; exact keeps_place tr ..

@[simp] theorem State.deliver_agenda (s : State) (va : Word) : (s.deliver va).agenda = s.agenda := by
  simp only [State.deliver]
  split <;> simp

theorem agendaAfter_other {l : List Action} {s : State} (h : s.agenda = l) {a : Ans} (ha : a.Keeps l) :
    agendaAfter (a.other s) = some l := by
  cases a <;> simp_all [Ans.other]

@[simp] theorem State.takeI_agenda (s : State) (w : Who) (t : Tr) (va : Word) : (s.takeI w t va).agenda = s.agenda := by
  unfold State.takeI
  split <;> simp

@[simp] theorem State.takeF_agenda (s : State) (c : Nat) (w : Who) (t : Tr) (va : Word) :
    (s.takeF c w t va).agenda = s.agenda := by
  unfold State.takeF
  split <;> simp

@[simp] theorem State.takeB_agenda (s : State) (cl : Nat) (w : Who) (t : Tr) (va : Word) :
    (s.takeB cl w t va).agenda = s.agenda := by
  unfold State.takeB
  split <;> simp

@[simp] theorem fetch_agenda (s : State) (c : Nat) (pc : Word) : (s.fetch c pc).2.agenda = s.agenda := by
  have tr := fun w => keeps_translate (s := s) rfl w pc .x
  simp only [State.fetch]
  split
  · rfl
  · split
    · rfl
    · split
      next e => exact (tr _).of_exc e
      next e => exact (tr _).of_upcall e
      next e => exact (tr _).of_wait e
      next t u e =>
        have hu : u.agenda = s.agenda := (tr _).of_ok e
        split
        · exact hu
        · split
          · exact hu
          · have acc := fun w => keeps_memAccess hu w { t with pa := t.pa / 4 * 4 } pc (.load 4)
            split
            next e => simpa using (acc _).of_value e
            next e => exact (acc _).of_exc e
            next e => exact (acc _).of_stall e
            next => exact hu

end Sys2Proof.Machine
end

section
/-!
PROOFS. What the operations that instructions share leave on the agenda: words of a block, trips, loads, branches, grants,
broadcasts, class 17 and the engines.
-/

namespace Sys2Proof.Machine

/-! ### Words of a block under their guard (R230) -/

@[simp] theorem State.setBlk_agenda (s : State) (b : Blk) : (s.setBlk b).agenda = s.agenda := by rfl

@[simp] theorem State.noteHold_agenda (s : State) : s.noteHold.agenda = s.agenda := by
  unfold State.noteHold
  split <;> simp

@[simp] theorem State.noteStall_agenda (s : State) : s.noteStall.agenda = s.agenda := by
  unfold State.noteStall
  split <;> simp

theorem agendaAfter_word {s : State} {b : Blk} (blk : s.myMt.blk = some b) (h : WHdr) {f : Blk → WRes}
    (keeps : (f b).Keeps s.agenda) : agendaAfter (s.word h f) = some s.agenda := by
  unfold State.word
  rw [blk]
  dsimp only
  split
  · rfl
  · split
    · split <;> simp_all
    · simp

/-- A word that always goes on. -/
theorem agendaAfter_word_go {s : State} {b : Blk} (blk : s.myMt.blk = some b) (h : WHdr) (g : Blk → Blk) :
    agendaAfter (s.word h fun b => .go (g b) s) = some s.agenda := agendaAfter_word blk h rfl

theorem agendaAfter_wordF2 {s : State} {b : Blk} (blk : s.myMt.blk = some b) (h : WHdr) (wd wa wb : RegNo)
    (f : Blk → Word → Word → Word × BitVec 7) : agendaAfter (s.wordF2 h wd wa wb f) = some s.agenda := by
  refine agendaAfter_word blk h ?_
  split
  · rfl
  · split <;> rfl

theorem agendaAfter_wordF1 {s : State} {b : Blk} (blk : s.myMt.blk = some b) (h : WHdr) (wd wa : RegNo)
    (f : Blk → Word → Word × BitVec 7) : agendaAfter (s.wordF1 h wd wa f) = some s.agenda := by
  refine agendaAfter_word blk h ?_
  split <;> rfl

theorem agendaAfter_wordCmp {s : State} {b : Blk} (blk : s.myMt.blk = some b) (h : WHdr) (bank : BitVec 2)
    (pd wa wb : RegNo) (f : Word → Word → Bool × BitVec 7) :
    agendaAfter (s.wordCmp h bank pd wa wb f) = some s.agenda := by
  refine agendaAfter_word blk h ?_
  split
  · rfl
  · split <;> rfl

theorem agendaAfter_wordPred {s : State} {b : Blk} (blk : s.myMt.blk = some b) (h : WHdr) (bank : BitVec 2) (pd : RegNo)
    (f : Blk → Bool) : agendaAfter (s.wordPred h bank pd f) = some s.agenda := agendaAfter_word_go blk h _

@[simp] theorem State.queueTrip_agenda (s : State) (c n : Nat) : (s.queueTrip c n).agenda = s.agenda := by rfl

theorem agendaAfter_askTrip {s : State} {b : Blk} (blk : s.myMt.blk = some b) (h : WHdr) (rs : List RegNo) :
    agendaAfter (s.askTrip h rs) = some s.agenda := by
  unfold State.askTrip
  rw [blk]
  dsimp only
  split
  · rfl
  · split <;> simp

theorem agendaAfter_unitWord {s : State} {b : Blk} (blk : s.myMt.blk = some b) (bit : Nat) (h : WHdr) (rs : List RegNo)
    {o : Res'} (native : agendaAfter o = some s.agenda) : agendaAfter (s.unitWord bit h rs o) = some s.agenda := by
  simp [State.unitWord, agendaAfter_askTrip blk, native]

@[simp] theorem putBits_agenda (s : State) (key bit w v : Nat) : (putBits s key bit w v).agenda = s.agenda := by rfl

/-! ### Emulation records and trips (R391-R395) -/

@[simp] theorem State.trip_agenda (s : State) (c kind : Nat) (word : IWord) (rec : List Word) :
    (s.trip c kind word rec).agenda = s.agenda := by
  simp [State.trip]

@[simp] theorem State.leaveTripQ_agenda (s : State) (c : Nat) (f : Nat → Bool) :
    (s.leaveTripQ c f).agenda = s.agenda := by rfl

@[simp] theorem agendaAfter_tripHere (s : State) (kind : Nat) (word : IWord) (rec : List Word) :
    agendaAfter (s.tripHere kind word rec) = some s.agenda := by
  simp [State.tripHere]

@[simp] theorem agendaAfter_emulate (s : State) (i : Instr) (a b : Word) :
    agendaAfter (s.emulate i a b) = some s.agenda := by
  simp [State.emulate]

@[simp] theorem agendaAfter_unitC (s : State) (b : Nat) (i : Instr) (x y : Word) {o : Res'}
    (h : agendaAfter o = some s.agenda) : agendaAfter (s.unitC b i x y o) = some s.agenda := by
  simp [State.unitC, h]

@[simp] theorem vldbRead_agenda (s : State) (c : Nat) (va : Word) : (s.vldbRead c va).2.agenda = s.agenda := by
  have acc := fun w t => keeps_place (s := s) rfl w t va (.load 8) true
  simp only [State.vldbRead]
  split
  · rfl
  · split
    · rfl
    · split
      · rfl
      · split
        · rfl
        · split
          next e => exact (acc _ _).of_value e
          next e => exact (acc _ _).of_exc e
          next e => simpa using (acc _ _).of_waits e
          next e => exact (acc _ _).of_stall e
          next => rfl

@[simp] theorem State.vldbResult_agenda (s : State) (c : Nat) (r : Except Exc Word) :
    (s.vldbResult c r).agenda = s.agenda := by
  unfold State.vldbResult
  split <;> simp

@[simp] theorem State.serve_agenda (s : State) (core : Nat) : (s.serve core).agenda = s.agenda := by
  simp only [State.serve]
  split
  · rfl
  · split
    · split
      · simp
      · rfl
    · split
      · exact foldl_agenda (fun _ _ => by simp) _ s
      · rfl
    next c _ _ _ _ =>
      have read := vldbRead_agenda s c (s.emuWord core 0x28)
      split
      · rfl
      · split
        next e => rw [e] at read; simpa using read
        next e => rw [e] at read; simpa using read
        next e => rw [e] at read; exact read

@[simp] theorem State.applyEntry_agenda (s : State) (c : Nat) (rd : RegNo) (word core k : Nat) :
    (s.applyEntry c rd word core k).agenda = s.agenda := by
  simp only [State.applyEntry]
  split
  · rfl
  · simp

@[simp] theorem State.endTrip_agenda (s : State) (c kind : Nat) (w : IWord) : (s.endTrip c kind w).agenda = s.agenda := by
  simp only [State.endTrip]
  split
  · split
    · refine (foldl_agenda (fun t k => ?_) _ _).trans (by simp)
      split
      · rfl
      · split <;> simp
    · simp
  · split
    · simp
    · split
      · exact (foldl_agenda (fun _ _ => by simp) _ _).trans (by simp)
      · rw [State.setCtx_agenda]
        exact (foldl_agenda (fun _ _ => by simp) _ _).trans (by simp)

/-! ### Loads and stores -/

@[simp] theorem agendaAfter_load (s : State) (n : Nat) (signed : Bool) (rd : RegNo) (va : Word) :
    agendaAfter (s.load n signed rd va) = some s.agenda := by
  have acc := keeps_access (s := s) rfl va (.load n) true
  unfold State.load
  split
  next e => rw [e] at acc; simpa using acc
  next e => rw [e] at acc; simpa using acc
  next => exact agendaAfter_other rfl acc

@[simp] theorem agendaAfter_store (s : State) (n : Nat) (va v : Word) :
    agendaAfter (s.store n va v) = some s.agenda := by
  have acc := keeps_access (s := s) rfl va (.store n v) true
  unfold State.store
  split
  next e => rw [e] at acc; simpa using acc
  next => exact agendaAfter_other rfl acc

/-! ### Atomics -/

@[simp] theorem agendaAfter_atomic (s : State) (op : Nat) (d : BitVec 1) (rd ra rb : RegNo) :
    agendaAfter (s.atomic op d rd ra rb) = some s.agenda := by
  have acc := keeps_access (s := s) rfl (s.rx ra) (.amo (if d = 1 then 8 else 4) op (s.rx rb) (s.rx rd)) (rd != 0)
  unfold State.atomic
  extract_lets n
  split
  next e => rw [e] at acc; simpa using acc
  next e => rw [e] at acc; simpa using acc
  next => exact agendaAfter_other rfl acc

/-! ### Branches and calls -/

@[simp] theorem agendaAfter_callTo (s : State) (rd : RegNo) (sig e : Word) :
    agendaAfter (s.callTo rd sig e) = some s.agenda := by
  simp [State.callTo]

@[simp] theorem agendaAfter_callWait (s : State) (rd : RegNo) (i sig : Word) (entry : Bool) (w : Why) :
    agendaAfter (s.callWait rd i sig entry w) = some s.agenda := by rfl

@[simp] theorem agendaAfter_callEntry (s : State) (rd : RegNo) (i sig count : Word) :
    agendaAfter (s.callEntry rd i sig count) = some s.agenda := by
  have acc := keeps_access (s := s) rfl (s.me.fnbase + 8 + (i <<< 3)) (.load 8) true
  unfold State.callEntry
  split
  · simp
  · split
    next e => rw [e] at acc; simpa using acc
    next e => rw [e] at acc; simpa using acc
    next => exact agendaAfter_other rfl acc

@[simp] theorem agendaAfter_loaded (s : State) (v : Word) : agendaAfter (s.loaded v) = some s.agenda := by
  simp only [State.loaded]
  split
  · rfl
  · rfl
  · simp
  · simp

/-! ### Status register accesses -/

@[simp] theorem agendaAfter_csrGuard (s : State) (i : Instr) (idx : BitVec 12) {o : Res'}
    (h : agendaAfter o = some s.agenda) : agendaAfter (s.csrGuard i idx o) = some s.agenda := by
  unfold State.csrGuard
  split
  · simp
  · exact h

@[simp] theorem State.csrPut_agenda (s : State) (idx : Nat) (v : Word) : (s.csrPut idx v).agenda = s.agenda := by
  simp [State.csrPut]

/-! ### Class 3 -/

@[simp] theorem agendaAfter_class3 (s : State) (i : Instr) (k : Nat) (rd ra rb : RegNo) :
    agendaAfter (s.class3 i k rd ra rb) = some s.agenda := by
  simp [State.class3]

/-! ### Blocks -/

@[simp] theorem State.blockFill_agenda (s : State) (c : Nat) (va : Word) (n held : Nat) :
    (s.blockFill c va n held).agenda = s.agenda := by
  refine foldl_agenda (fun t k => ?_) _ s
  split <;> simp

/-! ### Grants of lanes -/

@[simp] theorem State.placeMts_agenda (s : State) (c : Nat) : (s.placeMts c).agenda = s.agenda := by
  simp [State.placeMts]

@[simp] theorem State.respread_agenda (s : State) (c : Nat) : (s.respread c).agenda = s.agenda := by
  simp [State.respread]

@[simp] theorem State.returnLanes_agenda (s : State) (c : Nat) : (s.returnLanes c).agenda = s.agenda := by rfl
@[simp] theorem State.discard_agenda (s : State) (c n : Nat) : (s.discard c n).agenda = s.agenda := by rfl

@[simp] theorem State.setVl_agenda (s : State) (c n : Nat) : (s.setVl c n).agenda = s.agenda := by
  simp only [State.setVl, State.placeMts_agenda]
  exact (foldl_agenda (fun _ _ => by simp) _ _).trans (by simp)

@[simp] theorem State.saveRecords_agenda (s : State) (c : Nat) : (s.saveRecords c).agenda = s.agenda := by
  simp [State.saveRecords]

@[simp] theorem State.restoreRecords_agenda (s : State) (c : Nat) : (s.restoreRecords c).agenda = s.agenda := by
  simp only [State.restoreRecords, State.placeMts_agenda, State.setCtx_agenda]
  exact foldl_agenda (fun _ _ => by simp) _ _

@[simp] theorem State.dropGrant_agenda (s : State) (c : Nat) : (s.dropGrant c).agenda = s.agenda := by rfl

@[simp] theorem State.settle_agenda (s : State) (c : Nat) : (s.settle c).agenda = s.agenda := by
  simp [State.settle]

/-! ### Broadcasts and items -/

@[simp] theorem agendaAfter_broadcast (s : State) (va : Word) (count : Nat) :
    agendaAfter (s.broadcast va count) = some s.agenda := by
  unfold State.broadcast
  split <;> simp

theorem agendaAfter_single (s : State) (j : Instr) (ra : RegNo) {f : Nat → Mt → Res'}
    (h : ∀ i m, agendaAfter (f i m) = some s.agenda) : agendaAfter (s.single j ra f) = some s.agenda := by
  simp [State.single, h]

/-! ### Class 17 -/

theorem keeps_portAccess {l : List Action} {s : State} (h : s.agenda = l) (w : Who) (va : Word) (op : MemOp) :
    (s.portAccess w va op).Keeps l := by
  unfold State.portAccess
  split
  · exact h
  · split
    · exact h
    · split
      · exact h
      · split
        · exact h
        · split
          · exact h
          · exact keeps_place h ..

@[simp] theorem State.putW_agenda (s : State) (c i : Nat) (r : RegNo) (v : Word) :
    (s.putW c i r v).agenda = s.agenda := by
  simp [State.putW]

@[simp] theorem State.keepElem_agenda (s : State) (c k : Nat) (a b : Word) :
    (s.keepElem c k a b).agenda = s.agenda := by rfl

@[simp] theorem State.takeLoads_agenda (s : State) (c n : Nat) (i : Instr) : (s.takeLoads c n i).agenda = s.agenda := by
  unfold State.takeLoads
  split <;> simp

theorem keeps_storeElem {l : List Action} {s : State} (h : s.agenda = l) (c k : Nat) (va : Word) (w : Nat) (wd : RegNo) :
    (s.storeElem c k va w wd).Keeps l := keeps_portAccess h ..

theorem keeps_streamPut {l : List Action} {s : State} (h : s.agenda = l) (c k : Nat) (ra rb a b : Word) :
    (s.streamPut c k ra rb a b).Keeps l := by
  unfold State.streamPut
  extract_lets g f6 fd r
  have acc := keeps_portAccess h (s.portWho c) (g.g 0 + BitVec.ofNat 64 k * g.g 1)
    (.store (fmtBits fd / 8) (BitVec.ofNat 64 r.1))
  split
  next e => rw [e] at acc; exact acc
  next => exact acc

theorem keeps_streamSrc {l : List Action} {s : State} (h : s.agenda = l) (c k : Nat) (b : Bool) :
    (s.streamSrc c k b).Keeps l := by
  unfold State.streamSrc
  extract_lets g
  split <;> exact keeps_portAccess h ..

theorem keeps_streamRead {l : List Action} {s : State} (h : s.agenda = l) (c k : Nat) (two : Bool) :
    (s.streamRead c k two).Keeps l := by
  have one := keeps_streamSrc h c k false
  have other : ∀ {t : State}, t.agenda = l → (t.streamSrc c k true).Keeps l := fun ht => keeps_streamSrc ht c k true
  unfold State.streamRead
  split
  next e => rw [e] at one; exact one
  next e =>
    rw [e] at one
    have two := other one
    split <;> simp_all
  next e => rw [e] at one; exact one
  next e =>
    rw [e] at one
    have two := other one
    split <;> simp_all
  next e => rw [e] at one; exact one
  next e => rw [e] at one; exact one
  next => exact h

theorem keeps_drainElem {l : List Action} {s : State} (h : s.agenda = l) (c k : Nat) (ra : Word) :
    (s.drainElem c k ra).Keeps l := by
  unfold State.drainElem
  extract_lets x g side f bank i j m v r
  have acc := keeps_portAccess h (s.portWho c) (ra + BitVec.ofNat 64 i * g.g 2 + BitVec.ofNat 64 (j * drainSize f))
    (.store (drainSize f) (BitVec.ofNat 64 r.1))
  split
  next e => rw [e] at acc; exact acc
  next => exact acc

theorem keeps_readElem {l : List Action} {s : State} (h : s.agenda = l) (c : Nat) (i : Instr) (ra rb : Word) (k : Nat) :
    (s.readElem c i ra rb k).Keeps l := by
  have acc : ∀ va op, (s.portAccess (s.elemWho c k) va op).Keeps l := keeps_portAccess h _
  unfold State.readElem
  extract_lets load
  have loads : ∀ mode wi u w, (load mode wi u w).Keeps l := fun mode wi u w => by
    have one := acc (s.elemAddr c mode (2 ^ w.toNat) ra rb wi k) (.load (2 ^ w.toNat))
    simp only [load]
    split <;> simp_all
  split
  · exact loads ..
  · exact loads ..
  · exact loads ..
  · exact keeps_streamRead h ..
  · exact h

theorem keeps_writeElem {l : List Action} {s : State} (h : s.agenda = l) (c : Nat) (i : Instr) (ra rb : Word) (k : Nat)
    (a b : Word) : (s.writeElem c i ra rb k a b).Keeps l := by
  unfold State.writeElem
  split
  · exact keeps_storeElem h ..
  · exact keeps_storeElem h ..
  · exact keeps_storeElem h ..
  · exact keeps_streamPut h ..
  · exact keeps_drainElem h ..
  · exact h

@[simp] theorem agendaAfter_issueElems (s : State) (i : Instr) (ra rb : Word) (first n : Nat) :
    agendaAfter (s.issueElems i ra rb first n) = some s.agenda := by
  simp only [State.issueElems]
  split <;> rfl

@[simp] theorem agendaAfter_vector (s : State) (i : Instr) (ra rb : Word) :
    agendaAfter (s.vector i ra rb) = some s.agenda := by
  simp [State.vector]

@[simp] theorem State.setElems_agenda (s : State) (c : Nat) (w : Why) : (s.setElems c w).agenda = s.agenda := by rfl

@[simp] theorem State.failElem_agenda (s : State) (c : Nat) (i : Instr) (ra rb : Word) (left sent : List Nat)
    (k : Nat) (e : Exc) :
    (s.failElem c i ra rb left sent k e).agenda = s.agenda := by rfl

@[simp] theorem State.putElem_agenda (s : State) (c : Nat) (i : Instr) (ra rb : Word) (left sent : List Nat)
    (stop : Option (Nat × Exc)) (k : Nat) (a b : Word) : (s.putElem c i ra rb left sent stop k a b).agenda = s.agenda := by
  have wrote := keeps_writeElem (s := s) rfl c i ra rb k a b
  simp only [State.putElem]
  split
  · simp
  · split
    · rfl
    · split
      · simp
      · split
        next e => rw [e] at wrote; simpa using wrote
        next e => rw [e] at wrote; simpa using wrote
        next e => rw [e] at wrote; exact wrote
        next => rfl

@[simp] theorem State.performElem_agenda (s : State) (c : Nat) (i : Instr) (ra rb : Word) (left sent : List Nat)
    (stop : Option (Nat × Exc)) (k : Nat) (rd wr : Bool) :
    (s.performElem c i ra rb left sent stop k rd wr).agenda = s.agenda := by
  have read := keeps_readElem (s := s) rfl c i ra rb k
  simp only [State.performElem]
  split
  · simp
  · split
    · rfl
    · split
      next e => rw [e] at read; simpa using read
      next e => rw [e] at read; simpa using read
      next e => rw [e] at read; simpa using read
      next e => rw [e] at read; exact read

@[simp] theorem State.perform_agenda (c : Nat) (op : Option Nat) (l : List Nat) (s : State) :
    (s.perform c op l).agenda = s.agenda := by
  induction l generalizing s with
  | nil => rfl
  | cons k l ih =>
    simp only [State.perform]
    split
    · simp [ih]
    · rfl

@[simp] theorem State.servePacket_agenda (s : State) (c o : Nat) (p : VPacket) (l : List (Nat × Nat)) :
    (s.servePacket c o p l).agenda = s.agenda := by
  simp [State.servePacket]

@[simp] theorem State.endElems_agenda (s : State) (c : Nat) (i : Instr) (stop : Option (Nat × Exc)) :
    (s.endElems c i stop).agenda = s.agenda := by
  simp only [State.endElems]
  split
  · simp
  · split
    · rfl
    · simp

@[simp] theorem State.stopElems_agenda (s : State) (c : Nat) : (s.stopElems c).agenda = s.agenda := by
  simp only [State.stopElems]
  split
  · rfl
  · simp
  · rfl

/-! ### Engines -/

@[simp] theorem agendaAfter_badOperand (s : State) (i : Instr) : agendaAfter (s.badOperand i) = some s.agenda := by
  simp [State.badOperand]

theorem keeps_readCard {l : List Action} (ra : Word) (n : Nat) {s : State} (h : s.agenda = l) (ws : List Word) :
    (s.readCard ra n ws).Keeps l := by
  induction n generalizing s ws with
  | zero => exact h
  | succ n ih =>
    have acc := keeps_access h (ra + BitVec.ofNat 64 (8 * ws.length)) (.load 8) true
    rw [State.readCard]
    split
    next e => rw [e] at acc; exact ih acc _
    next e => rw [e] at acc; simpa using acc
    next e => rw [e] at acc; exact agendaAfter_other h acc
    next => exact agendaAfter_other h acc

@[simp] theorem agendaAfter_submitCard (s : State) (rd : RegNo) (glean : Bool) (w : List Word) (count : Nat)
    (done : Word) (reads writes : List (Nat × Nat)) :
    agendaAfter (s.submitCard rd glean w count done reads writes) = some s.agenda := by rfl

@[simp] theorem agendaAfter_copyCard (s : State) (i : Instr) (rd : RegNo) (done : Word) (w : List Word) :
    agendaAfter (s.copyCard i rd done w) = some s.agenda := by
  simp [State.copyCard]

@[simp] theorem State.releaseSlots_agenda (s : State) (c : Nat) (l : List Nat) :
    (s.releaseSlots c l).agenda = s.agenda := by
  simp [State.releaseSlots]

@[simp] theorem agendaAfter_submitLoom (s : State) (kind : BitVec 3) (ra rb : Word) :
    agendaAfter (s.submitLoom kind ra rb) = some s.agenda := by
  simp [State.submitLoom]

/-! ### Synchronisation -/

@[simp] theorem agendaAfter_arrive (s : State) (kind : Nat) (scope : Word) (comb : Nat) (v : Word) :
    agendaAfter (s.arrive kind scope comb v) = some s.agenda := by rfl

@[simp] theorem agendaAfter_waitOn (s : State) (key : Nat) (v expected va : Word) :
    agendaAfter (s.waitOn key v expected va) = some s.agenda := by
  simp [State.waitOn]

@[simp] theorem agendaAfter_arrived (s : State) (v : Word) : agendaAfter (s.arrived v) = some s.agenda := by
  unfold State.arrived
  split <;> simp

@[simp] theorem State.wakeAll_agenda (s : State) (key : Nat) : (s.wakeAll key).agenda = s.agenda := by
  simp [State.wakeAll]

/-! ### Memory words of a block -/

@[simp] theorem noteLoad_agenda (s : State) (b : Blk) (key : Nat) (bs : List Byte) :
    (s.noteLoad b key bs).2.agenda = s.agenda := by
  simp [State.noteLoad]

theorem keeps_laneLoad {l : List Action} {s : State} (h : s.agenda = l) (b : Blk) (t : Tr) (va : Word) (n : Nat)
    (signed : Bool) (wd : RegNo) : (s.laneLoad b t va n signed wd).Keeps l := by
  simp only [State.laneLoad]
  split
  · simp [h]
  · split
    next bad =>
      split at bad
      · exact nomatch bad
      · exact (badCheck_agenda bad).trans h
    next => simp [h]

theorem agendaAfter_wordLoad {s : State} {b : Blk} (blk : s.myMt.blk = some b) (h : WHdr) (wd wa wb : RegNo)
    (wid : BitVec 2) (signed : Bool) : agendaAfter (s.wordLoad h wd wa wb wid signed) = some s.agenda := by
  refine agendaAfter_word blk h ?_
  split
  · rfl
  · split
    · rfl
    · split
      · rfl
      · exact keeps_laneLoad rfl ..
      · split <;> simp

theorem agendaAfter_wordAtomic {s : State} {b : Blk} (blk : s.myMt.blk = some b) (h : WHdr) (wd wa wb : RegNo)
    (kind : Nat) : agendaAfter (s.wordAtomic h wd wa wb kind) = some s.agenda := by
  refine agendaAfter_word blk h ?_
  split
  · rfl
  · split
    · rfl
    · split
      · rfl
      · split <;> rfl

@[simp] theorem spFault_agenda (s : State) (c key a : Nat) : (s.spFault c key a).2.agenda = s.agenda := by
  simp [State.spFault]

end Sys2Proof.Machine
end

section
/-!
PROOFS. What the operations of events leave on the agenda: gangs and contexts, lanes, jobs, data that come back, commands,
requests of the host and of other modules, links, resets and the turns of the other agents.
-/

namespace Sys2Proof.Machine

/-! ### Gangs and contexts -/

@[simp] theorem State.laneRecord_agenda (s : State) (code part cl lane core detail : Nat) :
    (s.laneRecord code part cl lane core detail).agenda = s.agenda := by rfl

theorem keeps_putWord {l : List Action} {s : State} (h : s.agenda = l) (core c part : Nat) (t : Option Tr) (va v : Word)
    (level : Level) : (s.putWord core c part t va v level).Keeps l := by
  unfold State.putWord
  split
  · exact h
  · split
    · exact h
    · exact keeps_place h ..

@[simp] theorem State.tryLate_agenda (s : State) (w : LateWord) : (s.tryLate w).agenda = s.agenda := by
  have put := keeps_putWord (s := s) rfl w.core w.ctx w.part (some { pa := w.pa, skew := w.skew, attr := w.attr, hcl := w.hcl })
    w.va w.data .app
  unfold State.tryLate
  split
  next e => rw [e] at put; exact put
  next e => rw [e] at put; simpa using put
  next e => rw [e] at put; exact put
  next => rfl

@[simp] theorem State.drainLate_agenda (s : State) : s.drainLate.agenda = s.agenda := by
  simp [State.drainLate]

@[simp] theorem State.completion_agenda (s : State) (r : Nat) (v : Word) : (s.completion r v).agenda = s.agenda := by
  simp only [State.completion]
  split
  · rfl
  · simp

@[simp] theorem State.sleepBanks_agenda (s : State) (c : Nat) (banks : BitVec 8) :
    (s.sleepBanks c banks).agenda = s.agenda := by rfl
@[simp] theorem State.powerDown_agenda (s : State) (c : Nat) : (s.powerDown c).agenda = s.agenda := by rfl

@[simp] theorem State.endContext_agenda (s : State) (c : Nat) : (s.endContext c).agenda = s.agenda := by
  simp [State.endContext]

@[simp] theorem State.idleRec_agenda (s : State) (r : Nat) : (s.idleRec r).agenda = s.agenda := by rfl

@[simp] theorem State.lowerLines_agenda (s : State) (r : Nat) : (s.lowerLines r).agenda = s.agenda :=
  foldl_agenda (fun _ _ => by simp) _ s

@[simp] theorem State.carryOut_agenda (s : State) (part key n pa : Nat) :
    (s.carryOut part key n pa).agenda = s.agenda := by
  simp [State.carryOut]

@[simp] theorem State.carryParts_agenda (part : Nat) (l : List (Nat × Nat)) (s : State) (pa : Nat) :
    (s.carryParts part l pa).agenda = s.agenda := by
  induction l generalizing s pa with
  | nil => rfl
  | cons e l ih => simp [State.carryParts, ih]

@[simp] theorem State.putImage_agenda (s : State) (part c pa : Nat) : (s.putImage part c pa).agenda = s.agenda := by
  simp [State.putImage]

theorem carryBack_agenda (l : List (Nat × Nat)) {s t : State} {pa : Nat} (h : s.carryBack l pa = some t) :
    t.agenda = s.agenda := by
  induction l generalizing s pa with
  | nil => exact congrArg State.agenda (Option.some.inj h).symm
  | cons e l ih =>
    rw [State.carryBack] at h
    split at h
    · exact (ih h).trans (by simp)
    · exact nomatch h

@[simp] theorem State.noteBad_agenda (s : State) (part core pa n : Nat) :
    (s.noteBad part core pa n).agenda = s.agenda := by
  unfold State.noteBad
  split <;> simp

@[simp] theorem State.mirrorRecords_agenda (s : State) (c : Nat) : (s.mirrorRecords c).agenda = s.agenda :=
  foldl_agenda (fun _ _ => by simp) _ s

@[simp] theorem State.awakeBanks_agenda (s : State) (c : Nat) : (s.awakeBanks c).agenda = s.agenda := by rfl

theorem loadImage_agenda {s t : State} {r c pa : Nat} {rect stvec : Word} (h : s.loadImage r c pa rect stvec = some t) :
    t.agenda = s.agenda := by
  simp only [State.loadImage] at h
  split at h
  · exact nomatch h
  · split at h
    · exact nomatch h
    next back => simpa [← Option.some.inj h] using carryBack_agenda _ back

theorem restoreImage_agenda {s t : State} {r c pa : Nat} {rect stvec : Word}
    (h : s.restoreImage r c pa rect stvec = some t) : t.agenda = s.agenda := by
  unfold State.restoreImage at h
  split at h
  · exact nomatch h
  next image =>
    split at h
    · exact nomatch h
    · simp [← Option.some.inj h, loadImage_agenda image]

@[simp] theorem State.noteRestore_agenda (s : State) (r c pa : Nat) (rect stvec : Word) :
    (s.noteRestore r c pa rect stvec).agenda = s.agenda := by
  simp only [State.noteRestore]
  split
  · simp
  · split
    · simp
    · rfl

@[simp] theorem State.putSnapshot_agenda (s : State) (part c pa : Nat) :
    (s.putSnapshot part c pa).agenda = s.agenda := by
  simp [State.putSnapshot]

@[simp] theorem State.takeSnapshot_agenda (s : State) (r k c : Nat) : (s.takeSnapshot r k c).agenda = s.agenda := by
  simp only [State.takeSnapshot]
  split <;> simp

@[simp] theorem State.snapshot_agenda (s : State) (r : Nat) : (s.snapshot r).agenda = s.agenda := by
  simp [State.snapshot]

@[simp] theorem State.release_agenda (s : State) (c : Nat) : (s.release c).agenda = s.agenda := by
  unfold State.release
  split <;> simp

@[simp] theorem State.startCtx_agenda (s : State) (r c : Nat) (rect stvec : Word) :
    (s.startCtx r c rect stvec).agenda = s.agenda := by rfl
@[simp] theorem State.refreshCore_agenda (s : State) (core : Nat) : (s.refreshCore core).agenda = s.agenda := by rfl

@[simp] theorem State.fitClock_agenda (s : State) (die : Nat) : (s.fitClock die).agenda = s.agenda := by
  simp [State.fitClock]

@[simp] theorem State.placeAt_agenda (s : State) (r : Nat) (rect : Word) : (s.placeAt r rect).agenda = s.agenda := by
  simp only [State.placeAt, State.snapshot_agenda]
  rw [foldl_agenda fun t d => t.fitClock_agenda d]
  refine (foldl_agenda (fun t k => ?_) _ _).trans (by simp)
  split
  · simp
  · split
    · simp
    · split
      next image => simp [restoreImage_agenda image]
      next => simp

@[simp] theorem State.markFor_agenda (s : State) (r : Nat) : (s.markFor r).agenda = s.agenda := by
  simp only [State.markFor]
  split
  · rfl
  · exact foldl_agenda (fun _ _ => by simp) _ s

@[simp] theorem State.releaseFor_agenda (s : State) (r : Nat) : (s.releaseFor r).agenda = s.agenda := by
  unfold State.releaseFor
  split <;> simp

@[simp] theorem State.passOver_agenda (l : List Nat) (s : State) (first : Bool) :
    (s.passOver l first).agenda = s.agenda := by
  induction l generalizing s first with
  | nil => rfl
  | cons r l ih =>
    simp only [State.passOver]
    split
    · simp [ih]
    · simp [ih]

@[simp] theorem State.pass_agenda (s : State) : s.pass.agenda = s.agenda := by
  simp [State.pass]

@[simp] theorem State.finishGang_agenda (s : State) (r : Nat) (v : Word) : (s.finishGang r v).agenda = s.agenda := by
  simp [State.finishGang]

@[simp] theorem State.withdraw_agenda (s : State) (r : Nat) : (s.withdraw r).agenda = s.agenda := by
  simp [State.withdraw]

@[simp] theorem State.failContext_agenda (s : State) (c : Nat) : (s.failContext c).agenda = s.agenda := by
  simp [State.failContext]

theorem spillFails_agenda {s t : State} {c : Nat} {l : List Nat} (h : s.spillFails c l = some t) :
    t.agenda = s.agenda := by
  unfold State.spillFails at h
  split at h
  · simp [← Option.some.inj h]
  · exact nomatch h

@[simp] theorem State.saveGang_agenda (s : State) (r : Nat) (hold : Bool) : (s.saveGang r hold).agenda = s.agenda := by
  simp [State.saveGang]

/-! ### Events of crews -/

@[simp] theorem State.setEntry_agenda (s : State) (c : Nat) (e : SeqEntry) : (s.setEntry c e).agenda = s.agenda := by rfl

@[simp] theorem State.pick_agenda (s : State) (c : Nat) (e : SeqEntry) (k : Nat) :
    (s.pick c e k).agenda = s.agenda := by
  simp [State.pick]

@[simp] theorem State.beginBlock_agenda (s : State) (c i : Nat) (g : Begin) (cap : Captured) (held : List IWord)
    (k : Nat) (checked : Bool) :
    (s.beginBlock c i g cap held k checked).agenda = s.agenda := by
  simp only [State.beginBlock]
  split
  · simp
  · split <;> simp

theorem keeps_commitStores {l : List Action} (c i : Nat) (es : List BlkStore) {s : State} (h : s.agenda = l)
    (w : Table Word) (d : BitVec 23) : (s.commitStores c i es w d).Keeps l := by
  induction es generalizing s w d with
  | nil => exact h
  | cons e es ih =>
    simp only [State.commitStores]
    have regs : ∀ {u : State} (v : Word), u.agenda = l → (if e.rd = 0 then u.commitStores c i es w d
        else u.commitStores c i es (put w e.rd.toNat v) (d ||| (1 <<< (e.rd.toNat - 1)))).Keeps l := fun v hu => by
      split <;> exact ih hu ..
    split
    · split
      · trivial
      · split
        · simp [h]
        · exact ih (by simp [h]) ..
    · split
      · exact regs _ h
      · have acc := fun t op => keeps_place h { s.portWho c with level := .app, holder := 512 * c + i } t e.va op true
        split
        next v u made =>
          have hu : u.agenda = l := by split at made <;> exact (acc _ _).of_value made
          split
          · exact ih hu ..
          · exact regs _ hu
        next x u made =>
          have hu : u.agenda = l := by split at made <;> exact (acc _ _).of_exc made
          exact hu
        next => trivial

@[simp] theorem State.reRun_agenda (s : State) (c i : Nat) (m : Mt) (b : Blk) :
    (s.reRun c i m b).agenda = s.agenda := by
  simp [State.reRun]

@[simp] theorem State.waitCommit_agenda (s : State) (c i : Nat) (m : Mt) (b : Blk) :
    (s.waitCommit c i m b).agenda = s.agenda := by
  simp [State.waitCommit]

theorem narrowBad_agenda {s : State} {c i : Nat} {b : Blk} {p : Exc × State} (h : s.narrowBad c i b = some p) :
    p.2.agenda = s.agenda := by
  simp only [State.narrowBad] at h
  obtain ⟨e, -, found⟩ := List.exists_of_findSome?_eq_some h
  split at found
  · split at found
    · exact nomatch found
    · split at found
      · simp [← Option.some.inj found]
      · exact nomatch found
  · split at found
    · split at found
      · exact nomatch found
      · exact badCheck_agenda found
    · exact nomatch found

@[simp] theorem State.sendAtomic_agenda (s : State) (c i : Nat) (m : Mt) (b : Blk) (e : BlkStore) :
    (s.sendAtomic c i m b e).agenda = s.agenda := by
  simp [State.sendAtomic]

@[simp] theorem State.rotate_agenda (s : State) (c i : Nat) : (s.rotate c i).agenda = s.agenda := by
  simp only [State.rotate]
  split
  · split <;> rfl
  · rfl

@[simp] theorem afterCommit_agenda (s : State) (c : Nat) (m : Mt) (b : Blk) :
    (s.afterCommit c m b).1.agenda = s.agenda := by
  simp only [State.afterCommit]
  split
  · split
    · rfl
    · split <;> simp
  · rfl

@[simp] theorem State.silentError_agenda (s : State) (c i : Nat) : (s.silentError c i).agenda = s.agenda := by
  simp [State.silentError]

/-! ### Lanes and pools -/

@[simp] theorem State.vacate_agenda (s : State) (cl lane : Nat) (dest : Option Nat) :
    (s.vacate cl lane dest).agenda = s.agenda := by
  simp [State.vacate]

@[simp] theorem State.loseLanes_agenda (s : State) (cl : Nat) (lanes : List Nat) :
    (s.loseLanes cl lanes).agenda = s.agenda := foldl_agenda (fun _ _ => by simp) _ s

@[simp] theorem State.startClearing_agenda (s : State) (cl : Nat) : (s.startClearing cl).agenda = s.agenda := by
  simp [State.startClearing]

@[simp] theorem State.takeOut_agenda (s : State) (cl lane : Nat) : (s.takeOut cl lane).agenda = s.agenda := by
  simp [State.takeOut]

@[simp] theorem State.dropSquare_agenda (s : State) (cl lane : Nat) : (s.dropSquare cl lane).agenda = s.agenda := by
  simp only [State.dropSquare]
  split
  · split <;> rfl
  · rfl

@[simp] theorem State.shrinkTo_agenda (s : State) (c m : Nat) (away : List Nat) :
    (s.shrinkTo c m away).agenda = s.agenda := by
  simp [State.shrinkTo]

@[simp] theorem State.moveOff_agenda (s : State) (c lane dest : Nat) : (s.moveOff c lane dest).agenda = s.agenda := by
  simp only [State.moveOff]
  split
  · rfl
  · simp

@[simp] theorem State.endMove_agenda (s : State) (c k lane : Nat) : (s.endMove c k lane).agenda = s.agenda := by
  simp only [State.endMove]
  split
  · rfl
  · simp

@[simp] theorem State.endMoves_agenda (s : State) (cl : Nat) : (s.endMoves cl).agenda = s.agenda := by
  simp [State.endMoves]

@[simp] theorem State.settleMoves_agenda (s : State) (c : Nat) : (s.settleMoves c).agenda = s.agenda := by
  simp [State.settleMoves]

@[simp] theorem State.poolWork_agenda (s : State) (cl : Nat) : (s.poolWork cl).agenda = s.agenda := by
  unfold State.poolWork
  exact (foldl_agenda (fun _ _ => by simp) _ _).trans (by simp)

@[simp] theorem State.revoke_agenda (s : State) (c : Nat) : (s.revoke c).agenda = s.agenda := by
  simp [State.revoke]

@[simp] theorem State.allJoined_agenda (s : State) (c : Nat) : (s.allJoined c).agenda = s.agenda := by
  unfold State.allJoined
  extract_lets x n slots t u
  have ht : t.agenda = s.agenda := by rfl
  clear_value t
  split
  · split
    · split <;> simp [ht]
    · exact ht
  · simp [u]

@[simp] theorem State.joinLane_agenda (s : State) (c lane : Nat) : (s.joinLane c lane).agenda = s.agenda := by
  simp only [State.joinLane]
  split <;> simp

@[simp] theorem State.give_agenda (s : State) (c : Nat) (lanes : List Nat) : (s.give c lanes).agenda = s.agenda := by
  simp [State.give]

@[simp] theorem State.withhold_agenda (s : State) (c n : Nat) : (s.withhold c n).agenda = s.agenda := by rfl

@[simp] theorem State.tryRetire_agenda (s : State) (cl : Nat) : (s.tryRetire cl).agenda = s.agenda := by
  refine foldl_agenda (fun t lane => ?_) _ s
  dsimp only
  split
  · simp
  · split <;> simp

@[simp] theorem State.poolStep_agenda (s : State) (cl : Nat) : (s.poolStep cl).agenda = s.agenda := by
  rw [State.poolStep, State.poolWork_agenda, State.tryRetire_agenda, State.poolWork_agenda]

@[simp] theorem State.grantSquare_agenda (s : State) (c origin : Nat) : (s.grantSquare c origin).agenda = s.agenda := by
  simp only [State.grantSquare, ite_agenda, State.allJoined_agenda, ite_self]
  refine (foldl_agenda (fun t lane => ?_) _ _).trans (by simp)
  split
  · simp
  · split <;> simp

@[simp] theorem trySquare_agenda (s : State) (cl o : Nat) (p : State × Nat) (c : Nat) :
    (s.trySquare cl o p c).1.agenda = p.1.agenda := by
  simp only [State.trySquare]
  split
  · simp
  · split
    · rfl
    · split
      · simp
      · split
        · simp
        · split
          · rfl
          · split <;> simp

@[simp] theorem State.bringSpares_agenda (s : State) (cl : Nat) : (s.bringSpares cl).agenda = s.agenda := by
  refine (foldl_agenda (fun t lane => ?_) _ _).trans (State.setCluster_agenda ..)
  split <;> simp

@[simp] theorem State.checkBack_agenda (s : State) (cl : Nat) : (s.checkBack cl).agenda = s.agenda := by
  unfold State.checkBack
  split <;> simp

@[simp] theorem State.applyTarget_agenda (s : State) (cl : Nat) (grow : Bool) (k : Crew) :
    (s.applyTarget cl grow k).agenda = s.agenda := by
  simp [State.applyTarget]

/-- The squares given in a frame. -/
theorem foldl_trySquare_agenda (cl o : Nat) (s : State) (l : List Nat) (p : State × Nat) :
    (l.foldl (s.trySquare cl o) p).1.agenda = p.1.agenda := by
  induction l generalizing p with
  | nil => rfl
  | cons c l ih => exact (ih _).trans (trySquare_agenda ..)

@[simp] theorem State.frame_agenda (s : State) (cl : Nat) : (s.frame cl).agenda = s.agenda := by
  simp only [State.frame, State.poolStep_agenda]
  refine (foldl_agenda (fun _ _ => by simp) _ _).trans ((foldl_agenda (fun _ _ => by simp) _ _).trans
    ((foldl_agenda (fun _ _ => by simp) _ _).trans ((foldl_trySquare_agenda ..).trans ?_)))
  simp

/-! ### Events of grants and of power -/

@[simp] theorem State.abandon_agenda (s : State) (c i : Nat) : (s.abandon c i).agenda = s.agenda := by rfl

@[simp] theorem State.contextSave_agenda (s : State) (c : Nat) : (s.contextSave c).agenda = s.agenda := by
  simp only [State.contextSave, State.poolStep_agenda]
  split
  next fails => simpa using spillFails_agenda fails
  next => simp

@[simp] theorem State.tryClock_agenda (s : State) (die mhz watts : Nat) :
    (s.tryClock die mhz watts).agenda = s.agenda := by
  simp [State.tryClock]

@[simp] theorem State.startHop_agenda (s : State) (die mhz : Nat) : (s.startHop die mhz).agenda = s.agenda := by rfl

@[simp] theorem State.stepAlc_agenda (s : State) (die : Nat) (lower : Bool) :
    (s.stepAlc die lower).agenda = s.agenda := by
  simp [State.stepAlc]

@[simp] theorem State.endAlc_agenda (s : State) (die : Nat) : (s.endAlc die).agenda = s.agenda := by
  simp [State.endAlc]

/-! ### Events of gangs -/

@[simp] theorem State.leaveBar_agenda (s : State) (c : Nat) : (s.leaveBar c).agenda = s.agenda := by rfl
@[simp] theorem State.leaveLapsed_agenda (s : State) (c : Nat) : (s.leaveLapsed c).agenda = s.agenda := by rfl

@[simp] theorem State.saveCrew_agenda (s : State) (c : Nat) : (s.saveCrew c).agenda = s.agenda := by
  simp only [State.saveCrew]
  split
  next fails =>
    split at fails
    · exact spillFails_agenda fails
    · exact nomatch fails
  next => simp

@[simp] theorem State.poolsOf_agenda (s : State) (l : List Nat) : (s.poolsOf l).agenda = s.agenda := by
  simp [State.poolsOf]

@[simp] theorem State.preemptMarked_agenda (s : State) (r : Nat) : (s.preemptMarked r).agenda = s.agenda := by
  simp [State.preemptMarked]

@[simp] theorem State.leaveGbar_agenda (s : State) (c : Nat) : (s.leaveGbar c).agenda = s.agenda := by rfl

@[simp] theorem agendaAfter_hubRefuse (s : State) (c cause : Nat) :
    agendaAfter (s.hubRefuse c cause) = some s.agenda := by
  simp [State.hubRefuse]

@[simp] theorem State.arm_agenda (s : State) (r : Nat) : (s.arm r).agenda = s.agenda := by
  simp [State.arm]

@[simp] theorem State.atStop_agenda (s : State) (c : Nat) : (s.atStop c).agenda = s.agenda := by
  simp [State.atStop]

@[simp] theorem State.applyAllWaiting_agenda (s : State) (l : List Nat) : (s.applyAllWaiting l).agenda = s.agenda := by
  simp [State.applyAllWaiting]

@[simp] theorem State.discardStop_agenda (s : State) (r : Nat) : (s.discardStop r).agenda = s.agenda := by
  simp [State.discardStop]

@[simp] theorem State.stopForRollback_agenda (s : State) (c : Nat) : (s.stopForRollback c).agenda = s.agenda := by
  simp [State.stopForRollback]

@[simp] theorem State.restoreScratch_agenda (s : State) (c pa m : Nat) :
    (s.restoreScratch c pa m).agenda = s.agenda := by
  simp [State.restoreScratch]

@[simp] theorem State.restoreMts_agenda (s : State) (c pa side lanes : Nat) (held : Ctx) :
    (s.restoreMts c pa side lanes held).agenda = s.agenda := by
  simp only [State.restoreMts]
  split
  · rw [State.restoreScratch_agenda, State.settleMoves_agenda, State.placeMts_agenda]
    exact (foldl_agenda (fun _ _ => by simp) _ _).trans (by simp)
  · split
    · rw [State.mirrorRecords_agenda]
      refine (foldl_agenda (fun t i => ?_) _ _).trans (by simp)
      exact foldl_agenda (fun _ _ => by simp) _ t
    · simp

theorem restoreSnapshot_agenda {s t : State} {r k c : Nat} (h : s.restoreSnapshot r k c = some t) :
    t.agenda = s.agenda := by
  simp only [State.restoreSnapshot] at h
  split at h
  · exact nomatch h
  · split at h
    · exact nomatch h
    next image =>
      split at h
      · exact nomatch h
      · split at h
        · exact nomatch h
        · simp [← Option.some.inj h, restoreImage_agenda image]

@[simp] theorem State.moveContext_agenda (s : State) (c d : Nat) (rect : Word) :
    (s.moveContext c d rect).agenda = s.agenda := by
  simp only [State.moveContext]
  split
  · simp
  · simp only [State.endContext_agenda, State.powerDown_agenda]
    refine (foldl_agenda (fun _ _ => by simp) _ _).trans ?_
    simp only [State.awakeBanks_agenda, State.setCtx_agenda]
    exact (foldl_agenda (fun _ _ => by simp) _ _).trans (by simp)

/-! ### Jobs and the Loom -/

theorem keeps_jobTake {l : List Action} {s : State} (h : s.agenda = l) (c : Nat) (j : Job) (consumer : Bool) (pa : Nat)
    (d : Datum) : TryKeeps l (s.jobTake c j consumer pa d) := by
  unfold State.jobTake
  split
  · exact h
  · split <;> simp [h]

theorem jobQueue_agenda {s t : State} {c : Nat} {j : Job} {w : Win} {va : Word} {pa : Nat} {v : Word} {rd : Bool}
    (h : s.jobQueue c j w va pa v rd = some t) : t.agenda = s.agenda := by
  unfold State.jobQueue at h
  split at h
  · exact nomatch h
  · simp [← Option.some.inj h]

theorem keeps_jobFar {l : List Action} {s : State} (h : s.agenda = l) (c : Nat) (j : Job) (consumer : Bool) (va : Word)
    (slot pa : Nat) : TryKeeps l (s.jobFar c j consumer va slot pa) := by
  simp only [State.jobFar]
  split
  next reply =>
    have taken := (takeReply_agenda reply).trans h
    split
    · exact taken
    · exact keeps_jobTake (by simpa using taken) ..
  · split <;> simp [h]

theorem keeps_jobRead {l : List Action} {s : State} (h : s.agenda = l) (c : Nat) (j : Job) (consumer : Bool) (va : Word) :
    TryKeeps l (s.jobRead c j consumer va) := by
  simp only [State.jobRead]
  split
  · exact keeps_jobTake h ..
  · split
    · exact h
    · exact h
    next w pa _ =>
      split
      · exact h
      · cases queue : s.jobQueue c j w va pa 0 true with
        | none => exact h
        | some t => exact (jobQueue_agenda queue).trans h
    · simp [h]
    · split
      · exact keeps_jobTake (by simp [h]) ..
      · split <;> simp [h]
    · exact keeps_jobTake h ..
    · exact keeps_jobFar h ..
    · split
      · split <;> simp [h]
      · split
        · exact h
        · exact keeps_jobTake (by simp [h]) ..

@[simp] theorem putDatum_agenda (s : State) (key : Nat) (d : Datum) (onChip : optParam Bool false) :
    (putDatum s key d onChip).agenda = s.agenda := by
  simp [putDatum]

theorem keeps_jobVerify {l : List Action} {s : State} (h : s.agenda = l) (c pa : Nat) (d : Datum) :
    TryKeeps l (s.jobVerify c pa d) := by
  unfold State.jobVerify
  split
  · exact h
  · split <;> simp [h]

theorem keeps_jobWrite {l : List Action} {s : State} (h : s.agenda = l) (c : Nat) (j : Job) (va : Word) (d : Datum)
    (whole : Bool) : TryKeeps l (s.jobWrite c j va d whole) := by
  have verified := fun pa => keeps_jobVerify h c pa d
  simp only [State.jobWrite]
  split
  · exact h
  · exact h
  · simp [h]
  · split
    next e => exact (verified _).of_error e
    next t e =>
      have ht : t.agenda = l := (verified _).of_ok e
      split
      · exact ht
      next queue => exact (jobQueue_agenda queue).trans ht
  · split
    · simp [h]
    · split
      next e => exact (verified _).of_error e
      next t e =>
        have ht : t.agenda = l := (verified _).of_ok e
        have put := keeps_winPut ht (s.partOf (c / 4)) (c / 4) j.level
        split
        next e =>
          have := e ▸ put _ _
          simpa using this
        next e =>
          have := e ▸ put _ _
          exact this
  · simp [h]
  · simp [h]
  · split
    · exact h
    · split
      · split <;> simp [h]
      · simp [h]

@[simp] theorem State.settlePiece_agenda (s : State) (c : Nat) (j : Job) (va : Word) (whole mark : Bool) :
    (s.settlePiece c j va whole mark).agenda = s.agenda := by
  unfold State.settlePiece
  split <;> simp

theorem keeps_jobRun {l : List Action} (c : Nat) (j : Job) (n : Nat) {s : State} (h : s.agenda = l) (va : Word) :
    TryKeeps l (s.jobRun c j n va) := by
  induction n generalizing s va with
  | zero => exact h
  | succ n ih =>
    have read := keeps_jobRead h c j true va
    rw [State.jobRun]
    split
    next e => rw [e] at read; exact read
    next e =>
      rw [e] at read
      have rest := ih read (va + 8)
      split
      next e => rw [e] at rest; exact rest
      next e => rw [e] at rest; exact rest

theorem keeps_convertDw {l : List Action} {s : State} (h : s.agenda = l) (c : Nat) (j : Job) (p : Nat × Nat) :
    TryKeeps l (s.convertDw c j p) := by
  have run := fun n va => keeps_jobRun c j n h va
  simp only [State.convertDw]
  split
  next e => exact (run _ _).of_error e
  next e => exact (run _ _).of_ok e

theorem keeps_copyDw {l : List Action} {s : State} (h : s.agenda = l) (c : Nat) (j : Job) (p : Nat × Nat) :
    TryKeeps l (s.copyDw c j p) := by
  have read := keeps_jobRead h c j false (j.srcRow p + BitVec.ofNat 64 p.2)
  unfold State.copyDw
  split
  · exact keeps_convertDw h c j p
  · split
    next e => rw [e] at read; exact read
    next e => rw [e] at read; exact read

@[simp] theorem State.addFlags_agenda (s : State) (c : Nat) (j : Job) (fl : BitVec 7) :
    (s.addFlags c j fl).agenda = s.agenda := by rfl

theorem keeps_movePiece {l : List Action} (c : Nat) (j : Job) (whole : Bool) (ps : List (Nat × Nat)) {s : State}
    (h : s.agenda = l) (k : Nat) (fl : BitVec 7) (mark : Bool) : TryKeeps l (s.movePiece c j whole ps k fl mark) := by
  induction ps generalizing s k fl mark with
  | nil => exact h
  | cons p ps ih =>
    have copied := keeps_copyDw h c j p
    simp only [State.movePiece]
    split
    next e =>
      rw [e] at copied
      split
      · exact copied
      · simpa using copied
    next d _ t e =>
      rw [e] at copied
      have wrote := keeps_jobWrite copied c j (j.dest p) d whole
      split
      next e =>
        rw [e] at wrote
        split
        · exact wrote
        · simpa using wrote
      next e => rw [e] at wrote; exact ih wrote ..

theorem keeps_packetData {l : List Action} (c : Nat) (j : Job) (ps : List (Nat × Nat)) {s : State} (h : s.agenda = l)
    (fl : BitVec 7) (ds : List Datum) : TryKeeps l (s.packetData c j ps fl ds) := by
  induction ps generalizing s fl ds with
  | nil => exact h
  | cons p ps ih =>
    have copied := keeps_copyDw h c j p
    simp only [State.packetData]
    split
    · exact h
    · exact h
    · split
      next e => rw [e] at copied; exact copied
      next e => rw [e] at copied; exact ih copied ..

@[simp] theorem State.sendPiece_agenda (s : State) (slot tag pa : Nat) (offs : List Nat) (data : List Datum) :
    (s.sendPiece slot tag pa offs data).agenda = s.agenda := by
  simp [State.sendPiece]

@[simp] theorem State.setJob_agenda (s : State) (c : Nat) (j : Job) : (s.setJob c j).agenda = s.agenda := by rfl

theorem keeps_copyPiece {l : List Action} {s : State} (h : s.agenda = l) (c : Nat) (j : Job) :
    TryKeeps l (s.copyPiece c j) := by
  simp only [State.copyPiece]
  split
  · exact h
  · exact h
  · have data := keeps_packetData c j (j.packet 256 (j.row, j.byte)) h 0 []
    split
    next e => rw [e] at data; exact data
    next e => rw [e] at data; simpa using data
  · have moved := fun ps whole => keeps_movePiece c j whole ps h 0 0 j.marked
    split
    next e => exact (moved _ _).of_error e
    next t e =>
      have ht : t.agenda = l := (moved _ _).of_ok e
      simp [ht]

theorem keeps_gleanEntry {l : List Action} {s : State} (h : s.agenda = l) (c : Nat) (j : Job) :
    TryKeeps l (s.gleanEntry c j) := by
  have index := fun va => keeps_jobRead h c j true va
  unfold State.gleanEntry
  extract_lets ctl wide at_
  split
  next e => exact (index _).of_error e
  next b _ i t e =>
    have ht : t.agenda = l := (index _).of_ok e
    extract_lets x u
    clear_value x u
    generalize (if ctl.getLsbD 0 then (b, u) else (u, b)) = p
    obtain ⟨src, dst⟩ := p
    dsimp only
    split
    · exact ht
    · split
      · exact ht
      · have read := fun va => keeps_jobRead ht c j false va
        split
        next e => exact (read _).of_error e
        next d u e =>
          have hu : u.agenda = l := (read _).of_ok e
          have wrote := fun va => keeps_jobWrite hu c j va d false
          split
          next e => exact (wrote _).of_error e
          next v e =>
            have hv : v.agenda = l := (wrote _).of_ok e
            simp [hv]

theorem keeps_advance {l : List Action} (c n : Nat) {s : State} (h : s.agenda = l) (j : Job) :
    TryKeeps l (s.advance c j n) := by
  induction n generalizing s j with
  | zero => exact h
  | succ n ih =>
    have one : TryKeeps l (if j.glean then s.gleanEntry c j else s.copyPiece c j) := by
      split
      · exact keeps_gleanEntry h c j
      · exact keeps_copyPiece h c j
    rw [State.advance]
    split
    · exact h
    · split
      next e => rw [e] at one; exact one
      next e => rw [e] at one; exact ih one _

@[simp] theorem State.jobOut_agenda (s : State) (c : Nat) (j : Job) (k : BitVec 8) :
    (s.jobOut c j k).agenda = s.agenda := by
  simp only [State.jobOut]
  split
  · split <;> rfl
  · rfl

@[simp] theorem State.endJob_agenda (s : State) (c : Nat) (j : Job) (cause : BitVec 8) :
    (s.endJob c j cause).agenda = s.agenda := by
  simp only [State.endJob]
  split
  · simp
  · have put := keeps_putWord (s := s) rfl (c / 4) c (s.partOf (c / 4)) (s.jobTr c j j.done .w) j.done
      (jobWord j.num cause j.flags) j.level
    split
    next e => rw [e] at put; simpa using put
    next e => rw [e] at put; simpa using put
    next e => rw [e] at put; simpa using put
    next => simp

@[simp] theorem State.stopJob_agenda (s : State) (c : Nat) (j : Job) (k : BitVec 8) :
    (s.stopJob c j k).agenda = s.agenda := by
  simp [State.stopJob]

@[simp] theorem State.runJob_agenda (s : State) (c : Nat) (j : Job) (n : Nat) (finish : Bool) :
    (s.runJob c j n finish).agenda = s.agenda := by
  unfold State.runJob
  split
  · simp
  · have moved := keeps_advance (s := s) c n rfl j
    split
    next e => rw [e] at moved; simpa using moved
    next e => rw [e] at moved; exact moved
    next e => rw [e] at moved; split <;> simpa using moved

@[simp] theorem State.setAcc_agenda (s : State) (c side bank i k : Nat) (v : BitVec 32) :
    (s.setAcc c side bank i k v).agenda = s.agenda := by rfl

@[simp] theorem addSum_agenda (c side : Nat) (e : Nat × Num × BitVec 7) (t : State × LoomJob × BitVec 7) :
    (State.addSum c side e t).1.agenda = t.1.agenda := by
  simp only [State.addSum]
  split
  · simp
  · split <;> simp

@[simp] theorem addChunk_agenda (s : State) (c : Nat) (j : LoomJob) (side : Nat) (sums : List (Num × BitVec 7)) :
    (s.addChunk c j side sums).1.agenda = s.agenda := by
  unfold State.addChunk
  generalize (List.range (16 * side * (16 * side))).zip sums = l
  suffices ∀ t : State × LoomJob × BitVec 7,
      (l.foldl (fun t e => State.addSum c side e t) t).1.agenda = t.1.agenda from this (s, j, 0)
  induction l with
  | nil => exact fun _ => rfl
  | cons e l ih => exact fun t => (ih _).trans (addSum_agenda c side e t)

@[simp] theorem State.useTokens_agenda (s : State) (r cl more less : Nat) :
    (s.useTokens r cl more less).agenda = s.agenda := by rfl

@[simp] theorem State.wakeSlots_agenda (s : State) (c : Nat) (j : LoomJob) : (s.wakeSlots c j).agenda = s.agenda := by
  simp [State.wakeSlots]

@[simp] theorem State.setLoom_agenda (s : State) (c : Nat) (j : LoomJob) : (s.setLoom c j).agenda = s.agenda := by rfl

@[simp] theorem State.endLoom_agenda (s : State) (c : Nat) (j : LoomJob) (cause : BitVec 8) :
    (s.endLoom c j cause).agenda = s.agenda := by rfl

@[simp] theorem State.zeroBanks_agenda (s : State) (c : Nat) (ra : Word) : (s.zeroBanks c ra).agenda = s.agenda := by
  simp [State.zeroBanks]

/-! ### Data that come back -/

@[simp] theorem State.takePosted_agenda (s : State) (n : Nat) : (s.takePosted n).agenda = s.agenda := by rfl

@[simp] theorem agendaAfter_windowLoad (s : State) (pa : Nat) (va : Word) :
    agendaAfter (s.windowLoad pa va) = some s.agenda := by
  simp only [State.windowLoad]
  split
  · simp
  · simp
  next cl off _ _ =>
    have load := keeps_winLoad (s := s) rfl (s.who s.cur) (winOf cl off) pa va
    split
    · simp
    · split
      · rfl
      · split
        · split <;> rfl
        · split
          · rfl
          · split
            · simp
            · split
              next e => rw [e] at load; simpa using load
              next e => rw [e] at load; simpa using load
              next => rfl
  · rfl

@[simp] theorem agendaAfter_dataForCtx (s : State) (c : Nat) : agendaAfter (s.dataForCtx c) = some s.agenda := by
  simp only [State.dataForCtx]
  split
  next pa _ =>
    split
    · rfl
    next q t reply =>
      have taken := takeReply_agenda reply
      split
      · simpa using taken
      · have datum := keeps_takeDatum taken 1 (t.partOf (c / 4)) (c / 4) pa (s.ctx c).awaits (q.datum 0)
        split
        next e => rw [e] at datum; simpa using datum
        next e => rw [e] at datum; simpa using datum
  · rfl

@[simp] theorem State.dataForMt_agenda (s : State) (c i : Nat) : (s.dataForMt c i).agenda = s.agenda := by
  simp only [State.dataForMt]
  split
  · rfl
  · split
    · rfl
    · split
      · rfl
      next n _ pa _ _ q t reply =>
        have taken := takeReply_agenda reply
        split
        · simpa using taken
        · have datum := keeps_takeDatum taken 2 (t.partOf (c / 4)) (c / 4) pa n (q.datum 0)
          split
          next e => rw [e] at datum; simpa using datum
          next e => rw [e] at datum; split <;> simpa using datum

theorem keeps_srcGiven {l : List Action} {s : State} (h : s.agenda = l) (c k pa : Nat) (b : Bool) :
    TryKeeps l (s.srcGiven c k pa b) := by
  simp only [State.srcGiven]
  split
  · have src := keeps_streamSrc h c k b
    split
    next e => rw [e] at src; exact src
    next e => rw [e] at src; exact src
    next e => rw [e] at src; exact src
    next => exact h
  · split
    · exact h
    next q t reply =>
      have taken := (takeReply_agenda reply).trans h
      split
      · exact taken
      · have datum := fun n => keeps_takeDatum taken 2 (t.partOf (c / 4)) (c / 4) pa n (q.datum 0)
        split
        next e => have := e ▸ datum _; exact this
        next e => have := e ▸ datum _; exact this

theorem keeps_streamGiven {l : List Action} {s : State} (h : s.agenda = l) (c k pa pb : Nat) (two : Bool) :
    ExceptAll (·.2.agenda = l) (·.2.2.agenda = l) (s.streamGiven c k pa pb two) := by
  have one := keeps_srcGiven h c k pa false
  unfold State.streamGiven
  split
  next e => rw [e] at one; exact one
  next t e =>
    rw [e] at one
    split
    · have other := keeps_srcGiven one c k pb true
      split
      next e => rw [e] at other; exact other
      next e => rw [e] at other; exact other
    · exact one

@[simp] theorem State.dataForElem_agenda (s : State) (c k : Nat) : (s.dataForElem c k).agenda = s.agenda := by
  simp only [State.dataForElem]
  split
  next i ra _ _ _ _ _ =>
    split
    · rfl
    · split
      · have given := keeps_streamGiven (s := s) rfl c k (look (0, 0) (s.ctx c).cap.got k).1.toNat
          (look (0, 0) (s.ctx c).cap.got k).2.toNat (streamTwo (bits ra 0 4))
        split
        next e => rw [e] at given; simpa using given
        next e => rw [e] at given; simpa using given
        next e => rw [e] at given; exact given
      · split
        · rfl
        next q t reply =>
          have taken := takeReply_agenda reply
          split
          · simpa using taken
          · have datum := keeps_takeDatum taken 2 (t.partOf (c / 4)) (c / 4) (look (0, 0) (s.ctx c).cap.got k).1.toNat
              (elemForm i).1 (q.datum 0)
            split
            next e => rw [e] at datum; simpa using datum
            next e => rw [e] at datum; simpa using datum
  · rfl

@[simp] theorem State.dataForFw_agenda (s : State) (c : Nat) : (s.dataForFw c).agenda = s.agenda := by
  simp only [State.dataForFw]
  split
  · rfl
  next pa _ =>
    split
    · rfl
    next q t reply =>
      have taken := takeReply_agenda reply
      split
      · simpa using taken
      · have datum := keeps_takeDatum taken 2 (t.partOf (c / 4)) (c / 4) pa 8 (q.datum 0)
        split
        next e => rw [e] at datum; simpa using datum
        next e => rw [e] at datum; simpa using datum

@[simp] theorem State.postDone_agenda (s : State) (n : Nat) : (s.postDone n).agenda = s.agenda := by
  simp only [State.postDone]
  split
  · rfl
  · split
    · split
      · rfl
      next reply =>
        have taken := takeReply_agenda reply
        split <;> simpa using taken
    · rfl

/-! ### Commands -/

@[simp] theorem State.bell_agenda (s : State) (m : Nat) : (s.bell m).agenda = s.agenda := by
  simp [State.bell]

@[simp] theorem State.barRead_agenda (s : State) (f off : Nat) : (s.barRead f off).agenda = s.agenda := by
  simp only [State.barRead]
  split <;> simp

theorem agendaAfter_command {s : State} (op : Nat) {ready : Nat → List Word → Bool} {f : Nat → List Word → Option State}
    (keeps : ∀ m q, OptKeeps s.agenda (f m q)) : agendaAfter (s.command op ready f) = some s.agenda := by
  simp only [State.command]
  split
  · rfl
  next q _ _ =>
    split
    · rfl
    · split
      · simp
      · split
        · rfl
        · have made := keeps s.arg.unit q
          split
          next e => rw [e] at made; simpa using made
          next => simp

theorem agendaAfter_command1 {s : State} (op : Nat) {f : Nat → List Word → Option State}
    (keeps : ∀ m q, OptKeeps s.agenda (f m q)) : agendaAfter (s.command1 op f) = some s.agenda :=
  agendaAfter_command op keeps

theorem agendaAfter_command1' {s : State} (op : Nat) {f : Nat → List Word → Except State State}
    (keeps : ∀ m q, ExceptAll (·.agenda = s.agenda) (·.agenda = s.agenda) (f m q)) :
    agendaAfter (s.command1' op f) = some s.agenda := by
  simp only [State.command1']
  split
  · rfl
  next q _ _ =>
    split
    · rfl
    · split
      · simp
      · have made := keeps s.arg.unit q
        split
        next e => rw [e] at made; simpa using made
        next e => rw [e] at made; simpa using made

@[simp] theorem State.noteImages_agenda (s : State) (r : Nat) : (s.noteImages r).agenda = s.agenda := by
  simp [State.noteImages]

@[simp] theorem State.pclearRange_agenda (s : State) (a stop : Nat) (all : Bool) :
    (s.pclearRange a stop all).agenda = s.agenda := by rfl

@[simp] theorem State.carryPoison_agenda (s : State) (slot q : Nat) : (s.carryPoison slot q).agenda = s.agenda := by
  simp [State.carryPoison]

@[simp] theorem State.lineDone_agenda (s : State) (r : Retire) (ch : Nat) : (s.lineDone r ch).agenda = s.agenda := by
  simp only [State.lineDone]
  split
  · simp
  · rfl

@[simp] theorem State.settleLines_agenda (s : State) : s.settleLines.agenda = s.agenda := by
  unfold State.settleLines
  split
  · rfl
  · refine foldl_agenda (fun t e => ?_) _ s
    split <;> simp

/-! ### Requests of the host and of other modules -/

@[simp] theorem hostDw_agenda (s : State) (part pa : Nat) : (s.hostDw part pa).2.2.agenda = s.agenda := by
  have acc := keeps_memAccess (s := s) rfl (hostWho part) { pa := pa, skew := 0, attr := 0 } (BitVec.ofNat 64 pa)
    (.load 8)
  simp only [State.hostDw]
  split
  next e => rw [e] at acc; exact acc
  next e => rw [e] at acc; simpa using acc
  next => rfl

@[simp] theorem hostDws_agenda (part n : Nat) (s : State) (pa : Nat) : (s.hostDws part pa n).2.2.agenda = s.agenda := by
  induction n generalizing s pa with
  | zero => rfl
  | succ n ih => exact (ih _ _).trans (hostDw_agenda s part pa)

@[simp] theorem State.hostPutDw_agenda (s : State) (part pa : Nat) (v : Word) (mask : Nat) :
    (s.hostPutDw part pa v mask).agenda = s.agenda := by
  simp only [State.hostPutDw]
  split
  · rfl
  · split
    · rfl
    · split
      next bad =>
        split at bad
        · exact nomatch bad
        · exact badCheck_agenda bad
      next => simp

@[simp] theorem State.hostPut_agenda (part mask : Nat) (l : List Word) (s : State) (pa k : Nat) :
    (s.hostPut part mask pa k l).agenda = s.agenda := by
  induction l generalizing s pa k with
  | nil => rfl
  | cons v l ih => rw [State.hostPut, ih, State.hostPutDw_agenda]

@[simp] theorem State.hostArrive_agenda (s : State) (q : HostReq) : (s.hostArrive q).agenda = s.agenda := by
  simp [State.hostArrive]

@[simp] theorem State.hostServe_agenda (s : State) (q : HostReq) : (s.hostServe q).agenda = s.agenda := by
  simp only [State.hostServe]
  split
  · rfl
  · split <;> simp

@[simp] theorem remotePut_agenda (w : Who) (whole : Nat → Bool) (l : List (Nat × Datum)) (s : State) :
    (s.remotePut w whole l).2.agenda = s.agenda := by
  induction l generalizing s with
  | nil => rfl
  | cons e l ih =>
    simp only [State.remotePut]
    split
    · split
      · simp [ih]
      · rfl
    · simp [ih]

@[simp] theorem State.remoteSettle_agenda (s : State) (whole : Nat → Bool) (l : List (Nat × Datum)) :
    (s.remoteSettle whole l).agenda = s.agenda := by
  simp [State.remoteSettle]

@[simp] theorem State.say_agenda (s : State) (code : Nat) (w : List Word) : (s.say code w).agenda = s.agenda := by rfl
@[simp] theorem State.setTdisp_agenda (s : State) (p : Nat) (t : Tdisp) : (s.setTdisp p t).agenda = s.agenda := by rfl

@[simp] theorem State.stopGangs_agenda (s : State) (p : Nat) : (s.stopGangs p).agenda = s.agenda := by
  simp [State.stopGangs]

@[simp] theorem State.beginDiscard_agenda (s : State) (r : Nat) : (s.beginDiscard r).agenda = s.agenda := by
  simp only [State.beginDiscard]
  split
  · simp
  · rfl

@[simp] theorem State.fallToError_agenda (s : State) (p trigger : Nat) : (s.fallToError p trigger).agenda = s.agenda := by
  simp only [State.fallToError]
  split
  · rw [foldl_agenda fun t r => t.withdraw_agenda r, foldl_agenda fun t r => t.beginDiscard_agenda r]
    exact (foldl_agenda (fun _ _ => by simp) _ _).trans (by simp)
  · rfl

/-! ### Links and collectives -/

@[simp] theorem State.portRecord_agenda (s : State) (code port : Nat) (detail : List Nat) :
    (s.portRecord code port detail).agenda = s.agenda := by rfl

@[simp] theorem State.settlePend_agenda (s : State) (own : Bool) (q : RemoteReq) :
    (s.settlePend own q).agenda = s.agenda := by rfl

@[simp] theorem State.packetIn_agenda (s : State) (p : Nat) (l : List Datum) : (s.packetIn p l).agenda = s.agenda := by
  simp only [State.packetIn]
  split
  · split <;> simp
  · simp

@[simp] theorem State.payloadIn_agenda (s : State) (p : Nat) (data : List Datum) :
    (s.payloadIn p data).agenda = s.agenda := by
  simp [State.payloadIn]

@[simp] theorem State.replay_agenda (s : State) (p e : Nat) : (s.replay p e).agenda = s.agenda := by
  simp [State.replay]

@[simp] theorem State.cutPend_agenda (s : State) (p : Pend) : (s.cutPend p).agenda = s.agenda := by
  unfold State.cutPend
  split <;> simp

@[simp] theorem State.goDown_agenda (s : State) (p d : Nat) (l : LinkDir) : (s.goDown p d l).agenda = s.agenda := by
  simp [State.goDown]

theorem keeps_collRead {l : List Action} {s : State} (h : s.agenda = l) (part : Nat) (combines : Bool) (n : Nat)
    (pa : Nat) (ds : List Datum) : ExceptAll (·.2.agenda = l) (fun _ => True) (s.collRead part combines pa n ds) := by
  induction n generalizing pa ds with
  | zero => trivial
  | succ n ih =>
    simp only [State.collRead]
    split
    · exact h
    · split
      · exact h
      · split
        · simp [h]
        · exact ih ..

theorem keeps_ownPart {l : List Action} {s : State} (h : s.agenda = l) (g : Group) (d : List Word) :
    ExceptAll (·.2.agenda = l) (fun _ => True) (s.ownPart g d) := by
  unfold State.ownPart
  split
  · trivial
  · exact keeps_collRead h ..

@[simp] theorem State.collPut_agenda (part : Nat) (d : List Word) (r : List Datum) (l : List Nat) (s : State) :
    (s.collPut part d r l).agenda = s.agenda := by
  induction l generalizing s with
  | nil => rfl
  | cons k l ih => simp [State.collPut, ih]

@[simp] theorem State.collWrite_agenda (s : State) (part : Nat) (d : List Word) (r : List Datum) (l : List Nat) :
    (s.collWrite part d r l).agenda = s.agenda := by
  simp [State.collWrite]

@[simp] theorem State.contribute_agenda (s : State) (n : Nat) (r : Round) (own : List Datum) :
    (s.contribute n r own).agenda = s.agenda := by
  simp [State.contribute]

theorem contribBad_agenda {s : State} {g : Group} {d : List Word} {parts : List (List Datum)} {p : BitVec 8 × State}
    (h : s.contribBad g d parts = some p) : p.2.agenda = s.agenda := by
  simp only [State.contribBad] at h
  split at h
  · exact nomatch h
  · split at h
    · simp [← Option.some.inj h]
    · split at h
      · simp [← Option.some.inj h]
      · exact nomatch h

@[simp] theorem State.endRound_agenda (s : State) (n : Nat) (d : List Word) (cause : BitVec 8) :
    (s.endRound n d cause).agenda = s.agenda := by
  simp [State.endRound]

@[simp] theorem State.abortFirst_agenda (s : State) (n : Nat) (d : List Word) (cause : BitVec 8) :
    (s.abortFirst n d cause).agenda = s.agenda := by
  simp [State.abortFirst]

@[simp] theorem State.closeRound_agenda (s : State) (n : Nat) (r : Round) : (s.closeRound n r).agenda = s.agenda := by
  simp only [State.closeRound]
  split
  · rfl
  · split
    · simp
    · split
      next bad => simpa using contribBad_agenda bad
      next => simp
      next => simp

@[simp] theorem State.partialResult_agenda (s : State) (n : Nat) (r : Round) :
    (s.partialResult n r).agenda = s.agenda := by
  simp [State.partialResult]

/-! ### Events of memory -/

@[simp] theorem State.writeBacks_agenda (s : State) (x ch : Nat) : (s.writeBacks x ch).agenda = s.agenda := by
  simp [State.writeBacks]

@[simp] theorem State.scrubSector_agenda (s : State) (x ch pa f : Nat) :
    (s.scrubSector x ch pa f).agenda = s.agenda := by
  simp [State.scrubSector]

@[simp] theorem State.fullerTurn_agenda (s : State) (x ch : Nat) : (s.fullerTurn x ch).agenda = s.agenda := by
  simp only [State.fullerTurn]
  split <;> simp

@[simp] theorem State.readMoving_agenda (s : State) (n ch : Nat) : (s.readMoving n ch).agenda = s.agenda := by
  unfold State.readMoving
  split <;> simp

@[simp] theorem State.remapTurn_agenda (s : State) (r : Retire) (ch slot : Nat) :
    (s.remapTurn r ch slot).agenda = s.agenda := by
  simp [State.remapTurn]

@[simp] theorem State.performReq_agenda (s : State) (q : ChanReq) (uncorrectable : Bool) :
    (s.performReq q uncorrectable).agenda = s.agenda := by
  unfold State.performReq
  split <;> simp

@[simp] theorem State.reach_agenda (s : State) (q : ChanReq) : (s.reach q).agenda = s.agenda := by
  unfold State.reach
  split <;> simp

@[simp] theorem State.serveSlot_agenda (s : State) (k p : Nat) : (s.serveSlot k p).agenda = s.agenda := by
  simp [State.serveSlot]

@[simp] theorem State.partSlot_agenda (s : State) (k : Nat) (e : Byte) : (s.partSlot k e).agenda = s.agenda := by
  unfold State.partSlot
  split <;> simp

@[simp] theorem State.reqArrives_agenda (s : State) (q : ChanReq) : (s.reqArrives q).agenda = s.agenda := by
  simp [State.reqArrives]

@[simp] theorem State.dieMoving_agenda (s : State) (r : Retire) : (s.dieMoving r).agenda = s.agenda := by rfl
@[simp] theorem State.dieInPlace_agenda (s : State) (x : Nat) : (s.dieInPlace x).agenda = s.agenda := by rfl

@[simp] theorem State.emptyWay_agenda (s : State) (l2 : Bool) (n way : Nat) :
    (s.emptyWay l2 n way).agenda = s.agenda := by
  simp [State.emptyWay]

/-! ### Resets -/

@[simp] theorem State.withRetired_agenda (s : State) (x : Nat) : (s.withRetired x).agenda = s.agenda := by rfl

@[simp] theorem State.coreFails_agenda (s : State) (core : Nat) : (s.coreFails core).agenda = s.agenda := by
  simp [State.coreFails]

@[simp] theorem State.loadStacks_agenda (s : State) (i : CfgImage) : (s.loadStacks i).agenda = s.agenda := by
  simp [State.loadStacks]

@[simp] theorem State.keepModel_agenda (s t : State) : (s.keepModel t).agenda = s.agenda := by rfl
@[simp] theorem State.enumerate_agenda (s : State) : s.enumerate.agenda = s.agenda := by rfl

@[simp] theorem State.coreOut_agenda (s : State) (core : Nat) : (s.coreOut core).agenda = s.agenda := by
  simp [State.coreOut]

/-! ### Turns of other agents -/

theorem fillCode_agenda (s : State) (w : Who) (t : Tr) (va : Word) {take : State → State}
    (h : ∀ u, (take u).agenda = u.agenda) : (s.fillCode w t va take).agenda = s.agenda := by
  simp [State.fillCode, h]

@[simp] theorem State.fillI_agenda (s : State) (c : Nat) (va : Word) : (s.fillI c va).agenda = s.agenda := by
  simp only [State.fillI]
  split
  · split
    · exact fillCode_agenda _ _ _ _ fun u => by simp
    · rfl
  · rfl

@[simp] theorem State.fillF_agenda (s : State) (c : Nat) (va : Word) : (s.fillF c va).agenda = s.agenda := by
  simp only [State.fillF]
  split
  · exact fillCode_agenda _ _ _ _ fun u => by simp
  · rfl

@[simp] theorem State.fillB_agenda (s : State) (c : Nat) (va : Word) : (s.fillB c va).agenda = s.agenda := by
  simp only [State.fillB]
  split
  · split
    · rfl
    · exact fillCode_agenda _ _ _ _ fun u => by simp
  · rfl

@[simp] theorem State.fillT_agenda (s : State) (c : Nat) (va : Word) : (s.fillT c va).agenda = s.agenda := by
  simp only [State.fillT]
  split
  · simp
  · split
    · rfl
    · split <;> simp

@[simp] theorem State.evict_agenda (s : State) (c sector : Nat) : (s.evict c sector).agenda = s.agenda := by
  simp only [State.evict]
  split
  · rfl
  · split
    · rfl
    · simp

@[simp] theorem State.gate_agenda (s : State) (u : Nat) : (s.gate u).agenda = s.agenda := by
  simp only [State.gate]
  split
  · rfl
  · split
    · split
      · split <;> rfl
      · simp
    · split
      · split <;> rfl
      · simp

@[simp] theorem State.setSlot_agenda (s : State) (key : Nat) (b : Byte) : (s.setSlot key b).agenda = s.agenda := by
  simp [State.setSlot]

@[simp] theorem State.setShare_agenda (s : State) (die w : Nat) : (s.setShare die w).agenda = s.agenda := by
  simp [State.setShare]

end Sys2Proof.Machine
end

section
/-!
PROOFS. What an instruction and a step of another agent leave on the agenda (R195): each answers a next state, with the agenda
as it was.
-/

namespace Sys2Proof.Machine

/-! ### Control threads and micro-threads -/

theorem agendaAfter_execCallt (rd ra rb : RegNo) (s : State) : agendaAfter (execCallt rd ra rb s) = some s.agenda := by
  have acc := keeps_access (s := s) rfl s.me.fnbase (.load 8) true
  unfold execCallt
  split
  next e => rw [e] at acc; simpa using acc
  next e => rw [e] at acc; simpa using acc
  next => exact agendaAfter_other rfl acc

theorem agendaAfter_execLoop (ra : RegNo) (imm : BitVec 12) (s : State) :
    agendaAfter (execLoop ra imm s) = some s.agenda := by
  simp [execLoop]

theorem agendaAfter_execEndloop (s : State) : agendaAfter (execEndloop s) = some s.agenda := by
  simp only [execEndloop]
  split <;> simp

theorem agendaAfter_execSetvl (rd ra : RegNo) (s : State) : agendaAfter (execSetvl rd ra s) = some s.agenda := by
  simp [execSetvl]

theorem agendaAfter_execVsync (rd : RegNo) (s : State) : agendaAfter (execVsync rd s) = some s.agenda := by
  simp [execVsync]

theorem agendaAfter_execVget (rd ra : RegNo) (item : BitVec 8) (s : State) :
    agendaAfter (execVget rd ra item s) = some s.agenda := agendaAfter_single _ _ _ fun _ _ => by simp

theorem agendaAfter_execVput (ra rb : RegNo) (item : BitVec 8) (s : State) :
    agendaAfter (execVput ra rb item s) = some s.agenda := by
  unfold execVput
  split
  · simp
  · exact agendaAfter_single _ _ _ fun _ _ => by simp

theorem agendaAfter_execVldb (wd ra : RegNo) (s : State) : agendaAfter (execVldb wd ra s) = some s.agenda := by
  simp [execVldb]

theorem agendaAfter_execStream (ra rb : RegNo) (s : State) : agendaAfter (execStream ra rb s) = some s.agenda := by
  simp [execStream]

theorem agendaAfter_execCopyj (rd ra rb : RegNo) (s : State) : agendaAfter (execCopyj rd ra rb s) = some s.agenda := by
  have card := keeps_readCard (s.rx ra) (20 - (s.me.card.getD []).length) (s := s) rfl (s.me.card.getD [])
  simp only [execCopyj]
  split
  next e => rw [e] at card; exact card
  next =>
    split
    · simp
    · split
      next e => rw [e] at card; split <;> simpa using card
      next e => rw [e] at card; exact card
      next e => rw [e] at card; exact card

theorem agendaAfter_execGleanj (rd ra rb : RegNo) (s : State) :
    agendaAfter (execGleanj rd ra rb s) = some s.agenda := by
  simp [execGleanj]

theorem agendaAfter_execLclaim (rd ra : RegNo) (s : State) : agendaAfter (execLclaim rd ra s) = some s.agenda := by
  unfold execLclaim
  extract_lets v n
  rw [ite_agendaAfter]
  split
  · simp
  · split <;> simp

theorem agendaAfter_execLrelease (ra : RegNo) (s : State) : agendaAfter (execLrelease ra s) = some s.agenda := by
  unfold execLrelease
  split <;> simp

theorem agendaAfter_execLzero (ra : RegNo) (s : State) : agendaAfter (execLzero ra s) = some s.agenda := by
  simp [execLzero]

theorem agendaAfter_execLmmaO (ra rb : RegNo) (s : State) : agendaAfter (execLmmaO ra rb s) = some s.agenda := by
  simp [execLmmaO]

theorem agendaAfter_execLmmaR (ra rb : RegNo) (s : State) : agendaAfter (execLmmaR ra rb s) = some s.agenda := by
  simp [execLmmaR]

theorem agendaAfter_execLdrain (rd ra : RegNo) (s : State) : agendaAfter (execLdrain rd ra s) = some s.agenda := by
  simp [execLdrain]

theorem agendaAfter_execFence (ra : RegNo) (s : State) : agendaAfter (execFence ra s) = some s.agenda := by
  simp [execFence]

theorem agendaAfter_execBarr (ra : RegNo) (s : State) : agendaAfter (execBarr ra s) = some s.agenda := by
  simp [execBarr]

theorem agendaAfter_execGbar (s : State) : agendaAfter (execGbar s) = some s.agenda := by
  simp [execGbar]

theorem agendaAfter_execVote (rd ra : RegNo) (comb : BitVec 3) (s : State) :
    agendaAfter (execVote rd ra comb s) = some s.agenda := by
  simp [execVote]

theorem agendaAfter_execWait (ra rb : RegNo) (s : State) : agendaAfter (execWait ra rb s) = some s.agenda := by
  have acc := keeps_access (s := s) rfl (s.rx ra) (.load 8) true
  unfold execWait
  split
  next e => rw [e] at acc; simpa using acc
  next e => rw [e] at acc; simpa using acc
  next e => rw [e] at acc; simpa using acc
  next => exact agendaAfter_other rfl acc

theorem agendaAfter_execWake (ra : RegNo) (s : State) : agendaAfter (execWake ra s) = some s.agenda := by
  have tr := keeps_translate (s := s) rfl (s.who s.cur) (s.rx ra) .r
  simp only [execWake]
  split
  · simp
  · split
    · simp
    · split
      next e => rw [e] at tr; simpa using tr
      next e => rw [e] at tr; simpa using tr
      next e => rw [e] at tr; simpa using tr
      next e => rw [e] at tr; split <;> simpa using tr

theorem agendaAfter_execLpatch (ra rb : RegNo) (field : BitVec 3) (s : State) :
    agendaAfter (execLpatch ra rb field s) = some s.agenda := by
  simp [execLpatch]

theorem agendaAfter_execLarm (ra : RegNo) (s : State) : agendaAfter (execLarm ra s) = some s.agenda := by
  simp [execLarm]

theorem agendaAfter_execTrap (code : BitVec 8) (s : State) : agendaAfter (execTrap code s) = some s.agenda := by
  simp [execTrap]

theorem agendaAfter_execEret (s : State) : agendaAfter (execEret s) = some s.agenda := by
  simp only [execEret]
  split
  · simp
  · split
    · simp
    · rfl

theorem agendaAfter_execUpret (s : State) : agendaAfter (execUpret s) = some s.agenda := by
  simp [execUpret]

theorem agendaAfter_execIrefresh (s : State) : agendaAfter (execIrefresh s) = some s.agenda := by
  simp [execIrefresh]

theorem agendaAfter_execWSt {s : State} {b : Blk} (blk : s.myMt.blk = some b) (h : WHdr) (wd wa wb : RegNo)
    (wid : BitVec 2) :
    agendaAfter (execWSt h wd wa wb wid s) = some s.agenda := by
  refine agendaAfter_word blk _ ?_
  split
  · rfl
  · split
    · rfl
    · split
      · rfl
      · split <;> rfl

theorem agendaAfter_execWSpld {s : State} {b : Blk} (blk : s.myMt.blk = some b) (h : WHdr) (wd wa wb : RegNo) :
    agendaAfter (execWSpld h wd wa wb s) = some s.agenda := by
  refine agendaAfter_word blk h ?_
  split
  · rfl
  · split
    · rfl
    · split
      · rfl
      · split
        · simp
        · split
          · rfl
          · split <;> simp

theorem agendaAfter_execWSpst {s : State} {b : Blk} (blk : s.myMt.blk = some b) (h : WHdr) (wd wa wb : RegNo) :
    agendaAfter (execWSpst h wd wa wb s) = some s.agenda := by
  refine agendaAfter_word blk h ?_
  split
  · rfl
  · split
    · rfl
    · split
      · rfl
      · split
        · rfl
        · split <;> simp

theorem agendaAfter_execWThfetchr {s : State} {b : Blk} (blk : s.myMt.blk = some b) (h : WHdr) (wa : RegNo) :
    agendaAfter (execWThfetchr h wa s) = some s.agenda := by
  refine agendaAfter_word blk _ ?_
  split <;> rfl

/-! ### Steps of other agents -/

theorem agendaAfter_execEmulationTrip (s : State) : agendaAfter (execEmulationTrip s) = some s.agenda := by
  simp only [execEmulationTrip]
  split
  · split
    · rfl
    · split
      · rfl
      · simp
  · rfl

theorem agendaAfter_execPostedStoreFault (s : State) : agendaAfter (execPostedStoreFault s) = some s.agenda := by
  simp only [execPostedStoreFault]
  split
  · simp
  · rfl

theorem agendaAfter_execPromptTrap (s : State) : agendaAfter (execPromptTrap s) = some s.agenda := by
  simp only [execPromptTrap]
  split
  · simp
  · rfl

theorem agendaAfter_execVsyncReturn (s : State) : agendaAfter (execVsyncReturn s) = some s.agenda := by
  simp only [execVsyncReturn]
  split
  · simp
  · rfl

theorem agendaAfter_execVsyncTimeout (s : State) : agendaAfter (execVsyncTimeout s) = some s.agenda := by
  simp only [execVsyncTimeout]
  split
  · simp
  · rfl

theorem agendaAfter_execVectorRequestPacket (s : State) : agendaAfter (execVectorRequestPacket s) = some s.agenda := by
  simp only [execVectorRequestPacket]
  split
  · split
    · split
      · simp
      · rfl
    · simp
  · rfl

theorem agendaAfter_execVectorAccessDone (s : State) : agendaAfter (execVectorAccessDone s) = some s.agenda := by
  simp only [execVectorAccessDone]
  split
  · simp
  · rfl

theorem agendaAfter_execBlockBegin (s : State) : agendaAfter (execBlockBegin s) = some s.agenda := by
  unfold execBlockBegin
  extract_lets c i x
  split
  · rfl
  · split
    · split
      · rw [ite_agendaAfter]
        simp
      · rw [ite_agendaAfter]
        extract_lets k t e held u v
        have hu : u.agenda = s.agenda := by simp [u, t]
        clear_value u
        have hv : v.agenda = s.agenda := by
          simp only [v]
          split
          · simp [hu]
          · exact hu
        simp [hv]
    · rfl

theorem agendaAfter_execBlockCommit (s : State) : agendaAfter (execBlockCommit s) = some s.agenda := by
  simp only [execBlockCommit]
  split
  · rfl
  next b _ =>
    split
    · rfl
    · split
      · simp
      · split
        · simp
        · split
          · simp
          · split
            next bad =>
              split at bad
              · exact nomatch bad
              · simpa using narrowBad_agenda bad
            next =>
              have commit := keeps_commitStores (s := s) s.arg.unit s.arg.index b.localStores rfl b.w b.dirty
              split
              · simp
              · simp
              next e =>
                rw [e] at commit
                split
                · simp
                · simpa using commit

theorem agendaAfter_execSetvlGrantReturn (s : State) : agendaAfter (execSetvlGrantReturn s) = some s.agenda := by
  simp only [execSetvlGrantReturn]
  split
  · split
    · simp
    · split
      · split
        next fails => simp [spillFails_agenda fails]
        next => simp
      · rfl
  · rfl

theorem agendaAfter_execLaneRotation (s : State) : agendaAfter (execLaneRotation s) = some s.agenda := by
  simp only [execLaneRotation]
  split
  · split
    · simp
    · rfl
  · rfl

theorem agendaAfter_execSpillComplete (s : State) : agendaAfter (execSpillComplete s) = some s.agenda := by
  simp [execSpillComplete]

theorem agendaAfter_execRestoreComplete (s : State) : agendaAfter (execRestoreComplete s) = some s.agenda := by
  simp only [execRestoreComplete]
  split
  · split
    next fails => simp [spillFails_agenda fails]
    next => simp
  · rfl

theorem agendaAfter_execLaneClearingDone (s : State) : agendaAfter (execLaneClearingDone s) = some s.agenda := by
  simp only [execLaneClearingDone]
  split
  · rfl
  · simp only [agendaAfter_next, State.poolStep_agenda]
    split
    · simp
    · split <;> simp

theorem agendaAfter_execFrameBoundary (s : State) : agendaAfter (execFrameBoundary s) = some s.agenda := by
  simp [execFrameBoundary]

theorem agendaAfter_execRevocationDeadline (s : State) : agendaAfter (execRevocationDeadline s) = some s.agenda := by
  simp [execRevocationDeadline]

theorem agendaAfter_execContextSave (s : State) : agendaAfter (execContextSave s) = some s.agenda := by
  simp [execContextSave]

theorem agendaAfter_execSysRevocation (s : State) : agendaAfter (execSysRevocation s) = some s.agenda := by
  simp [execSysRevocation]

theorem agendaAfter_execLaneRetirement (s : State) : agendaAfter (execLaneRetirement s) = some s.agenda := by
  simp [execLaneRetirement]

theorem agendaAfter_execPowerPressure (s : State) : agendaAfter (execPowerPressure s) = some s.agenda := by
  simp [execPowerPressure]

theorem agendaAfter_execPowerPressureEnd (s : State) : agendaAfter (execPowerPressureEnd s) = some s.agenda := by
  simp [execPowerPressureEnd]

theorem agendaAfter_execClockHop (s : State) : agendaAfter (execClockHop s) = some s.agenda := by
  simp only [execClockHop]
  split <;> simp

theorem agendaAfter_execDroopDuringHop (s : State) : agendaAfter (execDroopDuringHop s) = some s.agenda := by
  simp only [execDroopDuringHop]
  split
  · simp
  · rfl

theorem agendaAfter_execClockHopRetry (s : State) : agendaAfter (execClockHopRetry s) = some s.agenda := by
  simp only [execClockHopRetry]
  split
  · simp
  · rfl

theorem agendaAfter_execFenceReturn (s : State) : agendaAfter (execFenceReturn s) = some s.agenda := by
  simp only [execFenceReturn]
  split
  · simp
  · rfl

theorem agendaAfter_execBarrierComplete (s : State) : agendaAfter (execBarrierComplete s) = some s.agenda := by
  unfold execBarrierComplete
  split <;> simp

theorem agendaAfter_execGbarComplete (s : State) : agendaAfter (execGbarComplete s) = some s.agenda := by
  unfold execGbarComplete
  split <;> simp

theorem agendaAfter_execVoteComplete (s : State) : agendaAfter (execVoteComplete s) = some s.agenda := by
  unfold execVoteComplete
  split <;> simp

theorem agendaAfter_execBarrierTimeout (s : State) : agendaAfter (execBarrierTimeout s) = some s.agenda := by
  unfold execBarrierTimeout
  split <;> simp

theorem agendaAfter_execWaitReturn (s : State) : agendaAfter (execWaitReturn s) = some s.agenda := by
  simp only [execWaitReturn]
  split
  next va _ =>
    split
    · simp
    · split
      · simp
      · split
        · rfl
        · have acc := keeps_access (s := { s with cur := s.arg.unit }) rfl va (.load 8) true
          split
          next e => rw [e] at acc; simpa using acc
          next => exact agendaAfter_other rfl acc
  · rfl

theorem agendaAfter_execHubLpatchRequest (s : State) : agendaAfter (execHubLpatchRequest s) = some s.agenda := by
  simp only [execHubLpatchRequest]
  split
  · simp
  · rfl

theorem agendaAfter_execHubLarmRequest (s : State) : agendaAfter (execHubLarmRequest s) = some s.agenda := by
  simp only [execHubLarmRequest]
  split
  · simp
  · rfl

theorem agendaAfter_execHaltDrainEnd (s : State) : agendaAfter (execHaltDrainEnd s) = some s.agenda := by
  simp only [execHaltDrainEnd]
  split
  · simp
  · rfl

theorem agendaAfter_execDoneMessage (s : State) : agendaAfter (execDoneMessage s) = some s.agenda := by
  simp [execDoneMessage]

theorem agendaAfter_execAgingTick (s : State) : agendaAfter (execAgingTick s) = some s.agenda := by
  simp [execAgingTick]

theorem agendaAfter_execRetentionRelease (s : State) : agendaAfter (execRetentionRelease s) = some s.agenda := by
  simp [execRetentionRelease]

theorem agendaAfter_execPreemptionStop (s : State) : agendaAfter (execPreemptionStop s) = some s.agenda := by
  simp only [execPreemptionStop]
  split
  · rfl
  · simp
  · simp

theorem agendaAfter_execRollback (s : State) : agendaAfter (execRollback s) = some s.agenda := by
  simp only [execRollback]
  split
  · simp only [agendaAfter_next, State.poolsOf_agenda, scrivener_agenda, State.lowerLines_agenda]
    refine congrArg some ((foldl_agenda (fun t p => ?_) _ _).trans ?_)
    · split
      next snap => exact restoreSnapshot_agenda snap
      next => simp
    · rw [State.setRec_agenda]
      exact (foldl_agenda (fun _ _ => by simp) _ _).trans (by simp)
  · rfl

theorem agendaAfter_execDroverMove (s : State) : agendaAfter (execDroverMove s) = some s.agenda := by
  simp [execDroverMove]

theorem agendaAfter_execEwaitReturn (s : State) : agendaAfter (execEwaitReturn s) = some s.agenda := by
  simp only [execEwaitReturn]
  split
  · split
    · rfl
    · split
      · rfl
      · simp
  · rfl

theorem agendaAfter_execCopyJobComplete (s : State) : agendaAfter (execCopyJobComplete s) = some s.agenda := by
  unfold execCopyJobComplete
  split <;> simp

theorem agendaAfter_execGleanerJobComplete (s : State) : agendaAfter (execGleanerJobComplete s) = some s.agenda := by
  unfold execGleanerJobComplete
  split <;> simp

theorem agendaAfter_execPacketReport (s : State) : agendaAfter (execPacketReport s) = some s.agenda := by
  simp only [execPacketReport]
  split
  · rfl
  · split
    · rfl
    next reply =>
      have taken := takeReply_agenda reply
      simpa using taken

theorem agendaAfter_execJobStart (s : State) : agendaAfter (execJobStart s) = some s.agenda := by
  simp only [execJobStart]
  split
  · simp
  · split
    · rfl
    · simp

theorem agendaAfter_execLoomTokenWaitEnd (s : State) : agendaAfter (execLoomTokenWaitEnd s) = some s.agenda := by
  simp only [execLoomTokenWaitEnd]
  split
  · rfl
  · simp

theorem agendaAfter_execLoomChunk (s : State) : agendaAfter (execLoomChunk s) = some s.agenda := by
  simp only [execLoomChunk]
  split
  · rfl
  · split
    · rfl
    · split <;> simp

theorem agendaAfter_execTlbinvWrite (s : State) : agendaAfter (execTlbinvWrite s) = some s.agenda := by
  simp [execTlbinvWrite]

theorem agendaAfter_execWindowStoreArrival (s : State) : agendaAfter (execWindowStoreArrival s) = some s.agenda := by
  simp only [execWindowStoreArrival]
  split
  · simp
  · split
    · split
      · rfl
      · split
        · simp
        · split <;> simp
    · rfl

theorem agendaAfter_execWindowLoadArrival (s : State) : agendaAfter (execWindowLoadArrival s) = some s.agenda := by
  unfold execWindowLoadArrival
  split <;> simp

theorem agendaAfter_execLoadDataReturn (s : State) : agendaAfter (execLoadDataReturn s) = some s.agenda := by
  unfold execLoadDataReturn
  split <;> simp

theorem agendaAfter_execUnitWakeUp (s : State) : agendaAfter (execUnitWakeUp s) = some s.agenda := by
  unfold execUnitWakeUp
  split <;> simp

theorem agendaAfter_execDoorbell (s : State) : agendaAfter (execDoorbell s) = some s.agenda := by
  simp [execDoorbell]

theorem agendaAfter_execRegisterWrite (s : State) : agendaAfter (execRegisterWrite s) = some s.agenda := by
  simp [execRegisterWrite]

theorem agendaAfter_execUndefinedMailboxOpcode (s : State) :
    agendaAfter (execUndefinedMailboxOpcode s) = some s.agenda := by
  unfold execUndefinedMailboxOpcode
  split <;> simp

theorem agendaAfter_execBuild (s : State) : agendaAfter (execBuild s) = some s.agenda := by
  refine agendaAfter_command1 _ fun m q => ?_
  dsimp only
  split
  · trivial
  · split <;> simp

theorem agendaAfter_execRelease (s : State) : agendaAfter (execRelease s) = some s.agenda :=
  agendaAfter_command1 _ fun _ _ => optKeeps_guard _ (by simp)

theorem agendaAfter_execCfgstage (s : State) : agendaAfter (execCfgstage s) = some s.agenda := by
  refine agendaAfter_command1 _ fun m q => ?_
  split
  · trivial
  · split <;> simp

theorem agendaAfter_execWlogrc (s : State) : agendaAfter (execWlogrc s) = some s.agenda :=
  agendaAfter_command1 _ fun _ _ => optKeeps_guard _ (by simp)

theorem agendaAfter_execMember (s : State) : agendaAfter (execMember s) = some s.agenda :=
  agendaAfter_command1 _ fun _ _ => optKeeps_guard _ (by simp)

theorem agendaAfter_execGroup (s : State) : agendaAfter (execGroup s) = some s.agenda := by
  refine agendaAfter_command1 _ fun m q => ?_
  dsimp only
  split
  · trivial
  · split
    · trivial
    · split
      · trivial
      · split
        · trivial
        · split <;> simp

theorem agendaAfter_execColl (s : State) : agendaAfter (execColl s) = some s.agenda := by
  refine agendaAfter_command _ fun m q => ?_
  split
  · trivial
  · dsimp only
    split <;> simp

theorem agendaAfter_execSavereg (s : State) : agendaAfter (execSavereg s) = some s.agenda :=
  agendaAfter_command1 _ fun _ _ => optKeeps_guard _ (by simp)

theorem agendaAfter_execPreempt (s : State) : agendaAfter (execPreempt s) = some s.agenda := by
  simp only [execPreempt]
  split
  · rfl
  · simp

theorem agendaAfter_execResume (s : State) : agendaAfter (execResume s) = some s.agenda :=
  agendaAfter_command1 _ fun _ _ => optKeeps_guard _ (by simp)

theorem agendaAfter_execImportImg (s : State) : agendaAfter (execImportImg s) = some s.agenda := by
  refine agendaAfter_command1' _ fun m q => ?_
  dsimp only
  rw [apply_ite (ExceptAll _ _), apply_ite (ExceptAll _ _)]
  simp only [ExceptAll, State.noteImages_agenda, State.setRec_agenda, ite_self]

theorem agendaAfter_execPrq (s : State) : agendaAfter (execPrq s) = some s.agenda :=
  agendaAfter_command1 _ fun _ _ => optKeeps_guard _ (by simp)

theorem agendaAfter_execSnapreg (s : State) : agendaAfter (execSnapreg s) = some s.agenda :=
  agendaAfter_command1 _ fun _ _ => optKeeps_guard _ (by simp)

theorem agendaAfter_execPclear (s : State) : agendaAfter (execPclear s) = some s.agenda :=
  agendaAfter_command1 _ fun _ _ => optKeeps_guard _ (by simp)

theorem agendaAfter_execSummary (s : State) : agendaAfter (execSummary s) = some s.agenda := by
  exact (agendaAfter_command1 _ fun _ _ => optKeeps_guard _ (by simp)).trans (by simp)

theorem agendaAfter_execHostRequest (s : State) : agendaAfter (execHostRequest s) = some s.agenda := by
  unfold execHostRequest
  split <;> simp

theorem keeps_remoteLoad {l : List Action} {s : State} (h : s.agenda = l) (q : RemoteReq) (n : Nat) :
    RemoteKeeps l (s.remoteLoad q n) := by
  simp only [State.remoteLoad]
  split
  · trivial
  · split
    · split <;> exact h
    · simp [h]

theorem keeps_remoteWrite {l : List Action} {s : State} (h : s.agenda = l) (q : RemoteReq) (ds : List (Nat × Datum)) :
    RemoteKeeps l (s.remoteWrite q ds) := by
  have put := fun whole => remotePut_agenda (s.remoteWho q) whole ds s
  simp only [State.remoteWrite]
  split
  · trivial
  · split
    next e => simpa using (e ▸ put _).trans h
    next e => exact (e ▸ put _).trans h

theorem keeps_remoteMerge {l : List Action} {s : State} (h : s.agenda = l) (q : RemoteReq) (op : MemOp) :
    RemoteKeeps l (s.remoteMerge q op) := by
  simp only [State.remoteMerge]
  split
  · split <;> simp [h]
  · have acc := keeps_memAccess h (s.remoteWho q) { pa := q.pa, skew := 0, attr := 1 } (q.word 1) op
    split
    next e => rw [e] at acc; exact acc
    next e => rw [e] at acc; exact acc
    next => trivial

theorem keeps_remoteServe {l : List Action} {s : State} (h : s.agenda = l) (q : RemoteReq) :
    RemoteKeeps l (s.remoteServe q) := by
  simp only [State.remoteServe]
  split
  · exact h
  · split
    · exact keeps_remoteLoad h ..
    · split
      · exact keeps_remoteWrite h ..
      · exact keeps_remoteMerge h ..
    · exact keeps_remoteMerge h ..
    · exact keeps_remoteWrite h ..
    · exact keeps_remoteWrite h ..

theorem agendaAfter_execRemoteRequest (s : State) : agendaAfter (execRemoteRequest s) = some s.agenda := by
  simp only [execRemoteRequest]
  split
  · rfl
  next q _ =>
    have served := keeps_remoteServe (s := s) rfl q
    split
    · rfl
    next e => rw [e] at served; simpa using served

theorem agendaAfter_execLockInterfaceRequest (s : State) :
    agendaAfter (execLockInterfaceRequest s) = some s.agenda := by
  simp [execLockInterfaceRequest]

theorem agendaAfter_execGetDeviceInterfaceReport (s : State) :
    agendaAfter (execGetDeviceInterfaceReport s) = some s.agenda := by
  simp [execGetDeviceInterfaceReport]

theorem agendaAfter_execStartInterfaceRequest (s : State) :
    agendaAfter (execStartInterfaceRequest s) = some s.agenda := by
  simp [execStartInterfaceRequest]

theorem agendaAfter_execStopInterfaceRequest (s : State) :
    agendaAfter (execStopInterfaceRequest s) = some s.agenda := by
  simp [execStopInterfaceRequest]

theorem agendaAfter_execLockedBarWrite (s : State) : agendaAfter (execLockedBarWrite s) = some s.agenda := by
  simp [execLockedBarWrite]

theorem agendaAfter_execIdeIntegrityFailure (s : State) : agendaAfter (execIdeIntegrityFailure s) = some s.agenda := by
  simp [execIdeIntegrityFailure]

theorem agendaAfter_execSpdmMeasurement (s : State) : agendaAfter (execSpdmMeasurement s) = some s.agenda := by
  unfold execSpdmMeasurement
  split <;> simp

theorem agendaAfter_execFlitReceive (s : State) : agendaAfter (execFlitReceive s) = some s.agenda := by
  simp [execFlitReceive]

theorem agendaAfter_execAcknowledgement (s : State) : agendaAfter (execAcknowledgement s) = some s.agenda := by
  simp [execAcknowledgement]

theorem agendaAfter_execNegativeAcknowledgement (s : State) :
    agendaAfter (execNegativeAcknowledgement s) = some s.agenda := by
  simp [execNegativeAcknowledgement]

theorem agendaAfter_execLaneLost (s : State) : agendaAfter (execLaneLost s) = some s.agenda := by
  simp [execLaneLost]

theorem agendaAfter_execRetrainDone (s : State) : agendaAfter (execRetrainDone s) = some s.agenda := by
  simp only [execRetrainDone]
  split
  · rfl
  · split
    · simp
    · rfl

theorem agendaAfter_execCollectiveRoundDone (s : State) : agendaAfter (execCollectiveRoundDone s) = some s.agenda := by
  simp only [execCollectiveRoundDone]
  split
  · rfl
  next r _ =>
    split
    · simp
    · split
      · simp
      · have part := keeps_ownPart (s := s) rfl (s.group s.arg.unit) r.desc
        split
        next e => rw [e] at part; simpa using part
        next => simp

theorem agendaAfter_execCollectiveTimeout (s : State) : agendaAfter (execCollectiveTimeout s) = some s.agenda := by
  simp only [execCollectiveTimeout]
  split
  · rfl
  · simp

theorem agendaAfter_execAbortMessage (s : State) : agendaAfter (execAbortMessage s) = some s.agenda := by
  simp only [execAbortMessage]
  split
  · rfl
  · split
    · rfl
    · simp

theorem agendaAfter_execTimeSlotStart (s : State) : agendaAfter (execTimeSlotStart s) = some s.agenda := by
  simp only [execTimeSlotStart]
  split
  · simp
  · split
    · simp
    · split <;> simp

theorem agendaAfter_execChannelRequest (s : State) : agendaAfter (execChannelRequest s) = some s.agenda := by
  simp [execChannelRequest]

theorem agendaAfter_execBounceReceived (s : State) : agendaAfter (execBounceReceived s) = some s.agenda := by
  simp [execBounceReceived]

theorem agendaAfter_execStackAnswerTimeout (s : State) : agendaAfter (execStackAnswerTimeout s) = some s.agenda := by
  simp only [execStackAnswerTimeout]
  split
  · rfl
  · simp

theorem agendaAfter_execStackRetirementStart (s : State) :
    agendaAfter (execStackRetirementStart s) = some s.agenda := by
  simp [execStackRetirementStart]

theorem agendaAfter_execRetirementEnd (s : State) : agendaAfter (execRetirementEnd s) = some s.agenda := by
  simp only [execRetirementEnd]
  split <;> simp

theorem agendaAfter_execStackDead (s : State) : agendaAfter (execStackDead s) = some s.agenda := by
  simp only [execStackDead]
  split
  · simp
  · split
    · split <;> simp
    · split <;> simp

theorem agendaAfter_execWayRetirement (s : State) : agendaAfter (execWayRetirement s) = some s.agenda := by
  simp [execWayRetirement]

theorem agendaAfter_execColdReset (s : State) : agendaAfter (execColdReset s) = some s.agenda := by
  simp [execColdReset]

theorem agendaAfter_execWarmReset (s : State) : agendaAfter (execWarmReset s) = some s.agenda := by
  simp [execWarmReset]

theorem agendaAfter_execDispositionSet (s : State) : agendaAfter (execDispositionSet s) = some s.agenda := by
  simp [execDispositionSet]

/-! ### Every instruction -/

/-- An instruction of a control thread answers a next state, with the agenda as it was. -/
theorem agendaAfter_exec_of_control {i : Instr} (control : i.streamOf = .control) (s : State) :
    agendaAfter (exec i s) = some s.agenda := by
  cases i with
  | add | sub | and_ | or_ | xor_ | andn | orn | xnor | sll | srl | sra | rol | ror | slt | sltu | seq | sne | min_
  | max_ | minu | maxu | clz | ctz | popc | sextb | sexth | sextw | addi | andi | ori | xori | slli | srli | srai
  | rori | slti | sltiu | seqi | fadd | fsub | fmul | fmin | fmax | fabs | fneg | fmadd | fmsub | fnmadd | fnmsub
  | feq | flt | fle | fcvtL | fcvtLu | fcvtFromL | fcvtFromLu | fcvtW | fcvtWu | fcvtFromW | fcvtFromWu | fcvtDS
  | fcvtSD | fclass | beq | bne | blt | bge | bltu | bgeu | jal | lui | auipc | jalr | vsetc | ecfg | erd | ewait
  | abortq | halt | discover | abort => rfl
  | mul | mulh | mulhu | mulhsu | div | divu | rem | remu => exact agendaAfter_class3 ..
  | fdiv | fsqrt => exact agendaAfter_unitC _ _ _ _ _ rfl
  | lb | lh | lw | ld | lbu | lhu | lwu => exact agendaAfter_load ..
  | sb | sh | sw | sd => exact agendaAfter_store ..
  | amoadd | amoswap | amocas | amomin | amomax | amominu | amomaxu | amoand | amoor => exact agendaAfter_atomic ..
  | callt => exact agendaAfter_execCallt ..
  | loop_ => exact agendaAfter_execLoop ..
  | csrr | csrw | csrs | csrc => exact agendaAfter_csrGuard _ _ _ (by simp)
  | setvl => exact agendaAfter_execSetvl ..
  | vfetch | vloop => exact agendaAfter_broadcast ..
  | vsync => exact agendaAfter_execVsync ..
  | vget => exact agendaAfter_execVget ..
  | vput => exact agendaAfter_execVput ..
  | vld | vst | vlds | vsts | vldx | vstx => exact agendaAfter_vector ..
  | vldb => exact agendaAfter_execVldb ..
  | stream => exact agendaAfter_execStream ..
  | copyj => exact agendaAfter_execCopyj ..
  | gleanj => exact agendaAfter_execGleanj ..
  | lclaim rd ra => exact agendaAfter_execLclaim rd ra s
  | lrelease => exact agendaAfter_execLrelease ..
  | lzero => exact agendaAfter_execLzero ..
  | lmmaO => exact agendaAfter_execLmmaO ..
  | lmmaR => exact agendaAfter_execLmmaR ..
  | ldrain => exact agendaAfter_execLdrain ..
  | fence => exact agendaAfter_execFence ..
  | barr => exact agendaAfter_execBarr ..
  | vote => exact agendaAfter_execVote ..
  | wait => exact agendaAfter_execWait ..
  | wake => exact agendaAfter_execWake ..
  | lpatch => exact agendaAfter_execLpatch ..
  | larm => exact agendaAfter_execLarm ..
  | trap => exact agendaAfter_execTrap ..
  | endloop => exact agendaAfter_execEndloop ..
  | gbar => exact agendaAfter_execGbar ..
  | eret => exact agendaAfter_execEret ..
  | upret => exact agendaAfter_execUpret ..
  | irefresh => exact agendaAfter_execIrefresh ..
  | _ => exact nomatch control

/-- So does a step of another agent. -/
theorem agendaAfter_exec_of_event {i : Instr} (event : i.streamOf = .event) (s : State) :
    agendaAfter (exec i s) = some s.agenda := by
  cases i with
  | tlbinvWrite => exact agendaAfter_execTlbinvWrite ..
  | setvlGrantReturn => exact agendaAfter_execSetvlGrantReturn ..
  | vsyncReturn => exact agendaAfter_execVsyncReturn ..
  | vectorAccessDone => exact agendaAfter_execVectorAccessDone ..
  | ewaitReturn => exact agendaAfter_execEwaitReturn ..
  | fenceReturn => exact agendaAfter_execFenceReturn ..
  | barrierComplete => exact agendaAfter_execBarrierComplete ..
  | gbarComplete => exact agendaAfter_execGbarComplete ..
  | voteComplete => exact agendaAfter_execVoteComplete ..
  | waitReturn => exact agendaAfter_execWaitReturn ..
  | hubLpatchRequest => exact agendaAfter_execHubLpatchRequest ..
  | hubLarmRequest => exact agendaAfter_execHubLarmRequest ..
  | haltDrainEnd => exact agendaAfter_execHaltDrainEnd ..
  | doneMessage => exact agendaAfter_execDoneMessage ..
  | blockBegin => exact agendaAfter_execBlockBegin ..
  | blockCommit => exact agendaAfter_execBlockCommit ..
  | loadDataReturn => exact agendaAfter_execLoadDataReturn ..
  | laneRotation => exact agendaAfter_execLaneRotation ..
  | spillComplete => exact agendaAfter_execSpillComplete ..
  | restoreComplete => exact agendaAfter_execRestoreComplete ..
  | laneClearingDone => exact agendaAfter_execLaneClearingDone ..
  | frameBoundary => exact agendaAfter_execFrameBoundary ..
  | revocationDeadline => exact agendaAfter_execRevocationDeadline ..
  | contextSave => exact agendaAfter_execContextSave ..
  | agingTick => exact agendaAfter_execAgingTick ..
  | powerPressure => exact agendaAfter_execPowerPressure ..
  | powerPressureEnd => exact agendaAfter_execPowerPressureEnd ..
  | clockHop => exact agendaAfter_execClockHop ..
  | droopDuringHop => exact agendaAfter_execDroopDuringHop ..
  | clockHopRetry => exact agendaAfter_execClockHopRetry ..
  | laneRetirement => exact agendaAfter_execLaneRetirement ..
  | wayRetirement => exact agendaAfter_execWayRetirement ..
  | dispositionSet => exact agendaAfter_execDispositionSet ..
  | droverMove => exact agendaAfter_execDroverMove ..
  | loomTokenWaitEnd => exact agendaAfter_execLoomTokenWaitEnd ..
  | jobStart => exact agendaAfter_execJobStart ..
  | copyJobComplete => exact agendaAfter_execCopyJobComplete ..
  | gleanerJobComplete => exact agendaAfter_execGleanerJobComplete ..
  | loomChunk => exact agendaAfter_execLoomChunk ..
  | packetReport => exact agendaAfter_execPacketReport ..
  | windowStoreArrival => exact agendaAfter_execWindowStoreArrival ..
  | windowLoadArrival => exact agendaAfter_execWindowLoadArrival ..
  | postedStoreFault => exact agendaAfter_execPostedStoreFault ..
  | emulationTrip => exact agendaAfter_execEmulationTrip ..
  | promptTrap => exact agendaAfter_execPromptTrap ..
  | barrierTimeout => exact agendaAfter_execBarrierTimeout ..
  | vsyncTimeout => exact agendaAfter_execVsyncTimeout ..
  | leaseLapse | refreshBreak => rfl
  | unitWakeUp => exact agendaAfter_execUnitWakeUp ..
  | preemptionStop => exact agendaAfter_execPreemptionStop ..
  | rollback => exact agendaAfter_execRollback ..
  | hostRequest => exact agendaAfter_execHostRequest ..
  | remoteRequest => exact agendaAfter_execRemoteRequest ..
  | doorbell => exact agendaAfter_execDoorbell ..
  | registerWrite => exact agendaAfter_execRegisterWrite ..
  | build => exact agendaAfter_execBuild ..
  | release => exact agendaAfter_execRelease ..
  | cfgstage => exact agendaAfter_execCfgstage ..
  | wlogrc => exact agendaAfter_execWlogrc ..
  | member => exact agendaAfter_execMember ..
  | group => exact agendaAfter_execGroup ..
  | coll => exact agendaAfter_execColl ..
  | savereg => exact agendaAfter_execSavereg ..
  | preempt => exact agendaAfter_execPreempt ..
  | resume => exact agendaAfter_execResume ..
  | importImg => exact agendaAfter_execImportImg ..
  | prq => exact agendaAfter_execPrq ..
  | snapreg => exact agendaAfter_execSnapreg ..
  | pclear => exact agendaAfter_execPclear ..
  | summary => exact agendaAfter_execSummary ..
  | undefinedMailboxOpcode => exact agendaAfter_execUndefinedMailboxOpcode ..
  | lockInterfaceRequest => exact agendaAfter_execLockInterfaceRequest ..
  | getDeviceInterfaceReport => exact agendaAfter_execGetDeviceInterfaceReport ..
  | startInterfaceRequest => exact agendaAfter_execStartInterfaceRequest ..
  | stopInterfaceRequest => exact agendaAfter_execStopInterfaceRequest ..
  | lockedBarWrite => exact agendaAfter_execLockedBarWrite ..
  | ideIntegrityFailure => exact agendaAfter_execIdeIntegrityFailure ..
  | spdmMeasurement => exact agendaAfter_execSpdmMeasurement ..
  | flitReceive => exact agendaAfter_execFlitReceive ..
  | acknowledgement => exact agendaAfter_execAcknowledgement ..
  | negativeAcknowledgement => exact agendaAfter_execNegativeAcknowledgement ..
  | laneLost => exact agendaAfter_execLaneLost ..
  | retrainDone => exact agendaAfter_execRetrainDone ..
  | collectiveRoundDone => exact agendaAfter_execCollectiveRoundDone ..
  | collectiveTimeout => exact agendaAfter_execCollectiveTimeout ..
  | abortMessage => exact agendaAfter_execAbortMessage ..
  | timeSlotStart => exact agendaAfter_execTimeSlotStart ..
  | channelRequest => exact agendaAfter_execChannelRequest ..
  | vectorRequestPacket => exact agendaAfter_execVectorRequestPacket ..
  | stackRetirementStart => exact agendaAfter_execStackRetirementStart ..
  | retirementEnd => exact agendaAfter_execRetirementEnd ..
  | stackAnswerTimeout => exact agendaAfter_execStackAnswerTimeout ..
  | stackDead => exact agendaAfter_execStackDead ..
  | coldReset => exact agendaAfter_execColdReset ..
  | warmReset => exact agendaAfter_execWarmReset ..
  | bounceReceived => exact agendaAfter_execBounceReceived ..
  | sysRevocation => exact agendaAfter_execSysRevocation ..
  | retentionRelease => exact agendaAfter_execRetentionRelease ..
  | _ => exact nomatch event

/-- So does a word of a micro-thread that has its block. -/
theorem agendaAfter_exec_of_micro {i : Instr} (micro : i.streamOf = .micro) {s : State} {b : Blk}
    (blk : s.myMt.blk = some b) : agendaAfter (exec i s) = some s.agenda := by
  cases i with
  | wAdd | wSub | wMin | wMax | wAnd | wOr | wXor | wAndn | wSll | wSrl | wSra | wRor | wMul | wMulh | wMulhu
  | wMulhsu | wMinu | wMaxu | wFadd | wFsub | wFmul | wFma | wFms | wFnma | wFnms | wFmin | wFmax | wCvthSD
  | wCvthHS | wCvthBS | wCvthT8H | wCvthE4H | wCvthE5H | wSel => exact agendaAfter_wordF2 blk ..
  | wDiv | wDivu | wRem | wRemu | wFdiv => exact agendaAfter_unitWord blk _ _ _ (agendaAfter_wordF2 blk ..)
  | wAddi | wSlli | wSrli | wSrai | wFabs | wFneg | wCvthT6T8 | wCvtdDS | wCvtdSH | wCvtdSB | wCvtdHT8 | wCvtdHE4
  | wCvtdHE5 | wCvtdT8T6 | wCvtfi | wCvtfu | wCvtif | wCvtuf | wRng => exact agendaAfter_wordF1 blk ..
  | wMovi | wCvtF4 | wThfetch | wStop | wIdx => exact agendaAfter_word_go blk ..
  | wCeq | wClt | wCltu | wFceqD | wFcltD | wFcleD | wFceqS | wFcltS | wFcleS => exact agendaAfter_wordCmp blk ..
  | wFsqrt | wExp2 | wLog2 | wRcp | wRsqrt => exact agendaAfter_unitWord blk _ _ _ (agendaAfter_wordF1 blk ..)
  | wPand | wPor | wPxor | wPandn | wPmov | wPnot => exact agendaAfter_wordPred blk ..
  | wLd | wLds => exact agendaAfter_wordLoad blk ..
  | wSt => exact agendaAfter_execWSt blk ..
  | wSpld => exact agendaAfter_execWSpld blk ..
  | wSpst => exact agendaAfter_execWSpst blk ..
  | wAadd | wAswap | wAcas => exact agendaAfter_wordAtomic blk ..
  | wThfetchr => exact agendaAfter_execWThfetchr blk ..
  | wFsinS2 | wFcosS2 => exact agendaAfter_askTrip blk ..
  | _ => exact nomatch micro

end Sys2Proof.Machine
end

section
/-!
PROOFS. Every step of a run answers (R195, R372, R386): a turn ends with a next state or runs an instruction that does, and the
agenda loses the entry that it served.
-/

namespace Sys2Proof.Machine

/-! ### What a turn runs -/

/-- A word of a micro-thread is run with its block. -/
def Turn.HasBlock : Turn → Prop
  | .done _ => True
  | .run i s => i.streamOf = .micro → ∃ b, s.myMt.blk = some b

/-- A turn whose states have this agenda, and whose words have their blocks. -/
def Turn.Fit (l : List Action) (t : Turn) : Prop := t.Keeps l ∧ t.HasBlock

theorem Turn.fit_done {l : List Action} {s : State} (h : s.agenda = l) : (Turn.done s).Fit l := ⟨h, trivial⟩

/-- An instruction of a control thread and a step of another agent need no block. -/
theorem Turn.fit_run {l : List Action} {i : Instr} {s : State} (h : s.agenda = l) (stream : i.streamOf ≠ .micro) :
    (Turn.run i s).Fit l := ⟨h, fun micro => absurd micro stream⟩

/-- A fit turn answers a next state with its agenda. -/
theorem Turn.Fit.agendaAfter_take {l : List Action} {t : Turn} (fit : t.Fit l) : agendaAfter (State.take t) = some l := by
  obtain ⟨keeps, hasBlock⟩ := fit
  cases t with
  | done s => exact congrArg some keeps
  | run i s =>
    have same : some s.agenda = some l := congrArg some keeps
    cases stream : i.streamOf with
    | control => exact (agendaAfter_exec_of_control stream s).trans same
    | event => exact (agendaAfter_exec_of_event stream s).trans same
    | micro =>
      obtain ⟨b, blk⟩ := hasBlock stream
      exact (agendaAfter_exec_of_micro stream blk).trans same

/-! ### The turns -/

theorem fit_issueWord {l : List Action} {s : State} (h : s.agenda = l) (c : Nat) : (s.issueWord c).Fit l := by
  have fetched := (fetch_agenda s c (s.ctx c).pc).trans h
  simp only [State.issueWord]
  split
  next e => rw [e] at fetched; exact Turn.fit_done (by simpa using fetched)
  next e => rw [e] at fetched; exact Turn.fit_done fetched
  next e =>
    rw [e] at fetched
    split
    · exact Turn.fit_done (by simpa using fetched)
    next decoded =>
      obtain ⟨-, control, -⟩ := (encodeOfDecode _ _).1 decoded
      exact Turn.fit_run (by simpa using fetched) (by rw [control]; decide)

theorem fit_issueTurn {l : List Action} {s : State} (h : s.agenda = l) (c : Nat) : (s.issueTurn c).Fit l := by
  simp only [State.issueTurn]
  split
  · exact Turn.fit_run h (by decide)
  · split
    · exact Turn.fit_run h (by decide)
    · split
      · exact Turn.fit_run h (by decide)
      · split
        · exact Turn.fit_done h
        · exact fit_issueWord h c

theorem fit_idleTurn {l : List Action} {s : State} (h : s.agenda = l) : s.idleTurn.Fit l := by
  simp only [State.idleTurn]
  split
  · exact Turn.fit_done h
  · exact fit_issueTurn (by exact h) _

/-- A word is run only where the micro-thread has a block. -/
theorem fit_wordTurn {l : List Action} {s : State} (h : s.agenda = l) (c i : Nat) : (s.wordTurn c i).Fit l := by
  unfold State.wordTurn
  split
  · exact Turn.fit_done h
  next b blk =>
    split
    · exact Turn.fit_run h (by decide)
    · split
      · exact ⟨h, fun _ => ⟨b, blk⟩⟩
      · exact Turn.fit_done h

/-- The steps that an entry of the agenda may put on other agents. -/
def Action.Ok : Action → Prop
  | .event i _ => i.streamOf = .event
  | _ => True

theorem State.agendaOk_iff (s : State) : s.AgendaOk ↔ ∀ a ∈ s.agenda, a.Ok := .rfl

theorem fit_turn {l : List Action} {s : State} (h : s.agenda = l) {a : Action} (ok : a.Ok) : (s.turn a).Fit l := by
  cases a with
  | issue c => exact fit_issueTurn h c
  | word c i => exact fit_wordTurn h c i
  | event i g => exact Turn.fit_run h (by rw [show i.streamOf = .event from ok]; decide)
  | _ => exact Turn.fit_done (by simpa using h)

/-! ### A step -/

/-- An outcome that leaves an agenda is a next state with that agenda. -/
theorem next_of_agendaAfter {o : Res'} {l : List Action} (h : agendaAfter o = some l) : ∃ t, o = .next t ∧ t.agenda = l := by
  unfold agendaAfter at h
  split at h
  next t => exact ⟨t, rfl, Option.some.inj h⟩
  next => exact nomatch h

/-- Settles O3: the turn of the next entry, or of the contexts where there is none, is fit, and the agenda that is left is
part of the one that was. -/
theorem everyStepAnswers : Obligations.EveryStepAnswers := by
  intro s ok
  rw [s.agendaOk_iff] at ok
  cases entries : s.agenda with
  | nil =>
    obtain ⟨t, next, agenda⟩ := next_of_agendaAfter (fit_idleTurn entries).agendaAfter_take
    refine ⟨t, (step_of_empty entries).trans next, t.agendaOk_iff.mpr ?_⟩
    rw [agenda]
    exact fun a mem => nomatch mem
  | cons a l =>
    rw [entries] at ok
    have turn := fit_turn (s := { s with agenda := l }) rfl (ok a List.mem_cons_self)
    obtain ⟨t, next, agenda⟩ := next_of_agendaAfter turn.agendaAfter_take
    refine ⟨t, (step_of_entry entries).trans next, t.agendaOk_iff.mpr ?_⟩
    rw [agenda]
    exact fun a' mem => ok a' (List.mem_cons_of_mem a mem)

end Sys2Proof.Machine
end

section
/-!
PROOFS. Integer instructions of control threads: the values of classes 1 and 2, and of `lui` and `auipc` (R210, R211).
-/

namespace Sys2Proof.Machine

/-- An instruction that ends with a result, named by its value. -/
theorem gives_of_value {i : Instr} {s : State} {rd : RegNo} {v w : Word} (form : exec i s = s.done rd w) (value : v = w) :
    Gives i s rd v := gives_done (value ▸ form)

/-! ### Values of the tables of R210 -/

theorem ofInt_sub_toInt (x y : Word) : BitVec.ofInt 64 (x.toInt - y.toInt) = x - y := by
  apply BitVec.eq_of_toInt_eq
  rw [BitVec.toInt_ofInt, BitVec.toInt_sub]

theorem ofNat_mul_two_pow (x : Word) (n : Nat) : BitVec.ofNat 64 (x.toNat * 2 ^ n) = x <<< n := by
  apply BitVec.eq_of_toNat_eq
  rw [BitVec.toNat_ofNat, BitVec.toNat_shiftLeft, Nat.shiftLeft_eq]

theorem ofNat_div_two_pow (x : Word) (n : Nat) : BitVec.ofNat 64 (x.toNat / 2 ^ n) = x >>> n := by
  apply BitVec.eq_of_toNat_eq
  rw [BitVec.toNat_ofNat, BitVec.toNat_ushiftRight, Nat.shiftRight_eq_div_pow,
    Nat.mod_eq_of_lt ((Nat.div_le_self ..).trans_lt x.isLt)]

theorem rotateLeft_of_lt (x : Word) {n : Nat} (inside : n < 64) : x <<< n ||| x >>> (64 - n) = x.rotateLeft n := by
  rw [BitVec.rotateLeft_def, Nat.mod_eq_of_lt inside]

theorem rotateRight_of_lt (x : Word) {n : Nat} (inside : n < 64) : x >>> n ||| x <<< (64 - n) = x.rotateRight n := by
  rw [BitVec.rotateRight_def, Nat.mod_eq_of_lt inside]

/-- A comparison writes 1 or 0. -/
theorem flagWord_decide (p : Prop) [Decidable p] : (if p then 1 else 0) = flagWord (decide p) := by
  by_cases h : p <;> simp [flagWord, h]

theorem flagWord_eq (x y : Word) : (if x = y then 1 else 0) = flagWord (x == y) := flagWord_decide (x = y)

theorem flagWord_ne (x y : Word) : (if x = y then 0 else 1) = flagWord (x != y) := by
  by_cases h : x = y <;> simp [flagWord, h]

/-! ### Counts of bits -/

/-- The low `n` bits of a number have their highest one bit where `log2` says. -/
theorem leadingZeros_eq (x : Word) {n : Nat} (low : x.toNat < 2 ^ n) :
    leadingZeros x n = if x = 0 then n else n - 1 - x.toNat.log2 := by
  induction n with
  | zero =>
    have zero : x = 0 := BitVec.eq_of_toNat_eq (Nat.lt_one_iff.mp low)
    rw [if_pos zero, leadingZeros]
  | succ n ih =>
    rw [leadingZeros, BitVec.getLsbD]
    by_cases top : x.toNat < 2 ^ n
    · rw [Nat.testBit_lt_two_pow top, ih top]
      by_cases zero : x = 0
      · simp [zero]
      · have log := (Nat.log2_lt (BitVec.toNat_ne_iff_ne.mpr zero)).mpr top
        rw [if_neg zero, if_neg zero, if_neg Bool.false_ne_true]
        omega
    · have nonzero : x.toNat ≠ 0 := by
        have := Nat.two_pow_pos n
        omega
      have bit : x.toNat.testBit n = true := Nat.testBit_of_two_pow_le_and_two_pow_add_one_gt (by omega) low
      have log : x.toNat.log2 = n := (Nat.log2_eq_iff nonzero).mpr ⟨by omega, low⟩
      rw [if_pos bit, if_neg fun zero => nonzero (congrArg BitVec.toNat zero), log]
      omega

/-- From bit `64 - n` up the bits are zero as far as the count goes, and then comes a one. -/
theorem trailingZeros_spec (x : Word) {n : Nat} (within : n ≤ 64) :
    trailingZeros x n ≤ n ∧ (∀ j < trailingZeros x n, x.getLsbD (64 - n + j) = false) ∧
      (trailingZeros x n < n → x.getLsbD (64 - n + trailingZeros x n) = true) := by
  induction n with
  | zero => exact ⟨le_rfl, nofun, nofun⟩
  | succ n ih =>
    obtain ⟨count, zeros, one⟩ := ih (by omega)
    rw [trailingZeros, show 64 - (n + 1) = 63 - n by omega]
    cases bit : x.getLsbD (63 - n)
    · rw [if_neg Bool.false_ne_true]
      refine ⟨by omega, fun j inside => ?_, fun inside => ?_⟩
      · cases j with
        | zero => exact bit
        | succ j =>
          rw [show 63 - n + (j + 1) = 64 - n + j by omega]
          exact zeros j (by omega)
      · rw [show 63 - n + (trailingZeros x n + 1) = 64 - n + trailingZeros x n by omega]
        exact one (by omega)
    · rw [if_pos rfl]
      exact ⟨by omega, nofun, fun _ => bit⟩

/-- Low bits that are all zero. -/
theorem mod_two_pow_of_getLsbD {x : Word} {n : Nat} (zeros : ∀ j < n, x.getLsbD j = false) : x.toNat % 2 ^ n = 0 := by
  apply Nat.eq_of_testBit_eq
  intro j
  rw [Nat.testBit_mod_two_pow, Nat.zero_testBit]
  by_cases inside : j < n
  · exact Bool.and_eq_false_iff.mpr (.inr (zeros j inside))
  · simp [inside]

theorem oneBits_eq (x : Word) (n : Nat) : ((List.range n).filter x.getLsbD).length = oneBits x n := by
  induction n with
  | zero => rfl
  | succ n ih =>
    rw [List.range_succ, List.filter_append, List.length_append, ih, oneBits, Nat.add_comm, List.filter_singleton]
    cases x.getLsbD n <;> rfl

/-- Settles O11: each instruction ends with a result, whose value is that of its row. -/
theorem integerResults : Obligations.IntegerResults := by
  intro s rd ra rb imm sh a b i n
  have low : n < 64 := Nat.mod_lt _ (by decide)
  have clz : (if a = 0 then 64 else BitVec.ofNat 64 (63 - a.toNat.log2)) = BitVec.ofNat 64 (leadingZeros a 64) := by
    rw [leadingZeros_eq a a.isLt]
    split <;> rfl
  obtain ⟨count, zeros, one⟩ := trailingZeros_spec a (n := 64) le_rfl
  simp only [Nat.sub_self, Nat.zero_add] at zeros one
  exact ⟨rfl, gives_done rfl, gives_of_value rfl (ofInt_sub_toInt a b), gives_done rfl, gives_done rfl, gives_done rfl,
    gives_done rfl, gives_done rfl, gives_done rfl, gives_of_value rfl (ofNat_mul_two_pow a n),
    gives_of_value rfl (ofNat_div_two_pow a n), gives_of_value rfl (ofInt_toInt_div_two_pow a n),
    gives_of_value rfl (rotateLeft_of_lt a low), gives_of_value rfl (rotateRight_of_lt a low),
    gives_of_value rfl (flagWord_decide _), gives_of_value rfl (flagWord_decide _), gives_of_value rfl (flagWord_eq a b),
    gives_of_value rfl (flagWord_ne a b), gives_of_value rfl (ofInt_min_toInt a b), gives_of_value rfl (ofInt_max_toInt a b),
    gives_of_value rfl (ofNat_min_toNat a b), gives_of_value rfl (ofNat_max_toNat a b), gives_of_value rfl clz,
    ⟨trailingZeros a 64, count, mod_two_pow_of_getLsbD zeros, one, gives_done rfl⟩,
    gives_of_value rfl (congrArg (BitVec.ofNat 64) (oneBits_eq a 64)), gives_done rfl, gives_done rfl, gives_done rfl,
    gives_done rfl, gives_done rfl, gives_done rfl, gives_done rfl, gives_of_value rfl (ofNat_mul_two_pow a sh.toNat),
    gives_of_value rfl (ofNat_div_two_pow a sh.toNat), gives_of_value rfl (ofInt_toInt_div_two_pow a sh.toNat),
    gives_of_value rfl (rotateRight_of_lt a sh.isLt), gives_of_value rfl (flagWord_decide _),
    gives_of_value rfl (flagWord_decide _), gives_of_value rfl (flagWord_eq a i)⟩

/-! ### Upper immediates (R211) -/

/-- A sign-extended immediate in front of zeros. -/
theorem sext_shiftLeft {w : Nat} (imm : BitVec w) (n : Nat) : sext imm <<< n = BitVec.ofInt 64 (imm.toInt * 2 ^ n) := by
  have shift : sext imm <<< n = BitVec.ofInt 64 imm.toInt * BitVec.ofInt 64 (2 ^ n) := by
    have power : BitVec.ofInt 64 (2 ^ n) = BitVec.twoPow 64 n := by
      have cast : ((2 : Int) ^ n) = ((2 ^ n : Nat) : Int) := by norm_cast
      apply BitVec.eq_of_toNat_eq
      rw [cast, BitVec.ofInt_natCast, BitVec.toNat_ofNat, BitVec.toNat_twoPow]
    rw [BitVec.shiftLeft_eq_mul_twoPow, power]
    rfl
  rw [shift, BitVec.ofInt_mul]

/-- A distance that counts words. -/
theorem sext_shiftLeft_words {w : Nat} (imm : BitVec w) : sext imm <<< 2 = BitVec.ofInt 64 (4 * imm.toInt) := by
  rw [sext_shiftLeft, mul_comm]
  rfl

/-- R211: a distance is the sum of its two parts, the lower one taken between -2^11 and 2^11. -/
theorem upper_lower_immediates {d : Int} (low : -2 ^ 33 ≤ d) (high : d < 2 ^ 33 - 2048) :
    ∃ (hi : BitVec 22) (lo : BitVec 12), hi.toInt * 2 ^ 12 + lo.toInt = d := by
  refine ⟨BitVec.ofInt 22 ((d + 2048) / 4096), BitVec.ofInt 12 ((d + 2048) % 4096 - 2048), ?_⟩
  rw [BitVec.toInt_ofInt_eq_self (by decide) (by norm_num; omega) (by norm_num; omega),
    BitVec.toInt_ofInt_eq_self (by decide) (by norm_num; omega) (by norm_num; omega)]
  omega

/-- Settles O12: `lui` and `auipc` end with their value, and a distance splits at bit 12. -/
theorem upperImmediates : Obligations.UpperImmediates := by
  refine ⟨fun s rd imm => ?_, fun d low high => upper_lower_immediates low high⟩
  have upper := (sext_shiftLeft imm 12).symm
  exact ⟨gives_of_value rfl upper, gives_of_value rfl (congrArg (s.me.pc + ·) upper)⟩

end Sys2Proof.Machine
end

section
/-!
PROOFS. Multiply, divide and scalar floating point of control threads (R209, R212-R217).
-/

namespace Sys2Proof.Machine

/-! ### Class 3 (R212) -/

/-- An instruction that firmware does not perform runs here (R209). -/
theorem State.unitC_of_native {s : State} {bit : Nat} (native : s.emulated bit = false) (i : Instr) (x y : Word) (form : Res') :
    s.unitC bit i x y form = form := by
  rw [State.unitC, native, if_neg Bool.false_ne_true]

theorem gives_of_class3 {i : Instr} {s : State} {k : Nat} {rd ra rb : RegNo} {v : Word} {f : BitVec 7}
    (native : s.emulated 3 = false) (form : exec i s = s.class3 i k rd ra rb)
    (value : mulDiv k (s.rx ra) (s.rx rb) = (v, f)) : Gives i s rd v f := by
  rw [State.class3, State.unitC_of_native native, value] at form
  exact gives_orFlags_done form

/-- Settles O13: the value of each row, with the cases of a division in their order. -/
theorem multiplyDivideResults : Obligations.MultiplyDivideResults := by
  intro s rd ra rb native a b corner
  have gives {i : Instr} {k : Nat} {v : Word} {f : BitVec 7} (form : exec i s = s.class3 i k rd ra rb)
      (value : mulDiv k a b = (v, f)) : Gives i s rd v f := gives_of_class3 native form value
  have nonzero (h : corner) : b ≠ 0 := fun zero => absurd h.2 (by rw [zero]; decide)
  refine ⟨gives rfl rfl, gives rfl rfl, gives rfl (Prod.ext (mulDiv_mulhu a b).symm rfl), gives rfl rfl, fun zero => ?_,
    fun h => ?_, fun h regular => ?_, fun h => ?_⟩
  · exact ⟨gives rfl (if_pos zero), gives rfl (if_pos zero), gives rfl (if_pos zero), gives rfl (if_pos zero)⟩
  · exact ⟨gives rfl ((if_neg (nonzero h)).trans (if_pos h)), gives rfl ((if_neg (nonzero h)).trans (if_pos h))⟩
  · exact ⟨gives rfl ((if_neg h).trans (if_neg regular)),
      gives rfl ((mulDiv_rem a b).trans ((if_neg h).trans (if_neg regular)))⟩
  · exact ⟨gives rfl (if_neg h), gives rfl (if_neg h)⟩

/-! ### Class 4 (R213-R217) -/

/-- A bit that is not 0 is 1. -/
theorem scalarFmt_eq (p : BitVec 1) : (if p = 1 then f64 else f32) = scalarFmt p := by
  revert p
  decide

theorem scalarBits_eq (p : BitVec 1) (x : Word) : (if p = 1 then x.toNat else x.toNat % 2 ^ 32) = scalarBits p x := by
  obtain rfl | rfl : p = 0 ∨ p = 1 := by
    revert p
    decide
  · rfl
  · rfl

/-- The weight of the sign bit (R89). -/
theorem sign_scalarFmt (p : BitVec 1) : 2 ^ (if p = 1 then 63 else 31) = (scalarFmt p).sign true := by
  revert p
  decide

/-- Settles O15: each instruction ends with the result of its operation on the codes or the values of its operands. -/
theorem scalarFloatResults : Obligations.ScalarFloatResults := by
  intro s rd ra rb p f code v rm G B I
  have format : f = scalarFmt p := scalarFmt_eq p
  have codes : code = s.fx p := funext fun r => scalarBits_eq p (s.rx r)
  have values : v = s.fv p := funext fun r => by rw [show v r = f.decode (code r) from rfl, format, codes]; rfl
  have g {i : Instr} {r : Nat × BitVec 7} (form : exec i s = s.doneF rd (fpWord r)) : G i r := gives_orFlags_done form
  have exact_ {i : Instr} {n : Nat} (form : exec i s = s.done rd (BitVec.ofNat 64 n)) : G i (n, 0) := gives_done form
  have compare {i : Instr} {r : Bool × BitVec 7} (form : exec i s = s.doneF rd (flagWord r.1, r.2)) : B i r :=
    gives_orFlags_done form
  have integer {i : Instr} {r : Int × BitVec 7} (form : exec i s = s.doneF rd (BitVec.ofInt 64 r.1, r.2)) : I i r :=
    gives_orFlags_done form
  rw [sign_scalarFmt]
  clear_value v code f
  subst format codes values
  refine ⟨g rfl, g rfl, g rfl, fun native => ⟨?_, ?_⟩, g rfl, g rfl, exact_ rfl, exact_ rfl, g rfl, g rfl, g rfl, g rfl,
    compare rfl, compare rfl, compare rfl, integer rfl, integer rfl, integer rfl, integer rfl, g rfl, g rfl, g rfl, g rfl,
    g rfl, g rfl, exact_ rfl⟩
  · exact g (State.unitC_of_native native (.fdiv rd ra rb p) (s.rx ra) (s.rx rb) _)
  · exact g (State.unitC_of_native native (.fsqrt rd ra p) (s.rx ra) 0 _)

end Sys2Proof.Machine
end

section
/-!
PROOFS. Branches, jumps and hardware loops (R224, R226).
-/

namespace Sys2Proof.Machine

/-! ### Transfers -/

theorem State.wx_zero_goto (s : State) (v pc : Word) : (s.wx 0 v).goto pc = s.goto pc := by
  rw [State.goto, State.wx_eq, Ctx.wx_zero, State.me_setMe, State.setMe_setMe, State.goto]

/-- An instruction that ends with a transfer and writes no register. -/
theorem jumps_of_goto {i : Instr} {s : State} {pc : Word} (form : exec i s = s.goto pc) : Jumps i s 0 0 pc :=
  jumps_goto (form.trans (s.wx_zero_goto 0 pc).symm)

/-- A conditional branch whose test `b` says whether the condition `c` holds. -/
theorem branches {i : Instr} {s : State} {imm : BitVec 12} {b : Bool} {c : Prop} (form : exec i s = s.branch b imm)
    (test : b = true ↔ c) :
    (c → Jumps i s 0 0 (s.me.pc + BitVec.ofInt 64 (4 * imm.toInt))) ∧ (¬ c → Jumps i s 0 0 (s.me.pc + 4)) := by
  rw [State.branch, sext_shiftLeft_two] at form
  refine ⟨fun taken => jumps_of_goto ?_, fun not_taken => jumps_of_goto ?_⟩
  · rw [form, if_pos (test.mpr taken)]
  · rw [form, if_neg (mt test.mp not_taken)]

/-- R396: a fetch at or past `codebound`. -/
theorem State.fetch_of_overrun {s : State} {c : Nat} {pc : Word} (past : (s.ctx c).codebound.toNat ≤ pc.toNat) :
    s.fetch c pc = (.error (some { cause := 0x0A, val := pc }), s) := if_pos past

/-- Settles O23: each branch by its test, the jumps by their transfer. -/
theorem branchesAndJumps : Obligations.BranchesAndJumps := by
  intro s rd ra rb imm off a b B
  refine ⟨branches rfl beq_iff_eq, branches rfl bne_iff_ne, branches rfl BitVec.slt_iff_toInt_lt, branches rfl ?_,
    branches rfl BitVec.ult_iff_toNat_lt, branches rfl ?_, ?_, jumps_goto rfl, fun c past => State.fetch_of_overrun past⟩
  · rw [Bool.not_eq_true', ← Bool.not_eq_true, BitVec.slt_iff_toInt_lt, not_lt]
  · rw [Bool.not_eq_true', ← Bool.not_eq_true, BitVec.ult_iff_toNat_lt, not_lt]
  · rw [← sext_shiftLeft_words]
    exact jumps_goto rfl

/-! ### Hardware loops (R226) -/

/-- The distance to a loop's end counts words. -/
theorem setWidth_shiftLeft_two (imm : BitVec 12) : imm.setWidth 64 <<< 2 = BitVec.ofNat 64 (4 * imm.toNat) := by
  have small := imm.isLt
  apply BitVec.eq_of_toNat_eq
  rw [BitVec.toNat_shiftLeft, BitVec.toNat_setWidth, BitVec.toNat_ofNat, Nat.shiftLeft_eq]
  omega

section Loop
variable {s : State} {ra : RegNo} (imm : BitVec 12)

theorem exec_loop_of_zero (zero : s.rx ra = 0) : exec (.loop_ ra imm) s = s.goto (s.me.pc + (imm.setWidth 64 <<< 2) + 4) :=
  if_pos zero

variable (nonzero : s.rx ra ≠ 0)
include nonzero

theorem exec_loop_of_full (full : 6 ≤ s.me.loops.length) : exec (.loop_ ra imm) s = raise s 0x0C 0 :=
  (if_neg nonzero).trans (if_pos full)

theorem exec_loop_of_room (room : s.me.loops.length < 6) : exec (.loop_ ra imm) s = .next (s.setMe { s.me with
    pc := s.me.pc + 4
    loops := { start := s.me.pc + 4, stop := s.me.pc + (imm.setWidth 64 <<< 2), count := s.rx ra } :: s.me.loops }) :=
  (if_neg nonzero).trans (if_neg (not_le.mpr room))

end Loop

/-- `endloop` with no entry that ends at it. -/
theorem exec_endloop_of_none {s : State} (none_ : ∀ d ∈ s.me.loops, d.stop ≠ s.me.pc) : exec .endloop s = raise s 0x0C 0 := by
  have dropped : s.me.loops.dropWhile (fun e => e.stop != s.me.pc) = [] :=
    List.dropWhile_eq_nil_iff.mpr fun d mem => bne_iff_ne.mpr (none_ d mem)
  change execEndloop s = _
  simp only [execEndloop, dropped]

/-- `endloop` at the first entry that ends at it. -/
theorem exec_endloop_of_entry {s : State} {skip rest : List LoopEnt} {e : LoopEnt} (stack : s.me.loops = skip ++ e :: rest)
    (elsewhere : ∀ d ∈ skip, d.stop ≠ s.me.pc) (here : e.stop = s.me.pc) : exec .endloop s =
      if e.count - 1 = 0 then .next (s.setMe { s.me with loops := rest, pc := s.me.pc + 4 })
      else .next (s.setMe { s.me with loops := { e with count := e.count - 1 } :: rest, pc := e.start }) := by
  have dropped : s.me.loops.dropWhile (fun e => e.stop != s.me.pc) = e :: rest := by
    rw [stack, List.dropWhile_append_of_pos fun d mem => bne_iff_ne.mpr (elsewhere d mem),
      List.dropWhile_cons_of_neg (by simp [here])]
  change execEndloop s = _
  simp only [execEndloop, dropped]

/-- Settles O25: `loop` by its checks in their order, `endloop` by the entries that it drops. -/
theorem hardwareLoops : Obligations.HardwareLoops := by
  intro s ra imm skip rest e stop
  have last : s.me.pc + (imm.setWidth 64 <<< 2) = stop := congrArg (s.me.pc + ·) (setWidth_shiftLeft_two imm)
  refine ⟨fun zero => jumps_of_goto (last ▸ exec_loop_of_zero imm zero), fun nonzero full => exec_loop_of_full imm nonzero full,
    fun nonzero room => becomes_setMe (last ▸ exec_loop_of_room imm nonzero room), exec_endloop_of_none,
    fun stack elsewhere here => ?_, rfl⟩
  have form := exec_endloop_of_entry stack elsewhere here
  refine ⟨fun more => becomes_setMe (form.trans (if_neg (sub_ne_zero.mpr more))),
    fun done => becomes_setMe (form.trans (if_pos (sub_eq_zero.mpr done)))⟩

end Sys2Proof.Machine
end

section
/-!
PROOFS. Status registers read and written by control threads (R35, R36, R49, R68, R102, R185, R228, R370).
-/

namespace Sys2Proof.Machine

/-! ### Reads -/

theorem Ctx.grantWord_eq (x : Ctx) : x.grantWord = BitVec.ofNat 64 (x.lanesHeld + 2 ^ 16 * x.gsq.toNat +
    2 ^ 20 * x.gstate.code + 2 ^ 24 * x.orow + 2 ^ 32 * x.ocol + 2 ^ 63 * if x.nofit then 1 else 0) := by
  simp only [Ctx.grantWord, packBits, bit]
  congr 1
  ring

theorem Cluster.poolsize_eq (k : Cluster) : k.poolsize = 512 - k.missing.length + 2 ^ 10 * k.spares := by
  rw [Cluster.poolsize]
  ring

theorem State.selfid_eq (s : State) (c : Nat) : s.selfid c = BitVec.ofNat 64 (c / 4 / 32 + 2 ^ 8 * (c / 4 % 32) +
    2 ^ 16 * (c % 4) + 2 ^ 24 * clusterOf (c / 4) + 2 ^ 29 * dieOf (c / 4) + 2 ^ 32 * (dieOf (c / 4) / 2) +
    2 ^ 34 * s.memberId.toNat + 2 ^ 44 * s.modId.toNat) := by
  simp only [State.selfid, packBits]
  congr 1
  ring

theorem Ctx.stepWord_eq (x : Ctx) : x.stepWord =
    BitVec.ofNat 64 (x.ssn.toNat + 2 ^ 32 * (if x.xch then 1 else 0) + 2 ^ 40 * x.recIdx.toNat) := by
  simp only [Ctx.stepWord, packBits, bit]
  congr 1
  ring

theorem TrapRegs.status_eq (r : TrapRegs) : r.status = BitVec.ofNat 64 (r.plev.toNat + 2 ^ 8 * r.ldepth.toNat) := by
  rw [TrapRegs.status]
  congr 1
  ring

theorem Ctx.upcallWord_eq (x : Ctx) :
    x.upcallWord = (x.upcallHandler &&& ~~~3) ||| BitVec.ofNat 64 (if x.upcallEn then 1 else 0) := by
  rw [Ctx.upcallWord]
  split <;> rfl

theorem fmodeWord_eq (x : Ctx) :
    BitVec.ofNat 64 (x.wrm.toNat * 16 + x.crm.toNat) = BitVec.ofNat 64 (x.crm.toNat + 16 * x.wrm.toNat) := by
  congr 1
  ring

/-- The indices of the map (R185, R370). -/
def csrIndices : List Nat :=
  [0x001, 0x002, 0x003, 0x004, 0x010, 0x011, 0x012, 0x013, 0x014, 0x015, 0x016, 0x017, 0x020, 0x021, 0x022, 0x030, 0x031,
    0x032, 0x023, 0x033, 0x040, 0x041, 0x050, 0x051, 0x060, 0x061, 0x062, 0x100, 0x101, 0x102, 0x110, 0x111, 0x112, 0x113,
    0x114, 0x115, 0x120, 0x210, 0x211, 0x212, 0x213, 0x214, 0x215]

theorem csrKnown_iff (n : Nat) : csrKnown n = true ↔ n ∈ csrIndices := by
  refine ⟨fun known => ?_, (by decide : ∀ m ∈ csrIndices, csrKnown m = true) n⟩
  simp only [csrKnown, Bool.or_eq_true, Bool.and_eq_true, decide_eq_true_eq, beq_iff_eq] at known
  simp only [csrIndices, List.mem_cons, List.not_mem_nil]
  omega

theorem exec_csrr_of_open {s : State} {rd : RegNo} {idx : BitVec 12} (opened : csrFault s.me.level idx.toNat = none) :
    exec (.csrr rd idx) s = s.done rd (s.csr s.cur idx.toNat) := State.csrGuard_of_open opened (.csrr rd idx) _

/-- Settles O26: a read that is open ends with the register's value, and the list is that of the map. -/
theorem statusRegisterReads : Obligations.StatusRegisterReads := by
  refine ⟨fun s rd idx opened => gives_done (exec_csrr_of_open opened), fun s c => ?_⟩
  intro x core k b values
  refine ⟨fun n v mem => ?_, fun n => ?_⟩
  · have all : ∀ e ∈ values, s.csr c e.1 = e.2 := by
      simp only [values, List.forall_mem_cons]
      exact ⟨rfl, fmodeWord_eq x, rfl, rfl, rfl, rfl, x.grantWord_eq, rfl, congrArg (BitVec.ofNat 64) k.poolsize_eq, rfl, rfl,
        rfl, s.selfid_eq c, x.stepWord_eq, rfl, x.upcallWord_eq, rfl, rfl, rfl, rfl, rfl, rfl, rfl, rfl, rfl, rfl, rfl, rfl,
        rfl, rfl, rfl, rfl, rfl, rfl, x.st.status_eq, rfl, rfl, rfl, rfl, rfl, rfl, x.ft.status_eq, rfl, nofun⟩
    exact all (n, v) mem
  · have listed : values.map Prod.fst = csrIndices := rfl
    rw [csrKnown_iff, ← listed, List.mem_map]
    simp only [Prod.exists, exists_and_right, exists_eq_right]

/-! ### Writes -/

theorem State.drainBuf_of_empty {s : State} (empty : s.wbuf = []) : s.drainBuf = s := by
  rw [State.drainBuf, empty, State.drainWaiting, ← empty]

theorem exec_csrs_of_open {s : State} {ra : RegNo} {idx : BitVec 12} (opened : csrFault s.me.level idx.toNat = none) :
    exec (.csrs ra idx) s = .next (s.csrPut idx.toNat (s.csr s.cur idx.toNat ||| s.rx ra)).next :=
  State.csrGuard_of_open opened (.csrs ra idx) _

theorem exec_csrc_of_open {s : State} {ra : RegNo} {idx : BitVec 12} (opened : csrFault s.me.level idx.toNat = none) :
    exec (.csrc ra idx) s = .next (s.csrPut idx.toNat (s.csr s.cur idx.toNat &&& ~~~s.rx ra)).next :=
  State.csrGuard_of_open opened (.csrc ra idx) _

/-- A write of a register other than `tlbinv` does to its context what `f` says, at Sys and Fw or at App (R185). -/
structure CsrTakes (sys : Bool) (e : Nat × (Ctx → Word → Ctx)) : Prop where
  other : e.1 ≠ 0x101
  takes : ∀ x v, Ctx.csrWrite x sys e.1 v = e.2 x v

/-- A register that keeps its value. -/
theorem CsrTakes.of_kept {sys : Bool} {l : List Nat} {n : Nat} {f : Ctx → Word → Ctx} (mem : n ∈ l) (keeps : ∀ x v, f x v = x)
    (all : ∀ m ∈ l, CsrTakes sys (m, fun x _ => x)) : CsrTakes sys (n, f) := by
  obtain ⟨other, same⟩ := all n mem
  exact ⟨other, fun x v => (same x v).trans (keeps x v).symm⟩

/-- Settles O27: what the register takes, by its place in the map, and the window writes that are applied after it. -/
theorem statusRegisterWrites : Obligations.StatusRegisterWrites := by
  intro s ra idx f n sys K opened register
  have takes : CsrTakes (s.me.level != .app) (n, f) := by
    rcases register with mem | ⟨mem, keeps⟩ | ⟨app, mem, keeps⟩ | ⟨up, mem⟩
    case' inl => refine (?_ : ∀ e ∈ _, CsrTakes _ e) _ mem
    case' inr.inl => refine .of_kept mem keeps ?_
    case' inr.inr.inl =>
      rw [bne_eq_false_iff_eq.mpr (not_not.mp app)]
      refine .of_kept mem keeps ?_
    case' inr.inr.inr =>
      rw [bne_iff_ne.mpr up]
      refine (?_ : ∀ e ∈ _, CsrTakes _ e) _ mem
    all_goals
      simp only [List.forall_mem_cons, List.not_mem_nil, false_implies, implies_true, and_true]
      and_intros <;> exact ⟨by decide, fun _ _ => rfl⟩
  have put_ (v : Word) : s.csrPut n v = (s.setMe (f s.me v)).drainBuf := by
    obtain ⟨other, same⟩ := takes
    rw [State.csrPut_of_ne_tlbinv s other, same]
  have k {i : Instr} {v : Word} (form : exec i s = .next (s.csrPut n v).next) : K i v := by
    rw [put_] at form
    exact form
  exact ⟨k (exec_csrw_of_open opened), k (exec_csrs_of_open opened), k (exec_csrc_of_open opened),
    fun empty x => State.drainBuf_of_empty (s := s.setMe x) empty⟩

end Sys2Proof.Machine
end

section
/-!
PROOFS. Accesses of control threads that reach memory: what the caches and charges see of them (R124-R126, R146, R155), and
the loads (R218, R219).
-/

namespace Sys2Proof.Machine

/-! ### What serving an access changes -/

/-- Nothing differs but what caches hold, open scrub entries, and what context `c` is charged for its fills (R146). -/
structure State.Serves (s t : State) (c : Nat) : Prop where
  rest : OnlyCaches s t
  others : ∀ d, d ≠ c → t.ctx d = s.ctx d
  charged : Ctx.Charged (s.ctx c) (t.ctx c)

namespace State.Serves
variable {s t u : State} {c : Nat}

theorem refl (s : State) (c : Nat) : s.Serves s c := ⟨rfl, fun _ _ => rfl, Ctx.Charged.refl _⟩

theorem trans (h : s.Serves t c) (k : t.Serves u c) : s.Serves u c := by
  refine ⟨?_, fun d hd => (k.others d hd).trans (h.others d hd), h.charged.trans k.charged⟩
  have rest := k.rest
  rw [OnlyCaches, h.rest] at rest
  exact rest

theorem of_fills (h : s.Fills t c) (clusters : t.clusters = s.clusters) : s.Serves t c := by
  refine ⟨?_, h.others, h.charged⟩
  have rest := h.rest
  rw [clusters] at rest
  exact rest

/-- A change of the L1 data caches alone. -/
theorem of_l1 (h : t = { s with l1 := t.l1, freeN := t.freeN }) : s.Serves t c := by
  refine .of_fills (.of_caches ?_) ?_ <;> rw [h]

theorem cur (h : s.Serves t c) : t.cur = s.cur := by rw [h.rest]

theorem mem (h : s.Serves t c) : t.mem = s.mem := by rw [h.rest]

theorem synd (h : s.Serves t c) : t.synd = s.synd := by rw [h.rest]

end State.Serves

theorem State.serves_touch (s : State) (c home sector : Nat) (dirty : Bool) :
    s.Serves (s.touch c home sector dirty) c := .of_fills (s.fills_touch ..) (s.clusters_touch ..)

theorem State.serves_charge (s : State) (c n : Nat) : s.Serves (s.charge c n) c :=
  .of_fills (s.fills_charge ..) (s.clusters_charge ..)

theorem State.serves_l1Fill (s : State) (core sector : Nat) (own : Bool) (c : Nat) :
    s.Serves (l1Fill s core sector own) c := by
  unfold l1Fill
  extract_lets line enter inSet ways w
  split
  · exact .of_l1 rfl
  · split
    · exact .of_l1 rfl
    · split
      · exact .refl s c
      · exact .of_l1 rfl

/-- R124-R126, R155: whatever serves an access changes the caches, and the charges of its context. -/
theorem State.serves_served (s : State) (w : Who) (t : Tr) (sector : Nat) (op : MemOp) (wrote : Bool) :
    s.Serves (s.served w t sector op wrote) w.c := by
  unfold State.served
  extract_lets home u
  have served : s.Serves u w.c := by
    unfold u
    split
    · split
      · split
        · split
          · exact .refl s w.c
          · exact ((s.serves_touch ..).trans (.of_l1 rfl)).trans (State.serves_l1Fill ..)
        · exact (s.serves_touch ..).trans (.of_l1 rfl)
      · split
        · split
          · exact .refl s w.c
          · exact (s.serves_touch ..).trans (State.serves_l1Fill ..)
        · exact s.serves_touch ..
      · exact s.serves_touch ..
    · split
      · exact s.serves_charge ..
      · exact .refl s w.c
      · exact s.serves_charge ..
  split
  · split
    · exact served.trans (.of_l1 rfl)
    · exact served.trans (.of_l1 rfl)
  · exact served

/-! ### From an access to memory -/

theorem State.place_of_memory {t : Tr} (memory : placeOf t.pa = .hbm ∨ placeOf t.pa = .tier2) (page : t.attr ≠ 2) (u : State)
    (w : Who) (va : Word) (op : MemOp) (keeps : Bool) : u.place w t va op keeps = u.memAccess w t va op := by
  rcases memory with place | place <;> simp only [State.place, place, page, false_and, if_false]

section Reaches
variable {s u : State} {va : Word} {t : Tr}

theorem State.Reaches.translatesOnly {op : MemOp} (h : s.Reaches u va op t) : s.TranslatesOnly u s.cur :=
  State.translatesOnly_translate h.2.2.1

/-- R116, R218: an access that passes its checks and translates to memory goes there. -/
theorem State.Reaches.access {op : MemOp} (h : s.Reaches u va op t) (keeps : Bool) :
    s.access va op keeps = u.memAccess (s.who s.cur) t va op := by
  obtain ⟨form, aligned, translates, page, memory, -⟩ := h
  rw [State.access_of_translates form aligned translates, State.place_of_memory memory page]

theorem State.badCheck_of_right {s : State} {key : Nat} (right : checkFails s key = false) (w : Who) (pa : Nat) (va : Word) :
    s.badCheck w key pa va = none := by
  rw [State.badCheck, right, if_neg Bool.false_ne_true]

/-- R219: a load that reaches memory has the bytes there. -/
theorem State.Reaches.access_load {n : Nat} (h : s.Reaches u va (.load n) t) (keeps : Bool) :
    s.access va (.load n) keeps = .value (BitVec.ofNat 64 (u.numAt t n))
      (u.served (s.who s.cur) t (sectorOf (memKey t.skew t.pa)) (.load n)) := by
  rw [h.access keeps]
  obtain ⟨-, -, -, -, -, allowed, still, right, -⟩ := h
  have right := right.resolve_left Bool.false_ne_true
  simp only [State.memAccess, allowed, still, Bool.false_eq_true, if_false, State.badCheck_of_right right]
  rfl

theorem State.Reaches.served {op : MemOp} (_ : s.Reaches u va op t) (wrote : Bool) (sector : Nat) :
    u.Serves (u.served (s.who s.cur) t sector op wrote) s.cur := u.serves_served (s.who s.cur) t sector op wrote

end Reaches

/-! ### Loads -/

/-- What serving an access leaves of its context. -/
theorem State.Serves.charged_me {s u : State} {c : Nat} (serves : s.Serves u c) (cur : s.cur = c) : Ctx.Charged s.me u.me := by
  rw [State.me, State.me, serves.cur, cur]
  exact serves.charged

/-- What an instruction that has been served changes, where it ends by writing `rd` and the pc. -/
theorem State.Serves.ends {s u t : State} {c : Nat} {rd : RegNo} {v pc : Word} (serves : s.Serves u c) (cur : s.cur = c)
    (reg : RegIs u t rd v) (only : OnlyCtx c u t) (me : t.me = { u.me with x := t.me.x, pc := pc }) :
    OnlyCaches s t ∧ (∀ d, d ≠ c → t.ctx d = s.ctx d) ∧ RegIs s t rd v ∧
      Ctx.Charged { s.me with x := t.me.x, pc := pc } t.me := by
  obtain ⟨rest, others⟩ := only
  have charged := serves.charged_me cur
  refine ⟨?_, fun d other => (others d other).trans (serves.others d other), reg.of_x (by rw [charged.1]), ?_⟩
  · have frame := serves.rest
    rw [OnlyCaches, rest, frame]
  · rw [me]
    obtain ⟨same, more⟩ := charged
    refine ⟨?_, more⟩
    rw [same]

/-- An instruction that ends with a result in a state that serving its access has left. -/
theorem loadGives_of_done {i : Instr} {s u c : State} {rd : RegNo} {v : Word} (cur : u.cur = s.cur) (serves : u.Serves c s.cur)
    (form : exec i s = c.done rd v) : LoadGives i s u rd v := by
  obtain ⟨t, done, reg, only, me⟩ := State.done_spec (serves.cur.trans cur) rd v
  have pc : c.me.pc = u.me.pc := by rw [(serves.charged_me cur).1]
  rw [pc] at me
  exact ⟨t, form.trans done, serves.ends cur reg only me⟩

/-- R219: a doubleword has no bit to extend. -/
theorem extend_eight (signed : Bool) (v : Word) : extend 8 signed v = v := by
  cases signed <;> rfl

/-- The load of an instruction reaches memory. -/
theorem loadGives_of_reaches {i : Instr} {s u : State} {n : Nat} {signed : Bool} {rd : RegNo} {va v : Word} {t : Tr}
    (h : s.Reaches u va (.load n) t) (form : exec i s = s.load n signed rd va)
    (value : extend n signed (BitVec.ofNat 64 (u.numAt t n)) = v) : LoadGives i s u rd v := by
  rw [State.load_of_value (h.access_load true) signed rd, value] at form
  exact loadGives_of_done h.translatesOnly.cur (h.served ..) form

/-- Settles O18: each load has the bytes at its address, extended. -/
theorem loadResults : Obligations.LoadResults := by
  intro s u rd ra imm t a
  have narrow {w : Nat} (small : w ≤ 64) (m : Nat) :
      ((BitVec.ofNat 64 m).setWidth w).signExtend 64 = (BitVec.ofNat w m).signExtend 64 :=
    congrArg (BitVec.signExtend 64) (BitVec.setWidth_ofNat_of_le small m)
  exact ⟨fun h => ⟨loadGives_of_reaches (signed := true) h rfl (narrow (by decide) _),
      loadGives_of_reaches (signed := false) h rfl rfl⟩,
    fun h => ⟨loadGives_of_reaches (signed := true) h rfl (narrow (by decide) _),
      loadGives_of_reaches (signed := false) h rfl rfl⟩,
    fun h => ⟨loadGives_of_reaches (signed := true) h rfl (narrow (by decide) _),
      loadGives_of_reaches (signed := false) h rfl rfl⟩,
    fun h => loadGives_of_reaches (signed := true) h rfl (extend_eight true _)⟩

end Sys2Proof.Machine
end

section
/-!
PROOFS. Stores and atomics of control threads that reach memory: the bytes, their check and the write log (R143, R220, R222,
R223, R309, R428).
-/

namespace Sys2Proof

/-- A number that a set has. -/
theorem setIns_setIns (l : List Nat) (k : Nat) : setIns (setIns l k) k = setIns l k := by
  induction l with
  | nil => simp [setIns]
  | cons j l ih =>
    unfold setIns
    by_cases before : k < j
    · simp [before, setIns]
    · by_cases here : j = k
      · simp [here, setIns]
      · simp [before, here, setIns, ih]

/-- A key that a filter takes out. -/
theorem look_filter_of_out {α : Type} (d : α) {m : Table α} {k : Nat} {p : Nat × α → Bool} (out : ∀ v, p (k, v) = false) :
    look d (m.filter p) k = d := by
  induction m with
  | nil => rfl
  | cons e m ih =>
    obtain ⟨j, v⟩ := e
    rw [List.filter_cons]
    split
    · next kept =>
      have other : j ≠ k := by
        rintro rfl
        exact absurd kept (by simp [out])
      rw [look, if_neg other, ih]
    · exact ih

end Sys2Proof

namespace Sys2Proof.Machine

/-! ### Storage after a store -/

theorem State.numAt_lt (s : State) (t : Tr) (n : Nat) : s.numAt t n < 2 ^ (8 * n) := by
  have small := leNat_lt (readBytes s.mem (memKey t.skew t.pa) n)
  rwa [length_readBytes] at small

theorem leNat_writeBytes {m : List Host.Cell} (wf : Memory.wf m = true) (k v n : Nat) :
    leNat (readBytes (writeBytes m k (toLe v n)) k n) = v % 2 ^ (8 * n) := by
  have bytes := readBytes_writeBytes (toLe v n) m k wf
  rw [length_toLe] at bytes
  rw [bytes, leNat_toLe, pow_mul, show 2 ^ 8 = 256 from rfl]

/-- R309: a producer's bytes have a right check. -/
theorem checkFails_putBytes (s : State) (k : Nat) {bs : List Byte} (some_ : 0 < bs.length) :
    checkFails (putBytes s k bs) k = false := by
  have dropped : look 0 (putBytes s k bs).synd (k / 8 * 8) = 0 := by
    refine look_filter_of_out 0 fun v => ?_
    simp only [Bool.or_eq_false_iff, decide_eq_false_iff_not]
    omega
  rw [checkFails, storedCheck, dropped, show ∀ b : Byte, b ^^^ 0 = b from fun _ => BitVec.xor_zero, bne_self_eq_false]

theorem checkFails_congr {s t : State} (mem : t.mem = s.mem) (synd : t.synd = s.synd) (k : Nat) :
    checkFails t k = checkFails s k := by
  rw [checkFails, checkFails, storedCheck, storedCheck, mem, synd]

/-! ### What a store or an atomic leaves -/

/-- What an access that writes leaves of the state, of the launch records and of the context `c`: the frame of
`StoreGives`. -/
structure State.WritesOnly (u e : State) (c : Nat) : Prop where
  rest : e = { u with ctxs := e.ctxs, l1 := e.l1, l2 := e.l2, freeN := e.freeN, bad := e.bad, mem := e.mem, synd := e.synd,
                      wlog := e.wlog, scrubs := e.scrubs, recs := e.recs }
  others : ∀ d, d ≠ c → e.ctx d = u.ctx d
  charged : Ctx.Charged (u.ctx c) (e.ctx c)
  recs : ∀ r, e.lrec r = { u.lrec r with unreplayable := (e.lrec r).unreplayable }

/-- What an access that writes leaves at its address: the number, its check, the log and every other byte. -/
structure State.Wrote (u e : State) (a : Tr) (n new part : Nat) : Prop where
  num : e.numAt a n = new % 2 ^ (8 * n)
  right : checkFails e (memKey a.skew a.pa) = false
  logged : setIns e.wlog (logBit part a.pa) = e.wlog
  kept : ∀ k, k < memKey a.skew a.pa ∨ memKey a.skew a.pa + n ≤ k → readByte e.mem k = readByte u.mem k

namespace State.WritesOnly
variable {s t u : State} {c : Nat}

theorem trans (h : s.WritesOnly t c) (k : t.WritesOnly u c) : s.WritesOnly u c := by
  refine ⟨?_, fun d hd => (k.others d hd).trans (h.others d hd), h.charged.trans k.charged, fun r => ?_⟩
  · have rest := k.rest
    rw [h.rest] at rest
    exact rest
  · have recs := k.recs r
    rw [h.recs r] at recs
    exact recs

theorem of_serves (h : s.Serves t c) : s.WritesOnly t c := by
  refine ⟨?_, h.others, h.charged, fun r => ?_⟩
  · have rest := h.rest
    rw [OnlyCaches] at rest
    rw [rest]
  · have same : t.lrec r = s.lrec r := by rw [h.rest]; rfl
    rw [same]

theorem of_stores (h : s.StoresOnly t) : s.WritesOnly t c := by
  have ctx : ∀ d, t.ctx d = s.ctx d := fun d => by rw [h]; rfl
  have same : ∀ r, t.lrec r = s.lrec r := fun r => by rw [h]; rfl
  refine ⟨?_, fun d _ => ctx d, ?_, fun r => by rw [same]⟩
  · rw [State.StoresOnly] at h
    rw [h]
  · rw [ctx]
    exact .refl _

theorem cur (h : s.WritesOnly t c) : t.cur = s.cur := by rw [h.rest]

end State.WritesOnly

/-- R428: the mark of a superstep that cannot be replayed. -/
theorem State.writesOnly_noteAtomic (s : State) (c d : Nat) : s.WritesOnly (s.noteAtomic c) d := by
  unfold State.noteAtomic
  split
  · refine ⟨rfl, fun _ _ => rfl, .refl _, fun r => ?_⟩
    by_cases own : r = (s.ctx c).recIdx.toNat
    · subst own
      rw [State.lrec_setRec_self]
      rfl
    · have other : (s.setRec (s.ctx c).recIdx.toNat { s.gang c with unreplayable := true }).lrec r = s.lrec r :=
        look_put_ne _ _ _ own
      rw [other]
  · exact ⟨rfl, fun _ _ => rfl, .refl _, fun _ => rfl⟩

/-- The bytes of a store, in the state that serving the access has left. -/
theorem State.wrote_storeMem {u e : State} (sound : u.Sound) (mem : e.mem = u.mem) (a : Tr) {n : Nat} (wide : 0 < n)
    (v part core : Nat) :
    u.Wrote (storeMem e part core a.pa (memKey a.skew a.pa) (toLe v n)) a n v part := by
  have wf : Memory.wf e.mem = true := mem ▸ sound
  refine ⟨?_, checkFails_putBytes _ _ (by rwa [length_toLe]), setIns_setIns e.wlog _, fun k out => ?_⟩
  · rw [State.numAt, mem_storeMem]
    exact leNat_writeBytes wf ..
  · rw [mem_storeMem, readByte_writeBytes_ne _ _ _ _ (by rwa [length_toLe]), mem]

/-- R223: an atomic that writes nothing sets the write log's bit all the same. -/
theorem State.wrote_nothing {u e : State} (serves : e.mem = u.mem ∧ e.synd = u.synd) {a : Tr} {n : Nat}
    (right : checkFails u (memKey a.skew a.pa) = false) (part sector core : Nat) :
    u.Wrote (recallLease (logWrite e part a.pa) sector core) a n (u.numAt a n) part := by
  obtain ⟨mem, synd⟩ := serves
  refine ⟨?_, (checkFails_congr mem synd _).trans right, setIns_setIns e.wlog _, fun k _ => congrArg (readByte · k) mem⟩
  rw [Nat.mod_eq_of_lt (u.numAt_lt a n), State.numAt, State.numAt, ← mem]
  rfl

/-- An instruction that ends with a result in a state that its write has left. -/
theorem storeGives_of_done {i : Instr} {s u e : State} {a : Tr} {n new : Nat} {rd : RegNo} {v : Word} (cur : u.cur = s.cur)
    (only : u.WritesOnly e s.cur) (wrote : u.Wrote e a n new (s.partOf (s.cur / 4))) (form : exec i s = e.done rd v) :
    StoreGives i s u a n new rd v := by
  obtain ⟨t, done, reg, ⟨rest, others⟩, me⟩ := State.done_spec (only.cur.trans cur) rd v
  have charged : Ctx.Charged u.me e.me := by
    rw [State.me, State.me, only.cur, cur]
    exact only.charged
  have lrec : ∀ r, t.lrec r = e.lrec r := fun r => by rw [rest]; rfl
  have mem : t.mem = e.mem := by rw [rest]
  refine ⟨t, form.trans done, ?_, fun d other => (others d other).trans (only.others d other), reg.of_x (by rw [charged.1]),
    ?_, fun r => by rw [lrec]; exact only.recs r, ?_, ?_, ?_, fun k out => ?_⟩
  · have frame := only.rest
    rw [rest, frame]
  · rw [me]
    obtain ⟨same, more⟩ := charged
    refine ⟨?_, more⟩
    rw [same]
  · rw [State.numAt, mem]
    exact wrote.num
  · exact (checkFails_congr mem (by rw [rest]) _).trans wrote.right
  · have logged := wrote.logged
    rw [State.logged, logWrite, rest, logged]
  · rw [mem]
    exact wrote.kept k out

/-! ### Stores (R220) -/

/-- R132, R220: setting A and D keeps storage in its canonical form. -/
theorem State.sound_setAD (w : Who) (d : Bool) (pas : List Nat) {s : State} (sound : s.Sound) : (s.setAD w d pas).Sound := by
  induction pas generalizing s with
  | nil => exact sound
  | cons pa pas ih => exact ih (State.sound_markEntry w d pa sound)

theorem State.sound_translate {s u : State} {w : Who} {va : Word} {n : Need} {t : Tr} (h : s.translate w va n = .ok t u)
    (sound : s.Sound) : u.Sound := by
  cases vector : inVector va with
  | true =>
    obtain ⟨rest, -⟩ := State.translate_vector vector h
    rw [State.Sound, rest]
    exact sound
  | false =>
    rw [State.translate_scalar vector] at h
    obtain ⟨e, -, -, -, rfl⟩ | ⟨e, at_, v, ent, -, -, -, mem, -, rfl⟩ := State.scalarTr_ok h
    · exact sound
    · have canonical : v.Sound := by rw [State.Sound, mem]; exact sound
      rw [State.Sound, State.enterTlb_rest]
      exact State.sound_setAD w n.writes _ canonical

theorem State.Reaches.sound {s u : State} {va : Word} {op : MemOp} {t : Tr} (h : s.Reaches u va op t) (sound : s.Sound) :
    u.Sound := by
  obtain ⟨-, -, translates, -⟩ := h
  exact State.sound_translate translates sound

/-- A write to x0 is discarded. -/
theorem State.done_zero (s : State) (v : Word) : s.done 0 v = .next s.next := by
  rw [State.done_eq, Ctx.wx_zero, State.next]

section Store
variable {s u : State} {va v : Word} {t : Tr} {n : Nat}

theorem State.Reaches.access_store (h : s.Reaches u va (.store n v) t) (sound : s.Sound) (wide : 0 < n) (keeps : Bool) :
    ∃ e, s.access va (.store n v) keeps = .value 0 e ∧ u.WritesOnly e s.cur ∧
      u.Wrote e t n v.toNat (s.partOf (s.cur / 4)) := by
  have canonical := h.sound sound
  rw [h.access keeps]
  obtain ⟨-, -, -, -, -, allowed, still, right, unheld⟩ := h
  have unheld := unheld.resolve_left Bool.true_eq_false.mp
  have checked : (if n < 8 then u.badCheck (s.who s.cur) (memKey t.skew t.pa) t.pa va else none) = none := by
    split
    · next narrow =>
      have partly : ¬ MemOp.whole (.store n v) = true := fun whole => by
        have := beq_iff_eq.mp whole
        omega
      exact State.badCheck_of_right (right.resolve_left partly) ..
    · rfl
  have serves := u.serves_served (s.who s.cur) t (sectorOf (memKey t.skew t.pa)) (.store n v) true
  refine ⟨_, ?_, (State.WritesOnly.of_serves serves).trans (.of_stores (State.storesOnly_storeMem ..)),
    State.wrote_storeMem canonical serves.mem t wide v.toNat _ (s.cur / 4)⟩
  simp only [State.memAccess, allowed, still, unheld, checked, Bool.false_eq_true, if_false]
  rfl

theorem storeGives_of_reaches {i : Instr} (sound : s.Sound) (wide : 0 < n) (form : exec i s = s.store n va v)
    (h : s.Reaches u va (.store n v) t) : StoreGives i s u t n v.toNat 0 0 := by
  obtain ⟨e, value, only, wrote⟩ := h.access_store sound wide true
  exact storeGives_of_done h.translatesOnly.cur only wrote (form.trans ((State.store_of_value value).trans (e.done_zero 0).symm))

end Store

/-- Settles O19: each store by its width. -/
theorem storeResults : Obligations.StoreResults := by
  intro s u ra rb imm t sound a v
  exact ⟨storeGives_of_reaches sound (by decide) rfl, storeGives_of_reaches sound (by decide) rfl,
    storeGives_of_reaches sound (by decide) rfl, storeGives_of_reaches sound (by decide) rfl⟩

end Sys2Proof.Machine
end

section
/-!
PROOFS. Atomics of control threads that reach memory (R222, R223, R143, R428).
-/

namespace Sys2Proof.Machine

/-! ### The new value (R222) -/

section Width
variable {n : Nat} (width : n = 4 ∨ n = 8) (x : Word)
include width

/-- The bits of a word that an atomic takes. -/
theorem toNat_and_amoMask : (x &&& (if n = 4 then 0xFFFFFFFF else 0xFFFFFFFFFFFFFFFF)).toNat = x.toNat % 2 ^ (8 * n) := by
  rcases width with rfl | rfl
  · exact (BitVec.toNat_and ..).trans (Nat.and_two_pow_sub_one_eq_mod x.toNat 32)
  · exact (BitVec.toNat_and ..).trans (Nat.and_two_pow_sub_one_eq_mod x.toNat 64)

/-- A number of `n` bytes with its sign. -/
theorem toInt_amoSigned (fits : x.toNat < 2 ^ (8 * n)) :
    (if n = 4 then (x.setWidth 32).signExtend 64 else x).toInt =
      if 2 * x.toNat < 2 ^ (8 * n) then (x.toNat : Int) else (x.toNat : Int) - 2 ^ (8 * n) := by
  rcases width with rfl | rfl
  · rw [if_pos rfl, BitVec.toInt_signExtend_of_le (by decide), BitVec.toInt, BitVec.toNat_setWidth, Nat.mod_eq_of_lt fits]
    norm_cast
  · rw [if_neg (by decide), BitVec.toInt]
    norm_cast

/-- `rd` takes the old value with its sign. -/
theorem extend_amo (fits : x.toNat < 2 ^ (8 * n)) : extend n true x = BitVec.ofInt 64
    (if 2 * x.toNat < 2 ^ (8 * n) then (x.toNat : Int) else (x.toNat : Int) - 2 ^ (8 * n)) := by
  rw [← toInt_amoSigned width x fits, BitVec.ofInt_toInt]
  rcases width with rfl | rfl <;> rfl

end Width

/-- What an atomic leaves at its address: the new value, or the old one where it writes nothing. -/
def amoLeaves (n op old : Nat) (v c : Word) : Nat := (amoNew n op (BitVec.ofNat 64 old) v c).elim old BitVec.toNat

/-- R222, each operation on numbers of `n` bytes. -/
theorem amoLeaves_values {n old : Nat} (width : n = 4 ∨ n = 8) (fits : old < 2 ^ (8 * n)) (rb rd : Word) :
    let m := 2 ^ (8 * n)
    let v := rb.toNat % m
    let c := rd.toNat % m
    let sgn := fun x : Nat => (if 2 * x < m then (x : Int) else (x : Int) - m)
    let A := fun op new => amoLeaves n op old rb rd = new
    A 0 ((old + v) % m) ∧ A 1 v ∧ A 2 (if old = c then v else old) ∧ A 3 (if sgn old ≤ sgn v then old else v) ∧
    A 4 (if sgn old ≤ sgn v then v else old) ∧ A 5 (min old v) ∧ A 6 (max old v) ∧ A 7 (old &&& v) ∧ A 8 (old ||| v) := by
  intro m v c sgn A
  have within : m ∣ 2 ^ 64 := Nat.pow_dvd_pow 2 (by rcases width with rfl | rfl <;> decide)
  have positive : 0 < m := Nat.two_pow_pos _
  let mask : Word := if n = 4 then 0xFFFFFFFF else 0xFFFFFFFFFFFFFFFF
  let se := fun x : Word => if n = 4 then (x.setWidth 32).signExtend 64 else x
  let x := BitVec.ofNat 64 old
  have masked (w : Word) : (w &&& mask).toNat = w.toNat % m := toNat_and_amoMask width w
  have old_ : x.toNat = old := Nat.mod_eq_of_lt (fits.trans_le (Nat.le_of_dvd (by decide) within))
  have val_ : (rb &&& mask).toNat = v := masked rb
  have below : v < m := Nat.mod_lt _ positive
  have signed {w : Word} {a : Nat} (num : w.toNat = a) (low : a < m) : (se w).toInt = sgn a := by
    subst num
    exact (toInt_amoSigned width w low).trans (by simp [sgn, m])
  have signed_old := signed old_ fits
  have signed_val := signed val_ below
  refine ⟨?_, val_, ?_, ?_, ?_, ?_, ?_, ?_, ?_⟩
  · calc ((x + (rb &&& mask)) &&& mask).toNat
      _ = (x.toNat + (rb &&& mask).toNat) % 2 ^ 64 % m := by rw [masked, BitVec.toNat_add]
      _ = (old + v) % m := by rw [Nat.mod_mod_of_dvd _ within, old_, val_]
  · have same : x = rd &&& mask ↔ old = c := by rw [← BitVec.toNat_inj, old_, masked]
    change (if x = rd &&& mask then some (rb &&& mask) else none).elim old BitVec.toNat = _
    by_cases equal : old = c
    · rw [if_pos equal, if_pos (same.mpr equal), Option.elim_some, val_]
    · rw [if_neg equal, if_neg (mt same.mp equal), Option.elim_none]
  · change (if (se x).toInt ≤ (se (rb &&& mask)).toInt then x else rb &&& mask).toNat = _
    rw [signed_old, signed_val, apply_ite BitVec.toNat, old_, val_]
  · change (if (se x).toInt ≥ (se (rb &&& mask)).toInt then x else rb &&& mask).toNat = _
    rw [signed_old, signed_val, apply_ite BitVec.toNat, old_, val_]
    simp only [sgn]
    split_ifs <;> omega
  · change (if x.toNat ≤ (rb &&& mask).toNat then x else rb &&& mask).toNat = _
    rw [apply_ite BitVec.toNat, old_, val_, Nat.min_def]
  · change (if x.toNat ≥ (rb &&& mask).toNat then x else rb &&& mask).toNat = _
    rw [apply_ite BitVec.toNat, old_, val_, max_comm, Nat.max_def]
  · exact (BitVec.toNat_and ..).trans (by rw [old_, val_])
  · exact (BitVec.toNat_or ..).trans (by rw [old_, val_])

/-! ### The access -/

theorem State.mem_noteAtomic (s : State) (c : Nat) : (s.noteAtomic c).mem = s.mem := by
  unfold State.noteAtomic
  split <;> rfl

theorem State.synd_noteAtomic (s : State) (c : Nat) : (s.noteAtomic c).synd = s.synd := by
  unfold State.noteAtomic
  split <;> rfl

section Atomic
variable {s u : State} {va v c : Word} {t : Tr} {n op : Nat}

theorem State.Reaches.access_amo (h : s.Reaches u va (.amo n op v c) t) (sound : s.Sound) (wide : 0 < n)
    (replays : u.noAtomic s.cur = false) (keeps : Bool) :
    ∃ e, s.access va (.amo n op v c) keeps = .value (BitVec.ofNat 64 (u.numAt t n)) e ∧ u.WritesOnly e s.cur ∧
      u.Wrote e t n (amoLeaves n op (u.numAt t n) v c) (s.partOf (s.cur / 4)) := by
  have canonical := h.sound sound
  rw [h.access keeps]
  obtain ⟨-, -, -, -, -, allowed, still, right, unheld⟩ := h
  have unheld := unheld.resolve_left Bool.true_eq_false.mp
  have right := right.resolve_left Bool.false_ne_true
  have unmarked (w : Who) : u.badCheck w (memKey t.skew t.pa) t.pa va = none := State.badCheck_of_right right ..
  have open_ : u.noAtomic (s.who s.cur).c = false := replays
  let sector := sectorOf (memKey t.skew t.pa)
  let served (wrote : Bool) : State := (u.noteAtomic s.cur).served (s.who s.cur) t sector (.amo n op v c) wrote
  have serves (wrote : Bool) : (u.noteAtomic s.cur).Serves (served wrote) s.cur := State.serves_served ..
  have noted (wrote : Bool) : u.WritesOnly (served wrote) s.cur :=
    (u.writesOnly_noteAtomic ..).trans (.of_serves (serves wrote))
  have mem (wrote : Bool) : (served wrote).mem = u.mem := (serves wrote).mem.trans (u.mem_noteAtomic s.cur)
  have synd (wrote : Bool) : (served wrote).synd = u.synd := (serves wrote).synd.trans (u.synd_noteAtomic s.cur)
  rw [amoLeaves, State.numAt]
  cases new : amoNew n op (readN u.mem (memKey t.skew t.pa) n) v c with
  | some x =>
    have stored := State.wrote_storeMem canonical (mem true) t wide x.toNat (s.partOf (s.cur / 4)) 4096
    rw [readN] at new
    rw [new]
    refine ⟨_, ?_, (noted true).trans (.of_stores (State.storesOnly_storeMem ..)), stored⟩
    simp only [State.memAccess, allowed, still, unheld, unmarked, open_, readN, new, Bool.false_eq_true, if_false]
    rfl
  | none =>
    have logged : u.WritesOnly (logWrite (served false) (s.partOf (s.cur / 4)) t.pa) s.cur :=
      (noted false).trans (.of_stores rfl)
    rw [readN] at new
    rw [new]
    refine ⟨_, ?_, logged.trans (.of_stores (by rfl)),
      State.wrote_nothing ⟨mem false, synd false⟩ right (s.partOf (s.cur / 4)) sector 4096⟩
    simp only [State.memAccess, allowed, still, unheld, unmarked, open_, readN, new, Bool.false_eq_true, if_false]
    rfl

/-- R222: an atomic that reaches memory. -/
theorem storeGives_of_atomic {i : Instr} {d : BitVec 1} {rd ra rb : RegNo} {new : Nat} (sound : s.Sound)
    (size : n = if d = 1 then 8 else 4) (form : exec i s = s.atomic op d rd ra rb)
    (value : amoLeaves n op (u.numAt t n) (s.rx rb) (s.rx rd) = new)
    (h : s.Reaches u (s.rx ra) (.amo n op (s.rx rb) (s.rx rd)) t) (replays : u.noAtomic s.cur = false) :
    StoreGives i s u t n new rd (extend n true (BitVec.ofNat 64 (u.numAt t n))) := by
  have wide : 0 < n := by
    rw [size]
    split <;> decide
  obtain ⟨e, access, only, wrote⟩ := h.access_amo sound wide replays (rd != 0)
  rw [value] at wrote
  refine storeGives_of_done h.translatesOnly.cur only wrote (form.trans ?_)
  simp only [State.atomic, ← size, access]

end Atomic

/-- Settles O20: the access, with what each operation leaves at the address. -/
theorem atomicResults : Obligations.AtomicResults := by
  intro s u rd ra rb d t sound n m old v c sgn A
  have width : n = 4 ∨ n = 8 := by
    unfold n
    split
    · exact .inr rfl
    · exact .inl rfl
  have fits : old < m := u.numAt_lt t n
  have num : (BitVec.ofNat 64 old).toNat = old :=
    Nat.mod_eq_of_lt (fits.trans_le (Nat.pow_le_pow_right Nat.two_pos (by omega)))
  have result : extend n true (BitVec.ofNat 64 old) = BitVec.ofInt 64 (sgn old) := by
    have signed := extend_amo width (BitVec.ofNat 64 old) (by rwa [num])
    rw [signed, num]
    simp [sgn, m]
  have amo {i : Instr} {op new : Nat} (form : exec i s = s.atomic op d rd ra rb)
      (value : amoLeaves n op old (s.rx rb) (s.rx rd) = new) : A i op new := fun h replays =>
    result ▸ storeGives_of_atomic sound rfl form value h replays
  obtain ⟨add, swap, cas, min_, max_, minu, maxu, and_, or_⟩ := amoLeaves_values width fits (s.rx rb) (s.rx rd)
  exact ⟨amo rfl add, amo rfl swap, amo rfl cas, amo rfl min_, amo rfl max_, amo rfl minu, amo rfl maxu, amo rfl and_,
    amo rfl or_⟩

end Sys2Proof.Machine
end

section
/-!
PROOFS. Where an access of a control thread traps: the checks of R218 and R222, and the form of a window access (R116, R207,
R221, R399).
-/

namespace Sys2Proof.Machine

/-! ### The checks before the access (R218) -/

section Checks
variable {s : State} {va : Word} {op : MemOp} (keeps : Bool)

theorem State.access_of_noncanonical (form : canonical va = false) :
    s.access va op keeps = .exc { cause := 0x03, val := va } s :=
  if_pos (by rw [form, Bool.not_false])

theorem State.access_of_misaligned (form : canonical va = true) (misaligned : va.toNat % op.width ≠ 0) :
    s.access va op keeps = .exc { cause := 0x04, val := va } s := by
  rw [State.access, form, Bool.not_true, if_neg Bool.false_ne_true, if_pos misaligned]

/-- R135: the resident entry of an address in vector space does not give what the access needs. -/
theorem State.access_of_vector_fault (form : canonical va = true) (aligned : va.toNat % op.width = 0)
    (vector : inVector va = true)
    (fault : s.vecTr (clusterOf (s.cur / 4)) s.me.vspace.toNat s.me.level va op.need = none) :
    s.access va op keeps = .exc { cause := 0x06, val := va } s := by
  have translates : s.translate (s.who s.cur) va op.need = .exc { cause := 0x06, val := va } s := by
    rw [State.translate, if_pos vector]
    simp only [State.who]
    rw [show s.vecTr (clusterOf (s.cur / 4)) (s.ctx s.cur).vspace.toNat (s.ctx s.cur).level va op.need = none from fault]
  rw [State.access, form, Bool.not_true, if_neg Bool.false_ne_true, if_neg (not_not.mpr aligned), translates]

end Checks

/-! ### The place of the access (R116, R221) -/

/-- An access that a window does not take is narrower than 8 bytes or an atomic. -/
theorem MemOp.windowForm_eq_false_iff (op : MemOp) :
    op.windowForm = false ↔ op.width ≠ 8 ∨ ∃ n o x y, op = .amo n o x y := by
  cases op with
  | load n => simp [MemOp.windowForm, MemOp.width]
  | store n v => simp [MemOp.windowForm, MemOp.width]
  | amo n o x y => exact iff_of_true rfl (.inr ⟨n, o, x, y, rfl⟩)

section Place
variable {u : State} {w : Who} {t : Tr} {va : Word} {op : MemOp} (keeps : Bool)

theorem State.place_of_narrow_window {cl off : Nat} (place : placeOf t.pa = .window cl off) (narrow : op.windowForm = false) :
    u.place w t va op keeps = .exc { cause := 0x07, val := va } u := by
  simp only [State.place, place, narrow, Bool.false_eq_true, if_false]

/-- A page of attr 2 at what is neither a window nor a reserved range, or an access of it that no window takes. -/
theorem State.place_of_bad_page (page : t.attr = 2) (elsewhere : ∀ cl off, placeOf t.pa ≠ .window cl off)
    (bad : op.windowForm = false ∨ placeOf t.pa ≠ .reserved) :
    u.place w t va op keeps = .exc { cause := 0x07, val := va } u := by
  unfold State.place
  split
  · next place => exact absurd place (elsewhere _ _)
  · exact if_pos ⟨page, bad⟩

theorem State.place_of_reserved (place : placeOf t.pa = .reserved) (other : ¬ (t.attr = 2 ∧ op.windowForm = false)) :
    u.place w t va op keeps = .exc { cause := 0x18, val := va } u := by
  have page : ¬ (t.attr = 2 ∧ (op.windowForm = false ∨ Place.reserved ≠ .reserved)) := by simpa using other
  simp only [State.place, place, if_neg page]

end Place

/-! ### The instructions -/

theorem State.atomic_of_exc {s u : State} {op : Nat} {d : BitVec 1} {rd ra rb : RegNo} {e : Exc}
    (h : s.access (s.rx ra) (.amo (if d = 1 then 8 else 4) op (s.rx rb) (s.rx rd)) (rd != 0) = .exc e u) :
    s.atomic op d rd ra rb = .next (u.trapAt u.cur u.me.pc e) := by
  simp only [State.atomic, h, Ans.other]

/-- R116, R221: an access that translates traps as its place says. -/
theorem place_faults {s u : State} {va : Word} {op : MemOp} {t : Tr} {T : BitVec 8 → Prop} {keeps : Bool}
    (raises : ∀ k, u.place (s.who s.cur) t va op keeps = .exc { cause := k, val := va } u → T k) :
    (placeOf t.pa = .reserved → (t.attr = 2 → op.windowForm = false → T 0x07) ∧
      (¬ (t.attr = 2 ∧ op.windowForm = false) → T 0x18)) ∧
    (t.attr = 2 → placeOf t.pa ≠ .reserved → (∀ cl off, placeOf t.pa ≠ .window cl off) → T 0x07) ∧
    ∀ cl off, placeOf t.pa = .window cl off → op.windowForm = false → T 0x07 := by
  refine ⟨fun reserved => ⟨fun page narrow => raises _ ?_, fun other => raises _ (State.place_of_reserved keeps reserved other)⟩,
    fun page elsewhere outside => raises _ (State.place_of_bad_page keeps page outside (.inr elsewhere)),
    fun cl off window narrow => raises _ (State.place_of_narrow_window keeps window narrow)⟩
  exact State.place_of_bad_page keeps page (by simp [reserved]) (.inl narrow)

/-- Settles O21: each instruction traps where its access does. -/
theorem accessFaults : Obligations.AccessFaults := by
  intro s rd ra rb imm d a v F A
  have faults {i : Instr} {va : Word} {op : MemOp} {keeps : Bool}
      (raises : ∀ e u, s.access va op keeps = .exc e u → exec i s = .next (u.trapAt u.cur u.me.pc e)) : F i va op := by
    refine ⟨fun form => raises _ s (State.access_of_noncanonical keeps form),
      fun form misaligned => raises _ s (State.access_of_misaligned keeps form misaligned),
      fun form aligned vector fault => raises _ s (State.access_of_vector_fault keeps form aligned vector fault),
      fun t u form aligned translates => ?_⟩
    rw [← op.windowForm_eq_false_iff]
    exact place_faults fun k h => raises _ u ((State.access_of_translates form aligned translates keeps).trans h)
  have load {i : Instr} {n : Nat} {signed : Bool} (form : exec i s = s.load n signed rd a) : F i a (.load n) :=
    faults (keeps := true) fun _ _ h => form.trans (State.load_of_exc h signed rd)
  have store {i : Instr} {n : Nat} (form : exec i s = s.store n a v) : F i a (.store n v) :=
    faults (keeps := true) fun _ _ h => form.trans (State.store_of_exc h)
  have atomic {i : Instr} {k : Nat} (form : exec i s = s.atomic k d rd ra rb) : A i k :=
    faults fun _ _ h => form.trans (State.atomic_of_exc h)
  exact ⟨load (signed := true) rfl, load (signed := true) rfl, load (signed := true) rfl, load (signed := true) rfl,
    load (signed := false) rfl, load (signed := false) rfl, load (signed := false) rfl, store rfl, store rfl, store rfl,
    store rfl, atomic rfl, atomic rfl, atomic rfl, atomic rfl, atomic rfl, atomic rfl, atomic rfl, atomic rfl, atomic rfl⟩

end Sys2Proof.Machine
end

section
/-!
PROOFS. Typed calls (R225, R398): two loads of the table, the index check, the signature check and the call.
-/

namespace Sys2Proof.Machine

/-! ### The halves of a table's doubleword -/

theorem bits_low (w : Word) : bits w 0 32 = w.toNat % 2 ^ 32 := by
  rw [bits, BitVec.extractLsb'_toNat, Nat.shiftRight_zero]

theorem bits_low_ofNat (m : Nat) : bits (BitVec.ofNat 64 m) 0 32 = m % 2 ^ 32 := by
  rw [bits_low, BitVec.toNat_ofNat, Nat.mod_mod_of_dvd _ (Nat.pow_dvd_pow 2 (by decide))]

theorem extractLsb'_high_ofNat (m : Nat) :
    (BitVec.ofNat 64 m).extractLsb' 32 32 = BitVec.ofNat 32 (m / 2 ^ 32) := by
  apply BitVec.eq_of_toNat_eq
  rw [BitVec.extractLsb'_toNat, BitVec.toNat_ofNat, BitVec.toNat_ofNat, Nat.shiftRight_eq_div_pow]
  omega

/-! ### The steps of the call -/

/-- The end of an instruction with a transfer, in the terms of `RegIs`. -/
theorem State.goto_spec {u : State} {c : Nat} (cur : u.cur = c) (rd : RegNo) (v pc : Word) :
    ∃ t, (u.wx rd v).goto pc = .next t ∧ RegIs u t rd v ∧ OnlyCtx c u t ∧
      t.me = { u.me with x := t.me.x, pc := pc } := by
  subst cur
  refine ⟨_, rfl, ?_, ?_, ?_⟩ <;> simp only [State.wx_eq, State.me_setMe, State.setMe_setMe]
  · exact regIs_wx u u.me rd v rfl (fun y => { y with pc := pc }) fun _ => rfl
  · exact onlyCtx_setMe u _
  · rw [Ctx.wx]
    split <;> rfl

section Call
variable {s : State} (rd : RegNo) {idx sig : Word} {n : Nat}

/-- R225: an index at or past the count. -/
theorem State.callEntry_of_past (past : n % 2 ^ 32 ≤ idx.toNat) :
    s.callEntry rd idx sig (BitVec.ofNat 64 n) = raise s 0x0B 0 :=
  if_pos (by rwa [bits_low_ofNat])

theorem State.callEntry_of_value {e : Word} {t : State} (inside : idx.toNat < n % 2 ^ 32)
    (entry : s.access (s.me.fnbase + 8 + (idx <<< 3)) (.load 8) = .value e t) :
    s.callEntry rd idx sig (BitVec.ofNat 64 n) = t.callTo rd sig e := by
  rw [State.callEntry, if_neg (by rwa [bits_low_ofNat, not_le]), entry]

/-- R225: a signature that is not the caller's. -/
theorem State.callTo_of_other (other : n % 2 ^ 32 ≠ sig.toNat % 2 ^ 32) :
    s.callTo rd sig (BitVec.ofNat 64 n) = raise s 0x0B 1 :=
  if_pos (by rwa [bits_low_ofNat, bits_low])

theorem State.callTo_of_same (same : n % 2 ^ 32 = sig.toNat % 2 ^ 32) : s.callTo rd sig (BitVec.ofNat 64 n) =
    (s.wx rd (s.me.pc + 4)).goto (s.me.fnbase + BitVec.ofInt 64 (4 * (BitVec.ofNat 32 (n / 2 ^ 32)).toInt)) := by
  rw [← sext_shiftLeft_words, ← extractLsb'_high_ofNat]
  exact if_neg (not_not.mpr (by rw [bits_low_ofNat, bits_low, same]))

end Call

/-- An exception at a pc that the accesses before it have kept. -/
theorem raise_eq {s : State} {c : Nat} {pc : Word} (cur : s.cur = c) (kept : s.me.pc = pc) (k : BitVec 8) (v : Word) :
    raise s k v = .next (s.trapAt c pc { cause := k, val := v }) := by
  rw [raise, cur, kept]

theorem State.TranslatesOnly.charged_me {s u : State} (only : s.TranslatesOnly u s.cur) : Ctx.Charged s.me u.me := by
  rw [State.me, State.me, only.cur]
  exact only.charged

/-- A load that reaches memory: its value, and what it leaves of the state. -/
theorem State.Reaches.reads {s u : State} {va : Word} {t : Tr} {n : Nat} (h : s.Reaches u va (.load n) t) :
    ∃ v, s.access va (.load n) = .value (BitVec.ofNat 64 (u.numAt t n)) v ∧ u.cur = s.cur ∧ v.cur = s.cur ∧
      u.Serves v s.cur ∧ Ctx.Charged s.me v.me := by
  have cur : u.cur = s.cur := h.translatesOnly.cur
  have serves := h.served true (sectorOf (memKey t.skew t.pa))
  exact ⟨_, h.access_load true, cur, serves.cur.trans cur, serves, h.translatesOnly.charged_me.trans (serves.charged_me cur)⟩

/-- Settles O24: the two loads in their order, each followed by its check. -/
theorem typedCall : Obligations.TypedCall := by
  intro s s1 u u1 rd ra rb t e base idx entry count first
  obtain ⟨_, value, cur1, cur, serves, charged⟩ := first.reads
  refine ⟨⟨_, value⟩, fun access => ?_⟩
  obtain ⟨-, rfl⟩ := Ans.value.inj (access.symm.trans value)
  have form : exec (.callt rd ra rb) s = u.callEntry rd idx (s.rx rb) (BitVec.ofNat 64 count) := by
    change execCallt rd ra rb s = _
    simp only [execCallt, show s.access s.me.fnbase (.load 8) = _ from access]
    rfl
  refine ⟨serves.rest, serves.others, serves.charged_me cur1, fun past => ?_, fun inside second => ?_⟩
  · rw [form, State.callEntry_of_past rd past, raise_eq cur (by rw [charged.1])]
  · obtain ⟨v, value', cur2, cur', serves', charged'⟩ := second.reads
    rw [cur] at cur2 cur' serves'
    replace charged' := charged.trans charged'
    have pc : v.me.pc = s.me.pc := by rw [charged'.1]
    have table : v.me.fnbase = base := by rw [charged'.1]
    have same_entry : entry = u.me.fnbase + 8 + (idx <<< 3) := by rw [charged.1]
    rw [same_entry] at value'
    rw [form, State.callEntry_of_value rd inside value']
    refine ⟨fun other => ⟨v, ?_, serves'.rest, serves'.others, serves'.charged_me cur2⟩, fun same => ?_⟩
    · rw [State.callTo_of_other rd other, raise_eq cur' pc]
    · rw [State.callTo_of_same rd same, pc, table]
      obtain ⟨w, jumps, reg, only, me⟩ := State.goto_spec cur' rd (s.me.pc + 4) _
      exact ⟨w, jumps, serves'.ends cur2 reg only me⟩

end Sys2Proof.Machine
end

section
/-!
PROOFS. Class 3, `fdiv` and `fsqrt` where firmware performs them (R209, R391-R393).
-/

namespace Sys2Proof.Machine

/-! ### The queue for the record (R392) -/

/-- A context's own request leaves the queue of its core. -/
theorem look_leaveTripQ (s : State) (c : Nat) :
    look [] (s.leaveTripQ c (· == 0)).emuQ (c / 4) = (look [] s.emuQ (c / 4)).filter (fun e => e ≠ (c, 0)) := by
  rw [State.leaveTripQ, look_put_self]
  refine List.filter_congr fun e _ => ?_
  rw [Bool.eq_iff_iff, Bool.not_eq_true', Bool.and_eq_false_iff, decide_eq_true_iff, Ne, Prod.ext_iff, not_and_or]
  simp

/-- A context that begins to wait stands in the queue once, after the others. -/
theorem look_emuQ_of_taken {s t : State} {kind : Nat} {word : IWord} {rec : List Word}
    (taken : ¬ (s.emuFree (s.cur / 4) = true ∧ s.firstTrip s.cur = true)) (fresh : s.me.emuAt ≠ some s.me.pc)
    (form : s.tripHere kind word rec = .next t) :
    look [] t.emuQ (s.cur / 4) = (look [] s.emuQ (s.cur / 4)).filter (fun e => e ≠ (s.cur, 0)) ++ [(s.cur, 0)] := by
  rw [State.tripHere, if_neg (by rwa [Bool.and_eq_true]), if_neg fresh] at form
  cases form
  change look [] ((s.leaveTripQ s.cur (· == 0)).queueTrip s.cur 0).emuQ (s.cur / 4) = _
  rw [State.queueTrip, look_put_self, look_leaveTripQ]

/-! ### The record (R393) -/

/-- The record of an instruction of a unit class: one entry, with its operands. -/
def unitRecord (s : State) (word : IWord) (x y : Word) : List Word :=
  emuRecord word 0 s.me.pc 1 (s.me.crm.setWidth 64) 0 0 0 [emuEntry x y 0 true]

theorem State.unitC_of_emulated {s : State} {bit : Nat} {i : Instr} {w : IWord} (emulated : s.emulated bit = true)
    (enc : encode i = some w) (x y : Word) (native : Res') :
    s.unitC bit i x y native = s.tripHere 0 w (unitRecord s w x y) := by
  rw [State.unitC, if_pos emulated, State.emulate, enc, Option.getD_some, unitRecord]

/-- The word of the record's first doubleword, for a trip of a control thread. -/
theorem ofNat_word (w : IWord) : BitVec.ofNat 64 (w.toNat + 0 * 2 ^ 32) = w.setWidth 64 := by
  rw [Nat.zero_mul, Nat.add_zero, BitVec.ofNat_toNat]

/-- R372, R392, R393: a trip that is taken fills the record and traps to Fw. -/
theorem tripHere_spec {s : State} {word : IWord} {kind : Nat} {rec : List Word} (sound : s.Sound)
    (free : s.emuFree (s.cur / 4) = true) (first : s.firstTrip s.cur = true) :
    ∃ t, s.tripHere kind word rec = .next t ∧
      t = { s with ctxs := t.ctxs, mem := t.mem, synd := t.synd, marks := t.marks, emuQ := t.emuQ } ∧
      (∀ e ∈ look [] t.emuQ (s.cur / 4), e ≠ (s.cur, 0)) ∧ (∀ d, d ≠ s.cur → t.ctx d = s.ctx d) ∧
      t.me = { s.me.trap s.me.pc { cause := 0x13, val := wordVal (some word) } with
        emu := some (kind, word), emuAt := none } ∧
      (∀ j v, rec[j]? = some v → t.emuWord (s.cur / 4) (8 * j) = v) ∧
      ∀ a, a < emuKey (s.cur / 4) ∨ emuKey (s.cur / 4) + 8 * rec.length ≤ a → readByte t.mem a = readByte s.mem a := by
  let q := (s.leaveTripQ s.cur (· == 0)).setMe { s.me with emuAt := none }
  have me : q.me = { s.me with emuAt := none } := State.me_setMe _ _
  obtain ⟨synd, marks, trip⟩ := trip_eq q kind word rec
  let filled : State := { q with mem := (putDws q (emuKey (s.cur / 4)) rec).mem, synd := synd, marks := marks }
  have others : ∀ d, d ≠ s.cur → filled.ctx d = s.ctx d := fun d other => State.ctx_setMe_ne _ _ other
  rw [me] at trip
  refine ⟨_, (tripHere_of_free free first).trans (congrArg _ trip), rfl, fun e mem => ?_,
    fun d other => (State.ctx_setMe_ne filled _ other).trans (others d other), State.me_setMe _ _,
    fun _ _ word => readDw_putDws sound word, fun a out => readByte_putDws_ne (s := q) out⟩
  change e ∈ look [] (s.leaveTripQ s.cur (· == 0)).emuQ (s.cur / 4) at mem
  rw [look_leaveTripQ] at mem
  exact of_decide_eq_true (List.mem_filter.mp mem).2

/-- Settles O14: the word is that of a unit class, and its trip is taken or waits. -/
theorem emulatedClassesTrap : Obligations.EmulatedClassesTrap := by
  intro s i w k x y rd ra rb p sound classes enc emulated core mine
  have form : exec i s = s.tripHere 0 w (unitRecord s w x y) := by
    rcases classes with ⟨rfl, rfl, rfl, rfl | rfl | rfl | rfl | rfl | rfl | rfl | rfl⟩ | ⟨rfl, rfl, ⟨rfl, rfl⟩ | ⟨rfl, rfl⟩⟩
    all_goals exact State.unitC_of_emulated emulated enc _ _ _
  rw [form]
  refine ⟨fun taken => ?_, fun free => ?_⟩
  · obtain ⟨t, trips, rest, others, me, waiting, -⟩ := tripHere_of_taken (kind := 0) (word := w)
      (rec := unitRecord s w x y) taken
    exact ⟨t, trips, rest, others, me, waiting, fun fresh => look_emuQ_of_taken taken fresh trips⟩
  · obtain ⟨t, trips, rest, queue, others, me, words, kept⟩ := tripHere_spec (kind := 0) (word := w)
      (rec := unitRecord s w x y) sound free.1 free.2
    exact ⟨t, trips, rest, queue, others, me, (words 0 _ rfl).trans (ofNat_word w), words 1 _ rfl, words 2 _ rfl,
      words 3 _ rfl, words 32 _ rfl, words 33 _ rfl, words 35 _ rfl, kept⟩

end Sys2Proof.Machine
end

section
/-!
PROOFS. The geometry registers of the engines, `ewait` and the issue of `stream` (R264-R266, R270, R274, R279, R283).
-/

namespace Sys2Proof.Machine

/-- The end of an instruction that has changed its context. -/
theorem State.next_setMe (s : State) (y : Ctx) : (s.setMe y).next = s.setMe { y with pc := y.pc + 4 } := by
  rw [State.next, State.me_setMe, State.setMe_setMe]

/-! ### Format fields (R264) -/

/-- A field of a register as a number. -/
theorem bits_eq_div_mod (w : Word) (lo len : Nat) : bits w lo len = w.toNat / 2 ^ lo % 2 ^ len := by
  rw [bits, BitVec.extractLsb'_toNat, Nat.shiftRight_eq_div_pow]

/-- The code that a format field of 5 bits at `lo` holds after a write, where the codes of `codes` are accepted. -/
def fieldAfter (codes : List Nat) (old new : Word) (lo : Nat) : Nat :=
  if new.toNat / 2 ^ lo % 32 ∈ codes then new.toNat / 2 ^ lo % 32 else old.toNat / 2 ^ lo % 32

theorem fieldAfter_lt (codes : List Nat) (old new : Word) (lo : Nat) : fieldAfter codes old new lo < 32 := by
  unfold fieldAfter
  split <;> exact Nat.mod_lt _ (by decide)

theorem fmtField_eq_fieldAfter {ok : Nat → Bool} {codes : List Nat} (accepts : ∀ f, f < 32 → (ok f = true ↔ f ∈ codes))
    (old new : Word) (lo : Nat) : fmtField old new lo ok = 2 ^ lo * fieldAfter codes old new lo := by
  have code (w : Word) : bits w lo 5 = w.toNat / 2 ^ lo % 32 := bits_eq_div_mod w lo 5
  rw [fmtField, fieldAfter, code, code, Nat.mul_comm]
  exact congrArg (2 ^ lo * ·) (if_congr (accepts _ (Nat.mod_lt _ (by decide))) rfl rfl)

/-- The codes of R265, for `sg6`. -/
theorem streamFmtOk_iff : ∀ f, f < 32 →
    (streamFmtOk f = true ↔ f ∈ [0, 1, 2, 3, 4, 5, 6, 8, 10, 11, 12, 13, 14, 15, 16]) := by decide

/-- The codes of R279, for `lg0`. -/
theorem loomFmtOk_iff : ∀ f, f < 32 → (loomFmtOk f = true ↔ f ∈ [3, 4, 7, 8, 9, 10]) := by decide

/-- The codes of R279, for `lg1`. -/
theorem drainFmtOk_iff : ∀ f, f < 32 → (drainFmtOk f = true ↔ f ∈ [2, 3, 4, 8, 10, 11]) := by decide

/-! ### What a geometry register holds after a write (R264) -/

/-- A register with neither a format field nor reserved bits takes the whole value. -/
theorem geoValue_of_plain {e k : Nat} (plain : e = 1 ∧ k ≤ 5 ∨ e = 3 ∧ 1 ≤ k ∨ e = 4 ∧ k = 2) (old v : Word) :
    geoValue old v e k = v := by
  rcases plain with ⟨rfl, low⟩ | ⟨rfl, some_⟩ | ⟨rfl, rfl⟩
  · interval_cases k <;> rfl
  · obtain ⟨j, rfl⟩ := Nat.exists_eq_add_of_le' some_
    rfl
  · rfl

/-- `sg6` has three format fields. -/
theorem geoValue_sg6 (old v : Word) :
    let field := fieldAfter [0, 1, 2, 3, 4, 5, 6, 8, 10, 11, 12, 13, 14, 15, 16] old v
    geoValue old v 1 6 = BitVec.ofNat 64 (field 0 + 2 ^ 8 * field 8 + 2 ^ 16 * field 16) := by
  intro field
  rw [geoValue, fmtField_eq_fieldAfter streamFmtOk_iff, fmtField_eq_fieldAfter streamFmtOk_iff,
    fmtField_eq_fieldAfter streamFmtOk_iff, Nat.pow_zero, Nat.one_mul]

theorem geoValue_lg0 (old v : Word) :
    geoValue old v 4 0 = (v &&& 0xFFFF0100) ||| BitVec.ofNat 64 (fieldAfter [3, 4, 7, 8, 9, 10] old v 0) := by
  rw [geoValue, fmtField_eq_fieldAfter loomFmtOk_iff, Nat.pow_zero, Nat.one_mul]

theorem geoValue_lg1 (old v : Word) :
    geoValue old v 4 1 = (v &&& 0x100) ||| BitVec.ofNat 64 (fieldAfter [2, 3, 4, 8, 10, 11] old v 0) := by
  rw [geoValue, fmtField_eq_fieldAfter drainFmtOk_iff, Nat.pow_zero, Nat.one_mul]

section LowCode
variable {v mask : Word} {code : Nat}

/-- A format code beside the other fields of a register, which are those of `mask`. -/
theorem toNat_mod_of_low_code (clear : mask.toNat % 32 = 0) (small : code < 32) :
    ((v &&& mask) ||| BitVec.ofNat 64 code).toNat % 32 = code := by
  have fits : code % 2 ^ 64 = code := Nat.mod_eq_of_lt (by omega)
  rw [BitVec.toNat_or, BitVec.toNat_and, BitVec.toNat_ofNat, fits, show 32 = 2 ^ 5 from rfl, Nat.or_mod_two_pow,
    Nat.and_mod_two_pow, show mask.toNat % 2 ^ 5 = 0 from clear, Nat.and_zero, Nat.zero_or]
  exact Nat.mod_eq_of_lt small

theorem extractLsb'_of_low_code {lo len : Nat} (all : mask.extractLsb' lo len = BitVec.allOnes len) (high : 5 ≤ lo)
    (small : code < 32) : ((v &&& mask) ||| BitVec.ofNat 64 code).extractLsb' lo len = v.extractLsb' lo len := by
  have fits : code % 2 ^ 64 = code := Nat.mod_eq_of_lt (by omega)
  have gone : (BitVec.ofNat 64 code).extractLsb' lo len = 0#len := by
    apply BitVec.eq_of_toNat_eq
    have below : code < 2 ^ lo := lt_of_lt_of_le small (Nat.pow_le_pow_right (by decide : 0 < 2) high)
    rw [BitVec.extractLsb'_toNat, BitVec.toNat_ofNat, fits, Nat.shiftRight_eq_div_pow, Nat.div_eq_of_lt below,
      Nat.zero_mod, BitVec.toNat_ofNat, Nat.zero_mod]
  rw [BitVec.extractLsb'_or, BitVec.extractLsb'_and, all, gone, BitVec.and_allOnes, BitVec.or_zero]

theorem getLsbD_of_low_code {i : Nat} (bit : mask.getLsbD i = true) (high : 5 ≤ i) (small : code < 32) :
    ((v &&& mask) ||| BitVec.ofNat 64 code).getLsbD i = v.getLsbD i := by
  have below : code < 2 ^ i := lt_of_lt_of_le small (Nat.pow_le_pow_right (by decide : 0 < 2) high)
  rw [BitVec.getLsbD_or, BitVec.getLsbD_and, bit, Bool.and_true, BitVec.getLsbD_ofNat, Nat.testBit_lt_two_pow below,
    Bool.and_false, Bool.or_false]

end LowCode

/-! ### `ecfg` and the registers (R264) -/

/-- Register `k` of engine `e` is one that holds what is written to it (R265, R274, R279). -/
abbrev IsGeo (e k : Nat) : Prop := e = 1 ∧ k ≤ 7 ∨ e = 3 ∨ e = 4 ∧ (k ≤ 2 ∨ k = 15)

theorem Ctx.geo_geoWrite {e k : Nat} (held : IsGeo e k) (x : Ctx) (v : Word) :
    (x.geoWrite e k v).geo e k = geoValue (x.geo e k) v e k := by
  rcases held with ⟨rfl, low⟩ | rfl | ⟨rfl, some_⟩
  · exact (congrArg (Ctx.geo · 1 k) (if_pos low)).trans (look_put_self ..)
  · exact look_put_self ..
  · exact (congrArg (Ctx.geo · 4 k) (if_pos some_)).trans (look_put_self ..)

theorem Ctx.geo_geoWrite_ne {e k e' k' : Nat} (held : IsGeo e k) (engine : e' = 1 ∨ e' = 3 ∨ e' = 4)
    (other : (e', k') ≠ (e, k)) (x : Ctx) (v : Word) : (x.geoWrite e k v).geo e' k' = x.geo e' k' := by
  have apart (same : e' = e) : k' ≠ k := fun h => other (Prod.ext same h)
  unfold Ctx.geoWrite
  rcases held with ⟨rfl, low⟩ | rfl | ⟨rfl, some_⟩
  · rw [if_pos rfl, if_pos low]
    rcases engine with rfl | rfl | rfl
    · exact look_put_ne _ _ _ (apart rfl)
    · rfl
    · rfl
  · rcases engine with rfl | rfl | rfl
    · rfl
    · exact look_put_ne _ _ _ (apart rfl)
    · rfl
  · rw [if_neg (by decide), if_neg (by decide), if_pos some_]
    rcases engine with rfl | rfl | rfl
    · rfl
    · rfl
    · exact look_put_ne _ _ _ (apart rfl)

theorem Ctx.geoWrite_rest (x : Ctx) (e k : Nat) (v : Word) :
    x.geoWrite e k v = { x with sg := (x.geoWrite e k v).sg, gg := (x.geoWrite e k v).gg, lg := (x.geoWrite e k v).lg } := by
  simp only [Ctx.geoWrite]
  split_ifs <;> rfl

theorem becomes_ecfg (s : State) (ra : RegNo) (eng : BitVec 3) (n : BitVec 4) :
    Becomes (.ecfg ra eng n) s (fun x => { x.geoWrite eng.toNat n.toNat (s.rx ra) with pc := x.pc + 4 }) := by
  have run : exec (.ecfg ra eng n) s = .next (s.setMe (s.me.geoWrite eng.toNat n.toNat (s.rx ra))).next := rfl
  refine becomes_setMe (run.trans ?_)
  rw [State.next_setMe, Ctx.geoWrite_rest]

/-! ### `stream` (R266, R283) -/

/-- R266, R283: the operation and the formats of a `stream` are allowed. -/
abbrev State.StreamAllowed (s : State) (ra : RegNo) : Prop :=
  let f6 := (s.me.geo 1 6).toNat
  (s.rx ra).toNat < 8 ∧ streamOk (s.rx ra).toNat (f6 % 32) (f6 / 2 ^ 8 % 32) (f6 / 2 ^ 16 % 32) = true

/-- R266: the elements of a `stream`. -/
def State.streamCount (s : State) : Nat := s.me.vl * max 1 ((s.me.geo 1 7).toNat % 2 ^ 32)

theorem exec_stream (s : State) (ra rb : RegNo) : exec (.stream ra rb) s =
    if s.StreamAllowed ra then
      if s.me.gstate = .revoked then s.park .again
      else if s.streamCount ≤ s.me.vstart.toNat then .next (s.setMe { s.me with vstart := 0 }).next
      else s.issueElems (.stream ra rb) (s.rx ra) (s.rx rb) s.me.vstart.toNat s.streamCount
    else s.badOperand (.stream ra rb) := by
  have run : exec (.stream ra rb) s = execStream ra rb s := rfl
  rw [run, execStream, ← ite_not (s.StreamAllowed ra)]
  simp only [bits_eq_div_mod, Nat.pow_zero, Nat.div_one, State.streamCount]
  refine if_congr ?_ rfl rfl
  rw [Bool.or_eq_true, decide_eq_true_iff, Bool.not_eq_true', not_and_or, not_lt, Bool.not_eq_true]
  rfl

/-- Settles O44: `ecfg` by the register it writes, `stream` by its checks in their order. -/
theorem engineRegisters : Obligations.EngineRegisters := by
  intro s rd ra rb eng n w v x e k f6 count ok
  have stream := exec_stream s ra rb
  refine ⟨fun _ => gives_done rfl, fun held => ?_, parks_park rfl, fun refused word => ?_, fun good revoked => ?_,
    fun good here done => ?_, fun good here left => ?_⟩
  · obtain ⟨t, run, only, me⟩ := becomes_ecfg s ra eng n
    have geo (e' k' : Nat) : t.me.geo e' k' = (x.geoWrite e k v).geo e' k' := by rw [me]; rfl
    have value : t.me.geo e k = geoValue (x.geo e k) v e k := (geo e k).trans (Ctx.geo_geoWrite held x v)
    have low := fieldAfter_lt
    refine ⟨t, run, only, ?_, fun e' k' engine other => ?_, fun plain => ?_, fun ⟨one, seven⟩ => ?_,
      fun ⟨three, zero⟩ => ?_, fun ⟨four, last⟩ => ?_, fun ⟨one, six⟩ => ?_, fun ⟨four, zero⟩ => ?_,
      fun ⟨four, first⟩ => ?_⟩
    · rw [me]
      exact congrArg (fun y : Ctx => { y with pc := x.pc + 4 }) (x.geoWrite_rest e k v)
    · exact (geo e' k').trans (Ctx.geo_geoWrite_ne held engine other x v)
    · exact value.trans (geoValue_of_plain plain _ _)
    · rw [value, one, seven]; rfl
    · rw [value, three, zero]; rfl
    · rw [value, four, last]; rfl
    · rw [value, one, six]; exact geoValue_sg6 f6 v
    · rw [value, four, zero, geoValue_lg0]
      refine ⟨extractLsb'_of_low_code (by decide) (by decide) (low ..),
        getLsbD_of_low_code (by decide) (by decide) (low ..), ?_⟩
      rw [toNat_mod_of_low_code (by decide) (low ..), fieldAfter, Nat.pow_zero, Nat.div_one, Nat.div_one]
    · rw [value, four, first, geoValue_lg1]
      refine ⟨getLsbD_of_low_code (by decide) (by decide) (low ..), ?_⟩
      rw [toNat_mod_of_low_code (by decide) (low ..), fieldAfter, Nat.pow_zero, Nat.div_one, Nat.div_one]
  · exact raises_word word (stream.trans (if_neg refused))
  · exact parks_park (stream.trans ((if_pos good).trans (if_pos revoked)))
  · exact becomes_setMe (stream.trans ((if_pos good).trans ((if_neg here).trans ((if_pos done).trans
      (congrArg _ (State.next_setMe ..))))))
  · exact issues_of_issueElems
      (stream.trans ((if_pos good).trans ((if_neg here).trans (if_neg (Nat.not_le.mpr left)))))

end Sys2Proof.Machine
end

section
/-!
PROOFS. Operand slots claimed and released, and the jobs of the Loom submitted (R267, R276, R277, R280-R283).
-/

namespace Sys2Proof.Machine

open Host (Cell)

/-! ### The lowest run of free slots (R277) -/

/-- The run of `n` slots from `f` up lies in the cluster's 512 and is free. -/
abbrev State.RunFree (s : State) (cl n f : Nat) : Prop := f + n ≤ 512 ∧ ∀ k, k < n → s.slotFree cl (f + k) = true

section FreeRun
variable {s : State} {cl n f : Nat}

/-- A run is sought from slot 0 up. -/
theorem State.freeRun_eq (some_ : n ≠ 0) :
    s.freeRun cl n = (List.range 512).find? (fun f => decide (s.RunFree cl n f)) := by
  rw [State.freeRun, List.find?_filter]
  refine congrArg (List.find? · _) (funext fun f => ?_)
  rw [Bool.eq_iff_iff]
  simp only [decide_eq_true_iff, Bool.and_eq_true, List.all_eq_true, List.mem_range, List.contains_iff_mem, List.mem_filter]
  refine ⟨fun ⟨_, fits, free⟩ => ⟨fits, fun k inside => (free k inside).2⟩,
    fun ⟨fits, free⟩ => ⟨?_, fits, fun k inside => ?_⟩⟩
  · exact free 0 (Nat.pos_of_ne_zero some_)
  · exact ⟨by omega, free k inside⟩

theorem State.freeRun_eq_none (some_ : n ≠ 0) (taken : ∀ f, ¬ s.RunFree cl n f) : s.freeRun cl n = none := by
  rw [State.freeRun_eq some_, List.find?_eq_none]
  exact fun f _ => by rw [decide_eq_true_iff]; exact taken f

theorem State.freeRun_eq_some (some_ : n ≠ 0) (free : s.RunFree cl n f) (lowest : ∀ g, g < f → ¬ s.RunFree cl n g) :
    s.freeRun cl n = some f := by
  rw [State.freeRun_eq some_, List.find?_range_eq_some]
  have inside : f < 512 := lt_of_lt_of_le (Nat.lt_add_of_pos_right (Nat.pos_of_ne_zero some_)) free.1
  refine ⟨decide_eq_true_iff.mpr free, List.mem_range.mpr inside, fun g below => ?_⟩
  rw [decide_eq_false (lowest g below)]
  rfl

end FreeRun

/-- The slots of a run added to those that a crew has claimed. -/
def claimRun (l : List Nat) (f n : Nat) : List Nat := (List.range n).foldl (fun l k => setIns l (f + k)) l

theorem mem_claimRun (l : List Nat) (f n r : Nat) : r ∈ claimRun l f n ↔ r ∈ l ∨ f ≤ r ∧ r < f + n := by
  induction n with
  | zero => simp [claimRun]
  | succ n ih =>
    have last : claimRun l f (n + 1) = setIns (claimRun l f n) (f + n) := by
      rw [claimRun, List.range_succ, List.foldl_concat]
      rfl
    rw [last, mem_setIns, ih, or_assoc]
    exact or_congr_right (by omega)

/-! ### `lclaim` (R277) -/

/-- The slots that an `lclaim` asks for (R277). -/
def State.claimCount (s : State) (ra : RegNo) : Nat := (s.rx ra).toNat / 2 ^ 16 % 1024

theorem State.bits_claimCount (s : State) (ra : RegNo) : bits (s.rx ra) 16 10 = s.claimCount ra := bits_eq_div_mod ..

/-- R277, R283: the operand of an `lclaim` has other bits than its count set, or the count is 0. -/
abbrev State.ClaimRefused (s : State) (ra : RegNo) : Prop :=
  s.rx ra &&& ~~~0x3FF0000 ≠ 0 ∨ s.claimCount ra = 0

section Claim
variable {s : State} {rd ra : RegNo}

theorem exec_lclaim_of_refused (refused : s.ClaimRefused ra) : exec (.lclaim rd ra) s = s.badOperand (.lclaim rd ra) := by
  have run : exec (.lclaim rd ra) s = execLclaim rd ra s := rfl
  rw [run, execLclaim, State.bits_claimCount]
  exact if_pos refused

theorem exec_lclaim_of_none (accepted : ¬ s.ClaimRefused ra)
    (taken : s.freeRun (clusterOfCtx s.cur) (s.claimCount ra) = none) :
    exec (.lclaim rd ra) s = s.done rd 0 := by
  have run : exec (.lclaim rd ra) s = execLclaim rd ra s := rfl
  rw [run, execLclaim, State.bits_claimCount]
  refine (if_neg accepted).trans ?_
  rw [taken]

theorem exec_lclaim_of_run {f : Nat} (accepted : ¬ s.ClaimRefused ra)
    (found : s.freeRun (clusterOfCtx s.cur) (s.claimCount ra) = some f) :
    exec (.lclaim rd ra) s =
      (s.setMe { s.me with claimed := claimRun s.me.claimed f (s.claimCount ra) }).done rd
        (BitVec.ofNat 64 (f + 2 ^ 16 * s.claimCount ra)) := by
  have run : exec (.lclaim rd ra) s = execLclaim rd ra s := rfl
  rw [run, execLclaim, State.bits_claimCount, Nat.mul_comm (2 ^ 16)]
  refine (if_neg accepted).trans ?_
  rw [found]
  rfl

end Claim

/-! ### Slots cleared (R277) -/

theorem readByte_zeroRange (m : List Cell) (a n k : Nat) :
    readByte (zeroRange m a n) k = if a ≤ k ∧ k < a + n then 0 else readByte m k := by
  split
  · next inside =>
    induction m with
    | nil => rfl
    | cons e m ih =>
      rw [zeroRange, List.filter_cons]
      split
      · next kept =>
        have other : e.1 ≠ k := by
          rw [Bool.or_eq_true, decide_eq_true_iff, decide_eq_true_iff] at kept
          omega
        exact (if_neg other).trans ih
      · exact ih
  · next outside => exact readByte_filter (fun _ => by simp; omega) m

/-- The tile and the scale plane of a slot cleared (R118, R130). -/
def State.clearSlot (cl : Nat) (s : State) (n : Nat) : State :=
  clearRange (clearRange s (tileKey cl n) 0x6000) (planeKey cl n) 0x100

/-- A byte of the tile or of the scale plane of a slot. -/
abbrev InSlot (cl n k : Nat) : Prop :=
  tileKey cl n ≤ k ∧ k < tileKey cl n + 0x6000 ∨ planeKey cl n ≤ k ∧ k < planeKey cl n + 0x100

theorem readByte_clearSlot (cl : Nat) (s : State) (n k : Nat) :
    readByte (s.clearSlot cl n).mem k = if InSlot cl n k then 0 else readByte s.mem k := by
  have cleared : (s.clearSlot cl n).mem = zeroRange (zeroRange s.mem (tileKey cl n) 0x6000) (planeKey cl n) 0x100 := rfl
  rw [cleared, readByte_zeroRange, readByte_zeroRange, ← ite_or]
  exact if_congr or_comm rfl rfl

/-- Several slots cleared. -/
def State.clearSlots (s : State) (cl : Nat) (l : List Nat) : State := l.foldl (State.clearSlot cl) s

theorem State.clearSlots_rest (s : State) (cl : Nat) (l : List Nat) :
    s.clearSlots cl l =
      { s with mem := (s.clearSlots cl l).mem, synd := (s.clearSlots cl l).synd, marks := (s.clearSlots cl l).marks } := by
  induction l generalizing s with
  | nil => rfl
  | cons n l ih => exact ih (s.clearSlot cl n)

theorem State.clearSlots_cur (s : State) (cl : Nat) (l : List Nat) : (s.clearSlots cl l).cur = s.cur := by
  rw [State.clearSlots_rest]

theorem State.clearSlots_ctx (s : State) (cl : Nat) (l : List Nat) (d : Nat) : (s.clearSlots cl l).ctx d = s.ctx d := by
  rw [State.clearSlots_rest]
  rfl

theorem readByte_clearSlots (s : State) (cl : Nat) (l : List Nat) (k : Nat) :
    readByte (s.clearSlots cl l).mem k = if ∃ n ∈ l, InSlot cl n k then 0 else readByte s.mem k := by
  induction l generalizing s with
  | nil => simp [State.clearSlots]
  | cons n l ih =>
    refine (ih (s.clearSlot cl n)).trans ?_
    rw [readByte_clearSlot, ← ite_or]
    exact if_congr (by rw [List.exists_mem_cons_iff, or_comm]) rfl rfl

/-- The slots of a range (R277). -/
def slotRun (f m : Nat) : List Nat := (List.range m).map (f + ·)

theorem mem_slotRun {f m k : Nat} : k ∈ slotRun f m ↔ f ≤ k ∧ k < f + m := by
  rw [slotRun, List.mem_map]
  simp only [List.mem_range]
  exact ⟨fun ⟨j, inside, at_⟩ => by omega, fun ⟨low, high⟩ => ⟨k - f, by omega, by omega⟩⟩

/-- Consecutive blocks of `w` bytes follow one another. -/
theorem exists_block_iff {w : Nat} (wide : 0 < w) (base f m k : Nat) :
    (∃ n ∈ slotRun f m, base + n * w ≤ k ∧ k < base + n * w + w) ↔ base + f * w ≤ k ∧ k < base + (f + m) * w := by
  refine ⟨fun ⟨n, mem, low, high⟩ => ?_, fun ⟨low, high⟩ => ⟨(k - base) / w, ?_, ?_, ?_⟩⟩
  · obtain ⟨first, last⟩ := mem_slotRun.mp mem
    have above : f * w ≤ n * w := Nat.mul_le_mul_right w first
    have below : (n + 1) * w ≤ (f + m) * w := Nat.mul_le_mul_right w last
    rw [Nat.succ_mul] at below
    omega
  · exact mem_slotRun.mpr ⟨(Nat.le_div_iff_mul_le wide).mpr (by omega), (Nat.div_lt_iff_lt_mul wide).mpr (by omega)⟩
  · have := Nat.div_mul_le_self (k - base) w
    omega
  · have := Nat.lt_div_mul_add (a := k - base) wide
    omega

/-- The tiles of consecutive slots follow one another, and so do their planes (R130). -/
theorem exists_inSlot_iff (cl f m k : Nat) : (∃ n ∈ slotRun f m, InSlot cl n k) ↔
    tileKey cl f ≤ k ∧ k < tileKey cl (f + m) ∨ planeKey cl f ≤ k ∧ k < planeKey cl (f + m) := by
  have tiles := exists_block_iff (w := 0x6000) (by decide) (winBase cl + 0x1000000) f m k
  have planes := exists_block_iff (w := 0x100) (by decide) (winBase cl + 0x1C00000) f m k
  simp only [InSlot, tileKey, planeKey, and_or_left, exists_or, tiles, planes]

/-! ### `lrelease` (R277) -/

/-- R277: a job of the crew touches a range of slots. -/
abbrev State.JobTouches (s : State) (f m : Nat) : Prop :=
  ∃ j ∈ s.jobList s.cur, rangesMeet j.2.1 (slotRanges (clusterOfCtx s.cur) (f, m)) = true ∨
    rangesMeet j.2.2 (slotRanges (clusterOfCtx s.cur) (f, m)) = true

section Release
variable {s : State} {ra : RegNo} {f m : Nat}

theorem exec_lrelease_of_malformed (h : slotRange (s.rx ra) = none) :
    exec (.lrelease ra) s = s.badOperand (.lrelease ra) := by
  have run : exec (.lrelease ra) s = execLrelease ra s := rfl
  rw [run, execLrelease, h]

theorem exec_lrelease_of_range (h : slotRange (s.rx ra) = some (f, m)) : exec (.lrelease ra) s =
    if ∀ k ∈ slotRun f m, k ∈ s.me.claimed then
      if s.JobTouches f m then s.park .again
      else .next (s.releaseSlots s.cur (slotRun f m)).next
    else s.badOperand (.lrelease ra) := by
  have run : exec (.lrelease ra) s = execLrelease ra s := rfl
  rw [run, execLrelease, h, ← ite_not (∀ k ∈ slotRun f m, k ∈ s.me.claimed)]
  refine if_congr ?_ rfl (if_congr ?_ rfl rfl)
  · rw [Bool.not_eq_true', ← Bool.not_eq_true, List.all_eq_true]
    simp only [List.contains_iff_mem, slotRun]
  · simp only [List.any_eq_true, Bool.or_eq_true]

end Release

/-- The context after a release that gives up the slots of `l`. -/
def Ctx.gaveUp (x : Ctx) (l : List Nat) : Ctx :=
  { x with pc := x.pc + 4, claimed := x.claimed.filter (fun n => !l.contains n) }

theorem Ctx.mem_claimed_gaveUp {x : Ctx} {l : List Nat} {k : Nat} :
    k ∈ (x.gaveUp l).claimed ↔ k ∈ x.claimed ∧ k ∉ l := by
  simp only [Ctx.gaveUp, List.mem_filter, Bool.not_eq_true', ← Bool.not_eq_true, List.contains_iff_mem]

theorem State.next_releaseSlots (s : State) (l : List Nat) :
    (s.releaseSlots s.cur l).next = (s.clearSlots (clusterOfCtx s.cur) l).setMe (s.me.gaveUp l) := by
  let u := s.clearSlots (clusterOfCtx s.cur) l
  have released : s.releaseSlots s.cur l =
      u.setCtx s.cur { u.ctx s.cur with claimed := (u.ctx s.cur).claimed.filter (fun n => !l.contains n) } := rfl
  have here : s.releaseSlots s.cur l =
      u.setMe { s.me with claimed := s.me.claimed.filter (fun n => !l.contains n) } := by
    rw [released, State.clearSlots_ctx, State.setMe, State.clearSlots_cur]
    rfl
  rw [here, State.next_setMe]
  rfl

/-- R277: what the release of a run of slots leaves. -/
theorem State.releaseSlots_run (s : State) (f m : Nat) :
    let t := (s.releaseSlots s.cur (slotRun f m)).next
    t = { s with ctxs := t.ctxs, mem := t.mem, synd := t.synd, marks := t.marks } ∧
      (∀ d, d ≠ s.cur → t.ctx d = s.ctx d) ∧
      t.me = { s.me with pc := s.me.pc + 4, claimed := t.me.claimed } ∧
      (∀ k, k ∈ t.me.claimed ↔ k ∈ s.me.claimed ∧ ¬ (f ≤ k ∧ k < f + m)) ∧
      ∀ k, readByte t.mem k =
        if tileKey (clusterOfCtx s.cur) f ≤ k ∧ k < tileKey (clusterOfCtx s.cur) (f + m) ∨
          planeKey (clusterOfCtx s.cur) f ≤ k ∧ k < planeKey (clusterOfCtx s.cur) (f + m) then 0
        else readByte s.mem k := by
  intro t
  have form : t = _ := s.next_releaseSlots (slotRun f m)
  have me : t.me = s.me.gaveUp (slotRun f m) := by rw [form, State.me_setMe]
  refine ⟨?_, fun d other => ?_, ?_, fun k => ?_, fun k => ?_⟩
  · rw [form, State.clearSlots_rest]
    rfl
  · rw [form, State.ctx_setMe_ne _ _ (by rwa [State.clearSlots_cur]), State.clearSlots_ctx]
  · rw [me]
    rfl
  · rw [me, Ctx.mem_claimed_gaveUp, mem_slotRun]
  · rw [form, State.setMe_mem, readByte_clearSlots]
    exact if_congr (exists_inSlot_iff ..) rfl rfl

/-! ### Loom jobs (R267, R276, R280-R282) -/

/-- The context with a Loom job last in its queue, nothing of it done. -/
def Ctx.queueLoom (x : Ctx) (kind : BitVec 3) (a b : Word) : Ctx :=
  { x with
    pc := x.pc + 4, lastJob := x.lastJob + 1
    loomq := x.loomq ++ [{ num := x.lastJob + 1, kind := kind, ra := a, rb := b, lg0 := (x.geo 4 0).setWidth 32, chunk := 0,
                           started := false, tokens := 0, side := sideOf x.gsq, parts := [] }] }

theorem Ctx.loomParks_iff (x : Ctx) : x.loomParks = true ↔ x.gstate = .requested ∨ x.gstate = .revoked := by
  rw [Ctx.loomParks, Bool.or_eq_true, decide_eq_true_iff, decide_eq_true_iff]

section Submit
variable {s : State} {i : Instr} {kind : BitVec 3} {a b : Word}

/-- R83, R267, R276: a Loom job waits for the crew's lanes and for a place in the queue of eight. -/
theorem loomJob_of_submitLoom (form : exec i s = s.submitLoom kind a b) :
    (s.me.gstate = .requested ∨ s.me.gstate = .revoked ∨ 8 ≤ s.me.loomq.length → Parks i s .again) ∧
    (s.me.gstate ≠ .requested → s.me.gstate ≠ .revoked → s.me.loomq.length < 8 →
      Becomes i s (fun x => x.queueLoom kind a b)) := by
  have waits : (s.me.loomParks || decide (s.me.loomq.length ≥ 8)) = true ↔
      s.me.gstate = .requested ∨ s.me.gstate = .revoked ∨ 8 ≤ s.me.loomq.length := by
    rw [Bool.or_eq_true, decide_eq_true_iff, Ctx.loomParks_iff, or_assoc]
  rw [State.submitLoom] at form
  refine ⟨fun held => parks_park (form.trans (if_pos (waits.mpr held))), fun asked gone room => ?_⟩
  refine becomes_setMe (form.trans ((if_neg (mt waits.mp ?_)).trans ?_))
  · rintro (h | h | full)
    · exact asked h
    · exact gone h
    · omega
  · exact congrArg _ (State.next_setMe ..)

end Submit

theorem exec_lzero (s : State) (ra : RegNo) : exec (.lzero ra) s =
    if s.me.noLoom = true ∨ 4 ≤ (s.rx ra).toNat then s.badOperand (.lzero ra) else s.submitLoom 4 (s.rx ra) 0 := by
  have run : exec (.lzero ra) s = execLzero ra s := rfl
  rw [run, execLzero]
  exact if_congr (by rw [Bool.or_eq_true, decide_eq_true_iff]) rfl rfl

theorem exec_lmmaO (s : State) (ra rb : RegNo) : exec (.lmmaO ra rb) s =
    if s.loomBad s.cur (s.rx ra) (s.rx rb) ((s.me.geo 4 0).setWidth 32) then s.badOperand (.lmmaO ra rb)
    else s.submitLoom 5 (s.rx ra) (s.rx rb) := rfl

theorem exec_lmmaR (s : State) (ra rb : RegNo) : exec (.lmmaR ra rb) s =
    if s.loomBad s.cur (s.rx ra) (s.rx rb) ((s.me.geo 4 0).setWidth 32) then s.badOperand (.lmmaR ra rb)
    else s.submitLoom 6 (s.rx ra) (s.rx rb) := rfl

/-- R276, R282, R283: the crew has no Loom, or the tile's address or row distance is not aligned. -/
abbrev State.DrainRefused (s : State) (ra : RegNo) : Prop :=
  s.me.noLoom = true ∨ (s.rx ra).toNat % 8 ≠ 0 ∨ (s.me.geo 4 2).toNat % 8 ≠ 0

/-- R282: the format of `lg1` suits the type of its bank. -/
abbrev State.DrainFits (s : State) : Prop :=
  drainOk (if (s.me.geo 4 1).getLsbD 8 then s.me.acc1Int else s.me.acc0Int) ((s.me.geo 4 1).toNat % 32) = true

theorem exec_ldrain (s : State) (rd ra : RegNo) : exec (.ldrain rd ra) s =
    if s.DrainRefused ra then s.badOperand (.ldrain rd ra)
    else if s.me.loomParks = true ∨ s.me.loomBusy = true then s.park .again
    else if s.DrainFits then
      s.issueElems (.ldrain rd ra) (s.rx ra) 0 0 (256 * sideOf s.me.gsq * sideOf s.me.gsq)
    else s.badOperand (.ldrain rd ra) := by
  have run : exec (.ldrain rd ra) s = execLdrain rd ra s := rfl
  have code : bits (s.me.geo 4 1) 0 5 = (s.me.geo 4 1).toNat % 32 := by
    rw [bits_eq_div_mod, Nat.pow_zero, Nat.div_one]
    rfl
  rw [run, execLdrain, code, ← ite_not (s.DrainFits)]
  refine if_congr ?_ rfl (if_congr ?_ rfl (if_congr ?_ rfl rfl))
  · rw [Bool.or_eq_true, Bool.or_eq_true, bne_iff_ne, bne_iff_ne, or_assoc]
  · rw [Bool.or_eq_true]
  · rw [Bool.not_eq_true', Bool.not_eq_true]

/-- Settles O46: each instruction by its checks in their order. -/
theorem loomInstructions : Obligations.LoomInstructions := by
  intro s rd ra rb w v x cl n free lg0 J
  have drain := exec_ldrain s rd ra
  have refuses {i : Instr} (form : exec i s = s.badOperand i) (word : encode i = some w) :
      Raises i s 0x0D (w.setWidth 64) := raises_word word form
  refine ⟨fun refused => refuses (exec_lclaim_of_refused refused), fun shape some_ => ?_,
    fun malformed => refuses (exec_lrelease_of_malformed malformed), fun f m range => ?_,
    fun refused => refuses ((exec_lzero s ra).trans (if_pos refused)), fun loom small => ?_,
    fun refused => ⟨refuses ((exec_lmmaO s ra rb).trans (if_pos refused)),
      refuses ((exec_lmmaR s ra rb).trans (if_pos refused))⟩, fun good => ?_, ?_⟩
  · have accepted : ¬ s.ClaimRefused ra := fun h => h.elim (· shape) some_
    refine ⟨fun taken => gives_done (exec_lclaim_of_none accepted (State.freeRun_eq_none some_ taken)),
      fun f run lowest => ?_⟩
    · obtain ⟨t, done, only, reg, me⟩ := State.done_setMe (u := s) rfl
        (y := { s.me with claimed := claimRun s.me.claimed f n }) rfl rd (BitVec.ofNat 64 (f + 2 ^ 16 * n))
      have claimed : t.me.claimed = claimRun s.me.claimed f n := by rw [me]
      refine ⟨t, ?_, only, reg, ?_, fun k => ?_⟩
      · exact (exec_lclaim_of_run accepted (State.freeRun_eq_some some_ run lowest)).trans done
      · rw [claimed]
        exact me
      · rw [claimed, mem_claimRun]
  · intro touched mine
    have form := exec_lrelease_of_range range
    have claims : mine ↔ ∀ k ∈ slotRun f m, k ∈ s.me.claimed := by
      simp only [mine, mem_slotRun, and_imp, x]
    exact ⟨fun other => refuses (form.trans (if_neg (mt claims.mpr other))),
      fun all meets => parks_park (form.trans ((if_pos (claims.mp all)).trans (if_pos meets))),
      fun all apart => ⟨_, form.trans ((if_pos (claims.mp all)).trans (if_neg apart)), s.releaseSlots_run f m⟩⟩
  · refine loomJob_of_submitLoom ((exec_lzero s ra).trans (if_neg ?_))
    rintro (none_ | large)
    · exact absurd (loom.symm.trans none_) (by decide)
    · exact absurd small (Nat.not_lt.mpr large)
  · have passes : ¬ s.loomBad s.cur v (s.rx rb) lg0 = true := by rw [good]; decide
    exact ⟨loomJob_of_submitLoom ((exec_lmmaO s ra rb).trans (if_neg passes)),
      loomJob_of_submitLoom ((exec_lmmaR s ra rb).trans (if_neg passes))⟩
  · intro g bad fmtOk
    refine ⟨fun refused => refuses (drain.trans (if_pos refused)),
      fun good held => parks_park (drain.trans ((if_neg good).trans (if_pos held))), fun good here idle => ?_⟩
    have ready : ¬ (x.loomParks = true ∨ x.loomBusy = true) := by rw [here, idle]; decide
    have form := drain.trans ((if_neg good).trans (if_neg ready))
    exact ⟨fun unfit => refuses (form.trans (if_neg unfit)), fun fits => issues_of_issueElems (form.trans (if_pos fits))⟩

end Sys2Proof.Machine
end

section
/-!
PROOFS. `trap` and `upret` (R302, R304, R372).
-/

namespace Sys2Proof.Machine

/-! ### Traps that trigger no rollback (R372, R427) -/

/-- A cause that triggers rollbacks (R427). -/
def triggers (k : BitVec 8) : Bool := k == 0x20 || k == 0x21 || k == 0x22 || k == 0x28 || k == 0x29

/-- R372, R427: a cause that triggers no rollback enters a handler. -/
theorem State.trapAt_of_no_trigger (s : State) (c : Nat) (epc : Word) {e : Exc} (h : triggers e.cause = false) :
    s.trapAt c epc e = s.setCtx c ((s.ctx c).trap epc e) := by
  rw [triggers] at h
  simp only [State.trapAt, State.rollsBack, State.noteTrigger, h, Bool.and_false, Bool.false_eq_true, if_false]

/-- A trap at App, but for the emulation trip's, goes to Sys. -/
theorem Ctx.trap_of_app {x : Ctx} {e : Exc} (app : x.level = .app) (other : e.cause ≠ 0x13) (epc : Word) :
    x.trap epc e = { x with
      run := .active, level := .sys, pc := x.st.vec &&& ~~~3, call := none, card := none, watching := none,
      st := { x.st with cause := e.cause, epc := epc, val := e.val, plev := 0, ldepth := BitVec.ofNat 3 x.loops.length } } := by
  simp only [Ctx.trap, trapLevel, other, app, if_true, if_false, aligned_vec, Level.code]

/-- A trap at Sys or Fw goes to Fw. -/
theorem Ctx.trap_of_above {x : Ctx} (above : x.level ≠ .app) (e : Exc) (epc : Word) :
    x.trap epc e = { x with
      run := .active, level := .fw, pc := x.ft.vec &&& ~~~3, call := none, card := none, watching := none,
      ft := { x.ft with cause := e.cause, epc := epc, val := e.val, plev := x.level.code,
                        ldepth := BitVec.ofNat 3 x.loops.length } } := by
  have fw : trapLevel e.cause x.level = .fw := by rw [trapLevel, if_neg above, ite_self]
  have down : ¬ Level.fw = .sys := by decide
  simp only [Ctx.trap, fw, down, if_false, aligned_vec]

/-! ### The instructions -/

theorem exec_trap (s : State) (code : BitVec 8) : exec (.trap code) s =
    .next (s.setMe (s.me.trap (s.me.pc + 4) { cause := 0x14, val := code.setWidth 64 })) :=
  congrArg _ (s.trapAt_of_no_trigger _ _ rfl)

/-- Settles O31: the cause 0x14 triggers no rollback, and the level of the handler is by that of the context. -/
theorem softwareTrap : Obligations.SoftwareTrap := by
  intro s code
  refine ⟨_, exec_trap s code, rfl, fun d other => State.ctx_setMe_ne s _ other, ?_⟩
  rw [State.me_setMe]
  by_cases app : s.me.level = .app
  · rw [Ctx.trap_of_app app (by decide : (0x14 : BitVec 8) ≠ 0x13)]
    exact ⟨fun _ => ⟨rfl, rfl, rfl, rfl⟩, fun above => absurd app above, rfl, rfl, rfl⟩
  · rw [Ctx.trap_of_above app]
    exact ⟨fun down => absurd down app, fun _ => ⟨rfl, rfl, rfl, rfl⟩, rfl, rfl, rfl⟩

/-- Settles O34: at App `upret` writes its own context and nothing else. -/
theorem returnFromUpcall : Obligations.ReturnFromUpcall := by
  intro s app
  exact becomes_setMe (f := fun x => { x with pc := x.upepc, upcallEn := true }) (if_neg (not_not_intro app))

end Sys2Proof.Machine
end

section
/-!
PROOFS. `wait`, `wake`, `trap` and `upret`: leases that lapse, contexts released from a doubleword, and the ends of a `wait`
(R52, R120, R155, R294, R295, R302, R304).
-/

namespace Sys2Proof

/-- A table whose values are changed by a function that keeps the default. -/
theorem look_map {α : Type} {f : α → α} {d : α} (h : f d = d) (m : Table α) (k : Nat) :
    look d (m.map (fun e => (e.1, f e.2))) k = f (look d m k) := by
  induction m with
  | nil => exact h.symm
  | cons e m ih =>
    rw [List.map_cons, look, look, ih, apply_ite f]

/-- A key whose value is not the default is listed. -/
theorem mem_of_look {α : Type} {d : α} {m : Table α} {k : Nat} (h : look d m k ≠ d) : (k, look d m k) ∈ m := by
  induction m with
  | nil => exact absurd rfl h
  | cons e m ih =>
    rw [look] at h ⊢
    split
    · next same => rw [← same]; exact List.mem_cons_self
    · next other =>
      rw [if_neg other] at h
      exact List.mem_cons_of_mem _ (ih h)

end Sys2Proof

namespace Sys2Proof.Machine

/-! ### Leases that lapse (R155) -/

theorem L1Ent.lapsed_lapsed (e : L1Ent) : e.lapsed.lapsed = e.lapsed := rfl

/-- No lease of the core stands. -/
def State.Lapsed (s : State) (core : Nat) : Prop := ∀ e ∈ s.l1, e.core = core → e.expiry = 0 ∧ e.since = []

theorem State.lapsed_lapse (s : State) (core : Nat) : (lapse s core).Lapsed core := by
  intro e mem same
  obtain ⟨d, -, rfl⟩ := List.mem_map.mp mem
  split at same
  · next at_ => rw [if_pos at_]; exact ⟨rfl, rfl⟩
  · next other => exact absurd same other

/-- R155: the leases of the cores of several contexts lapse. -/
theorem foldl_lapse (l : List Nat) (s : State) : l.foldl (fun t c => lapse t (c / 4)) s =
    { s with l1 := s.l1.map (fun e => if ∃ c ∈ l, e.core = c / 4 then e.lapsed else e) } := by
  induction l generalizing s with
  | nil => simp
  | cons c l ih =>
    rw [List.foldl_cons, ih]
    simp only [lapse, List.map_map, Function.comp_def]
    congr 2
    funext e
    by_cases same : e.core = c / 4
    · simp [same, L1Ent.lapsed_lapsed]
    · simp [same]

/-! ### The contexts parked on a doubleword (R295) -/

/-- A context after a wake of a doubleword. -/
def Ctx.woken (x : Ctx) (key : Nat) : Ctx :=
  match x.run with
  | .parked (.watch k _ _) => if k = key then { x with run := .active, pc := x.pc + 4 } else x
  | _ => x

theorem Ctx.watches_iff {x : Ctx} {key : Nat} : x.watches key = true ↔ ∃ v a, x.run = .parked (.watch key v a) := by
  unfold Ctx.watches
  split
  · next k v a run => simp only [run, beq_iff_eq, Run.parked.injEq, Why.watch.injEq, exists_and_left, exists_eq', and_true]
  · next other => exact ⟨nofun, fun ⟨v, a, run⟩ => absurd run (other _ v a)⟩

theorem Ctx.woken_eq (x : Ctx) (key : Nat) : x.woken key = if x.watches key = true then x.resume else x := by
  unfold Ctx.woken
  split
  · next k v a run =>
    have watches : x.watches key = (k == key) := by rw [Ctx.watches, run]
    simp only [watches, beq_iff_eq]
    rfl
  · next other =>
    refine (if_neg fun watches => ?_).symm
    obtain ⟨v, a, run⟩ := Ctx.watches_iff.mp watches
    exact other _ v a run

theorem State.ctx_wakeAll (s : State) (key d : Nat) : (s.wakeAll key).ctx d = (s.ctx d).woken key := by
  have form : s.ctxs.map (fun e => if e.2.watches key then (e.1, e.2.resume) else e) =
      s.ctxs.map (fun e => (e.1, e.2.woken key)) := by
    refine List.map_congr_left fun e _ => ?_
    rw [Ctx.woken_eq]
    split <;> rfl
  change look Ctx.reset (s.ctxs.map _) d = _
  rw [form]
  exact look_map (f := fun x : Ctx => x.woken key) rfl s.ctxs d

/-- R155, R295: what a wake leaves of the caches and of everything but the contexts. -/
theorem State.wakeAll_spec (s : State) (key : Nat) :
    let w := s.wakeAll key
    w = { s with ctxs := w.ctxs, l1 := w.l1 } ∧
    (∀ e ∈ w.l1, e ∈ s.l1 ∨ ∃ e0 ∈ s.l1, e = e0.lapsed) ∧
    ∀ d, (s.ctx d).watches key = true → w.Lapsed (d / 4) := by
  simp only [State.wakeAll, foldl_lapse]
  refine ⟨trivial, fun e mem => ?_, fun d watches e mem same => ?_⟩
  · obtain ⟨e0, mem0, rfl⟩ := List.mem_map.mp mem
    split
    · exact .inr ⟨e0, mem0, rfl⟩
    · exact .inl mem0
  · obtain ⟨e0, mem0, rfl⟩ := List.mem_map.mp mem
    have listed : (d, s.ctx d) ∈ s.ctxs := by
      refine mem_of_look fun reset => ?_
      rw [State.ctx, reset] at watches
      cases watches
    have at_ : d ∈ (s.ctxs.filter (fun e => e.2.watches key)).map (·.1) :=
      List.mem_map.mpr ⟨_, List.mem_filter.mpr ⟨listed, watches⟩, rfl⟩
    split at same
    · next covered => rw [if_pos covered]; exact ⟨rfl, rfl⟩
    · next free => exact absurd ⟨d, at_, same⟩ free

/-! ### `wake` (R295) -/

/-- What a wake of a doubleword leaves of the state that its translation has left. -/
def State.Wakes (s u : State) (ra : RegNo) (key : Nat) : Prop :=
  ∃ w, exec (.wake ra) s = .next w ∧ w = { u with ctxs := w.ctxs, l1 := w.l1 } ∧
    (∀ e ∈ w.l1, e ∈ u.l1 ∨ ∃ e0 ∈ u.l1, e = e0.lapsed) ∧
    (∀ e ∈ w.l1, ∀ d, (u.ctx d).watches key = true → e.core = d / 4 → e.expiry = 0 ∧ e.since = []) ∧
    ∀ d, w.ctx d = if d = s.cur then { (u.ctx d).woken key with pc := ((u.ctx d).woken key).pc + 4 } else (u.ctx d).woken key

section Wake
variable {s u : State} {ra : RegNo} {t : Tr} (form : canonical (s.rx ra) = true) (aligned : (s.rx ra).toNat % 8 = 0)
  (translates : s.Translates u (s.rx ra) .r t)
include form aligned translates

theorem exec_wake_of_translates (open_ : u.loadFault t (s.rx ra) = none) :
    exec (.wake ra) s = .next (u.wakeAll (s.keyAt (s.rx ra))).next := by
  change execWake ra s = _
  simp only [execWake, form, aligned, show s.translate (s.who s.cur) (s.rx ra) .r = .ok t u from translates, open_,
    Bool.not_true, Bool.false_eq_true, if_false, ne_eq, not_true_eq_false]

theorem State.wakes_of_translates {key : Nat} (open_ : u.loadFault t (s.rx ra) = none) (at_ : s.keyAt (s.rx ra) = key) :
    s.Wakes u ra key := by
  have cur : u.cur = s.cur := (State.translatesOnly_translate translates).cur
  obtain ⟨rest, l1, lapsed⟩ := u.wakeAll_spec key
  have woken : (u.wakeAll key).cur = s.cur := by rw [rest, cur]
  rw [State.Wakes, exec_wake_of_translates form aligned translates open_, at_]
  refine ⟨_, rfl, ?_, l1, fun e mem d watches same => lapsed d watches e mem same, fun d => ?_⟩
  · generalize u.wakeAll key = w at rest
    rw [rest]
    rfl
  · split
    · next same =>
      rw [State.next, same, ← woken, State.ctx_setMe_self, State.me, State.ctx_wakeAll]
    · next other =>
      rw [State.next, State.ctx_setMe_ne _ _ (by rwa [woken]), State.ctx_wakeAll]

end Wake

/-! ### The key of a doubleword (R294) -/

theorem State.keyAt_of_memory {s u : State} {va : Word} {t : Tr} (h : s.Translates u va .r t)
    (memory : placeOf t.pa = .hbm ∨ placeOf t.pa = .tier2) : s.keyAt va = memKey t.skew t.pa := by
  rcases memory with place | place <;>
    simp only [State.keyAt, show s.translate (s.who s.cur) va .r = .ok t u from h, place]

theorem State.keyAt_of_local {s u : State} {va : Word} {t : Tr} {cl off k o : Nat} (h : s.Translates u va .r t)
    (place : placeOf t.pa = .window cl off) (item : winOf cl off = .local_ k o) : s.keyAt va = localKey k o := by
  simp only [State.keyAt, show s.translate (s.who s.cur) va .r = .ok t u from h, place, item]
  rfl

theorem State.loadFault_of_local {u : State} {va : Word} {t : Tr} {cl off k o : Nat}
    (place : placeOf t.pa = .window cl off) (item : winOf cl off = .local_ k o) : u.loadFault t va = none := by
  simp only [State.loadFault, place, item, State.winState]
  rfl

/-- R218, R295: an address that a load reaches in memory can be loaded. -/
theorem State.Reaches.loadFault {s u : State} {va : Word} {t : Tr} (h : s.Reaches u va (.load 8) t) :
    u.loadFault t va = none := by
  have only := h.translatesOnly
  obtain ⟨-, -, -, page, memory, allowed, -⟩ := h
  have allowed : u.memFault (u.who u.cur) t va false = none := by
    rw [only.cur, only.who]
    exact allowed
  rcases memory with place | place <;> simp only [State.loadFault, place, page, if_false, allowed]

/-! ### The ends of a `wait` (R52, R155, R294) -/

/-- What a `wait` of context `c` on the value `b` of the doubleword at `key` and address `a`, which has `v`, leaves of a
state `u`, where `x` is its context after the load. -/
structure State.WaitEnds (u : State) (c : Nat) (b a v : Word) (key : Nat) (x : Ctx) (w : State) : Prop where
  others : ∀ d, d ≠ c → w.ctx d = u.ctx d
  leases : v ≠ b ∨ u.abortRaised c = true → w.Lapsed (c / 4)
  differs : v ≠ b → Ctx.Charged { x with pc := x.pc + 4 } w.me
  aborted : v = b → u.abortRaised c = true → Ctx.Charged { x with pc := x.pc + 4, abortSeen := true, abortEver := true } w.me
  parks : v = b → u.abortRaised c = false → Ctx.Charged { x with run := .parked (.watch key b a) } w.me

theorem State.abortRaised_congr {s t : State} {c : Nat} (clusters : t.clusters = s.clusters)
    (gang : (t.ctx c).recIdx = (s.ctx c).recIdx) : t.abortRaised c = s.abortRaised c := by
  rw [State.abortRaised, State.abortRaised, gang, State.cluster, State.cluster, clusters]

theorem State.sampleAbort_of_raised {s : State} {c : Nat} (h : s.abortRaised c = true) :
    s.sampleAbort c = s.setCtx c { s.ctx c with abortSeen := true, abortEver := true } := if_pos h

/-- A context written, its core's leases lapsed and its pc moved on. -/
theorem State.next_lapse_setMe (u : State) (y : Ctx) (core : Nat) :
    (lapse (u.setMe y) core).next = (lapse u core).setMe { y with pc := y.pc + 4 } := by
  have me : (lapse (u.setMe y) core).me = y := u.me_setMe y
  rw [State.next, me]
  exact (lapse u core).setMe_setMe y _

theorem State.waitOn_spec (u : State) (key : Nat) (v b a : Word) : ∃ w, u.waitOn key v b a = .next w ∧
    w = { u with ctxs := w.ctxs, l1 := w.l1 } ∧ u.WaitEnds u.cur b a v key u.me w := by
  unfold State.waitOn
  split_ifs with differs raised
  · refine ⟨_, rfl, rfl, fun d other => State.ctx_setMe_ne (lapse u _) _ other, fun _ => u.lapsed_lapse _, fun _ => ?_,
      fun same => absurd same differs, fun same => absurd same differs⟩
    rw [State.next, State.me_setMe]
    exact .refl _
  · have form := u.next_lapse_setMe { u.me with abortSeen := true, abortEver := true } (u.cur / 4)
    rw [State.sampleAbort_of_raised raised]
    refine ⟨_, congrArg _ form, rfl, fun d other => State.ctx_setMe_ne (lapse u _) _ other, fun _ => u.lapsed_lapse _,
      fun h => absurd h differs, fun _ _ => ?_, fun _ low => absurd (raised.symm.trans low) (by decide)⟩
    rw [State.me_setMe]
    exact .refl _
  · refine ⟨_, rfl, rfl, fun d other => State.ctx_setMe_ne u _ other, fun h => absurd h (by simp [differs, raised]),
      fun h => absurd h differs, fun _ high => absurd high raised, fun _ _ => ?_⟩
    rw [State.me_setMe]
    exact .refl _

/-- A context changed in fields that no fill charges. -/
theorem Ctx.Charged.update {x y : Ctx} (h : Ctx.Charged x y) (f : Ctx → Ctx)
    (keeps : ∀ (z : Ctx) a b p, f { z with chgfill := a, chgwb := b, postFaults := p } =
      { f z with chgfill := a, chgwb := b, postFaults := p }) (reports : ∀ z, (f z).postFaults = z.postFaults) :
    Ctx.Charged (f x) (f y) := by
  obtain ⟨same, more⟩ := h
  refine ⟨?_, by rwa [reports, reports]⟩
  rw [same, keeps]

/-- What the load of a `wait` has charged to its context stays beside the end of the `wait`. -/
theorem State.WaitEnds.of_load {u t w : State} {c key : Nat} {b a v : Word} {x : Ctx}
    (others : ∀ d, d ≠ c → t.ctx d = u.ctx d) (line : t.abortRaised c = u.abortRaised c)
    (charged : Ctx.Charged x (t.ctx c)) (h : t.WaitEnds c b a v key (t.ctx c) w) : u.WaitEnds c b a v key x w where
  others d other := (h.others d other).trans (others d other)
  leases e := h.leases (line ▸ e)
  differs e := charged.next.trans (h.differs e)
  aborted e high := (charged.update (fun z => { z with pc := z.pc + 4, abortSeen := true, abortEver := true })
    (fun _ _ _ _ => rfl) fun _ => rfl).trans (h.aborted e (line.trans high))
  parks e low := (charged.update (fun z => { z with run := .parked (.watch key b a) }) (fun _ _ _ _ => rfl)
    fun _ => rfl).trans (h.parks e (line.trans low))

/-- A `wait` whose load gives a value. -/
theorem exec_wait_of_value {s t : State} {ra rb : RegNo} {v : Word} (load : s.access (s.rx ra) (.load 8) = .value v t) :
    exec (.wait ra rb) s = t.waitOn (s.keyAt (s.rx ra)) v (s.rx rb) (s.rx ra) := by
  change execWait ra rb s = _
  simp only [execWait, load]

/-- R294: a `wait` whose load is served. -/
theorem wait_ends_of_load {s u t : State} {ra rb : RegNo} {v : Word} {x : Ctx} (cur : t.cur = s.cur)
    (load : s.access (s.rx ra) (.load 8) = .value v t) (others : ∀ d, d ≠ s.cur → t.ctx d = u.ctx d)
    (clusters : t.clusters = u.clusters) (gang : x.recIdx = (u.ctx s.cur).recIdx) (charged : Ctx.Charged x (t.ctx s.cur)) :
    ∃ w, exec (.wait ra rb) s = .next w ∧ w = { t with ctxs := w.ctxs, l1 := w.l1 } ∧
      u.WaitEnds s.cur (s.rx rb) (s.rx ra) v (s.keyAt (s.rx ra)) x w := by
  obtain ⟨w, ended, rest, ends⟩ := t.waitOn_spec (s.keyAt (s.rx ra)) v (s.rx rb) (s.rx ra)
  rw [State.me, cur] at ends
  have line : t.abortRaised s.cur = u.abortRaised s.cur :=
    State.abortRaised_congr clusters (by rw [charged.1, ← gang])
  exact ⟨w, (exec_wait_of_value load).trans ended, rest, ends.of_load others line charged⟩

/-- R294: a `wait` of a doubleword of memory. -/
theorem wait_ends_of_reaches {s u : State} {ra rb : RegNo} {t : Tr} (h : s.Reaches u (s.rx ra) (.load 8) t) :
    ∃ w, exec (.wait ra rb) s = .next w ∧ OnlyCaches u w ∧ u.WaitEnds s.cur (s.rx rb) (s.rx ra)
      (BitVec.ofNat 64 (u.numAt t 8)) (memKey t.skew t.pa) u.me w := by
  obtain ⟨v, load, curU, cur, serves, -⟩ := h.reads
  have own : u.ctx s.cur = u.me := by rw [State.me, curU]
  obtain ⟨w, ended, rest, ends⟩ := wait_ends_of_load (rb := rb) cur load serves.others (by rw [serves.rest])
    (congrArg Ctx.recIdx own.symm) (own ▸ serves.charged)
  obtain ⟨-, -, translates, -, memory, -⟩ := h
  rw [State.keyAt_of_memory translates memory] at ends
  refine ⟨w, ended, ?_, ends⟩
  have served := serves.rest
  rw [OnlyCaches, rest, served]

section Window
variable {s u : State} {ra rb : RegNo} {t : Tr} {cl off : Nat} (form : canonical (s.rx ra) = true)
  (aligned : (s.rx ra).toNat % 8 = 0) (translates : s.Translates u (s.rx ra) .r t)
  (place : placeOf t.pa = .window cl off)
include form aligned translates place

theorem State.access_of_window : s.access (s.rx ra) (.load 8) =
    u.winAccess (s.who s.cur) (winOf cl off) t.pa (s.rx ra) (.load 8) :=
  (State.access_of_translates (op := .load 8) form aligned translates true).trans (State.place_of_window place rfl ..)

/-- R294: a `wait` of a doubleword of the core's own local memory. -/
theorem wait_ends_of_local {o : Nat} (item : winOf cl off = .local_ (s.cur / 4) o)
    (awake : u.unitAsleep (bankUnit (s.cur / 4) o) = false) (right : checkFails u (localKey (s.cur / 4) o) = false)
    (unmarked : u.marks.contains (localKey (s.cur / 4) o / 8 * 8) = false) :
    ∃ w, exec (.wait ra rb) s = .next w ∧ w = { u with ctxs := w.ctxs, l1 := w.l1 } ∧
      u.WaitEnds s.cur (s.rx rb) (s.rx ra) (readDw u.mem (localKey (s.cur / 4) o)) (localKey (s.cur / 4) o)
        { u.me with lbanks := u.me.lbanks ||| (1 <<< (o / 0x8000)) } w := by
  have cur : u.cur = s.cur := (State.translatesOnly_translate translates).cur
  have load := State.access_of_window form aligned translates place
  rw [item] at load
  have load := load.trans (State.winAccess_load_of_local (w := s.who s.cur) awake 8)
  have load := load.trans (State.winLoad_of_local (w := s.who s.cur) unmarked right)
  generalize used : ({ u.me with lbanks := u.me.lbanks ||| (1 <<< (o / 0x8000)) } : Ctx) = x
  have gang : x.recIdx = (u.ctx s.cur).recIdx := by rw [← used, ← cur]; rfl
  have bank : u.useBank (s.who s.cur).c (.local_ (s.who s.cur).core o) = u.setMe x := by
    rw [State.setMe, ← used, State.me, cur]
    exact if_pos rfl
  rw [bank] at load
  have mine : (u.setMe x).ctx s.cur = x := cur ▸ u.ctx_setMe_self x
  obtain ⟨w, ended, rest, ends⟩ := wait_ends_of_load (rb := rb) (t := u.setMe x) cur load
    (fun d other => State.ctx_setMe_ne u x (cur ▸ other)) rfl gang (by rw [mine]; exact .refl x)
  rw [State.keyAt_of_local translates place item] at ends
  exact ⟨w, ended, rest, ends⟩

/-- R120, R294: a `wait` of any other window item. -/
theorem wait_raises_of_window (other : u.winState s.me.level (winOf cl off) = .fault ∨
      u.winAsleep (winOf cl off) = false ∧
        (∀ o, winOf cl off ≠ .local_ (s.cur / 4) o ∧ winOf cl off ≠ .emu (s.cur / 4) o)) :
    exec (.wait ra rb) s = .next (u.trapAt s.cur s.me.pc { cause := 0x07, val := s.rx ra }) := by
  have only : s.TranslatesOnly u s.cur := State.translatesOnly_translate translates
  have load := State.access_of_window form aligned translates place
  have raised : ∀ a : Ans, (a = .exc { cause := 0x07, val := s.rx ra } u ∨ a = .waits (.window t.pa (s.rx ra)) u) →
      s.access (s.rx ra) (.load 8) = a → exec (.wait ra rb) s = raise u 0x07 (s.rx ra) := by
    intro a kind load
    change execWait ra rb s = _
    rcases kind with rfl | rfl
    · simp only [execWait, load, Ans.other, raise]
    · simp only [execWait, load]
  have trap : exec (.wait ra rb) s = raise u 0x07 (s.rx ra) := by
    by_cases shut : u.winState s.me.level (winOf cl off) = .fault
    · exact raised _ (.inl rfl) (load.trans (State.winAccess_of_shut (w := s.who s.cur) shut))
    · obtain ⟨awake, away⟩ := other.resolve_left shut
      exact raised _ (.inr rfl) (load.trans (State.winAccess_load_of_away (w := s.who s.cur) shut awake away 8))
  exact trap.trans (raise_eq only.cur (by rw [State.me, only.cur]; exact only.pc) ..)

end Window

/-- Settles O37: a `wake` by the key of its doubleword, a `wait` by what its load gives. -/
theorem waitAndWake : Obligations.WaitAndWake := by
  intro s u ra rb t a b ends wakes
  have wakes_of {key : Nat} (h : s.Wakes u ra key) : wakes key := by
    obtain ⟨w, ended, rest, l1, lapsed, ctxs⟩ := h
    exact ⟨w, ended, rest, l1, lapsed, ctxs⟩
  have ends_of {v : Word} {key : Nat} {x : Ctx} {w : State} (h : u.WaitEnds s.cur b a v key x w) : ends v key x w :=
    ⟨h.others, h.leases, h.differs, h.aborted, h.parks⟩
  refine ⟨fun h => ⟨?_, ?_⟩, fun cl off k o form aligned translates place =>
    ⟨fun local_ => ?_, fun own awake right unmarked => ?_, ?_⟩⟩
  · obtain ⟨form, aligned, translates, -, memory, -⟩ := id h
    exact wakes_of (State.wakes_of_translates form aligned translates h.loadFault (State.keyAt_of_memory translates memory))
  · obtain ⟨w, ended, rest, h⟩ := wait_ends_of_reaches (rb := rb) h
    exact ⟨w, ended, rest, ends_of h⟩
  · exact wakes_of (State.wakes_of_translates form aligned translates (State.loadFault_of_local place local_)
      (State.keyAt_of_local translates place local_))
  · obtain ⟨w, ended, rest, h⟩ := wait_ends_of_local (rb := rb) form aligned translates place own awake right unmarked
    exact ⟨w, ended, rest, ends_of h⟩
  · exact wait_raises_of_window form aligned translates place

end Sys2Proof.Machine
end

section
/-!
PROOFS. `fence`, barriers, votes and `wait` end (R50, R52, R155, R286-R291, R294, R376, R427).
-/

namespace Sys2Proof.Machine

/-! ### The steps -/

theorem exec_fenceReturn (s : State) : exec .fenceReturn s = execFenceReturn s := rfl

theorem exec_barrierComplete (s : State) : exec .barrierComplete s = execBarrierComplete s := rfl

theorem exec_gbarComplete (s : State) : exec .gbarComplete s = execGbarComplete s := rfl

theorem exec_voteComplete (s : State) : exec .voteComplete s = execVoteComplete s := rfl

theorem exec_barrierTimeout (s : State) : exec .barrierTimeout s = execBarrierTimeout s := rfl

theorem exec_waitReturn (s : State) : exec .waitReturn s = execWaitReturn s := rfl

/-! ### A participant leaves (R50, R155, R288) -/

theorem State.leaveBar_eq (s : State) (c : Nat) : s.leaveBar c =
    s.setCtx c { s.ctx c with run := .active, pc := (s.ctx c).pc + 4, sense := !(s.ctx c).sense } := rfl

theorem State.leaveLapsed_eq (s : State) (c : Nat) : s.leaveLapsed c = (lapse s (c / 4)).setCtx c
    { s.ctx c with run := .active, pc := (s.ctx c).pc + 4, sense := !(s.ctx c).sense } := rfl

theorem State.leaveGbar_eq (s : State) (c : Nat) : s.leaveGbar c = (lapse s (c / 4)).setCtx c
    { s.ctx c with run := .active, pc := (s.ctx c).pc + 4, sense := !(s.ctx c).sense, ssn := (s.ctx c).ssn + 1,
                   xch := false, votes := 0, abortSeen := false } := by
  simp only [State.leaveGbar, State.leaveLapsed_eq, State.ctx_setCtx_self, State.setCtx_setCtx]

/-! ### The participants (R287, R288, R437) -/

theorem State.mem_arrivals (s : State) (b : Bar) (d : Nat) : d ∈ s.arrivals b ↔
    (∃ k ∈ rectCores b.scope, d = 4 * k + b.chan ∧ k ∉ (s.cluster (clusterOf k)).missingCores) ∧ s.barOf d = some b := by
  simp only [State.arrivals, State.barCtxs, List.mem_filter, List.mem_map, beq_iff_eq, Bool.not_eq_true',
    List.contains_eq_mem, decide_eq_false_iff_not]
  refine and_congr_left fun _ => exists_congr fun k => ?_
  rw [and_assoc, and_congr_right_iff]
  exact fun _ => ⟨fun ⟨here, at_⟩ => ⟨at_.symm, here⟩, fun ⟨at_, here⟩ => ⟨here, at_.symm⟩⟩

/-! ### `fence` (R286) -/

theorem exec_fenceReturn_of_parked {s : State} {scope : Word} (run : (s.ctx s.arg.unit).run = .parked (.fence scope)) :
    exec .fenceReturn s = .next (if s.fenceDone s.arg.unit scope then
      (lapse s (s.arg.unit / 4)).setCtx s.arg.unit
        { s.ctx s.arg.unit with run := .active, pc := (s.ctx s.arg.unit).pc + 4 } else s) := by
  simp only [exec_fenceReturn, execFenceReturn, run]
  split <;> rfl

theorem exec_fenceReturn_of_other {s : State} (run : ∀ v, (s.ctx s.arg.unit).run ≠ .parked (.fence v)) :
    exec .fenceReturn s = .next s := by
  rw [exec_fenceReturn]
  dsimp only [execFenceReturn]
  split
  · next v parked => exact absurd parked (run v)
  · rfl

/-! ### Barriers (R288-R291, R376) -/

theorem exec_barrier_of_none {s : State} (none_ : s.barOf s.arg.unit = none) :
    exec .barrierComplete s = .next s ∧ exec .gbarComplete s = .next s ∧ exec .voteComplete s = .next s ∧
      exec .barrierTimeout s = .next s := by
  simp only [exec_barrierComplete, execBarrierComplete, exec_gbarComplete, execGbarComplete, exec_voteComplete,
    execVoteComplete, exec_barrierTimeout, execBarrierTimeout, none_, and_self]

/-- Nothing keeps back a `gbar` at which every core has arrived (R290, R427; log 107). -/
def State.GbarFree (s : State) (r : Nat) (l : List Nat) : Prop :=
  (s.lrec r).trigger = false ∧ (∀ d ∈ l, s.allDone d) ∧ ((s.lrec r).marked = true → ∀ d ∈ l, s.saveWaits d = false)

theorem State.gbarFree_iff (s : State) {r : Nat} {l : List Nat} : s.GbarFree r l ↔
    (!(s.lrec r).trigger) = true ∧ l.all s.allDone = true ∧ (!((s.lrec r).marked && l.any s.saveWaits)) = true := by
  cases marked : (s.lrec r).marked <;> simp [State.GbarFree, marked]

/-- The state after a completed `gbar`, before the snapshot or the pre-emption that is due (R50, R290). -/
def State.leavesGbar (s : State) (r : Nat) (l : List Nat) : State :=
  let t := (l.foldl State.leaveGbar s).lowerLines r
  t.setRec r { t.lrec r with attempts := 0, unreplayable := false, fresh := true }

section Bar
variable {s : State} {b : Bar} (at_ : s.barOf s.arg.unit = some b)
include at_

theorem exec_barrierComplete_of_bar : exec .barrierComplete s =
    .next (if b.kind = 0 ∧ s.barDone (s.ctx s.arg.unit).recIdx.toNat b then
      (s.arrivals b).foldl State.leaveLapsed s else s) := by
  simp only [exec_barrierComplete, execBarrierComplete, at_]
  split <;> rfl

theorem exec_gbarComplete_of_free (kind : b.kind = 1) (done : s.barDone (s.ctx s.arg.unit).recIdx.toNat b)
    (free : s.GbarFree (s.ctx s.arg.unit).recIdx.toNat (s.arrivals b)) : exec .gbarComplete s =
    .next ((s.leavesGbar (s.ctx s.arg.unit).recIdx.toNat (s.arrivals b)).preemptMarked (s.ctx s.arg.unit).recIdx.toNat) := by
  simp only [exec_gbarComplete, execGbarComplete, at_, s.gbarFree_iff.mp free, kind, done, and_self, if_true]
  rfl

theorem exec_gbarComplete_of_kept (kept : ¬ (b.kind = 1 ∧ s.barDone (s.ctx s.arg.unit).recIdx.toNat b ∧
    s.GbarFree (s.ctx s.arg.unit).recIdx.toNat (s.arrivals b))) : exec .gbarComplete s = .next s := by
  rw [State.gbarFree_iff] at kept
  simp only [exec_gbarComplete, execGbarComplete, at_, kept, if_false]

theorem exec_voteComplete_of_incomplete (open_ : ¬ (b.kind = 2 ∧ s.barDone (s.ctx s.arg.unit).recIdx.toNat b)) :
    exec .voteComplete s = .next s := by
  simp only [exec_voteComplete, execVoteComplete, at_, open_, if_false]

theorem exec_barrierTimeout_of_bar {k since : Nat} {scope : Word} {sense : Bool} {m : Nat} {w : Word}
    (run : (s.ctx s.arg.unit).run = .parked (.barrier k scope sense m w since)) : exec .barrierTimeout s =
    .next (if (s.ctx s.arg.unit).btmo ≠ 0 ∧ since + (s.ctx s.arg.unit).btmo.toNat * 1024 ≤ s.now ∧
        s.barDone (s.ctx s.arg.unit).recIdx.toNat b = false then
      (s.arrivals b).foldl (fun t d => t.trapAt d (t.ctx d).pc { cause := 0x15, val := scope }) s else s) := by
  simp only [exec_barrierTimeout, execBarrierTimeout, at_, run, State.timedOut, Bool.and_eq_true, bne_iff_ne,
    decide_eq_true_eq, Bool.not_eq_true', and_assoc]
  split <;> rfl

section Vote
variable (vote : b.kind = 2) (done : s.barDone (s.ctx s.arg.unit).recIdx.toNat b)
include vote done

/-- R291: the votes of all cores, in the order of cores. -/
theorem exec_voteComplete_of_agreed (agreed : ∀ d ∈ s.arrivals b, (s.voteOf d).1 = (s.voteOf s.arg.unit).1) :
    exec .voteComplete s = .next ((s.arrivals b).foldl (fun t d =>
      let y := (t.leaveBar d).ctx d
      (t.leaveBar d).setCtx d ({ y with votes := y.votes + 1 }.wx y.loadRd
        ((s.arrivals b).foldl (fun a d => voteJoin (s.voteOf s.arg.unit).1 a (s.voteOf d).2)
          (voteUnit (s.voteOf s.arg.unit).1)))) s) := by
  have same : (s.arrivals b).all (fun c => (s.voteOf c).1 == (s.voteOf s.arg.unit).1) = true := by
    simpa using agreed
  simp only [exec_voteComplete, execVoteComplete, at_, vote, done, and_self, if_true, same, List.foldl_map]

/-- R291: where the combiners differ each core raises sync-operand. -/
theorem exec_voteComplete_of_differing (differ : ∃ d ∈ s.arrivals b, (s.voteOf d).1 ≠ (s.voteOf s.arg.unit).1) :
    exec .voteComplete s = .next ((s.arrivals b).foldl (fun t d =>
      let y := (t.leaveBar d).ctx d
      ((t.leaveBar d).setCtx d { y with votes := y.votes + 1 }).trapAt d (t.ctx d).pc
        { cause := 0x0F, val := (s.voteOf d).2 }) s) := by
  have other : (s.arrivals b).all (fun c => (s.voteOf c).1 == (s.voteOf s.arg.unit).1) = false := by
    simpa using differ
  simp only [exec_voteComplete, execVoteComplete, at_, vote, done, and_self, if_true, other, Bool.false_eq_true, if_false]

end Vote
end Bar

/-! ### `wait` (R52, R155, R294) -/

theorem exec_waitReturn_of_other {s : State} (run : ∀ k v b, (s.ctx s.arg.unit).run ≠ .parked (.watch k v b)) :
    exec .waitReturn s = .next s := by
  rw [exec_waitReturn]
  dsimp only [execWaitReturn]
  split
  · next k v b parked => exact absurd parked (run k v b)
  · rfl

/-- The return of a `wait` (R155, R294). -/
def State.waitBack (t : State) (c : Nat) : State :=
  (lapse t (c / 4)).setCtx c { t.ctx c with run := .active, pc := (t.ctx c).pc + 4 }

section Wait
variable {s : State} {key : Nat} {v va : Word} (run : (s.ctx s.arg.unit).run = .parked (.watch key v va))
include run

theorem exec_waitReturn_of_raised (raised : s.abortRaised s.arg.unit = true) : exec .waitReturn s =
    .next ((s.setCtx s.arg.unit { s.ctx s.arg.unit with abortSeen := true, abortEver := true }).waitBack s.arg.unit) := by
  simp only [exec_waitReturn, execWaitReturn, run, raised, if_true, State.sampleAbort]
  rfl

section Low
variable (low : s.abortRaised s.arg.unit = false)
include low

theorem exec_waitReturn_of_no_key (away : s.keyRead s.arg.unit key = none) :
    exec .waitReturn s = .next (s.setCtx s.arg.unit { s.ctx s.arg.unit with run := .active }) := by
  simp only [exec_waitReturn, execWaitReturn, run, low, Bool.false_eq_true, if_false, away]

theorem exec_waitReturn_of_same (same : s.keyRead s.arg.unit key = some v) : exec .waitReturn s = .next s := by
  simp only [exec_waitReturn, execWaitReturn, run, low, Bool.false_eq_true, if_false, same, if_true]

section Changed
variable {d : Word} (read : s.keyRead s.arg.unit key = some d) (differs : d ≠ v)
include read differs

/-- R294: the doubleword has changed, and the load gives a value. -/
theorem exec_waitReturn_of_value {e : Word} {t : State}
    (load : { s with cur := s.arg.unit }.access va (.load 8) = .value e t) :
    exec .waitReturn s = .next (if e = v then t else t.waitBack s.arg.unit) := by
  simp only [exec_waitReturn, execWaitReturn, run, low, Bool.false_eq_true, if_false, read, differs, load]
  rfl

/-- R294: the doubleword has changed, and something stops the load. -/
theorem exec_waitReturn_of_stopped {a : Ans} (load : { s with cur := s.arg.unit }.access va (.load 8) = a)
    (stopped : ∀ e t, a ≠ .value e t) : exec .waitReturn s = a.other s := by
  simp only [exec_waitReturn, execWaitReturn, run, low, Bool.false_eq_true, if_false, read, differs, load]

end Changed
end Low
end Wait

/-- Settles O52: each step by the park of its context and by the conditions under which it ends. -/
theorem synchronisationEvents : Obligations.SynchronisationEvents := by
  refine ⟨fun s c => ⟨s.leaveBar_eq c, s.leaveLapsed_eq c, s.leaveGbar_eq c⟩, fun s b d => s.mem_arrivals b d, ?_⟩
  intro s c x r
  refine ⟨fun scope run => exec_fenceReturn_of_parked run, fun b at_ => ?_, fun none_ => exec_barrier_of_none none_,
    fun key v va run => ?_, fun run => exec_fenceReturn_of_other run, fun run => exec_waitReturn_of_other run⟩
  · exact ⟨exec_barrierComplete_of_bar at_, fun kept => exec_gbarComplete_of_kept at_ kept,
      fun kind done free => exec_gbarComplete_of_free at_ kind done free,
      fun open_ => exec_voteComplete_of_incomplete at_ open_,
      fun kind done agreed => exec_voteComplete_of_agreed at_ kind done agreed,
      fun kind done differ => exec_voteComplete_of_differing at_ kind done differ,
      fun k scope sense m v since run => exec_barrierTimeout_of_bar at_ run⟩
  · exact ⟨fun raised => exec_waitReturn_of_raised run raised, fun low =>
      ⟨fun away => exec_waitReturn_of_no_key run low away, fun same => exec_waitReturn_of_same run low same, fun d read differs =>
        ⟨fun e t load => exec_waitReturn_of_value run low read differs load,
          fun e t load => exec_waitReturn_of_stopped run low read differs load nofun,
          fun t load => exec_waitReturn_of_stopped run low read differs load nofun,
          fun w t load => exec_waitReturn_of_stopped run low read differs load nofun⟩⟩⟩

end Sys2Proof.Machine
end

section
/-!
PROOFS. The hub's answers, the ends of contexts, records that age, and gangs that are stopped, rolled back and moved (R58,
R61-R64, R87, R297-R299, R301, R380-R382, R402, R427-R429, R435).
-/

namespace Sys2Proof.Machine

/-! ### The steps -/

theorem exec_hubLpatchRequest (s : State) : exec .hubLpatchRequest s = execHubLpatchRequest s := rfl

theorem exec_hubLarmRequest (s : State) : exec .hubLarmRequest s = execHubLarmRequest s := rfl

theorem exec_haltDrainEnd (s : State) : exec .haltDrainEnd s = execHaltDrainEnd s := rfl

theorem exec_doneMessage (s : State) : exec .doneMessage s = execDoneMessage s := rfl

theorem exec_agingTick (s : State) : exec .agingTick s = execAgingTick s := rfl

theorem exec_preemptionStop (s : State) : exec .preemptionStop s = execPreemptionStop s := rfl

/-! ### Requests to the hub (R297-R299, R402) -/

/-- R298, R402: the hub refuses a request with a cause. -/
theorem State.hubRefuse_eq (s : State) (c cause : Nat) : s.hubRefuse c cause =
    .next (s.trapAt c (s.ctx c).pc { cause := 0x11, val := BitVec.ofNat 64 cause }) := rfl

theorem exec_hubLpatchRequest_of_parked {s : State} {r f : Nat} {v : Word}
    (run : (s.ctx s.arg.unit).run = .parked (.lpatch r f v)) :
    let c := s.arg.unit
    let refuse := fun (n : Nat) => s.trapAt c (s.ctx c).pc { cause := 0x11, val := BitVec.ofNat 64 n }
    exec .hubLpatchRequest s = .next (if (s.lrec r).part ≠ s.partOf (c / 4) then refuse 1
      else if (s.lrec r).state ≠ 1 then refuse 2 else if patchOk f v = false then refuse 3
      else (s.setRec r ((s.lrec r).patch f v)).setCtx c (s.ctx c).resume) := by
  simp only [exec_hubLpatchRequest, execHubLpatchRequest, run, State.hubRefuse_eq, apply_ite Host.Outcome.next,
    Bool.not_eq_true']

theorem exec_hubLpatchRequest_of_other {s : State} (run : ∀ r f v, (s.ctx s.arg.unit).run ≠ .parked (.lpatch r f v)) :
    exec .hubLpatchRequest s = .next s := by
  rw [exec_hubLpatchRequest]
  dsimp only [execHubLpatchRequest]
  split
  · next r f v parked => exact absurd parked (run r f v)
  · rfl

theorem exec_hubLarmRequest_of_parked {s : State} {r : Nat} (run : (s.ctx s.arg.unit).run = .parked (.larm r)) :
    let c := s.arg.unit
    let g := s.lrec r
    let refuse := fun (n : Nat) => s.trapAt c (s.ctx c).pc { cause := 0x11, val := BitVec.ofNat 64 n }
    let t := s.setCtx c (s.ctx c).resume
    exec .hubLarmRequest s = .next (if g.part ≠ s.partOf (c / 4) then refuse 1 else if g.state ≠ 1 then refuse 2
      else if rectOk g.rect = false ∨ g.fld 12 1 = 1 ∧ (s.snapReg g.part).len = 0 then refuse 3
      else if s.powerRefuses r then refuse 4
      else if t.neverFits r then t.completion r (gangWord 0 false false true false false 0 0) else t.arm r) := by
  simp only [exec_hubLarmRequest, execHubLarmRequest, run, State.hubRefuse_eq, apply_ite Host.Outcome.next,
    Bool.or_eq_true, Bool.and_eq_true, Bool.not_eq_true', beq_iff_eq]

theorem exec_hubLarmRequest_of_other {s : State} (run : ∀ r, (s.ctx s.arg.unit).run ≠ .parked (.larm r)) :
    exec .hubLarmRequest s = .next s := by
  rw [exec_hubLarmRequest]
  dsimp only [execHubLarmRequest]
  split
  · next r parked => exact absurd parked (run r)
  · rfl

/-! ### The end of `halt` and the done tree (R61, R301) -/

/-- R301, R374: the drains, the trap and the end of a halted context in their order. -/
theorem exec_haltDrainEnd_of_parked {s : State} {app : BitVec 8} (run : (s.ctx s.arg.unit).run = .parked (.halt app)) :
    let c := s.arg.unit
    exec .haltDrainEnd s = .next (if s.drained c = false then s
      else if s.syncTrap c then s.trapAt c (s.ctx c).pc { cause := 0x17, val := s.summary c }
      else if s.allDone c = false ∨ (s.ctx c).revoked ≠ none then s
      else ((s.haltEnds c app).drainBuf).poolStep (clusterOfCtx c)) := by
  simp only [exec_haltDrainEnd, execHaltDrainEnd, run, apply_ite Host.Outcome.next, Bool.or_eq_true, Bool.not_eq_true',
    Option.isSome_iff_ne_none]
  rfl

theorem exec_haltDrainEnd_of_other {s : State} (run : ∀ app, (s.ctx s.arg.unit).run ≠ .parked (.halt app)) :
    exec .haltDrainEnd s = .next s := by
  rw [exec_haltDrainEnd]
  dsimp only [execHaltDrainEnd]
  split
  · next app parked => exact absurd parked (run app)
  · rfl

/-- No completion word waits to be written. -/
theorem State.drainLate_of_none {s : State} (none_ : s.lateWords = []) : s.drainLate = s := by
  rw [State.drainLate, none_, List.foldl_nil, ← none_]

/-- R61: the message of a rank whose children's have come. -/
theorem exec_doneMessage_of_none {s : State} (none_ : s.lateWords = []) :
    let c := s.arg.unit
    let k := s.arg.index
    let g := s.lrec c
    let has := fun (t : Table Word) (n : Nat) => t.any (fun e => e.1 == n)
    let kids := childRanks g.placed k
    let v := kids.foldl (fun v n => joinWords v (look 0 g.msgs n)) (look 0 g.own k)
    exec .doneMessage s = .next (if g.state = 3 ∧ g.trigger = false ∧ has g.own k ∧ has g.msgs k = false ∧
        (∀ n ∈ kids, has g.msgs n) then
      (if k = 0 then s.finishGang c v else s.setRec c { g with msgs := put g.msgs k v }) else s) := by
  simp only [exec_doneMessage, execDoneMessage, State.drainLate_of_none none_, apply_ite Host.Outcome.next,
    Bool.not_eq_true', List.all_eq_true]

/-! ### Records that age (R58) -/

/-- A record after an aging interval. -/
def LRec.ages (h : LRec) : LRec :=
  if h.state = 2 then (if h.fld 40 2 < 3 then h.setFld 40 2 (h.fld 40 2 + 1) else { h with waited := h.waited + 1 }) else h

/-- The state after an aging interval, before the pass. -/
def State.ages (s : State) : State := { s with aged := s.aged + 1, recs := s.recs.map (fun e => (e.1, e.2.ages)) }

theorem State.lrec_ages (s : State) (r : Nat) : s.ages.lrec r = (s.lrec r).ages := look_map rfl s.recs r

theorem exec_agingTick_of_due {s : State} (due : s.aged < s.now / 65536) : exec .agingTick s = .next s.ages.pass := by
  have each : ∀ e : Nat × LRec, (if e.2.state = 2 then
      (if e.2.fld 40 2 < 3 then (e.1, e.2.setFld 40 2 (e.2.fld 40 2 + 1)) else (e.1, { e.2 with waited := e.2.waited + 1 }))
      else e) = (e.1, e.2.ages) := by
    intro e
    unfold LRec.ages
    split_ifs <;> rfl
  simp only [exec_agingTick, execAgingTick, due, if_true, each]
  rfl

/-! ### Pre-emption (R380-R382, R435) -/

/-- The contexts of a gang that are at their stop points stopped, and their crews revoked (R380, R381). -/
def State.stopsAll (s : State) (l : List Nat) : State :=
  l.foldl (fun t d => if (t.ctx d).canStop then (t.atStop d).revoke d else t) s

theorem exec_preemptionStop_of_none {s : State} (none_ : (s.lrec s.arg.unit).stopping = none) :
    exec .preemptionStop s = .next s := by
  simp only [exec_preemptionStop, execPreemptionStop, none_]

theorem exec_preemptionStop_of_discard {s : State} {hold : Bool} (stops : (s.lrec s.arg.unit).stopping = some (hold, 18)) :
    exec .preemptionStop s = .next (s.discardStop s.arg.unit) := by
  simp only [exec_preemptionStop, execPreemptionStop, stops]

/-- R62, R435: a gang to be discarded. -/
theorem State.discardStop_eq (s : State) (r : Nat) :
    let l := (s.liveRanks r).map (·.2)
    let t := l.foldl (fun t d => if (t.ctx d).emu = none ∧ (t.ctx d).stopPoint = true ∧ (t.ctx d).revoked = none then
      (t.atStop d).revoke d else t) s
    s.discardStop r = if ∀ d ∈ l, t.discardDone d = true then t.withdraw r else t := by
  simp only [State.discardStop, Bool.and_eq_true, Option.isNone_iff_eq_none, and_assoc, List.all_eq_true]

/-- R380-R382: the contexts stop, then the images fit or do not. -/
theorem exec_preemptionStop_of_stopping {s : State} {hold : Bool} {m : Nat}
    (stops : (s.lrec s.arg.unit).stopping = some (hold, m)) (saved : m ≠ 18) :
    let r := s.arg.unit
    let l := (s.liveRanks r).map (·.2)
    let t := s.stopsAll l
    let u := ((l.foldl State.saveCrew t).applyAllWaiting l).saveGang r hold
    let v := t.setRec r { t.lrec r with stopping := none, marked := false }
    exec .preemptionStop s = .next (if ¬ ∀ d ∈ l, t.stopDone d then t
      else if t.imagesFit r = false then (if m < 17 then v.answer m 2 else v).poolsOf l
      else ((if m < 17 then u.answer m 1 else u).poolsOf l).pass) := by
  simp only [exec_preemptionStop, execPreemptionStop, stops, apply_ite Host.Outcome.next, Bool.not_eq_true',
    ← Bool.not_eq_true, List.all_eq_true]
  rfl

/-! ### Rollback (R427) -/

/-- A rollback can be carried out: every context is at a stop point, and its posted stores are applied (R427; log 52). -/
def State.RollsBackNow (s : State) (r : Nat) : Prop :=
  (s.lrec r).trigger = true ∧ (s.lrec r).state = 3 ∧ ∀ d ∈ (s.liveRanks r).map (·.2),
    (s.ctx d).canStop ∧ ∀ p ∈ s.posted, p.from_ ≠ d

theorem State.rollsBackNow_iff (s : State) (r : Nat) : s.RollsBackNow r ↔ (s.lrec r).trigger = true ∧ (s.lrec r).state = 3 ∧
    ((s.liveRanks r).map (·.2)).all (fun c => (s.ctx c).canStop && s.posted.all (fun p => p.from_ != c)) = true := by
  simp only [State.RollsBackNow, List.all_eq_true, Bool.and_eq_true, bne_iff_ne]

/-! ### Moves (R87) -/

section Move
variable (s : State) (r : Nat) (rect : Word)

/-- A gang whose `gbar` has just completed can be moved to a rectangle (R87; log 119). -/
def State.MovesAtGbar : Prop :=
  let g := s.lrec r
  g.state = 3 ∧ g.fresh = true ∧ g.own = [] ∧ s.droverOk r rect = true ∧
    ∀ p ∈ s.liveRanks r, (s.ctx p.2).level = .app ∧ s.allDone p.2 ∧ s.drained p.2 ∧ (s.ctx p.2).revoked = none ∧
      (s.ctx p.2).run = .active

/-- A gang saved by pre-emption can be moved to a rectangle (R87). -/
def State.MovesSaved : Prop :=
  let g := s.lrec r
  g.state = 2 ∧ g.saved = true ∧ g.held = false ∧ g.fld 10 1 = 1 ∧ g.fld 11 1 = 0 ∧ sameExtent rect g.rect ∧
    rectOk rect ∧ (∀ k ∈ rectCores rect, s.coreFree r k) ∧ s.slotsLand r rect ∧ s.powerFits r ∧
    ∀ a ∈ rectCores rect, ∀ b ∈ rectCores g.placed, s.sameTable (g.fld 24 4) (clusterOf a) (clusterOf b)

theorem State.movesAtGbar_iff : s.MovesAtGbar r rect ↔
    (s.lrec r).state = 3 ∧ (s.lrec r).fresh = true ∧ (s.lrec r).own.isEmpty = true ∧ s.droverOk r rect = true ∧
      (s.liveRanks r).all (fun p => (s.ctx p.2).level = .app && s.allDone p.2 && s.drained p.2 &&
        (s.ctx p.2).revoked.isNone && (s.ctx p.2).run == .active) = true := by
  simp only [State.MovesAtGbar, List.isEmpty_iff, List.all_eq_true, Bool.and_eq_true, decide_eq_true_eq,
    Option.isNone_iff_eq_none, beq_iff_eq, and_assoc]

theorem State.movesSaved_iff : s.MovesSaved r rect ↔
    (s.lrec r).state = 2 ∧ (s.lrec r).saved = true ∧ (!(s.lrec r).held) = true ∧ (s.lrec r).fld 10 1 = 1 ∧
      (s.lrec r).fld 11 1 = 0 ∧ sameExtent rect (s.lrec r).rect = true ∧ rectOk rect = true ∧
      (rectCores rect).all (s.coreFree r) = true ∧ s.slotsLand r rect = true ∧ s.powerFits r = true ∧
      (rectCores rect).all (fun a => (rectCores (s.lrec r).placed).all (fun b =>
        s.sameTable ((s.lrec r).fld 24 4) (clusterOf a) (clusterOf b))) = true := by
  simp only [State.MovesSaved, List.all_eq_true, Bool.not_eq_true']

/-- R87: a gang that runs is not one that is saved. -/
theorem State.not_movesAtGbar_of_saved (h : s.MovesSaved r rect) : ¬ s.MovesAtGbar r rect := by
  intro k
  obtain ⟨armed, -⟩ := h
  obtain ⟨runs, -⟩ := k
  exact absurd (armed.symm.trans runs) (by decide)

end Move

/-- Settles O55: each step by the park, the record or the conditions that it looks at. -/
theorem gangEvents : Obligations.GangEvents := by
  intro s c x g on refuse
  refine ⟨fun r f v run => exec_hubLpatchRequest_of_parked run, fun r run => exec_hubLarmRequest_of_parked run,
    fun run => exec_hubLpatchRequest_of_other run, fun run => exec_hubLarmRequest_of_other run,
    fun app run => exec_haltDrainEnd_of_parked run, fun run => exec_haltDrainEnd_of_other run,
    fun none_ => exec_doneMessage_of_none none_, fun early => if_neg early,
    fun due => ⟨s.ages, exec_agingTick_of_due due, rfl, s.lrec_ages⟩, rfl, fun none_ => exec_preemptionStop_of_none none_,
    fun hold stops => (exec_preemptionStop_of_discard stops).trans (congrArg _ (s.discardStop_eq c)),
    fun hold m stops saved => exec_preemptionStop_of_stopping stops saved, ⟨fun unready => ?_, fun ready => ?_⟩,
    ⟨fun atGbar => ?_, fun saved => ?_, fun stays unsaved => ?_⟩⟩
  · exact if_neg (mt (s.rollsBackNow_iff c).mpr unready)
  · exact if_pos ((s.rollsBackNow_iff c).mp ready)
  · exact if_pos ((s.movesAtGbar_iff c s.arg.value).mp atGbar)
  · exact (if_neg (mt (s.movesAtGbar_iff c s.arg.value).mpr (s.not_movesAtGbar_of_saved c _ saved))).trans
      (if_pos ((s.movesSaved_iff c s.arg.value).mp saved))
  · exact (if_neg (mt (s.movesAtGbar_iff c s.arg.value).mpr stays)).trans
      (if_neg (mt (s.movesSaved_iff c s.arg.value).mpr unsaved))

end Sys2Proof.Machine
end

section
/-!
PROOFS. Time slots, requests at a channel, the retirement and death of a stack, cache ways, dispositions and resets (R141, R199,
R321, R344, R345, R414-R416, R418-R420, R436).
-/

namespace Sys2Proof

/-- A table that lists, for some of the keys of a list, a value under the key itself. -/
theorem look_filterMap {α : Type} (d : α) {g : Nat → Option (Nat × α)} (own : ∀ k e, g k = some e → e.1 = k) (l : List Nat)
    (k : Nat) : look d (l.filterMap g) k = if k ∈ l then ((g k).map (·.2)).getD d else d := by
  induction l with
  | nil => rfl
  | cons a l ih =>
    cases made : g a with
    | none =>
      rw [List.filterMap_cons_none made, ih]
      by_cases same : k = a
      · simp [same, made]
      · simp [same]
    | some e =>
      rw [List.filterMap_cons_some made, look, ih, own a e made]
      by_cases same : k = a
      · simp [same, made]
      · simp [same, Ne.symm same]

end Sys2Proof

namespace Sys2Proof.Machine

/-! ### The steps -/

theorem exec_timeSlotStart (s : State) : exec .timeSlotStart s = execTimeSlotStart s := rfl

theorem exec_channelRequest (s : State) : exec .channelRequest s = execChannelRequest s := rfl

theorem exec_stackAnswerTimeout (s : State) : exec .stackAnswerTimeout s = execStackAnswerTimeout s := rfl

theorem exec_stackRetirementStart (s : State) : exec .stackRetirementStart s = execStackRetirementStart s := rfl

theorem exec_retirementEnd (s : State) : exec .retirementEnd s = execRetirementEnd s := rfl

theorem exec_stackDead (s : State) : exec .stackDead s = execStackDead s := rfl

theorem exec_wayRetirement (s : State) : exec .wayRetirement s = execWayRetirement s := rfl

theorem exec_dispositionSet (s : State) : exec .dispositionSet s = execDispositionSet s := rfl

theorem exec_coldReset (s : State) : exec .coldReset s = execColdReset s := rfl

theorem exec_warmReset (s : State) : exec .warmReset s = execWarmReset s := rfl

/-! ### Lines whose copy has ended (R414, R417) -/

/-- No copy has ended. -/
theorem State.settleLines_of_copying {s : State} (early : ∀ r, s.retire = some r → ∀ p ∈ r.copying, s.now < p.2) :
    s.settleLines = s := by
  unfold State.settleLines
  split
  · rfl
  · next r moves =>
    rw [List.filter_eq_nil_iff.mpr fun p copied => by simpa using early r moves p copied]
    rfl

/-- Two states hold the same argument of the step and the same stacks that no longer answer. -/
def State.SameArgs (s t : State) : Prop := t.arg = s.arg ∧ t.mute = s.mute

theorem State.SameArgs.trans {s t u : State} (first : s.SameArgs t) (second : t.SameArgs u) : s.SameArgs u :=
  ⟨second.1.trans first.1, second.2.trans first.2⟩

theorem State.sameArgs_retireStack (s : State) (x : Nat) : s.SameArgs (s.retireStack x) := by
  unfold State.retireStack
  split_ifs <;> exact ⟨rfl, rfl⟩

theorem sameArgs_enterPoison (s : State) (c key unit ch : Nat) : s.SameArgs (enterPoison s c key unit ch) := by
  simp only [enterPoison]
  split_ifs
  · exact ⟨rfl, rfl⟩
  · exact ⟨rfl, rfl⟩
  · exact State.sameArgs_retireStack ..
  · exact ⟨rfl, rfl⟩

theorem State.sameArgs_carryPoison (s : State) (slot q : Nat) : s.SameArgs (s.carryPoison slot q) := by
  unfold State.carryPoison
  refine List.foldlRecOn (motive := s.SameArgs) _ _ ?_ fun t kept p _ => ?_
  · dsimp only
    split <;> exact ⟨rfl, rfl⟩
  · split
    · exact kept
    · exact kept.trans (sameArgs_enterPoison ..)

theorem State.sameArgs_lineDone (s : State) (r : Retire) (ch : Nat) : s.SameArgs (s.lineDone r ch) := by
  simp only [State.lineDone]
  split
  · exact State.sameArgs_carryPoison ..
  · exact ⟨rfl, rfl⟩

/-- R414, R417: lines that become Done change neither. -/
theorem State.sameArgs_settleLines (s : State) : s.SameArgs s.settleLines := by
  unfold State.settleLines
  split
  · exact ⟨rfl, rfl⟩
  · refine List.foldlRecOn (motive := s.SameArgs) _ _ ⟨rfl, rfl⟩ fun t kept e _ => ?_
    split
    · exact kept.trans (State.sameArgs_lineDone ..)
    · exact kept

/-! ### Time slots (R141, R321, R414) -/

/-- A partition has a request that waits for a slot of a channel. -/
def State.SlotPending (s : State) (k p : Nat) : Prop := ∃ q ∈ s.chanReqs, q.part = p ∧ s.waitsForSlot k q = true

theorem State.slotPending_iff (s : State) (k p : Nat) :
    (s.chanReqs.any fun q => q.part == p && s.waitsForSlot k q) = true ↔ s.SlotPending k p := by
  simp only [State.SlotPending, List.any_eq_true, Bool.and_eq_true, beq_iff_eq]

section Slot
variable {s : State} {k : Nat} {b : Byte}

theorem State.slotServes_of_owner (pending : s.SlotPending k (b.toNat % 16)) : s.slotServes k b = some (b.toNat % 16) :=
  if_pos ((s.slotPending_iff k _).mpr pending)

theorem State.slotServes_of_kept (idle : ¬ s.SlotPending k (b.toNat % 16)) (kept : b.getLsbD 4 = false) :
    s.slotServes k b = none :=
  (if_neg ((not_congr (s.slotPending_iff k _)).mpr idle)).trans (if_neg ((Bool.not_eq_true _).mpr kept))

/-- R141: a donated slot goes to a partition that has something pending. -/
theorem State.slotPending_of_donated {p : Nat} (idle : ¬ s.SlotPending k (b.toNat % 16)) (serves : s.slotServes k b = some p) :
    s.SlotPending k p := by
  rw [State.slotServes, if_neg ((not_congr (s.slotPending_iff k _)).mpr idle)] at serves
  split at serves
  · exact (s.slotPending_iff k p).mp (by simpa only using List.find?_some serves)
  · exact nomatch serves

theorem State.partSlot_of_none (unserved : s.slotServes k b = none) : s.partSlot k b = s := by
  rw [State.partSlot, unserved]

theorem State.partSlot_of_some {p : Nat} (serves : s.slotServes k b = some p) :
    s.partSlot k b = State.serveSlot { s with
      serving := put s.serving k (s.now / 32, p)
      donated := if p = b.toNat % 16 then s.donated else put s.donated k p } k p := by
  simp only [State.partSlot, serves]
  split <;> rfl

/-- The slot has begun on the channel already (R141). -/
def State.SlotBegun (s : State) (k : Nat) : Prop := (look (0, 0) s.serving k).1 = s.now / 32 ∧ ∃ p ∈ s.serving, p.1 = k

theorem State.slotBegun_iff (s : State) (k : Nat) :
    ((look (0, 0) s.serving k).1 = s.now / 32 ∧ (s.serving.any fun p => p.1 == k) = true) ↔ s.SlotBegun k := by
  simp only [State.SlotBegun, List.any_eq_true, beq_iff_eq]

end Slot

/-- A stack serves no slot and takes no part in a retirement any more (R419, R420). -/
abbrev State.StackGone (s : State) (x : Nat) : Prop := stackState s x = .dead ∨ stackState s x = .retired

theorem exec_timeSlotStart_of_closed {s : State}
    (closed : 16 ≤ s.arg.unit ∨ 32 ≤ s.arg.index ∨ s.settleLines.StackGone s.arg.unit ∨ s.arg.unit ∈ s.settleLines.mute) :
    exec .timeSlotStart s = .next s.settleLines :=
  if_pos (by simpa only [State.StackGone, List.contains_iff_mem, or_assoc] using closed)

section Open
variable {s : State} (stack : s.arg.unit < 16) (chan : s.arg.index < 32) (serves : ¬ s.settleLines.StackGone s.arg.unit)
  (answers : s.arg.unit ∉ s.settleLines.mute)
include stack chan serves answers

/-- R140, R141: at a channel that serves slots, the slot is of its kind. -/
theorem exec_timeSlotStart_of_open :
    let u := s.settleLines
    let x := s.arg.unit
    let n := s.arg.index
    let slot := s.now % 2048 / 32
    let e := s.slotByte (x * 2048 + n * 64 + slot)
    let kind := e.toNat / 32 % 4
    (kind = 0 → u.SlotBegun (32 * x + n) → exec .timeSlotStart s = .next u) ∧
    (kind = 0 → ¬ u.SlotBegun (32 * x + n) → exec .timeSlotStart s = .next (u.partSlot (32 * x + n) e)) ∧
    (kind ≠ 0 → u.retire = none → exec .timeSlotStart s = .next (if kind = 2 then u.fullerTurn x n else u)) ∧
    ∀ r, kind ≠ 0 → u.retire = some r →
      exec .timeSlotStart s = .next (if r.stack = x ∧ kind = 2 then u.remapTurn r n slot else u) := by
  intro u x n slot e kind
  have opens : ¬ (16 ≤ x ∨ 32 ≤ n ∨ stackState u x = .dead ∨ stackState u x = .retired ∨ u.mute.contains x = true) := by
    rw [List.contains_iff_mem]
    rintro (high | high | dead | retired | mute)
    · exact absurd high (Nat.not_le.mpr stack)
    · exact absurd high (Nat.not_le.mpr chan)
    · exact serves (.inl dead)
    · exact serves (.inr retired)
    · exact answers mute
  refine ⟨fun part begun => ?_, fun part fresh => ?_, fun other still => ?_, fun r other moves => ?_⟩
  · exact (if_neg opens).trans ((if_pos part).trans (congrArg _ (if_pos ((u.slotBegun_iff _).mpr begun))))
  · exact (if_neg opens).trans ((if_pos part).trans (congrArg _ (if_neg (mt (u.slotBegun_iff _).mp fresh))))
  · refine (if_neg opens).trans ((if_neg other).trans ?_)
    rw [still]
  · refine (if_neg opens).trans ((if_neg other).trans ?_)
    rw [moves]

end Open

/-! ### Requests at a channel (R415, R419) -/

/-- R141, R419: what answers at once, and what waits. -/
theorem State.reqArrives_eq (s : State) (q : ChanReq) :
    s.reqArrives q = if 0x10000000000 ≤ q.pa ∨ s.fateOf q = .dropped ∨ s.fateOf q = .bounced ∨
        (∃ p ∈ s.serving, p.1 = s.chanOfReq q ∧ p.2 = (s.now / 32, q.part)) ∧ s.chanOfReq q / 32 ∉ s.mute then s.reach q
      else { s with chanReqs := s.chanReqs ++ [q] } := by
  simp only [State.reqArrives, Bool.and_eq_true, List.any_eq_true, beq_iff_eq, Bool.not_eq_true', ← Bool.not_eq_true,
    List.contains_iff_mem]

/-- R415, R419: a request of a port is refused, arrives at its channel, or waits at a stack that no longer answers. -/
theorem exec_channelRequest_eq (s : State) :
    let u := s.settleLines
    let x := s.arg.unit
    let n := s.arg.index
    let p : ChanReq := { pa := s.arg.addr / 8 * 8, skew := x, oldPhase := n != u.mpn.toNat, write := s.arg.words.head?
                         part := s.arg.value.toNat % 16, bounced := false, since := 0 }
    let k := u.chanOfReq p
    let q := { p with since := u.cycles (homeDie (k / 32) (k % 32)) }
    exec .channelRequest s = .next (if u.inMemory q.pa = false ∧ hbmTop ≤ q.pa ∨ 3 ≤ x then u
      else if q.oldPhase = true ∧ (u.retire = none ∨ BitVec.ofNat 16 n + 1 ≠ u.mpn) then u
      else if s.arg.list = [] then u.reqArrives q
      else { u with
        chanReqs := u.chanReqs ++ [q]
        mute := if q.pa < hbmTop then setIns u.mute (k / 32) else u.mute }) := by
  simp only [exec_channelRequest, execChannelRequest, apply_ite Host.Outcome.next, Bool.or_eq_true, Bool.and_eq_true,
    Bool.not_eq_true', decide_eq_true_eq, decide_eq_false_iff_not, Nat.not_lt, Option.isNone_iff_eq_none, List.isEmpty_iff,
    bne_iff_ne]

theorem exec_stackAnswerTimeout_of_none {s : State} (none_ : s.chanReqs[s.arg.index]? = none) :
    exec .stackAnswerTimeout s = .next s := by
  simp only [exec_stackAnswerTimeout, execStackAnswerTimeout, none_]

theorem exec_stackAnswerTimeout_of_some {s : State} {q : ChanReq} (waits : s.chanReqs[s.arg.index]? = some q) :
    exec .stackAnswerTimeout s = .next
      (if q.since + 20000 * 3300 ≤ s.cycles (homeDie (s.chanOfReq q / 32) (s.chanOfReq q % 32)) then
        { s with chanReqs := s.chanReqs.take s.arg.index ++ s.chanReqs.drop (s.arg.index + 1) } else s) := by
  simp only [exec_stackAnswerTimeout, execStackAnswerTimeout, waits, apply_ite Host.Outcome.next]

/-! ### Retirement and death of a stack (R318, R414, R418-R420) -/

@[simp] theorem stackState_setStack_self (s : State) (x : Nat) (st : StackState) : stackState (s.setStack x st) x = st :=
  look_put_self ..

/-- R418: every moving line is Done, and no request or packet of the old phase is left. -/
def State.RetirementEnded (s : State) (r : Retire) : Prop :=
  (∀ ch < 32, movingLines ≤ look 0 r.pos ch) ∧ (∀ q ∈ s.chanReqs, q.oldPhase = false) ∧
    ∀ e ∈ s.ctxs, ∀ k, e.2.elemCap = some k → k.mpn = s.mpn

theorem State.packetsNew_iff (s : State) :
    s.packetsNew = true ↔ ∀ e ∈ s.ctxs, ∀ k, e.2.elemCap = some k → k.mpn = s.mpn := by
  rw [State.packetsNew, List.all_eq_true]
  refine forall₂_congr fun e _ => ?_
  cases e.2.elemCap with
  | none => simp
  | some k => simp

theorem State.retirementEnded_iff (s : State) (r : Retire) :
    ((List.range 32).all (fun ch => movingLines ≤ look 0 r.pos ch) = true ∧ s.chanReqs.all (fun q => !q.oldPhase) = true ∧
      s.packetsNew = true) ↔ s.RetirementEnded r := by
  simp only [State.RetirementEnded, State.packetsNew_iff, List.all_eq_true, List.mem_range, decide_eq_true_eq,
    Bool.not_eq_true']

theorem exec_retirementEnd_of_none {s : State} (none_ : s.settleLines.retire = none) :
    exec .retirementEnd s = .next s.settleLines := by
  simp only [exec_retirementEnd, execRetirementEnd, none_]

section RetirementEnd
variable {s : State} {r : Retire} (moves : s.settleLines.retire = some r)
include moves

theorem exec_retirementEnd_of_open (open_ : ¬ s.settleLines.RetirementEnded r) :
    exec .retirementEnd s = .next s.settleLines := by
  simp only [exec_retirementEnd, execRetirementEnd, moves]
  exact if_neg (mt (s.settleLines.retirementEnded_iff r).mp open_)

/-- R418: the tables settle, and the stack is retired unless it has died. -/
theorem exec_retirementEnd_of_ended (ended : s.settleLines.RetirementEnded r) :
    let u := s.settleLines
    ∃ t : State, exec .retirementEnd s = .next t ∧
      t = { u with slotCur := t.slotCur, slotPrev := t.slotCur, retire := none, quar := t.quar, stored := t.stored,
                   stackSt := t.stackSt, scriv := t.scriv, scrivNext := u.scrivNext + 1 } ∧
      t.stored = { u.stored with retired := setIns u.stored.retired r.stack } ∧
      t.slotCur = u.slotCur.map (fun e => (e.1, settledEntry e.2)) ∧
      stackState t r.stack = (if stackState u r.stack = .dead then .dead else .retired) := by
  simp only [exec_retirementEnd, execRetirementEnd, moves]
  refine ⟨_, if_pos ((s.settleLines.retirementEnded_iff r).mpr ended), ?_⟩
  by_cases dead : stackState s.settleLines r.stack = .dead
  · simp only [if_pos dead]
    exact ⟨rfl, rfl, rfl, dead⟩
  · simp only [if_neg dead]
    exact ⟨rfl, rfl, rfl, stackState_setStack_self ..⟩

end RetirementEnd

/-- R419, R420: a stack that dies is evacuated where a retirement can start, else it dies where it stands or, where it is the one
that retires, with its lines moving. -/
theorem exec_stackDead_eq (s : State) :
    let x := s.arg.unit
    let note := fun (t : State) => scrivener t 6 0xFF x 0 [t.mpn.toNat]
    let u := { s.settleLines with mute := s.settleLines.mute.filter (· != x) }
    let t := u.startRetirement x .dead
    exec .stackDead s = if 16 ≤ x ∨ s.settleLines.StackGone x then .next u
      else if u.mayRetire x = true then .next (note (t.dieMoving { stack := x, pos := [], copying := [], start := u.now }))
      else match u.retire with
        | some r => if r.stack = x then .next (note (State.dieMoving { u with stackSt := put u.stackSt x .dead } r))
          else .next (note (u.dieInPlace x))
        | none => .next (note (u.dieInPlace x)) := by
  have kept : s.settleLines.mute = s.mute := s.sameArgs_settleLines.2
  simp only [kept]
  rfl

section StackDead
variable {s : State}

theorem exec_stackDead_of_gone (gone : 16 ≤ s.arg.unit ∨ s.settleLines.StackGone s.arg.unit) :
    exec .stackDead s = .next { s.settleLines with mute := s.settleLines.mute.filter (· != s.arg.unit) } :=
  (exec_stackDead_eq s).trans (if_pos gone)

theorem exec_stackDead_of_standing (stack : s.arg.unit < 16) (stands : ¬ s.settleLines.StackGone s.arg.unit) :
    let x := s.arg.unit
    let note := fun (t : State) => scrivener t 6 0xFF x 0 [t.mpn.toNat]
    let u := { s.settleLines with mute := s.settleLines.mute.filter (· != x) }
    let t := u.startRetirement x .dead
    (u.mayRetire x = true →
      exec .stackDead s = .next (note (t.dieMoving { stack := x, pos := [], copying := [], start := u.now }))) ∧
    (u.mayRetire x = false → u.retire = none → exec .stackDead s = .next (note (u.dieInPlace x))) ∧
    ∀ r, u.mayRetire x = false → u.retire = some r → exec .stackDead s =
      .next (note (if r.stack = x then State.dieMoving { u with stackSt := put u.stackSt x .dead } r else u.dieInPlace x)) := by
  intro x note u t
  have dies := (exec_stackDead_eq s).trans (if_neg (not_or.mpr ⟨Nat.not_le.mpr stack, stands⟩))
  refine ⟨fun may => dies.trans (if_pos may), fun cannot still => ?_, fun r cannot moves => ?_⟩
  · rw [dies, if_neg ((Bool.not_eq_true _).mpr cannot), still]
  · rw [dies, if_neg ((Bool.not_eq_true _).mpr cannot), moves]
    exact (apply_ite (fun v => Host.Outcome.next (note v)) _ _ _).symm

end StackDead

/-! ### Cache ways and the disposition record (R199, R436) -/

/-- R436: of a way that is no way of the cluster, or out of service, nothing is retired. -/
theorem exec_wayRetirement_eq (s : State) :
    let x := s.arg.unit
    let n := s.arg.index
    let b := s.arg.flag
    let k := s.cluster x
    let way := s.arg.addr
    let id := if b then 8 * x + n else coreOf x n
    let unit := if b then l2Unit id way else l1Unit id way
    let core := if b then coreOf x 0 else coreOf x n
    let used := if b then k.l2Spares / 2 ^ n % 2 = 1 else k.l1Spares / 2 ^ n % 2 = 1
    let bad := 32 ≤ x ∨ (if b then 8 else 16) ≤ n ∨ 12 ≤ way ∨ unit ∈ k.waysOut
    exec .wayRetirement s = if bad then .next s
      else .next (scrivener ((s.emptyWay b id way).setCluster x
       (if used then { k with waysGated := k.waysGated + 1, waysOut := setIns k.waysOut unit }
        else if b then { k with l2Spares := k.l2Spares + 2 ^ n } else { k with l1Spares := k.l1Spares + 2 ^ n }))
       0x14 0xFF (core / 32 + core % 32 * 0x100 + x * 0x10000) 0 [bit (!decide used)]) := by
  simp only [exec_wayRetirement, execWayRetirement, List.contains_iff_mem]

theorem exec_dispositionSet_eq (s : State) :
    let x := s.arg.unit
    let n := s.arg.index
    let k := s.cluster x
    let t := { s with stored := { s.stored with disposition := s.stored.disposition ||| BitVec.ofNat 5 (2 ^ n) } }
    exec .dispositionSet s = .next (if n < 3 then
        (if x < 32 ∧ s.arg.addr < 512 then (if s.arg.addr ∈ k.missing then t
          else (t.setCluster x { k with retiring := setIns k.retiring s.arg.addr }).poolStep x) else s)
      else if n < 5 ∧ x < 512 then t.coreOut x else s) := by
  simp only [exec_dispositionSet, execDispositionSet, List.contains_iff_mem, apply_ite Host.Outcome.next]

/-! ### What a reset leaves (R344, R345) -/

/-- The contexts that an image gives: that of the partition definition, if any, that holds the core (R344, R370). -/
theorem look_imageCtxs (i : CfgImage) (c : Nat) : look .reset (imageCtxs i) c =
    if c < 2048 then ((i.parts.find? (fun d => inRect d.cores (c / 4))).map partCtx).getD .reset else .reset := by
  unfold imageCtxs
  split
  · next plain =>
    cases found : i.parts.find? (fun d => inRect d.cores (c / 4)) with
    | none => exact (ite_self _).symm
    | some d =>
      have reset : partCtx d = .reset := by simpa using List.all_eq_true.mp plain d (List.mem_of_find?_eq_some found)
      rw [Option.map_some, Option.getD_some, reset, ite_self]
      rfl
  · rw [look_filterMap]
    · simp only [List.mem_range]
      congr 1
      cases i.parts.find? (fun d => inRect d.cores (c / 4)) with
      | none => rfl
      | some d =>
        by_cases reset : partCtx d = .reset
        · simp [reset]
        · simp [reset]
    · intro k e made
      split at made
      · split at made
        · exact nomatch made
        · exact congrArg (·.1) (Option.some.inj made).symm
      · exact nomatch made

section ImageCtxs
variable (i : CfgImage) (c : Nat)

/-- R344: no context is held by a gang after a reset. -/
theorem run_imageCtxs : (look .reset (imageCtxs i) c).run = .free := by
  rw [look_imageCtxs]
  split
  · cases i.parts.find? (fun d => inRect d.cores (c / 4)) <;> rfl
  · rfl

theorem look_imageCtxs_of_held {d : PartDef} (mesh : c < 2048)
    (held : i.parts.find? (fun d => inRect d.cores (c / 4)) = some d) : look .reset (imageCtxs i) c = partCtx d := by
  rw [look_imageCtxs, if_pos mesh, held]
  rfl

theorem look_imageCtxs_of_unheld (unheld : ∀ d ∈ i.parts, inRect d.cores (c / 4) = false) :
    look .reset (imageCtxs i) c = .reset := by
  rw [look_imageCtxs, List.find?_eq_none.mpr fun d listed => by simp [unheld d listed]]
  exact ite_self _

end ImageCtxs

/-- R436, R437: two states differ in the clusters and the Scrivener's records alone. -/
def State.DiffersInCores (s t : State) : Prop := ∃ k v n, t = { s with clusters := k, scriv := v, scrivNext := n }

theorem State.DiffersInCores.coreFails {s t : State} (differs : s.DiffersInCores t) (core : Nat) :
    s.DiffersInCores (t.coreFails core) := by
  obtain ⟨k, v, n, rfl⟩ := differs
  simp only [State.coreFails]
  split <;> exact ⟨_, _, _, rfl⟩

theorem State.differsInCores_coreFails (l : List Nat) (s : State) : s.DiffersInCores (l.foldl State.coreFails s) :=
  List.foldlRecOn (motive := s.DiffersInCores) l _ ⟨_, _, _, rfl⟩ fun _ differs core _ => differs.coreFails core

/-- R318, R420: two states differ in the tables, states and marks of the stacks, and in the capacity, alone. -/
def State.DiffersInStacks (s t : State) : Prop :=
  ∃ cur prev st b cap, t = { s with slotCur := cur, slotPrev := prev, stackSt := st, bulk := b, capg := cap }

theorem State.DiffersInStacks.withCapg {s t : State} (differs : s.DiffersInStacks t) (cap : Nat) :
    s.DiffersInStacks { t with capg := cap } := by
  obtain ⟨cur, prev, st, b, _, rfl⟩ := differs
  exact ⟨_, _, _, _, _, rfl⟩

theorem State.differsInStacks_loadStacks (s : State) (i : CfgImage) : s.DiffersInStacks (s.loadStacks i) := by
  refine .withCapg (List.foldlRecOn (motive := s.DiffersInStacks) _ _ (List.foldlRecOn (motive := s.DiffersInStacks) _ _
    ⟨_, _, _, _, _, rfl⟩ ?retired) ?dead) _
  case retired | dead =>
    rintro _ ⟨cur, prev, st, b, cap, rfl⟩ x -
    exact ⟨_, _, _, _, _, rfl⟩

/-- What holds of a verified image's state whatever its stacks, its clusters and the log hold is what a cold reset leaves. -/
theorem exists_next_of_image {l : List Nat} {i : CfgImage} {t : State} {F : State → Prop}
    (holds : ∀ cur prev st b cap k v n, F (State.enumerate { t with
      slotCur := cur, slotPrev := prev, stackSt := st, bulk := b, capg := cap, clusters := k, scriv := v, scrivNext := n })) :
    ∃ u, (.next ((l.foldl State.coreFails (t.loadStacks i)).enumerate) : Res') = .next u ∧ F u := by
  obtain ⟨cur, prev, st, b, cap, loaded⟩ := t.differsInStacks_loadStacks i
  obtain ⟨k, v, n, fails⟩ := State.differsInCores_coreFails l (t.loadStacks i)
  rw [fails, loaded]
  exact ⟨_, rfl, holds cur prev st b cap k v n⟩

/-- What holds of a state whatever its clusters and the log hold is what a warm reset to it leaves; with no core to fail the log
is kept. -/
theorem exists_next_of_warm {c : Prop} [Decidable c] {l : List Nat} {t : State} {F : State → Prop}
    (holds : ∀ k v n, (l = [] → v = t.scriv ∧ n = t.scrivNext) → F { t with clusters := k, scriv := v, scrivNext := n }) :
    ∃ u, (if c then .next t else .next (l.foldl State.coreFails t) : Res') = .next u ∧ F u := by
  by_cases recovers : c
  · exact ⟨t, if_pos recovers, holds _ _ _ fun _ => ⟨rfl, rfl⟩⟩
  · obtain ⟨k, v, n, fails⟩ := State.differsInCores_coreFails l t
    refine ⟨_, (if_neg recovers).trans (congrArg _ fails), holds k v n ?_⟩
    rintro rfl
    exact ⟨(congrArg State.scriv fails).symm, (congrArg State.scrivNext fails).symm⟩

theorem readByte_eq_look (m : List Host.Cell) (k : Nat) : readByte m k = look 0 m k := by
  induction m with
  | nil => rfl
  | cons e m ih => rw [readByte, look, ih]

/-- Storage of which only the bytes under some keys are kept. -/
theorem readByte_filter_key (p : Nat → Bool) (m : List Host.Cell) (k : Nat) :
    readByte (m.filter fun e => p e.1) k = if p k then readByte m k else 0 := by
  split
  · next kept => exact readByte_filter (fun _ => kept) m
  · next out => exact (readByte_eq_look ..).trans (look_filter_of_out 0 fun _ => Bool.eq_false_of_not_eq_true out)

/-- Settles O60: each step by its own law; the resets by what the loading of the stacks and the cores that fail change. -/
theorem memoryAndResetEvents : Obligations.MemoryAndResetEvents := by
  intro s u x n slot e kind c gone mute
  refine ⟨State.settleLines_of_copying, exec_timeSlotStart_of_closed,
    fun k b => ⟨State.slotServes_of_owner, State.slotServes_of_kept, fun p => State.slotPending_of_donated⟩,
    fun stack chan serves answers => ?slots, exec_channelRequest_eq s, s.reqArrives_eq, fun _ => rfl, rfl,
    exec_stackAnswerTimeout_of_none, fun q => exec_stackAnswerTimeout_of_some, rfl,
    fun _ st => ⟨rfl, rfl, rfl, stackState_setStack_self .., rfl, rfl⟩, exec_retirementEnd_of_none,
    fun r moves => ⟨exec_retirementEnd_of_open moves, exec_retirementEnd_of_ended moves⟩, exec_stackDead_of_gone,
    exec_stackDead_of_standing, ?ways, exec_dispositionSet_eq s, ?cold,
    fun i c => ⟨run_imageCtxs i c, fun mesh d held => look_imageCtxs_of_held i c mesh held, look_imageCtxs_of_unheld i c⟩,
    ?warm⟩
  case slots =>
    obtain ⟨begun, fresh, fuller, remap⟩ := exec_timeSlotStart_of_open stack chan serves answers
    refine ⟨⟨?_, fun p part anew served => ?_⟩, fuller, remap⟩
    · rintro part (already | unserved)
      · exact begun part already
      · by_cases already : u.SlotBegun c
        · exact begun part already
        · exact (fresh part already).trans (congrArg _ (State.partSlot_of_none unserved))
    · exact (fresh part anew).trans (congrArg _ (State.partSlot_of_some served))
  case ways =>
    exact ⟨fun bad => (exec_wayRetirement_eq s).trans (if_pos bad), fun good => (exec_wayRetirement_eq s).trans (if_neg good),
      rfl⟩
  case cold =>
    by_cases failed : s.arg.flag = true
    · exact ⟨_, if_pos failed, fun _ _ => rfl, fun _ => rfl, rfl, rfl, rfl, rfl, rfl, rfl, rfl, failed.symm, rfl,
        fun verified => absurd failed (by simp [verified]), fun _ => ⟨rfl, rfl⟩⟩
    · rw [exec_coldReset, execColdReset, if_neg failed]
      exact exists_next_of_image fun cur prev st b cap k v n =>
        ⟨fun fails => absurd fails failed, fun _ => rfl, rfl, rfl, rfl, rfl, rfl, rfl, rfl,
          (Bool.eq_false_of_not_eq_true failed).symm, rfl, fun _ => ⟨rfl, rfl, rfl, rfl, rfl, rfl, rfl, rfl, rfl⟩,
          fun fails => absurd fails failed⟩
  case warm =>
    have asked : s.settleLines.arg = s.arg := s.sameArgs_settleLines.1
    rw [exec_warmReset]
    simp only [execWarmReset, asked]
    refine exists_next_of_warm fun k v n kept => ⟨rfl, rfl, fun _ => rfl, rfl, rfl, rfl, rfl, rfl, rfl, rfl, rfl, rfl, rfl, rfl,
      rfl, rfl, rfl, rfl, rfl, rfl, rfl, rfl, readByte_filter_key memoryKey _, fun whole => kept ?_⟩
    rw [whole]
    rfl

end Sys2Proof.Machine
end

section
/-!
PROOFS. Every well-formed instruction comes back from its word (07_encoding.md R177, R190): the round trips of the constructors,
put together.
-/

namespace Sys2Proof.Laws.RoundTrip

/-- The round trip of every instruction, by that of its constructor, in the order of `Instr`. -/
theorem statement (i : Instr) : Statement i :=
  i.casesOn
    add sub and_ or_ xor_ andn orn xnor sll srl sra rol ror slt sltu seq sne min_ max_ minu maxu clz ctz popc sextb sexth
    sextw addi andi ori xori slli srli srai rori slti sltiu seqi mul mulh mulhu mulhsu div divu rem remu fadd fsub fmul fdiv
    fsqrt fmin fmax fabs fneg fmadd fmsub fnmadd fnmsub feq flt fle fcvtL fcvtLu fcvtFromL fcvtFromLu fcvtW fcvtWu fcvtFromW
    fcvtFromWu fcvtDS fcvtSD fclass lb lh lw ld lbu lhu lwu sb sh sw sd amoadd amoswap amocas amomin amomax amominu amomaxu
    amoand amoor beq bne blt bge bltu bgeu jal lui auipc jalr callt loop_ csrr csrw csrs csrc setvl vfetch vloop vsync vget
    vput vsetc vld vst vlds vsts vldx vstx vldb ecfg erd ewait stream copyj gleanj lclaim lrelease lzero lmmaO lmmaR ldrain
    fence barr vote abortq wait wake lpatch larm halt trap discover wAdd wSub wMin wMax wAnd wOr wXor wAndn wSll wSrl wSra
    wRor wMul wMulh wMulhu wMulhsu wDiv wDivu wRem wRemu wMinu wMaxu wAddi wSlli wSrli wSrai wMovi wCeq wClt wCltu wFceqD
    wFcltD wFcleD wFceqS wFcltS wFcleS wFadd wFsub wFmul wFma wFms wFnma wFnms wFdiv wFsqrt wFmin wFmax wFabs wFneg wExp2
    wLog2 wRcp wRsqrt wCvthSD wCvthHS wCvthBS wCvthT8H wCvthE4H wCvthE5H wCvthT6T8 wCvtdDS wCvtdSH wCvtdSB wCvtdHT8 wCvtdHE4
    wCvtdHE5 wCvtdT8T6 wCvtF4 wCvtfi wCvtfu wCvtif wCvtuf wPand wPor wPxor wPandn wPmov wLd wLds wSt wSpld wSpst wAadd
    wAswap wAcas wThfetch wThfetchr wStop wIdx wSel wRng wFsinS2 wFcosS2 wPnot endloop gbar abort eret upret irefresh
    tlbinvWrite setvlGrantReturn vsyncReturn vectorAccessDone ewaitReturn fenceReturn barrierComplete gbarComplete
    voteComplete waitReturn hubLpatchRequest hubLarmRequest haltDrainEnd doneMessage blockBegin blockCommit loadDataReturn
    laneRotation spillComplete restoreComplete laneClearingDone frameBoundary revocationDeadline contextSave agingTick
    powerPressure powerPressureEnd clockHop droopDuringHop clockHopRetry laneRetirement wayRetirement dispositionSet
    droverMove loomTokenWaitEnd jobStart copyJobComplete gleanerJobComplete loomChunk packetReport windowStoreArrival
    windowLoadArrival postedStoreFault emulationTrip promptTrap barrierTimeout vsyncTimeout leaseLapse unitWakeUp
    preemptionStop rollback hostRequest remoteRequest doorbell registerWrite build release cfgstage wlogrc member group coll
    savereg preempt resume importImg prq snapreg pclear summary undefinedMailboxOpcode lockInterfaceRequest
    getDeviceInterfaceReport startInterfaceRequest stopInterfaceRequest lockedBarWrite ideIntegrityFailure spdmMeasurement
    flitReceive acknowledgement negativeAcknowledgement laneLost retrainDone collectiveRoundDone collectiveTimeout
    abortMessage timeSlotStart channelRequest vectorRequestPacket stackRetirementStart retirementEnd stackAnswerTimeout
    stackDead refreshBreak coldReset warmReset bounceReceived sysRevocation retentionRelease

end Sys2Proof.Laws.RoundTrip

namespace Sys2Proof

/-- Settles O8: each constructor by its own round trip. -/
theorem decodeOfEncode : Obligations.DecodeOfEncode := Laws.RoundTrip.statement

end Sys2Proof
end

section
/-!
PROOFS. Trap entry, its inverse, and the reset state (R26, R344, R372, R373, R427, R429).
-/

namespace Sys2Proof.Machine

/-! ### Trap entry (R372, R427, R429) -/

/-- The emulation trip's cause goes to Fw from every level. -/
theorem Ctx.trap_of_trip {e : Exc} (trip : e.cause = 0x13) (x : Ctx) (epc : Word) :
    x.trap epc e = { x with
      run := .active, level := .fw, pc := x.ft.vec &&& ~~~3, call := none, card := none, watching := none,
      ft := { x.ft with cause := e.cause, epc := epc, val := e.val, plev := x.level.code,
                        ldepth := BitVec.ofNat 3 x.loops.length } } := by
  have fw : trapLevel e.cause x.level = .fw := if_pos trip
  have down : ¬ Level.fw = .sys := by decide
  simp only [Ctx.trap, fw, down, if_false, aligned_vec]

@[simp] theorem State.noteTrigger_ctx (s : State) (c d : Nat) (k : BitVec 8) : (s.noteTrigger c k).ctx d = s.ctx d := by
  simp only [State.noteTrigger]
  split
  · split <;> rfl
  · rfl

theorem State.noteTrigger_rest (s : State) (c : Nat) (k : BitVec 8) :
    s.noteTrigger c k = { s with recs := (s.noteTrigger c k).recs } := by
  simp only [State.noteTrigger]
  split
  · split <;> rfl
  · rfl

/-- A cause that rolls back sets its gang's trigger. -/
theorem State.noteTrigger_of_rollsBack {s : State} {c : Nat} {k : BitVec 8} (h : s.rollsBack c k = true) :
    s.noteTrigger c k = s.setRec (s.ctx c).recIdx.toNat { s.gang c with trigger := true } := by
  have due := h
  simp only [State.rollsBack, Bool.and_eq_true] at due
  obtain ⟨⟨⟨attr, -⟩, -⟩, cause⟩ := due
  simp only [State.noteTrigger, attr, cause, h, Bool.and_self, if_true]

theorem State.trapAt_of_rollsBack {s : State} {c : Nat} {e : Exc} (h : s.rollsBack c e.cause = true) (epc : Word) :
    s.trapAt c epc e = s.setRec (s.ctx c).recIdx.toNat { s.gang c with trigger := true } :=
  (if_pos h).trans (State.noteTrigger_of_rollsBack h)

theorem State.trapAt_of_enters {s : State} {c : Nat} {e : Exc} (h : s.rollsBack c e.cause = false) (epc : Word) :
    s.trapAt c epc e = (s.noteTrigger c e.cause).setCtx c ((s.ctx c).trap epc e) := by
  simp [State.trapAt, h]

/-- Settles O30: a trigger writes the gang's record only; any other cause enters the handler of the level it goes to. -/
theorem trapEntry : Obligations.TrapEntry := by
  intro s c epc e x t r
  cases rolls : s.rollsBack c e.cause with
  | true =>
    have form : t = _ := State.trapAt_of_rollsBack rolls epc
    have gang : (s.gang c).rollback = true := by
      simp only [State.rollsBack, Bool.and_eq_true] at rolls
      exact rolls.1.1.1
    rw [form]
    refine ⟨rfl, fun _ _ => rfl, fun _ => ⟨rfl, gang, fun k => ?_⟩, nofun⟩
    refine (look_put ..).trans ?_
    by_cases same : k = x.recIdx.toNat
    · subst same; rfl
    · rw [if_neg same, if_neg same]; rfl
  | false =>
    have form : t = _ := State.trapAt_of_enters rolls epc
    rw [form, State.ctx_setCtx_self]
    refine ⟨?_, fun d other => (State.ctx_setCtx_ne _ _ other).trans (s.noteTrigger_ctx c d _), nofun,
      fun _ => ⟨fun native app => ?_, fun up => ?_⟩⟩
    · rw [s.noteTrigger_rest]; rfl
    · have level : x.level.code = 0 := congrArg Level.code app
      simp only [r, level]
      exact Ctx.trap_of_app app native epc
    · rcases up with trip | above
      · exact Ctx.trap_of_trip trip x epc
      · exact Ctx.trap_of_above above e epc

/-! ### The return (R373) -/

@[simp] theorem Level.ofCode_code (l : Level) : Level.ofCode l.code = l := by cases l <;> rfl

/-- The loop entries of a stack of at most six come back whole. -/
theorem drop_saved_depth {l : List LoopEnt} (few : l.length ≤ 6) :
    l.drop (l.length - (BitVec.ofNat 3 l.length).toNat) = l := by
  have depth : (BitVec.ofNat 3 l.length).toNat = l.length := by
    rw [BitVec.toNat_ofNat]; exact Nat.mod_eq_of_lt (by omega)
  rw [depth, Nat.sub_self, List.drop_zero]

/-- Settles O33: the handler's trap registers hold the address, the level and the depth, and nothing else was lost. -/
theorem trapAndReturnInverse : Obligations.TrapAndReturnInverse := by
  intro x epc e few
  have back : ∀ y : Ctx, y.handler.epc = epc → y.handler.plev = x.level.code →
      y.handler.ldepth = BitVec.ofNat 3 x.loops.length → y.x = x.x → y.fflags = x.fflags → y.loops = x.loops →
      y.eret.pc = epc ∧ y.eret.level = x.level ∧ y.eret.x = x.x ∧ y.eret.fflags = x.fflags ∧ y.eret.loops = x.loops := by
    intro y pc lev depth regs flags loops
    refine ⟨pc, (congrArg _ lev).trans (Level.ofCode_code _), regs, flags, ?_⟩
    simp only [Ctx.eret, depth, loops, drop_saved_depth few]
  by_cases trip : e.cause = 0x13
  · rw [Ctx.trap_of_trip trip]; exact back _ rfl rfl rfl rfl rfl rfl
  · by_cases app : x.level = .app
    · rw [Ctx.trap_of_app app trip]; exact back _ rfl (congrArg Level.code app).symm rfl rfl rfl rfl
    · rw [Ctx.trap_of_above app]; exact back _ rfl rfl rfl rfl rfl rfl

/-! ### Reset (R26, R344) -/

/-- The check beside a doubleword of zeros. -/
theorem storedCheck_reset (k : Nat) : storedCheck State.reset k = 0xDE := by
  have zero : readDw State.reset.mem (k / 8 * 8) = 0 := rfl
  have right : look 0 State.reset.synd (k / 8 * 8) = 0 := rfl
  rw [storedCheck, zero, right]
  decide +kernel

/-- Settles O1: each table of the reset state is empty, and a unit that no table lists stands at its reset value. -/
theorem resetLeaves : Obligations.ResetLeaves :=
  ⟨fun _ => ⟨rfl, rfl, rfl, rfl⟩, fun _ => rfl, fun _ => ⟨rfl, rfl⟩, fun k => ⟨rfl, storedCheck_reset k⟩, rfl,
    fun _ => rfl, rfl, nofun⟩

end Sys2Proof.Machine
end

section
/-!
PROOFS. The turn of a context that runs no decoded word, and its fetch (R173, R195, R387, R396).
-/

namespace Sys2Proof.Machine

/-! ### The turn of a context (R195, R387, R396) -/

theorem step_of_issue {s s0 : State} {c : Nat} {l : List Action} (entry : s.agenda = .issue c :: l)
    (rest : s0 = { s with agenda := l }) : step s = State.take (s0.issueTurn c) :=
  step_eq_issueTurn (.inl ⟨by rw [rest]; exact entry, by rw [rest]⟩)

section Turn
variable {s : State} {c : Nat}

theorem State.issueTurn_of_trip (trip : s.tripReady c = true) :
    s.issueTurn c = .run .emulationTrip { s with arg := { StepArg.zero with unit := c } } := if_pos trip

theorem State.issueTurn_of_post (trip : s.tripReady c = false) (post : s.postReady c = true) :
    s.issueTurn c = .run .postedStoreFault { s with arg := { StepArg.zero with unit := c } } := by
  simp only [State.issueTurn, trip, post, Bool.false_eq_true, if_false, if_true]

theorem State.issueTurn_of_prompt (trip : s.tripReady c = false) (post : s.postReady c = false)
    (prompt : s.promptReady c = true) :
    s.issueTurn c = .run .promptTrap { s with arg := { StepArg.zero with unit := c } } := by
  simp only [State.issueTurn, trip, post, prompt, Bool.false_eq_true, if_false, if_true]

theorem State.issueTurn_of_idle (trip : s.tripReady c = false) (post : s.postReady c = false)
    (prompt : s.promptReady c = false) (idle : s.halted c = true ∨ (s.ctx c).mayIssue = false) : s.issueTurn c = .done s := by
  have stays : (s.halted c || !(s.ctx c).mayIssue) = true := by
    rcases idle with h | h <;> simp [h]
  simp only [State.issueTurn, trip, post, prompt, stays, Bool.false_eq_true, if_false, if_true]

theorem State.issueWord_of_cause {e : Exc} {t : State} (fails : s.fetch c (s.ctx c).pc = (.error (some e), t)) :
    s.issueWord c = .done (t.trapAt c (t.ctx c).pc e) := by
  simp only [State.issueWord, fails]

theorem State.issueWord_of_wait {t : State} (waits : s.fetch c (s.ctx c).pc = (.error none, t)) : s.issueWord c = .done t := by
  simp only [State.issueWord, waits]

/-- The state in which a context traps for a word that is not defined. -/
def State.activated (t : State) (c : Nat) : State :=
  (t.leavesStart c).setCtx c { (t.leavesStart c).ctx c with run := .active }

theorem State.issueWord_of_undefined {w : IWord} {t : State} {n : DecodeErr} (word : s.fetch c (s.ctx c).pc = (.ok w, t))
    (undefined : decodeC w = .error n) : s.issueWord c =
      .done ((t.activated c).trapAt c ((t.activated c).ctx c).pc { cause := 0x01, val := w.setWidth 64 }) := by
  simp only [State.issueWord, word, undefined]
  rfl

theorem State.activated_eq (t : State) (c : Nat) :
    t.activated c = { t with ctxs := (t.activated c).ctxs, recs := (t.activated c).recs } := by
  rw [State.activated, State.leavesStart_eq]
  rfl

theorem State.ctx_activated_self (t : State) (c : Nat) : (t.activated c).ctx c = { t.ctx c with run := .active } := by
  rw [State.activated, State.ctx_setCtx_self, State.ctx_leavesStart]

theorem State.ctx_activated_ne (t : State) {c d : Nat} (other : d ≠ c) : (t.activated c).ctx d = t.ctx d :=
  (State.ctx_setCtx_ne _ _ other).trans (t.ctx_leavesStart c d)

end Turn

/-- Settles O5: the branches of a context's turn, in their order. -/
theorem stepOtherwise : Obligations.StepOtherwise := by
  intro s s0 t c l w e n entry rest ev
  rw [step_of_issue entry rest]
  refine ⟨fun trip => by rw [State.issueTurn_of_trip trip]; rfl,
    fun trip post => by rw [State.issueTurn_of_post trip post]; rfl,
    fun trip post prompt => by rw [State.issueTurn_of_prompt trip post prompt]; rfl,
    fun trip post prompt => ⟨fun idle => by rw [State.issueTurn_of_idle trip post prompt idle]; rfl, fun runs ready => ?_⟩⟩
  rw [State.issueTurn_of_readyToIssue ⟨trip, post, prompt, runs, ready⟩]
  refine ⟨fun fails => by rw [State.issueWord_of_cause fails]; rfl, fun waits => by rw [State.issueWord_of_wait waits]; rfl,
    fun word undefined => ⟨t.activated c, ?_, t.activated_eq c, t.ctx_activated_self c, fun d => t.ctx_activated_ne⟩⟩
  rw [State.issueWord_of_undefined word undefined]
  rfl

/-! ### Fetches (R146, R173, R396) -/

/-- Who fetches for a context. -/
def State.fetcher (s : State) (c : Nat) : Who := { s.who c with kind := 10, l1 := false }

section Fetch
variable {s u : State} {c : Nat} {pc : Word} {t : Tr}

theorem State.fetch_of_past (past : (s.ctx c).codebound.toNat ≤ pc.toNat) :
    s.fetch c pc = (.error (some { cause := 0x0A, val := pc }), s) := if_pos past

theorem State.fetch_of_form (within : pc.toNat < (s.ctx c).codebound.toNat) (form : canonical pc = false) :
    s.fetch c pc = (.error (some { cause := 0x09, val := pc }), s) := by
  simp only [State.fetch, if_neg (Nat.not_le.mpr within), form, Bool.not_false, if_true]

/-- An address of vector space is canonical (R115). -/
theorem canonical_of_inVector (vector : inVector pc = true) : canonical pc = true := by
  have small : pc.toNat < 0x10000000000 := of_decide_eq_true vector
  have top : pc.extractLsb' 56 8 = 0 := by
    apply BitVec.eq_of_toNat_eq
    rw [BitVec.extractLsb'_toNat, Nat.shiftRight_eq_div_pow, Nat.div_eq_of_lt (small.trans (by decide))]
    rfl
  simp [canonical, top]

theorem State.fetch_of_unmapped (within : pc.toNat < (s.ctx c).codebound.toNat) (vector : inVector pc = true)
    (unmapped : s.vecTr (clusterOf (c / 4)) (s.ctx c).vspace.toNat (s.ctx c).level pc .x = none) :
    s.fetch c pc = (.error (some { cause := 0x09, val := pc }), s) := by
  have fails : s.translate (s.fetcher c) pc .x = .exc { cause := 0x06, val := pc } s := by
    have entry : s.vecTr (clusterOf (s.fetcher c).core) (s.ctx (s.fetcher c).c).vspace.toNat (s.fetcher c).level pc .x = none :=
      unmapped
    simp only [State.translate, vector, if_true, entry]
  rw [State.fetcher] at fails
  simp only [State.fetch, if_neg (Nat.not_le.mpr within), canonical_of_inVector vector, Bool.not_true, Bool.false_eq_true,
    if_false, fails]
  rfl

/-- What a core's instruction cache or a context's fetch buffer holds of the sector. -/
def State.codeHeld (u : State) (c : Nat) (t : Tr) : Option ((Nat × Nat) × List IWord) :=
  match u.icache.find? (fun e => e.1 == (c / 4, sectorOf (memKey t.skew t.pa))) with
  | some e => some e
  | none => u.fbuf.find? (fun e => e.1 == (c, sectorOf (memKey t.skew t.pa)))

section Translated
variable (within : pc.toNat < (s.ctx c).codebound.toNat) (form : canonical pc = true)
  (page : s.translate (s.fetcher c) pc .x = .ok t u) (open_ : t.attr ≠ 2) (memory : t.pa < 0x25000000000)
include within form page open_ memory

theorem State.fetch_of_translates : s.fetch c pc =
    match u.codeHeld c t with
    | some (_, line) => (.ok (nth 0 line (t.pa % 256 / 4)), u)
    | none =>
      match u.memAccess (s.fetcher c) { t with pa := t.pa / 4 * 4 } pc (.load 4) with
      | .value v v' => (.ok (v.setWidth 32), v'.takeI (s.fetcher c) t pc)
      | .exc e v => (.error (some { cause := e.cause, val := pc }), v)
      | .stall v => (.error none, v)
      | _ => (.error (some { cause := 0x09, val := pc }), u) := by
  have place : ¬ (t.attr = 2 ∨ ¬ t.pa < 0x25000000000) := by simp [open_, memory]
  rw [State.fetcher] at page
  simp only [State.fetch, if_neg (Nat.not_le.mpr within), form, Bool.not_true, Bool.false_eq_true, if_false, page,
    if_neg place]
  rfl

theorem State.fetch_of_held {k : Nat × Nat} {line : List IWord} (held : u.codeHeld c t = some (k, line)) :
    s.fetch c pc = (.ok (nth 0 line (t.pa % 256 / 4)), u) := by
  rw [State.fetch_of_translates within form page open_ memory, held]

theorem State.fetch_of_absent (absent : u.codeHeld c t = none)
    (allowed : u.memFault (s.fetcher c) { t with pa := t.pa / 4 * 4 } pc false = none)
    (right : checkFails u (memKey t.skew (t.pa / 4 * 4)) = false)
    (still : u.stalls { t with pa := t.pa / 4 * 4 } = false) :
    s.fetch c pc = (.ok (BitVec.ofNat 32 (u.numAt { t with pa := t.pa / 4 * 4 } 4)),
      (u.served (s.fetcher c) { t with pa := t.pa / 4 * 4 } (sectorOf (memKey t.skew (t.pa / 4 * 4))) (.load 4)).takeI
        (s.fetcher c) t pc) := by
  have word : (readN u.mem (memKey t.skew (t.pa / 4 * 4)) 4).setWidth 32 =
      BitVec.ofNat 32 (u.numAt { t with pa := t.pa / 4 * 4 } 4) := BitVec.setWidth_ofNat_of_le (by decide) _
  rw [State.fetch_of_translates within form page open_ memory, absent, ← word]
  simp only [State.memAccess, MemOp.writes, MemOp.whole, allowed, still, Bool.false_eq_true, if_false,
    State.badCheck_of_right right]

end Translated

/-- An instruction cache that takes a line changes nothing else. -/
theorem State.takeI_rest (s : State) (w : Who) (t : Tr) (va : Word) :
    s.takeI w t va = { s with icache := (s.takeI w t va).icache, freeN := (s.takeI w t va).freeN } := by
  simp only [State.takeI]
  split
  · rfl
  · split <;> rfl

theorem State.takeI_of_caches {u e : State} (caches : OnlyCaches u e) (w : Who) (t : Tr) (va : Word) :
    let v := e.takeI w t va
    v = { u with ctxs := v.ctxs, l1 := v.l1, l2 := v.l2, freeN := v.freeN, bad := v.bad, scrubs := v.scrubs,
                 icache := v.icache } := by
  intro v
  have rest : v = _ := e.takeI_rest w t va
  rw [OnlyCaches] at caches
  rw [rest, caches]

end Fetch

/-- Settles O6: the checks of a fetch in their order; where no cache holds the word, serving its load changes what the caches
hold and what the context is charged. -/
theorem fetchReadsStorage : Obligations.FetchReadsStorage := by
  intro s c pc w
  refine ⟨State.fetch_of_past, State.fetch_of_form, State.fetch_of_unmapped, ?_⟩
  intro t u within form page open_ memory at_ own here
  refine ⟨fun l found => ?_, fun l out found => ?_, fun outI outF allowed right still => ?_⟩
  · exact State.fetch_of_held within form page open_ memory (by simp only [State.codeHeld, at_] at found ⊢; rw [found])
  · have none_ : u.icache.find? (fun e => e.1 == at_) = none := by simpa using out
    exact State.fetch_of_held within form page open_ memory (by simp only [State.codeHeld]; rw [none_]; exact found)
  · have absent : u.codeHeld c t = none := by
      have noneI : u.icache.find? (fun e => e.1 == at_) = none := by simpa using outI
      have noneF : u.fbuf.find? (fun e => e.1 == own) = none := by simpa using outF
      simp only [State.codeHeld]
      rw [noneI]
      exact noneF
    refine ⟨_, State.fetch_of_absent within form page open_ memory absent allowed right still, ?_, fun d => ?_⟩
    · have caches := u.onlyCaches_served_load (w := w) rfl here (sectorOf (memKey t.skew (t.pa / 4 * 4))) 4
      exact State.takeI_of_caches caches w t pc
    · have charged := u.charged_served_load (w := w) rfl here (sectorOf (memKey t.skew (t.pa / 4 * 4))) 4 d
      rw [State.takeI_rest]
      exact charged

end Sys2Proof.Machine
end

section
/-!
PROOFS. What storage, the hub and the accesses do to storage (R119-R176, R309-R311): most updates leave it alone, the equations
`…_mem`; those that write it keep its canonical form, the lemmas `…_sound`, `sound_…` and `soundAfter_…`.
-/

namespace Sys2Proof.Machine

/-! ### Answers whose states have canonical storage -/

@[simp] theorem State.sound_iff (s : State) : s.Sound ↔ Memory.wf s.mem = true := .rfl

theorem sound_of_mem {s t : State} (same : t.mem = s.mem) (sound : s.Sound) : t.Sound := by
  rw [State.Sound, same]
  exact sound

/-- Storage is canonical in the state that an outcome leaves, where it leaves one. -/
def SoundAfter : Res' → Prop
  | .next t => t.Sound
  | _ => True

@[simp] theorem soundAfter_next (t : State) : SoundAfter (.next t) ↔ Memory.wf t.mem = true := .rfl

/-- In every state that a translation may answer with. -/
@[simp] def Tran.Sound : Tran → Prop
  | .ok _ t | .exc _ t | .upcall t | .wait t => t.Sound

/-- That an access may answer with. -/
@[simp] def Ans.Sound : Ans → Prop
  | .value _ t | .exc _ t | .upcall _ t | .waits _ t | .stall t => t.Sound

/-- That a word of a block may answer with. -/
@[simp] def WRes.Sound : WRes → Prop
  | .go _ t | .hold t | .wait t | .fault _ t => t.Sound

/-- That the read of an element may answer with. -/
@[simp] def ElemRead.Sound : ElemRead → Prop
  | .got _ _ t | .sent _ _ t | .exc _ t | .later t => t.Sound

/-- That the read of a card may answer with. -/
@[simp] def CardRead.Sound : CardRead → Prop
  | .card _ t => t.Sound
  | .later r | .raises r => SoundAfter r

/-- That a commit may answer with. -/
@[simp] def Commit.Sound : Commit → Prop
  | .ok _ _ t | .fault _ t => t.Sound
  | .wait => True

/-- That a command may answer with. -/
@[simp] def OptSound : Option State → Prop
  | none => True
  | some t => t.Sound

/-- That a remote request may answer with. -/
@[simp] def RemoteSound : RemoteEnd → Prop
  | none => True
  | some p => p.1.Sound

/-- Of a step that may fail. -/
@[simp] def TrySound {ε α : Type} : Except (ε × State) (α × State) → Prop
  | .error p => p.2.Sound
  | .ok p => p.2.Sound

@[simp] theorem ite_mem (c : Prop) [Decidable c] (s t : State) :
    (if c then s else t).mem = if c then s.mem else t.mem := apply_ite ..

@[simp] theorem wf_ite (c : Prop) [Decidable c] (m n : List Host.Cell) :
    Memory.wf (if c then m else n) = if c then Memory.wf m else Memory.wf n := apply_ite ..

@[simp] theorem soundAfter_ite (c : Prop) [Decidable c] (o p : Res') :
    SoundAfter (if c then o else p) = if c then SoundAfter o else SoundAfter p := apply_ite ..

theorem TrySound.of_ok {ε α : Type} {o : Except (ε × State) (α × State)} {p : α × State} (h : TrySound o)
    (e : o = .ok p) : p.2.Sound := by
  subst e
  exact h

theorem TrySound.of_error {ε α : Type} {o : Except (ε × State) (α × State)} {p : ε × State} (h : TrySound o)
    (e : o = .error p) : p.2.Sound := by
  subst e
  exact h

/-- A command refused under a condition. -/
theorem optSound_guard (c : Prop) [Decidable c] {o : Option State} (h : OptSound o) :
    OptSound (if c then none else o) := by
  split
  · trivial
  · exact h

@[simp] theorem foldl_mem {α : Type} {f : State → α → State} (h : ∀ s a, (f s a).mem = s.mem) (l : List α) (s : State) :
    (l.foldl f s).mem = s.mem := by
  induction l generalizing s with
  | nil => rfl
  | cons a l ih => rw [List.foldl_cons, ih, h]

theorem foldl_sound {α : Type} {f : State → α → State} (h : ∀ s a, s.Sound → (f s a).Sound) (l : List α) {s : State}
    (sound : s.Sound) : (l.foldl f s).Sound := by
  induction l generalizing s with
  | nil => exact sound
  | cons a l ih => exact ih (h s a sound)

theorem Ans.Sound.of_value {a : Ans} (h : a.Sound) {v : Word} {t : State} (e : a = .value v t) : t.Sound := by
  subst e
  exact h

theorem Ans.Sound.of_exc {a : Ans} (h : a.Sound) {x : Exc} {t : State} (e : a = .exc x t) : t.Sound := by
  subst e
  exact h

/-! ### Storage as producers write it (R309-R311) -/

@[simp] theorem putDw_sound {s : State} (sound : s.Sound) (k : Nat) (v : Word) : (putDw s k v).Sound :=
  wf_putDw k v sound

@[simp] theorem putDws_sound (vs : List Word) {s : State} (sound : s.Sound) (k : Nat) : (putDws s k vs).Sound :=
  wf_putDws vs k sound

@[simp] theorem carry_sound {s : State} (sound : s.Sound) (src n dst : Nat) : (carry s src n dst).Sound :=
  wf_carry src n dst sound

@[simp] theorem clearRange_sound {s : State} (sound : s.Sound) (k n : Nat) : (clearRange s k n).Sound :=
  wf_clearRange k n sound

@[simp] theorem putChip_sound {s : State} (sound : s.Sound) (k : Nat) (v : Word) : (putChip s k v).Sound :=
  wf_putDw k v sound

@[simp] theorem logWrite_mem (s : State) (part pa : Nat) : (logWrite s part pa).mem = s.mem := by rfl

@[simp] theorem State.setClock_mem (s : State) (die mhz : Nat) : (s.setClock die mhz).mem = s.mem := by rfl

@[simp] theorem State.wakeUnit_sound {s : State} (sound : s.Sound) (u : Nat) : (s.wakeUnit u).Sound := by
  unfold State.wakeUnit
  split <;> simp [sound]

@[simp] theorem recallLease_mem (s : State) (sector except : Nat) :
    (recallLease s sector except).mem = s.mem := by rfl

@[simp] theorem recallOwner_mem (s : State) (sector core : Nat) :
    (recallOwner s sector core).mem = s.mem := by rfl

@[simp] theorem l1Fill_mem (s : State) (core sector : Nat) (own : Bool) :
    (l1Fill s core sector own).mem = s.mem := by
  simp only [l1Fill]
  split
  · rfl
  · split
    · rfl
    · simp

@[simp] theorem lapse_mem (s : State) (core : Nat) : (lapse s core).mem = s.mem := by rfl

@[simp] theorem noteStore_mem (s : State) (dw core : Nat) : (noteStore s dw core).mem = s.mem := by rfl

@[simp] theorem sawValue_mem (s : State) (core dw : Nat) : (sawValue s core dw).mem = s.mem := by rfl

@[simp] theorem sawOwn_mem (s : State) (core sector : Nat) : (sawOwn s core sector).mem = s.mem := by rfl

@[simp] theorem markScrubs_mem (s : State) (sector : Nat) : (markScrubs s sector).mem = s.mem := by rfl

@[simp] theorem storeMem_sound {s : State} (sound : s.Sound) (part core pa key : Nat) (bs : List Byte) :
    (storeMem s part core pa key bs).Sound := wf_storeMem part core pa key bs sound

@[simp] theorem scrivener_mem (s : State) (code part unit addr : Nat) (detail : List Nat) :
    (scrivener s code part unit addr detail).mem = s.mem := by rfl

@[simp] theorem State.setStack_mem (s : State) (x : Nat) (st : StackState) :
    (s.setStack x st).mem = s.mem := by rfl

@[simp] theorem State.startRetirement_mem (s : State) (x : Nat) (st : StackState) :
    (s.startRetirement x st).mem = s.mem := by rfl

@[simp] theorem State.retireStack_mem (s : State) (x : Nat) : (s.retireStack x).mem = s.mem := by
  simp [State.retireStack]

@[simp] theorem enterPoison_mem (s : State) (c key unit ch : Nat) :
    (enterPoison s c key unit ch).mem = s.mem := by
  simp [enterPoison]

@[simp] theorem poisonSector_mem (s : State) (source skew pa : Nat) :
    (poisonSector s source skew pa).mem = s.mem := by
  simp [poisonSector]

@[simp] theorem renewSector_mem (s : State) (skew pa : Nat) : (renewSector s skew pa).mem = s.mem := by rfl

@[simp] theorem free_mem (s : State) : (free s).2.mem = s.mem := by rfl

/-! ### The end of an instruction, parks and traps -/

@[simp] theorem State.mapMts_mem (s : State) (c : Nat) (f : Nat → Mt → Mt) :
    (s.mapMts c f).mem = s.mem := foldl_mem (fun _ _ => by simp) _ s

@[simp] theorem State.wx_mem (s : State) (r : RegNo) (v : Word) : (s.wx r v).mem = s.mem := by rfl

@[simp] theorem State.next_mem (s : State) : s.next.mem = s.mem := by rfl

@[simp] theorem soundAfter_done (s : State) (rd : RegNo) (v : Word) :
    SoundAfter (s.done rd v) ↔ Memory.wf s.mem = true := .rfl

@[simp] theorem soundAfter_goto (s : State) (pc : Word) :
    SoundAfter (s.goto pc) ↔ Memory.wf s.mem = true := .rfl

@[simp] theorem State.orFlags_mem (s : State) (f : BitVec 7) : (s.orFlags f).mem = s.mem := by rfl

@[simp] theorem soundAfter_park (s : State) (w : Why) :
    SoundAfter (s.park w) ↔ Memory.wf s.mem = true := .rfl

@[simp] theorem State.noteTrigger_mem (s : State) (c : Nat) (k : BitVec 8) :
    (s.noteTrigger c k).mem = s.mem := by
  simp [State.noteTrigger]

@[simp] theorem State.mismatch_mem (s : State) (kind part core addr : Nat) :
    (s.mismatch kind part core addr).mem = s.mem := by rfl

@[simp] theorem State.trapAt_mem (s : State) (c : Nat) (epc : Word) (e : Exc) :
    (s.trapAt c epc e).mem = s.mem := by
  simp [State.trapAt]

@[simp] theorem soundAfter_raise (s : State) (k : BitVec 8) (v : Word) :
    SoundAfter (raise s k v) ↔ Memory.wf s.mem = true := by
  simp [raise]

@[simp] theorem State.letGo_mem (s : State) (c i : Nat) : (s.letGo c i).mem = s.mem := by rfl

@[simp] theorem State.sweepSeq_mem (s : State) (c : Nat) : (s.sweepSeq c).mem = s.mem := by rfl

@[simp] theorem State.mtFault_mem (s : State) (c i : Nat) (m : Mt) (e : Exc) :
    (s.mtFault c i m e).mem = s.mem := by
  simp [State.mtFault]

@[simp] theorem State.sampleAbort_mem (s : State) (c : Nat) : (s.sampleAbort c).mem = s.mem := by
  simp [State.sampleAbort]

/-! ### Status registers -/

@[simp] theorem State.tlbInvalidate_mem (s : State) (core : Nat) (v : Word) :
    (s.tlbInvalidate core v).mem = s.mem := by rfl

/-! ### Images and spilled records -/

@[simp] theorem State.writeSpill_sound {s : State} (sound : s.Sound) (c i : Nat) : (s.writeSpill c i).Sound := by
  unfold State.writeSpill
  split
  · exact sound
  · exact foldl_sound (fun _ _ canonical => wf_putDw _ _ canonical) _ sound

@[simp] theorem State.putMt_sound {s : State} (sound : s.Sound) (c i : Nat) (m : Mt) : (s.putMt c i m).Sound := by
  simp [State.putMt, sound]

@[simp] theorem State.syncSpill_sound {s : State} (sound : s.Sound) (c : Nat) : (s.syncSpill c).Sound := by
  refine foldl_sound (fun t i canonical => ?_) _ sound
  dsimp only
  split
  · simp [canonical]
  · split <;> simp [canonical]

/-! ### The hub, its boxes and the links -/

@[simp] theorem State.ringBell_mem (s : State) (m : Nat) : (s.ringBell m).mem = s.mem := by
  unfold State.ringBell
  split <;> simp

@[simp] theorem State.hubPut_mem (s : State) (off : Nat) (d : Datum) : (s.hubPut off d).mem = s.mem := by
  simp [State.hubPut]

@[simp] theorem State.hubWrite_mem (s : State) (part : Nat) (fw : Bool) (off : Nat) (d : Datum) :
    (s.hubWrite part fw off d).mem = s.mem := by
  simp [State.hubWrite]

@[simp] theorem State.physWrite_sound (vs : List Word) {s : State} (sound : s.Sound) (pa : Nat) :
    (s.physWrite pa vs).Sound := by
  induction vs generalizing s pa with
  | nil => exact sound
  | cons v vs ih => simp [State.physWrite, ih, sound]

@[simp] theorem State.physWriteFor_sound {s : State} (sound : s.Sound) (part pa : Nat) (vs : List Word) :
    (s.physWriteFor part pa vs).Sound := by
  simp [State.physWriteFor, sound]

@[simp] theorem State.answer_sound {s : State} (sound : s.Sound) (m : Nat) (v : Word) : (s.answer m v).Sound := by
  unfold State.answer
  split <;> simp [sound]

@[simp] theorem State.setDir_mem (s : State) (port d : Nat) (l : LinkDir) :
    (s.setDir port d l).mem = s.mem := by rfl

@[simp] theorem State.pump_mem (s : State) (port : Nat) : (s.pump port).mem = s.mem := by
  simp [State.pump]

@[simp] theorem State.sendData_mem (s : State) (port : Nat) (header data : List Datum) :
    (s.sendData port header data).mem = s.mem := by
  simp [State.sendData]

theorem sound_takeDatum {s : State} (sound : s.Sound) (kind part core pa n : Nat) (d : Datum) :
    TrySound (s.takeDatum kind part core pa n d) := by
  unfold State.takeDatum
  split
  · exact sound
  · split <;> simp [sound]

@[simp] theorem State.sendVia_mem (s : State) (port : Nat) (words : List Word) (route : Word) (data : List Datum) :
    (s.sendVia port words route data).mem = s.mem := by
  simp [State.sendVia]

@[simp] theorem State.sendTo_mem (s : State) (slot : Nat) (words : List Word) (data : List Datum) :
    (s.sendTo slot words data).mem = s.mem := by
  simp [State.sendTo]

@[simp] theorem State.sendReq_mem (s : State) (slot tag : Nat) (words : List Word) (data : List Datum) :
    (s.sendReq slot tag words data).mem = s.mem := by
  simp [State.sendReq]

theorem takeReply_mem {s : State} {tag : Nat} {f : RemoteReq → Bool} {p : RemoteReq × State}
    (h : s.takeReply tag f = some p) : p.2.mem = s.mem := by
  obtain ⟨q, -, rfl⟩ := Option.map_eq_some_iff.mp h
  rfl

@[simp] theorem State.dropReplies_mem (s : State) (f : Nat → Bool) : (s.dropReplies f).mem = s.mem := by rfl

@[simp] theorem State.dropAsked_mem (s : State) (c : Nat) : (s.dropAsked c).mem = s.mem := by rfl

/-! ### Translation, the caches and the accesses (R119-R176) -/

@[simp] theorem State.charge_mem (s : State) (c n : Nat) : (s.charge c n).mem = s.mem := by
  simp [State.charge]

@[simp] theorem State.evictSector_mem (s : State) (c : Nat) (e : L2Ent) : (s.evictSector c e).mem = s.mem := by
  simp [State.evictSector]

@[simp] theorem State.touch_mem (s : State) (c home sector : Nat) (dirty : Bool) :
    (s.touch c home sector dirty).mem = s.mem := by
  simp only [State.touch]
  split
  · simp
  · split
    · simp
    · split <;> simp

@[simp] theorem badCheck_mem {s : State} {w : Who} {key pa : Nat} {va : Word} {p : Exc × State}
    (h : s.badCheck w key pa va = some p) : p.2.mem = s.mem := by
  unfold State.badCheck at h
  split at h
  · simp [← Option.some.inj h]
  · exact nomatch h

@[simp] theorem State.served_mem (s : State) (w : Who) (t : Tr) (sector : Nat) (op : MemOp)
    (wrote : optParam Bool true) :
    (s.served w t sector op wrote).mem = s.mem := by
  simp only [State.served]
  split
  · split
    · simp
    · split
      · split <;> simp
      · split
        · simp
        · rfl
        · simp
  · split
    · split <;> simp
    · split
      · simp
      · rfl
      · simp

@[simp] theorem State.noteAtomic_mem (s : State) (c : Nat) : (s.noteAtomic c).mem = s.mem := by
  simp [State.noteAtomic]

theorem sound_memAccess {s : State} (sound : s.Sound) (w : Who) (t : Tr) (va : Word) (op : MemOp) :
    (s.memAccess w t va op).Sound := by
  unfold State.memAccess
  extract_lets key sector
  split
  · exact sound
  · split
    · exact sound
    · split
      · split
        next bad => exact sound_of_mem (badCheck_mem bad) sound
        next => simp [sound]
      · split
        · exact sound
        · split
          next bad =>
            split at bad
            · exact sound_of_mem (badCheck_mem bad) sound
            · exact nomatch bad
          next => simp [sound]
      · split
        · exact sound
        · split
          · exact sound
          · split
            next bad => exact sound_of_mem (badCheck_mem bad) sound
            next =>
              extract_lets old u
              split <;> simp [u, sound]

@[simp] theorem State.setAD_sound (w : Who) (d : Bool) (l : List Nat) {s : State} (sound : s.Sound) :
    (s.setAD w d l).Sound := by
  induction l generalizing s with
  | nil => exact sound
  | cons pa l ih =>
    rw [State.setAD]
    refine ih ?_
    split <;> simp [sound]

@[simp] theorem State.enterTlb_mem (s : State) (n : TlbEnt) : (s.enterTlb n).mem = s.mem := by
  simp [State.enterTlb]

@[simp] theorem sound_noPage {s : State} (sound : s.Sound) (w : Who) (va : Word) (n : Need)
    (invalid : Bool) : (s.noPage w va n invalid).Sound := by
  unfold State.noPage
  split <;> exact sound

theorem sound_scalarTr {s : State} (sound : s.Sound) (w : Who) (va : Word) (n : Need) :
    (s.scalarTr w va n).Sound := by
  unfold State.scalarTr
  extract_lets hit
  clear_value hit
  split
  · exact sound
  · rename_i t _ _ _
    have ht : t.Sound := by
      simp only [t]
      split
      · simp [sound]
      · exact sound
    clear_value t
    split
    extract_lets u
    split
    · exact ht
    · have hu : u.Sound := by simp [u, ht]
      clear_value u
      split
      · exact sound_noPage hu ..
      · exact sound_noPage hu ..
      · simp [hu]
      · split
        · exact sound_noPage hu ..
        · split
          · simp [hu]
          · extract_lets d pas
            split
            · simp [hu]
            · split
              · exact hu
              · simp +zetaDelta [hu]

theorem sound_translate {s : State} (sound : s.Sound) (w : Who) (va : Word) (n : Need) :
    (s.translate w va n).Sound := by
  unfold State.translate
  split
  · split
    · simp [sound]
    · exact sound
  · exact sound_scalarTr sound w va n

@[simp] theorem State.saveWrite_sound {s : State} (sound : s.Sound) (c : Nat) (va v : Word) (log : optParam Bool true) :
    (s.saveWrite c va v log).Sound := by
  unfold State.saveWrite
  split <;> simp [sound]

@[simp] theorem State.winWake_sound {s : State} (sound : s.Sound) (w : Win) : (s.winWake w).Sound := by
  unfold State.winWake
  split <;> simp [sound]

@[simp] theorem State.vtabWrite_mem (s : State) (cl idx : Nat) (v : Word) : (s.vtabWrite cl idx v).mem = s.mem := by rfl

@[simp] theorem State.winWrite_sound {s : State} (sound : s.Sound) (l : Level) (w : Win) (v : Word) :
    (s.winWrite l w v).Sound := by
  simp only [State.winWrite]
  split
  · simp [sound]
  · simp [sound]
  · simp [sound]
  · split <;> simp [sound]

@[simp] theorem State.reportPost_mem (s : State) (p : Posted) (e : Exc) : (s.reportPost p e).mem = s.mem := by
  simp [State.reportPost]

theorem sound_winPut {s : State} (sound : s.Sound) (part core : Nat) (lv : Level) (w : Win) (v : Word) :
    ExceptAll (fun p => p.2.Sound) (fun t => t.Sound) (s.winPut part core lv w v) := by
  unfold State.winPut
  split <;> simp [sound]

@[simp] theorem State.readBack_mem (s : State) (p : Posted) (v : Word) (e : Option Exc) :
    (s.readBack p v e).mem = s.mem := by
  simp only [State.readBack]
  split
  · split
    · simp
    · rfl
  · split <;> rfl

@[simp] theorem State.applyWaiting_sound {s : State} (sound : s.Sound) (p : Posted) : (s.applyWaiting p).Sound := by
  unfold State.applyWaiting
  split
  · split <;> simp [sound]
  · have put := sound_winPut sound (s.partOf (p.from_ / 4)) (p.from_ / 4) p.level p.win p.data
    split <;> simp_all

@[simp] theorem State.failWaiting_mem (s : State) (p : Posted) : (s.failWaiting p).mem = s.mem := by
  simp [State.failWaiting]

@[simp] theorem State.drainWaiting_sound (l : List Posted) {s : State} (sound : s.Sound) (back : List Nat) :
    (s.drainWaiting l back).Sound := by
  induction l generalizing s back with
  | nil => exact sound
  | cons p l ih =>
    rw [State.drainWaiting]
    split
    · exact ih (by exact sound) back
    · split <;> simp [ih, sound]

@[simp] theorem State.drainBuf_sound {s : State} (sound : s.Sound) : s.drainBuf.Sound := by
  simp [State.drainBuf, sound]

@[simp] theorem State.useBank_mem (s : State) (c : Nat) (w : Win) : (s.useBank c w).mem = s.mem := by
  unfold State.useBank
  split <;> simp

@[simp] theorem badChip_mem {s : State} {w : Who} {key pa : Nat} {va : Word} {p : Exc × State}
    (h : s.badChip w key pa va = some p) : p.2.mem = s.mem := by
  unfold State.badChip at h
  split at h
  · simp [← Option.some.inj h]
  · exact badCheck_mem h

theorem sound_winLoad {s : State} (sound : s.Sound) (w : Who) (win : Win) (pa : Nat) (va : Word) :
    (s.winLoad w win pa va).Sound := by
  unfold State.winLoad
  split
  · split
    next bad => exact sound_of_mem (badChip_mem bad) sound
    next => simp [sound]
  · split <;> simp [sound]

theorem sound_winAccess {s : State} (sound : s.Sound) (w : Who) (win : Win) (pa : Nat) (va : Word)
    (op : MemOp) : (s.winAccess w win pa va op).Sound := by
  unfold State.winAccess
  split
  · exact sound
  · split
    · simp [sound]
    · split
      · split
        · split
          · exact sound_winLoad sound ..
          · exact sound
        · split
          · exact sound_winLoad sound ..
          · exact sound
        · exact sound
      next v =>
        extract_lets p
        split
        · simp [sound]
        · split
          · have put := sound_winPut (s := s.useBank w.c win) (by simp [sound]) w.part (w.core % 512) w.level win
            split
            next e => have := e ▸ put v; exact State.drainBuf_sound this
            next e => have := e ▸ put v; exact this
          · split <;> exact sound
          · exact sound
      · exact sound

theorem sound_domainAccess {s : State} (sound : s.Sound) (w : Who) (slot pa : Nat) (va : Word)
    (op : MemOp) (keeps : Bool) :
    (s.domainAccess w slot pa va op keeps).Sound := by
  simp only [State.domainAccess]
  split
  · simp_all
  · split
    · simp_all
    · simp_all
    · split
      · simp_all
      · split <;> simp_all

theorem sound_place {s : State} (sound : s.Sound) (w : Who) (t : Tr) (va : Word) (op : MemOp)
    (keeps : Bool) : (s.place w t va op keeps).Sound := by
  unfold State.place
  split
  · split
    · exact sound_winAccess sound ..
    · exact sound
  · split
    · exact sound
    · split
      · split
        · exact sound
        · split
          · exact sound
          · split
            · exact sound
            · split <;> simp [sound]
          · simp [sound]
          · exact sound
      · split
        · split
          · exact sound_memAccess sound ..
          · exact sound
        · exact sound_domainAccess sound ..
      · exact sound
      · exact sound_memAccess sound ..

theorem sound_access {s : State} (sound : s.Sound) (va : Word) (op : MemOp) (keeps : Bool) :
    (s.access va op keeps).Sound := by
  unfold State.access
  split
  · exact sound
  · split
    · exact sound
    · have tr := sound_translate sound (s.who s.cur) va op.need
      split
      next e => rw [e] at tr; exact tr
      next e => rw [e] at tr; exact tr
      next e => rw [e] at tr; exact tr
      next e => rw [e] at tr; exact sound_place tr ..

@[simp] theorem State.deliver_sound {s : State} (sound : s.Sound) (va : Word) : (s.deliver va).Sound := by
  simp only [State.deliver]
  split <;> simp [sound]

theorem soundAfter_other {s : State} (sound : s.Sound) {a : Ans} (ha : a.Sound) : SoundAfter (a.other s) := by
  cases a <;> simp_all [Ans.other]

@[simp] theorem State.takeI_mem (s : State) (w : Who) (t : Tr) (va : Word) : (s.takeI w t va).mem = s.mem := by
  unfold State.takeI
  split <;> simp

@[simp] theorem State.takeF_mem (s : State) (c : Nat) (w : Who) (t : Tr) (va : Word) :
    (s.takeF c w t va).mem = s.mem := by
  unfold State.takeF
  split <;> simp

@[simp] theorem State.takeB_mem (s : State) (cl : Nat) (w : Who) (t : Tr) (va : Word) :
    (s.takeB cl w t va).mem = s.mem := by
  unfold State.takeB
  split <;> simp

@[simp] theorem fetch_sound {s : State} (sound : s.Sound) (c : Nat) (pc : Word) : (s.fetch c pc).2.Sound := by
  have tr := fun w => sound_translate sound w pc .x
  simp only [State.fetch]
  split
  · exact sound
  · split
    · exact sound
    · split
      next e => have := e ▸ tr _; exact this
      next e => have := e ▸ tr _; exact this
      next e => have := e ▸ tr _; exact this
      next t u e =>
        have canonical : u.Sound := by have := e ▸ tr _; exact this
        split
        · exact canonical
        · split
          · exact canonical
          · have acc := fun w => sound_memAccess canonical w { t with pa := t.pa / 4 * 4 } pc (.load 4)
            split
            next e => have := e ▸ acc _; simpa using this
            next e => have := e ▸ acc _; exact this
            next e => have := e ▸ acc _; exact this
            next => exact canonical

end Sys2Proof.Machine
end

section
/-!
PROOFS. What words, trips, element accesses and engines do to storage (R230, R255-R283, R391-R395).
-/

namespace Sys2Proof.Machine

/-! ### Words of a block under their guard (R230) -/

@[simp] theorem State.setBlk_mem (s : State) (b : Blk) : (s.setBlk b).mem = s.mem := by rfl

@[simp] theorem State.noteHold_mem (s : State) : s.noteHold.mem = s.mem := by
  unfold State.noteHold
  split <;> simp

@[simp] theorem State.noteStall_mem (s : State) : s.noteStall.mem = s.mem := by
  unfold State.noteStall
  split <;> simp

theorem soundAfter_word {s : State} (sound : s.Sound) (h : WHdr) {f : Blk → WRes} (words : ∀ b, (f b).Sound) :
    SoundAfter (s.word h f) := by
  unfold State.word
  split
  · trivial
  next b _ =>
    have word := words b
    split
    · exact sound
    · split
      · split <;> simp_all
      · exact sound

/-- A word that always goes on. -/
theorem soundAfter_word_go {s : State} (sound : s.Sound) (h : WHdr) (g : Blk → Blk) :
    SoundAfter (s.word h fun b => .go (g b) s) := soundAfter_word sound h fun _ => sound

theorem soundAfter_wordF2 {s : State} (sound : s.Sound) (h : WHdr) (wd wa wb : RegNo)
    (f : Blk → Word → Word → Word × BitVec 7) : SoundAfter (s.wordF2 h wd wa wb f) := by
  refine soundAfter_word sound h fun b => ?_
  split
  · exact sound
  · split <;> exact sound

theorem soundAfter_wordF1 {s : State} (sound : s.Sound) (h : WHdr) (wd wa : RegNo)
    (f : Blk → Word → Word × BitVec 7) : SoundAfter (s.wordF1 h wd wa f) := by
  refine soundAfter_word sound h fun b => ?_
  split <;> exact sound

theorem soundAfter_wordCmp {s : State} (sound : s.Sound) (h : WHdr) (bank : BitVec 2)
    (pd wa wb : RegNo) (f : Word → Word → Bool × BitVec 7) :
    SoundAfter (s.wordCmp h bank pd wa wb f) := by
  refine soundAfter_word sound h fun b => ?_
  split
  · exact sound
  · split <;> exact sound

theorem soundAfter_wordPred {s : State} (sound : s.Sound) (h : WHdr) (bank : BitVec 2) (pd : RegNo)
    (f : Blk → Bool) : SoundAfter (s.wordPred h bank pd f) := soundAfter_word_go sound h _

@[simp] theorem State.queueTrip_mem (s : State) (c n : Nat) : (s.queueTrip c n).mem = s.mem := by rfl

theorem soundAfter_askTrip {s : State} (sound : s.Sound) (h : WHdr) (rs : List RegNo) :
    SoundAfter (s.askTrip h rs) := by
  unfold State.askTrip
  split
  · trivial
  · dsimp only
    split
    · exact sound
    · split <;> simp [sound]

theorem soundAfter_unitWord {s : State} (sound : s.Sound) (bit : Nat) (h : WHdr) (rs : List RegNo)
    {o : Res'} (native : SoundAfter o) : SoundAfter (s.unitWord bit h rs o) := by
  simp [State.unitWord, soundAfter_askTrip sound, native]

@[simp] theorem putBits_sound {s : State} (sound : s.Sound) (key bit w v : Nat) : (putBits s key bit w v).Sound := wf_putBytes _ _ sound

/-! ### Emulation records and trips (R391-R395) -/

@[simp] theorem State.trip_sound {s : State} (sound : s.Sound) (c kind : Nat) (word : IWord) (rec : List Word) :
    (s.trip c kind word rec).Sound := by
  simp [State.trip, sound]

@[simp] theorem State.leaveTripQ_mem (s : State) (c : Nat) (f : Nat → Bool) :
    (s.leaveTripQ c f).mem = s.mem := by rfl

@[simp] theorem soundAfter_tripHere {s : State} (sound : s.Sound) (kind : Nat) (word : IWord) (rec : List Word) :
    SoundAfter (s.tripHere kind word rec) := by
  simp [State.tripHere, sound]

@[simp] theorem soundAfter_emulate {s : State} (sound : s.Sound) (i : Instr) (a b : Word) :
    SoundAfter (s.emulate i a b) := by
  simp [State.emulate, sound]

@[simp] theorem soundAfter_unitC {s : State} (sound : s.Sound) (b : Nat) (i : Instr) (x y : Word) {o : Res'}
    (h : SoundAfter o) : SoundAfter (s.unitC b i x y o) := by
  simp [State.unitC, h, soundAfter_emulate sound]

@[simp] theorem vldbRead_sound {s : State} (sound : s.Sound) (c : Nat) (va : Word) : (s.vldbRead c va).2.Sound := by
  have acc := fun w t => sound_place sound w t va (.load 8) true
  simp only [State.vldbRead]
  split
  · exact sound
  · split
    · exact sound
    · split
      · exact sound
      · split
        · exact sound
        · split
          next e => have := e ▸ acc _ _; exact this
          next e => have := e ▸ acc _ _; exact this
          next e => have := e ▸ acc _ _; simpa using this
          next e => have := e ▸ acc _ _; exact this
          next => exact sound

@[simp] theorem State.vldbResult_sound {s : State} (sound : s.Sound) (c : Nat) (r : Except Exc Word) :
    (s.vldbResult c r).Sound := by
  unfold State.vldbResult
  split
  · simp [sound]
  · refine foldl_sound (fun t k canonical => ?_) _ sound
    simp [canonical]

@[simp] theorem State.serve_sound {s : State} (sound : s.Sound) (core : Nat) : (s.serve core).Sound := by
  have write : ∀ (s : State) k k' v v', s.Sound → (putChip (putChip s k v) k' v').Sound :=
    fun s _ _ _ _ canonical => putChip_sound (putChip_sound canonical _ _) _ _
  simp only [State.serve]
  split
  · exact sound
  · split
    · split
      · exact write _ _ _ _ _ sound
      · exact sound
    · split
      · exact foldl_sound (fun s _ canonical => write s _ _ _ _ canonical) _ sound
      · exact sound
    next c _ _ _ _ =>
      have read := vldbRead_sound sound c (s.emuWord core 0x28)
      split
      · exact sound
      · split
        next e => rw [e] at read; exact State.vldbResult_sound read _ _
        next e => rw [e] at read; exact State.vldbResult_sound read _ _
        next e => rw [e] at read; exact read

@[simp] theorem State.applyEntry_mem (s : State) (c : Nat) (rd : RegNo) (word core k : Nat) :
    (s.applyEntry c rd word core k).mem = s.mem := by
  simp only [State.applyEntry]
  split
  · rfl
  · simp

@[simp] theorem State.endTrip_sound {s : State} (sound : s.Sound) (c kind : Nat) (w : IWord) : (s.endTrip c kind w).Sound := by
  simp only [State.endTrip]
  split
  · split
    · refine foldl_sound (fun t k canonical => ?_) _ (by simp [sound])
      split
      · exact canonical
      · split <;> simp [canonical]
    · simp [sound]
  · split
    · simp [sound]
    · split
      · simp [sound]
      · simp only [State.sound_iff, State.setCtx_mem]
        refine foldl_sound (fun t k canonical => ?_) _ (by simp [sound])
        simp [canonical]

/-! ### Loads and stores -/

@[simp] theorem soundAfter_load {s : State} (sound : s.Sound) (n : Nat) (signed : Bool) (rd : RegNo) (va : Word) :
    SoundAfter (s.load n signed rd va) := by
  have acc := sound_access sound va (.load n) true
  unfold State.load
  split
  next e => rw [e] at acc; simpa using acc
  next e => rw [e] at acc; simpa using acc
  next => exact soundAfter_other sound acc

@[simp] theorem soundAfter_store {s : State} (sound : s.Sound) (n : Nat) (va v : Word) :
    SoundAfter (s.store n va v) := by
  have acc := sound_access sound va (.store n v) true
  unfold State.store
  split
  next e => rw [e] at acc; simpa using acc
  next => exact soundAfter_other sound acc

/-! ### Atomics -/

@[simp] theorem soundAfter_atomic {s : State} (sound : s.Sound) (op : Nat) (d : BitVec 1) (rd ra rb : RegNo) :
    SoundAfter (s.atomic op d rd ra rb) := by
  have acc := sound_access sound (s.rx ra) (.amo (if d = 1 then 8 else 4) op (s.rx rb) (s.rx rd)) (rd != 0)
  unfold State.atomic
  extract_lets n
  split
  next e => rw [e] at acc; simpa using acc
  next e => rw [e] at acc; simpa using acc
  next => exact soundAfter_other sound acc

/-! ### Branches and calls -/

@[simp] theorem soundAfter_callTo (s : State) (rd : RegNo) (sig e : Word) :
    SoundAfter (s.callTo rd sig e) ↔ Memory.wf s.mem = true := by
  simp [State.callTo]

@[simp] theorem soundAfter_callWait (s : State) (rd : RegNo) (i sig : Word) (entry : Bool) (w : Why) :
    SoundAfter (s.callWait rd i sig entry w) ↔ Memory.wf s.mem = true := .rfl

@[simp] theorem soundAfter_callEntry {s : State} (sound : s.Sound) (rd : RegNo) (i sig count : Word) :
    SoundAfter (s.callEntry rd i sig count) := by
  have acc := sound_access sound (s.me.fnbase + 8 + (i <<< 3)) (.load 8) true
  unfold State.callEntry
  split
  · simp [sound]
  · split
    next e => rw [e] at acc; simpa using acc
    next e => rw [e] at acc; simpa using acc
    next => exact soundAfter_other sound acc

@[simp] theorem soundAfter_loaded {s : State} (sound : s.Sound) (v : Word) : SoundAfter (s.loaded v) := by
  simp only [State.loaded]
  split
  · exact sound
  · exact sound
  · simp [sound]
  · simp [sound]

/-! ### Status register accesses -/

@[simp] theorem soundAfter_csrGuard {s : State} (sound : s.Sound) (i : Instr) (idx : BitVec 12) {o : Res'}
    (h : SoundAfter o) : SoundAfter (s.csrGuard i idx o) := by
  unfold State.csrGuard
  split
  · simp [sound]
  · exact h

@[simp] theorem State.csrPut_sound {s : State} (sound : s.Sound) (idx : Nat) (v : Word) : (s.csrPut idx v).Sound := by
  unfold State.csrPut
  split
  · simp [sound]
  · exact State.drainBuf_sound (by simp [sound])

/-! ### Class 3 -/

@[simp] theorem soundAfter_class3 {s : State} (sound : s.Sound) (i : Instr) (k : Nat) (rd ra rb : RegNo) :
    SoundAfter (s.class3 i k rd ra rb) :=
  soundAfter_unitC sound _ _ _ _ (by simp [sound])

/-! ### Blocks -/

@[simp] theorem State.blockFill_mem (s : State) (c : Nat) (va : Word) (n held : Nat) :
    (s.blockFill c va n held).mem = s.mem := by
  refine foldl_mem (fun t k => ?_) _ s
  split <;> simp

/-! ### Grants of lanes -/

@[simp] theorem State.placeMts_sound {s : State} (sound : s.Sound) (c : Nat) : (s.placeMts c).Sound :=
  State.syncSpill_sound (by simp [sound]) _

@[simp] theorem State.respread_mem (s : State) (c : Nat) : (s.respread c).mem = s.mem := by
  simp [State.respread]

@[simp] theorem State.returnLanes_mem (s : State) (c : Nat) : (s.returnLanes c).mem = s.mem := by rfl

@[simp] theorem State.discard_mem (s : State) (c n : Nat) : (s.discard c n).mem = s.mem := by rfl

@[simp] theorem State.setVl_sound {s : State} (sound : s.Sound) (c n : Nat) : (s.setVl c n).Sound := by
  simp only [State.setVl]
  refine State.placeMts_sound (sound_of_mem (foldl_mem (fun _ _ => ?_) _ _) ?_) _
  · simp
  · simp [sound]

@[simp] theorem State.saveRecords_sound {s : State} (sound : s.Sound) (c : Nat) : (s.saveRecords c).Sound :=
  foldl_sound (fun _ _ canonical =>
    foldl_sound (fun _ _ canonical => State.saveWrite_sound canonical _ _ _ _) _ canonical) _ sound

@[simp] theorem State.restoreRecords_sound {s : State} (sound : s.Sound) (c : Nat) : (s.restoreRecords c).Sound := by
  simp only [State.restoreRecords]
  refine State.placeMts_sound ?_ _
  rw [State.Sound, State.setCtx_mem, foldl_mem (fun _ _ => State.setMt_mem ..)]
  exact sound

@[simp] theorem State.dropGrant_mem (s : State) (c : Nat) : (s.dropGrant c).mem = s.mem := by rfl

@[simp] theorem State.settle_sound {s : State} (sound : s.Sound) (c : Nat) : (s.settle c).Sound := by
  unfold State.settle
  split
  · exact State.setVl_sound (State.restoreRecords_sound sound _) _ _
  · exact State.setVl_sound sound _ _

/-! ### Broadcasts and items -/

@[simp] theorem soundAfter_broadcast (s : State) (va : Word) (count : Nat) :
    SoundAfter (s.broadcast va count) ↔ Memory.wf s.mem = true := by
  unfold State.broadcast
  split <;> simp

@[simp] theorem soundAfter_single (s : State) (j : Instr) (ra : RegNo) {f : Nat → Mt → Res'}
    (h : ∀ i m, SoundAfter (f i m) ↔ Memory.wf s.mem = true) : SoundAfter (s.single j ra f) ↔ Memory.wf s.mem = true := by
  simp [State.single, h]

/-! ### Class 17 -/

theorem sound_portAccess {s : State} (sound : s.Sound) (w : Who) (va : Word) (op : MemOp) :
    (s.portAccess w va op).Sound := by
  unfold State.portAccess
  split
  · exact sound
  · split
    · exact sound
    · split
      · exact sound
      · split
        · exact sound
        · split
          · exact sound
          · exact sound_place sound ..

@[simp] theorem State.putW_sound {s : State} (sound : s.Sound) (c i : Nat) (r : RegNo) (v : Word) :
    (s.putW c i r v).Sound := by
  simp [State.putW, sound]

@[simp] theorem State.keepElem_mem (s : State) (c k : Nat) (a b : Word) :
    (s.keepElem c k a b).mem = s.mem := by rfl

@[simp] theorem State.takeLoads_sound {s : State} (sound : s.Sound) (c n : Nat) (i : Instr) : (s.takeLoads c n i).Sound := by
  unfold State.takeLoads
  split
  case h_4 => exact sound
  all_goals exact foldl_sound (fun _ _ canonical => State.putW_sound canonical _ _ _ _) _ sound

theorem sound_storeElem {s : State} (sound : s.Sound) (c k : Nat) (va : Word) (w : Nat) (wd : RegNo) :
    (s.storeElem c k va w wd).Sound := sound_portAccess sound ..

theorem sound_streamPut {s : State} (sound : s.Sound) (c k : Nat) (ra rb a b : Word) :
    (s.streamPut c k ra rb a b).Sound := by
  unfold State.streamPut
  extract_lets g f6 fd r
  have acc := sound_portAccess sound (s.portWho c) (g.g 0 + BitVec.ofNat 64 k * g.g 1)
    (.store (fmtBits fd / 8) (BitVec.ofNat 64 r.1))
  split
  next e => rw [e] at acc; exact acc
  next => exact acc

theorem sound_streamSrc {s : State} (sound : s.Sound) (c k : Nat) (b : Bool) :
    (s.streamSrc c k b).Sound := by
  unfold State.streamSrc
  extract_lets g
  split <;> exact sound_portAccess sound ..

theorem sound_streamRead {s : State} (sound : s.Sound) (c k : Nat) (two : Bool) :
    (s.streamRead c k two).Sound := by
  have one := sound_streamSrc sound c k false
  have other : ∀ {t : State}, t.Sound → (t.streamSrc c k true).Sound := fun ht => sound_streamSrc ht c k true
  unfold State.streamRead
  split
  next e => rw [e] at one; exact one
  next e =>
    rw [e] at one
    have two := other one
    split <;> simp_all
  next e => rw [e] at one; exact one
  next e =>
    rw [e] at one
    have two := other one
    split <;> simp_all
  next e => rw [e] at one; exact one
  next e => rw [e] at one; exact one
  next => exact sound

theorem sound_drainElem {s : State} (sound : s.Sound) (c k : Nat) (ra : Word) :
    (s.drainElem c k ra).Sound := by
  unfold State.drainElem
  extract_lets x g side f bank i j m v r
  have acc := sound_portAccess sound (s.portWho c) (ra + BitVec.ofNat 64 i * g.g 2 + BitVec.ofNat 64 (j * drainSize f))
    (.store (drainSize f) (BitVec.ofNat 64 r.1))
  split
  next e => rw [e] at acc; exact acc
  next => exact acc

theorem sound_readElem {s : State} (sound : s.Sound) (c : Nat) (i : Instr) (ra rb : Word) (k : Nat) :
    (s.readElem c i ra rb k).Sound := by
  have acc : ∀ va op, (s.portAccess (s.elemWho c k) va op).Sound := sound_portAccess sound _
  unfold State.readElem
  extract_lets load
  have loads : ∀ mode wi u w, (load mode wi u w).Sound := fun mode wi u w => by
    have one := acc (s.elemAddr c mode (2 ^ w.toNat) ra rb wi k) (.load (2 ^ w.toNat))
    simp only [load]
    split <;> simp_all
  split
  · exact loads ..
  · exact loads ..
  · exact loads ..
  · exact sound_streamRead sound ..
  · exact sound

theorem sound_writeElem {s : State} (sound : s.Sound) (c : Nat) (i : Instr) (ra rb : Word) (k : Nat)
    (a b : Word) : (s.writeElem c i ra rb k a b).Sound := by
  unfold State.writeElem
  split
  · exact sound_storeElem sound ..
  · exact sound_storeElem sound ..
  · exact sound_storeElem sound ..
  · exact sound_streamPut sound ..
  · exact sound_drainElem sound ..
  · exact sound

@[simp] theorem soundAfter_issueElems {s : State} (sound : s.Sound) (i : Instr) (ra rb : Word) (first n : Nat) :
    SoundAfter (s.issueElems i ra rb first n) := by
  simp only [State.issueElems]
  split <;> exact sound

@[simp] theorem soundAfter_vector {s : State} (sound : s.Sound) (i : Instr) (ra rb : Word) :
    SoundAfter (s.vector i ra rb) := by
  simp [State.vector, sound]

@[simp] theorem State.setElems_mem (s : State) (c : Nat) (w : Why) : (s.setElems c w).mem = s.mem := by rfl

@[simp] theorem State.failElem_mem (s : State) (c : Nat) (i : Instr) (ra rb : Word) (left sent : List Nat)
    (k : Nat) (e : Exc) :
    (s.failElem c i ra rb left sent k e).mem = s.mem := by rfl

@[simp] theorem State.putElem_sound {s : State} (sound : s.Sound) (c : Nat) (i : Instr) (ra rb : Word) (left sent : List Nat)
    (stop : Option (Nat × Exc)) (k : Nat) (a b : Word) : (s.putElem c i ra rb left sent stop k a b).Sound := by
  have wrote := sound_writeElem sound c i ra rb k a b
  simp only [State.putElem]
  split
  · simp [sound]
  · split
    · exact sound
    · split
      · simp [sound]
      · split
        next e => rw [e] at wrote; simpa using wrote
        next e => rw [e] at wrote; simpa using wrote
        next e => rw [e] at wrote; exact wrote
        next => exact sound

@[simp] theorem State.performElem_sound {s : State} (sound : s.Sound) (c : Nat) (i : Instr) (ra rb : Word) (left sent : List Nat)
    (stop : Option (Nat × Exc)) (k : Nat) (rd wr : Bool) :
    (s.performElem c i ra rb left sent stop k rd wr).Sound := by
  have read := sound_readElem sound c i ra rb k
  simp only [State.performElem]
  split
  · split
    · exact State.putElem_sound sound ..
    · exact sound
  · split
    · exact sound
    · split
      next e =>
        rw [e] at read
        split
        · exact State.putElem_sound (by simpa using read) ..
        · simpa using read
      next e => rw [e] at read; simpa using read
      next e => rw [e] at read; simpa using read
      next e => rw [e] at read; exact read

@[simp] theorem State.perform_sound (c : Nat) (op : Option Nat) (l : List Nat) {s : State} (sound : s.Sound) :
    (s.perform c op l).Sound := by
  induction l generalizing s with
  | nil => exact sound
  | cons k l ih =>
    simp only [State.perform]
    split
    · simp [ih, sound]
    · exact sound

@[simp] theorem State.servePacket_sound {s : State} (sound : s.Sound) (c o : Nat) (p : VPacket) (l : List (Nat × Nat)) :
    (s.servePacket c o p l).Sound := by
  simp [State.servePacket, sound]

@[simp] theorem State.endElems_sound {s : State} (sound : s.Sound) (c : Nat) (i : Instr) (stop : Option (Nat × Exc)) :
    (s.endElems c i stop).Sound := by
  simp only [State.endElems]
  split
  · simp [sound]
  · split
    · exact sound
    · simp [sound]

@[simp] theorem State.stopElems_sound {s : State} (sound : s.Sound) (c : Nat) : (s.stopElems c).Sound := by
  simp only [State.stopElems]
  split
  · exact sound
  · simp [sound]
  · exact sound

/-! ### Engines -/

@[simp] theorem soundAfter_badOperand (s : State) (i : Instr) : SoundAfter (s.badOperand i) ↔ Memory.wf s.mem = true := by
  simp [State.badOperand]

theorem sound_readCard (ra : Word) (n : Nat) {s : State} (sound : s.Sound) (ws : List Word) :
    (s.readCard ra n ws).Sound := by
  induction n generalizing s ws with
  | zero => exact sound
  | succ n ih =>
    have acc := sound_access sound (ra + BitVec.ofNat 64 (8 * ws.length)) (.load 8) true
    rw [State.readCard]
    split
    next e => rw [e] at acc; exact ih acc _
    next e => rw [e] at acc; simpa using acc
    next e => rw [e] at acc; exact soundAfter_other sound acc
    next => exact soundAfter_other sound acc

@[simp] theorem soundAfter_submitCard {s : State} (sound : s.Sound) (rd : RegNo) (glean : Bool) (w : List Word) (count : Nat)
    (done : Word) (reads writes : List (Nat × Nat)) :
    SoundAfter (s.submitCard rd glean w count done reads writes) := sound

@[simp] theorem soundAfter_copyCard {s : State} (sound : s.Sound) (i : Instr) (rd : RegNo) (done : Word) (w : List Word) :
    SoundAfter (s.copyCard i rd done w) := by
  simp [State.copyCard, sound]

@[simp] theorem State.releaseSlots_sound {s : State} (sound : s.Sound) (c : Nat) (l : List Nat) :
    (s.releaseSlots c l).Sound :=
  foldl_sound (fun _ _ canonical => clearRange_sound (clearRange_sound canonical _ _) _ _) _ sound

@[simp] theorem soundAfter_submitLoom (s : State) (kind : BitVec 3) (ra rb : Word) :
    SoundAfter (s.submitLoom kind ra rb) ↔ Memory.wf s.mem = true := by
  simp [State.submitLoom]

/-! ### Synchronisation -/

@[simp] theorem soundAfter_arrive {s : State} (sound : s.Sound) (kind : Nat) (scope : Word) (comb : Nat) (v : Word) :
    SoundAfter (s.arrive kind scope comb v) := sound

@[simp] theorem soundAfter_waitOn (s : State) (key : Nat) (v expected va : Word) :
    SoundAfter (s.waitOn key v expected va) ↔ Memory.wf s.mem = true := by
  simp [State.waitOn]

@[simp] theorem soundAfter_arrived {s : State} (sound : s.Sound) (v : Word) : SoundAfter (s.arrived v) := by
  unfold State.arrived
  split <;> simp [sound]

@[simp] theorem State.wakeAll_mem (s : State) (key : Nat) : (s.wakeAll key).mem = s.mem := by
  simp [State.wakeAll]

/-! ### Memory words of a block -/

@[simp] theorem noteLoad_mem (s : State) (b : Blk) (key : Nat) (bs : List Byte) :
    (s.noteLoad b key bs).2.mem = s.mem := by
  simp [State.noteLoad]

theorem sound_laneLoad {s : State} (sound : s.Sound) (b : Blk) (t : Tr) (va : Word) (n : Nat)
    (signed : Bool) (wd : RegNo) : (s.laneLoad b t va n signed wd).Sound := by
  simp only [State.laneLoad]
  split
  · simp [sound]
  · split
    next bad =>
      split at bad
      · exact nomatch bad
      · exact sound_of_mem (badCheck_mem bad) sound
    next => simp [sound]

theorem soundAfter_wordLoad {s : State} (sound : s.Sound) (h : WHdr) (wd wa wb : RegNo)
    (wid : BitVec 2) (signed : Bool) : SoundAfter (s.wordLoad h wd wa wb wid signed) := by
  refine soundAfter_word sound h fun b => ?_
  split
  · exact sound
  · split
    · exact sound
    · split
      · exact sound
      · exact sound_laneLoad sound ..
      · split <;> simp [sound]

theorem soundAfter_wordAtomic {s : State} (sound : s.Sound) (h : WHdr) (wd wa wb : RegNo)
    (kind : Nat) : SoundAfter (s.wordAtomic h wd wa wb kind) := by
  refine soundAfter_word sound h fun b => ?_
  split
  · exact sound
  · split
    · exact sound
    · split
      · exact sound
      · split <;> exact sound

@[simp] theorem spFault_mem (s : State) (c key a : Nat) : (s.spFault c key a).2.mem = s.mem := by
  simp [State.spFault]

end Sys2Proof.Machine
end

section
/-!
PROOFS. What gangs, crews, pools, jobs, the hub, the host, links and memory events do to storage.
-/

namespace Sys2Proof.Machine

/-! ### Gangs and contexts -/

@[simp] theorem State.laneRecord_mem (s : State) (code part cl lane core detail : Nat) :
    (s.laneRecord code part cl lane core detail).mem = s.mem := by rfl

theorem sound_putWord {s : State} (sound : s.Sound) (core c part : Nat) (t : Option Tr) (va v : Word)
    (level : Level) : (s.putWord core c part t va v level).Sound := by
  unfold State.putWord
  split
  · exact sound
  · split
    · exact sound
    · exact sound_place sound ..

@[simp] theorem State.tryLate_sound {s : State} (sound : s.Sound) (w : LateWord) : (s.tryLate w).Sound := by
  have put := sound_putWord sound w.core w.ctx w.part (some { pa := w.pa, skew := w.skew, attr := w.attr, hcl := w.hcl })
    w.va w.data .app
  unfold State.tryLate
  split
  next e => rw [e] at put; exact put
  next e => rw [e] at put; simpa using put
  next e => rw [e] at put; exact put
  next => exact sound

@[simp] theorem State.drainLate_sound {s : State} (sound : s.Sound) : s.drainLate.Sound :=
  foldl_sound (fun _ _ canonical => State.tryLate_sound canonical _) _ sound

@[simp] theorem State.completion_sound {s : State} (sound : s.Sound) (r : Nat) (v : Word) : (s.completion r v).Sound := by
  simp only [State.completion]
  split
  · exact sound
  · simp [sound]

@[simp] theorem State.sleepBanks_mem (s : State) (c : Nat) (banks : BitVec 8) :
    (s.sleepBanks c banks).mem = s.mem := by rfl

@[simp] theorem State.powerDown_mem (s : State) (c : Nat) : (s.powerDown c).mem = s.mem := by rfl

@[simp] theorem State.endContext_sound {s : State} (sound : s.Sound) (c : Nat) : (s.endContext c).Sound := by
  have released := State.releaseSlots_sound sound c (s.ctx c).claimed
  exact State.drainBuf_sound (by simpa using released)

@[simp] theorem State.idleRec_mem (s : State) (r : Nat) : (s.idleRec r).mem = s.mem := by rfl

@[simp] theorem State.lowerLines_mem (s : State) (r : Nat) : (s.lowerLines r).mem = s.mem :=
  foldl_mem (fun _ _ => by simp) _ s

@[simp] theorem State.carryOut_sound {s : State} (sound : s.Sound) (part key n pa : Nat) :
    (s.carryOut part key n pa).Sound := by
  simp only [State.carryOut]
  split
  · split
    · exact carry_sound (by simp [sound]) _ _ _
    · exact foldl_sound (fun _ _ canonical => carry_sound canonical _ _ _) _ (by simp [sound])
  · exact sound

@[simp] theorem State.carryParts_sound (part : Nat) (l : List (Nat × Nat)) {s : State} (sound : s.Sound) (pa : Nat) :
    (s.carryParts part l pa).Sound := by
  induction l generalizing s pa with
  | nil => exact sound
  | cons e l ih => exact ih (State.carryOut_sound sound _ _ _ _) _

@[simp] theorem State.putImage_sound {s : State} (sound : s.Sound) (part c pa : Nat) : (s.putImage part c pa).Sound :=
  State.carryParts_sound _ _ (State.physWriteFor_sound sound _ _ _) _

theorem carryBack_sound (l : List (Nat × Nat)) {s t : State} {pa : Nat} (sound : s.Sound) (h : s.carryBack l pa = some t) :
    t.Sound := by
  induction l generalizing s pa with
  | nil => exact Option.some.inj h ▸ sound
  | cons e l ih =>
    rw [State.carryBack] at h
    split at h
    · exact ih (carry_sound sound _ _ _) h
    · exact nomatch h

@[simp] theorem State.noteBad_mem (s : State) (part core pa n : Nat) :
    (s.noteBad part core pa n).mem = s.mem := by
  unfold State.noteBad
  split <;> simp

@[simp] theorem State.mirrorRecords_mem (s : State) (c : Nat) : (s.mirrorRecords c).mem = s.mem :=
  foldl_mem (fun _ _ => by simp) _ s

@[simp] theorem State.awakeBanks_mem (s : State) (c : Nat) : (s.awakeBanks c).mem = s.mem := by rfl

theorem loadImage_sound {s t : State} {r c pa : Nat} {rect stvec : Word} (sound : s.Sound)
    (h : s.loadImage r c pa rect stvec = some t) : t.Sound := by
  simp only [State.loadImage] at h
  split at h
  · exact nomatch h
  · split at h
    · exact nomatch h
    next back => simpa [← Option.some.inj h] using carryBack_sound _ (by simpa using sound) back

theorem restoreImage_sound {s t : State} {r c pa : Nat} {rect stvec : Word} (sound : s.Sound)
    (h : s.restoreImage r c pa rect stvec = some t) : t.Sound := by
  unfold State.restoreImage at h
  split at h
  · exact nomatch h
  next image =>
    have loaded := loadImage_sound sound image
    split at h
    · exact nomatch h
    · rw [← Option.some.inj h]
      split
      · simpa using loaded
      · exact loaded

@[simp] theorem State.noteRestore_mem (s : State) (r c pa : Nat) (rect stvec : Word) :
    (s.noteRestore r c pa rect stvec).mem = s.mem := by
  simp only [State.noteRestore]
  split
  · simp
  · split
    · simp
    · rfl

@[simp] theorem State.putSnapshot_sound {s : State} (sound : s.Sound) (part c pa : Nat) :
    (s.putSnapshot part c pa).Sound := by
  have image := State.putImage_sound (s := s.setCtx c { s.ctx c with seq := [], jobs := [], loomq := [] }) (by simpa using sound)
    part c pa
  refine State.carryParts_sound _ _ (foldl_sound (fun _ _ canonical => State.physWriteFor_sound canonical _ _ _) _ ?_) _
  simpa using image

@[simp] theorem State.takeSnapshot_sound {s : State} (sound : s.Sound) (r k c : Nat) : (s.takeSnapshot r k c).Sound := by
  have put := fun p pa => State.putSnapshot_sound sound p c pa
  simp only [State.takeSnapshot]
  split
  · exact put _ _
  · split <;> simpa using put _ _

@[simp] theorem State.snapshot_sound {s : State} (sound : s.Sound) (r : Nat) : (s.snapshot r).Sound := by
  simp only [State.snapshot]
  split
  · split
    · exact foldl_sound (fun _ _ canonical => State.takeSnapshot_sound canonical _ _ _) _ sound
    · simp [sound]
  · exact sound

@[simp] theorem State.release_mem (s : State) (c : Nat) : (s.release c).mem = s.mem := by
  unfold State.release
  split <;> simp

@[simp] theorem State.startCtx_mem (s : State) (r c : Nat) (rect stvec : Word) :
    (s.startCtx r c rect stvec).mem = s.mem := by rfl

@[simp] theorem State.refreshCore_mem (s : State) (core : Nat) : (s.refreshCore core).mem = s.mem := by rfl

@[simp] theorem State.fitClock_mem (s : State) (die : Nat) : (s.fitClock die).mem = s.mem := by
  simp [State.fitClock]

@[simp] theorem State.placeAt_sound {s : State} (sound : s.Sound) (r : Nat) (rect : Word) : (s.placeAt r rect).Sound := by
  simp only [State.placeAt]
  refine State.snapshot_sound (sound_of_mem (foldl_mem (fun t d => t.fitClock_mem d) _ _)
    (foldl_sound (fun t k canonical => ?_) _ (by simp [sound]))) _
  split
  · simp [canonical]
  · split
    · simp [canonical]
    · split
      next image => exact restoreImage_sound (by simpa using canonical) image
      next => simp [canonical]

@[simp] theorem State.markFor_mem (s : State) (r : Nat) : (s.markFor r).mem = s.mem := by
  simp only [State.markFor]
  split
  · rfl
  · exact foldl_mem (fun _ _ => by simp) _ s

@[simp] theorem State.releaseFor_mem (s : State) (r : Nat) : (s.releaseFor r).mem = s.mem := by
  unfold State.releaseFor
  split <;> simp

@[simp] theorem State.passOver_sound (l : List Nat) {s : State} (sound : s.Sound) (first : Bool) :
    (s.passOver l first).Sound := by
  induction l generalizing s first with
  | nil => exact sound
  | cons r l ih =>
    simp only [State.passOver]
    split
    · exact ih (State.placeAt_sound (by simp [sound]) _ _) _
    · split
      · simp [sound]
      · exact ih (by simp [sound]) _

@[simp] theorem State.pass_sound {s : State} (sound : s.Sound) : s.pass.Sound := State.passOver_sound _ sound _

@[simp] theorem State.finishGang_sound {s : State} (sound : s.Sound) (r : Nat) (v : Word) : (s.finishGang r v).Sound :=
  State.pass_sound (by simpa using State.completion_sound sound r v)

@[simp] theorem State.withdraw_sound {s : State} (sound : s.Sound) (r : Nat) : (s.withdraw r).Sound := by
  simp only [State.withdraw]
  split
  · exact State.finishGang_sound
      (foldl_sound (fun _ _ canonical => State.endContext_sound (by simpa using canonical) _) _ sound) _ _
  · exact State.finishGang_sound sound _ _

@[simp] theorem State.failContext_sound {s : State} (sound : s.Sound) (c : Nat) : (s.failContext c).Sound :=
  State.endContext_sound (by simp [sound]) _

theorem spillFails_sound {s t : State} {c : Nat} {l : List Nat} (sound : s.Sound) (h : s.spillFails c l = some t) :
    t.Sound := by
  unfold State.spillFails at h
  split at h
  · exact Option.some.inj h ▸ State.failContext_sound (by simp [sound]) _
  · exact nomatch h

@[simp] theorem State.saveGang_sound {s : State} (sound : s.Sound) (r : Nat) (hold : Bool) : (s.saveGang r hold).Sound := by
  simp only [State.saveGang, State.sound_iff, State.setRec_mem]
  refine foldl_sound (fun t k canonical => ?_) _ (by simp [sound])
  exact State.endContext_sound (State.putImage_sound canonical _ _ _) _

/-! ### Events of crews -/

@[simp] theorem State.setEntry_mem (s : State) (c : Nat) (e : SeqEntry) : (s.setEntry c e).mem = s.mem := by rfl

@[simp] theorem State.pick_mem (s : State) (c : Nat) (e : SeqEntry) (k : Nat) :
    (s.pick c e k).mem = s.mem := by
  simp [State.pick]

@[simp] theorem State.beginBlock_mem (s : State) (c i : Nat) (g : Begin) (cap : Captured) (held : List IWord)
    (k : Nat) (checked : Bool) :
    (s.beginBlock c i g cap held k checked).mem = s.mem := by
  simp only [State.beginBlock]
  split
  · simp
  · split <;> simp

theorem sound_commitStores (c i : Nat) (es : List BlkStore) {s : State} (sound : s.Sound)
    (w : Table Word) (d : BitVec 23) : (s.commitStores c i es w d).Sound := by
  induction es generalizing s w d with
  | nil => exact sound
  | cons e es ih =>
    simp only [State.commitStores]
    have regs : ∀ {u : State} (v : Word), u.Sound → (if e.rd = 0 then u.commitStores c i es w d
        else u.commitStores c i es (put w e.rd.toNat v) (d ||| (1 <<< (e.rd.toNat - 1)))).Sound := fun v hu => by
      split <;> exact ih hu ..
    split
    · split
      · trivial
      · split
        · simp [sound]
        · exact ih (by simp [sound]) ..
    · split
      · exact regs _ sound
      · have acc := fun t op => sound_place sound { s.portWho c with level := .app, holder := 512 * c + i } t e.va op true
        split
        next v u made =>
          have hu : u.Sound := by split at made <;> exact (acc _ _).of_value made
          split
          · exact ih hu ..
          · exact regs _ hu
        next x u made =>
          have hu : u.Sound := by split at made <;> exact (acc _ _).of_exc made
          exact hu
        next => trivial

@[simp] theorem State.reRun_mem (s : State) (c i : Nat) (m : Mt) (b : Blk) :
    (s.reRun c i m b).mem = s.mem := by
  simp [State.reRun]

@[simp] theorem State.waitCommit_mem (s : State) (c i : Nat) (m : Mt) (b : Blk) :
    (s.waitCommit c i m b).mem = s.mem := by
  simp [State.waitCommit]

theorem narrowBad_mem {s : State} {c i : Nat} {b : Blk} {p : Exc × State} (h : s.narrowBad c i b = some p) :
    p.2.mem = s.mem := by
  simp only [State.narrowBad] at h
  obtain ⟨e, -, found⟩ := List.exists_of_findSome?_eq_some h
  split at found
  · split at found
    · exact nomatch found
    · split at found
      · simp [← Option.some.inj found]
      · exact nomatch found
  · split at found
    · split at found
      · exact nomatch found
      · exact badCheck_mem found
    · exact nomatch found

@[simp] theorem State.sendAtomic_mem (s : State) (c i : Nat) (m : Mt) (b : Blk) (e : BlkStore) :
    (s.sendAtomic c i m b e).mem = s.mem := by
  simp [State.sendAtomic]

@[simp] theorem State.rotate_mem (s : State) (c i : Nat) : (s.rotate c i).mem = s.mem := by
  simp only [State.rotate]
  split
  · split <;> rfl
  · rfl

@[simp] theorem afterCommit_mem (s : State) (c : Nat) (m : Mt) (b : Blk) :
    (s.afterCommit c m b).1.mem = s.mem := by
  simp only [State.afterCommit]
  split
  · split
    · rfl
    · split <;> simp
  · rfl

@[simp] theorem State.silentError_mem (s : State) (c i : Nat) : (s.silentError c i).mem = s.mem := by
  simp [State.silentError]

/-! ### Lanes and pools -/

@[simp] theorem State.vacate_mem (s : State) (cl lane : Nat) (dest : Option Nat) :
    (s.vacate cl lane dest).mem = s.mem := by
  simp [State.vacate]

@[simp] theorem State.loseLanes_mem (s : State) (cl : Nat) (lanes : List Nat) :
    (s.loseLanes cl lanes).mem = s.mem := foldl_mem (fun _ _ => by simp) _ s

@[simp] theorem State.startClearing_mem (s : State) (cl : Nat) : (s.startClearing cl).mem = s.mem := by
  simp [State.startClearing]

@[simp] theorem State.takeOut_sound {s : State} (sound : s.Sound) (cl lane : Nat) : (s.takeOut cl lane).Sound := by
  simp [State.takeOut, sound]

@[simp] theorem State.dropSquare_mem (s : State) (cl lane : Nat) : (s.dropSquare cl lane).mem = s.mem := by
  simp only [State.dropSquare]
  split
  · split <;> rfl
  · rfl

@[simp] theorem State.shrinkTo_mem (s : State) (c m : Nat) (away : List Nat) :
    (s.shrinkTo c m away).mem = s.mem := by
  simp [State.shrinkTo]

@[simp] theorem State.moveOff_mem (s : State) (c lane dest : Nat) : (s.moveOff c lane dest).mem = s.mem := by
  simp only [State.moveOff]
  split
  · rfl
  · simp

@[simp] theorem State.endMove_mem (s : State) (c k lane : Nat) : (s.endMove c k lane).mem = s.mem := by
  simp only [State.endMove]
  split
  · rfl
  · simp

@[simp] theorem State.endMoves_mem (s : State) (cl : Nat) : (s.endMoves cl).mem = s.mem := by
  simp [State.endMoves]

@[simp] theorem State.settleMoves_mem (s : State) (c : Nat) : (s.settleMoves c).mem = s.mem := by
  simp [State.settleMoves]

@[simp] theorem State.poolWork_sound {s : State} (sound : s.Sound) (cl : Nat) : (s.poolWork cl).Sound :=
  foldl_sound (fun _ _ canonical => State.syncSpill_sound (by simpa using canonical) _) _ (by simpa using sound)

@[simp] theorem State.revoke_mem (s : State) (c : Nat) : (s.revoke c).mem = s.mem := by
  simp [State.revoke]

@[simp] theorem State.allJoined_sound {s : State} (sound : s.Sound) (c : Nat) : (s.allJoined c).Sound := by
  simp only [State.allJoined]
  split
  · split
    · split
      · exact State.failContext_sound (by split <;> simpa using sound) _
      · simpa using State.restoreRecords_sound (by simpa using sound) c
    · simpa using sound
  · simpa using sound

@[simp] theorem State.joinLane_sound {s : State} (sound : s.Sound) (c lane : Nat) : (s.joinLane c lane).Sound := by
  have joined : ∀ x : Ctx, ((s.setCtx c x).allJoined c).Sound := fun x => State.allJoined_sound (by simpa using sound) _
  simp only [State.joinLane]
  split <;> split <;> first | simpa using joined _ | simpa using sound

@[simp] theorem State.give_sound {s : State} (sound : s.Sound) (c : Nat) (lanes : List Nat) : (s.give c lanes).Sound :=
  foldl_sound (fun _ _ canonical => State.joinLane_sound canonical _ _) _ (by simpa using sound)

@[simp] theorem State.withhold_mem (s : State) (c n : Nat) : (s.withhold c n).mem = s.mem := by rfl

@[simp] theorem State.tryRetire_sound {s : State} (sound : s.Sound) (cl : Nat) : (s.tryRetire cl).Sound := by
  refine foldl_sound (fun t lane canonical => ?_) _ sound
  dsimp only
  split
  · split <;> simpa using canonical
  · split
    · split
      · exact canonical
      · exact State.takeOut_sound canonical _ _
    · split
      · simpa using canonical
      · split <;> simpa using canonical

@[simp] theorem State.poolStep_sound {s : State} (sound : s.Sound) (cl : Nat) : (s.poolStep cl).Sound :=
  State.poolWork_sound (State.tryRetire_sound (State.poolWork_sound sound _) _) _

@[simp] theorem State.grantSquare_sound {s : State} (sound : s.Sound) (c origin : Nat) : (s.grantSquare c origin).Sound := by
  simp only [State.grantSquare]
  generalize joined : List.foldl _ _ _ = t
  have ht : t.Sound := by
    rw [← joined]
    refine foldl_sound (fun t lane canonical => ?_) _ (by simpa using sound)
    split
    · split <;> simpa using canonical
    · split
      · simpa using canonical
      · split <;> simpa using canonical
  split
  · exact State.allJoined_sound ht _
  · exact ht

@[simp] theorem trySquare_sound (s : State) (cl o : Nat) {p : State × Nat} (sound : p.1.Sound) (c : Nat) :
    (s.trySquare cl o p c).1.Sound := by
  simp only [State.trySquare]
  split
  · simpa using sound
  · split
    · exact sound
    · split
      · exact State.grantSquare_sound (by simpa using sound) _ _
      · split
        · exact State.grantSquare_sound sound _ _
        · split
          · exact sound
          · split <;> simpa using sound

@[simp] theorem State.bringSpares_sound {s : State} (sound : s.Sound) (cl : Nat) : (s.bringSpares cl).Sound := by
  refine foldl_sound (fun t lane canonical => ?_) _ (by simpa using sound)
  split
  · exact State.joinLane_sound canonical _ _
  · exact canonical

@[simp] theorem State.checkBack_mem (s : State) (cl : Nat) : (s.checkBack cl).mem = s.mem := by
  unfold State.checkBack
  split <;> simp

@[simp] theorem State.applyTarget_sound {s : State} (sound : s.Sound) (cl : Nat) (grow : Bool) (k : Crew) :
    (s.applyTarget cl grow k).Sound := by
  simp only [State.applyTarget]
  split
  · exact sound
  · split
    · split
      · exact State.give_sound sound _ _
      · exact sound
    · split
      · split
        · simpa using sound
        · split
          · exact State.allJoined_sound (by simpa using sound) _
          · simpa using sound
      · exact sound

/-- The squares given in a frame. -/
theorem foldl_trySquare_sound (cl o : Nat) (s : State) (l : List Nat) {p : State × Nat} (sound : p.1.Sound) :
    (l.foldl (s.trySquare cl o) p).1.Sound := by
  induction l generalizing p with
  | nil => exact sound
  | cons c l ih => exact ih (trySquare_sound s cl o sound c)

@[simp] theorem State.frame_sound {s : State} (sound : s.Sound) (cl : Nat) : (s.frame cl).Sound := by
  have applied : ∀ (grow : Bool) (l : List Crew) {t : State}, t.Sound →
      (l.foldl (State.applyTarget · cl grow ·) t).Sound := fun grow l _ canonical =>
    foldl_sound (fun _ _ canonical => State.applyTarget_sound canonical _ _ _) l canonical
  have spares : ((s.bringSpares cl).checkBack cl).Sound := by simpa using State.bringSpares_sound sound cl
  simp only [State.frame]
  refine State.poolStep_sound (applied _ _ (applied _ _ ?_)) _
  refine sound_of_mem (foldl_mem (fun _ _ => State.revoke_mem ..) _ _) ?_
  exact foldl_trySquare_sound _ _ _ _ spares

/-! ### Events of grants and of power -/

@[simp] theorem State.abandon_mem (s : State) (c i : Nat) : (s.abandon c i).mem = s.mem := by rfl

@[simp] theorem State.contextSave_sound {s : State} (sound : s.Sound) (c : Nat) : (s.contextSave c).Sound := by
  have stopped := State.stopElems_sound sound c
  simp only [State.contextSave]
  refine State.poolStep_sound ?_ _
  split
  next fails => exact spillFails_sound stopped fails
  next => simpa using State.saveRecords_sound stopped c

@[simp] theorem State.tryClock_mem (s : State) (die mhz watts : Nat) :
    (s.tryClock die mhz watts).mem = s.mem := by
  simp [State.tryClock]

@[simp] theorem State.startHop_mem (s : State) (die mhz : Nat) : (s.startHop die mhz).mem = s.mem := by rfl

@[simp] theorem State.stepAlc_mem (s : State) (die : Nat) (lower : Bool) :
    (s.stepAlc die lower).mem = s.mem := by
  simp [State.stepAlc]

@[simp] theorem State.endAlc_mem (s : State) (die : Nat) : (s.endAlc die).mem = s.mem := by
  simp [State.endAlc]

/-! ### Events of gangs -/

@[simp] theorem State.leaveBar_mem (s : State) (c : Nat) : (s.leaveBar c).mem = s.mem := by rfl

@[simp] theorem State.leaveLapsed_mem (s : State) (c : Nat) : (s.leaveLapsed c).mem = s.mem := by rfl

@[simp] theorem State.saveCrew_sound {s : State} (sound : s.Sound) (c : Nat) : (s.saveCrew c).Sound := by
  simp only [State.saveCrew]
  split
  next fails =>
    split at fails
    · exact spillFails_sound sound fails
    · exact nomatch fails
  next =>
    split
    · simpa using State.saveRecords_sound sound c
    · simpa using sound

@[simp] theorem State.poolsOf_sound {s : State} (sound : s.Sound) (l : List Nat) : (s.poolsOf l).Sound :=
  foldl_sound (fun _ _ canonical => State.poolStep_sound canonical _) _ sound

@[simp] theorem State.preemptMarked_sound {s : State} (sound : s.Sound) (r : Nat) : (s.preemptMarked r).Sound := by
  simp only [State.preemptMarked]
  split
  · exact State.snapshot_sound sound _
  · split
    · exact State.snapshot_sound (by simpa using sound) _
    · split
      · exact State.pass_sound (State.poolsOf_sound (State.saveGang_sound
          (foldl_sound (fun _ _ canonical => State.saveCrew_sound canonical _) _ sound) _ _) _)
      · exact State.snapshot_sound (by simpa using sound) _

@[simp] theorem State.leaveGbar_mem (s : State) (c : Nat) : (s.leaveGbar c).mem = s.mem := by rfl

@[simp] theorem soundAfter_hubRefuse (s : State) (c cause : Nat) :
    SoundAfter (s.hubRefuse c cause) ↔ Memory.wf s.mem = true := by
  simp [State.hubRefuse]

@[simp] theorem State.arm_sound {s : State} (sound : s.Sound) (r : Nat) : (s.arm r).Sound :=
  State.pass_sound (by simpa using sound)

@[simp] theorem State.atStop_sound {s : State} (sound : s.Sound) (c : Nat) : (s.atStop c).Sound :=
  State.stopElems_sound sound c

@[simp] theorem State.applyAllWaiting_sound {s : State} (sound : s.Sound) (l : List Nat) : (s.applyAllWaiting l).Sound := by
  refine foldl_sound (fun t c canonical => ?_) _ sound
  have drained := State.drainBuf_sound (s := t.setCtx c { t.ctx c with run := .retained 0 }) (by simpa using canonical)
  simpa using drained

@[simp] theorem State.discardStop_sound {s : State} (sound : s.Sound) (r : Nat) : (s.discardStop r).Sound := by
  simp only [State.discardStop]
  generalize stopped : List.foldl _ s _ = t
  have ht : t.Sound := by
    rw [← stopped]
    refine foldl_sound (fun t c canonical => ?_) _ sound
    split
    · simpa using State.atStop_sound canonical c
    · exact canonical
  split
  · exact State.withdraw_sound ht _
  · exact ht

@[simp] theorem State.stopForRollback_mem (s : State) (c : Nat) : (s.stopForRollback c).mem = s.mem := by
  simp [State.stopForRollback]

@[simp] theorem State.restoreScratch_sound {s : State} (sound : s.Sound) (c pa m : Nat) :
    (s.restoreScratch c pa m).Sound := by
  simp only [State.restoreScratch]
  split
  · exact sound
  · exact foldl_sound (fun _ _ canonical => carry_sound canonical _ _ _) _ sound

@[simp] theorem State.restoreMts_sound {s : State} (sound : s.Sound) (c pa side lanes : Nat) (held : Ctx) :
    (s.restoreMts c pa side lanes held).Sound := by
  simp only [State.restoreMts]
  split
  · refine State.restoreScratch_sound ?_ _ _ _
    rw [State.Sound, State.settleMoves_mem]
    refine State.placeMts_sound ?_ _
    rw [State.Sound, foldl_mem (fun _ _ => State.setMt_mem ..)]
    exact sound
  · split
    · rw [State.Sound, State.mirrorRecords_mem]
      refine foldl_sound (fun t i canonical => ?_) _ (by simpa using sound)
      exact foldl_sound (fun _ _ canonical => State.saveWrite_sound canonical _ _ _ _) _ canonical
    · simpa using sound

theorem restoreSnapshot_sound {s t : State} {r k c : Nat} (sound : s.Sound) (h : s.restoreSnapshot r k c = some t) :
    t.Sound := by
  simp only [State.restoreSnapshot] at h
  split at h
  · exact nomatch h
  · split at h
    · exact nomatch h
    next image =>
      have loaded := restoreImage_sound (by simpa using State.releaseSlots_sound sound c (s.ctx c).claimed) image
      split at h
      · exact nomatch h
      · split at h
        · exact nomatch h
        · rw [← Option.some.inj h]
          exact State.restoreMts_sound (by simpa using loaded) _ _ _ _ _

@[simp] theorem State.moveContext_sound {s : State} (sound : s.Sound) (c d : Nat) (rect : Word) :
    (s.moveContext c d rect).Sound := by
  have saved := State.saveCrew_sound sound c
  simp only [State.moveContext]
  split
  · exact saved
  · refine State.endContext_sound ?_ _
    rw [State.Sound, State.powerDown_mem, foldl_mem (fun _ _ => State.setMt_mem ..), State.awakeBanks_mem, State.setCtx_mem]
    exact foldl_sound (fun _ _ canonical => carry_sound canonical _ _ _) _ saved

/-! ### Jobs and the Loom -/

theorem sound_jobTake {s : State} (sound : s.Sound) (c : Nat) (j : Job) (consumer : Bool) (pa : Nat)
    (d : Datum) : TrySound (s.jobTake c j consumer pa d) := by
  unfold State.jobTake
  split
  · exact sound
  · split <;> simp [sound]

theorem jobQueue_mem {s t : State} {c : Nat} {j : Job} {w : Win} {va : Word} {pa : Nat} {v : Word} {rd : Bool}
    (h : s.jobQueue c j w va pa v rd = some t) : t.mem = s.mem := by
  unfold State.jobQueue at h
  split at h
  · exact nomatch h
  · simp [← Option.some.inj h]

theorem sound_jobFar {s : State} (sound : s.Sound) (c : Nat) (j : Job) (consumer : Bool) (va : Word)
    (slot pa : Nat) : TrySound (s.jobFar c j consumer va slot pa) := by
  simp only [State.jobFar]
  split
  next reply =>
    have taken := sound_of_mem (takeReply_mem reply) sound
    split
    · exact taken
    · exact sound_jobTake (by simpa using taken) ..
  · split <;> simp [sound]

theorem sound_jobRead {s : State} (sound : s.Sound) (c : Nat) (j : Job) (consumer : Bool) (va : Word) :
    TrySound (s.jobRead c j consumer va) := by
  simp only [State.jobRead]
  split
  · exact sound_jobTake sound ..
  · split
    · exact sound
    · exact sound
    next w pa _ =>
      split
      · exact sound
      · cases queue : s.jobQueue c j w va pa 0 true with
        | none => exact sound
        | some t => exact sound_of_mem (jobQueue_mem queue) sound
    · simp [sound]
    · split
      · exact sound_jobTake (by simp [sound]) ..
      · split <;> simp [sound]
    · exact sound_jobTake sound ..
    · exact sound_jobFar sound ..
    · split
      · split <;> simp [sound]
      · split
        · exact sound
        · exact sound_jobTake (by simp [sound]) ..

@[simp] theorem putDatum_sound {s : State} (sound : s.Sound) (key : Nat) (d : Datum) (onChip : optParam Bool false) :
    (putDatum s key d onChip).Sound := by
  simp [putDatum, sound]

theorem sound_jobVerify {s : State} (sound : s.Sound) (c pa : Nat) (d : Datum) :
    TrySound (s.jobVerify c pa d) := by
  unfold State.jobVerify
  split
  · exact sound
  · split <;> simp [sound]

theorem sound_jobWrite {s : State} (sound : s.Sound) (c : Nat) (j : Job) (va : Word) (d : Datum)
    (whole : Bool) : TrySound (s.jobWrite c j va d whole) := by
  have verified := fun pa => sound_jobVerify sound c pa d
  simp only [State.jobWrite]
  split
  · exact sound
  · exact sound
  · simp [sound]
  · split
    next e => exact (verified _).of_error e
    next t e =>
      have ht : t.Sound := (verified _).of_ok e
      split
      · exact ht
      next queue => exact sound_of_mem (jobQueue_mem queue) ht
  · split
    · simp [sound]
    · split
      next e => exact (verified _).of_error e
      next t e =>
        have ht : t.Sound := (verified _).of_ok e
        have put := sound_winPut ht (s.partOf (c / 4)) (c / 4) j.level
        split
        next e =>
          have := e ▸ put _ _
          exact State.drainBuf_sound this
        next e =>
          have := e ▸ put _ _
          exact this
  · simp [sound]
  · simp [sound]
  · split
    · exact sound
    · split
      · split <;> simp [sound]
      · simp [sound]

@[simp] theorem State.settlePiece_mem (s : State) (c : Nat) (j : Job) (va : Word) (whole mark : Bool) :
    (s.settlePiece c j va whole mark).mem = s.mem := by
  unfold State.settlePiece
  split <;> simp

theorem sound_jobRun (c : Nat) (j : Job) (n : Nat) {s : State} (sound : s.Sound) (va : Word) :
    TrySound (s.jobRun c j n va) := by
  induction n generalizing s va with
  | zero => exact sound
  | succ n ih =>
    have read := sound_jobRead sound c j true va
    rw [State.jobRun]
    split
    next e => rw [e] at read; exact read
    next e =>
      rw [e] at read
      have rest := ih read (va + 8)
      split
      next e => rw [e] at rest; exact rest
      next e => rw [e] at rest; exact rest

theorem sound_convertDw {s : State} (sound : s.Sound) (c : Nat) (j : Job) (p : Nat × Nat) :
    TrySound (s.convertDw c j p) := by
  have run := fun n va => sound_jobRun c j n sound va
  simp only [State.convertDw]
  split
  next e => exact (run _ _).of_error e
  next e => exact (run _ _).of_ok e

theorem sound_copyDw {s : State} (sound : s.Sound) (c : Nat) (j : Job) (p : Nat × Nat) :
    TrySound (s.copyDw c j p) := by
  have read := sound_jobRead sound c j false (j.srcRow p + BitVec.ofNat 64 p.2)
  unfold State.copyDw
  split
  · exact sound_convertDw sound c j p
  · split
    next e => rw [e] at read; exact read
    next e => rw [e] at read; exact read

@[simp] theorem State.addFlags_mem (s : State) (c : Nat) (j : Job) (fl : BitVec 7) :
    (s.addFlags c j fl).mem = s.mem := by rfl

theorem sound_movePiece (c : Nat) (j : Job) (whole : Bool) (ps : List (Nat × Nat)) {s : State}
    (sound : s.Sound) (k : Nat) (fl : BitVec 7) (mark : Bool) : TrySound (s.movePiece c j whole ps k fl mark) := by
  induction ps generalizing s k fl mark with
  | nil => exact sound
  | cons p ps ih =>
    have copied := sound_copyDw sound c j p
    simp only [State.movePiece]
    split
    next e =>
      rw [e] at copied
      split
      · exact copied
      · simpa using copied
    next d _ t e =>
      rw [e] at copied
      have wrote := sound_jobWrite copied c j (j.dest p) d whole
      split
      next e =>
        rw [e] at wrote
        split
        · exact wrote
        · simpa using wrote
      next e => rw [e] at wrote; exact ih wrote ..

theorem sound_packetData (c : Nat) (j : Job) (ps : List (Nat × Nat)) {s : State} (sound : s.Sound)
    (fl : BitVec 7) (ds : List Datum) : TrySound (s.packetData c j ps fl ds) := by
  induction ps generalizing s fl ds with
  | nil => exact sound
  | cons p ps ih =>
    have copied := sound_copyDw sound c j p
    simp only [State.packetData]
    split
    · exact sound
    · exact sound
    · split
      next e => rw [e] at copied; exact copied
      next e => rw [e] at copied; exact ih copied ..

@[simp] theorem State.sendPiece_mem (s : State) (slot tag pa : Nat) (offs : List Nat) (data : List Datum) :
    (s.sendPiece slot tag pa offs data).mem = s.mem := by
  simp [State.sendPiece]

@[simp] theorem State.setJob_mem (s : State) (c : Nat) (j : Job) : (s.setJob c j).mem = s.mem := by rfl

theorem sound_copyPiece {s : State} (sound : s.Sound) (c : Nat) (j : Job) :
    TrySound (s.copyPiece c j) := by
  simp only [State.copyPiece]
  split
  · exact sound
  · exact sound
  · have data := sound_packetData c j (j.packet 256 (j.row, j.byte)) sound 0 []
    split
    next e => rw [e] at data; exact data
    next e => rw [e] at data; simpa using data
  · have moved := fun ps whole => sound_movePiece c j whole ps sound 0 0 j.marked
    split
    next e => exact (moved _ _).of_error e
    next t e =>
      have ht : t.Sound := (moved _ _).of_ok e
      simp [ht]

theorem sound_gleanEntry {s : State} (sound : s.Sound) (c : Nat) (j : Job) :
    TrySound (s.gleanEntry c j) := by
  have index := fun va => sound_jobRead sound c j true va
  unfold State.gleanEntry
  extract_lets ctl wide at_
  split
  next e => exact (index _).of_error e
  next b _ i t e =>
    have ht : t.Sound := (index _).of_ok e
    extract_lets x u
    clear_value x u
    generalize (if ctl.getLsbD 0 then (b, u) else (u, b)) = p
    obtain ⟨src, dst⟩ := p
    dsimp only
    split
    · exact ht
    · split
      · exact ht
      · have read := fun va => sound_jobRead ht c j false va
        split
        next e => exact (read _).of_error e
        next d u e =>
          have hu : u.Sound := (read _).of_ok e
          have wrote := fun va => sound_jobWrite hu c j va d false
          split
          next e => exact (wrote _).of_error e
          next v e =>
            have hv : v.Sound := (wrote _).of_ok e
            simp [hv]

theorem sound_advance (c n : Nat) {s : State} (sound : s.Sound) (j : Job) :
    TrySound (s.advance c j n) := by
  induction n generalizing s j with
  | zero => exact sound
  | succ n ih =>
    have one : TrySound (if j.glean then s.gleanEntry c j else s.copyPiece c j) := by
      split
      · exact sound_gleanEntry sound c j
      · exact sound_copyPiece sound c j
    rw [State.advance]
    split
    · exact sound
    · split
      next e => rw [e] at one; exact one
      next e => rw [e] at one; exact ih one _

@[simp] theorem State.jobOut_mem (s : State) (c : Nat) (j : Job) (k : BitVec 8) :
    (s.jobOut c j k).mem = s.mem := by
  simp only [State.jobOut]
  split
  · split <;> rfl
  · rfl

@[simp] theorem State.endJob_sound {s : State} (sound : s.Sound) (c : Nat) (j : Job) (cause : BitVec 8) :
    (s.endJob c j cause).Sound := by
  simp only [State.endJob]
  split
  · simp [sound]
  · have put := sound_putWord sound (c / 4) c (s.partOf (c / 4)) (s.jobTr c j j.done .w) j.done
      (jobWord j.num cause j.flags) j.level
    split
    next e => rw [e] at put; simpa using put
    next e => rw [e] at put; simpa using put
    next e => rw [e] at put; simpa using put
    next => simp [sound]

@[simp] theorem State.stopJob_sound {s : State} (sound : s.Sound) (c : Nat) (j : Job) (k : BitVec 8) :
    (s.stopJob c j k).Sound := by
  simp [State.stopJob, sound]

@[simp] theorem State.runJob_sound {s : State} (sound : s.Sound) (c : Nat) (j : Job) (n : Nat) (finish : Bool) :
    (s.runJob c j n finish).Sound := by
  unfold State.runJob
  split
  · simp [sound]
  · have moved := sound_advance c n sound j
    split
    next e => rw [e] at moved; exact State.stopJob_sound moved _ _ _
    next e => rw [e] at moved; exact moved
    next e =>
      rw [e] at moved
      split
      · exact State.endJob_sound moved _ _ _
      · simpa using moved

@[simp] theorem State.setAcc_mem (s : State) (c side bank i k : Nat) (v : BitVec 32) :
    (s.setAcc c side bank i k v).mem = s.mem := by rfl

theorem addSum_sound (c side : Nat) (e : Nat × Num × BitVec 7) {t : State × LoomJob × BitVec 7} (sound : t.1.Sound) :
    (State.addSum c side e t).1.Sound := by
  simp only [State.addSum]
  split
  · simpa using sound
  · split <;> simpa using sound

@[simp] theorem addChunk_sound {s : State} (sound : s.Sound) (c : Nat) (j : LoomJob) (side : Nat) (sums : List (Num × BitVec 7)) :
    (s.addChunk c j side sums).1.Sound := by
  unfold State.addChunk
  generalize (List.range (16 * side * (16 * side))).zip sums = l
  suffices ∀ t : State × LoomJob × BitVec 7, t.1.Sound →
      (l.foldl (fun t e => State.addSum c side e t) t).1.Sound from this (s, j, 0) sound
  induction l with
  | nil => exact fun _ canonical => canonical
  | cons e l ih => exact fun t canonical => ih _ (addSum_sound c side e canonical)

@[simp] theorem State.useTokens_mem (s : State) (r cl more less : Nat) :
    (s.useTokens r cl more less).mem = s.mem := by rfl

@[simp] theorem State.wakeSlots_sound {s : State} (sound : s.Sound) (c : Nat) (j : LoomJob) : (s.wakeSlots c j).Sound := by
  refine foldl_sound (fun t n canonical => ?_) _ sound
  split
  · exact State.wakeUnit_sound canonical _
  · exact canonical

@[simp] theorem State.setLoom_mem (s : State) (c : Nat) (j : LoomJob) : (s.setLoom c j).mem = s.mem := by rfl

@[simp] theorem State.endLoom_mem (s : State) (c : Nat) (j : LoomJob) (cause : BitVec 8) :
    (s.endLoom c j cause).mem = s.mem := by rfl

@[simp] theorem State.zeroBanks_mem (s : State) (c : Nat) (ra : Word) : (s.zeroBanks c ra).mem = s.mem := by
  simp [State.zeroBanks]

/-! ### Data that come back -/

@[simp] theorem State.takePosted_mem (s : State) (n : Nat) : (s.takePosted n).mem = s.mem := by rfl

@[simp] theorem soundAfter_windowLoad {s : State} (sound : s.Sound) (pa : Nat) (va : Word) :
    SoundAfter (s.windowLoad pa va) := by
  simp only [State.windowLoad]
  split
  · simp [sound]
  · simp [sound]
  next cl off _ _ =>
    have load := sound_winLoad sound (s.who s.cur) (winOf cl off) pa va
    split
    · simp [sound]
    · split
      · exact sound
      · split
        · split <;> exact sound
        · split
          · exact sound
          · split
            · simp [sound]
            · split
              next e => rw [e] at load; exact soundAfter_arrived load _
              next e => rw [e] at load; simpa using load
              next => exact sound
  · exact sound

@[simp] theorem soundAfter_dataForCtx {s : State} (sound : s.Sound) (c : Nat) : SoundAfter (s.dataForCtx c) := by
  simp only [State.dataForCtx]
  split
  next pa _ =>
    split
    · exact sound
    next q t reply =>
      have taken := sound_of_mem (takeReply_mem reply) sound
      split
      · simpa using taken
      · have datum := sound_takeDatum taken 1 (t.partOf (c / 4)) (c / 4) pa (s.ctx c).awaits (q.datum 0)
        split
        next e => rw [e] at datum; exact soundAfter_arrived (by simpa using datum) _
        next e => rw [e] at datum; simpa using datum
  · exact sound

@[simp] theorem State.dataForMt_sound {s : State} (sound : s.Sound) (c i : Nat) : (s.dataForMt c i).Sound := by
  simp only [State.dataForMt]
  split
  · exact sound
  · split
    · exact sound
    · split
      · exact sound
      next n _ pa _ _ q t reply =>
        have taken := sound_of_mem (takeReply_mem reply) sound
        split
        · simpa using taken
        · have datum := sound_takeDatum taken 2 (t.partOf (c / 4)) (c / 4) pa n (q.datum 0)
          split
          next e => rw [e] at datum; simpa using datum
          next e => rw [e] at datum; split <;> simpa using datum

theorem sound_srcGiven {s : State} (sound : s.Sound) (c k pa : Nat) (b : Bool) :
    TrySound (s.srcGiven c k pa b) := by
  simp only [State.srcGiven]
  split
  · have src := sound_streamSrc sound c k b
    split
    next e => rw [e] at src; exact src
    next e => rw [e] at src; exact src
    next e => rw [e] at src; exact src
    next => exact sound
  · split
    · exact sound
    next q t reply =>
      have taken := sound_of_mem (takeReply_mem reply) sound
      split
      · exact taken
      · have datum := fun n => sound_takeDatum taken 2 (t.partOf (c / 4)) (c / 4) pa n (q.datum 0)
        split
        next e => have := e ▸ datum _; exact this
        next e => have := e ▸ datum _; exact this

theorem sound_streamGiven {s : State} (sound : s.Sound) (c k pa pb : Nat) (two : Bool) :
    ExceptAll (·.2.Sound) (·.2.2.Sound) (s.streamGiven c k pa pb two) := by
  have one := sound_srcGiven sound c k pa false
  unfold State.streamGiven
  split
  next e => rw [e] at one; exact one
  next t e =>
    rw [e] at one
    split
    · have other := sound_srcGiven one c k pb true
      split
      next e => rw [e] at other; exact other
      next e => rw [e] at other; exact other
    · exact one

@[simp] theorem State.dataForElem_sound {s : State} (sound : s.Sound) (c k : Nat) : (s.dataForElem c k).Sound := by
  simp only [State.dataForElem]
  split
  next i ra _ _ _ _ _ =>
    split
    · exact sound
    · split
      · have given := sound_streamGiven sound c k (look (0, 0) (s.ctx c).cap.got k).1.toNat
          (look (0, 0) (s.ctx c).cap.got k).2.toNat (streamTwo (bits ra 0 4))
        split
        next e => rw [e] at given; simpa using given
        next e => rw [e] at given; simpa using given
        next e => rw [e] at given; exact given
      · split
        · exact sound
        next q t reply =>
          have taken := sound_of_mem (takeReply_mem reply) sound
          split
          · simpa using taken
          · have datum := sound_takeDatum taken 2 (t.partOf (c / 4)) (c / 4) (look (0, 0) (s.ctx c).cap.got k).1.toNat
              (elemForm i).1 (q.datum 0)
            split
            next e => rw [e] at datum; simpa using datum
            next e => rw [e] at datum; simpa using datum
  · exact sound

@[simp] theorem State.dataForFw_sound {s : State} (sound : s.Sound) (c : Nat) : (s.dataForFw c).Sound := by
  simp only [State.dataForFw]
  split
  · exact sound
  next pa _ =>
    split
    · exact sound
    next q t reply =>
      have taken := sound_of_mem (takeReply_mem reply) sound
      split
      · rw [State.Sound, State.setCtx_mem]
        exact State.vldbResult_sound taken _ _
      · have datum := sound_takeDatum taken 2 (t.partOf (c / 4)) (c / 4) pa 8 (q.datum 0)
        split
        next e =>
          rw [e] at datum
          rw [State.Sound, State.setCtx_mem]
          exact State.vldbResult_sound datum _ _
        next e =>
          rw [e] at datum
          rw [State.Sound, State.setCtx_mem]
          exact State.vldbResult_sound datum _ _

@[simp] theorem State.postDone_mem (s : State) (n : Nat) : (s.postDone n).mem = s.mem := by
  simp only [State.postDone]
  split
  · rfl
  · split
    · split
      · rfl
      next reply =>
        have taken := takeReply_mem reply
        split <;> simpa using taken
    · rfl

/-! ### Commands -/

@[simp] theorem State.bell_mem (s : State) (m : Nat) : (s.bell m).mem = s.mem := by
  simp [State.bell]

@[simp] theorem State.barRead_mem (s : State) (f off : Nat) : (s.barRead f off).mem = s.mem := by
  simp only [State.barRead]
  split <;> simp

theorem soundAfter_command {s : State} (sound : s.Sound) (op : Nat) {ready : Nat → List Word → Bool} {f : Nat → List Word → Option State}
    (keeps : ∀ m q, OptSound (f m q)) : SoundAfter (s.command op ready f) := by
  simp only [State.command]
  split
  · exact sound
  next q _ _ =>
    split
    · exact sound
    · split
      · simp [sound]
      · split
        · exact sound
        · have made := keeps s.arg.unit q
          split
          next e => rw [e] at made; exact State.answer_sound made _ _
          next => simp [sound]

theorem soundAfter_command1 {s : State} (sound : s.Sound) (op : Nat) {f : Nat → List Word → Option State}
    (keeps : ∀ m q, OptSound (f m q)) : SoundAfter (s.command1 op f) :=
  soundAfter_command sound op keeps

theorem soundAfter_command1' {s : State} (sound : s.Sound) (op : Nat) {f : Nat → List Word → Except State State}
    (keeps : ∀ m q, ExceptAll State.Sound State.Sound (f m q)) :
    SoundAfter (s.command1' op f) := by
  simp only [State.command1']
  split
  · exact sound
  next q _ _ =>
    split
    · exact sound
    · split
      · simp [sound]
      · have made := keeps s.arg.unit q
        split
        next e => rw [e] at made; exact State.answer_sound made _ _
        next e => rw [e] at made; exact State.answer_sound made _ _

@[simp] theorem State.noteImages_mem (s : State) (r : Nat) : (s.noteImages r).mem = s.mem := by
  simp [State.noteImages]

@[simp] theorem State.pclearRange_sound {s : State} (sound : s.Sound) (a stop : Nat) (all : Bool) :
    (s.pclearRange a stop all).Sound := Memory.wf_filter _ sound

@[simp] theorem State.carryPoison_mem (s : State) (slot q : Nat) : (s.carryPoison slot q).mem = s.mem := by
  simp [State.carryPoison]

@[simp] theorem State.lineDone_mem (s : State) (r : Retire) (ch : Nat) : (s.lineDone r ch).mem = s.mem := by
  simp only [State.lineDone]
  split
  · simp
  · rfl

@[simp] theorem State.settleLines_mem (s : State) : s.settleLines.mem = s.mem := by
  unfold State.settleLines
  split
  · rfl
  · refine foldl_mem (fun t e => ?_) _ s
    split <;> simp

/-! ### Requests of the host and of other modules -/

@[simp] theorem hostDw_sound {s : State} (sound : s.Sound) (part pa : Nat) : (s.hostDw part pa).2.2.Sound := by
  have acc := sound_memAccess sound (hostWho part) { pa := pa, skew := 0, attr := 0 } (BitVec.ofNat 64 pa)
    (.load 8)
  simp only [State.hostDw]
  split
  next e => rw [e] at acc; exact acc
  next e => rw [e] at acc; simpa using acc
  next => exact sound

@[simp] theorem hostDws_sound (part n : Nat) {s : State} (sound : s.Sound) (pa : Nat) : (s.hostDws part pa n).2.2.Sound := by
  induction n generalizing s pa with
  | zero => exact sound
  | succ n ih => exact ih (hostDw_sound sound part pa) _

@[simp] theorem State.hostPutDw_sound {s : State} (sound : s.Sound) (part pa : Nat) (v : Word) (mask : Nat) :
    (s.hostPutDw part pa v mask).Sound := by
  simp only [State.hostPutDw]
  split
  · exact sound
  · split
    · exact sound
    · split
      next bad =>
        split at bad
        · exact nomatch bad
        · exact sound_of_mem (badCheck_mem bad) sound
      next => simp [sound]

@[simp] theorem State.hostPut_sound (part mask : Nat) (l : List Word) {s : State} (sound : s.Sound) (pa k : Nat) :
    (s.hostPut part mask pa k l).Sound := by
  induction l generalizing s pa k with
  | nil => exact sound
  | cons v l ih => exact ih (State.hostPutDw_sound sound _ _ _ _) _ _

@[simp] theorem State.hostArrive_mem (s : State) (q : HostReq) : (s.hostArrive q).mem = s.mem := by
  simp [State.hostArrive]

@[simp] theorem State.hostServe_sound {s : State} (sound : s.Sound) (q : HostReq) : (s.hostServe q).Sound := by
  simp only [State.hostServe]
  split
  · exact sound
  · split <;> simp [sound]

@[simp] theorem remotePut_sound (w : Who) (whole : Nat → Bool) (l : List (Nat × Datum)) {s : State} (sound : s.Sound) :
    (s.remotePut w whole l).2.Sound := by
  induction l generalizing s with
  | nil => exact sound
  | cons e l ih =>
    have put : ∀ t : State, t.mem = s.mem →
        (putDatum (storeMem t w.part 4096 e.1 (memKey 0 e.1) []) (memKey 0 e.1) e.2).Sound := fun t same =>
      putDatum_sound (storeMem_sound (sound_of_mem same sound) ..) _ _
    simp only [State.remotePut]
    split
    · split
      · exact ih (put _ (by simp))
      · exact sound
    · exact ih (put _ (by simp))

@[simp] theorem State.remoteSettle_mem (s : State) (whole : Nat → Bool) (l : List (Nat × Datum)) :
    (s.remoteSettle whole l).mem = s.mem := by
  simp [State.remoteSettle]

@[simp] theorem State.say_mem (s : State) (code : Nat) (w : List Word) : (s.say code w).mem = s.mem := by rfl

@[simp] theorem State.setTdisp_mem (s : State) (p : Nat) (t : Tdisp) : (s.setTdisp p t).mem = s.mem := by rfl

@[simp] theorem State.stopGangs_mem (s : State) (p : Nat) : (s.stopGangs p).mem = s.mem := by
  simp [State.stopGangs]

@[simp] theorem State.beginDiscard_sound {s : State} (sound : s.Sound) (r : Nat) : (s.beginDiscard r).Sound := by
  simp only [State.beginDiscard]
  split
  · simp [sound]
  · exact sound

@[simp] theorem State.fallToError_sound {s : State} (sound : s.Sound) (p trigger : Nat) : (s.fallToError p trigger).Sound := by
  simp only [State.fallToError]
  split
  · refine foldl_sound (fun _ r canonical => State.withdraw_sound canonical r) _
      (foldl_sound (fun _ r canonical => State.beginDiscard_sound canonical r) _ ?_)
    rw [State.Sound, foldl_mem (fun _ _ => State.setRec_mem ..)]
    simpa using sound
  · exact sound

/-! ### Links and collectives -/

@[simp] theorem State.portRecord_mem (s : State) (code port : Nat) (detail : List Nat) :
    (s.portRecord code port detail).mem = s.mem := by rfl

@[simp] theorem State.settlePend_mem (s : State) (own : Bool) (q : RemoteReq) :
    (s.settlePend own q).mem = s.mem := by rfl

@[simp] theorem State.packetIn_mem (s : State) (p : Nat) (l : List Datum) : (s.packetIn p l).mem = s.mem := by
  simp only [State.packetIn]
  split
  · split <;> simp
  · simp

@[simp] theorem State.payloadIn_mem (s : State) (p : Nat) (data : List Datum) :
    (s.payloadIn p data).mem = s.mem := by
  simp [State.payloadIn]

@[simp] theorem State.replay_mem (s : State) (p e : Nat) : (s.replay p e).mem = s.mem := by
  simp [State.replay]

@[simp] theorem State.cutPend_mem (s : State) (p : Pend) : (s.cutPend p).mem = s.mem := by
  unfold State.cutPend
  split <;> simp

@[simp] theorem State.goDown_mem (s : State) (p d : Nat) (l : LinkDir) : (s.goDown p d l).mem = s.mem := by
  simp [State.goDown]

theorem sound_collRead {s : State} (sound : s.Sound) (part : Nat) (combines : Bool) (n : Nat)
    (pa : Nat) (ds : List Datum) : ExceptAll (·.2.Sound) (fun _ => True) (s.collRead part combines pa n ds) := by
  induction n generalizing pa ds with
  | zero => trivial
  | succ n ih =>
    simp only [State.collRead]
    split
    · exact sound
    · split
      · exact sound
      · split
        · simp [sound]
        · exact ih ..

theorem sound_ownPart {s : State} (sound : s.Sound) (g : Group) (d : List Word) :
    ExceptAll (·.2.Sound) (fun _ => True) (s.ownPart g d) := by
  unfold State.ownPart
  split
  · trivial
  · exact sound_collRead sound ..

@[simp] theorem State.collPut_sound (part : Nat) (d : List Word) (r : List Datum) (l : List Nat) {s : State} (sound : s.Sound) :
    (s.collPut part d r l).Sound := by
  induction l generalizing s with
  | nil => exact sound
  | cons k l ih => simp [State.collPut, ih, sound]

@[simp] theorem State.collWrite_sound {s : State} (sound : s.Sound) (part : Nat) (d : List Word) (r : List Datum) (l : List Nat) :
    (s.collWrite part d r l).Sound := by
  simp [State.collWrite, sound]

@[simp] theorem State.contribute_mem (s : State) (n : Nat) (r : Round) (own : List Datum) :
    (s.contribute n r own).mem = s.mem := by
  simp [State.contribute]

theorem contribBad_mem {s : State} {g : Group} {d : List Word} {parts : List (List Datum)} {p : BitVec 8 × State}
    (h : s.contribBad g d parts = some p) : p.2.mem = s.mem := by
  simp only [State.contribBad] at h
  split at h
  · exact nomatch h
  · split at h
    · simp [← Option.some.inj h]
    · split at h
      · simp [← Option.some.inj h]
      · exact nomatch h

@[simp] theorem State.endRound_sound {s : State} (sound : s.Sound) (n : Nat) (d : List Word) (cause : BitVec 8) :
    (s.endRound n d cause).Sound := by
  simp [State.endRound, sound]

@[simp] theorem State.abortFirst_sound {s : State} (sound : s.Sound) (n : Nat) (d : List Word) (cause : BitVec 8) :
    (s.abortFirst n d cause).Sound := by
  simp [State.abortFirst, sound]

@[simp] theorem State.closeRound_sound {s : State} (sound : s.Sound) (n : Nat) (r : Round) : (s.closeRound n r).Sound := by
  simp only [State.closeRound]
  split
  · exact sound
  · split
    · exact State.endRound_sound sound _ _ _
    · split
      next bad => exact State.abortFirst_sound (sound_of_mem (contribBad_mem bad) sound) _ _ _
      next => exact State.abortFirst_sound sound _ _ _
      next => exact State.endRound_sound (State.collWrite_sound sound _ _ _ _) _ _ _

@[simp] theorem State.partialResult_sound {s : State} (sound : s.Sound) (n : Nat) (r : Round) :
    (s.partialResult n r).Sound := by
  simp [State.partialResult, sound]

/-! ### Events of memory -/

@[simp] theorem State.writeBacks_sound {s : State} (sound : s.Sound) (x ch : Nat) : (s.writeBacks x ch).Sound :=
  foldl_sound (fun _ _ canonical => Memory.wf_writeBytes _ _ canonical) _ sound

@[simp] theorem State.scrubSector_mem (s : State) (x ch pa f : Nat) :
    (s.scrubSector x ch pa f).mem = s.mem := by
  simp [State.scrubSector]

@[simp] theorem State.fullerTurn_sound {s : State} (sound : s.Sound) (x ch : Nat) : (s.fullerTurn x ch).Sound := by
  simp only [State.fullerTurn]
  split <;> simp [sound]

@[simp] theorem State.readMoving_mem (s : State) (n ch : Nat) : (s.readMoving n ch).mem = s.mem := by
  unfold State.readMoving
  split <;> simp

@[simp] theorem State.remapTurn_mem (s : State) (r : Retire) (ch slot : Nat) :
    (s.remapTurn r ch slot).mem = s.mem := by
  simp [State.remapTurn]

@[simp] theorem State.performReq_sound {s : State} (sound : s.Sound) (q : ChanReq) (uncorrectable : Bool) :
    (s.performReq q uncorrectable).Sound := by
  unfold State.performReq
  split <;> simp [sound]

@[simp] theorem State.reach_sound {s : State} (sound : s.Sound) (q : ChanReq) : (s.reach q).Sound := by
  unfold State.reach
  split <;> simp [sound]

@[simp] theorem State.serveSlot_sound {s : State} (sound : s.Sound) (k p : Nat) : (s.serveSlot k p).Sound :=
  foldl_sound (fun _ _ canonical => State.reach_sound canonical _) _ sound

@[simp] theorem State.partSlot_sound {s : State} (sound : s.Sound) (k : Nat) (e : Byte) : (s.partSlot k e).Sound := by
  simp only [State.partSlot]
  split
  · exact sound
  · exact State.serveSlot_sound (by split <;> exact sound) _ _

@[simp] theorem State.reqArrives_sound {s : State} (sound : s.Sound) (q : ChanReq) : (s.reqArrives q).Sound := by
  simp only [State.reqArrives]
  split
  · exact State.reach_sound sound q
  · exact sound

@[simp] theorem State.dieMoving_mem (s : State) (r : Retire) : (s.dieMoving r).mem = s.mem := by rfl

@[simp] theorem State.dieInPlace_mem (s : State) (x : Nat) : (s.dieInPlace x).mem = s.mem := by rfl

@[simp] theorem State.emptyWay_mem (s : State) (l2 : Bool) (n way : Nat) :
    (s.emptyWay l2 n way).mem = s.mem := by
  simp [State.emptyWay]

/-! ### Resets -/

@[simp] theorem State.withRetired_mem (s : State) (x : Nat) : (s.withRetired x).mem = s.mem := by rfl

@[simp] theorem State.coreFails_mem (s : State) (core : Nat) : (s.coreFails core).mem = s.mem := by
  simp [State.coreFails]

@[simp] theorem State.loadStacks_mem (s : State) (i : CfgImage) : (s.loadStacks i).mem = s.mem := by
  simp [State.loadStacks]

@[simp] theorem State.keepModel_mem (s t : State) : (s.keepModel t).mem = t.mem := rfl

@[simp] theorem State.enumerate_mem (s : State) : s.enumerate.mem = s.mem := by rfl

@[simp] theorem State.coreOut_sound {s : State} (sound : s.Sound) (core : Nat) : (s.coreOut core).Sound := by
  refine foldl_sound (fun t r canonical => ?_) _ (by simpa using sound)
  dsimp only
  split
  · exact canonical
  · split
    · simpa using canonical
    · exact State.withdraw_sound canonical r

/-! ### Turns of other agents -/

theorem fillCode_mem (s : State) (w : Who) (t : Tr) (va : Word) {take : State → State}
    (h : ∀ u, (take u).mem = u.mem) : (s.fillCode w t va take).mem = s.mem := by
  simp [State.fillCode, h]

@[simp] theorem State.fillI_mem (s : State) (c : Nat) (va : Word) : (s.fillI c va).mem = s.mem := by
  simp only [State.fillI]
  split
  · split
    · exact fillCode_mem _ _ _ _ fun u => by simp
    · rfl
  · rfl

@[simp] theorem State.fillF_mem (s : State) (c : Nat) (va : Word) : (s.fillF c va).mem = s.mem := by
  simp only [State.fillF]
  split
  · exact fillCode_mem _ _ _ _ fun u => by simp
  · rfl

@[simp] theorem State.fillB_mem (s : State) (c : Nat) (va : Word) : (s.fillB c va).mem = s.mem := by
  simp only [State.fillB]
  split
  · split
    · rfl
    · exact fillCode_mem _ _ _ _ fun u => by simp
  · rfl

@[simp] theorem State.fillT_mem (s : State) (c : Nat) (va : Word) : (s.fillT c va).mem = s.mem := by
  simp only [State.fillT]
  split
  · simp
  · split
    · rfl
    · split <;> simp

@[simp] theorem State.evict_mem (s : State) (c sector : Nat) : (s.evict c sector).mem = s.mem := by
  simp only [State.evict]
  split
  · rfl
  · split
    · rfl
    · simp

@[simp] theorem State.gate_sound {s : State} (sound : s.Sound) (u : Nat) : (s.gate u).Sound := by
  have planes : ∀ (p : Prop) [Decidable p] (k n : Nat) {t : State}, t.Sound → (if p then clearRange t k n else t).Sound :=
    fun p _ k n t canonical => by
      split
      · exact clearRange_sound canonical _ _
      · exact canonical
  simp only [State.gate]
  split
  · exact sound
  · refine planes _ _ _ ?_
    split
    · split
      · exact clearRange_sound sound _ _
      · exact sound
    · split <;> simpa using sound

@[simp] theorem State.setSlot_mem (s : State) (key : Nat) (b : Byte) : (s.setSlot key b).mem = s.mem := by
  simp [State.setSlot]

@[simp] theorem State.setShare_mem (s : State) (die w : Nat) : (s.setShare die w).mem = s.mem := by
  simp [State.setShare]

end Sys2Proof.Machine
end

section
/-!
PROOFS. Every instruction, every step of another agent and every turn keeps the canonical form of storage.
-/

namespace Sys2Proof.Machine

/-! ### Control threads and micro-threads -/

theorem soundAfter_execCallt (rd ra rb : RegNo) {s : State} (sound : s.Sound) : SoundAfter (execCallt rd ra rb s) := by
  have acc := sound_access sound s.me.fnbase (.load 8) true
  unfold execCallt
  split
  next e => rw [e] at acc; exact soundAfter_callEntry acc _ _ _ _
  next e => rw [e] at acc; simpa using acc
  next => exact soundAfter_other sound acc

@[simp] theorem soundAfter_execLoop (ra : RegNo) (imm : BitVec 12) (s : State) :
    SoundAfter (execLoop ra imm s) ↔ Memory.wf s.mem = true := by
  simp [execLoop]

@[simp] theorem soundAfter_execEndloop (s : State) : SoundAfter (execEndloop s) ↔ Memory.wf s.mem = true := by
  simp only [execEndloop]
  split <;> simp

theorem soundAfter_execSetvl (rd ra : RegNo) {s : State} (sound : s.Sound) : SoundAfter (execSetvl rd ra s) := by
  simp [execSetvl, sound]

@[simp] theorem soundAfter_execVsync (rd : RegNo) (s : State) : SoundAfter (execVsync rd s) ↔ Memory.wf s.mem = true := by
  simp [execVsync]

@[simp] theorem soundAfter_execVget (rd ra : RegNo) (item : BitVec 8) (s : State) :
    SoundAfter (execVget rd ra item s) ↔ Memory.wf s.mem = true := soundAfter_single _ _ _ fun _ _ => by simp

theorem soundAfter_execVput (ra rb : RegNo) (item : BitVec 8) {s : State} (sound : s.Sound) :
    SoundAfter (execVput ra rb item s) := by
  unfold execVput
  split
  · simp [sound]
  · simp [State.single, sound]

theorem soundAfter_execVldb (wd ra : RegNo) {s : State} (sound : s.Sound) : SoundAfter (execVldb wd ra s) := by
  simp [execVldb, sound]

theorem soundAfter_execStream (ra rb : RegNo) {s : State} (sound : s.Sound) : SoundAfter (execStream ra rb s) := by
  simp [execStream, sound]

theorem soundAfter_execCopyj (rd ra rb : RegNo) {s : State} (sound : s.Sound) : SoundAfter (execCopyj rd ra rb s) := by
  have card := sound_readCard (s.rx ra) (20 - (s.me.card.getD []).length) sound (s.me.card.getD [])
  simp only [execCopyj]
  split
  next e => rw [e] at card; exact card
  next =>
    split
    · simp [sound]
    · split
      next e =>
        rw [e] at card
        split
        · simpa using card
        · exact soundAfter_copyCard card _ _ _ _
      next e => rw [e] at card; exact card
      next e => rw [e] at card; exact card

theorem soundAfter_execGleanj (rd ra rb : RegNo) {s : State} (sound : s.Sound) :
    SoundAfter (execGleanj rd ra rb s) := by
  simp [execGleanj, sound]

theorem soundAfter_execLclaim (rd ra : RegNo) {s : State} (sound : s.Sound) : SoundAfter (execLclaim rd ra s) := by
  unfold execLclaim
  extract_lets v n
  rw [soundAfter_ite]
  split
  · simp [sound]
  · split <;> simp [sound]

theorem soundAfter_execLrelease (ra : RegNo) {s : State} (sound : s.Sound) : SoundAfter (execLrelease ra s) := by
  unfold execLrelease
  split <;> simp [sound]

@[simp] theorem soundAfter_execLzero (ra : RegNo) (s : State) : SoundAfter (execLzero ra s) ↔ Memory.wf s.mem = true := by
  simp [execLzero]

@[simp] theorem soundAfter_execLmmaO (ra rb : RegNo) (s : State) : SoundAfter (execLmmaO ra rb s) ↔ Memory.wf s.mem = true := by
  simp [execLmmaO]

@[simp] theorem soundAfter_execLmmaR (ra rb : RegNo) (s : State) : SoundAfter (execLmmaR ra rb s) ↔ Memory.wf s.mem = true := by
  simp [execLmmaR]

theorem soundAfter_execLdrain (rd ra : RegNo) {s : State} (sound : s.Sound) : SoundAfter (execLdrain rd ra s) := by
  simp [execLdrain, sound]

@[simp] theorem soundAfter_execFence (ra : RegNo) (s : State) : SoundAfter (execFence ra s) ↔ Memory.wf s.mem = true := by
  simp [execFence]

theorem soundAfter_execBarr (ra : RegNo) {s : State} (sound : s.Sound) : SoundAfter (execBarr ra s) := by
  simp [execBarr, sound]

theorem soundAfter_execGbar {s : State} (sound : s.Sound) : SoundAfter (execGbar s) := by
  simp [execGbar, sound]

theorem soundAfter_execVote (rd ra : RegNo) (comb : BitVec 3) {s : State} (sound : s.Sound) :
    SoundAfter (execVote rd ra comb s) := by
  simp [execVote, sound]

theorem soundAfter_execWait (ra rb : RegNo) {s : State} (sound : s.Sound) : SoundAfter (execWait ra rb s) := by
  have acc := sound_access sound (s.rx ra) (.load 8) true
  unfold execWait
  split
  next e => rw [e] at acc; simpa using acc
  next e => rw [e] at acc; simpa using acc
  next e => rw [e] at acc; simpa using acc
  next => exact soundAfter_other sound acc

theorem soundAfter_execWake (ra : RegNo) {s : State} (sound : s.Sound) : SoundAfter (execWake ra s) := by
  have tr := sound_translate sound (s.who s.cur) (s.rx ra) .r
  simp only [execWake]
  split
  · simp [sound]
  · split
    · simp [sound]
    · split
      next e => rw [e] at tr; simpa using tr
      next e => rw [e] at tr; exact State.deliver_sound tr _
      next e => rw [e] at tr; simpa using tr
      next e => rw [e] at tr; split <;> simpa using tr

@[simp] theorem soundAfter_execLpatch (ra rb : RegNo) (field : BitVec 3) (s : State) :
    SoundAfter (execLpatch ra rb field s) ↔ Memory.wf s.mem = true := by
  simp [execLpatch]

@[simp] theorem soundAfter_execLarm (ra : RegNo) (s : State) : SoundAfter (execLarm ra s) ↔ Memory.wf s.mem = true := by
  simp [execLarm]

@[simp] theorem soundAfter_execTrap (code : BitVec 8) (s : State) : SoundAfter (execTrap code s) ↔ Memory.wf s.mem = true := by
  simp [execTrap]

theorem soundAfter_execEret {s : State} (sound : s.Sound) : SoundAfter (execEret s) := by
  simp only [execEret]
  split
  · simp [sound]
  · split
    · simp [sound]
    · exact sound

@[simp] theorem soundAfter_execUpret (s : State) : SoundAfter (execUpret s) ↔ Memory.wf s.mem = true := by
  simp [execUpret]

@[simp] theorem soundAfter_execIrefresh (s : State) : SoundAfter (execIrefresh s) ↔ Memory.wf s.mem = true := by
  simp [execIrefresh]

theorem soundAfter_execWSt {s : State} (sound : s.Sound) (h : WHdr) (wd wa wb : RegNo)
    (wid : BitVec 2) :
    SoundAfter (execWSt h wd wa wb wid s) := by
  refine soundAfter_word sound _ fun b => ?_
  split
  · exact sound
  · split
    · exact sound
    · split
      · exact sound
      · split <;> exact sound

theorem soundAfter_execWSpld {s : State} (sound : s.Sound) (h : WHdr) (wd wa wb : RegNo) :
    SoundAfter (execWSpld h wd wa wb s) := by
  refine soundAfter_word sound h fun b => ?_
  split
  · exact sound
  · split
    · exact sound
    · split
      · exact sound
      · split
        · simp [sound]
        · split
          · exact sound
          · split <;> simp [sound]

theorem soundAfter_execWSpst {s : State} (sound : s.Sound) (h : WHdr) (wd wa wb : RegNo) :
    SoundAfter (execWSpst h wd wa wb s) := by
  refine soundAfter_word sound h fun b => ?_
  split
  · exact sound
  · split
    · exact sound
    · split
      · exact sound
      · split
        · exact sound
        · split <;> simp [sound]

theorem soundAfter_execWThfetchr {s : State} (sound : s.Sound) (h : WHdr) (wa : RegNo) :
    SoundAfter (execWThfetchr h wa s) := by
  refine soundAfter_word sound _ fun b => ?_
  split <;> exact sound

/-! ### Steps of other agents -/

theorem soundAfter_execEmulationTrip {s : State} (sound : s.Sound) : SoundAfter (execEmulationTrip s) := by
  simp only [execEmulationTrip]
  split
  · split
    · exact sound
    · split
      · exact sound
      · simp [sound]
  · exact sound

theorem soundAfter_execPostedStoreFault {s : State} (sound : s.Sound) : SoundAfter (execPostedStoreFault s) := by
  simp only [execPostedStoreFault]
  split
  · simp [sound]
  · exact sound

theorem soundAfter_execPromptTrap {s : State} (sound : s.Sound) : SoundAfter (execPromptTrap s) := by
  simp only [execPromptTrap]
  split
  · simp [sound]
  · exact sound

theorem soundAfter_execVsyncReturn {s : State} (sound : s.Sound) : SoundAfter (execVsyncReturn s) := by
  simp only [execVsyncReturn]
  split
  · simp [sound]
  · exact sound

theorem soundAfter_execVsyncTimeout {s : State} (sound : s.Sound) : SoundAfter (execVsyncTimeout s) := by
  simp only [execVsyncTimeout]
  split
  · simp [sound]
  · exact sound

theorem soundAfter_execVectorRequestPacket {s : State} (sound : s.Sound) : SoundAfter (execVectorRequestPacket s) := by
  simp only [execVectorRequestPacket]
  split
  · split
    · split
      · simp [sound]
      · exact sound
    · simp [sound]
  · exact sound

theorem soundAfter_execVectorAccessDone {s : State} (sound : s.Sound) : SoundAfter (execVectorAccessDone s) := by
  simp only [execVectorAccessDone]
  split
  · simp [sound]
  · exact sound

theorem soundAfter_execBlockBegin {s : State} (sound : s.Sound) : SoundAfter (execBlockBegin s) := by
  unfold execBlockBegin
  extract_lets c i x
  split
  · exact sound
  · split
    · split
      · rw [soundAfter_ite]
        simp [sound]
      · rw [soundAfter_ite]
        extract_lets k t e held u v
        have hu : u.Sound := by simp [u, t, sound]
        clear_value u
        have hv : v.Sound := by
          simp only [v]
          split
          · split
            · exact hu
            · simpa using hu
          · exact hu
        rw [soundAfter_next, soundAfter_next, State.sweepSeq_mem]
        generalize s.beginWaits _ _ _ = waits
        cases waits
        · exact hv
        · exact sound
    · exact sound

theorem soundAfter_execBlockCommit {s : State} (sound : s.Sound) : SoundAfter (execBlockCommit s) := by
  simp only [execBlockCommit]
  split
  · exact sound
  next b _ =>
    split
    · exact sound
    · split
      · simp [sound]
      · split
        · simp [sound]
        · split
          · simp [sound]
          · split
            next bad =>
              split at bad
              · exact nomatch bad
              · simpa using sound_of_mem (narrowBad_mem bad) sound
            next =>
              have commit := sound_commitStores s.arg.unit s.arg.index b.localStores sound b.w b.dirty
              split
              · simp [sound]
              · simp [sound]
              next e =>
                rw [e] at commit
                split
                · simp [sound]
                · simp only [soundAfter_next, State.sweepSeq_mem, State.rotate_mem, State.letGo_mem]
                  exact State.putMt_sound (by simpa using commit) _ _ _

theorem soundAfter_execSetvlGrantReturn {s : State} (sound : s.Sound) : SoundAfter (execSetvlGrantReturn s) := by
  simp only [execSetvlGrantReturn]
  split
  · split
    · simp [sound]
    · split
      · split
        next fails => exact spillFails_sound sound fails
        next => simp [sound]
      · exact sound
  · exact sound

theorem soundAfter_execLaneRotation {s : State} (sound : s.Sound) : SoundAfter (execLaneRotation s) := by
  simp only [execLaneRotation]
  split
  · split
    · simp [sound]
    · exact sound
  · exact sound

theorem soundAfter_execSpillComplete {s : State} (sound : s.Sound) : SoundAfter (execSpillComplete s) := by
  simp [execSpillComplete, sound]

theorem soundAfter_execRestoreComplete {s : State} (sound : s.Sound) : SoundAfter (execRestoreComplete s) := by
  simp only [execRestoreComplete]
  split
  · split
    next fails => exact spillFails_sound sound fails
    next => simp [sound]
  · exact sound

theorem soundAfter_execLaneClearingDone {s : State} (sound : s.Sound) : SoundAfter (execLaneClearingDone s) := by
  simp only [execLaneClearingDone]
  split
  · exact sound
  next w _ =>
    have cleared := clearRange_sound sound (scratchKey s.arg.unit w.lane) 0xF000
    refine State.poolStep_sound ?_ _
    split
    · rw [State.Sound, State.dropSquare_mem]
      exact State.takeOut_sound (by simpa using cleared) _ _
    · split
      · exact State.joinLane_sound (by simpa using cleared) _ _
      · simpa using cleared

theorem soundAfter_execFrameBoundary {s : State} (sound : s.Sound) : SoundAfter (execFrameBoundary s) := by
  simp [execFrameBoundary, sound]

@[simp] theorem soundAfter_execRevocationDeadline (s : State) : SoundAfter (execRevocationDeadline s) ↔ Memory.wf s.mem = true := by
  simp [execRevocationDeadline]

theorem soundAfter_execContextSave {s : State} (sound : s.Sound) : SoundAfter (execContextSave s) := by
  simp [execContextSave, sound]

@[simp] theorem soundAfter_execSysRevocation (s : State) : SoundAfter (execSysRevocation s) ↔ Memory.wf s.mem = true := by
  simp [execSysRevocation]

theorem soundAfter_execLaneRetirement {s : State} (sound : s.Sound) : SoundAfter (execLaneRetirement s) := by
  simp [execLaneRetirement, sound]

@[simp] theorem soundAfter_execPowerPressure (s : State) : SoundAfter (execPowerPressure s) ↔ Memory.wf s.mem = true := by
  simp [execPowerPressure]

@[simp] theorem soundAfter_execPowerPressureEnd (s : State) : SoundAfter (execPowerPressureEnd s) ↔ Memory.wf s.mem = true := by
  simp [execPowerPressureEnd]

@[simp] theorem soundAfter_execClockHop (s : State) : SoundAfter (execClockHop s) ↔ Memory.wf s.mem = true := by
  simp only [execClockHop]
  split <;> simp

theorem soundAfter_execDroopDuringHop {s : State} (sound : s.Sound) : SoundAfter (execDroopDuringHop s) := by
  simp only [execDroopDuringHop]
  split
  · simp [sound]
  · exact sound

theorem soundAfter_execClockHopRetry {s : State} (sound : s.Sound) : SoundAfter (execClockHopRetry s) := by
  simp only [execClockHopRetry]
  split
  · simp [sound]
  · exact sound

theorem soundAfter_execFenceReturn {s : State} (sound : s.Sound) : SoundAfter (execFenceReturn s) := by
  simp only [execFenceReturn]
  split
  · simp [sound]
  · exact sound

@[simp] theorem soundAfter_execBarrierComplete (s : State) : SoundAfter (execBarrierComplete s) ↔ Memory.wf s.mem = true := by
  unfold execBarrierComplete
  split <;> simp

theorem soundAfter_execGbarComplete {s : State} (sound : s.Sound) : SoundAfter (execGbarComplete s) := by
  unfold execGbarComplete
  split <;> simp [sound]

@[simp] theorem soundAfter_execVoteComplete (s : State) : SoundAfter (execVoteComplete s) ↔ Memory.wf s.mem = true := by
  unfold execVoteComplete
  split <;> simp

@[simp] theorem soundAfter_execBarrierTimeout (s : State) : SoundAfter (execBarrierTimeout s) ↔ Memory.wf s.mem = true := by
  unfold execBarrierTimeout
  split <;> simp

theorem soundAfter_execWaitReturn {s : State} (sound : s.Sound) : SoundAfter (execWaitReturn s) := by
  simp only [execWaitReturn]
  split
  next va _ =>
    split
    · simp [sound]
    · split
      · simp [sound]
      · split
        · exact sound
        · have acc := sound_access (s := { s with cur := s.arg.unit }) sound va (.load 8) true
          split
          next e =>
            rw [e] at acc
            simp only [soundAfter_next, ite_mem, State.setCtx_mem, wf_ite]
            split <;> simpa using acc
          next => exact soundAfter_other sound acc
  · exact sound

theorem soundAfter_execHubLpatchRequest {s : State} (sound : s.Sound) : SoundAfter (execHubLpatchRequest s) := by
  simp only [execHubLpatchRequest]
  split
  · simp [sound]
  · exact sound

theorem soundAfter_execHubLarmRequest {s : State} (sound : s.Sound) : SoundAfter (execHubLarmRequest s) := by
  simp only [execHubLarmRequest]
  split
  · simp [sound]
  · exact sound

theorem soundAfter_execHaltDrainEnd {s : State} (sound : s.Sound) : SoundAfter (execHaltDrainEnd s) := by
  simp only [execHaltDrainEnd]
  split
  · split
    · exact sound
    · split
      · simp [sound]
      · split
        · exact sound
        · refine State.poolStep_sound (State.drainBuf_sound ?_) _
          have ended := fun x : LRec => State.endContext_sound
            (s := s.setRec (s.ctx s.arg.unit).recIdx.toNat x) (by simpa using sound) s.arg.unit
          split <;> simpa using ended _
  · exact sound

theorem soundAfter_execDoneMessage {s : State} (sound : s.Sound) : SoundAfter (execDoneMessage s) := by
  have drained := State.drainLate_sound sound
  simp only [execDoneMessage]
  split
  · split
    · exact State.finishGang_sound drained _ _
    · simpa using drained
  · exact drained

theorem soundAfter_execAgingTick {s : State} (sound : s.Sound) : SoundAfter (execAgingTick s) := by
  simp only [execAgingTick]
  split
  · exact State.pass_sound sound
  · exact sound

@[simp] theorem soundAfter_execRetentionRelease (s : State) : SoundAfter (execRetentionRelease s) ↔ Memory.wf s.mem = true := by
  simp [execRetentionRelease]

theorem soundAfter_execPreemptionStop {s : State} (sound : s.Sound) : SoundAfter (execPreemptionStop s) := by
  simp only [execPreemptionStop]
  split
  · exact sound
  · exact State.discardStop_sound sound _
  next hold m _ _ =>
    generalize stopped : List.foldl _ s _ = t
    have ht : t.Sound := by
      rw [← stopped]
      refine foldl_sound (fun t c canonical => ?_) _ sound
      split
      · rw [State.Sound, State.revoke_mem]
        exact State.atStop_sound canonical c
      · exact canonical
    have answered : ∀ (p : Prop) [Decidable p] (v : Word) {u : State}, u.Sound → (if p then u.answer m v else u).Sound :=
      fun p _ v u canonical => by
        split
        · exact State.answer_sound canonical m v
        · exact canonical
    split
    · exact ht
    · split
      · exact State.poolsOf_sound (answered (m < 17) 2 (by simpa using ht)) _
      · exact State.pass_sound (State.poolsOf_sound (answered (m < 17) 1 (State.saveGang_sound (State.applyAllWaiting_sound
          (foldl_sound (fun _ _ canonical => State.saveCrew_sound canonical _) _ ht) _) _ _)) _)

theorem soundAfter_execRollback {s : State} (sound : s.Sound) : SoundAfter (execRollback s) := by
  simp only [execRollback]
  split
  · refine State.poolsOf_sound ?_ _
    rw [State.Sound, scrivener_mem, State.lowerLines_mem]
    refine foldl_sound (fun t p canonical => ?_) _ ?_
    · split
      next snap => exact restoreSnapshot_sound canonical snap
      next =>
        rw [State.Sound, State.noteBad_mem]
        exact State.failContext_sound (by simpa using canonical) _
    · rw [State.Sound, State.setRec_mem, foldl_mem (fun _ _ => State.stopForRollback_mem ..)]
      exact State.applyAllWaiting_sound sound _
  · exact sound

theorem soundAfter_execDroverMove {s : State} (sound : s.Sound) : SoundAfter (execDroverMove s) := by
  simp only [execDroverMove]
  split
  · refine State.poolsOf_sound ?_ _
    rw [State.Sound, scrivener_mem, foldl_mem (fun _ _ => State.fitClock_mem ..), State.setRec_mem]
    exact foldl_sound (fun _ _ canonical => State.moveContext_sound canonical _ _ _) _
      (State.applyAllWaiting_sound sound _)
  · split
    · simp [sound]
    · exact sound

theorem soundAfter_execEwaitReturn {s : State} (sound : s.Sound) : SoundAfter (execEwaitReturn s) := by
  simp only [execEwaitReturn]
  split
  · split
    · exact sound
    · split
      · exact sound
      · simp [sound]
  · exact sound

theorem soundAfter_execCopyJobComplete {s : State} (sound : s.Sound) : SoundAfter (execCopyJobComplete s) := by
  unfold execCopyJobComplete
  split <;> simp [sound]

theorem soundAfter_execGleanerJobComplete {s : State} (sound : s.Sound) : SoundAfter (execGleanerJobComplete s) := by
  unfold execGleanerJobComplete
  split <;> simp [sound]

theorem soundAfter_execPacketReport {s : State} (sound : s.Sound) : SoundAfter (execPacketReport s) := by
  simp only [execPacketReport]
  split
  · exact sound
  · split
    · exact sound
    next reply =>
      have taken := sound_of_mem (takeReply_mem reply) sound
      rw [soundAfter_next]
      split
      · exact State.stopJob_sound (by simpa using taken) _ _ _
      · exact State.runJob_sound (by simpa using taken) _ _ _ _

theorem soundAfter_execJobStart {s : State} (sound : s.Sound) : SoundAfter (execJobStart s) := by
  simp only [execJobStart]
  split
  · simp [sound]
  · split
    · exact sound
    · simp [sound]

theorem soundAfter_execLoomTokenWaitEnd {s : State} (sound : s.Sound) : SoundAfter (execLoomTokenWaitEnd s) := by
  simp only [execLoomTokenWaitEnd]
  split
  · exact sound
  · simp [sound]

theorem soundAfter_execLoomChunk {s : State} (sound : s.Sound) : SoundAfter (execLoomChunk s) := by
  simp only [execLoomChunk]
  split
  · exact sound
  · split
    · exact sound
    · split <;> simp [sound]

@[simp] theorem soundAfter_execTlbinvWrite (s : State) : SoundAfter (execTlbinvWrite s) ↔ Memory.wf s.mem = true := by
  simp [execTlbinvWrite]

theorem soundAfter_execWindowStoreArrival {s : State} (sound : s.Sound) : SoundAfter (execWindowStoreArrival s) := by
  simp only [execWindowStoreArrival]
  split
  · simp [sound]
  · split
    · split
      · exact sound
      · split
        · simp [sound]
        · split <;> simp [sound]
    · exact sound

theorem soundAfter_execWindowLoadArrival {s : State} (sound : s.Sound) : SoundAfter (execWindowLoadArrival s) := by
  unfold execWindowLoadArrival
  split <;> simp [sound]

theorem soundAfter_execLoadDataReturn {s : State} (sound : s.Sound) : SoundAfter (execLoadDataReturn s) := by
  unfold execLoadDataReturn
  split <;> simp [sound]

@[simp] theorem soundAfter_execUnitWakeUp (s : State) : SoundAfter (execUnitWakeUp s) ↔ Memory.wf s.mem = true := by
  unfold execUnitWakeUp
  split <;> simp

@[simp] theorem soundAfter_execDoorbell (s : State) : SoundAfter (execDoorbell s) ↔ Memory.wf s.mem = true := by
  simp [execDoorbell]

@[simp] theorem soundAfter_execRegisterWrite (s : State) : SoundAfter (execRegisterWrite s) ↔ Memory.wf s.mem = true := by
  simp [execRegisterWrite]

theorem soundAfter_execUndefinedMailboxOpcode {s : State} (sound : s.Sound) :
    SoundAfter (execUndefinedMailboxOpcode s) := by
  unfold execUndefinedMailboxOpcode
  split <;> simp [sound]

theorem soundAfter_execBuild {s : State} (sound : s.Sound) : SoundAfter (execBuild s) := by
  refine soundAfter_command1 sound _ fun m q => ?_
  dsimp only
  split
  · trivial
  · split <;> simp [sound]

theorem soundAfter_execRelease {s : State} (sound : s.Sound) : SoundAfter (execRelease s) :=
  soundAfter_command1 sound _ fun _ _ => optSound_guard _ (by simp [sound])

theorem soundAfter_execCfgstage {s : State} (sound : s.Sound) : SoundAfter (execCfgstage s) := by
  refine soundAfter_command1 sound _ fun m q => ?_
  split
  · trivial
  · split <;> simp [sound]

theorem soundAfter_execWlogrc {s : State} (sound : s.Sound) : SoundAfter (execWlogrc s) :=
  soundAfter_command1 sound _ fun _ _ => optSound_guard _ (by simp [sound])

theorem soundAfter_execMember {s : State} (sound : s.Sound) : SoundAfter (execMember s) :=
  soundAfter_command1 sound _ fun _ _ => optSound_guard _ (by simp [sound])

theorem soundAfter_execGroup {s : State} (sound : s.Sound) : SoundAfter (execGroup s) := by
  refine soundAfter_command1 sound _ fun m q => ?_
  dsimp only
  split
  · trivial
  · split
    · trivial
    · split
      · trivial
      · split
        · trivial
        · split <;> simp [sound]

theorem soundAfter_execColl {s : State} (sound : s.Sound) : SoundAfter (execColl s) := by
  refine soundAfter_command sound _ fun m q => ?_
  split
  · trivial
  · dsimp only
    split <;> simp [sound]

theorem soundAfter_execSavereg {s : State} (sound : s.Sound) : SoundAfter (execSavereg s) :=
  soundAfter_command1 sound _ fun _ _ => optSound_guard _ (by simp [sound])

theorem soundAfter_execPreempt {s : State} (sound : s.Sound) : SoundAfter (execPreempt s) := by
  simp only [execPreempt]
  split
  · exact sound
  · simp [sound]

theorem soundAfter_execResume {s : State} (sound : s.Sound) : SoundAfter (execResume s) :=
  soundAfter_command1 sound _ fun _ _ => optSound_guard _ (by simp [sound])

theorem soundAfter_execImportImg {s : State} (sound : s.Sound) : SoundAfter (execImportImg s) := by
  refine soundAfter_command1' sound _ fun m q => ?_
  dsimp only
  rw [apply_ite (ExceptAll _ _), apply_ite (ExceptAll _ _)]
  simp only [ExceptAll, State.Sound, State.noteImages_mem, State.setRec_mem, ite_self]
  exact sound

theorem soundAfter_execPrq {s : State} (sound : s.Sound) : SoundAfter (execPrq s) :=
  soundAfter_command1 sound _ fun _ _ => optSound_guard _ (by simp [sound])

theorem soundAfter_execSnapreg {s : State} (sound : s.Sound) : SoundAfter (execSnapreg s) :=
  soundAfter_command1 sound _ fun _ _ => optSound_guard _ (by simp [sound])

theorem soundAfter_execPclear {s : State} (sound : s.Sound) : SoundAfter (execPclear s) :=
  soundAfter_command1 sound _ fun _ _ => optSound_guard _ (by simp [sound])

theorem soundAfter_execSummary {s : State} (sound : s.Sound) : SoundAfter (execSummary s) :=
  soundAfter_command1 (sound_of_mem (State.settleLines_mem s) sound) _ fun _ _ =>
    optSound_guard _ (State.physWrite_sound _ sound _)

theorem soundAfter_execHostRequest {s : State} (sound : s.Sound) : SoundAfter (execHostRequest s) := by
  unfold execHostRequest
  split <;> simp [sound]

theorem sound_remoteLoad {s : State} (sound : s.Sound) (q : RemoteReq) (n : Nat) :
    RemoteSound (s.remoteLoad q n) := by
  simp only [State.remoteLoad]
  split
  · trivial
  · split
    · split <;> exact sound
    · simp [sound]

theorem sound_remoteWrite {s : State} (sound : s.Sound) (q : RemoteReq) (ds : List (Nat × Datum)) :
    RemoteSound (s.remoteWrite q ds) := by
  have put := fun whole => remotePut_sound (s.remoteWho q) whole ds sound
  simp only [State.remoteWrite]
  split
  · trivial
  · split
    next e =>
      have := put (fun a => (List.range 32).all (fun k => ds.any (fun e => e.1 == a / 256 * 256 + 8 * k)))
      rw [e] at this
      exact sound_of_mem (State.remoteSettle_mem ..) this
    next e =>
      have := put (fun a => (List.range 32).all (fun k => ds.any (fun e => e.1 == a / 256 * 256 + 8 * k)))
      rw [e] at this
      exact this

theorem sound_remoteMerge {s : State} (sound : s.Sound) (q : RemoteReq) (op : MemOp) :
    RemoteSound (s.remoteMerge q op) := by
  simp only [State.remoteMerge]
  split
  · split <;> simp [sound]
  · have acc := sound_memAccess sound (s.remoteWho q) { pa := q.pa, skew := 0, attr := 1 } (q.word 1) op
    split
    next e => rw [e] at acc; exact acc
    next e => rw [e] at acc; exact acc
    next => trivial

theorem sound_remoteServe {s : State} (sound : s.Sound) (q : RemoteReq) :
    RemoteSound (s.remoteServe q) := by
  simp only [State.remoteServe]
  split
  · exact sound
  · split
    · exact sound_remoteLoad sound ..
    · split
      · exact sound_remoteWrite sound ..
      · exact sound_remoteMerge sound ..
    · exact sound_remoteMerge sound ..
    · exact sound_remoteWrite sound ..
    · exact sound_remoteWrite sound ..

theorem soundAfter_execRemoteRequest {s : State} (sound : s.Sound) : SoundAfter (execRemoteRequest s) := by
  simp only [execRemoteRequest]
  split
  · exact sound
  next q _ =>
    have served := sound_remoteServe sound q
    split
    · exact sound
    next e => rw [e] at served; simpa using served

@[simp] theorem soundAfter_execLockInterfaceRequest (s : State) :
    SoundAfter (execLockInterfaceRequest s) ↔ Memory.wf s.mem = true := by
  simp [execLockInterfaceRequest]

@[simp] theorem soundAfter_execGetDeviceInterfaceReport (s : State) :
    SoundAfter (execGetDeviceInterfaceReport s) ↔ Memory.wf s.mem = true := by
  simp [execGetDeviceInterfaceReport]

@[simp] theorem soundAfter_execStartInterfaceRequest (s : State) :
    SoundAfter (execStartInterfaceRequest s) ↔ Memory.wf s.mem = true := by
  simp [execStartInterfaceRequest]

theorem soundAfter_execStopInterfaceRequest {s : State} (sound : s.Sound) :
    SoundAfter (execStopInterfaceRequest s) := by
  simp only [execStopInterfaceRequest]
  split
  · exact sound
  · split
    · simp [sound]
    · split
      · simp [sound]
      · simp only [soundAfter_next, State.say_mem, State.setTdisp_mem]
        split
        · exact foldl_sound (fun _ _ canonical => State.withdraw_sound canonical _) _ sound
        · exact sound

theorem soundAfter_execLockedBarWrite {s : State} (sound : s.Sound) : SoundAfter (execLockedBarWrite s) := by
  simp [execLockedBarWrite, sound]

theorem soundAfter_execIdeIntegrityFailure {s : State} (sound : s.Sound) : SoundAfter (execIdeIntegrityFailure s) := by
  simp [execIdeIntegrityFailure, sound]

@[simp] theorem soundAfter_execSpdmMeasurement (s : State) : SoundAfter (execSpdmMeasurement s) ↔ Memory.wf s.mem = true := by
  unfold execSpdmMeasurement
  split <;> simp

@[simp] theorem soundAfter_execFlitReceive (s : State) : SoundAfter (execFlitReceive s) ↔ Memory.wf s.mem = true := by
  simp [execFlitReceive]

@[simp] theorem soundAfter_execAcknowledgement (s : State) : SoundAfter (execAcknowledgement s) ↔ Memory.wf s.mem = true := by
  simp [execAcknowledgement]

@[simp] theorem soundAfter_execNegativeAcknowledgement (s : State) :
    SoundAfter (execNegativeAcknowledgement s) ↔ Memory.wf s.mem = true := by
  simp [execNegativeAcknowledgement]

@[simp] theorem soundAfter_execLaneLost (s : State) : SoundAfter (execLaneLost s) ↔ Memory.wf s.mem = true := by
  simp [execLaneLost]

theorem soundAfter_execRetrainDone {s : State} (sound : s.Sound) : SoundAfter (execRetrainDone s) := by
  simp only [execRetrainDone]
  split
  · exact sound
  · split
    · simp [sound]
    · exact sound

theorem soundAfter_execCollectiveRoundDone {s : State} (sound : s.Sound) : SoundAfter (execCollectiveRoundDone s) := by
  simp only [execCollectiveRoundDone]
  split
  · exact sound
  next r _ =>
    split
    · simp [sound]
    · split
      · simp [sound]
      · have part := sound_ownPart sound (s.group s.arg.unit) r.desc
        split
        next e => rw [e] at part; exact State.abortFirst_sound part _ _ _
        next => simp [sound]

theorem soundAfter_execCollectiveTimeout {s : State} (sound : s.Sound) : SoundAfter (execCollectiveTimeout s) := by
  simp only [execCollectiveTimeout]
  split
  · exact sound
  · simp [sound]

theorem soundAfter_execAbortMessage {s : State} (sound : s.Sound) : SoundAfter (execAbortMessage s) := by
  simp only [execAbortMessage]
  split
  · exact sound
  · split
    · exact sound
    · simp [sound]

theorem soundAfter_execTimeSlotStart {s : State} (sound : s.Sound) : SoundAfter (execTimeSlotStart s) := by
  simp only [execTimeSlotStart]
  split
  · simp [sound]
  · split
    · simp [sound]
    · split <;> simp [sound]

theorem soundAfter_execChannelRequest {s : State} (sound : s.Sound) : SoundAfter (execChannelRequest s) := by
  simp [execChannelRequest, sound]

theorem soundAfter_execBounceReceived {s : State} (sound : s.Sound) : SoundAfter (execBounceReceived s) :=
  foldl_sound (fun _ _ canonical => State.reqArrives_sound canonical _) _ sound

theorem soundAfter_execStackAnswerTimeout {s : State} (sound : s.Sound) : SoundAfter (execStackAnswerTimeout s) := by
  simp only [execStackAnswerTimeout]
  split
  · exact sound
  · simp [sound]

@[simp] theorem soundAfter_execStackRetirementStart (s : State) :
    SoundAfter (execStackRetirementStart s) ↔ Memory.wf s.mem = true := by
  simp [execStackRetirementStart]

@[simp] theorem soundAfter_execRetirementEnd (s : State) : SoundAfter (execRetirementEnd s) ↔ Memory.wf s.mem = true := by
  simp only [execRetirementEnd]
  split <;> simp

@[simp] theorem soundAfter_execStackDead (s : State) : SoundAfter (execStackDead s) ↔ Memory.wf s.mem = true := by
  simp only [execStackDead]
  split
  · simp
  · split
    · split <;> simp
    · split <;> simp

@[simp] theorem soundAfter_execWayRetirement (s : State) : SoundAfter (execWayRetirement s) ↔ Memory.wf s.mem = true := by
  simp [execWayRetirement]

theorem soundAfter_execColdReset {s : State} (sound : s.Sound) : SoundAfter (execColdReset s) := by
  simp only [execColdReset]
  split
  · exact sound
  · simp only [soundAfter_next, State.enumerate_mem]
    rw [foldl_mem (fun _ _ => State.coreFails_mem ..), State.loadStacks_mem, State.keepModel_mem]
    rfl

theorem soundAfter_execWarmReset {s : State} (sound : s.Sound) : SoundAfter (execWarmReset s) := by
  have kept := Memory.wf_filter (fun c => memoryKey c.1) (sound_of_mem (State.settleLines_mem s) sound)
  simp only [execWarmReset]
  split
  · exact kept
  · simp only [soundAfter_next]
    rw [foldl_mem (fun _ _ => State.coreFails_mem ..), State.keepModel_mem]
    exact kept

theorem soundAfter_execDispositionSet {s : State} (sound : s.Sound) : SoundAfter (execDispositionSet s) := by
  simp only [execDispositionSet]
  split
  · split
    · rw [soundAfter_next]
      split
      · exact sound
      · exact State.poolStep_sound (by simpa using sound) _
    · exact sound
  · split
    · refine State.coreOut_sound ?_ _
      exact sound
    · exact sound

/-! ### Every instruction -/

/-- An instruction of a control thread leaves storage canonical. -/
theorem soundAfter_exec_of_control {i : Instr} (control : i.streamOf = .control) {s : State} (sound : s.Sound) :
    SoundAfter (exec i s) := by
  cases i with
  | add | sub | and_ | or_ | xor_ | andn | orn | xnor | sll | srl | sra | rol | ror | slt | sltu | seq | sne | min_
  | max_ | minu | maxu | clz | ctz | popc | sextb | sexth | sextw | addi | andi | ori | xori | slli | srli | srai
  | rori | slti | sltiu | seqi | fadd | fsub | fmul | fmin | fmax | fabs | fneg | fmadd | fmsub | fnmadd | fnmsub
  | feq | flt | fle | fcvtL | fcvtLu | fcvtFromL | fcvtFromLu | fcvtW | fcvtWu | fcvtFromW | fcvtFromWu | fcvtDS
  | fcvtSD | fclass | beq | bne | blt | bge | bltu | bgeu | jal | lui | auipc | jalr | vsetc | ecfg | erd | ewait
  | abortq | halt | discover | abort => exact sound
  | mul | mulh | mulhu | mulhsu | div | divu | rem | remu => exact soundAfter_class3 (sound := sound) ..
  | fdiv | fsqrt => exact soundAfter_unitC sound _ _ _ _ sound
  | lb | lh | lw | ld | lbu | lhu | lwu => exact soundAfter_load (sound := sound) ..
  | sb | sh | sw | sd => exact soundAfter_store (sound := sound) ..
  | amoadd | amoswap | amocas | amomin | amomax | amominu | amomaxu | amoand | amoor => exact soundAfter_atomic (sound := sound) ..
  | callt => exact soundAfter_execCallt (sound := sound) ..
  | loop_ => exact (soundAfter_execLoop ..).mpr sound
  | csrr | csrw | csrs | csrc => exact soundAfter_csrGuard sound _ _ (by simp [sound])
  | setvl => exact soundAfter_execSetvl (sound := sound) ..
  | vfetch | vloop => exact (soundAfter_broadcast ..).mpr sound
  | vsync => exact (soundAfter_execVsync ..).mpr sound
  | vget => exact (soundAfter_execVget ..).mpr sound
  | vput => exact soundAfter_execVput (sound := sound) ..
  | vld | vst | vlds | vsts | vldx | vstx => exact soundAfter_vector (sound := sound) ..
  | vldb => exact soundAfter_execVldb (sound := sound) ..
  | stream => exact soundAfter_execStream (sound := sound) ..
  | copyj => exact soundAfter_execCopyj (sound := sound) ..
  | gleanj => exact soundAfter_execGleanj (sound := sound) ..
  | lclaim rd ra =>
    have := soundAfter_execLclaim rd ra sound
    exact this
  | lrelease => exact soundAfter_execLrelease (sound := sound) ..
  | lzero => exact (soundAfter_execLzero ..).mpr sound
  | lmmaO => exact (soundAfter_execLmmaO ..).mpr sound
  | lmmaR => exact (soundAfter_execLmmaR ..).mpr sound
  | ldrain => exact soundAfter_execLdrain (sound := sound) ..
  | fence => exact (soundAfter_execFence ..).mpr sound
  | barr => exact soundAfter_execBarr (sound := sound) ..
  | vote => exact soundAfter_execVote (sound := sound) ..
  | wait => exact soundAfter_execWait (sound := sound) ..
  | wake => exact soundAfter_execWake (sound := sound) ..
  | lpatch => exact (soundAfter_execLpatch ..).mpr sound
  | larm => exact (soundAfter_execLarm ..).mpr sound
  | trap => exact (soundAfter_execTrap ..).mpr sound
  | endloop => exact (soundAfter_execEndloop ..).mpr sound
  | gbar => exact soundAfter_execGbar (sound := sound) ..
  | eret => exact soundAfter_execEret (sound := sound) ..
  | upret => exact (soundAfter_execUpret ..).mpr sound
  | irefresh => exact (soundAfter_execIrefresh ..).mpr sound
  | _ => exact nomatch control

/-- So does a step of another agent. -/
theorem soundAfter_exec_of_event {i : Instr} (event : i.streamOf = .event) {s : State} (sound : s.Sound) :
    SoundAfter (exec i s) := by
  cases i with
  | tlbinvWrite => exact (soundAfter_execTlbinvWrite ..).mpr sound
  | setvlGrantReturn => exact soundAfter_execSetvlGrantReturn (sound := sound) ..
  | vsyncReturn => exact soundAfter_execVsyncReturn (sound := sound) ..
  | vectorAccessDone => exact soundAfter_execVectorAccessDone (sound := sound) ..
  | ewaitReturn => exact soundAfter_execEwaitReturn (sound := sound) ..
  | fenceReturn => exact soundAfter_execFenceReturn (sound := sound) ..
  | barrierComplete => exact (soundAfter_execBarrierComplete ..).mpr sound
  | gbarComplete => exact soundAfter_execGbarComplete (sound := sound) ..
  | voteComplete => exact (soundAfter_execVoteComplete ..).mpr sound
  | waitReturn => exact soundAfter_execWaitReturn (sound := sound) ..
  | hubLpatchRequest => exact soundAfter_execHubLpatchRequest (sound := sound) ..
  | hubLarmRequest => exact soundAfter_execHubLarmRequest (sound := sound) ..
  | haltDrainEnd => exact soundAfter_execHaltDrainEnd (sound := sound) ..
  | doneMessage => exact soundAfter_execDoneMessage (sound := sound) ..
  | blockBegin => exact soundAfter_execBlockBegin (sound := sound) ..
  | blockCommit => exact soundAfter_execBlockCommit (sound := sound) ..
  | loadDataReturn => exact soundAfter_execLoadDataReturn (sound := sound) ..
  | laneRotation => exact soundAfter_execLaneRotation (sound := sound) ..
  | spillComplete => exact soundAfter_execSpillComplete (sound := sound) ..
  | restoreComplete => exact soundAfter_execRestoreComplete (sound := sound) ..
  | laneClearingDone => exact soundAfter_execLaneClearingDone (sound := sound) ..
  | frameBoundary => exact soundAfter_execFrameBoundary (sound := sound) ..
  | revocationDeadline => exact (soundAfter_execRevocationDeadline ..).mpr sound
  | contextSave => exact soundAfter_execContextSave (sound := sound) ..
  | agingTick => exact soundAfter_execAgingTick (sound := sound) ..
  | powerPressure => exact (soundAfter_execPowerPressure ..).mpr sound
  | powerPressureEnd => exact (soundAfter_execPowerPressureEnd ..).mpr sound
  | clockHop => exact (soundAfter_execClockHop ..).mpr sound
  | droopDuringHop => exact soundAfter_execDroopDuringHop (sound := sound) ..
  | clockHopRetry => exact soundAfter_execClockHopRetry (sound := sound) ..
  | laneRetirement => exact soundAfter_execLaneRetirement (sound := sound) ..
  | wayRetirement => exact (soundAfter_execWayRetirement ..).mpr sound
  | dispositionSet => exact soundAfter_execDispositionSet (sound := sound) ..
  | droverMove => exact soundAfter_execDroverMove (sound := sound) ..
  | loomTokenWaitEnd => exact soundAfter_execLoomTokenWaitEnd (sound := sound) ..
  | jobStart => exact soundAfter_execJobStart (sound := sound) ..
  | copyJobComplete => exact soundAfter_execCopyJobComplete (sound := sound) ..
  | gleanerJobComplete => exact soundAfter_execGleanerJobComplete (sound := sound) ..
  | loomChunk => exact soundAfter_execLoomChunk (sound := sound) ..
  | packetReport => exact soundAfter_execPacketReport (sound := sound) ..
  | windowStoreArrival => exact soundAfter_execWindowStoreArrival (sound := sound) ..
  | windowLoadArrival => exact soundAfter_execWindowLoadArrival (sound := sound) ..
  | postedStoreFault => exact soundAfter_execPostedStoreFault (sound := sound) ..
  | emulationTrip => exact soundAfter_execEmulationTrip (sound := sound) ..
  | promptTrap => exact soundAfter_execPromptTrap (sound := sound) ..
  | barrierTimeout => exact (soundAfter_execBarrierTimeout ..).mpr sound
  | vsyncTimeout => exact soundAfter_execVsyncTimeout (sound := sound) ..
  | leaseLapse | refreshBreak => exact sound
  | unitWakeUp => exact (soundAfter_execUnitWakeUp ..).mpr sound
  | preemptionStop => exact soundAfter_execPreemptionStop (sound := sound) ..
  | rollback => exact soundAfter_execRollback (sound := sound) ..
  | hostRequest => exact soundAfter_execHostRequest (sound := sound) ..
  | remoteRequest => exact soundAfter_execRemoteRequest (sound := sound) ..
  | doorbell => exact (soundAfter_execDoorbell ..).mpr sound
  | registerWrite => exact (soundAfter_execRegisterWrite ..).mpr sound
  | build => exact soundAfter_execBuild (sound := sound) ..
  | release => exact soundAfter_execRelease (sound := sound) ..
  | cfgstage => exact soundAfter_execCfgstage (sound := sound) ..
  | wlogrc => exact soundAfter_execWlogrc (sound := sound) ..
  | member => exact soundAfter_execMember (sound := sound) ..
  | group => exact soundAfter_execGroup (sound := sound) ..
  | coll => exact soundAfter_execColl (sound := sound) ..
  | savereg => exact soundAfter_execSavereg (sound := sound) ..
  | preempt => exact soundAfter_execPreempt (sound := sound) ..
  | resume => exact soundAfter_execResume (sound := sound) ..
  | importImg => exact soundAfter_execImportImg (sound := sound) ..
  | prq => exact soundAfter_execPrq (sound := sound) ..
  | snapreg => exact soundAfter_execSnapreg (sound := sound) ..
  | pclear => exact soundAfter_execPclear (sound := sound) ..
  | summary => exact soundAfter_execSummary (sound := sound) ..
  | undefinedMailboxOpcode => exact soundAfter_execUndefinedMailboxOpcode (sound := sound) ..
  | lockInterfaceRequest => exact (soundAfter_execLockInterfaceRequest ..).mpr sound
  | getDeviceInterfaceReport => exact (soundAfter_execGetDeviceInterfaceReport ..).mpr sound
  | startInterfaceRequest => exact (soundAfter_execStartInterfaceRequest ..).mpr sound
  | stopInterfaceRequest => exact soundAfter_execStopInterfaceRequest (sound := sound) ..
  | lockedBarWrite => exact soundAfter_execLockedBarWrite (sound := sound) ..
  | ideIntegrityFailure => exact soundAfter_execIdeIntegrityFailure (sound := sound) ..
  | spdmMeasurement => exact (soundAfter_execSpdmMeasurement ..).mpr sound
  | flitReceive => exact (soundAfter_execFlitReceive ..).mpr sound
  | acknowledgement => exact (soundAfter_execAcknowledgement ..).mpr sound
  | negativeAcknowledgement => exact (soundAfter_execNegativeAcknowledgement ..).mpr sound
  | laneLost => exact (soundAfter_execLaneLost ..).mpr sound
  | retrainDone => exact soundAfter_execRetrainDone (sound := sound) ..
  | collectiveRoundDone => exact soundAfter_execCollectiveRoundDone (sound := sound) ..
  | collectiveTimeout => exact soundAfter_execCollectiveTimeout (sound := sound) ..
  | abortMessage => exact soundAfter_execAbortMessage (sound := sound) ..
  | timeSlotStart => exact soundAfter_execTimeSlotStart (sound := sound) ..
  | channelRequest => exact soundAfter_execChannelRequest (sound := sound) ..
  | vectorRequestPacket => exact soundAfter_execVectorRequestPacket (sound := sound) ..
  | stackRetirementStart => exact (soundAfter_execStackRetirementStart ..).mpr sound
  | retirementEnd => exact (soundAfter_execRetirementEnd ..).mpr sound
  | stackAnswerTimeout => exact soundAfter_execStackAnswerTimeout (sound := sound) ..
  | stackDead => exact (soundAfter_execStackDead ..).mpr sound
  | coldReset => exact soundAfter_execColdReset (sound := sound) ..
  | warmReset => exact soundAfter_execWarmReset (sound := sound) ..
  | bounceReceived => exact soundAfter_execBounceReceived (sound := sound) ..
  | sysRevocation => exact (soundAfter_execSysRevocation ..).mpr sound
  | retentionRelease => exact (soundAfter_execRetentionRelease ..).mpr sound
  | _ => exact nomatch event

/-- So does a word of a micro-thread. -/
theorem soundAfter_exec_of_micro {i : Instr} (micro : i.streamOf = .micro) {s : State} (sound : s.Sound) :
    SoundAfter (exec i s) := by
  cases i with
  | wAdd | wSub | wMin | wMax | wAnd | wOr | wXor | wAndn | wSll | wSrl | wSra | wRor | wMul | wMulh | wMulhu
  | wMulhsu | wMinu | wMaxu | wFadd | wFsub | wFmul | wFma | wFms | wFnma | wFnms | wFmin | wFmax | wCvthSD
  | wCvthHS | wCvthBS | wCvthT8H | wCvthE4H | wCvthE5H | wSel => exact soundAfter_wordF2 sound ..
  | wDiv | wDivu | wRem | wRemu | wFdiv => exact soundAfter_unitWord sound _ _ _ (soundAfter_wordF2 sound ..)
  | wAddi | wSlli | wSrli | wSrai | wFabs | wFneg | wCvthT6T8 | wCvtdDS | wCvtdSH | wCvtdSB | wCvtdHT8 | wCvtdHE4
  | wCvtdHE5 | wCvtdT8T6 | wCvtfi | wCvtfu | wCvtif | wCvtuf | wRng => exact soundAfter_wordF1 sound ..
  | wMovi | wCvtF4 | wThfetch | wStop | wIdx => exact soundAfter_word_go sound ..
  | wCeq | wClt | wCltu | wFceqD | wFcltD | wFcleD | wFceqS | wFcltS | wFcleS => exact soundAfter_wordCmp sound ..
  | wFsqrt | wExp2 | wLog2 | wRcp | wRsqrt => exact soundAfter_unitWord sound _ _ _ (soundAfter_wordF1 sound ..)
  | wPand | wPor | wPxor | wPandn | wPmov | wPnot => exact soundAfter_wordPred sound ..
  | wLd | wLds => exact soundAfter_wordLoad sound ..
  | wSt => exact soundAfter_execWSt sound ..
  | wSpld => exact soundAfter_execWSpld sound ..
  | wSpst => exact soundAfter_execWSpst sound ..
  | wAadd | wAswap | wAcas => exact soundAfter_wordAtomic sound ..
  | wThfetchr => exact soundAfter_execWThfetchr sound ..
  | wFsinS2 | wFcosS2 => exact soundAfter_askTrip sound ..
  | _ => exact nomatch micro

/-! ### Every turn -/

theorem soundAfter_exec (i : Instr) {s : State} (sound : s.Sound) : SoundAfter (exec i s) := by
  cases stream : i.streamOf with
  | control => exact soundAfter_exec_of_control stream sound
  | micro => exact soundAfter_exec_of_micro stream sound
  | event => exact soundAfter_exec_of_event stream sound

/-- Storage is canonical in the state of a turn. -/
@[simp] def Turn.Sound : Turn → Prop
  | .done s | .run _ s => s.Sound

theorem Turn.Sound.soundAfter_take {t : Turn} (sound : t.Sound) : SoundAfter (State.take t) := by
  cases t with
  | done s => exact sound
  | run i s => exact soundAfter_exec i sound

theorem sound_issueWord {s : State} (sound : s.Sound) (c : Nat) : (s.issueWord c).Sound := by
  have fetched := fetch_sound sound c (s.ctx c).pc
  simp only [State.issueWord]
  split
  next e => rw [e] at fetched; simpa using fetched
  next e => rw [e] at fetched; exact fetched
  next e =>
    rw [e] at fetched
    split
    · simpa using fetched
    · simpa using fetched

theorem sound_issueTurn {s : State} (sound : s.Sound) (c : Nat) : (s.issueTurn c).Sound := by
  simp only [State.issueTurn]
  split
  · exact sound
  · split
    · exact sound
    · split
      · exact sound
      · split
        · exact sound
        · exact sound_issueWord sound c

theorem sound_idleTurn {s : State} (sound : s.Sound) : s.idleTurn.Sound := by
  simp only [State.idleTurn]
  split
  · exact sound
  · refine sound_issueTurn ?_ _
    exact sound

theorem sound_wordTurn {s : State} (sound : s.Sound) (c i : Nat) : (s.wordTurn c i).Sound := by
  unfold State.wordTurn
  split
  · exact sound
  · split
    · exact sound
    · split <;> exact sound

theorem sound_turn {s : State} (sound : s.Sound) (a : Action) : (s.turn a).Sound := by
  cases a with
  | issue c => exact sound_issueTurn sound c
  | word c i => exact sound_wordTurn sound c i
  | event i g => exact sound
  | gate u => exact State.gate_sound sound u
  | serve core => exact State.serve_sound sound core
  | _ => simpa [State.turn] using sound

/-- Settles O2: the turn of the next entry, or of the contexts where there is none, leaves canonical storage. -/
theorem storageStaysCanonical : Obligations.StorageStaysCanonical := by
  intro s t sound next
  have after : SoundAfter (step s) := by
    cases entries : s.agenda with
    | nil =>
      rw [step_of_empty entries]
      exact (sound_idleTurn sound).soundAfter_take
    | cons a l =>
      rw [step_of_entry entries]
      exact (sound_turn (s := { s with agenda := l }) sound a).soundAfter_take
  rw [next] at after
  exact after

end Sys2Proof.Machine
end

section
/-!
PROOFS. The return from an exception, and the end of an emulation trip (R255, R373, R374, R393-R395).
-/

namespace Sys2Proof.Machine

/-! ### What eret does -/

theorem execEret_of_no_trip {s : State} (up : s.me.level ≠ .app)
    (other : s.me.emu = none ∨ s.me.level = .sys ∨ s.me.ft.cause ≠ 0x13) :
    exec .eret s = .next (s.setMe s.me.eret) := by
  refine (if_neg up).trans ?_
  split
  next =>
    refine if_neg fun trip => ?_
    obtain ⟨fw, cause⟩ := trip
    rcases other with none | sys | cause'
    · simp_all
    · simp_all
    · exact cause' cause
  next => rfl

theorem execEret_of_trip {s : State} {kind : Nat} {word : IWord} (emu : s.me.emu = some (kind, word))
    (fw : s.me.level = .fw) (cause : s.me.ft.cause = 0x13) :
    exec .eret s = if s.me.fwWait.isSome then .next s else .next (s.endTrip s.cur kind word) := by
  refine (if_neg (by rw [fw]; decide)).trans ?_
  rw [emu]
  exact if_pos ⟨fw, cause⟩

/-! ### The elements of a vldb -/

/-- A micro-thread with an element loaded into a register. -/
def Mt.takeElem (m : Mt) (r : RegNo) (v : Word) : Mt :=
  { m with w := put m.w r.toNat v, dirty := m.dirty ||| (1 <<< (r.toNat - 1)) }

/-- The micro-thread of an entry of the core's record. -/
def State.entryMt (s : State) (core k : Nat) : Nat := (s.emuField core k 3).toNat % 1024

/-- The state after an entry's element is loaded. -/
def State.takeEntry (c core : Nat) (r : RegNo) (t : State) (k : Nat) : State :=
  t.putMt c (t.entryMt core k) ((t.mt c (t.entryMt core k)).takeElem r (t.emuField core k 2))

/-- What micro-thread `i`'s spill record, at key `n`, is. -/
def State.Lies (s : State) (c i n : Nat) : Prop :=
  ∃ l r, (s.mt c i).spillRec = some (l, r) ∧ n = spillKey (clusterOfCtx c) l r

/-- A key outside every spill record of a context. -/
def State.Clear (s : State) (c a : Nat) : Prop := ∀ i n, s.Lies c i n → a < n ∨ n + 256 ≤ a

theorem State.mts_putMt (t : State) (c i : Nat) (m : Mt) : (t.putMt c i m).mts = put t.mts (512 * c + i) m := by
  rw [State.putMt, State.writeSpill_frame]
  rfl

theorem State.mt_putMt_self (t : State) (c i : Nat) (m : Mt) : (t.putMt c i m).mt c i = m := by
  rw [State.mt, State.mts_putMt, look_put_self]

theorem State.mt_putMt_ne (t : State) {c i j : Nat} (m : Mt) (other : j ≠ i) : (t.putMt c i m).mt c j = t.mt c j := by
  rw [State.mt, State.mts_putMt, look_put_ne _ _ _ (by omega)]
  rfl

theorem State.readByte_putMt_clear {t : State} {c i a : Nat} {m : Mt} (same : m.spillRec = (t.mt c i).spillRec)
    (clear : t.Clear c a) : readByte (t.putMt c i m).mem a = readByte t.mem a := by
  have still : ((t.setMt c i m).mt c i).spillRec = (t.mt c i).spillRec := by rw [State.mt_setMt_self, same]
  cases place : (t.mt c i).spillRec with
  | none => rw [State.putMt, State.writeSpill_of_resident (still.trans place)]; rfl
  | some p => exact State.readByte_writeSpill_ne (still.trans place) (clear i _ ⟨_, _, place, rfl⟩)

/-- A state that differs from another in registers of the micro-threads of a context, and in their spill records. -/
structure State.LoadsInto (b t : State) (c : Nat) : Prop where
  rest : t = { b with mts := t.mts, mem := t.mem, synd := t.synd }
  place : ∀ i, (t.mt c i).spillRec = (b.mt c i).spillRec
  byte : ∀ a, b.Clear c a → readByte t.mem a = readByte b.mem a

namespace State.LoadsInto

variable {b t : State} {c : Nat}

theorem refl (b : State) (c : Nat) : b.LoadsInto b c := ⟨rfl, fun _ => rfl, fun _ _ => rfl⟩

theorem clear (h : b.LoadsInto t c) {a : Nat} (clear : b.Clear c a) : t.Clear c a := by
  intro i n ⟨l, r, place, key⟩
  exact clear i n ⟨l, r, (h.place i).symm.trans place, key⟩

theorem putMt (h : b.LoadsInto t c) (i : Nat) {m : Mt} (same : m.spillRec = (t.mt c i).spillRec) :
    b.LoadsInto (t.putMt c i m) c where
  rest := by
    rw [State.putMt, State.writeSpill_frame, h.rest]
    rfl
  place j := by
    by_cases hit : j = i
    · rw [hit, State.mt_putMt_self, same, h.place]
    · rw [State.mt_putMt_ne _ _ hit, h.place]
  byte a away := (State.readByte_putMt_clear same (h.clear away)).trans (h.byte a away)

theorem takeEntry (h : b.LoadsInto t c) (core : Nat) (r : RegNo) (k : Nat) :
    b.LoadsInto (State.takeEntry c core r t k) c := h.putMt _ rfl

/-- The entries of the record lie clear of the spill records, so they stay as they are. -/
theorem emuField (h : b.LoadsInto t c) {core k j : Nat}
    (away : ∀ i n, b.Lies c i n → n + 256 ≤ emuKey core ∨ emuKey core + 0x5000 ≤ n) (hk : k < 512) (hj : j < 4) :
    t.emuField core k j = b.emuField core k j := by
  refine readDw_congr fun a low high => h.byte a fun i n lies => ?_
  have := away i n lies
  omega

end State.LoadsInto

section Entries
variable {b : State} {c core : Nat} (r : RegNo)

/-- The state after the first `n` entries. -/
def State.takeEntries (b : State) (c core : Nat) (r : RegNo) (n : Nat) : State :=
  (List.range n).foldl (State.takeEntry c core r) b

theorem State.takeEntries_succ (n : Nat) :
    b.takeEntries c core r (n + 1) = State.takeEntry c core r (b.takeEntries c core r n) n := by
  simp [State.takeEntries, List.range_succ]

theorem State.loadsInto_takeEntries (n : Nat) : b.LoadsInto (b.takeEntries c core r n) c := by
  induction n with
  | zero => exact .refl b c
  | succ n ih => rw [State.takeEntries_succ]; exact ih.takeEntry core r n

variable (away : ∀ i n, b.Lies c i n → n + 256 ≤ emuKey core ∨ emuKey core + 0x5000 ≤ n)
include away

theorem State.takeEntries_succ_eq {n : Nat} (hn : n < 512) : b.takeEntries c core r (n + 1) =
    (b.takeEntries c core r n).putMt c (b.entryMt core n)
      (((b.takeEntries c core r n).mt c (b.entryMt core n)).takeElem r (b.emuField core n 2)) := by
  have loads := State.loadsInto_takeEntries (b := b) (c := c) (core := core) r n
  rw [State.takeEntries_succ, State.takeEntry, State.entryMt, loads.emuField away hn (by decide),
    loads.emuField away hn (by decide)]
  rfl

theorem State.mt_takeEntries_of_no_entry {n : Nat} (hn : n ≤ 512) {i : Nat} (no : ∀ k < n, b.entryMt core k ≠ i) :
    (b.takeEntries c core r n).mt c i = b.mt c i := by
  induction n with
  | zero => rfl
  | succ n ih =>
    rw [State.takeEntries_succ_eq r away (by omega), State.mt_putMt_ne _ _ (no n (by omega)).symm]
    exact ih (by omega) fun k hk => no k (by omega)

theorem State.mt_takeEntries {n : Nat} (hn : n ≤ 512)
    (distinct : ∀ k < n, ∀ l < n, k ≠ l → b.entryMt core k ≠ b.entryMt core l) {k : Nat} (hk : k < n) :
    (b.takeEntries c core r n).mt c (b.entryMt core k) = (b.mt c (b.entryMt core k)).takeElem r (b.emuField core k 2) := by
  induction n with
  | zero => omega
  | succ n ih =>
    rw [State.takeEntries_succ_eq r away (by omega)]
    by_cases last : k = n
    · subst last
      rw [State.mt_putMt_self, State.mt_takeEntries_of_no_entry r away (by omega)]
      exact fun l hl => distinct l (by omega) k hk (by omega)
    · rw [State.mt_putMt_ne _ _ (distinct k hk n (by omega) last)]
      exact ih (by omega) (fun k hk l hl => distinct k (by omega) l (by omega)) (by omega)

end Entries

/-! ### The end of a trip -/

section EndTrip
variable (s : State) (c kind : Nat) (w : IWord)

/-- The state in which the results of a trip are given: the context has returned, and asks nothing of other modules. -/
def State.tripBase : State :=
  (s.setCtx c { (s.ctx c).eret with emu := none, fwVal := none }).dropReplies (fun t => t == tagOf 4 c 0)

/-- The fault number in the record of a trip. -/
def State.tripFault : BitVec 8 := (s.emuWord (c / 4) 0x38).setWidth 8

variable {s c kind}

theorem State.endTrip_of_raise (lane : kind ≠ 1) (fault : s.tripFault c ≠ 0) :
    s.endTrip c kind w = (s.tripBase c).trapAt c (s.ctx c).ft.epc
      { cause := s.tripFault c,
        val := (s.ctx c).fwVal.getD (if s.tripFault c = 0x21 then s.emuWord (c / 4) 0x28 &&& ~~~0xFF
          else s.emuWord (c / 4) 0x28) } := (if_pos fault).trans (if_neg lane)

theorem State.endTrip_of_lane_fault (fault : s.tripFault c ≠ 0) : s.endTrip c 1 w =
    (List.range (min (s.emuWord (c / 4) 0x10).toNat 512)).foldl (fun t k =>
      let i := (t.emuField (c / 4) k 3).toNat % 1024
      if !t.inTrip c i (bits (s.emuWord (c / 4) 0x18) 8 5) then t
      else if (t.emuField (c / 4) k 3).getLsbD 15 then t.mtFault c i (t.mt c i) { cause := s.tripFault c, val := 0 }
      else t.applyEntry c (w.extractLsb' 12 5) (bits (s.emuWord (c / 4) 0x18) 8 5) (c / 4) k) (s.tripBase c) := if_pos fault

variable (served : s.tripFault c = 0)
include served

theorem State.endTrip_of_scalar : s.endTrip c 0 w = (s.tripBase c).setCtx c
    { ((s.tripBase c).ctx c).wx (w.extractLsb' 22 5) (s.emuField (c / 4) 0 2) with
      fflags := ((s.tripBase c).ctx c).fflags ||| (s.emuField (c / 4) 0 3).extractLsb' 16 7
      pc := (s.ctx c).ft.epc + 4 } := by
  rw [← Ctx.wx_fflags _ (w.extractLsb' 22 5) (s.emuField (c / 4) 0 2)]
  exact if_neg (not_not.mpr served)

theorem State.endTrip_of_lane : s.endTrip c 1 w = (List.range (min (s.emuWord (c / 4) 0x10).toNat 512)).foldl
    (fun t k => t.applyEntry c (w.extractLsb' 12 5) (bits (s.emuWord (c / 4) 0x18) 8 5) (c / 4) k) (s.tripBase c) :=
  if_neg (not_not.mpr served)

theorem State.endTrip_of_vldb (scalar : kind ≠ 0) (lane : kind ≠ 1) : s.endTrip c kind w =
    let t := (s.tripBase c).takeEntries c (c / 4) (w.extractLsb' 22 5) (min (s.emuWord (c / 4) 0x10).toNat 512)
    t.setCtx c { t.ctx c with vstart := 0, pc := (s.ctx c).ft.epc + 4 } :=
  (if_neg (not_not.mpr served)).trans <| (if_neg scalar).trans (if_neg lane)

end EndTrip

/-- The context that the end of a trip leaves. -/
theorem State.ctx_tripBase (s : State) (c : Nat) :
    (s.tripBase c).ctx c = { (s.ctx c).eret with emu := none, fwVal := none } := State.ctx_setCtx_self ..

theorem State.ctx_tripBase_ne (s : State) {c d : Nat} (other : d ≠ c) : (s.tripBase c).ctx d = s.ctx d :=
  State.ctx_setCtx_ne _ _ other

/-- Settles O32: eret takes the context back, and the end of a trip then gives the record's results. -/
theorem returnFromException : Obligations.ReturnFromException := by
  intro s up r l back
  have returned : s.me.eret = back s.me := by
    simp only [Ctx.eret, Ctx.handler]
    rfl
  refine ⟨?_, fun other => ?_, ?_⟩
  · by_cases trip : s.me.emu = none ∨ s.me.level = .sys ∨ s.me.ft.cause ≠ 0x13
    · exact ⟨_, execEret_of_no_trip up trip⟩
    · obtain ⟨emu, level, cause⟩ : s.me.emu ≠ none ∧ s.me.level ≠ .sys ∧ s.me.ft.cause = 0x13 := by
        simpa only [not_or, not_not, ne_eq] using trip
      obtain ⟨p, emu⟩ := Option.ne_none_iff_exists'.mp emu
      have fw : s.me.level = .fw := by
        cases l : s.me.level <;> simp_all
      rw [execEret_of_trip emu fw cause]
      split <;> exact ⟨_, rfl⟩
  · exact ⟨_, execEret_of_no_trip up other, ⟨rfl, fun _ other => State.ctx_setCtx_ne _ _ other⟩,
      (State.me_setMe ..).trans returned⟩
  · intro kind word emu fw cause core x base pos fault val all apply
    have ends : s.me.fwWait = none → exec .eret s = .next (s.endTrip s.cur kind word) := fun asked => by
      rw [execEret_of_trip emu fw cause, asked]
      rfl
    have rft : r = s.me.ft := if_neg (by rw [fw]; decide)
    have start : s.tripBase s.cur = base := by
      simp only [State.tripBase, base, x, ← returned]
      rfl
    have me : base.me = x := by
      rw [← start]
      exact (s.ctx_tripBase s.cur).trans (by simp only [x, ← returned]; rfl)
    refine ⟨fun asked => ?_, fun asked => ⟨fun lane wrong => ?_, ?_, ?_, ?_, ?_⟩⟩
    · rw [execEret_of_trip emu fw cause, Option.isSome_iff_ne_none.mpr asked]
      rfl
    · rw [ends asked, State.endTrip_of_raise word lane wrong, start, rft]
      rfl
    · rintro rfl served
      refine ⟨_, (ends asked).trans (congrArg _ (State.endTrip_of_scalar word served)), ?_, ?_⟩
      · rw [start]
        exact ⟨rfl, fun _ other => State.ctx_setCtx_ne _ _ other⟩
      · rw [start, rft]
        exact (State.ctx_setCtx_self ..).trans (by rw [show base.ctx s.cur = x from me]; rfl)
    · rintro rfl served
      rw [ends asked, State.endTrip_of_lane word served, start]
    · rintro rfl wrong
      rw [ends asked, State.endTrip_of_lane_fault word wrong, start]
      simp only [Bool.not_eq_true']
      rfl
    · intro scalar lane served _ lies away
      have given := State.endTrip_of_vldb word served scalar lane
      rw [start] at given
      have loads := State.loadsInto_takeEntries (b := base) (c := s.cur) (core := core) (word.extractLsb' 22 5)
        (min (s.emuWord core 0x10).toNat 512)
      have few : min (s.emuWord core 0x10).toNat 512 ≤ 512 := Nat.min_le_right ..
      have none_at : ∀ i, (∀ k ∈ all, base.entryMt core k ≠ i) → _ = base.mt s.cur i := fun i no =>
        State.mt_takeEntries_of_no_entry (b := base) (word.extractLsb' 22 5) away few fun k hk => no k (List.mem_range.mpr hk)
      have one_at : (∀ k ∈ all, ∀ l ∈ all, k ≠ l → base.entryMt core k ≠ base.entryMt core l) → ∀ k ∈ all,
          _ = (base.mt s.cur (base.entryMt core k)).takeElem _ (base.emuField core k 2) := fun distinct k hk =>
        State.mt_takeEntries (b := base) (word.extractLsb' 22 5) away few
          (fun k hk l hl => distinct k (List.mem_range.mpr hk) l (List.mem_range.mpr hl)) (List.mem_range.mp hk)
      generalize base.takeEntries s.cur core (word.extractLsb' 22 5) (min (s.emuWord core 0x10).toNat 512) = u
        at loads given none_at one_at
      have ctx : ∀ d, u.ctx d = base.ctx d := fun d => by rw [loads.rest]; rfl
      have cur : u.cur = s.cur := by rw [loads.rest]; rfl
      refine ⟨_, (ends asked).trans (congrArg _ given), ?_, ?_, fun d other => ?_, fun a clear => ?_, fun i no => ?_,
        fun distinct k hk => ?_⟩
      · rw [loads.rest]
        rfl
      · rw [State.me, State.setCtx_cur, cur, State.ctx_setCtx_self, ctx, rft, show base.ctx s.cur = x from me]
        rfl
      · rw [State.ctx_setCtx_ne _ _ other, ctx, ← start, s.ctx_tripBase_ne other]
      · exact loads.byte a clear
      · exact none_at i no
      · exact one_at distinct k hk

end Sys2Proof.Machine
end

section
/-!
PROOFS. What is taken at an instruction boundary, and the ends of vsync, ewait and vector accesses (R121, R139, R257, R261,
R262, R270, R374, R376, R387, R392, R393).
-/

namespace Sys2Proof.Machine

/-! ### Trips (R392, R393) -/

/-- Micro-thread `f` waits for the same word of the same broadcast as the one that waits as `e` in block `b`. -/
def State.sharesTrip (s : State) (c : Nat) (b : Blk) (e f : Nat × Word × Nat) : Bool :=
  f.2 == e.2 && (match (s.mt c f.1).blk with
    | some d => d.k == b.k && d.cap == b.cap && d.trip
    | none => false)

/-- The requests that a trip takes, each with its number. -/
def State.tripNos (s : State) (c : Nat) (b : Blk) (e : Nat × Word × Nat) : List (Nat × Nat) :=
  ((s.ctx c).trips.filter (s.sharesTrip c b e)).map (fun t => (t.1, match (s.mt c t.1).blk with
    | some d => d.tripNo
    | none => 0))

/-- The state in which the trip that `e` asks for is taken. -/
def State.tripTaken (s : State) (c : Nat) (b : Blk) (e : Nat × Word × Nat) : State :=
  ({ s with freeN := s.freeN + 512 }.setCtx c { s.ctx c with
    trips := (s.ctx c).trips.filter (fun t => !s.sharesTrip c b e t)
    emuNos := s.tripNos c b e }).leaveTripQ c (fun n => (s.tripNos c b e).any (fun e => e.2 + 1 == n))

theorem State.sharesTrip_iff (s : State) (c : Nat) (b : Blk) (e f : Nat × Word × Nat) : s.sharesTrip c b e f = true ↔
    f.2 = e.2 ∧ ∃ d, (s.mt c f.1).blk = some d ∧ d.k = b.k ∧ d.cap = b.cap ∧ d.trip = true := by
  unfold State.sharesTrip
  cases (s.mt c f.1).blk <;> simp [and_assoc]

theorem State.ctx_tripTaken (s : State) (c : Nat) (b : Blk) (e : Nat × Word × Nat) : (s.tripTaken c b e).ctx c =
    { s.ctx c with trips := (s.ctx c).trips.filter (fun t => !s.sharesTrip c b e t), emuNos := s.tripNos c b e } :=
  State.ctx_setCtx_self ..

theorem State.ctx_tripTaken_ne (s : State) {c d : Nat} (b : Blk) (e : Nat × Word × Nat) (other : d ≠ c) :
    (s.tripTaken c b e).ctx d = s.ctx d := State.ctx_setCtx_ne _ _ other

section Trip
variable {s : State} {e : Nat × Word × Nat} {l : List (Nat × Word × Nat)} (ready : s.tripReady s.arg.unit = true)
  (first : (s.ctx s.arg.unit).trips = e :: l)
include ready first

theorem emulationTrip_of_left (left : (s.mt s.arg.unit e.1).blk = none) : exec .emulationTrip s =
    .next (s.setCtx s.arg.unit { s.ctx s.arg.unit with trips := l }) := by
  show execEmulationTrip s = _
  simp only [execEmulationTrip, ready, first, left, if_true]
  rfl

theorem emulationTrip_of_block {b : Blk} (blk : (s.mt s.arg.unit e.1).blk = some b) :
    ∃ n modes key base entries, exec .emulationTrip s = .next ((s.tripTaken s.arg.unit b e).trip s.arg.unit 1
      (nth 0 b.words e.2.2)
      (emuRecord (nth 0 b.words e.2.2) 1 (e.2.1 + BitVec.ofNat 64 (4 * e.2.2)) n modes key base 0 entries)) := by
  show ∃ n modes key base entries, execEmulationTrip s = _
  rw [execEmulationTrip]
  simp only [ready, if_true]
  split
  next none => rw [first] at none; exact nomatch none
  next some =>
    rw [first] at some
    obtain ⟨rfl, rfl⟩ := List.cons.inj some
    rw [blk]
    exact ⟨_, _, _, _, _, rfl⟩

end Trip

/-! ### vsync (R257, R376) -/

theorem Ctx.wx_resume (x : Ctx) (r : RegNo) (v : Word) :
    x.resume.wx r v = { x.wx r v with run := .active, pc := x.pc + 4 } := by
  unfold Ctx.wx
  split <;> rfl

theorem Ctx.wx_sampled (x : Ctx) (r : RegNo) (v : Word) (seen ever : Bool) :
    ({ x with abortSeen := seen, abortEver := ever } : Ctx).wx r v = { x.wx r v with abortSeen := seen, abortEver := ever } := by
  unfold Ctx.wx
  split <;> rfl

theorem State.summary_setCtx_self {s : State} {c : Nat} {x : Ctx} (vl : x.vl = (s.ctx c).vl) :
    (s.setCtx c x).summary c = s.summary c := by
  simp only [State.summary, Ctx.locals, State.ctx_setCtx_self, vl]
  rfl

theorem State.trapmode_setCtx_self {s : State} {c : Nat} {x : Ctx} (recIdx : x.recIdx = (s.ctx c).recIdx) :
    (s.setCtx c x).trapmode c = s.trapmode c := by
  simp only [State.trapmode, State.gang, State.ctx_setCtx_self, recIdx]
  rfl

/-- A context that its vsync has returned to, with the fault summary. -/
def State.vsyncCtx (s : State) (c : Nat) : Ctx :=
  let x := s.ctx c
  { x.wx x.loadRd (s.summary c) with
    run := .active, pc := x.pc + 4
    abortSeen := if s.abortRaised c then true else x.abortSeen
    abortEver := if s.abortRaised c then true else x.abortEver }

section Vsync
variable {s : State}

theorem State.vsyncCtx_of_sampled (s : State) (c : Nat) :
    (s.sampleAbort c).setCtx c ((((s.sampleAbort c).ctx c).resume).wx (s.ctx c).loadRd (s.summary c)) =
      s.setCtx c (s.vsyncCtx c) := by
  cases raised : s.abortRaised c with
  | false =>
    rw [State.sampleAbort_of_not_raised raised, Ctx.wx_resume]
    simp only [State.vsyncCtx, raised]
    rw [← Ctx.wx_abortSeen (s.ctx c) (s.ctx c).loadRd (s.summary c), ← Ctx.wx_abortEver (s.ctx c) (s.ctx c).loadRd (s.summary c)]
    rfl
  | true =>
    rw [State.sampleAbort_of_raised raised, State.setCtx_setCtx, State.ctx_setCtx_self, Ctx.wx_resume, Ctx.wx_sampled]
    simp only [State.vsyncCtx, raised]
    rfl

theorem State.summary_sampleAbort (s : State) (c : Nat) : (s.sampleAbort c).summary c = s.summary c := by
  unfold State.sampleAbort
  split
  · exact State.summary_setCtx_self rfl
  · rfl

theorem State.ctx_sampleAbort_loadRd (s : State) (c : Nat) : ((s.sampleAbort c).ctx c).resume.loadRd = (s.ctx c).loadRd := by
  unfold State.sampleAbort
  split
  · rw [State.ctx_setCtx_self]; rfl
  · rfl

theorem State.ctx_sampleAbort_pc (s : State) (c : Nat) : ((s.sampleAbort c).ctx c).resume.pc = (s.ctx c).pc + 4 := by
  unfold State.sampleAbort
  split
  · rw [State.ctx_setCtx_self]; rfl
  · rfl

variable {since : Nat} (parked : (s.ctx s.arg.unit).run = .parked (.vsync since))
include parked

theorem vsyncReturn_of_parked : exec .vsyncReturn s = .next (if s.vsyncDone s.arg.unit then
    (if s.trapmode s.arg.unit = 1 ∧ s.summary s.arg.unit ≠ 0 then
      (s.setCtx s.arg.unit (s.vsyncCtx s.arg.unit)).trapAt s.arg.unit ((s.ctx s.arg.unit).pc + 4)
        { cause := 0x17, val := s.summary s.arg.unit }
    else s.setCtx s.arg.unit (s.vsyncCtx s.arg.unit)) else s) := by
  have mode : (s.setCtx s.arg.unit (s.vsyncCtx s.arg.unit)).trapmode s.arg.unit = s.trapmode s.arg.unit :=
    State.trapmode_setCtx_self (Ctx.wx_recIdx ..)
  show execVsyncReturn s = _
  simp only [execVsyncReturn, parked, State.summary_sampleAbort, State.ctx_sampleAbort_loadRd, State.ctx_sampleAbort_pc,
    State.vsyncCtx_of_sampled, mode]
  split
  · split <;> rfl
  · rfl

theorem vsyncTimeout_of_parked : exec .vsyncTimeout s = .next (if s.timedOut s.arg.unit since then
    s.trapAt s.arg.unit (s.ctx s.arg.unit).pc { cause := 0x16, val := s.stillRunning s.arg.unit } else s) := by
  show execVsyncTimeout s = _
  simp only [execVsyncTimeout, parked]
  split <;> rfl

end Vsync

/-! ### ewait (R270) -/

theorem foldl_min_le {l : List Nat} {n : Nat} : l.foldl min n ≤ n ∧ ∀ m ∈ l, l.foldl min n ≤ m := by
  induction l generalizing n with
  | nil => exact ⟨le_rfl, nofun⟩
  | cons a l ih =>
    obtain ⟨low, below⟩ := ih (n := min n a)
    refine ⟨low.trans (Nat.min_le_left ..), fun m hm => ?_⟩
    rcases List.mem_cons.mp hm with rfl | hm
    · exact low.trans (Nat.min_le_right ..)
    · exact below m hm

theorem foldl_min_mem (l : List Nat) (n : Nat) : l.foldl min n ∈ n :: l := by
  induction l generalizing n with
  | nil => exact List.mem_cons_self
  | cons a l ih =>
    rcases List.mem_cons.mp (ih (min n a)) with here | later
    · rw [List.foldl_cons, here]
      rcases min_choice n a with low | low <;> simp [low]
    · exact List.mem_cons_of_mem _ (List.mem_cons_of_mem _ later)

section Ewait
variable {s : State} {upto : Word} (parked : (s.ctx s.arg.unit).run = .parked (.ewait upto))
include parked

theorem ewaitReturn_of_running (job : ∃ j ∈ s.jobList s.arg.unit, j.1.toNat ≤ upto.toNat) :
    exec .ewaitReturn s = .next s := by
  show execEwaitReturn s = _
  simp only [execEwaitReturn, parked]
  exact if_pos (by simpa using job)

variable (ended : ∀ j ∈ s.jobList s.arg.unit, upto.toNat < j.1.toNat)
include ended

theorem ewaitReturn_of_ended (none : ∀ e ∈ (s.ctx s.arg.unit).stops, upto.toNat < e.1.toNat) :
    exec .ewaitReturn s = .next (s.setCtx s.arg.unit (s.ctx s.arg.unit).resume) := by
  have empty : (s.ctx s.arg.unit).stops.filter (fun e => decide (e.1.toNat ≤ upto.toNat)) = [] := by
    simpa [List.filter_eq_nil_iff] using none
  show execEwaitReturn s = _
  simp only [execEwaitReturn, parked, empty]
  exact if_neg (by simpa using ended)

theorem ewaitReturn_of_stopped {n : Word} {k : BitVec 8} (stop : (n, k) ∈ (s.ctx s.arg.unit).stops)
    (within : n.toNat ≤ upto.toNat) (lowest : ∀ e ∈ (s.ctx s.arg.unit).stops, n.toNat ≤ e.1.toNat) :
    exec .ewaitReturn s = .next (s.trapAt s.arg.unit (s.ctx s.arg.unit).pc { cause := 0x0E, val := n }) := by
  have running : ¬(s.jobList s.arg.unit).any (fun j => decide (j.1.toNat ≤ upto.toNat)) = true := by simpa using ended
  have here : n.toNat ∈ ((s.ctx s.arg.unit).stops.filter (fun e => decide (e.1.toNat ≤ upto.toNat))).map (fun e => e.1.toNat) :=
    List.mem_map.mpr ⟨(n, k), List.mem_filter.mpr ⟨stop, by simpa using within⟩, rfl⟩
  have least : ∀ m ∈ ((s.ctx s.arg.unit).stops.filter (fun e => decide (e.1.toNat ≤ upto.toNat))).map (fun e => e.1.toNat),
      n.toNat ≤ m := by
    intro m hm
    obtain ⟨e, he, rfl⟩ := List.mem_map.mp hm
    exact lowest e (List.mem_filter.mp he).1
  show execEwaitReturn s = _
  simp only [execEwaitReturn, parked]
  rw [if_neg running]
  revert here least
  generalize List.map _ (List.filter _ _) = stops
  intro here least
  cases stops with
  | nil => exact nomatch here
  | cons m l =>
    have low : l.foldl min m = n.toNat := by
      apply le_antisymm
      · rcases List.mem_cons.mp here with rfl | later
        · exact foldl_min_le.1
        · exact foldl_min_le.2 _ later
      · exact least _ (foldl_min_mem l m)
    simp only [low, BitVec.ofNat_toNat, BitVec.setWidth_eq]

end Ewait

/-! ### Vector accesses (R139, R261, R262) -/

theorem State.putW_eq (s : State) (c i : Nat) (r : RegNo) (v : Word) :
    s.putW c i r v = s.putMt c i ((s.mt c i).takeElem r v) := rfl

theorem State.loadsInto_takeLoads (s : State) (c n : Nat) (i : Instr) : s.LoadsInto (s.takeLoads c n i) c := by
  have taken : ∀ (r : RegNo) (l : List (Nat × Word × Word)) {t : State}, s.LoadsInto t c →
      s.LoadsInto (l.foldl (fun t e => t.putW c e.1 r e.2.1) t) c := by
    intro r l
    induction l with
    | nil => exact fun loads => loads
    | cons e l ih => exact fun loads => ih (loads.putMt e.1 rfl)
  unfold State.takeLoads
  split
  case h_4 => exact .refl s c
  all_goals exact taken _ _ (.refl s c)

theorem State.ctx_takeLoads (s : State) (c n d : Nat) (i : Instr) : (s.takeLoads c n i).ctx d = s.ctx d := by
  rw [(s.loadsInto_takeLoads c n i).rest]
  rfl

/-- A REVOKED crew's elements from the top of the access on are left. -/
theorem State.perform_of_revoked {s : State} {c : Nat} (op : Option Nat) (revoked : (s.ctx c).gstate = .revoked)
    {l : List Nat} (above : ∀ k ∈ l, (s.ctx c).cap.top ≤ k) : s.perform c op l = s := by
  induction l with
  | nil => rfl
  | cons k l ih =>
    have out : ¬ k < (s.ctx c).cap.top := by
      have := above k List.mem_cons_self
      omega
    unfold State.perform
    dsimp only
    split
    · rw [if_neg (by simp [revoked, out])]
      exact ih fun k hk => above k (List.mem_cons_of_mem _ hk)
    · rfl

/-- A vector access that is given up leaves its context at its failing element. -/
def Ctx.stopped (x : Ctx) (i : Instr) (f : Nat) : Ctx :=
  { x with run := .active, elemCap := none
           vstart := match i with
             | .ldrain _ _ => x.vstart
             | _ => BitVec.ofNat 64 f }

/-- One that is complete goes on. -/
def Ctx.completed (x : Ctx) (i : Instr) : Ctx :=
  { (match i with
      | .ldrain rd _ => x.wx rd (x.geo 4 15)
      | _ => { x with vstart := 0 }) with run := .active, pc := x.pc + 4, elemCap := none }

section Vector
variable {s : State} {i : Instr} {ra rb : Word} {left sent : List Nat} {stop : Option (Nat × Exc)}

/-- The state in which nothing of an access is under way at other modules. -/
def State.accessBase (s : State) (c : Nat) : State := s.dropReplies (fun t => t % 8 == 2 && t / 8 % 2048 == c)

theorem State.endElems_stopped (s : State) (c : Nat) (i : Instr) (f : Nat) (e : Exc) :
    s.endElems c i (some (f, e)) = (((s.accessBase c).takeLoads c f i).setCtx c ((s.ctx c).stopped i f)).trapAt c (s.ctx c).pc e := by
  have ctx := fun n => (s.accessBase c).ctx_takeLoads c n c i
  simp only [State.endElems]
  rw [show (s.dropReplies fun t => t % 8 == 2 && t / 8 % 2048 == c) = s.accessBase c from rfl, ctx]
  cases i <;> rfl

theorem State.endElems_completed (s : State) (c : Nat) (i : Instr) : s.endElems c i none =
    ((s.accessBase c).takeLoads c ((s.ctx c).elemCount i) i).setCtx c ((s.ctx c).completed i) := by
  have ctx := fun n => (s.accessBase c).ctx_takeLoads c n c i
  simp only [State.endElems]
  rw [show (s.dropReplies fun t => t % 8 == 2 && t / 8 % 2048 == c) = s.accessBase c from rfl, ctx]
  cases i
  case ldrain rd ra =>
    have kept : ∀ (x : Ctx) (v : Word), ({ x with elemCap := none } : Ctx).wx rd v = { x.wx rd v with elemCap := none } := by
      intro x v
      unfold Ctx.wx
      split <;> rfl
    simp only [kept, Ctx.resume, Ctx.wx_pc]
    rfl
  all_goals rfl

variable (parked : (s.ctx s.arg.unit).run = .parked (.elems i ra rb left sent stop))
include parked

theorem vectorRequestPacket_of_packetless (flag : s.arg.flag = false) :
    exec .vectorRequestPacket s = .next (s.perform s.arg.unit none s.arg.list) := by
  show execVectorRequestPacket s = _
  simp only [execVectorRequestPacket, parked, flag]
  rfl

theorem vectorRequestPacket_of_packet (flag : s.arg.flag = true) : exec .vectorRequestPacket s =
    match s.vpacket s.arg.unit i ra rb (nth 0 s.arg.list 0) s.arg.index (nth 0 s.arg.list 1 != 0) with
    | some p => .next (s.servePacket s.arg.unit (nth 0 s.arg.list 0) p (p.served s (s.arg.addr / 32) (s.arg.addr % 32)))
    | none => .next s := by
  show execVectorRequestPacket s = _
  simp only [execVectorRequestPacket, parked, flag]
  rfl

theorem vectorAccessDone_of_left (more : left ≠ [] ∨ sent ≠ []) : exec .vectorAccessDone s = .next s := by
  show execVectorAccessDone s = _
  simp only [execVectorAccessDone, parked]
  split
  next none => simp_all
  next => rfl

theorem vectorAccessDone_of_none (none : left = []) (away : sent = []) :
    exec .vectorAccessDone s = .next (s.endElems s.arg.unit i stop) := by
  subst none away
  show execVectorAccessDone s = _
  simp only [execVectorAccessDone, parked]

end Vector

/-! ### Where nothing is parked -/

section Other
variable {s : State}

theorem vsync_of_not_parked (other : ∀ n, (s.ctx s.arg.unit).run ≠ .parked (.vsync n)) :
    exec .vsyncReturn s = .next s ∧ exec .vsyncTimeout s = .next s := by
  constructor
  · show execVsyncReturn s = _
    unfold execVsyncReturn
    dsimp only
    split
    · exact absurd ‹_› (other _)
    · rfl
  · show execVsyncTimeout s = _
    unfold execVsyncTimeout
    dsimp only
    split
    · exact absurd ‹_› (other _)
    · rfl

theorem ewait_of_not_parked (other : ∀ n, (s.ctx s.arg.unit).run ≠ .parked (.ewait n)) : exec .ewaitReturn s = .next s := by
  show execEwaitReturn s = _
  unfold execEwaitReturn
  dsimp only
  split
  · exact absurd ‹_› (other _)
  · rfl

theorem elems_of_not_parked (other : ∀ i ra rb l t o, (s.ctx s.arg.unit).run ≠ .parked (.elems i ra rb l t o)) :
    exec .vectorRequestPacket s = .next s ∧ exec .vectorAccessDone s = .next s := by
  constructor
  · show execVectorRequestPacket s = _
    unfold execVectorRequestPacket
    dsimp only
    split
    · exact absurd ‹_› (other _ _ _ _ _ _)
    · rfl
  · show execVectorAccessDone s = _
    unfold execVectorAccessDone
    dsimp only
    split
    · exact absurd ‹_› (other _ _ _ _ _ _)
    · rfl

end Other

/-! ### Reports and Prompt traps (R121, R374, R387) -/

section Reports
variable {s : State}

theorem postedStoreFault_of_not_ready (waits : s.postReady s.arg.unit = false) : exec .postedStoreFault s = .next s := by
  show execPostedStoreFault s = _
  simp only [execPostedStoreFault, waits]
  split <;> rfl

theorem postedStoreFault_of_ready (ready : s.postReady s.arg.unit = true) {l : Level} {e : Exc}
    (post : (s.ctx s.arg.unit).postFault = some (l, e)) : exec .postedStoreFault s =
      .next ((s.setCtx s.arg.unit { s.ctx s.arg.unit with postFaults := (s.ctx s.arg.unit).postFaults.erase (l, e) }).trapAt
        s.arg.unit (s.ctx s.arg.unit).pc e) := by
  show execPostedStoreFault s = _
  simp only [execPostedStoreFault, post, ready]
  rfl

theorem promptTrap_of_not_ready (waits : s.promptReady s.arg.unit = false) : exec .promptTrap s = .next s := by
  show execPromptTrap s = _
  simp only [execPromptTrap, waits]
  split <;> rfl

theorem promptTrap_of_ready (ready : s.promptReady s.arg.unit = true) {i : Nat} (prompt : (s.ctx s.arg.unit).prompt = some i) :
    exec .promptTrap s = .next ((s.setCtx s.arg.unit { s.ctx s.arg.unit with prompt := none, promptBusy := true }).trapAt
      s.arg.unit (s.ctx s.arg.unit).pc { cause := 0x17, val := BitVec.ofNat 64 i }) := by
  show execPromptTrap s = _
  simp only [execPromptTrap, prompt, ready]
  rfl

end Reports

/-- Settles O51: each event by the case of its condition. -/
theorem boundaryEvents : Obligations.BoundaryEvents := by
  intro s c x
  refine ⟨fun waits => if_neg (by rw [waits]; decide), fun e l b ready first blk => ?_,
    fun e l ready first left => emulationTrip_of_left ready first left, postedStoreFault_of_not_ready,
    fun l e ready post => postedStoreFault_of_ready ready post, promptTrap_of_not_ready,
    fun i ready prompt => promptTrap_of_ready ready prompt, fun since parked => ⟨?_, ?_⟩, fun upto parked => ?_,
    fun i ra rb left sent stop parked => ?_, vsync_of_not_parked, ewait_of_not_parked, elems_of_not_parked⟩
  · obtain ⟨n, modes, key, base, entries, taken⟩ := emulationTrip_of_block ready first blk
    refine ⟨_, _, taken, rfl, fun d other => s.ctx_tripTaken_ne b e other, ?_, fun f => ?_, ?_, rfl⟩
    · rw [s.ctx_tripTaken]
    · rw [s.ctx_tripTaken, List.mem_filter]
      exact and_congr_right fun _ => by simpa using not_congr (s.sharesTrip_iff c b e f)
    · simp [emuRecord, nth]
  · have done : s.vsyncDone c = true ↔ s.drained c = true ∧ x.gstate ≠ .revoked := by simp [State.vsyncDone, x]
    rw [vsyncReturn_of_parked parked]
    simp only [show s.arg.unit = c from rfl, done]
    rfl
  · have late : s.timedOut c since = true ↔ x.btmo ≠ 0 ∧ since + x.btmo.toNat * 1024 ≤ s.now := by simp [State.timedOut, x]
    rw [vsyncTimeout_of_parked parked]
    simp only [show s.arg.unit = c from rfl, late]
    rfl
  · exact ⟨fun job => ewaitReturn_of_running parked job, fun ended => ⟨fun none => ewaitReturn_of_ended parked ended none,
      fun n k stop within lowest => ewaitReturn_of_stopped parked ended stop within lowest⟩⟩
  · intro o p base
    refine ⟨vectorRequestPacket_of_packetless parked, fun flag lost => ?_, fun q flag found => ?_, fun revoked above flag => ?_,
      vectorAccessDone_of_left parked, fun none away => ⟨fun f e stopped => ?_, fun complete => ?_⟩⟩
    · rw [vectorRequestPacket_of_packet parked flag, show s.vpacket .. = none from lost]
    · rw [vectorRequestPacket_of_packet parked flag, show s.vpacket .. = some q from found]
    · rw [vectorRequestPacket_of_packetless parked flag, State.perform_of_revoked _ revoked above]
    · rw [vectorAccessDone_of_none parked none away, stopped, State.endElems_stopped]
      rfl
    · rw [vectorAccessDone_of_none parked none away, complete, State.endElems_completed]
      rfl

end Sys2Proof.Machine
end

section
/-!
PROOFS. SUMMARY loses the settled lines (R414, R440): the state that it writes its words into is the one before the lines whose
copy has ended are Done.
-/

namespace Sys2Proof.Machine

@[simp] theorem State.physWrite_retire (vs : List Word) (s : State) (pa : Nat) : (s.physWrite pa vs).retire = s.retire := by
  induction vs generalizing s pa with
  | nil => rfl
  | cons v vs ih =>
    rw [State.physWrite, ih]
    split <;> rfl

@[simp] theorem State.answer_retire (s : State) (m : Nat) (v : Word) : (s.answer m v).retire = s.retire := by
  unfold State.answer
  split
  · rfl
  · rw [State.physWrite_retire]
    rfl

/-- SUMMARY writes into the state before the lines are settled. -/
theorem summary_of_fit {s : State} {q : List Word} {l : List (List Word)} (first : (s.settleLines.box s.settleLines.arg.unit).queue = q :: l)
    (op : cmdOp q = 0x80) (free : s.settleLines.cmdBarred s.settleLines.arg.unit q = false)
    (fits : ¬ (cmdField q 8 8 % 64 ≠ 0 ∨ cmdField q 16 4 < 37120)) : exec .summary s =
      .next ((s.physWrite (cmdField q 8 8) (s.summaryWords s.settleLines.arg.unit)).answer s.settleLines.arg.unit 1) := by
  show execSummary s = _
  simp only [execSummary, State.command1, State.command, first, op, free, if_neg fits]
  rfl

/-- A SUMMARY command of management mailbox 16. -/
def summaryCommand : List Word := [0x80, 0, 37120, 0]

/-- The reset state with that command, where the first line of a retirement has been copied. -/
def lineCopied : State :=
  let s := { State.reset with
    arg := { StepArg.zero with unit := 16 }
    retire := some { stack := 0, pos := [], copying := [(0, 0)], start := 0 } }
  s.setBox 16 { s.box 16 with queue := [summaryCommand] }

theorem retire_settleLines_lineCopied : lineCopied.settleLines.retire ≠ lineCopied.retire := by decide +kernel

/-- Refutes O58: where a line's copy has ended SUMMARY answers with the line still Copying, its words written into the state
before the line is Done, which the statement has settled. -/
theorem not_hubEvents : ¬ Obligations.HubEvents := by
  intro h
  obtain ⟨-, -, -, -, -, -, -, ⟨-, summary⟩, -⟩ := h lineCopied
  have first : (lineCopied.settleLines.box 16).queue = [summaryCommand] := by decide +kernel
  have fits : ¬ (cmdField summaryCommand 8 8 % 64 ≠ 0 ∨ cmdField summaryCommand 16 4 < 37120) := by decide +kernel
  have op : cmdOp summaryCommand = 0x80 := by decide +kernel
  have free : lineCopied.settleLines.cmdBarred 16 summaryCommand = false := by decide +kernel
  have said := (summary summaryCommand [] first).2.2 op free fits
  have unit : lineCopied.settleLines.arg.unit = 16 := by decide +kernel
  have does := summary_of_fit (s := lineCopied) (by rw [unit]; exact first) op (by rw [unit]; exact free) fits
  have same := Host.Outcome.next.inj (does.symm.trans said)
  refine retire_settleLines_lineCopied ?_
  have retired := congrArg State.retire same
  rw [State.answer_retire, State.answer_retire, State.physWrite_retire, State.physWrite_retire] at retired
  exact retired.symm

end Sys2Proof.Machine
end

section
/-!
PROOFS. The host port, requests of other modules and the trusted interfaces (R171, R172, R311, R324, R334-R336, R339, R435).
-/

namespace Sys2Proof.Machine

/-! ### Host requests (R171, R324) -/

section Host
variable {s : State} {q : HostReq} {l : List HostReq} (first : look [] s.hostq s.arg.unit = q :: l)

theorem State.hostWaits_iff (s : State) (q : HostReq) : s.hostWaits q = true ↔
    s.stalls { pa := q.pa, skew := 0, attr := 0 } = true ∨
      q.write = true ∧ s.blocked (hostWho 0) (sectorOf (memKey 0 q.pa)) = true := by
  simp [State.hostWaits]

theorem hostRequest_of_none (none : look [] s.hostq s.arg.unit = []) : exec .hostRequest s = .next s := by
  show execHostRequest s = _
  rw [execHostRequest, none]

include first

theorem hostRequest_of_waits (waits : s.hostWaits q = true) : exec .hostRequest s = .next s := by
  show execHostRequest s = _
  rw [execHostRequest, first]
  exact if_pos waits

theorem hostRequest_of_served (waits : s.hostWaits q = false) :
    exec .hostRequest s = .next ({ s with hostq := put s.hostq s.arg.unit l }.hostServe q) := by
  show execHostRequest s = _
  rw [execHostRequest, first]
  exact if_neg (by rw [waits]; decide)

end Host

section Serve
variable {t : State} {q : HostReq}

theorem State.hostServe_of_outside (outside : ¬ (t.hostReaches q.fn q.pa = true ∧ (t.inMemory q.pa = true ∨ q.pa < hbmTop))) :
    t.hostServe q = { t with out := t.out ++ [if q.write then .hostDone q.fn
      else .hostData q.fn true (List.replicate 8 0xFFFFFFFFFFFFFFFF)] } := by
  refine if_pos ?_
  cases reach : t.hostReaches q.fn q.pa <;> cases mem : t.inMemory q.pa <;> simp_all

variable (inside : t.hostReaches q.fn q.pa = true ∧ (t.inMemory q.pa = true ∨ q.pa < hbmTop))
include inside

theorem State.hostServe_of_write (write : q.write = true) : t.hostServe q =
    (let u := t.hostPut (q.fn - 1) q.mask q.pa 0 ((List.range 8).map (nth 0 q.words))
     { u with out := u.out ++ [.hostDone q.fn] }) := by
  refine (if_neg ?_).trans (if_pos write)
  cases mem : t.inMemory q.pa <;> simp_all

theorem State.hostServe_of_read (read : q.write = false) : t.hostServe q =
    (let r := t.hostDws (q.fn - 1) q.pa 8
     { r.2.2 with out := r.2.2.out ++ [.hostData q.fn r.2.1 r.1] }) := by
  refine (if_neg ?_).trans (if_neg (by rw [read]; decide))
  cases mem : t.inMemory q.pa <;> simp_all

end Serve

/-! ### Requests of other modules (R172, R311, R339) -/

/-- The place in the queue of the oldest request of a source that came over a port. -/
def State.oldest (s : State) : Nat := s.rxq.findIdx (fun q => q.port == s.arg.unit && q.source == s.arg.index)

/-- The state after a request is answered. -/
def State.remoteAnswer (s : State) (q : RemoteReq) (t : State) (c : Nat) (l : List Datum) : State :=
  State.sendVia { t with rxq := t.rxq.take s.oldest ++ t.rxq.drop (s.oldest + 1) } q.port
    [BitVec.ofNat 64 (6 + 0x100 * c), q.word 1, q.word 0] (s.routeBack (q.word 4)) l

/-- What a request's performance makes of the step. -/
def State.remoteStep (s : State) (q : RemoteReq) : RemoteEnd → Res'
  | none => .next s
  | some (t, c, l) => .next (s.remoteAnswer q t c l)

theorem remoteRequest_of_none {s : State} (none : s.rxq[s.oldest]? = none) : exec .remoteRequest s = .next s := by
  show execRemoteRequest s = _
  simp only [execRemoteRequest]
  rw [show s.rxq[List.findIdx _ s.rxq]? = _ from none]

theorem remoteRequest_of_some {s : State} {q : RemoteReq} (some : s.rxq[s.oldest]? = some q) :
    exec .remoteRequest s = s.remoteStep q (s.remoteServe q) := by
  show execRemoteRequest s = _
  simp only [execRemoteRequest]
  rw [show s.rxq[List.findIdx _ s.rxq]? = _ from some]
  dsimp only
  cases s.remoteServe q <;> rfl

section Remote
variable {s : State} {q : RemoteReq}

theorem State.remoteServe_of_away (away : ¬ ((s.inMemory q.pa = true ∨ q.pa < hbmTop) ∧ domainLocal q.pa = true)) :
    s.remoteServe q = some (s, 0x18, []) := by
  refine if_pos ?_
  cases mem : s.inMemory q.pa <;> cases own : domainLocal q.pa <;> simp_all

variable (here : (s.inMemory q.pa = true ∨ q.pa < hbmTop) ∧ domainLocal q.pa = true)
include here

theorem State.remoteServe_of_here : s.remoteServe q =
    match bits (q.word 0) 0 8 with
    | 1 => s.remoteLoad q (bits (q.word 0) 8 8)
    | 2 =>
      if bits (q.word 0) 8 8 = 8 then s.remoteWrite q (q.run [nth (Datum.of 0) q.payload 2])
      else s.remoteMerge q (.store (bits (q.word 0) 8 8) (q.word 2))
    | 3 => s.remoteMerge q (.amo (bits (q.word 0) 8 8) (bits (q.word 0) 16 8) (q.word 2) (q.word 3))
    | 5 => s.remoteWrite q q.spread
    | _ => s.remoteWrite q (q.run (q.payload.drop 6)) := by
  refine (if_neg ?_).trans rfl
  cases mem : s.inMemory q.pa <;> simp_all

theorem State.remoteServe_of_load (load : bits (q.word 0) 0 8 = 1) :
    s.remoteServe q = s.remoteLoad q (bits (q.word 0) 8 8) := by
  rw [State.remoteServe_of_here here, load]
  rfl

theorem State.remoteServe_of_writes {l : List (Nat × Datum)}
    (writes : bits (q.word 0) 0 8 = 2 ∧ bits (q.word 0) 8 8 = 8 ∧ l = q.run [nth (Datum.of 0) q.payload 2] ∨
      bits (q.word 0) 0 8 = 5 ∧ l = q.spread ∨
      bits (q.word 0) 0 8 ≠ 1 ∧ bits (q.word 0) 0 8 ≠ 2 ∧ bits (q.word 0) 0 8 ≠ 3 ∧ bits (q.word 0) 0 8 ≠ 5 ∧
        l = q.run (q.payload.drop 6)) : s.remoteServe q = s.remoteWrite q l := by
  rw [State.remoteServe_of_here here]
  obtain ⟨kind, whole, rfl⟩ | ⟨kind, rfl⟩ | ⟨k1, k2, k3, k5, rfl⟩ := writes
  · rw [kind]
    exact if_pos whole
  · rw [kind]
    rfl
  · split
    · contradiction
    · contradiction
    · contradiction
    · contradiction
    · rfl

theorem State.remoteServe_of_merges {o : MemOp}
    (merges : bits (q.word 0) 0 8 = 2 ∧ bits (q.word 0) 8 8 ≠ 8 ∧ o = MemOp.store (bits (q.word 0) 8 8) (q.word 2) ∨
      bits (q.word 0) 0 8 = 3 ∧ o = .amo (bits (q.word 0) 8 8) (bits (q.word 0) 16 8) (q.word 2) (q.word 3)) :
    s.remoteServe q = s.remoteMerge q o := by
  rw [State.remoteServe_of_here here]
  obtain ⟨kind, narrow, rfl⟩ | ⟨kind, rfl⟩ := merges
  · rw [kind]
    exact if_neg narrow
  · rw [kind]
    rfl

end Remote

section Load
variable {s : State} {q : RemoteReq} {n : Nat}

theorem State.remoteLoad_of_stalls (stalls : s.stalls { pa := q.pa, skew := 0, attr := 1 } = true) :
    s.remoteLoad q n = none := if_pos stalls

variable (runs : s.stalls { pa := q.pa, skew := 0, attr := 1 } = false)
include runs

theorem State.remoteLoad_of_noFault
    (fault : s.memFault (s.remoteWho q) { pa := q.pa, skew := 0, attr := 1 } (q.word 1) false = none) :
    s.remoteLoad q n = some (s.served (s.remoteWho q) { pa := q.pa, skew := 0, attr := 1 }
      (sectorOf (memKey 0 (q.pa / 8 * 8))) (.load n), 0, [s.datumAt (memKey 0 (q.pa / 8 * 8)) false]) := by
  simp [State.remoteLoad, runs, fault]

theorem State.remoteLoad_of_fault {e : Exc}
    (fault : s.memFault (s.remoteWho q) { pa := q.pa, skew := 0, attr := 1 } (q.word 1) false = some e) :
    s.remoteLoad q n = if e.cause = 0x21 then some (s, 0, [s.datumAt (memKey 0 (q.pa / 8 * 8)) true])
      else some (s, e.cause.toNat, []) := by
  simp [State.remoteLoad, runs, fault]

end Load

section Merge
variable {s : State} {q : RemoteReq} {o : MemOp}

/-- A doubleword that came with a request has no mark and a right check. -/
def RemoteReq.Good (q : RemoteReq) (m : Nat) : Prop :=
  (nth (Datum.of 0) q.payload m).mark = false ∧ (nth (Datum.of 0) q.payload m).synd = 0

theorem RemoteReq.firstBad_eq {m : Nat} (first : m = 2 ∨ m = 3 ∧ q.Good 2) (bad : ¬ q.Good m) :
    [2, 3].find? (fun n => (nth (Datum.of 0) q.payload n).mark || (nth (Datum.of 0) q.payload n).synd != 0) = some m := by
  have fails : ((nth (Datum.of 0) q.payload m).mark || (nth (Datum.of 0) q.payload m).synd != 0) = true := by
    cases mark : (nth (Datum.of 0) q.payload m).mark <;> simp_all [RemoteReq.Good]
  obtain rfl | ⟨rfl, mark, synd⟩ := first
  · exact List.find?_cons_of_pos (p := fun n => _) fails
  · exact (List.find?_cons_of_neg (p := fun n => _) (by rw [mark, synd]; decide)).trans (List.find?_cons_of_pos (p := fun n => _) fails)

theorem State.remoteMerge_of_mark {m : Nat} (first : m = 2 ∨ m = 3 ∧ q.Good 2)
    (mark : (nth (Datum.of 0) q.payload m).mark = true) : s.remoteMerge q o = some (s, 0x21, []) := by
  have bad := RemoteReq.firstBad_eq first (fun good => by rw [good.1] at mark; cases mark)
  simp only [State.remoteMerge, bad, mark, if_true]

/-- The kind of use that a log entry of a merged or combined doubleword names. -/
def MemOp.mergeKind : MemOp → Nat
  | .amo _ _ _ _ => 4
  | _ => 1

theorem State.remoteMerge_of_synd {m : Nat} (first : m = 2 ∨ m = 3 ∧ q.Good 2)
    (mark : (nth (Datum.of 0) q.payload m).mark = false) (synd : (nth (Datum.of 0) q.payload m).synd ≠ 0) :
    s.remoteMerge q o = some (s.mismatch o.mergeKind (s.remoteWho q).part 0 (q.pa / 8 * 8), 0x20, []) := by
  have bad := RemoteReq.firstBad_eq first (fun good => synd good.2)
  simp only [State.remoteMerge, bad, mark] <;> rfl

theorem State.remoteMerge_of_good (good2 : q.Good 2) (good3 : q.Good 3) : s.remoteMerge q o =
    match s.memAccess (s.remoteWho q) { pa := q.pa, skew := 0, attr := 1 } (q.word 1) o with
    | .value v t => some (t, 0, [.of (v <<< (8 * (q.pa % 8)))])
    | .exc e t => some (t, e.cause.toNat, [])
    | _ => none := by
  have none : [2, 3].find? (fun n =>
      (nth (Datum.of 0) q.payload n).mark || (nth (Datum.of 0) q.payload n).synd != 0) = none := by
    rw [List.find?_eq_none]
    intro m mem
    obtain rfl | rfl : m = 2 ∨ m = 3 := by simpa using mem
    · rw [good2.1, good2.2]; decide
    · rw [good3.1, good3.2]; decide
  simp only [State.remoteMerge, none] <;> rfl

end Merge

/-! ### Trusted interfaces and measurements (R334-R336, R435) -/

section Interface
variable (s : State)

theorem lockInterfaceRequest_eq : exec .lockInterfaceRequest s = .next (if 16 ≤ s.arg.unit then s
    else if s.tdispOf s.arg.unit = .unlocked then (s.setTdisp s.arg.unit .locked).say 0 [] else s.say 1 []) := by
  show execLockInterfaceRequest s = _
  simp only [execLockInterfaceRequest, apply_ite Host.Outcome.next]

theorem State.frozen_iff (p : Nat) : s.frozen p = true ↔ s.tdispOf p = .locked ∨ s.tdispOf p = .run := by
  simp [State.frozen]

theorem getDeviceInterfaceReport_eq : exec .getDeviceInterfaceReport s = .next (if 16 ≤ s.arg.unit then s
    else if s.tdispOf s.arg.unit = .locked ∨ s.tdispOf s.arg.unit = .run then s.say 0 (s.reportWords s.arg.unit)
    else s.say 1 []) := by
  show execGetDeviceInterfaceReport s = _
  simp only [execGetDeviceInterfaceReport, State.frozen_iff, apply_ite Host.Outcome.next]

theorem startInterfaceRequest_eq : exec .startInterfaceRequest s = .next (if 16 ≤ s.arg.unit then s
    else if s.tdispOf s.arg.unit = .locked then (s.setTdisp s.arg.unit .run).say 0 [] else s.say 1 []) := by
  show execStartInterfaceRequest s = _
  simp only [execStartInterfaceRequest, apply_ite Host.Outcome.next]

theorem stopInterfaceRequest_eq : exec .stopInterfaceRequest s = .next (if 16 ≤ s.arg.unit then s
    else if s.tdispOf s.arg.unit = .unlocked then s.say 0 []
    else if s.tdispOf s.arg.unit = .run ∧ s.recsIn s.arg.unit 3 ≠ [] then s.stopGangs s.arg.unit
    else ((if s.tdispOf s.arg.unit = .run then
      ((s.recsIn s.arg.unit 2).filter (fun r => (s.lrec r).saved)).foldl State.withdraw s else s).setTdisp
        s.arg.unit .unlocked).say 0 []) := by
  have empty : (!(s.recsIn s.arg.unit 3).isEmpty) = true ↔ s.recsIn s.arg.unit 3 ≠ [] := by simp
  show execStopInterfaceRequest s = _
  simp only [execStopInterfaceRequest, empty, apply_ite Host.Outcome.next]

theorem State.beginDiscard_of_running {r : Nat} (running : (s.lrec r).stopping = none) :
    s.beginDiscard r = s.setRec r { s.lrec r with stopping := some (false, 18), marked := false } := by
  simp only [State.beginDiscard, running]

theorem State.beginDiscard_of_stopping {r m : Nat} {hold : Bool} (stopping : (s.lrec r).stopping = some (hold, m)) :
    s.beginDiscard r =
      (let t := s.setRec r { s.lrec r with stopping := some (false, 18), marked := false }
       if m < 17 then t.answer m 2 else t) := by
  simp only [State.beginDiscard, stopping]

theorem State.fallToError_eq (p trigger : Nat) : s.fallToError p trigger =
    if p < 16 ∧ (s.tdispOf p = .locked ∨ s.tdispOf p = .run) then
      (let t := scrivener (s.setTdisp p .error) 0x40 p 0 0 [trigger]
       let t := (s.recsIn p 2).foldl (fun t r => t.setRec r { t.lrec r with held := true }) t
       let t := (s.recsIn p 3).foldl State.beginDiscard t
       (s.recsIn p 2).foldl State.withdraw t)
    else s := by
  simp only [State.fallToError, State.frozen_iff]

theorem ideIntegrityFailure_eq : exec .ideIntegrityFailure s = .next (s.fallToError s.arg.unit 2) := rfl

theorem lockedBarWrite_eq : exec .lockedBarWrite s =
    .next (if s.arg.unit < 16 ∧ s.arg.index < 6 ∧ s.tdispOf s.arg.unit = .unlocked then
      { s with bars := put s.bars (8 * (s.arg.unit + 1) + s.arg.index) s.arg.value }
    else s.fallToError s.arg.unit 1) := by
  show execLockedBarWrite s = _
  simp only [execLockedBarWrite, apply_ite Host.Outcome.next]

theorem spdmMeasurement_of_none (none : s.measured s.arg.index = none) :
    exec .spdmMeasurement s = .next (s.say 1 []) := by
  show execSpdmMeasurement s = _
  rw [execSpdmMeasurement, none]

theorem spdmMeasurement_of_some {l : List Word} (some : s.measured s.arg.index = some l) :
    exec .spdmMeasurement s = .next (s.say 0 (Config.sha3 l ++ Config.sign (Config.sha3 l))) := by
  show execSpdmMeasurement s = _
  rw [execSpdmMeasurement, some]

end Interface

/-! ### Links and packets (R337, R430-R432) -/

section Link
variable (s : State)

theorem flitReceive_eq : exec .flitReceive s = .next (if 12 ≤ s.arg.unit ∨ (s.dir s.arg.unit 1).up = false then s
    else if s.arg.flag = true ∧ s.arg.index = (s.dir s.arg.unit 1).seq then
      State.payloadIn { s.setDir s.arg.unit 1 { s.dir s.arg.unit 1 with seq := ((s.dir s.arg.unit 1).seq + 1) % 0x10000 } with
        out := s.out ++ [.ack s.arg.unit (((s.dir s.arg.unit 1).seq + 1) % 0x10000)] } s.arg.unit s.arg.data
    else { s with out := s.out ++ [.nak s.arg.unit (s.dir s.arg.unit 1).seq] }) := by
  show execFlitReceive s = _
  simp only [execFlitReceive, Bool.or_eq_true, decide_eq_true_eq, Bool.not_eq_true', Bool.and_eq_true, beq_iff_eq,
    apply_ite Host.Outcome.next] <;> rfl

/-- A packet as the link controller takes it from a port. -/
def packetOf (p : Nat) (l : List Datum) : RemoteReq :=
  { port := p, source := bits (nth (Datum.of 0) l 4).v 0 20, payload := l }

variable {s} {p : Nat} {l : List Datum}
section Own
variable (own : ¬ (bits (nth (Datum.of 0) l 4).v 40 1 = 1 ∧ bits (nth (Datum.of 0) l 4).v 20 20 ≠ s.modId.toNat))
include own

theorem State.packetIn_of_request (request : (packetOf p l).kind ≤ 5) :
    s.packetIn p l = { s with rxq := s.rxq ++ [packetOf p l] } :=
  (if_neg own).trans (if_pos (decide_eq_true request))

theorem State.packetIn_of_reply (reply : (packetOf p l).kind = 6) : s.packetIn p l =
    if s.pend.any (fun e => e.back.isNone && e.answered (packetOf p l)) then
      { s.settlePend true (packetOf p l) with inbox := s.inbox ++ [packetOf p l] } else s := by
  have request : ¬ decide ((packetOf p l).kind ≤ 5) = true := by rw [reply]; decide
  exact (if_neg own).trans ((if_neg request).trans (if_pos reply))

theorem State.packetIn_of_message (message : 6 < (packetOf p l).kind) : s.packetIn p l =
    if s.staleRound (packetOf p l) then s else { s with inbox := s.inbox ++ [packetOf p l] } := by
  have request : ¬ decide ((packetOf p l).kind ≤ 5) = true := by rw [decide_eq_true_eq]; omega
  exact (if_neg own).trans ((if_neg request).trans (if_neg (Nat.ne_of_gt message)))

end Own

theorem State.awaited_iff (s : State) (q : RemoteReq) : s.pend.any (fun e => e.back.isNone && e.answered q) = true ↔
    ∃ p ∈ s.pend, p.back = none ∧ p.answered q = true := by
  simp

theorem State.staleRound_iff (s : State) (q : RemoteReq) : s.staleRound q = true ↔
    (q.word 1).toNat < (s.group (bits (q.word 0) 8 8)).round ∨
      (q.word 1).toNat = (s.group (bits (q.word 0) 8 8)).round ∧ (s.group (bits (q.word 0) 8 8)).running = none := by
  simp [State.staleRound]

variable (s)

theorem acknowledgement_eq : exec .acknowledgement s = .next (if 12 ≤ s.arg.unit then s
    else (s.setDir s.arg.unit 0 ((s.dir s.arg.unit 0).freeBelow s.arg.index)).pump s.arg.unit) := by
  show execAcknowledgement s = _
  simp only [execAcknowledgement, apply_ite Host.Outcome.next]

theorem negativeAcknowledgement_eq : exec .negativeAcknowledgement s =
    (let t := s.replay s.arg.unit s.arg.index
     let l := t.dir s.arg.unit 0
     .next (if 12 ≤ s.arg.unit ∨ (s.dir s.arg.unit 0).up = false then s else if l.buf = [] then t
       else if l.replays < 7 then t.setDir s.arg.unit 0 { l with replays := l.replays + 1 }
       else t.setDir s.arg.unit 0 { l with replays := 0, st := .retrain (if l.st = .up8 then 8 else 16) })) := by
  show execNegativeAcknowledgement s = _
  simp only [execNegativeAcknowledgement, Bool.or_eq_true, decide_eq_true_eq, Bool.not_eq_true', List.isEmpty_iff,
    apply_ite Host.Outcome.next, Nat.succ_lt_succ_iff, show (8 : Nat) = 7 + 1 from rfl]

end Link

/-! ### Lanes (R430) -/

section Lanes
variable {s : State}

/-- A lane that is named does not exist, lies in a direction that is down, or is lost already. -/
def State.laneMoot (s : State) : Prop :=
  12 ≤ s.arg.unit ∨ 2 ≤ s.arg.value.toNat ∨ 16 ≤ s.arg.index ∨ (s.dir s.arg.unit s.arg.value.toNat).isDown = true ∨
    s.arg.index ∈ (s.dir s.arg.unit s.arg.value.toNat).lost

theorem laneLost_of_moot (moot : s.laneMoot) : exec .laneLost s = .next s := by
  show execLaneLost s = _
  refine if_pos ?_
  rw [List.contains_iff_mem]
  exact moot

/-- The state after a lane's loss is recorded. -/
def State.laneLogged (s : State) : State := s.portRecord 0x20 s.arg.unit [s.arg.index, s.arg.value.toNat]

/-- The direction that has lost the lane too. -/
def State.laneDir (s : State) : LinkDir :=
  { s.dir s.arg.unit s.arg.value.toNat with lost := setIns (s.dir s.arg.unit s.arg.value.toNat).lost s.arg.index }

theorem State.lostIn_iff (s : State) (h : Nat) : s.laneDir.lost.any (fun k => laneHalf k == h) = true ↔
    ∃ k ∈ s.laneDir.lost, k / 8 = h := by
  simp [laneHalf]

variable (valid : ¬ s.laneMoot)
include valid

theorem laneLost_of_valid : exec .laneLost s =
    (let p := s.arg.unit
     let d := s.arg.value.toNat
     let l := s.dir p d
     let h := 1 - laneHalf s.arg.index
     if !l.spareUsed then
       .next ((s.laneLogged.setDir p d { l with
         spareUsed := true
         st := .retrain (match l.st with
           | .retrain t => t
           | .up8 => 8
           | _ => 16) }).portRecord 0x21 p [s.arg.index, d])
     else if l.st = .up8 then
       .next (if laneHalf s.arg.index = l.half then s.laneLogged.goDown p d s.laneDir else s.laneLogged.setDir p d s.laneDir)
     else if s.laneDir.lost.any (fun k => laneHalf k == h) then .next (s.laneLogged.goDown p d s.laneDir)
     else
       let t := s.laneLogged.setDir p d { s.laneDir with half := h, st := .retrain 8 }
       .next (if l.st = .retrain 8 then t else t.portRecord 0x22 p [h])) := by
  show execLaneLost s = _
  refine (if_neg ?_).trans rfl
  rw [List.contains_iff_mem]
  exact valid

theorem laneLost_of_spare (spare : (s.dir s.arg.unit s.arg.value.toNat).spareUsed = false) : exec .laneLost s =
    .next ((s.laneLogged.setDir s.arg.unit s.arg.value.toNat { s.dir s.arg.unit s.arg.value.toNat with
      spareUsed := true
      st := .retrain (match (s.dir s.arg.unit s.arg.value.toNat).st with
        | .retrain g => g
        | .up8 => 8
        | _ => 16) }).portRecord 0x21 s.arg.unit [s.arg.index, s.arg.value.toNat]) :=
  (laneLost_of_valid valid).trans (if_pos (by rw [spare]; rfl))

section Used
variable (used : (s.dir s.arg.unit s.arg.value.toNat).spareUsed = true)
include used

theorem laneLost_of_up8 (up8 : (s.dir s.arg.unit s.arg.value.toNat).st = .up8) : exec .laneLost s =
    .next (if s.arg.index / 8 = (s.dir s.arg.unit s.arg.value.toNat).half then
      s.laneLogged.goDown s.arg.unit s.arg.value.toNat s.laneDir
    else s.laneLogged.setDir s.arg.unit s.arg.value.toNat s.laneDir) :=
  (laneLost_of_valid valid).trans ((if_neg (by rw [used]; decide)).trans (if_pos up8))

theorem laneLost_of_bothHalves (up8 : (s.dir s.arg.unit s.arg.value.toNat).st ≠ .up8)
    (both : ∃ k ∈ s.laneDir.lost, k / 8 = 1 - s.arg.index / 8) :
    exec .laneLost s = .next (s.laneLogged.goDown s.arg.unit s.arg.value.toNat s.laneDir) :=
  (laneLost_of_valid valid).trans ((if_neg (by rw [used]; decide)).trans ((if_neg up8).trans
    (if_pos ((s.lostIn_iff _).2 both))))

theorem laneLost_of_oneHalf (up8 : (s.dir s.arg.unit s.arg.value.toNat).st ≠ .up8)
    (one : ∀ k ∈ s.laneDir.lost, k / 8 ≠ 1 - s.arg.index / 8) : exec .laneLost s =
    (let t := s.laneLogged.setDir s.arg.unit s.arg.value.toNat
       { s.laneDir with half := 1 - s.arg.index / 8, st := .retrain 8 }
     .next (if (s.dir s.arg.unit s.arg.value.toNat).st = .retrain 8 then t
       else t.portRecord 0x22 s.arg.unit [1 - s.arg.index / 8])) :=
  (laneLost_of_valid valid).trans ((if_neg (by rw [used]; decide)).trans ((if_neg up8).trans
    (if_neg fun both => have ⟨k, mem, half⟩ := (s.lostIn_iff _).1 both; one k mem half)))

end Used

end Lanes

section Retrain
variable {s : State}

theorem retrainDone_of_moot (moot : 12 ≤ s.arg.unit ∨ 2 ≤ s.arg.index ∨
    ∀ g, (s.dir s.arg.unit s.arg.index).st ≠ .retrain g) : exec .retrainDone s = .next s := by
  show execRetrainDone s = _
  simp only [execRetrainDone]
  split
  · rfl
  · next valid =>
    split
    · next g st => exact absurd moot (by grind)
    · rfl

theorem retrainDone_of_retrain {g : Nat} (port : s.arg.unit < 12) (dir : s.arg.index < 2)
    (st : (s.dir s.arg.unit s.arg.index).st = .retrain g) : exec .retrainDone s =
    (let l := s.dir s.arg.unit s.arg.index
     let t := s.setDir s.arg.unit s.arg.index { l with st := if g = 8 then .up8 else .up16, fails := 0, replays := 0 }
     .next (if s.arg.flag then
       (if s.arg.index = 0 then t.replay s.arg.unit s.arg.value.toNat else { t with out := t.out ++ [.ack s.arg.unit l.seq] })
       else if l.fails < 2 then s.setDir s.arg.unit s.arg.index { l with fails := l.fails + 1 }
       else s.goDown s.arg.unit s.arg.index { l with fails := 0 })) := by
  show execRetrainDone s = _
  have few : (s.dir s.arg.unit s.arg.index).fails + 1 < 3 ↔ (s.dir s.arg.unit s.arg.index).fails < 2 := by omega
  refine (if_neg (by omega)).trans ?_
  simp only [st, few, ← apply_ite Host.Outcome.next]

end Retrain

/-! ### Collectives (R342, R343, R433, R434) -/

section Round
variable {s : State}

theorem collective_of_idle (idle : (s.group s.arg.unit).running = none) : exec .collectiveRoundDone s = .next s ∧
    exec .collectiveTimeout s = .next s ∧ exec .abortMessage s = .next s := by
  refine ⟨?_, ?_, ?_⟩
  · show execCollectiveRoundDone s = _
    simp only [execCollectiveRoundDone, idle]
  · show execCollectiveTimeout s = _
    simp only [execCollectiveTimeout, idle]
  · show execAbortMessage s = _
    simp only [execAbortMessage, idle]

variable {r : Round}

section Running
variable (running : (s.group s.arg.unit).running = some r)
include running

theorem collectiveRoundDone_of_unsent (unsent : r.own = none) : exec .collectiveRoundDone s =
    if collKind r.desc = 3 then .next (s.contribute s.arg.unit r [])
    else match s.ownPart (s.group s.arg.unit) r.desc with
      | .error (k, t) => .next (t.abortFirst s.arg.unit r.desc k)
      | .ok own => .next (s.contribute s.arg.unit r own) := by
  show execCollectiveRoundDone s = _
  simp only [execCollectiveRoundDone, running, unsent] <;> rfl

theorem collectiveRoundDone_of_barrier (unsent : r.own = none) (barrier : collKind r.desc = 3) :
    exec .collectiveRoundDone s = .next (s.contribute s.arg.unit r []) := by
  rw [collectiveRoundDone_of_unsent running unsent, if_pos barrier]

theorem collectiveRoundDone_of_badPart (unsent : r.own = none) (data : collKind r.desc ≠ 3) {k : BitVec 8} {t : State}
    (bad : s.ownPart (s.group s.arg.unit) r.desc = .error (k, t)) :
    exec .collectiveRoundDone s = .next (t.abortFirst s.arg.unit r.desc k) := by
  rw [collectiveRoundDone_of_unsent running unsent, if_neg data, bad]

theorem collectiveRoundDone_of_part (unsent : r.own = none) (data : collKind r.desc ≠ 3) {own : List Datum}
    (part : s.ownPart (s.group s.arg.unit) r.desc = .ok own) :
    exec .collectiveRoundDone s = .next (s.contribute s.arg.unit r own) := by
  rw [collectiveRoundDone_of_unsent running unsent, if_neg data, part]

theorem collectiveRoundDone_of_sent (sent : r.own ≠ none) :
    exec .collectiveRoundDone s = .next (s.closeRound s.arg.unit r) := by
  obtain ⟨own, sent⟩ := Option.ne_none_iff_exists'.1 sent
  show execCollectiveRoundDone s = _
  simp only [execCollectiveRoundDone, running, sent]

theorem collectiveTimeout_of_running : exec .collectiveTimeout s =
    .next (if s.memberCut (s.group s.arg.unit) then (s.partialResult s.arg.unit r).abortFirst s.arg.unit r.desc 0x18
      else if r.since + 3300 * collTimeout r.desc ≤ s.now then
        (s.partialResult s.arg.unit r).abortFirst s.arg.unit r.desc 0x15 else s) := by
  show execCollectiveTimeout s = _
  simp only [execCollectiveTimeout, running, apply_ite Host.Outcome.next]

end Running

/-- A message is an abort of the running round of group `n` (R433). -/
def State.abortsRound (s : State) (n : Nat) (q : RemoteReq) : Prop :=
  q.kind = 7 ∧ bits (q.word 0) 8 8 = n ∧ (q.word 1).toNat = (s.group n).round

theorem State.abortsRound_iff (s : State) (n : Nat) (q : RemoteReq) : (q.kind == 7 && bits (q.word 0) 8 8 == n &&
    (q.word 1).toNat == (s.group n).round) = true ↔ s.abortsRound n q := by
  simp [State.abortsRound, and_assoc]

theorem abortMessage_of_none (running : (s.group s.arg.unit).running = some r)
    (none : ∀ q ∈ s.inbox, ¬ s.abortsRound s.arg.unit q) : exec .abortMessage s = .next s := by
  have absent : s.inbox.find? (fun q => q.kind == 7 && bits (q.word 0) 8 8 == s.arg.unit &&
      (q.word 1).toNat == (s.group s.arg.unit).round) = .none :=
    List.find?_eq_none.2 fun q mem => (s.abortsRound_iff _ q).not.2 (none q mem)
  show execAbortMessage s = _
  simp only [execAbortMessage, running, absent]

theorem abortMessage_of_first (running : (s.group s.arg.unit).running = some r) {l m : List RemoteReq} {q : RemoteReq}
    (inbox : s.inbox = l ++ q :: m) (before : ∀ p ∈ l, ¬ s.abortsRound s.arg.unit p) (aborts : s.abortsRound s.arg.unit q) :
    exec .abortMessage s =
    (let k := BitVec.ofNat 8 (bits (q.word 0) 16 8)
     .next (scrivener ((s.partialResult s.arg.unit r).endRound s.arg.unit r.desc k) 0x30 (s.group s.arg.unit).part 0 0
       [k.toNat, bits (q.word 0) 32 32])) := by
  have found : s.inbox.find? (fun q => q.kind == 7 && bits (q.word 0) 8 8 == s.arg.unit &&
      (q.word 1).toNat == (s.group s.arg.unit).round) = some q :=
    List.find?_eq_some_iff_append.2 ⟨(s.abortsRound_iff _ q).2 aborts, l, m, inbox, fun p mem => by
      rw [Bool.not_eq_true', ← Bool.not_eq_true]
      exact (s.abortsRound_iff _ p).not.2 (before p mem)⟩
  show execAbortMessage s = _
  simp only [execAbortMessage, running, found]

variable {n : Nat}

theorem State.contribute_of_silent {own : List Datum} (silent : collKind r.desc = 2 ∧
      s.ownRank (s.group n) ≠ collRoot r.desc ∨
      ∀ m ∈ (s.group n).members, m = s.memberId.toNat ∨ s.reachable m = false) :
    s.contribute n r own =
      { s with groups := put s.groups n { s.group n with running := some { r with own := some own } } } := by
  obtain leaf | alone := silent
  · exact if_pos leaf
  · have nobody : (s.group n).members.filter (fun m => m != s.memberId.toNat && s.reachable m) = [] :=
      List.filter_eq_nil_iff.2 fun m mem => by have := alone m mem; simp; grind
    simp only [State.contribute, nobody, List.foldl_nil, ite_self]

theorem State.closeRound_of_open (part : s.roundFull n r = false) : s.closeRound n r = s := by
  simp [State.closeRound, part]

section Full
variable (full : s.roundFull n r = true)
include full

theorem State.closeRound_of_barrier (barrier : collKind r.desc = 3) : s.closeRound n r = s.endRound n r.desc 0 := by
  simp [State.closeRound, full, barrier]

theorem State.closeRound_of_full (data : collKind r.desc ≠ 3) : s.closeRound n r =
    match s.contribBad (s.group n) r.desc (s.contributions n r), s.collTrouble r.desc with
    | some (k, t), _ => t.abortFirst n r.desc k
    | none, some k => s.abortFirst n r.desc k
    | none, none => (s.collWrite (s.group n).part r.desc (collResult r.desc (s.contributions n r))
        (List.range (dwsOf (collLen r.desc)))).endRound n r.desc 0 := by
  refine (if_neg (by rw [full]; decide)).trans ((if_neg data).trans rfl)

end Full

theorem State.contribution_from_inbox {rank k : Nat} {x : Datum} (other : rank ≠ s.ownRank (s.group n))
    (some : s.contribution n r rank k = some x) : ∃ q ∈ s.inbox, q.kind = 8 ∧ bits (q.word 0) 8 8 = n ∧
      bits (q.word 0) 32 32 = rank ∧ (q.word 1).toNat = (s.group n).round ∧ (q.word 2).toNat ≤ k ∧
      x = q.datum (k - (q.word 2).toNat) := by
  rw [State.contribution] at some
  simp only [if_neg other, Option.map_eq_some_iff] at some
  obtain ⟨q, found, rfl⟩ := some
  have meets := List.find?_some found
  simp only [RemoteReq.contributes, Bool.and_eq_true, beq_iff_eq, decide_eq_true_eq] at meets
  obtain ⟨⟨⟨⟨⟨kind, group⟩, rank⟩, round⟩, first⟩, -⟩ := meets
  exact ⟨q, List.mem_of_find?_eq_some found, kind, group, rank, round, first, rfl⟩

end Round

/-! ### The obligation -/

/-- A request is answered with what its performance gives. -/
theorem remoteRequest_of_answer {s : State} {q : RemoteReq} {t : State} {c : Nat} {l : List Datum}
    (some : s.rxq[s.oldest]? = some q) (answer : s.remoteServe q = .some (t, c, l)) :
    exec .remoteRequest s = .next (s.remoteAnswer q t c l) := by
  rw [remoteRequest_of_some some, answer]
  rfl

theorem remoteRequest_of_wait {s : State} {q : RemoteReq} (some : s.rxq[s.oldest]? = some q)
    (wait : s.remoteServe q = none) : exec .remoteRequest s = .next s := by
  rw [remoteRequest_of_some some, wait]
  rfl

/-- Settles O59: each request, message and link event by the case of its condition. -/
theorem hostAndFabricEvents : Obligations.HostAndFabricEvents := by
  intro s f n
  refine ⟨fun q => rfl, hostRequest_of_none, ?_, ⟨remoteRequest_of_none, fun q at_ => ?_⟩,
    ?_, flitReceive_eq s, ?_, s.staleRound_iff, fun d l => rfl, fun p => ?_,
    acknowledgement_eq s, negativeAcknowledgement_eq s, ?_, ⟨retrainDone_of_moot, fun g => retrainDone_of_retrain⟩, ?_⟩
  · intro q l first t waits yes sent
    have runs (h : ¬ waits) : s.hostWaits q = false := Bool.eq_false_iff.2 ((s.hostWaits_iff q).not.2 h)
    refine ⟨fun h => hostRequest_of_waits first ((s.hostWaits_iff q).2 h), fun h outside => ?_, fun h inside write => ?_,
      fun h inside read => ?_⟩
    · rw [hostRequest_of_served first (runs h), State.hostServe_of_outside outside]
    · rw [hostRequest_of_served first (runs h), State.hostServe_of_write inside write]
    · rw [hostRequest_of_served first (runs h), State.hostServe_of_read inside read]
  · intro reply k w here who tr key got
    refine ⟨fun away => remoteRequest_of_answer at_ (State.remoteServe_of_away away), fun h load => ?_,
      fun l h writes => ?_, fun o h merges => ?_⟩
    · have serve := State.remoteServe_of_load h load
      refine ⟨fun stalls => ?_, fun runs fault => ?_, fun e runs fault => ?_⟩
      · exact remoteRequest_of_wait at_ (serve.trans (State.remoteLoad_of_stalls stalls))
      · exact remoteRequest_of_answer at_ (serve.trans (State.remoteLoad_of_noFault runs fault))
      · rw [remoteRequest_of_some at_, serve, State.remoteLoad_of_fault runs fault]
        split <;> rfl
    · have serve := State.remoteServe_of_writes h writes
      exact ⟨fun wait => remoteRequest_of_wait at_ (serve.trans wait),
        fun t c d answer => remoteRequest_of_answer at_ (serve.trans answer)⟩
    · have serve := State.remoteServe_of_merges h merges
      have kind : o.mergeKind = if k = 3 then 4 else 1 := by
        obtain ⟨two, -, rfl⟩ | ⟨three, rfl⟩ := merges
        · rw [two]; rfl
        · rw [three]; rfl
      refine ⟨fun m first mark => ?_, fun m first mark synd => ?_, fun good2 good3 => ?_⟩
      · exact remoteRequest_of_answer at_ (serve.trans (State.remoteMerge_of_mark first mark))
      · rw [← kind]
        exact remoteRequest_of_answer at_ (serve.trans (State.remoteMerge_of_synd first mark synd))
      · have merge := State.remoteMerge_of_good (s := s) (o := o) good2 good3
        refine ⟨fun v t value => ?_, fun e t fault => ?_, fun noValue noFault => ?_⟩
        · exact remoteRequest_of_answer at_ (serve.trans (merge.trans (by rw [value])))
        · exact remoteRequest_of_answer at_ (serve.trans (merge.trans (by rw [fault])))
        · refine remoteRequest_of_wait at_ (serve.trans (merge.trans ?_))
          split
          · next v t value => exact absurd value (noValue v t)
          · next e t fault => exact absurd fault (noFault e t)
          · rfl
  · intro say set st saved
    refine ⟨lockInterfaceRequest_eq s, getDeviceInterfaceReport_eq s, startInterfaceRequest_eq s, stopInterfaceRequest_eq s,
      ⟨fun r => ⟨s.beginDiscard_of_running, fun hold m => s.beginDiscard_of_stopping⟩, ?_, ?_⟩,
      spdmMeasurement_of_none s, fun l => spdmMeasurement_of_some s⟩
    · exact (ideIntegrityFailure_eq s).trans (congrArg _ (s.fallToError_eq f 2))
    · exact (lockedBarWrite_eq s).trans (by rw [State.fallToError_eq]; rfl)
  · intro l route q awaited own
    refine ⟨State.packetIn_of_request own, fun reply unasked => ?_, fun reply asked => ?_, State.packetIn_of_message own⟩
    · exact (State.packetIn_of_reply own reply).trans (if_neg ((s.awaited_iff q).not.2 unasked))
    · exact (State.packetIn_of_reply own reply).trans (if_pos ((s.awaited_iff q).2 asked))
  · refine ⟨fun q back => ?_, fun back => ?_⟩ <;> simp only [State.cutPend, back]
  · exact ⟨laneLost_of_moot, laneLost_of_spare, fun valid used => ⟨laneLost_of_up8 valid used,
      laneLost_of_bothHalves valid used, laneLost_of_oneHalf valid used⟩⟩
  · refine ⟨collective_of_idle, fun r running => ?_⟩
    refine ⟨collectiveRoundDone_of_barrier running, fun unsent data => ⟨fun k t => collectiveRoundDone_of_badPart running unsent data,
      fun own => collectiveRoundDone_of_part running unsent data⟩, fun own => State.contribute_of_silent, fun sent part => ?_,
      fun sent full barrier => ?_, fun sent full data => ⟨fun k t bad => ?_, fun k good trouble => ?_, fun good fits => ?_⟩,
      fun rank k x => State.contribution_from_inbox, collectiveTimeout_of_running running,
      abortMessage_of_none running, fun l q m => abortMessage_of_first running⟩
    · rw [collectiveRoundDone_of_sent running sent, State.closeRound_of_open part]
    · rw [collectiveRoundDone_of_sent running sent, State.closeRound_of_barrier full barrier]
    · rw [collectiveRoundDone_of_sent running sent, State.closeRound_of_full full data, bad]
    · rw [collectiveRoundDone_of_sent running sent, State.closeRound_of_full full data, good, trouble]
    · rw [collectiveRoundDone_of_sent running sent, State.closeRound_of_full full data, good, fits]

end Sys2Proof.Machine
end
